-- ==== Sys2Proof/Word.lean ====
section
/-!
DEFINITION. Word.lean: the word types of the model and their plainest arithmetic (R15: little-endian
multi-byte fields, bit ranges written most-significant bit first).
-/
namespace Sys2Proof

/-- One byte. -/
abbrev Byte := BitVec 8

/-- A 32-bit word, the unit of descriptors, images and entries (R85, R139, R142). -/
abbrev Word := BitVec 32

/-- A 64-bit word: results, stamps, addresses (R142). -/
abbrev DWord := BitVec 64

/-- The byte string type of payloads, images and packets. -/
abbrev Bytes := List Byte

/-- A counter of `w` bits that saturates at all ones instead of wrapping (R56, R123, R129). -/
def satInc {w : Nat} (c : BitVec w) : BitVec w :=
  if c = BitVec.allOnes w then c else c + 1

/-- A saturating addition on a counter of `w` bits. -/
def satAdd {w : Nat} (c : BitVec w) (n : Nat) : BitVec w :=
  BitVec.ofNat w (min (c.toNat + n) (2 ^ w - 1))

end Sys2Proof
end

