-- ==== Sys2Proof/Syntax.lean ====
section
/-!
DEFINITION. Syntax.lean: the commands of the block, one constructor for each row of spec/opcode_table.json, in the
table's order. The first operand `t` of every constructor is the GTC tick at which the command or event reaches the
device (R71); a host command carries its framing (R139) in `c : Cmd`.
-/
namespace Sys2Proof

/-- A phase value (R64), three words as they stand in memory. -/
structure PhaseValue where
  w0 : Word
  w1 : Word
  w2 : Word
  deriving DecidableEq, Repr

/-- Where a command comes from (R151): an entry of a submission queue, the admin mailbox of a function, or the
Oxnus firmware itself. -/
inductive CmdSource where
  | queue (sq : BitVec 18)
  | mailbox (fn : Nat)
  | firmware
  deriving DecidableEq, Repr

/-- The name of a command: its source and its command_id (R141). -/
structure CmdKey where
  src : CmdSource
  id : BitVec 16
  deriving DecidableEq, Repr

/-- The framing of a host command (R139): its name, its quiet and expert bits and its deadline. -/
structure Cmd where
  key : CmdKey
  quiet : Bool
  expert : Bool
  deadline : Option PhaseValue
  deriving DecidableEq, Repr

/-- What a scratchpad access detected (R404, R409–R411, R414): a corrected single bit, a weight-class double bit, a CRC mismatch of the
weight tile that is being written, an activation-class parity error, a tag or pointer parity error, a word outside every enabled region. -/
inductive DetectKind where
  | corrected | weight | crc | parity | tag | outside
  deriving DecidableEq, Repr

/-- How a DMA transfer ends: its last write accepted, an uncorrectable error at a byte offset of its data (R417), or the
host's Unsupported Request or Completer Abort (R678). -/
inductive DmaEnd where
  | done | uncorrectable (offset : Nat) | refused
  deriving DecidableEq, Repr

/-- The commands and events of the Oxnus, one constructor for each row of the operation table. -/
inductive Instr where
  /-- IDENTIFY (R162): w5 selector. -/
  | identify (t : Nat) (c : Cmd) (selector : Word)
  /-- GET_HEALTH (R162). -/
  | getHealth (t : Nat) (c : Cmd)
  /-- ASYNC_EVENT_REQUEST (R156, R162): w5 session id. -/
  | asyncEventRequest (t : Nat) (c : Cmd) (session : Word)
  /-- OPEN_SESSION (R150, R163): share weight, queue limits (0: none), memory quota in bytes. -/
  | openSession (t : Nat) (c : Cmd) (share maxSq maxCq : BitVec 16) (quota : DWord)
  /-- CLOSE_SESSION (R152, R163). -/
  | closeSession (t : Nat) (c : Cmd) (session : Word)
  /-- SET_SHARE (R163). -/
  | setShare (t : Nat) (c : Cmd) (session : Word) (share : BitVec 16)
  /-- GET_COUNTERS (R163, R532): destination window and offset. -/
  | getCounters (t : Nat) (c : Cmd) (session window : Word) (offset : DWord)
  /-- CREATE_CQ (R163). -/
  | createCq (t : Nat) (c : Cmd) (session : Word) (ring : DWord) (depth : BitVec 17) (inDevice : Bool)
      (vector : BitVec 11) (coalCount : BitVec 8) (coalTime : BitVec 10)
  /-- DELETE_CQ (R163). -/
  | deleteCq (t : Nat) (c : Cmd) (cq : BitVec 16)
  /-- CREATE_SQ (R163). -/
  | createSq (t : Nat) (c : Cmd) (session : Word) (ring : DWord) (depth : BitVec 17) (anyId inDevice : Bool)
      (cq : BitVec 16) (wanted : BitVec 18) (part : BitVec 8) (cls : BitVec 2)
  /-- DELETE_SQ (R163, R164). -/
  | deleteSq (t : Nat) (c : Cmd) (sq : BitVec 18)
  /-- ABORT (R163, R164). -/
  | abort (t : Nat) (c : Cmd) (sq : BitVec 18) (cmd : BitVec 16)
  /-- ETCH_STAGE (R166): window and offset of the descriptor. -/
  | etchStage (t : Nat) (c : Cmd) (window : Word) (offset : DWord)
  /-- ETCH_ARM (R96, R166). -/
  | etchArm (t : Nat) (c : Cmd) (etch : BitVec 16)
  /-- ETCH_STAGE_ARM (R166, R168). -/
  | etchStageArm (t : Nat) (c : Cmd) (window : Word) (offset : DWord)
  /-- ETCH_ABORT (R116, R166). -/
  | etchAbort (t : Nat) (c : Cmd) (etch : BitVec 16)
  /-- ETCH_QUERY (R166). -/
  | etchQuery (t : Nat) (c : Cmd) (etch : BitVec 16)
  /-- ETCH_ARM_INSTANT (R97): the etch reaches the armed table. -/
  | etchArmInstant (t : Nat) (etch : Nat)
  /-- ABORT_INSTANT (R116): the abort that command `cmd` asked for takes effect. -/
  | abortInstant (t : Nat) (cmd : CmdKey)
  /-- ETCH_COMMIT (R100): the commit point matches. -/
  | etchCommit (t : Nat) (point : PhaseValue)
  /-- FALLBACK_ARM_DEADLINE (R115): the fallback's arm deadline matches. -/
  | fallbackArmDeadline (t : Nat) (etch : Nat)
  /-- DEADLINE_MATCH (R268): the deadline of the outstanding command `cmd` arrives. -/
  | deadlineMatch (t : Nat) (cmd : CmdKey)
  /-- PHASE_EDGE (R41, R53): a qualifying edge of the input that phase source `source` follows. -/
  | phaseEdge (t : Nat) (source : Nat)
  /-- LIDAR_INDEX_PULSE (R40). -/
  | lidarIndexPulse (t : Nat) (source : Nat)
  /-- QUAD_STATE_CHANGE (R704): encoder input `enc` now reads A and B as given. -/
  | quadStateChange (t : Nat) (enc : Nat) (a b : Bool)
  /-- ENC_INDEX_EDGE (R704): an index edge on ENCn_Z. -/
  | encIndexEdge (t : Nat) (enc : Nat)
  /-- SERIAL_ENC_REPLY (R705, R707): the reply whose start bit arrived at GTC `startAt`, its 56 data bits and its stop
  bit. -/
  | serialEncReply (t : Nat) (enc startAt : Nat) (data : BitVec 56) (stop : Bool)
  /-- SERIAL_REPLY_TIMEOUT (R707). -/
  | serialReplyTimeout (t : Nat) (enc : Nat)
  /-- PHASE_SOURCE_STALL (R49). -/
  | phaseSourceStall (t : Nat) (source : Nat)
  /-- MOTION_CYCLE_SYNC0 (R298): SYNC0 starts a motion cycle. -/
  | motionCycleSync0 (t : Nat)
  /-- MNET_FRAME_TRANSMIT (R298, R695): the Shell transmits the cycle's frame. -/
  | mnetFrameTransmit (t : Nat)
  /-- MNET_FRAME_RETURN (R298, R326, R694): the frame returns with its input image and working counter;
  `lineBreak` tells that it returned on the port it left from (R694), `badFcs` that its check sequence failed (R328). -/
  | mnetFrameReturn (t : Nat) (input : Bytes) (workingCounter : BitVec 16) (lineBreak badFcs : Bool)
  /-- MNET_RX_BOUND_EXPIRY (R328): rx_bound passes. -/
  | mnetRxBoundExpiry (t : Nat)
  /-- MISS_LIMIT_REACHED (R328). -/
  | missLimitReached (t : Nat)
  /-- SERVO_SAMPLE (R303): the read instant and evaluation of one channel. -/
  | servoSample (t : Nat) (channel : Nat)
  /-- FOLLOWING_ERROR_FAULT (R319, R322). -/
  | followingErrorFault (t : Nat) (channel : Nat)
  /-- ENABLING_TIMEOUT (R321). -/
  | enablingTimeout (t : Nat) (channel : Nat)
  /-- XCHECK_FAULT (R324). -/
  | xcheckFault (t : Nat) (channel : Nat)
  /-- PAIR_LOCKSTEP_MISMATCH (R330). -/
  | pairLockstepMismatch (t : Nat) (pair : Nat)
  /-- CHANNEL_MOVE (R329): a channel moves to another pair. -/
  | channelMove (t : Nat) (channel pair : Nat)
  /-- SAFETY_CONNECTION_FAULT (R696): a safety connection to a drive of the channel leaves its data state. -/
  | safetyConnectionFault (t : Nat) (connection : Nat)
  /-- HIF_DOORBELL (R131, R135): a 64-bit write of the doorbell register of function `fn`. -/
  | hifDoorbell (t : Nat) (fn : Nat) (value : DWord)
  /-- HIF_CQ_HEAD (R132, R751): a 64-bit write of the completion-queue head register. -/
  | hifCqHead (t : Nat) (fn : Nat) (value : DWord)
  /-- MAILBOX_DOORBELL (R147): the host has written `entry` to HIF_MBX_CMD and writes HIF_MBX_DOORBELL. -/
  | mailboxDoorbell (t : Nat) (fn : Nat) (entry : List Word)
  /-- BAR0_BAD_ACCESS (R127): a BAR0 access of a size or alignment that BAR0 does not accept. -/
  | bar0BadAccess (t : Nat) (fn : Nat) (write : Bool) (offset size : Nat)
  /-- BAR2_ACCESS (R128): an access of `size` bytes at a BAR2 offset; `data` holds what a write carries. -/
  | bar2Access (t : Nat) (fn : Nat) (write : Bool) (offset size : Nat) (data : Bytes)
  /-- REGISTER_WRITE_IGNORED (R9, R16): a write to a read-only register or to reserved bits. -/
  | registerWriteIgnored (t : Nat) (fn : Nat) (offset : Nat) (value : DWord)
  /-- SQ_ENTRY_FETCH (R137, R754): the firmware fetches the next entry of a submission queue. -/
  | sqEntryFetch (t : Nat) (sq : BitVec 18)
  /-- COMPLETION_POST (R144): the next completion of a completion queue is written to its ring. -/
  | completionPost (t : Nat) (cq : BitVec 16)
  /-- CQ_COALESCE_TIMER (R155): coal_time_us have passed since the first unsignalled completion. -/
  | cqCoalesceTimer (t : Nat) (cq : BitVec 16)
  /-- MEM_ALLOC (R165, R752). -/
  | memAlloc (t : Nat) (c : Cmd) (session : Word) (bytes : DWord) (cls : BitVec 4) (alignLog2 : BitVec 8)
  /-- MEM_FREE (R165). -/
  | memFree (t : Nat) (c : Cmd) (addr : DWord)
  /-- WINDOW_OPEN (R165, R752). -/
  | windowOpen (t : Nat) (c : Cmd) (base length : DWord) (host bar2 writable : Bool)
  /-- WINDOW_CLOSE (R165, R153). -/
  | windowClose (t : Nat) (c : Cmd) (window : Word)
  /-- DMA_COPY (R165). -/
  | dmaCopy (t : Nat) (c : Cmd) (src dst : Word) (srcOff dstOff length : DWord) (qos : BitVec 2)
  /-- DMA_FILL (R165). -/
  | dmaFill (t : Nat) (c : Cmd) (window : Word) (offset length : DWord) (pattern : Word)
  /-- DMA_CRC (R165). -/
  | dmaCrc (t : Nat) (c : Cmd) (window : Word) (offset length : DWord)
  /-- DMA_TRANSFER_COMPLETE (R153, R165): the transfer of command `cmd` ends. -/
  | dmaTransferComplete (t : Nat) (cmd : CmdKey) (outcome : DmaEnd)
  /-- PLATE_LOAD (R508, R509, R548). -/
  | plateLoad (t : Nat) (c : Cmd) (window : Word) (offset : DWord) (length : Word)
  /-- PLATE_UNLOAD (R548). -/
  | plateUnload (t : Nat) (c : Cmd) (handle : DWord)
  /-- PLATE_START (R511, R548). -/
  | plateStart (t : Nat) (c : Cmd) (handle : DWord)
  /-- PLATE_STATUS (R548). -/
  | plateStatus (t : Nat) (c : Cmd)
  /-- SQ_MIGRATE (R541, R548). -/
  | sqMigrate (t : Nat) (c : Cmd) (sq : BitVec 18) (part : BitVec 4)
  /-- SELFTEST_STATUS (R548). -/
  | selftestStatus (t : Nat) (c : Cmd) (cls : BitVec 2) (unit : BitVec 5)
  /-- PLATE_BOUNDARY (R512): a major cycle begins, or a boundary of the default Plate. -/
  | plateBoundary (t : Nat)
  /-- SLOT_START (R518): slot `slot` of the running Plate's slot table begins. -/
  | slotStart (t : Nat) (slot : Nat)
  /-- SLOT_END (R518). -/
  | slotEnd (t : Nat) (slot : Nat)
  /-- STRUCT_LOAD (R253, R256). -/
  | structLoad (t : Nat) (c : Cmd) (engine : BitVec 4) (window : Word) (offset : DWord) (length : Word)
  /-- STRUCT_UNLOAD (R253, R254). -/
  | structUnload (t : Nat) (c : Cmd) (engine : BitVec 4) (version : BitVec 16)
  /-- STRUCT_QUERY (R253). -/
  | structQuery (t : Nat) (c : Cmd) (engine : BitVec 4) (slot : BitVec 3)
  /-- SOLVE (R253, R255). -/
  | solve (t : Nat) (c : Cmd) (engine : BitVec 4) (slot : BitVec 3) (deltaWindow : Word) (deltaOffset : DWord)
      (resultWindow : Word) (resultOffset : DWord) (capacity : BitVec 24)
  /-- SCENARIO_BATCH (R275, R292). -/
  | scenarioBatch (t : Nat) (c : Cmd) (window : Word) (offset : DWord)
  /-- SOLVE_DIAG_READ (R292). -/
  | solveDiagRead (t : Nat) (c : Cmd) (engine : BitVec 4) (slot : BitVec 3) (window : Word) (offset : DWord)
      (capacity : BitVec 24)
  /-- ENGINE_STATUS (R292). -/
  | engineStatus (t : Nat) (c : Cmd) (engine : BitVec 4)
  /-- SOLVE_START (R234): the engine begins reading the next solve's delta packet; `imageError` is an uncorrectable
  error found in the bound image (R231). -/
  | solveStart (t : Nat) (engine : Nat) (imageError : Bool)
  /-- SOLVE_WRITEOUT_START (R270). -/
  | solveWriteoutStart (t : Nat) (engine : Nat)
  /-- SOLVE_COMPLETE (R247): the running solve's result is complete. -/
  | solveComplete (t : Nat) (engine : Nat)
  /-- ENGINE_OVERRUN (R260). -/
  | engineOverrun (t : Nat) (engine : Nat)
  /-- ENGINE_FAULT (R284): an uncorrectable work-store error during a solve, or a failed self-test quantum. -/
  | engineFault (t : Nat) (engine : Nat)
  /-- SPARE_ENGINE_READY (R285): the spare starts solving. -/
  | spareEngineReady (t : Nat)
  /-- TRACER_CHECK_BEGIN (R553): the next queued check starts. -/
  | tracerCheckBegin (t : Nat)
  /-- TRACER_CHECK_END (R558): the running check ends in acceptance or rejection. -/
  | tracerCheckEnd (t : Nat)
  /-- TRACER_CHECK (R591). -/
  | tracerCheck (t : Nat) (c : Cmd) (window : Word) (offset : DWord)
  /-- TRACER_KNOWN_ANSWER_TEST (R587): the interval's known-answer check ends. -/
  | tracerKnownAnswerTest (t : Nat) (failed : Bool)
  /-- SERVO_NET_CONFIG (R295, R331). -/
  | servoNetConfig (t : Nat) (c : Cmd) (tCyc txShift rxBound : Word) (missLimit : BitVec 4)
  /-- SERVO_CHANNEL_CONFIG (R325, R331). -/
  | servoChannelConfig (t : Nat) (c : Cmd) (channel : BitVec 7) (pair : BitVec 2) (cfgWindow : Word) (cfgOffset : DWord)
      (blkWindow : Word) (blkOffset : DWord)
  /-- SERVO_ENABLE (R331). -/
  | servoEnable (t : Nat) (c : Cmd) (channel : BitVec 7)
  /-- SERVO_DISABLE (R331, R332). -/
  | servoDisable (t : Nat) (c : Cmd) (channel : BitVec 7)
  /-- SERVO_CLEAR_FAULT (R323, R331). -/
  | servoClearFault (t : Nat) (c : Cmd) (channel : BitVec 7)
  /-- SERVO_STATUS (R331). -/
  | servoStatus (t : Nat) (c : Cmd) (channel : BitVec 7)
  /-- SERVO_GAINS_BASIC (R314, R331). -/
  | servoGainsBasic (t : Nat) (c : Cmd) (channel : BitVec 7) (window : Word) (offset : DWord) (commitPoint : PhaseValue)
  /-- ROUTE_LOAD (R355, R378). -/
  | routeLoad (t : Nat) (c : Cmd) (window : Word) (offset : DWord) (length : Word)
  /-- ROUTE_UNLOAD (R378). -/
  | routeUnload (t : Nat) (c : Cmd) (handle : BitVec 12)
  /-- ROUTE_RUN (R363, R378). -/
  | routeRun (t : Nat) (c : Cmd) (handle : BitVec 12) (window : Word) (offset : DWord)
  /-- SECTOR_MAP (R378). -/
  | sectorMap (t : Nat) (c : Cmd) (sector : BitVec 4)
  /-- FIELD_OP (R378, R379). -/
  | fieldOp (t : Nat) (c : Cmd) (window : Word) (offset : DWord)
  /-- ROUTE_START (R336): the leader of partition `part` begins reading the program of command `cmd`. -/
  | routeStart (t : Nat) (part : Nat) (cmd : CmdKey)
  /-- ROUTE_COMPLETE (R368): the running route's last STORE or SCATTER write is accepted. -/
  | routeComplete (t : Nat) (part : Nat)
  /-- ROUTE_STALL_TIMEOUT (R357). -/
  | routeStallTimeout (t : Nat) (part : Nat)
  /-- TILE_PUBLISH (R396): sector `sector` of the partition publishes the next tile of queue `queue`. -/
  | tilePublish (t : Nat) (part sector queue : Nat)
  /-- TILE_RELEASE (R397): the consumer of queue `queue` releases the tile at its head. -/
  | tileRelease (t : Nat) (part sector queue : Nat)
  /-- SLOT_DETECTION (R412): a detection in the slot at the head of a queue, or for a CRC mismatch in the one that is being written;
  `kind` tells which (R404, R410, R414). -/
  | slotDetection (t : Nat) (part sector queue : Nat) (kind : DetectKind)
  /-- STEP_RERUN_LIMIT_REACHED (R413). -/
  | stepRerunLimitReached (t : Nat) (part sector queue : Nat)
  /-- SECTOR_HEARTBEAT_TIMEOUT (R370). -/
  | sectorHeartbeatTimeout (t : Nat) (sector : Nat)
  /-- SECTOR_FAULT (R371): the firmware fences physical sector `sector`. -/
  | sectorFault (t : Nat) (sector : Nat)
  /-- SPARE_SECTOR_READY (R374): the spare that replaces logical sector `logical` has passed its self-test. -/
  | spareSectorReady (t : Nat) (logical : Nat)
  /-- SPILL_OUT (R534): the running unit of a partition is spilled for a HARD command. -/
  | spillOut (t : Nat) (part : Nat)
  /-- SPILL_RESTORE (R401, R533): the spilled unit is restored. -/
  | spillRestore (t : Nat) (part : Nat)
  /-- SERVE_CONFIG (R472, R495). -/
  | serveConfig (t : Nat) (c : Cmd) (window : Word) (offset : DWord)
  /-- SERVE_STOP (R495). -/
  | serveStop (t : Nat) (c : Cmd)
  /-- SERVE_STATUS (R495). -/
  | serveStatus (t : Nat) (c : Cmd)
  /-- SEQ_JOIN (R495, R496). -/
  | seqJoin (t : Nat) (c : Cmd) (window : Word) (promptOffset : DWord) (promptTokens : BitVec 18) (maxNew : BitVec 16)
      (wait : Bool) (outWindow : Word) (outOffset : DWord)
  /-- SEQ_DRAFT (R481, R495): `parents` holds 4 bits for each of nodes 1–7, `tokens` their tokens. -/
  | seqDraft (t : Nat) (c : Cmd) (sequence : Word) (nodes : BitVec 3) (length : BitVec 18) (parents : Word)
      (tokens : List Word)
  /-- SEQ_LEAVE (R487, R495). -/
  | seqLeave (t : Nat) (c : Cmd) (sequence : Word)
  /-- SEQ_STATUS (R495). -/
  | seqStatus (t : Nat) (c : Cmd) (sequence window : Word) (offset : DWord)
  /-- SEQ_RECOMPUTE (R470, R495). -/
  | seqRecompute (t : Nat) (c : Cmd) (sequence : Word)
  /-- ACTION_BIND (R491, R495). -/
  | actionBind (t : Nat) (c : Cmd) (sequence : Word) (engine : BitVec 4) (slot : BitVec 3) (stopEngine : BitVec 4)
      (stopSlot : BitVec 3) (limitSet : BitVec 4) (chunkCount : BitVec 7) (chunkExtra : BitVec 6) (plateSlot : BitVec 12)
  /-- STEP_BOUNDARY (R485): a boundary of the serving loop of partition `part`. -/
  | stepBoundary (t : Nat) (part : Nat)
  /-- POWER_PROFILE (R648, R675). -/
  | powerProfile (t : Nat) (c : Cmd) (state : BitVec 4)
  /-- POWER_UNIT (R655, R660, R675). -/
  | powerUnit (t : Nat) (c : Cmd) (unit : BitVec 20) (state : BitVec 2)
  /-- POWER_STATUS (R675). -/
  | powerStatus (t : Nat) (c : Cmd) (window : Word) (offset : DWord)
  /-- THERMAL_SET (R675). -/
  | thermalSet (t : Nat) (c : Cmd) (threshold : BitVec 16)
  /-- UNIT_DRAIN_END (R662): unit code `unit` has no accepted request left. -/
  | unitDrainEnd (t : Nat) (unit : Nat)
  /-- POWER_TRANSITION_COMPLETE (R648, R656): the transition of unit code `unit` (0 the device) ends. -/
  | powerTransitionComplete (t : Nat) (unit : Nat)
  /-- THERMAL_SAMPLE (R669): the readings of the eight main-die sensors and the Shell sensor, in 1/16 °C. -/
  | thermalSample (t : Nat) (readings : List Int)
  /-- MAIN_ON (R668): a write of `value` to PWR_WAKE over I3C. -/
  | mainOn (t : Nat) (value : Word)
  /-- SAFETY_STATUS (R591). -/
  | safetyStatus (t : Nat) (c : Cmd) (window : Word) (offset : DWord)
  /-- SAFE_STATE_REQUEST (R591). -/
  | safeStateRequest (t : Nat) (c : Cmd) (confirm : Bool)
  /-- SAFETY_RESET (R586, R591). -/
  | safetyReset (t : Nat) (c : Cmd)
  /-- CP_HEARTBEAT (R550): the control processor's heartbeat. -/
  | cpHeartbeat (t : Nat)
  /-- HEARTBEAT_TIMEOUT (R577): no heartbeat for heartbeat_us. -/
  | heartbeatTimeout (t : Nat)
  /-- MAIN_DOMAIN_RESET_RELEASE (R61, R578, R597): the main domain leaves reset and restarts. -/
  | mainDomainResetRelease (t : Nat)
  /-- RESTART_WINDOW_EXPIRY (R580). -/
  | restartWindowExpiry (t : Nat)
  /-- STO_DEADLINE_EXPIRY (R580, R581): the stops have come to rest, or 300 ms have passed. -/
  | stoDeadlineExpiry (t : Nat)
  /-- BRAKE_DELAY_EXPIRY (R582, R586): brake_delay_ms has passed. -/
  | brakeDelayExpiry (t : Nat)
  /-- HELD_LIMIT_REACHED (R573): plan group `group`'s held count has reached held_limit. -/
  | heldLimitReached (t : Nat) (group : Nat)
  /-- DISAGREE_LIMIT_REACHED (R572): group `group` has disagree_k disagreements in its window. -/
  | disagreeLimitReached (t : Nat) (group : Nat)
  /-- ESTOP_SAMPLE (R583): the two E-stop inputs are sampled; true reads high (closed). -/
  | estopSample (t : Nat) (a b : Bool)
  /-- ESTOP_OPEN (R584): an E-stop channel has read low for 1 ms. -/
  | estopOpen (t : Nat)
  /-- ESTOP_DISCREPANCY_TIMEOUT (R583). -/
  | estopDiscrepancyTimeout (t : Nat)
  /-- STO_TEST_PULSE (R585): the test pulse of the A or the B outputs. -/
  | stoTestPulse (t : Nat) (chanB : Bool)
  /-- OUTPUT_READBACK_FAULT (R585). -/
  | outputReadbackFault (t : Nat)
  /-- SHELL_CLOCK_FAULT (R550, R581). -/
  | shellClockFault (t : Nat)
  /-- MAIN_CLOCK_FAULT (R550, R577). -/
  | mainClockFault (t : Nat)
  /-- MAIN_SUPPLY_FAULT (R550, R577, R735). -/
  | mainSupplyFault (t : Nat)
  /-- POWER_FAIL_DETECT (R614): VDD_SHELL_3V3 falls below its threshold. -/
  | powerFailDetect (t : Nat)
  /-- SHELL_POWER_UP (R597): the Shell's supplies have come up. -/
  | shellPowerUp (t : Nat)
  /-- SHELL_PORST_N_PULSE (R739). -/
  | shellPorstNPulse (t : Nat)
  /-- MAIN_SUPPLY_VALID (R733). -/
  | mainSupplyValid (t : Nat)
  /-- MAIN_SUPPLY_UP_TIMEOUT (R733). -/
  | mainSupplyUpTimeout (t : Nat)
  /-- PERST_ASSERT (R740). -/
  | perstAssert (t : Nat)
  /-- HOST_LINK_LOSS (R679). -/
  | hostLinkLoss (t : Nat)
  /-- FUNCTION_LEVEL_RESET (R152, R679). -/
  | functionLevelReset (t : Nat) (fn : Nat)
  /-- VF_DISABLE (R152). -/
  | vfDisable (t : Nat) (fn : Nat)
  /-- JTAG_INSTRUCTION_LOAD (R702). -/
  | jtagInstructionLoad (t : Nat) (instr : BitVec 8)
  /-- JTAG_TRST (R702). -/
  | jtagTrst (t : Nat)
  /-- HUSK_RECORD_WRITE (R609): the Shell writes the next queued record. -/
  | huskRecordWrite (t : Nat)
  /-- HUSK_MIRROR_COPY (R615): the next durable record is copied to the mirror. -/
  | huskMirrorCopy (t : Nat)
  /-- HSK_RD_SEQ_WRITE (R616, R699): an I3C write of `value` to HSK_RD_SEQ. -/
  | hskRdSeqWrite (t : Nat) (value : Word)
  /-- I3C_TARGET_RESET (R701): a target reset action of 0x02. -/
  | i3cTargetReset (t : Nat)
  /-- HUSK_STATUS (R617). -/
  | huskStatus (t : Nat) (c : Cmd)
  /-- HUSK_READ (R617). -/
  | huskRead (t : Nat) (c : Cmd) (first : Word) (count : BitVec 17) (window : Word) (offset : DWord)
  /-- PROT_READ (R617). -/
  | protRead (t : Nat) (c : Cmd) (window : Word) (offset : DWord)
  /-- FW_LOAD (R169, R619). -/
  | fwLoad (t : Nat) (c : Cmd) (window : Word) (offset : DWord) (length : Word)
  /-- FW_SWAP (R169, R619). -/
  | fwSwap (t : Nat) (c : Cmd)
  /-- FW_SWAP_CONFIRM (R619): the new image has run for 10 ms with its heartbeat. -/
  | fwSwapConfirm (t : Nat)
  /-- SHELL_FW_LOAD (R169, R604). -/
  | shellFwLoad (t : Nat) (c : Cmd) (window : Word) (offset : DWord) (length : Word)
  /-- SHELL_FW_SWAP (R169, R605). -/
  | shellFwSwap (t : Nat) (c : Cmd)
  /-- SECTOR_REMAP (R169, R375). -/
  | sectorRemap (t : Nat) (c : Cmd) (sector : BitVec 5)
  /-- ENGINE_SWAP (R169, R285). -/
  | engineSwap (t : Nat) (c : Cmd) (engine : BitVec 4)
  /-- SERVO_PAIR_DRAIN (R169, R329, R621). -/
  | servoPairDrain (t : Nat) (c : Cmd) (pair : BitVec 2) (retire : Bool)
  /-- PAIR_SELFTEST_END (R621). -/
  | pairSelftestEnd (t : Nat) (pair : Nat) (failed : Bool)
  /-- LPDDR_RETRAIN (R169, R618, R681). -/
  | lpddrRetrain (t : Nat) (c : Cmd) (channels : Word)
  /-- SPARE_STATUS (R169). -/
  | spareStatus (t : Nat) (c : Cmd)
  /-- SELFTEST_QUANTUM_START (R545): a quantum starts on a unit (0 sector, 1 engine, 2 slice). -/
  | selftestQuantumStart (t : Nat) (cls unit : Nat)
  /-- SELFTEST_QUANTUM_END (R547). -/
  | selftestQuantumEnd (t : Nat) (cls unit : Nat) (failed : Bool)
  /-- DIAGNOSTIC_INTERVAL_END (R546). -/
  | diagnosticIntervalEnd (t : Nat)
  /-- SLICE_FENCE (R623): a slice of the shared buffer is fenced. -/
  | sliceFence (t : Nat) (slice : Nat)
  /-- SHARED_BUFFER_SCRUB (R418): a powered slice is read through. -/
  | sharedBufferScrub (t : Nat) (slice : Nat)
  /-- SHELL_MEMORY_SCRUB (R550): the Shell's memories are scrubbed; an uncorrectable error takes the fault path. -/
  | shellMemoryScrub (t : Nat) (uncorrectable : Bool)
  /-- LPDDR_REFRESH (R680). -/
  | lpddrRefresh (t : Nat) (channel : Nat)
  /-- LPDDR_BURST_REREAD_LIMIT (R416): the third consecutive CRC mismatch of the burst at device address `addr` that command
  `cmd` reads. -/
  | lpddrBurstRereadLimit (t : Nat) (addr : Nat) (cmd : CmdKey)
  /-- LPDDR_DRIFT_MEASURE (R681): the drift that the firmware measures and IF_STATUS reports (R720). -/
  | lpddrDriftMeasure (t : Nat) (channel : Nat) (drift : BitVec 16)
  /-- IMPRINT_CONFIG (R637, R643). -/
  | imprintConfig (t : Nat) (c : Cmd) (sq : BitVec 18) (window : Word) (offset : DWord) (entries : BitVec 16)
      (enable : Bool)
  /-- WEIGHT_DIGEST (R639, R643). -/
  | weightDigest (t : Nat) (c : Cmd) (addr : DWord)
  /-- IMPRINT_COMPARE (R643, R644). -/
  | imprintCompare (t : Nat) (c : Cmd) (window : Word) (offsetA offsetB : DWord)
  /-- SOLVE_STATE_READ (R643). -/
  | solveStateRead (t : Nat) (c : Cmd) (engine : BitVec 4) (slot : BitVec 3) (window : Word) (offset : DWord)
  /-- SOLVE_STATE_WRITE (R643, R645). -/
  | solveStateWrite (t : Nat) (c : Cmd) (engine : BitVec 4) (slot : BitVec 3) (window : Word) (offset : DWord)
  /-- IMPRINT_WRITE (R638): the hash engine has hashed the imprint at the head of its queue. -/
  | imprintWrite (t : Nat)
  /-- PEER_STATUS (R721). -/
  | peerStatus (t : Nat) (c : Cmd)
  /-- PEER_WINDOW_OPEN (R712, R721). -/
  | peerWindowOpen (t : Nat) (c : Cmd) (window : Word) (offset length : DWord) (devices : BitVec 4)
      (writable readable : Bool)
  /-- PEER_WINDOW_CLOSE (R713, R721). -/
  | peerWindowClose (t : Nat) (c : Cmd) (window : BitVec 16)
  /-- PEER_WRITE (R714, R721). -/
  | peerWrite (t : Nat) (c : Cmd) (device : BitVec 2) (peerWindow : BitVec 16) (remoteOffset : DWord) (window : Word)
      (localOffset length : DWord)
  /-- PEER_READ (R714, R721). -/
  | peerRead (t : Nat) (c : Cmd) (device : BitVec 2) (peerWindow : BitVec 16) (remoteOffset : DWord) (window : Word)
      (localOffset length : DWord)
  /-- IF_STATUS (R720, R721). -/
  | ifStatus (t : Nat) (c : Cmd) (selector window : Word) (offset : DWord)
  /-- INGRESS_CONFIG (R682, R721). -/
  | ingressConfig (t : Nat) (c : Cmd) (stream : BitVec 6) (window : Word) (offset : DWord)
  /-- ENC_CONFIG (R704, R721). -/
  | encConfig (t : Nat) (c : Cmd) (input : BitVec 4) (mode rate : BitVec 2) (posBits : BitVec 6) (triggerLog2 : BitVec 2)
  /-- MNET_CONFIG (R691, R721): `found` holds the vendor and product identities of the nodes that answer when the
  network starts. -/
  | mnetConfig (t : Nat) (c : Cmd) (window : Word) (offset : DWord) (length : Word) (found : List (Word × Word))
  /-- CAN_CONFIG (R698, R721). -/
  | canConfig (t : Nat) (c : Cmd) (port : BitVec 2) (window : Word) (offset : DWord)
  /-- CAN_SEND (R697, R721): one frame, sent when `point` matches or at once when it is all zero. -/
  | canSend (t : Nat) (c : Cmd) (port : BitVec 2) (ident : BitVec 29) (extended fd brs : Bool) (length : BitVec 7)
      (data : DWord) (point : PhaseValue)
  /-- CAN_SEND_MATCH (R697): the phase value of the queued frame of command `cmd` matches. -/
  | canSendMatch (t : Nat) (cmd : CmdKey)
  /-- CAN_FRAME_RX (R698). -/
  | canFrameRx (t : Nat) (port : Nat) (ident : BitVec 29) (extended fd brs : Bool) (data : Bytes)
  /-- CAN_BUS_OFF (R697). -/
  | canBusOff (t : Nat) (port : Nat)
  /-- CAN_BUS_OFF_RECOVERY (R697). -/
  | canBusOffRecovery (t : Nat) (port : Nat)
  /-- CSI2_FRAME_END (R684): a Frame End on a virtual channel of a port, with the long packets (data type, payload)
  received on that channel since Frame Start, oldest first. -/
  | csi2FrameEnd (t : Nat) (port vc : Nat) (packets : List (Nat × Bytes))
  /-- ETH_FRAGMENT (R685, R686): a fragment that the 802.1Qci meter passes; `udp` is its UDP destination port, 0 for
  EtherType 0x88B5, and `data` its fragment header and payload. -/
  | ethFragment (t : Nat) (mac : Nat) (udp : BitVec 16) (data : Bytes)
  /-- PEER_WRITE_RX (R712, R713, R716): a WRITE message arrives at a peer port. -/
  | peerWriteRx (t : Nat) (port : Nat) (header : List Word) (payload : Bytes)
  /-- PEER_ACK_RX (R714). -/
  | peerAckRx (t : Nat) (port : Nat) (header : List Word)
  /-- PEER_READ_REQ_RX (R712, R713, R716). -/
  | peerReadReqRx (t : Nat) (port : Nat) (header : List Word) (payload : Bytes)
  /-- PEER_READ_DATA_RX (R714). -/
  | peerReadDataRx (t : Nat) (port : Nat) (header : List Word) (payload : Bytes)
  /-- SYNC_REQ_RX (R718): `depart` is the departure stamp of the answer. -/
  | syncReqRx (t : Nat) (port : Nat) (header : List Word) (payload : Bytes) (depart : Nat)
  /-- SYNC_RESP_RX (R718). -/
  | syncRespRx (t : Nat) (port : Nat) (header : List Word) (payload : Bytes)
  /-- SYNC_LOCK_ACQUIRED (R73, R75). -/
  | syncLockAcquired (t : Nat)
  /-- SYNC_LOCK_LOST (R78). -/
  | syncLockLost (t : Nat)
  /-- GTC_HOLD_END (R75). -/
  | gtcHoldEnd (t : Nat)
  /-- SYNC_EXCHANGE_TIMER (R74). -/
  | syncExchangeTimer (t : Nat)
  /-- PEER_HELLO_RX (R709). -/
  | peerHelloRx (t : Nat) (port : Nat) (header : List Word)
  /-- PEER_EVENT_RX (R711). -/
  | peerEventRx (t : Nat) (port : Nat) (header : List Word) (payload : Bytes)
  /-- PEER_MESSAGE_FORWARD (R711): a message for another device arrives at `port` and leaves at GTC `depart`. -/
  | peerMessageForward (t : Nat) (port : Nat) (header : List Word) (payload : Bytes) (depart : Nat)
  /-- PEER_HELLO_TIMER (R709). -/
  | peerHelloTimer (t : Nat) (port : Nat)
  /-- PEER_CONNECTION_TIMEOUT (R709). -/
  | peerConnectionTimeout (t : Nat) (port : Nat)
  /-- PEER_FLIT_REPLAY (R715). -/
  | peerFlitReplay (t : Nat) (port : Nat)
  /-- PEER_RESEND_TIMEOUT (R716, R717): the message `seq` to `device` has no answer after 100 µs. -/
  | peerResendTimeout (t : Nat) (device : Nat) (seq : Word)
  /-- TRACER_LOCKSTEP_MISMATCH (R577). -/
  | tracerLockstepMismatch (t : Nat)
  /-- SAFETY_PROCESSOR_LOCKSTEP_MISMATCH (R550, R581). -/
  | safetyProcessorLockstepMismatch (t : Nat)
  /-- GPTP_MESSAGE_RX (R690): the MAC's 802.1AS time at the stamp `t`, and whether it is synchronised. -/
  | gptpMessageRx (t : Nat) (mac : Nat) (time : Nat) (synced : Bool)
  /-- GATE_CONTROL_INTERVAL_END (R689, R750). -/
  | gateControlIntervalEnd (t : Nat) (mac : Nat)
  /-- HOST_DMA_COMPLETION_TIMEOUT (R678). -/
  | hostDmaCompletionTimeout (t : Nat) (cmd : CmdKey)
  /-- PERST_RELEASE (R740). -/
  | perstRelease (t : Nat)
  /-- HASH_ENGINE_COMPLETE (R642): the request at the head of the hash engine's queue is finished. -/
  | hashEngineComplete (t : Nat)
  /-- BOOT_FLASH_WRITE_DONE (R619). -/
  | bootFlashWriteDone (t : Nat)
  /-- CAN_FRAME_SENT (R697): the frame that the port transmits is finished. -/
  | canFrameSent (t : Nat) (port : Nat)
  /-- VHUSK_CHARGED (R737). -/
  | vhuskCharged (t : Nat)
  /-- MSIX_VECTOR_CONTROL_WRITE (R155). -/
  | msixVectorControlWrite (t : Nat) (fn vector : Nat) (masked : Bool)
  deriving DecidableEq, Repr

end Sys2Proof
end

