-- ==== Sys2Proof/Decode.lean ====
section
/-!
DEFINITION. Decode.lean: the commands that a word spells by the bits of spec/opcode_table.json. No row of that table
gives bits, so no word spells a command; submission entries are decoded in Machine/Operands.lean.
-/
namespace Sys2Proof

/-- The command that a word spells by the table's bits: none, since no row of the table gives bits. -/
def decodeTableWord (_nbits _w : Nat) : Option Instr := none

end Sys2Proof
end

