-- ==== Sys2Proof/Config.lean ====
section
/-!
DEFINITION. Config.lean: the values that the spec leaves open, as constants with no body. Nothing can be proved of
them; a statement that mentions one holds for every value it may have.
-/
namespace Sys2Proof

/-- The fraction of a phase source whose period estimate is 0 ticks, which R42 does not give. -/
opaque Config.fractionNoPeriod : Nat → BitVec 16

/-- The raw position of a SERIAL_ENC source before the first valid reply that sets it (R62, R749), by its block. -/
opaque Config.serialBeforeReply : List Word → BitVec 64

/-- The value of brake(D, A) for an acceleration limit of 0, which R307 does not give. -/
opaque Config.brakeNoAcc : Int → Int

/-- The value that the firmware hands out next (R753): a number that the model reduces into the range in use. -/
opaque Config.handOut : Nat → Nat

/-- The device serial that IDENTIFY returns (R162). -/
opaque Config.deviceSerial : BitVec 64

/-- The generation of a session slot at its first use (R151). -/
opaque Config.firstGeneration : Nat → BitVec 16

/-- A byte of a destination whose contents the spec calls undefined (R121, R357, R372). -/
opaque Config.undefByte : Nat → Nat → Byte

/-- How much of a transfer had landed when it was stopped (R121, R153, R661). -/
opaque Config.landed : Nat → Nat

/-- The requests that a sector's other ports make in a cycle of a service, to a bank (R386, log entry 123): free counter, cycle, bank. -/
opaque Config.rivalRequests : Nat → Nat → Nat → BitVec 15

/-- In which form, and with which stride or pitch, a station reads a slot of its input queue (R391, R392). -/
opaque Config.readForm : Nat → Nat

/-- A scratchpad word that nothing has written since the route's start (R337). -/
opaque Config.undefWord : Nat → Nat → Word

/-- Where the firmware places region 24 of a sector (R393). -/
opaque Config.pageRegion : Nat → Nat

/-- The per-part trim of VDD_MAIN that the fuses hold, in steps of 5 mV (R731). -/
opaque Config.vddTrim : Int
/-- Scapadra's PCI-SIG Vendor ID (R677), whose number the spec does not give. -/
opaque Config.pciVendor : BitVec 16

/-- What the host has written into the address and the data of an MSI-X table entry (R126), by a free number, the function and the
vector. -/
opaque Config.msixAddr : Nat → Nat → Nat → BitVec 64
opaque Config.msixData : Nat → Nat → Nat → Word

/-- The LPDDR channel that holds a device address: the spec gives no map (R676). -/
opaque Config.lpddrChannel : Nat → Nat

/-- The period estimate of a source that has not yet seen enough edges for R41, by the number it has seen. -/
opaque Config.periodUnknown : Nat → Nat

/-- Everything that the arithmetic of a solve depends on (R257, R263): its image, its parameters, its input items after the clamp
and whether none was clamped, the slot's persistent values and seeds, and the sub-operations asked for. -/
structure SolveInput where
  image : Bytes
  iterations : Nat
  tau : Word
  feasTol : Word
  items : List (Nat × List Word)
  clean : Bool
  persistent : List Word
  seeds : List (Nat × Word)
  ops : Nat

/-! An engine "runs its own algorithms for each kind and path" (06, after R219). The spec gives the arithmetic of each operation, the
rules of pivots and of SAT and the form of the result; which operations follow one another is a free value (log entry 17). -/

/-- A place in an engine's work store, by area and index. Area 0 holds the arrays of R246; area 1 kkt_residual, primal_violation and
cost; area 2 the torques of R217, knot by knot; area 3 the persistent words; area 4 the inequality duals and slacks; the others
are scratch. -/
abbrev EnginePlace := Nat × Nat

/-- One operation of an engine (R20, R203–R206, R261, R262, R264): `cls` and `inst` name the block that a result is written to. -/
inductive EngineOp where
  /-- An element of an input item, a word of the image, a persistent word. -/
  | input (d : EnginePlace) (item elem : Nat)
  | constant (d : EnginePlace) (word : Nat)
  | kept (d : EnginePlace) (word : Nat)
  /-- The accumulator: empty it; add or subtract an exact product; add or subtract a word shifted left. -/
  | clear
  | product (a b : EnginePlace) (minus : Bool)
  | term (a : EnginePlace) (shift : Nat) (minus : Bool)
  /-- Write the accumulator, of fraction width `fs`, into a word of a block. -/
  | store (d : EnginePlace) (fs cls inst : Nat)
  | divide (d a b : EnginePlace) (F cls inst : Nat)
  | root (d a : EnginePlace) (fa cls inst : Nat)
  /-- Take `u` where `a` is not above `b`, else `v`. -/
  | choose (d a b u v : EnginePlace)
  /-- The reciprocal of the pivot at `p`: 1.0 is 2^fa raw, `fe` the format that 1 − p·x is kept in. -/
  | reciprocal (d p : EnginePlace) (fa F fe cls inst : Nat)
  /-- Compare an iterate with its ITERATE_BOUNDS. -/
  | iterate (a : EnginePlace) (cls inst : Nat)
  deriving DecidableEq, Repr

/-- The parts of a solve (R216, R217, R273): the delta read, the three parts of an iteration, the final computation. -/
inductive EnginePart where
  | setup | relinearise | factor | update | final
  deriving DecidableEq, Repr

/-- The operations of a part, which are fixed by the image, the sub-operations asked for and the active contacts. -/
opaque Config.engineOps : Bytes → Nat → Word → EnginePart → List EngineOp
/-- Whether the levels of an image's QFORMAT entries are what range analysis has proved (R222, R223); an expert image may name formats
for which it has proved nothing (R206). -/
opaque Config.levelsProven : Bytes → Bool
/-- A word that a proven block takes in where the free order of operations would leave its range, by the place written. -/
opaque Config.provenWord : SolveInput → EnginePlace → Int → Word
/-- Whether the proof of a block assumes the ITERATE_BOUNDS of another (R223): class and instance of each. -/
opaque Config.iterateDepends : Bytes → Nat × Nat → Nat × Nat → Bool
/-- Pivots of a window step's block of an EST problem (R265). -/
opaque Config.stepPivots : Bytes → Nat
/-- How many operations an engine has done of a solve that is abandoned after so many ns. -/
opaque Config.abandonAt : SolveInput → Nat → Nat
/-- The instance of a block class, a DOF group for one, that element `i` of an item or DOF `i` (item 0) belongs to (R220). -/
opaque Config.blockInstance : Bytes → Nat → Nat → Nat → Nat
/-- Whether an element of WARM_DUAL is a slack (R239). -/
opaque Config.warmIsSlack : Bytes → Nat → Bool
/-- The stages of a base plan of so many words (R251), within the limits of R215, and whether a word of it lies in its states: a
DYN image gives neither. -/
opaque Config.planStages : Bytes → Nat → Nat
opaque Config.planState : Bytes → Nat → Bool
/-- A DOF of the path that a base plan follows between its knots (R251), where `a / b` knots of it are passed: raw position and
velocity. -/
opaque Config.pathPos : SolveInput → Nat → Nat → Nat → Word
opaque Config.pathVel : SolveInput → Nat → Nat → Nat → Word
/-- The path's first, second and third derivative by the knot there, in Q_ACC. -/
opaque Config.pathD1 : SolveInput → Nat → Nat → Nat → Int
opaque Config.pathD2 : SolveInput → Nat → Nat → Nat → Int
opaque Config.pathD3 : SolveInput → Nat → Nat → Nat → Int
/-- The inverse dynamics of a DOF at knot `k` of a stop over `T` knots, and its gravity torque at rest (R251, R252), in TAU. -/
opaque Config.stopTorque : SolveInput → Nat → Nat → Nat → Word
opaque Config.stopGravity : SolveInput → Nat → Word

/-- The number of elements of WARM_DUAL, which R239 gives in words only. -/
opaque Config.warmDualCount : Bytes → Nat
/-- Whether contact `c` of an image has 6 rows rather than 3 (R215), which no field of the image gives. -/
opaque Config.contactWide : Bytes → Nat → Bool
/-- Coordinate `i` of the Cartesian table that the firmware computes in FP32 (R554), from a limit set and a plan block. -/
opaque Config.cartesian : Bytes → Bytes → Nat → Word
/-- The value of an input element for which the image holds no DEFAULTS value. -/
opaque Config.noDefault : Nat → Nat → Word

/-- The seed of a MAP lane's generator, from the route's seed, the lane and the physical sector (R183). -/
opaque Config.laneSeed : Word → Nat → Nat → Word
/-- Where a partial result stands in the order of arrival at its owner (R359, R362), by a free number and the sector. -/
opaque Config.arrival : Nat → Nat → Nat
/-- The route that the firmware builds for a FIELD_OP (R380), from its operation block and the partition's size: the
logarithm of split_k, the reduction length of a step in units of 32, and its worst-case bound in ns. -/
opaque Config.fieldSplit : Bytes → Nat → Nat
opaque Config.fieldStep : Bytes → Nat → Nat
opaque Config.fieldBound : Bytes → Nat → Nat
/-- The sector that handles index `k` of a FIELD_OP's SCATTER. -/
opaque Config.fieldOwner : Bytes → Nat → Nat

/-- The working counter that a frame of a network image returns with when every node has served it (R328). -/
opaque Config.workingCounter : Bytes → BitVec 16

/-- The error of the Tracer's own kinematics along axis `a` of control point `i`, in µm, which R560 only bounds: by the
limit set and the positions of the channels. -/
opaque Config.kinematicError : Bytes → List Int → Nat → Nat → Int
/-- The position that the Tracer takes for a channel that drives a body of the limit set and is not in the plan. -/
opaque Config.unplanned : Bytes → Nat → Int
/-- The reason code of a check that a Tracer which has failed its own diagnostics rejects (R31). -/
opaque Config.failedTracerReason : Nat → BitVec 8

/-- Whether a token ends a sequence of the serving configuration with this context id (R496 names an end token and no rule
says which it is). -/
opaque Config.endToken : Bytes → Word → Bool
/-- Whether the firmware sets `score` in the row entry of this position at this boundary (R447, R464). -/
opaque Config.scoreRow : Nat → Nat → Bool
/-- What the firmware puts into the scenario batch of a plan cycle and its fallback (R492), by a free number: the plan group,
and the words of the phase values `which` = 0 commit point, 1 arm deadline, 2 deadline of the batch, 3 plan origin. -/
opaque Config.batchGroup : Nat → Nat
opaque Config.batchPoint : Nat → Nat → Nat → Word

/-- Word `i` of a slot's persistent state as SOLVE_STATE_READ and imprints see it (R636, R643), from the image, the input items, the
persistent values and the seeds: the spec gives its length and no layout. -/
opaque Config.stateWord : Bytes → List (Nat × List Word) → List Word → List (Nat × Word) → Nat → Word
/-- What a state block restores (R645), from the image and the block: element `i` of an input item, the persistent values, the
seeds. -/
opaque Config.stateItem : Bytes → Bytes → Nat → Nat → Word
opaque Config.statePersistent : Bytes → Bytes → List Word
opaque Config.stateSeeds : Bytes → Bytes → List (Nat × Word)
/-- How a weight_digest combines registered digests with hashed ranges (R639): per range, whether it is registered and its digest
or its bytes. -/
opaque Config.cachedWeights : List (Bool × Bytes) → Bytes
/-- The route program and the binding table that the firmware builds for a FIELD_OP (R633), from its operation block and the
partition's size. -/
opaque Config.fieldProgram : Bytes → Nat → Bytes
opaque Config.fieldBindings : Bytes → Nat → Bytes

/-- Whether an ECDSA P-384 signature verifies (R595): public key, message, signature. -/
opaque Config.ecdsaVerify : Bytes → Bytes → Bytes → Bool
/-- Whether the new Shell firmware, or the new main firmware, passes the start-up checks that the spec does not give (R620),
by its image. -/
opaque Config.startsUp : Bytes → Bool
/-- Whether a spare passes its self-test at a boot (R622, log entry 159): its unit class, its number, and the boot count. -/
opaque Config.spareSound : Nat → Nat → Nat → Bool
/-- Whether a JTAG instruction code is BYPASS, IDCODE or SAMPLE/PRELOAD (R702): the spec gives no codes. -/
opaque Config.jtagQuiet : BitVec 8 → Bool
/-- How many steps of at most 2 µs a channel's retraining takes (R618), by a free number. -/
opaque Config.retrainSteps : Nat → Nat
/-- The words of the reference that the firmware samples from the stop trajectory for the first plan cycle after a restart
(R579), by a free number. -/
opaque Config.restartReference : Nat → Nat → Word
/-- The rate correction that a follower chooses from its measured offset and its rate (R75): the spec gives its bound alone. -/
opaque Config.steer : Int → Int → Int

/-- Whether the other devices of a spread loop fit their shares of a sequence's need, and whether a block that another device holds
matches, by boundary, sequence and block (R493; free values, log entry 37). -/
opaque Config.remoteFits : Nat → Nat → Bool
opaque Config.remoteMatch : Nat → Nat → Nat → Bool

/-- How many activation-class bursts of a read were read again before they matched (R416): a free value (log entry 151). -/
opaque Config.rereads : Nat → Nat → Nat

/-- A word of another device's FORWARD result (R494; a free value, log entry 37). -/
opaque Config.remoteWord : Nat → Nat → Word

end Sys2Proof
end

