-- ==== Sys2Proof/Machine/Bits.lean ====
section
/-!
DEFINITION. Machine/Bits.lean: bit fields, byte order and sign helpers used by every other file (R15: little-endian,
bit ranges [msb:lsb], bit 0 least significant).
-/
namespace Sys2Proof.Machine

/-- Bits `[hi:lo]` of a 32-bit word as a number (R15). -/
def fld (w : Word) (hi lo : Nat) : Nat := w.toNat / 2 ^ lo % 2 ^ (hi + 1 - lo)

/-- Bits `[hi:lo]` of a natural number. -/
def nfld (w : Nat) (hi lo : Nat) : Nat := w / 2 ^ lo % 2 ^ (hi + 1 - lo)

/-- Bit `i` of a 32-bit word. -/
def wbit (w : Word) (i : Nat) : Bool := w.getLsbD i

/-- The byte at offset `i` of a byte string; 0 beyond its end. -/
def byteAt (b : Bytes) (i : Nat) : Byte := b.getD i 0

/-- The little-endian number held by a byte string (R15). -/
def leNat : Bytes → Nat
  | [] => 0
  | x :: xs => x.toNat + 256 * leNat xs

/-- `n` bytes of the little-endian form of `v` (R15). -/
def leBytes : Nat → Nat → Bytes
  | 0, _ => []
  | n + 1, v => BitVec.ofNat 8 v :: leBytes n (v / 256)

/-- `n` bytes from offset `o`, padded with zeros beyond the end. -/
def slice (b : Bytes) (o n : Nat) : Bytes :=
  let s := (b.drop o).take n
  s ++ List.replicate (n - s.length) 0

/-- The number in the `n` bytes at byte offset `o`. -/
def numAt (b : Bytes) (o n : Nat) : Nat := leNat ((b.drop o).take n)

/-- Word `i` of a byte string (32-bit, little-endian). -/
def wordAt (b : Bytes) (i : Nat) : Word := BitVec.ofNat 32 (numAt b (4 * i) 4)

/-- The 64-bit value in words `i` and `i+1`, low word first (R163: "low word first"). -/
def dwordAt (b : Bytes) (i : Nat) : Nat := numAt b (4 * i) 8

/-- The words of a byte string. -/
def toWords (n : Nat) (b : Bytes) : List Word := (List.range n).map (wordAt b)

/-- The bytes of a list of words. -/
def ofWords : List Word → Bytes
  | [] => []
  | w :: ws => leBytes 4 w.toNat ++ ofWords ws

/-- Word `i` of a list of words; 0 beyond its end. -/
def wat (ws : List Word) (i : Nat) : Word := ws.getD i 0

/-- The 64-bit value in words `i` and `i+1` of a list. -/
def dat (ws : List Word) (i : Nat) : Nat := (wat ws i).toNat + 2 ^ 32 * (wat ws (i + 1)).toNat

/-- The value of an `n`-bit two's-complement field. -/
def toSigned (n v : Nat) : Int := if v % 2 ^ n < 2 ^ (n - 1) then (v % 2 ^ n : Nat) else (v % 2 ^ n : Nat) - (2 ^ n : Nat)

/-- An integer wrapped to an `n`-bit field. -/
def wrapN (n : Nat) (v : Int) : Nat := (v % (2 ^ n : Nat)).toNat

/-- An integer clamped between two bounds. -/
def clampI (lo hi v : Int) : Int := if v < lo then lo else if hi < v then hi else v

/-- An integer saturated to an `n`-bit signed field. -/
def satSigned (n : Nat) (v : Int) : Int := clampI (-(2 ^ (n - 1) : Nat)) ((2 ^ (n - 1) : Nat) - 1) v

/-- `a / b` rounded to nearest, ties to even; `b` is positive. -/
def divNearestEven (a : Int) (b : Nat) : Int :=
  let q := a / (b : Int)
  let r := a % (b : Int)
  if 2 * r < b then q else if (b : Int) < 2 * r then q + 1 else if q % 2 = 0 then q else q + 1

/-- `a / b` rounded to nearest, ties away from zero. -/
def divNearestAway (a : Int) (b : Nat) : Int :=
  let m := (2 * a.natAbs + b) / (2 * b)
  if a < 0 then -(m : Int) else m

/-- `a / b` rounded toward zero. -/
def divTrunc (a b : Int) : Int := Int.tdiv a b

/-- Whether every word has no bit outside its mask (a reserved bit set is a non-zero reserved field, R10). -/
def withinMasks : List Word → List Word → Bool
  | [], _ => true
  | w :: ws, [] => w == 0 && withinMasks ws []
  | w :: ws, m :: ms => (w &&& ~~~m) == 0 && withinMasks ws ms

/-- A mask of the bits `[hi:lo]`. -/
def mask (hi lo : Nat) : Word := BitVec.ofNat 32 ((2 ^ (hi + 1 - lo) - 1) * 2 ^ lo)

/-- Replace element `i` of a list by a function of it; no change beyond its end. -/
def modAt {α : Type} (l : List α) (i : Nat) (f : α → α) : List α := l.modify i f

/-- Insert an element before the first that it must precede. -/
def insertBy {α : Type} (before : α → α → Bool) (a : α) : List α → List α
  | [] => [a]
  | x :: xs => if before a x then a :: x :: xs else x :: insertBy before a xs

/-- A list in an order, elements of one rank keeping theirs. -/
def sortBy {α : Type} (before : α → α → Bool) (l : List α) : List α := l.foldl (fun r a => insertBy before a r) []

/-- The number of trailing elements: the first index at which `p` holds, or none. -/
def findIdx {α : Type} (p : α → Bool) : List α → Option Nat
  | [] => none
  | x :: xs => if p x then some 0 else (findIdx p xs).map (· + 1)

/-- A value picked from a range that no live object uses (R753): the first of `base, base+1, …` (modulo the range
size) that is not in `live`, among `live.length + 1` candidates. -/
def pickFree (lo size base : Nat) (live : List Nat) : Option Nat :=
  if size = 0 then none
  else ((List.range (min size (live.length + 1))).map (fun i => lo + (base + i) % size)).find? (fun v => !live.contains v)

/-- A multiple of `align` at or above `a`. -/
def alignUp (a align : Nat) : Nat := (a + align - 1) / align * align

end Sys2Proof.Machine
end

