-- ==== Sys2Proof/Machine/Codes.lean ====
section
/-!
DEFINITION. Machine/Codes.lean: the check codes and digests that the formats of the spec name: CRC-32C (R86 and many
others), CRC-16 (R566), CRC-8 (R705), SHA-256 (R636) and SHA-384 (R594).
-/
namespace Sys2Proof.Machine

/-- One bit of the reflected CRC-32C, polynomial 0x1EDC6F41. -/
def crc32Bit (c : Word) : Word := if c.getLsbD 0 then (c >>> 1) ^^^ 0x82F63B78 else c >>> 1

/-- One byte of CRC-32C. -/
def crc32Byte (c : Word) (b : Byte) : Word :=
  let x := c ^^^ b.setWidth 32
  crc32Bit (crc32Bit (crc32Bit (crc32Bit (crc32Bit (crc32Bit (crc32Bit (crc32Bit x)))))))

/-- CRC-32C of a byte string. -/
def crc32c (b : Bytes) : Word := b.foldl crc32Byte 0xFFFFFFFF ^^^ 0xFFFFFFFF

/-- One bit of an unreflected CRC of 16 bits, polynomial 0x1021 (R566). -/
def crc16Bit (c : BitVec 16) : BitVec 16 := if c.msb then (c <<< 1) ^^^ 0x1021 else c <<< 1

/-- CRC-16 of the ingress seal: initial value 0xFFFF, no reflection, no final XOR (R566). -/
def crc16 (b : Bytes) : BitVec 16 :=
  b.foldl (fun c x => (List.range 8).foldl (fun c _ => crc16Bit c) (c ^^^ (BitVec.setWidth 16 x <<< (8 : Nat)))) (0xFFFF : BitVec 16)

/-- One bit of an unreflected CRC of 8 bits, polynomial 0x2F (R705). -/
def crc8Bit (c : BitVec 8) : BitVec 8 := if c.msb then (c <<< 1) ^^^ 0x2F else c <<< 1

/-- CRC-8 of the encoder framing: initial value 0xFF, no reflection, no final XOR (R705). -/
def crc8 (b : Bytes) : BitVec 8 :=
  b.foldl (fun c x => (List.range 8).foldl (fun c _ => crc8Bit c) (c ^^^ x)) 0xFF

/-- The big-endian number held by a byte string, as the hash standards read it. -/
def beNat (b : Bytes) : Nat := b.foldl (fun a x => a * 256 + x.toNat) 0

/-- `n` bytes of the big-endian form of `v`. -/
def beBytes (n v : Nat) : Bytes := (leBytes n v).reverse

/-- The padded message, a multiple of the block length: a 1 bit, zeros and the bit length (FIPS 180-4). -/
def shaPad (block lenBytes : Nat) (b : Bytes) : Bytes :=
  let used := b.length + 1 + lenBytes
  b ++ [0x80] ++ List.replicate ((block - used % block) % block) 0 ++ beBytes lenBytes (8 * b.length)

/-- The blocks of a padded message, `fuel` at most. -/
def shaBlocks : Nat → Nat → Bytes → List Bytes
  | 0, _, _ => []
  | f + 1, n, b => if b.isEmpty then [] else b.take n :: shaBlocks f n (b.drop n)

/-- The six rotations of one of the two hash functions, with the shifts of its message schedule. -/
structure ShaParams where
  a1 : Nat
  a2 : Nat
  a3 : Nat
  e1 : Nat
  e2 : Nat
  e3 : Nat
  s1 : Nat
  s2 : Nat
  s3 : Nat
  t1 : Nat
  t2 : Nat
  t3 : Nat

/-- The message schedule, newest word first. -/
def shaSchedule {w : Nat} (p : ShaParams) : Nat → List (BitVec w) → List (BitVec w)
  | 0, l => l
  | n + 1, l =>
    let x15 := l.getD 14 0
    let x2 := l.getD 1 0
    let s0 := x15.rotateRight p.s1 ^^^ x15.rotateRight p.s2 ^^^ (x15 >>> p.s3)
    let s1 := x2.rotateRight p.t1 ^^^ x2.rotateRight p.t2 ^^^ (x2 >>> p.t3)
    shaSchedule p n ((l.getD 15 0 + s0 + l.getD 6 0 + s1) :: l)

/-- One round of the compression. -/
def shaRound {w : Nat} (p : ShaParams) (h : List (BitVec w)) (kw : BitVec w × BitVec w) : List (BitVec w) :=
  match h with
  | [a, b, c, d, e, f, g, hh] =>
    let t1 := hh + (e.rotateRight p.e1 ^^^ e.rotateRight p.e2 ^^^ e.rotateRight p.e3) + ((e &&& f) ^^^ (~~~e &&& g))
      + kw.1 + kw.2
    let t2 := (a.rotateRight p.a1 ^^^ a.rotateRight p.a2 ^^^ a.rotateRight p.a3) + ((a &&& b) ^^^ (a &&& c) ^^^ (b &&& c))
    [t1 + t2, a, b, c, d + t1, e, f, g]
  | _ => h

/-- The compression of one block. -/
def shaCompress {w : Nat} (p : ShaParams) (k : List (BitVec w)) (h : List (BitVec w)) (block : Bytes) : List (BitVec w) :=
  let m := (List.range 16).map (fun i => BitVec.ofNat w (beNat ((block.drop (i * (w / 8))).take (w / 8))))
  let ws := (shaSchedule p (k.length - 16) m.reverse).reverse
  List.zipWith (· + ·) h ((k.zip ws).foldl (shaRound p) h)

def sha256K0 : List (BitVec 32) :=
  [0x428A2F98, 0x71374491, 0xB5C0FBCF, 0xE9B5DBA5, 0x3956C25B, 0x59F111F1, 0x923F82A4, 0xAB1C5ED5,
   0xD807AA98, 0x12835B01, 0x243185BE, 0x550C7DC3, 0x72BE5D74, 0x80DEB1FE, 0x9BDC06A7, 0xC19BF174]
def sha256K1 : List (BitVec 32) :=
  [0xE49B69C1, 0xEFBE4786, 0x0FC19DC6, 0x240CA1CC, 0x2DE92C6F, 0x4A7484AA, 0x5CB0A9DC, 0x76F988DA,
   0x983E5152, 0xA831C66D, 0xB00327C8, 0xBF597FC7, 0xC6E00BF3, 0xD5A79147, 0x06CA6351, 0x14292967]
def sha256K2 : List (BitVec 32) :=
  [0x27B70A85, 0x2E1B2138, 0x4D2C6DFC, 0x53380D13, 0x650A7354, 0x766A0ABB, 0x81C2C92E, 0x92722C85,
   0xA2BFE8A1, 0xA81A664B, 0xC24B8B70, 0xC76C51A3, 0xD192E819, 0xD6990624, 0xF40E3585, 0x106AA070]
def sha256K3 : List (BitVec 32) :=
  [0x19A4C116, 0x1E376C08, 0x2748774C, 0x34B0BCB5, 0x391C0CB3, 0x4ED8AA4A, 0x5B9CCA4F, 0x682E6FF3,
   0x748F82EE, 0x78A5636F, 0x84C87814, 0x8CC70208, 0x90BEFFFA, 0xA4506CEB, 0xBEF9A3F7, 0xC67178F2]
/-- The round constants of SHA-256. -/
def sha256K : List (BitVec 32) := sha256K0 ++ sha256K1 ++ sha256K2 ++ sha256K3
def sha512K0 : List (BitVec 64) :=
  [0x428A2F98D728AE22, 0x7137449123EF65CD, 0xB5C0FBCFEC4D3B2F, 0xE9B5DBA58189DBBC,
   0x3956C25BF348B538, 0x59F111F1B605D019, 0x923F82A4AF194F9B, 0xAB1C5ED5DA6D8118,
   0xD807AA98A3030242, 0x12835B0145706FBE, 0x243185BE4EE4B28C, 0x550C7DC3D5FFB4E2,
   0x72BE5D74F27B896F, 0x80DEB1FE3B1696B1, 0x9BDC06A725C71235, 0xC19BF174CF692694]
def sha512K1 : List (BitVec 64) :=
  [0xE49B69C19EF14AD2, 0xEFBE4786384F25E3, 0x0FC19DC68B8CD5B5, 0x240CA1CC77AC9C65,
   0x2DE92C6F592B0275, 0x4A7484AA6EA6E483, 0x5CB0A9DCBD41FBD4, 0x76F988DA831153B5,
   0x983E5152EE66DFAB, 0xA831C66D2DB43210, 0xB00327C898FB213F, 0xBF597FC7BEEF0EE4,
   0xC6E00BF33DA88FC2, 0xD5A79147930AA725, 0x06CA6351E003826F, 0x142929670A0E6E70]
def sha512K2 : List (BitVec 64) :=
  [0x27B70A8546D22FFC, 0x2E1B21385C26C926, 0x4D2C6DFC5AC42AED, 0x53380D139D95B3DF,
   0x650A73548BAF63DE, 0x766A0ABB3C77B2A8, 0x81C2C92E47EDAEE6, 0x92722C851482353B,
   0xA2BFE8A14CF10364, 0xA81A664BBC423001, 0xC24B8B70D0F89791, 0xC76C51A30654BE30,
   0xD192E819D6EF5218, 0xD69906245565A910, 0xF40E35855771202A, 0x106AA07032BBD1B8]
def sha512K3 : List (BitVec 64) :=
  [0x19A4C116B8D2D0C8, 0x1E376C085141AB53, 0x2748774CDF8EEB99, 0x34B0BCB5E19B48A8,
   0x391C0CB3C5C95A63, 0x4ED8AA4AE3418ACB, 0x5B9CCA4F7763E373, 0x682E6FF3D6B2B8A3,
   0x748F82EE5DEFB2FC, 0x78A5636F43172F60, 0x84C87814A1F0AB72, 0x8CC702081A6439EC,
   0x90BEFFFA23631E28, 0xA4506CEBDE82BDE9, 0xBEF9A3F7B2C67915, 0xC67178F2E372532B]
def sha512K4 : List (BitVec 64) :=
  [0xCA273ECEEA26619C, 0xD186B8C721C0C207, 0xEADA7DD6CDE0EB1E, 0xF57D4F7FEE6ED178,
   0x06F067AA72176FBA, 0x0A637DC5A2C898A6, 0x113F9804BEF90DAE, 0x1B710B35131C471B,
   0x28DB77F523047D84, 0x32CAAB7B40C72493, 0x3C9EBE0A15C9BEBC, 0x431D67C49C100D4C,
   0x4CC5D4BECB3E42B6, 0x597F299CFC657E2A, 0x5FCB6FAB3AD6FAEC, 0x6C44198C4A475817]
/-- The round constants of SHA-384. -/
def sha512K : List (BitVec 64) := sha512K0 ++ sha512K1 ++ sha512K2 ++ sha512K3 ++ sha512K4
def sha256H : List (BitVec 32) :=
  [0x6A09E667, 0xBB67AE85, 0x3C6EF372, 0xA54FF53A, 0x510E527F, 0x9B05688C, 0x1F83D9AB, 0x5BE0CD19]
def sha384H : List (BitVec 64) :=
  [0xCBBB9D5DC1059ED8, 0x629A292A367CD507, 0x9159015A3070DD17, 0x152FECD8F70E5939,
   0x67332667FFC00B31, 0x8EB44A8768581511, 0xDB0C2E0D64F98FA7, 0x47B5481DBEFA4FA4]

/-- SHA-256 of a byte string, 32 bytes. -/
def sha256 (b : Bytes) : Bytes :=
  let m := shaPad 64 8 b
  ((shaBlocks (m.length / 64 + 1) 64 m).foldl (shaCompress ⟨2, 13, 22, 6, 11, 25, 7, 18, 3, 17, 19, 10⟩ sha256K)
    sha256H).flatMap (fun x => beBytes 4 x.toNat)

/-- SHA-384 of a byte string, 48 bytes. -/
def sha384 (b : Bytes) : Bytes :=
  let m := shaPad 128 16 b
  (((shaBlocks (m.length / 128 + 1) 128 m).foldl (shaCompress ⟨28, 34, 39, 14, 18, 41, 1, 8, 7, 19, 61, 6⟩ sha512K)
    sha384H).flatMap (fun x => beBytes 8 x.toNat)).take 48

end Sys2Proof.Machine
end

