-- ==== Sys2Proof/Machine/StateBoot.lean ====
section
/-!
DEFINITION. Machine/StateBoot.lean: the protection set, the boot code's state, the one-time-programmable memory, the
boot flash, the Husk and the live updates (15).
-/
namespace Sys2Proof.Machine

/-- The BOOT_PROT_ block at reset (R599–R601): the bytes that are not 0, by offset. prot_format is 0x01 (R599 gives it; DEDUCED, log entry 12); prot_version and every
field for which the spec gives no reset value are 0. -/
def protReset : List Host.Cell :=
  [(0x02, 0x01), (0x05, 0x3C), (0x06, 0x40), (0x07, 0x78), (0x09, 0x85), (0x0A, 0x0C), (0x0B, 0x7D), (0x0D, 0x04), (0x0F, 0x19),
   (0x12, 0x10), (0x13, 0x11), (0x14, 0xFE), (0x16, 0x1F)]

/-- The images of the boot flash, each a signed header followed by its payload (R594, R596). -/
structure Flash where
  stage0 : Bytes
  stage1 : Bytes
  shellA : Bytes
  shellB : Bytes
  mainA : Bytes
  mainB : Bytes
  protA : Bytes
  protB : Bytes
  /-- The selector words: true names slot B. -/
  selShell : Bool
  selMain : Bool
  selProt : Bool
  /-- The repair table: unit class of R612, failed unit, spare (R622). -/
  repair : List (Nat × Nat × Nat)
  /-- Spares marked failed in the table: unit class, unit (R622). -/
  badSpares : List (Nat × Nat)
  /-- The Husk mirror: place in the circular region, record (R615). -/
  mirror : List (Nat × Bytes)
  deriving DecidableEq, Repr

def Flash.empty : Flash where
  stage0 := []
  stage1 := []
  shellA := []
  shellB := []
  mainA := []
  mainB := []
  protA := []
  protB := []
  selShell := false
  selMain := false
  selProt := false
  repair := []
  badSpares := []
  mirror := []

/-- The one-time-programmable memory (R596). -/
structure Otp where
  /-- Four key hashes of 48 bytes. -/
  keys : List Bytes
  revoked : List Bool
  /-- The floors of kinds 0x1–0x4. -/
  floors : List Nat
  deriving DecidableEq, Repr

def Otp.blank : Otp where
  keys := List.replicate 4 (List.replicate 48 0)
  revoked := List.replicate 4 false
  floors := List.replicate 4 0

/-- A request for a Husk record (R607). -/
structure HuskReq where
  typ : Nat
  source : Nat
  stamp : Nat
  /-- At most 36 bytes; the record holds zeros beyond them (R608). -/
  payload : Bytes
  deriving DecidableEq, Repr

/-- The Husk (R607–R617). -/
structure Husk where
  /-- The records of the MRAM, by slot: 64 bytes each (R608, R609). -/
  mram : List (Nat × Bytes)
  /-- seq of the next record (R608). -/
  next : Word
  /-- Waiting requests, oldest first, at most 256 (R610). -/
  queue : List HuskReq
  lostBefore : BitVec 16
  /-- Records lost since Shell power-up, saturating (R617). -/
  lost : BitVec 8
  bootCount : BitVec 16
  /-- HSK_NEWEST (R616). -/
  newest : Word
  /-- HSK_RD_SEQ (R616). -/
  rdSeq : Word
  holdupOk : Bool
  /-- A power fail is in progress, with this many records still to be written (R614). -/
  powerFail : Option Nat
  /-- Records lost at the last power fail (R611, R614). -/
  failLoss : Nat
  /-- The seq that the mirror copies next, and when each record that it has not copied was written (R615). -/
  mirrorNext : Word
  uncopied : List Nat
  deriving DecidableEq, Repr

def Husk.blank : Husk where
  mram := []
  next := 0
  queue := []
  lostBefore := 0
  lost := 0
  bootCount := 0
  newest := 0
  rdSeq := 0
  holdupOk := false
  powerFail := none
  failLoss := 0
  mirrorNext := 0
  uncopied := []

/-- An image being written into its boot-flash slot (R604, R619). -/
structure FlashWrite where
  cmd : Cmd
  /-- 2 Shell firmware, 3 main firmware, 4 protection image (R594). -/
  kind : Nat
  slotB : Bool
  image : Bytes
  deriving DecidableEq, Repr

/-- A main-firmware swap after its takeover (R619): the command, if it was deferred, and the takeover's GTC. -/
structure Takeover where
  cmd : Cmd
  at_ : Nat
  deriving DecidableEq, Repr

/-- A protection reboot or a Shell firmware swap that the restart path carries out (R606, R620): its SHELL_FW_SWAP, whether
the protection set changes and whether the Shell firmware does, and whether the new Shell firmware failed its start-up
checks. -/
structure Reboot where
  cmd : Cmd
  prot : Bool
  shell : Bool
  failed : Bool
  deriving DecidableEq, Repr

/-- Boot and update state. -/
structure Boot where
  /-- The BOOT_PROT_ block, 17,408 bytes by offset, boot_lock apart (R599). -/
  prot : List Host.Cell
  /-- BOOT_PROT_CTRL boot_lock (R598). -/
  lock : Bool
  /-- The verified protection image held in Shell memory (R597 step 6). -/
  held : Bytes
  /-- The last step of R597 that has ended. -/
  step : Nat
  /-- Whether the Shell runs the firmware of slot B. -/
  shellB : Bool
  failed : Bool
  /-- The reset cause of the last Shell start (R611). -/
  cause : Nat
  otp : Otp
  flash : Flash
  writes : List FlashWrite
  /-- FW_SWAP and SHELL_FW_SWAP commands that wait for the Plate boundary (R604, R619). -/
  swap : Option Cmd
  shellSwap : Option Cmd
  takeover : Option Takeover
  /-- A loaded Shell firmware image, and a loaded protection image, that the next SHELL_FW_SWAP takes. -/
  shellLoaded : Bool
  protLoaded : Bool
  reboot : Option Reboot
  deriving DecidableEq, Repr

def Boot.reset : Boot where
  prot := protReset
  lock := false
  held := []
  step := 0
  shellB := false
  failed := false
  cause := 0
  otp := Otp.blank
  flash := Flash.empty
  writes := []
  swap := none
  shellSwap := none
  takeover := none
  shellLoaded := false
  protLoaded := false
  reboot := none

end Sys2Proof.Machine
end

