-- ==== Sys2Proof/Machine/StateSolver.lean ====
section
/-!
DEFINITION. Machine/StateSolver.lean: the nine solver engines, their problem slots, the solves and the scenario batches
(06, 07).
-/
namespace Sys2Proof.Machine

/-- A resident structure image (R213, R218), with the mark that an uncorrectable error leaves (R231). -/
structure Image where
  bytes : Bytes
  version : BitVec 16
  usable : Bool
  /-- The session that loaded it (R539); none for a mailbox load. -/
  session : Option Word
  deriving DecidableEq, Repr

/-- The run-time parameters of a slot (R235). -/
structure SlotParams where
  iterations : Nat
  tau : Word
  feasTol : Word
  emitPlan : Bool
  deriving DecidableEq, Repr

/-- One input item of a slot: its id and its elements (R239, R241). -/
structure Item where
  id : Nat
  vals : List Word
  deriving DecidableEq, Repr

/-- A problem slot (R213). -/
structure Slot where
  active : Option Image
  standby : Option Image
  params : SlotParams
  /-- The input items as they stand after the last completed solve (R241). -/
  items : List Item
  /-- The estimator's state and covariance and every other value a kind keeps between solves (R233). -/
  persistent : List Word
  /-- The reciprocal seeds of path 1, by pivot index (R262, R263, R265). -/
  seeds : List (Nat × Word)
  /-- The diagnostic copy of the last abandoned solve (R273). -/
  diag : Option Bytes
  deriving DecidableEq, Repr

def SlotParams.none : SlotParams where
  iterations := 0
  tau := 0
  feasTol := 0
  emitPlan := true

def Slot.empty : Slot where
  active := .none
  standby := .none
  params := SlotParams.none
  items := []
  persistent := []
  seeds := []
  diag := .none

/-- Who asked for a solve: a SOLVE entry, a scenario of a batch, or a batch's STOP solve (R279, R281). -/
inductive SolveFor where
  | command (cmd : Cmd)
  | scenario (batch : CmdKey) (index : Nat)
  | stop (batch : CmdKey)
  deriving DecidableEq, Repr

/-- A solve waiting for its engine (R268). -/
structure WaitingSolve where
  owner : SolveFor
  session : Option Word
  slot : Nat
  /-- Memory key of the first byte of its delta packet (R234). -/
  delta : Nat
  /-- The packet that the firmware has built for a STOP solve (R281); empty for a packet in memory. -/
  built : Bytes
  /-- Where the result goes: memory key of its first byte, its capacity. -/
  result : Nat
  resultWindow : Option Nat
  capacity : Nat
  deadline : Option PhaseValue
  /-- Whether FP32 forms are accepted (basic level, R243). -/
  basic : Bool
  /-- The epoch of the engine when the solve was placed (R288). -/
  epoch : BitVec 16
  /-- The partition, class and queue that it was submitted on (R530, R756). -/
  part : Nat
  cls : Nat
  sq : Nat
  deriving DecidableEq, Repr

/-- A range of device memory protected against writes until a GTC value (R242). -/
structure Guard where
  lo : Nat
  hi : Nat
  till : Nat
  deriving DecidableEq, Repr

/-- A running solve (R234, R270). -/
structure Run where
  job : WaitingSolve
  /-- The delta packet as the engine read it (R234). -/
  packet : Bytes
  image : Image
  params : SlotParams
  /-- The items with this packet's entries and clamps applied (R225, R241). -/
  items : List Item
  persistent : List Word
  seeds : List (Nat × Word)
  clampCount : Nat
  clampItem : Nat
  clampElem : Nat
  start : Nat
  guards : List Guard
  /-- Whether the result write-out has begun (R270). -/
  writing : Bool
  /-- Whether SOLVE_STATE_WRITE has written the slot meanwhile: its state stands then (R645, log entry 156). -/
  rewritten : Bool
  deriving DecidableEq, Repr

/-- The state of a solver engine (R292). -/
inductive EngineMode where
  | active | spare | failed | retired
  deriving DecidableEq, Repr

/-- A solver engine 0–8 (R20, R213). -/
structure Engine where
  mode : EngineMode
  epoch : BitVec 16
  slots : List Slot
  waiting : List WaitingSolve
  run : Option Run
  /-- Solves completed, saturating (R292). -/
  solves : BitVec 32
  /-- While a swap onto this spare is under way (R285): the engine that it replaces, and the ENGINE_SWAP that asked. -/
  swapping : Option (Nat × Option Cmd)
  deriving DecidableEq, Repr

def Engine.reset (m : EngineMode) : Engine where
  mode := m
  epoch := 0
  slots := List.replicate 8 Slot.empty
  waiting := []
  run := none
  solves := 0
  swapping := .none

/-- How a scenario of a batch stands (R276, R280). -/
structure Scenario where
  engine : Nat
  slot : Nat
  delta : Nat
  result : Nat
  capacity : Nat
  /-- none until its solve has ended. -/
  status : Option (BitVec 8)
  iterations : Nat
  feasible : Bool
  degraded : Bool
  warn : BitVec 16
  checked : Bool
  accepted : Bool
  rejected : Bool
  planCrc : Word
  planAddr : Nat
  planLen : Nat
  endStamp : Nat
  deriving DecidableEq, Repr

/-- Where a batch stands in its chain (R280, R281). -/
inductive BatchStage where
  | solving | stopSolve | arming | finished
  deriving DecidableEq, Repr

/-- A scenario batch in progress (R275–R283). -/
structure Batch where
  cmd : Cmd
  session : Option Word
  /-- Memory key of its descriptor (R293) and its length. -/
  desc : Nat
  descLen : Nat
  fallback : Nat
  stopEngine : Nat
  stopSlot : Nat
  limitSet : Nat
  primaryHusk : Bool
  primaryNotify : Bool
  stopResult : Nat
  stopCapacity : Nat
  scenarios : List Scenario
  stage : BatchStage
  /-- The index of the accepted candidate (R280). -/
  winner : Option Nat
  /-- The candidate with the Tracer now. -/
  inTracer : Option Nat
  /-- Whether the fallback's arm_deadline has matched (R282). -/
  closed : Bool
  /-- The status of the primary's arm when it failed (R283). -/
  armStatus : Option (BitVec 8)
  stopPlanCrc : Word
  stopPlanAddr : Nat
  stopPlanLen : Nat
  part : Nat
  cls : Nat
  sq : Nat
  deriving DecidableEq, Repr

/-- The solver complex. -/
structure Solver where
  engines : List Engine
  batches : List Batch
  /-- Engine names remapped by a swap: failed engine, spare (R290). -/
  remap : List (Nat × Nat)
  /-- Stale completions discarded (R288). -/
  staleCount : BitVec 32
  deriving DecidableEq, Repr

def Solver.reset : Solver where
  engines := List.replicate 8 (Engine.reset .active) ++ [Engine.reset .spare]
  batches := []
  remap := []
  staleCount := 0

end Sys2Proof.Machine
end

