-- ==== Sys2Proof/Machine/StateField.lean ====
section
/-!
DEFINITION. Machine/StateField.lean: the Field's sectors, their scratchpads, the loaded and running routes and the
partitions (09, 10, 11).
-/
namespace Sys2Proof.Machine

/-- A circular region of a scratchpad: SPD_CR_BASE, SPD_CR_GEOM, SPD_CR_PTR and the slot tags (R393–R407). -/
structure Region where
  enable : Bool
  weight : Bool
  base : Nat
  slots : Nat
  words : Nat
  head : Nat
  tail : Nat
  /-- One 32-bit tag per slot (R395). -/
  tags : List Word
  deriving DecidableEq, Repr

def Region.off : Region where
  enable := false
  weight := false
  base := 0
  slots := 0
  words := 0
  head := 0
  tail := 0
  tags := []

/-- A physical sector 0–17 (R333) with its SPD block (R402–R407). -/
structure Sector where
  fenced : Bool
  /-- The sequencer's flag word (R194, R195). -/
  flags : Word
  /-- SPD_MODE: mode and rt_ports (R403). -/
  mode : BitVec 2
  rtPorts : BitVec 15
  /-- SPD_CONFLICT (R402). -/
  losses : BitVec 32
  waits : BitVec 32
  /-- SPD_ERR_COUNT (R404). -/
  tagParity : BitVec 8
  weightDetect : BitVec 8
  parityDetect : BitVec 8
  corrected : BitVec 8
  /-- SPD_SLOT_MAP, 512 bytes (R402). -/
  slotMap : Bytes
  regions : List Region
  /-- The scratchpad words written since the last route start, by address; every other word is undefined (R337). -/
  words : List (Nat × Word)
  /-- The xorshift state of the 64 MAP lanes (R183). -/
  lanes : List Word
  /-- The round-robin pointers of the 64 banks (R386). -/
  ptrs : List Nat
  /-- When frame cycle 0 began (R387); in the saved sectors of a spill, the time since then (R401). -/
  frame0 : Nat
  /-- The page descriptors that the running ATTEND route still has for this sector, 32 bytes each; region 24 holds the first 512 of
  them (R393, R451, R452). -/
  pages : List Bytes
  /-- The upper words that reads of the lower words of SPD_CONFLICT and SPD_CR_PTR have latched, by SPD offset (R55, R402). -/
  latches : List (Nat × Word)
  deriving DecidableEq, Repr

def Sector.reset : Sector where
  fenced := false
  flags := 0
  mode := 0
  rtPorts := 0
  losses := 0
  waits := 0
  tagParity := 0
  weightDetect := 0
  parityDetect := 0
  corrected := 0
  slotMap := List.replicate 512 0
  regions := List.replicate 32 Region.off
  words := []
  lanes := List.replicate 64 0
  ptrs := List.replicate 64 0
  frame0 := 0
  pages := []
  latches := []

/-- What a logical sector stands for (R333, R374, R376). -/
inductive SectorSlot where
  | phys (n : Nat)
  | absent
  /-- With the spare `spare` powering up for the physical sector `failed` (R374), and the SECTOR_REMAP that asked (R375). -/
  | pend (spare failed : Nat) (cmd : Option Cmd)
  deriving DecidableEq, Repr

/-- A loaded route program (R378). -/
structure Route where
  handle : Nat
  session : Word
  program : Bytes
  deriving DecidableEq, Repr

/-- An entry of a binding table (R363). -/
structure Binding where
  addr : Nat
  aux : Nat
  stride : Nat
  rows : Nat
  cols : Nat
  deriving DecidableEq, Repr

/-- A route that has been submitted and waits for its partition (R335). -/
structure WaitingRoute where
  cmd : Cmd
  session : Word
  part : Nat
  cls : Nat
  sq : Nat
  /-- 0 for a FIELD_OP (R380). -/
  handle : Nat
  program : Bytes
  binds : List Binding
  /-- The operation block of a FIELD_OP; empty for a ROUTE_RUN (R379). -/
  op : Bytes
  submitted : Nat
  deriving DecidableEq, Repr

/-- A tile of a queue (R353, R395): its shape, its valid count, its elements in row order, each a code of the queue's
format (an MXFP4 element with its block's scale above it, bits [11:4]), and the flags and out-of-range indices that its
step met (R194, R346). -/
structure Tile where
  rows : Nat
  cols : Nat
  valid : Nat
  elems : List Word
  flags : Word
  faults : Nat
  deriving DecidableEq, Repr

/-- A queue of one sector of a running route (R396, R397): every tile published since the route's start, oldest first,
how many its consumer has released, the consecutive detections on the contents of each slot still held, by the number of its tile
(R410, R413), and when a tile was last published or released (R357). -/
structure QueuePos where
  sector : Nat
  queue : Nat
  tiles : List Tile
  released : Nat
  detections : List (Nat × Nat)
  moved : Nat
  deriving DecidableEq, Repr

/-- A running route (R335, R365–R372). -/
structure RouteRun where
  job : WaitingRoute
  start : Nat
  proof : Bool
  epoch : BitVec 16
  guards : List Guard
  queues : List QueuePos
  indexFaults : BitVec 16
  reruns : BitVec 12
  restarted : Bool
  warn : BitVec 16
  /-- Device addresses of the page headers it has pinned (R448, R453). -/
  pins : List Nat
  /-- The private partial copies of a Proof-mode SCATTER, per sector: address, word (R361). -/
  copies : List (Nat × Nat × Word)
  /-- Where in the partition's share they lie: address, bytes (R361, R424). -/
  space : List (Nat × Nat)
  /-- The key count that a SETOP of FIELD_OP reports (R378). -/
  keys : Nat
  /-- What a full spill has saved of the partition's sectors, in logical order; empty while not spilled (R401). -/
  saved : List Sector
  deriving DecidableEq, Repr

/-- What PARAM_WRITE and TABLE_SWAP actions of class 0x02 have overridden since the last PLATE_SWAP (R88, R89). -/
structure PartOverride where
  proof : Option Nat
  spdMode : Option Nat
  rtPorts : Option Nat
  mapIndex : Option Nat
  waitLimit : Option Nat
  slotMap : Option Bytes
  deriving DecidableEq, Repr

def PartOverride.none : PartOverride where
  proof := .none
  spdMode := .none
  rtPorts := .none
  mapIndex := .none
  waitLimit := .none
  slotMap := .none

/-- What a full spill and its restore cost the session whose HARD command caused it (R533): from when the time runs that is still to
be charged, and whether the spill-out still goes on. -/
structure SpillTime where
  session : Word
  since : Nat
  out : Bool
  deriving DecidableEq, Repr

/-- A partition's Field state (R334, R335, R538). -/
structure Partition where
  epoch : BitVec 16
  waiting : List WaitingRoute
  run : Option RouteRun
  spilled : Option RouteRun
  /-- A restartable route fenced by a sector fault, which runs again once the spare is ready (R372). -/
  fenced : Option RouteRun
  /-- The time of the last full spill, until its restore (R533). -/
  spill : Option SpillTime
  /-- A SECTOR_REMAP that waits for the running route to complete (R375): logical sector and command. -/
  remap : List (Nat × Cmd)
  override : PartOverride
  /-- Delays of slots by an overrun (R521). -/
  overruns : BitVec 32
  /-- The slot that is open now (R518), CHECK slots apart, by its place in the slot table; none between slots. -/
  slot : Option Nat
  /-- The CHECK slot that is open now (R507). -/
  check : Option Nat
  /-- When the open slot, and the open CHECK slot, began (R518, R521). -/
  since : Nat
  checkSince : Nat
  deriving DecidableEq, Repr

def Partition.reset : Partition where
  epoch := 0
  waiting := []
  run := .none
  spilled := .none
  fenced := .none
  spill := .none
  remap := []
  override := PartOverride.none
  overruns := 0
  slot := .none
  check := .none
  since := 0
  checkSince := 0

/-- The Field. -/
structure Field where
  sectors : List Sector
  /-- Logical sectors 0–15 (R333). -/
  map : List SectorSlot
  parts : List Partition
  routes : List Route
  /-- The shapes and formats for which each session's FIELD_OP has a built route, most recent first (R380). -/
  built : List (Word × Bytes)
  deriving DecidableEq, Repr

def Field.reset : Field where
  sectors := List.replicate 18 Sector.reset
  map := (List.range 16).map SectorSlot.phys
  parts := List.replicate 16 Partition.reset
  routes := []
  built := []

end Sys2Proof.Machine
end

