-- ==== Sys2Proof/Machine/StateHost.lean ====
section
/-!
DEFINITION. Machine/StateHost.lean: the host interface, the queues, the sessions, the memory windows and the DMA
transfers (04), with the byte memories they move data in.
-/
namespace Sys2Proof.Machine

/-- A byte memory in canonical form: addresses strictly rising, no entry equal to 0, the value that an unlisted
address reads as (DESIGN CHOICE, log entry 3). -/
abbrev Memory := List Host.Cell

/-- The accounting counters of a session (R532). -/
structure Counters where
  queueWait : Nat
  queueWaitMax : Nat
  started : Nat
  fieldSectorNs : Nat
  solverEngineNs : Nat
  dmaNs : Nat
  hashNs : Nat
  preemptions : BitVec 32
  hardWaits : BitVec 32
  staleEpoch : BitVec 32
  deadlineMisses : BitVec 32
  admissionRefusals : BitVec 32
  deriving DecidableEq, Repr

def Counters.zero : Counters where
  queueWait := 0
  queueWaitMax := 0
  started := 0
  fieldSectorNs := 0
  solverEngineNs := 0
  dmaNs := 0
  hashNs := 0
  preemptions := 0
  hardWaits := 0
  staleEpoch := 0
  deadlineMisses := 0
  admissionRefusals := 0

/-- An asynchronous event waiting for a request (R156, R157). -/
structure AsyncEvent where
  code : BitVec 16
  result : DWord
  stamp : Nat
  deriving DecidableEq, Repr

/-- An open session (R150, R151). -/
structure Session where
  /-- [15:0] slot, [31:16] generation (R151). -/
  id : Word
  fn : Nat
  share : BitVec 16
  maxSq : BitVec 16
  maxCq : BitVec 16
  quota : DWord
  /-- Outstanding ASYNC_EVENT_REQUESTs, oldest first, at most 8 (R156). -/
  requests : List Cmd
  /-- Events waiting for a request, oldest first, at most 64 (R156). -/
  events : List AsyncEvent
  /-- Events discarded since the last event posted, saturating (R156). -/
  discarded : BitVec 16
  /-- The virtual time V (R531). -/
  vtime : Rat
  counters : Counters
  deriving DecidableEq, Repr

/-- A submission queue (R134–R141). -/
structure SubQueue where
  id : Nat
  session : Word
  fn : Nat
  ring : Nat
  inDevice : Bool
  depth : Nat
  cq : Nat
  part : Nat
  /-- 0 BEST, 1 SOFT, 2 HARD (R163). -/
  cls : Nat
  /-- The tail after the last accepted doorbell (R134). -/
  tail : Nat
  /-- The next entry to fetch (sq_head, R142). -/
  head : Nat
  /-- ERROR (R135). -/
  error : Bool
  /-- Tail and stamp of the doorbells that the firmware has taken from the FIFO and whose entries are not all fetched,
  oldest first (R137). -/
  bells : List (Nat × Nat)
  /-- Placed by the firmware (CREATE_SQ with partition 0xFF, R539) rather than explicitly (R540). -/
  placed : Bool
  deriving DecidableEq, Repr

/-- A submitted command from its fetch until its last completion is posted (R141). -/
structure Outstanding where
  cmd : Cmd
  session : Word
  /-- The 16 words of its entry (R139). -/
  entry : List Word
  /-- The doorbell's stamp (R137). -/
  stamp : Nat
  /-- Whether the command has started (R121, R268). -/
  started : Bool
  /-- Whether its DEFERRED completion has been issued (R146). -/
  deferred : Bool
  /-- Whether its last completion has been issued and waits to be posted. -/
  done : Bool
  deriving DecidableEq, Repr

/-- A completion that the command interface is due to post (R142). -/
structure Completion where
  cmdId : BitVec 16
  sq : BitVec 18
  status : BitVec 8
  kind : BitVec 4
  warn : BitVec 16
  stamp : Nat
  result : DWord
  tag : BitVec 16
  epoch : BitVec 16
  /-- Whether it is the command's last completion (R141). -/
  last : Bool
  /-- The etch that it releases when it is posted (R95). -/
  release : Option Nat
  /-- Raise the vector at once (R152). -/
  urgent : Bool
  /-- The engine whose placement gave its epoch, for the completion of a solve (R288). -/
  placed : Option Nat
  deriving DecidableEq, Repr

/-- A completion queue (R142–R144, R155). -/
structure ComQueue where
  id : Nat
  session : Word
  fn : Nat
  ring : Nat
  inDevice : Bool
  depth : Nat
  vector : Nat
  coalCount : Nat
  coalTime : Nat
  tail : Nat
  head : Nat
  /-- The phase tag of the pass being written (R143). -/
  pass : Bool
  /-- Completions due, oldest first (R144). -/
  waiting : List Completion
  /-- Completions posted since the vector was last raised (R155). -/
  unsignalled : Nat
  /-- When the first of them was posted. -/
  firstAt : Option Nat
  deriving DecidableEq, Repr

/-- An open memory window (R153, R165). -/
structure Window where
  id : Nat
  session : Word
  fn : Nat
  host : Bool
  base : Nat
  length : Nat
  /-- The BAR2 offset in bytes when it is mapped (R128). -/
  bar2 : Option Nat
  writable : Bool
  deriving DecidableEq, Repr

/-- An allocation of device memory (R165, R752). -/
structure Allocation where
  addr : Nat
  bytes : Nat
  /-- 0 generic, 1 weight, 2 activation, 3 queue ring (R165). -/
  cls : Nat
  /-- The owning session; none once it is kept only for an etch passed to its function (R152). -/
  session : Option Word
  fn : Nat
  deriving DecidableEq, Repr

/-- What a DMA transfer does (R165): `src` and `dst` are the keys of its first bytes, `window` names the window that it
writes through. -/
inductive TransferKind where
  | copy (src window dst : Nat)
  | fill (window dst : Nat) (pattern : Word)
  | crc (src : Nat)
  deriving DecidableEq, Repr

/-- A DMA transfer in progress (R153, R165). -/
structure Transfer where
  cmd : Cmd
  kind : TransferKind
  length : Nat
  start : Nat
  /-- How much had landed, and the status to come, when its window was closed or a unit of it began to drain (R153, R661);
  none while neither has happened. -/
  cut : Option (Nat × BitVec 8)
  deriving DecidableEq, Repr

/-- The registers of one PCIe function (R129–R133), its MSI-X entries apart. -/
structure Func where
  dbReject : BitVec 32
  dbLost : BitVec 32
  barReject : BitVec 32
  mbxCmd : List Word
  mbxResp : List Word
  overrun : Bool
  respValid : Bool
  busy : Bool
  deriving DecidableEq, Repr

def Func.reset : Func where
  dbReject := 0
  dbLost := 0
  barReject := 0
  mbxCmd := List.replicate 16 0
  mbxResp := List.replicate 8 0
  overrun := false
  respValid := false
  busy := false

/-- A doorbell in the FIFO (R136, R137). -/
structure Doorbell where
  sq : Nat
  tail : Nat
  stamp : Nat
  deriving DecidableEq, Repr

/-- One MSI-X table entry and its pending bit (R126, R155). -/
structure MsixEntry where
  fn : Nat
  vector : Nat
  addr : DWord
  data : Word
  masked : Bool
  pend : Bool
  deriving DecidableEq, Repr

/-- The host interface (R125–R160). -/
structure HostIf where
  /-- fw_ready, shared by every function (R130). -/
  fwReady : Bool
  /-- safe_state (R130). -/
  safeState : Bool
  /-- shell_only (R130). -/
  shellOnly : Bool
  /-- fw_slot: false A, true B (R130). -/
  fwSlotB : Bool
  swapInProgress : Bool
  /-- Functions 0–63. -/
  funcs : List Func
  /-- The doorbell FIFO, oldest first, at most 4,096 (R136). -/
  fifo : List Doorbell
  /-- The MSI-X entries that differ from reset; an unlisted one is masked with nothing pending. -/
  msix : List MsixEntry
  /-- The upper words that 32-bit reads of a lower word have latched (R55): function, BAR0 offset of the upper word, word. -/
  latches : List (Nat × Nat × Word)
  deriving DecidableEq, Repr

/-- The host interface at reset. -/
def HostIf.reset : HostIf where
  fwReady := false
  safeState := false
  shellOnly := true
  fwSlotB := false
  swapInProgress := false
  funcs := List.replicate 64 Func.reset
  fifo := []
  msix := []
  latches := []

/-- Queues, sessions, windows and transfers (R134–R165). -/
structure Cmds where
  sessions : List Session
  /-- The last generation used of each slot that has been used (R151). -/
  generations : List (Nat × BitVec 16)
  sqs : List SubQueue
  cqs : List ComQueue
  outstanding : List Outstanding
  windows : List Window
  allocs : List Allocation
  transfers : List Transfer
  /-- CLOSE_SESSION commands that wait for a free entry of their own queue's CQ (R152 step 4). -/
  closing : List Word
  deriving DecidableEq, Repr

def Cmds.reset : Cmds where
  sessions := []
  generations := []
  sqs := []
  cqs := []
  outstanding := []
  windows := []
  allocs := []
  transfers := []
  closing := []

/-- The memories the device reads and writes (R15, R419). -/
structure Mem where
  /-- Device memory: shared buffer, then LPDDR (R419, R423). -/
  dev : Memory
  /-- Host memory reached over PCIe, keyed by function · 2^64 + address (R153). -/
  host : Memory
  deriving DecidableEq, Repr

def Mem.reset : Mem where
  dev := []
  host := []

end Sys2Proof.Machine
end

