-- ==== Sys2Proof/Machine/StateSafety.lean ====
section
/-!
DEFINITION. Machine/StateSafety.lean: the Tracer, the limit sets, the safe state, STO, the brakes and the E-stop (14).
-/
namespace Sys2Proof.Machine

/-- Who asked for a Tracer check: TRACER_CHECK, or a scenario batch (R280, R554). -/
inductive CheckFor where
  | command (cmd : Cmd)
  | candidate (batch : CmdKey) (index : Nat)
  deriving DecidableEq, Repr

/-- A keep-out object (R562). -/
structure Keepout where
  x : Int
  y : Int
  z : Int
  r : Nat
  deriving DecidableEq, Repr

/-- A keep-out frame that passed every check of R568 (R562). -/
structure SealFrame where
  objects : List Keepout
  capture : Int
  arrival : Nat
  deriving DecidableEq, Repr

/-- A check request copied into Shell memory (R552, R553). -/
structure CheckReq where
  owner : CheckFor
  request : Bytes
  /-- The partition whose CHECK slots it waits for, when it has one (R553). -/
  part : Option Nat
  deriving DecidableEq, Repr

/-- What a check finds (R558, R564). -/
structure Verdict where
  accepted : Bool
  /-- The reason code of a rejection; 0 for an acceptance. -/
  reason : Nat
  knot : Nat
  index : Nat
  /-- The plan group, when the request's plan block can be read. -/
  group : Option Nat
  feasible : Bool
  crc : Word
  limitSet : Nat
  origin : PhaseValue
  deriving DecidableEq, Repr

/-- The running check, with what it finds on the inputs that it latched at its start (R559, R561, R562). -/
structure CheckRun where
  req : CheckReq
  start : Nat
  verdict : Verdict
  deriving DecidableEq, Repr

/-- An acceptance record (R564). -/
structure Acceptance where
  group : Nat
  crc : Word
  limitSet : Nat
  stamp : Nat
  /-- The plan's origin, at whose count the record ends. -/
  origin : PhaseValue
  deriving DecidableEq, Repr

/-- The safe state in progress (R577–R580). -/
structure SafeState where
  /-- When it was triggered. -/
  trigger : Nat
  /-- Source number of the unit that detected it (R577). -/
  source : Nat
  /-- The seq of its Husk record (R157). -/
  seq : Word
  /-- Whether the main domain has left reset (R578 step 6 and after). -/
  released : Bool
  deriving DecidableEq, Repr

/-- Why the STO outputs are to go low when the stops have come to rest (R580, R581, R584). -/
inductive StoCause where
  | restart | shellFault | estop | selftest
  deriving DecidableEq, Repr

/-- What brake_delay_ms is running for (R582, R586). -/
inductive BrakeDelay where
  | idle | sto | release
  deriving DecidableEq, Repr

/-- The Tracer, the stop pins and the safe state. -/
structure Safety where
  /-- Limit sets 0–15 in force, as payload bytes (R555, R556). -/
  limits : List (Option Bytes)
  queue : List CheckReq
  check : Option CheckRun
  acceptances : List Acceptance
  /-- TRC_COUNT (R589). -/
  checks : BitVec 32
  rejections : BitVec 16
  disagreements : BitVec 16
  /-- TRC_LAST_REJECT (R589). -/
  lastReject : DWord
  /-- TRC_E2E (R589). -/
  e2eBad : BitVec 16
  e2eLoss : BitVec 16
  /-- Whether the known-answer test has run in this diagnostic interval (R587). -/
  knownAnswer : Bool
  /-- The Tracer has failed its own diagnostics: it accepts no plan (R31). -/
  tracerFailed : Bool
  safe : Option SafeState
  /-- When the restart window of the last trigger began, until it expires (R580). -/
  windowFrom : Option Nat
  /-- A safe-state restart has taken place and no accepted plan has committed since (R572). -/
  firstPlan : Bool
  /-- The Shell fault path is latched (R581). -/
  shellFault : Bool
  /-- STO_OUT_A and STO_OUT_B, BRAKE_OUT_A and BRAKE_OUT_B; true is high (R582). -/
  stoA : Bool
  stoB : Bool
  brakeA : Bool
  brakeB : Bool
  /-- The STO request in every drive's safety message (R582). -/
  stoRequest : Bool
  /-- STO has been asserted and not released by SAFETY_RESET (R586). -/
  stoHeld : Bool
  /-- Why STO follows once the stops have come to rest, each cause with the instant from which its 300 ms run (R580, R581, R584,
  R588). -/
  stoDue : List (StoCause × Nat)
  brakeDelay : BrakeDelay
  brakeDelayAt : Nat
  /-- The last test pulse (R585): whether of the B outputs, and the GTC at which it began; those outputs are low for 250 µs
  from then. -/
  pulse : Option (Bool × Nat)
  /-- E-stop inputs (R583): since when each has read low, and since when they differ and both read closed. -/
  lowA : Option Nat
  lowB : Option Nat
  openA : Bool
  openB : Bool
  differ : Option Nat
  closedSince : Option Nat
  estopFault : Bool
  outputFault : Bool
  /-- The stamp of the last control-processor heartbeat (R577). -/
  heartbeat : Nat
  deriving DecidableEq, Repr

def Safety.reset : Safety where
  limits := List.replicate 16 none
  queue := []
  check := none
  acceptances := []
  checks := 0
  rejections := 0
  disagreements := 0
  lastReject := 0
  e2eBad := 0
  e2eLoss := 0
  knownAnswer := false
  tracerFailed := false
  safe := none
  windowFrom := none
  firstPlan := false
  shellFault := false
  stoA := false
  stoB := false
  brakeA := false
  brakeB := false
  stoRequest := false
  stoHeld := true
  stoDue := []
  brakeDelay := .idle
  brakeDelayAt := 0
  pulse := none
  lowA := none
  lowB := none
  openA := false
  openB := false
  differ := none
  closedSince := none
  estopFault := false
  outputFault := false
  heartbeat := 0

end Sys2Proof.Machine
end

