-- ==== Sys2Proof/Machine/StateIf.lean ====
section
/-!
DEFINITION. Machine/StateIf.lean: the power states (17), the external interfaces (18, 19) and the imprints (16).
-/
namespace Sys2Proof.Machine

/-- A slice or bank between its drain instant and its target state (R660–R663). -/
structure Drain where
  /-- Unit code (R655). -/
  unit : Nat
  target : BitVec 2
  /-- The drain instant and the source number it carries (R660). -/
  at_ : Nat
  source : Nat
  /-- Source number of the first discarded write (R663). -/
  discarded : Option Nat
  deriving DecidableEq, Repr

/-- Power (R647–R675) and the slices' fault records (R623). -/
structure Power where
  /-- Code of R647; 0 is OFF. -/
  state : Nat
  /-- The profile in force, or the last in force outside ACTIVE (R650, R652): a code of R647. -/
  profile : Nat
  /-- The state that the transition in progress leads to (PWR_STATE in_transition). -/
  transition : Option Nat
  thermalTrip : Bool
  wakeRefused : Bool
  /-- Unit states, coded as in R656: sectors 0–17, engines 0–8, slices 0–15, LPDDR banks 0–7. -/
  sectors : List (BitVec 2)
  engines : List (BitVec 2)
  slices : List (BitVec 2)
  banks : List (BitVec 2)
  selfRefresh : Bool
  drains : List Drain
  /-- Sector and engine transitions in progress: unit code, target (R656). -/
  moves : List (Nat × BitVec 2)
  /-- The unit states held before STANDBY (R648): sectors, engines, slices. -/
  saved : Option (List (BitVec 2) × List (BitVec 2) × List (BitVec 2))
  /-- The warning threshold, signed (R674). -/
  warn : BitVec 16
  /-- The readings of the last sample: eight main-die sensors, then the Shell's (R669). -/
  readings : List Int
  /-- Whether the warning has been raised and not yet withdrawn (R669). -/
  warned : Bool
  /-- MAIN_PWR_EN, and whether the main supplies are valid (R732, R733). -/
  mainPwrEn : Bool
  mainValid : Bool
  /-- The VDD_MAIN set-point in mV (R731); 0 while MAIN_PWR_EN is low. -/
  vddMain : Nat
  /-- Slices fenced (R623). -/
  fenced : List Bool
  /-- Uncorrectable errors of each slice in this diagnostic interval (R623). -/
  sliceErrors : List Nat
  deriving DecidableEq, Repr

def Power.reset : Power where
  state := 1
  profile := 5
  transition := none
  thermalTrip := false
  wakeRefused := false
  sectors := List.replicate 18 0
  engines := List.replicate 9 0
  slices := List.replicate 16 0
  banks := List.replicate 8 0
  selfRefresh := false
  drains := []
  moves := []
  saved := none
  warn := 0x06E0
  readings := List.replicate 9 0
  warned := false
  vddMain := 0
  mainPwrEn := false
  mainValid := false
  fenced := List.replicate 16 false
  sliceErrors := List.replicate 16 0

/-- One LPDDR channel's counters and training (R416, R618, R681, R720). -/
structure LpddrChannel where
  corrected : BitVec 32
  rereads : BitVec 32
  uncorrectable : BitVec 32
  retrains : BitVec 16
  drift : BitVec 16
  /-- Refreshes counted since boot: requests to the bank wait while one runs (R680). -/
  refreshes : Nat
  /-- Retraining steps still to run for LPDDR_RETRAIN (R618). -/
  retraining : Option Nat
  deriving DecidableEq, Repr

def LpddrChannel.reset : LpddrChannel where
  corrected := 0
  rereads := 0
  uncorrectable := 0
  retrains := 0
  drift := 0
  refreshes := 0
  retraining := none

/-- A frame being put together from fragments: its frame_low, the next index, the arrival of fragment 0 and its bytes; with
`next` 0 a frame of which the rest is dropped (R686). -/
structure Assembly where
  low : Nat
  next : Nat
  first : Nat
  data : Bytes
  deriving DecidableEq, Repr

/-- An ingress stream 0–63 (R682–R688, R568, R569). -/
structure Stream where
  /-- The descriptor, 8 words; kind 0 is off (R682). -/
  desc : List Word
  /-- Frames since the descriptor took effect (R683). -/
  number : Nat
  frames : BitVec 32
  corrupt : BitVec 32
  stale : BitVec 32
  loss : BitVec 32
  /-- The last accepted frame_counter (R568). -/
  counter : Option Word
  assembly : Option Assembly
  /-- The frames that passed every check and were copied to the Shell, newest first: the newest, and the newest that arrived at
  an earlier tick (R562, R687). -/
  newest : List SealFrame
  /-- When the last end-to-end record of the stream was written, and outcomes counted since (R569). -/
  recorded : Option Nat
  outcomes : Nat
  deriving DecidableEq, Repr

def Stream.reset : Stream where
  desc := List.replicate 8 0
  number := 0
  frames := 0
  corrupt := 0
  stale := 0
  loss := 0
  counter := none
  assembly := none
  newest := []
  recorded := none
  outcomes := 0

/-- An Ethernet MAC 0–3 (R689, R690, R750). -/
structure Mac where
  /-- 802.1AS time in ns at the GTC stamp `at_`. -/
  time : Nat
  at_ : Nat
  synced : Bool
  /-- The gate control list in force (R689); empty for none. -/
  gates : Bytes
  /-- The entry in force, and how much of the cycle has passed before it (R750). -/
  entry : Nat
  elapsed : Nat
  deriving DecidableEq, Repr

def Mac.reset : Mac where
  time := 0
  at_ := 0
  synced := false
  gates := []
  entry := 0
  elapsed := 0

/-- An encoder input 0–15 (R703–R707). -/
structure Encoder where
  /-- 0 off, 1 quadrature, 2 serial. -/
  mode : BitVec 2
  rate : BitVec 2
  posBits : BitVec 6
  triggerLog2 : BitVec 2
  /-- The levels of A and B at the last sample (R704). -/
  a : Bool
  b : Bool
  /-- The input's raw position in counts, 48 bits, signed (R91, R704, R707). -/
  count : BitVec 48
  /-- The encoder calibration in force (R91): whether it negates, and the offset it adds, 48.16. -/
  invert : Bool
  offset : BitVec 64
  quadErrors : BitVec 32
  serialErrors : BitVec 32
  zLatch : BitVec 64
  /-- SYNC0 events since the last request (R706). -/
  syncs : Nat
  /-- The start-bit stamp of the request that waits for its reply (R706). -/
  request : Option Nat
  deriving DecidableEq, Repr

def Encoder.reset : Encoder where
  mode := 0
  rate := 0
  posBits := 0
  triggerLog2 := 0
  a := false
  b := false
  count := 0
  invert := false
  offset := 0
  quadErrors := 0
  serialErrors := 0
  zLatch := 0
  syncs := 0
  request := none

/-- The motion network's image and counters (R691–R696, R720). -/
structure Mnet where
  /-- The network image in force: header, node entries, safety-connection entries; empty while stopped. -/
  image : Bytes
  running : Bool
  /-- Per line: missing cycles, redundancy breaks, safety-connection failures (R720). -/
  missing : List (BitVec 32)
  breaks : List (BitVec 32)
  failures : List (BitVec 32)
  /-- Safety connections out of their data state (R696), by number. -/
  faulted : List Nat
  deriving DecidableEq, Repr

def Mnet.reset : Mnet where
  image := []
  running := false
  missing := [0, 0]
  breaks := [0, 0]
  failures := [0, 0]
  faulted := []

/-- A CAN frame on its way out (R697). -/
structure CanFrame where
  cmd : Cmd
  ident : BitVec 29
  extended : Bool
  fd : Bool
  brs : Bool
  data : Bytes
  /-- The phase value it waits for; none once it may be sent. -/
  point : Option PhaseValue
  deriving DecidableEq, Repr

/-- A CAN FD port 0–3 (R697, R698). -/
structure CanPort where
  /-- The configuration block in force: header and filters; empty before the first (R698). -/
  block : Bytes
  /-- Records written to the ring. -/
  index : Nat
  queue : List CanFrame
  busOff : Bool
  /-- Records kept while the main domain does not run, at most 256 (R698). -/
  kept : List Bytes
  received : BitVec 32
  sent : BitVec 32
  errors : BitVec 32
  busOffs : BitVec 32
  deriving DecidableEq, Repr

def CanPort.reset : CanPort where
  block := []
  index := 0
  queue := []
  busOff := false
  kept := []
  received := 0
  sent := 0
  errors := 0
  busOffs := 0

/-- A peer port (R708, R709, R720). -/
structure PeerPort where
  up : Bool
  neighbour : BitVec 2
  replays : BitVec 32
  resends : BitVec 32
  discarded : BitVec 32
  unreachable : BitVec 16
  /-- The GTC of the last flit received (R709). -/
  lastFlit : Nat
  /-- The GTC of the last message sent (R709). -/
  lastSent : Nat
  deriving DecidableEq, Repr

def PeerPort.reset : PeerPort where
  up := false
  neighbour := 0
  replays := 0
  resends := 0
  discarded := 0
  unreachable := 0
  lastFlit := 0
  lastSent := 0

/-- A peer window (R712, R713). -/
structure PeerWindow where
  id : Nat
  session : Word
  base : Nat
  length : Nat
  devices : BitVec 4
  writable : Bool
  readable : Bool
  deriving DecidableEq, Repr

/-- A message that waits for its ACK or READ_DATA (R716). -/
structure PeerMessage where
  device : Nat
  seq : Word
  header : List Word
  payload : Bytes
  resends : Nat
  /-- The transfer it belongs to, and its byte offset in the transfer and its length. -/
  transfer : BitVec 16
  offset : Nat
  length : Nat
  deriving DecidableEq, Repr

/-- A PEER_WRITE or PEER_READ in progress (R714). -/
structure PeerTransfer where
  cmd : Cmd
  write : Bool
  /-- Its local window, and the memory key of its first local byte. -/
  window : Nat
  local_ : Nat
  length : Nat
  id : BitVec 16
  /-- Outcomes of its messages: offset, length, status (R714). -/
  outcomes : List (Nat × Nat × BitVec 8)
  deriving DecidableEq, Repr

/-- The peer link (R708–R719). -/
structure Peer where
  /-- This device's number, from its pins (R708). -/
  number : BitVec 2
  /-- The other devices known to be present. -/
  present : BitVec 4
  ports : List PeerPort
  windows : List PeerWindow
  /-- Ids of the windows that have been closed (R713). -/
  closed : List Nat
  transfers : List PeerTransfer
  messages : List PeerMessage
  /-- Next seq per destination 0–3 (R710). -/
  seqs : List Word
  /-- Per source 0–3, the seq and status of its last messages, newest first, at most 4,096 (R716). -/
  kept : List (List (Word × BitVec 8))
  /-- Devices recorded as unreachable since a message of theirs was last received (R717). -/
  lost : List Nat
  /-- The next transfer id. -/
  nextTransfer : BitVec 16
  deriving DecidableEq, Repr

def Peer.reset : Peer where
  number := 0
  present := 0
  ports := [PeerPort.reset, PeerPort.reset]
  windows := []
  closed := []
  transfers := []
  messages := []
  seqs := List.replicate 4 0
  kept := List.replicate 4 []
  lost := []
  nextTransfer := 0

/-- An IMPRINT_CONFIG in force (R637). -/
structure ImprintConfig where
  sq : Nat
  session : Word
  window : Nat
  offset : Nat
  entries : Nat
  /-- Number of the next imprint on the queue (R634 tag). -/
  next : Word
  /-- Commands of the queue that were outstanding before: they are not imprinted (R637). -/
  before : List CmdKey
  deriving DecidableEq, Repr

/-- A registration of WEIGHT_DIGEST (R639): the allocation's address and its digest. -/
structure WeightReg where
  addr : Nat
  digest : Bytes
  deriving DecidableEq, Repr

/-- A subject that runs and is to be imprinted (R637, R638): its queue, the command or batch it belongs to, the scenario, the
head of its imprint, and the digests of what it started with. -/
structure ImprintStart where
  sq : Nat
  owner : CmdKey
  index : Nat
  subject : Nat
  unit : Nat
  cmdId : Nat
  flags : Nat
  /-- program_digest, weight_digest and input_digest. -/
  digests : Bytes
  /-- Tag of a serving step; none where the queue's own count gives it (R634). -/
  tag : Option Word
  deriving DecidableEq, Repr

/-- An imprint that waits for its hashing (R638, R641): bytes 0–87, and the completion that is posted after it. -/
structure ImprintJob where
  sq : Nat
  owner : CmdKey
  body : Bytes
  tag : Option Word
  held : Option Completion
  deriving DecidableEq, Repr

/-- What the hash engine works on (R642), in the order of the requests' stamps: a subject's input items, with the device ranges
that they keep protected and their bytes, an imprint with its result's bytes, an allocation of WEIGHT_DIGEST. -/
inductive HashJob where
  | inputs (session : Word) (guards : List (Nat × Nat)) (bytes : Nat)
  | imprint (job : ImprintJob) (session : Word) (bytes : Nat)
  | weight (cmd : Cmd) (addr : Nat)
  deriving DecidableEq, Repr

/-- Imprints and the hash engine (R634–R646). -/
structure Imprints where
  configs : List ImprintConfig
  weights : List WeightReg
  started : List ImprintStart
  queue : List HashJob
  deriving DecidableEq, Repr

def Imprints.reset : Imprints where
  configs := []
  weights := []
  started := []
  queue := []

/-- What leaves the device at its ports, oldest first in `State.out`: an MSI-X message of a function, a peer message, an
I3C in-band interrupt, a CAN frame, a serial encoder request and a motion-network frame. -/
inductive Output where
  | msix (fn vector : Nat) (addr : DWord) (data : Word)
  | peer (port : Nat) (header : List Word) (payload : Bytes)
  | ibi (data : Byte)
  | can (port : Nat) (ident : BitVec 29) (extended fd brs : Bool) (data : Bytes)
  | encoder (enc : Nat) (command : Byte)
  | frame (image : Bytes)
  | readData (fn : Nat) (data : Bytes)
  | unsupported (fn : Nat)
  /-- A VDD_MAIN set-point in mV, sent to the regulator over AVSBus (R731). -/
  | avs (millivolts : Nat)
  deriving DecidableEq, Repr

/-- The ports of the device. -/
structure Ports where
  lpddr : List LpddrChannel
  /-- The LPDDR_RETRAIN in progress, with the channels retrained so far and those left (R618). -/
  retrain : Option (Cmd × Nat × List Nat)
  /-- The LPDDR_RETRAINs that wait for it to end, in order, with their channels (R169). -/
  retrainNext : List (Cmd × List Nat)
  streams : List Stream
  macs : List Mac
  encoders : List Encoder
  mnet : Mnet
  can : List CanPort
  peer : Peer
  /-- Whether the host link is up (R679, R740). -/
  linkUp : Bool
  /-- The JTAG instruction loaded while it holds the main domain in reset (R702). -/
  jtag : Bool
  /-- Where the I3C target's next private read begins: block and offset, as the last private write left them (R699). -/
  i3c : Option (Nat × Nat)
  deriving DecidableEq, Repr

def Ports.reset : Ports where
  lpddr := List.replicate 32 LpddrChannel.reset
  retrain := none
  retrainNext := []
  streams := List.replicate 64 Stream.reset
  macs := List.replicate 4 Mac.reset
  encoders := List.replicate 16 Encoder.reset
  mnet := Mnet.reset
  can := List.replicate 4 CanPort.reset
  peer := Peer.reset
  linkUp := false
  jtag := false
  i3c := none

end Sys2Proof.Machine
end

