-- ==== Sys2Proof/Machine/StatePlate.lean ====
section
/-!
DEFINITION. Machine/StatePlate.lean: the running Plate, the loaded Plates, the admitted HARD commands and the self-test
quanta (13).
-/
namespace Sys2Proof.Machine

/-- A partition of the running Plate: its entry (R504), its slots and its slot maps. -/
structure PlatePart where
  /-- 16 words (R504). -/
  entry : List Word
  /-- Its slots, 8 words each, in the image's order (R506). -/
  slots : List (List Word)
  /-- The image's scratchpad slot maps, 512 bytes each (R504 map_index). -/
  maps : List Bytes
  deriving DecidableEq, Repr

/-- An admitted HARD command of a STATIC_WCET partition (R523). -/
structure Admitted where
  key : CmdKey
  part : Nat
  /-- The worst-case bound in ns (R520). -/
  bound : Nat
  deadline : PhaseValue
  /-- When it started; none while it waits. -/
  started : Option Nat
  deriving DecidableEq, Repr

/-- A unit's self-test record (R544–R548). -/
structure UnitTest where
  run : Nat
  running : Bool
  overdue : BitVec 16
  failed : BitVec 32
  deriving DecidableEq, Repr

def UnitTest.zero : UnitTest := ⟨0, false, 0, 0⟩

/-- The Plate in force and what hangs on it. -/
structure Plate where
  /-- Whether the default Plate runs (R757). -/
  isDefault : Bool
  /-- The header in force, 32 words (R502). -/
  header : List Word
  /-- min_period_ns of PS0–PS7 (R503). -/
  minPeriods : List Nat
  /-- Partitions 0–15 (R504). -/
  parts : List PlatePart
  /-- The plan-group table, 16 entries of 4 words (R505). -/
  groups : List (List Word)
  /-- The handle of the image last started or swapped in; none for the default Plate. -/
  handle : Option Nat
  /-- origin (R512): a count of major_source; for the default Plate, a GTC value. -/
  origin : Nat
  /-- Major cycles since origin, saturating at 32 bits (R548). -/
  cycles : BitVec 32
  /-- slot_overruns, saturating (R521, R548). -/
  overruns : BitVec 16
  /-- Loaded images: handle and bytes (R510). -/
  loaded : List (Nat × Bytes)
  /-- Spill areas set aside in LPDDR: partition and bytes (R537). -/
  spills : List (Nat × Nat)
  admitted : List Admitted
  /-- Self-test records: sectors 0–17, engines 0–8, slices 0–15 (R544). -/
  sectorTests : List UnitTest
  engineTests : List UnitTest
  sliceTests : List UnitTest
  /-- The GTC at which the diagnostic interval began (R544). -/
  intervalStart : Nat
  deriving DecidableEq, Repr

/-- Partition 0 of the default Plate (R757): valid, BEST_EFFORT, size_log2 4, gtc_points 1, map_index 0x1F, engines
0–7, 16 slices, qos SOFT and BULK, wait_limit_us 1,000,000. -/
def defaultPart0 : List Word :=
  [BitVec.ofNat 32 (2 ^ 31 + 2 * 2 ^ 29 + 4 * 2 ^ 22 + 2 ^ 18 + 0x1F * 2 ^ 12), 0xFF, BitVec.ofNat 32 (16 * 2 ^ 16), 6,
   1000000] ++ List.replicate 11 0

/-- The header of the default Plate (R757): selftest_interval_ms 100; the protection set's lower limit, if any, is
applied when it is read. -/
def defaultHeader : List Word :=
  [0, 0, 0, 0, 0, 0, BitVec.ofNat 32 (100 * 2 ^ 16)] ++ List.replicate 25 0

def Plate.reset : Plate where
  isDefault := true
  header := defaultHeader
  minPeriods := List.replicate 8 0
  parts := { entry := defaultPart0, slots := [], maps := [] } ::
    List.replicate 15 { entry := List.replicate 16 0, slots := [], maps := [] }
  groups := List.replicate 16 (List.replicate 4 0)
  handle := none
  origin := 0
  cycles := 0
  overruns := 0
  loaded := []
  spills := []
  admitted := []
  sectorTests := List.replicate 18 UnitTest.zero
  engineTests := List.replicate 9 UnitTest.zero
  sliceTests := List.replicate 16 UnitTest.zero
  intervalStart := 0

end Sys2Proof.Machine
end

