-- ==== Sys2Proof/Machine/StateServe.lean ====
section
/-!
DEFINITION. Machine/StateServe.lean: the serving loops, their sequences and their action bindings (11, 12). The page
headers, block records and payloads lie in device memory, as R444–R446 lay them out.
-/
namespace Sys2Proof.Machine

/-- The states of a sequence (R477). A paused sequence that action 5 has resumed is rebuilt by prefill steps, and is paused until
the last of them has run (R470, R477; DEDUCED, log entry 145). -/
inductive SeqState where
  | waiting | running | paused | rebuilding | ended
  deriving DecidableEq, Repr

/-- A block-list entry that the loop keeps for a sequence (R447, R453, R468). -/
structure SeqEntry where
  dropped : Bool
  record : Nat
  /-- Committed tokens of this block that belong to the sequence (R480). -/
  count : Nat
  deriving DecidableEq, Repr

/-- One candidate node of the running step: its parent (0xF for node 0) and its token (R481). -/
structure Node where
  parent : Nat
  token : Word
  deriving DecidableEq, Repr

/-- A SEQ_DRAFT that waits for its boundary (R482), or is in use in the running step. -/
structure Draft where
  cmd : Cmd
  length : Nat
  /-- Nodes 1 and on. -/
  nodes : List Node
  stamp : Nat
  deriving DecidableEq, Repr

/-- A sequence (R477–R496). -/
structure Sequence where
  id : Nat
  session : Word
  cmd : Cmd
  st : SeqState
  /-- The pool slot, which is also its segment number (R478). -/
  slot : Nat
  /-- The committed length (R477). -/
  len : Nat
  /-- Prompt length P (R484). -/
  promptLen : Nat
  /-- Where its prefill ends: P, or after a recompute the number of its tokens that had been committed (R470, R484). -/
  target : Nat
  /-- Every token kept: the prompt, then the generated tokens (R477). -/
  tokens : List Word
  entries : List SeqEntry
  /-- The nodes and fill rows of the running step (R479, R484). -/
  nodes : List Node
  fill : Nat
  draft : Option Draft
  /-- The draft that the running step verifies. -/
  inUse : Option Draft
  /-- SEQ_LEAVE commands waiting for the boundary (R487). -/
  leaves : List (Cmd × Nat)
  /-- It leaves at the next boundary, and the status that its SEQ_JOIN gets (R490, R496). -/
  leaver : Option (BitVec 8)
  maxNew : Nat
  wait : Bool
  outWindow : Nat
  outOffset : Nat
  generated : Nat
  joined : Nat
  /-- Its place in the order of admission (R485 action 3). -/
  admitted : Option Nat
  /-- Its place in the order of pausing (R485 action 5). -/
  pausedAt : Option Nat
  /-- Whether a boundary has passed since it joined (R496). -/
  seenBoundary : Bool
  deriving DecidableEq, Repr

/-- An ACTION_BIND (R491, R492). -/
structure ActionBinding where
  sequence : Nat
  session : Word
  engine : Nat
  slot : Nat
  stopEngine : Nat
  stopSlot : Nat
  limitSet : Nat
  chunkCount : Nat
  chunkExtra : Nat
  plateSlot : Nat
  /-- Which of the three buffers holds the newest published set, its stamp, and the plan cycles since (R492). -/
  published : Option (Nat × Nat)
  age : Nat
  nextChunk : Nat
  /-- The set published before the newest: its buffer, its age and its next chunk. -/
  prev : Option (Nat × Nat × Nat)
  /-- Device addresses of the three chunk-set buffers, and of the firmware's own area for descriptors, packets, results and
  the held plan. -/
  sets : Nat
  area : Nat
  resultBytes : Nat
  /-- The last batch: its number among the firmware's commands, the buffer it reads, and its report entries and completion
  once it has ended (R492). -/
  batch : Nat
  batchSet : Nat
  report : Bytes
  deriving DecidableEq, Repr

/-- One row of the running step (R479). -/
structure StepRow where
  segment : Nat
  position : Nat
  node : Option Nat
  token : Word
  deriving DecidableEq, Repr

/-- A serving loop (R472–R476). -/
structure Loop where
  part : Nat
  session : Word
  cmd : Cmd
  /-- The configuration block, 128 bytes (R473). -/
  cfg : Bytes
  /-- The step program (R474). -/
  program : Bytes
  /-- Where the pool lies: page headers, block records, token arrays, payloads, candidate blocks, and the arrays of the
  running step (attention table, append table, length table, token array). -/
  headers : Nat
  records : Nat
  tokens : Nat
  payloads : Nat
  cands : Nat
  arrays : Nat
  /-- The policy in force (R90, R466, R467). -/
  decay : Word
  nSink : Nat
  nRecent : Nat
  /-- A policy block committed and not yet in force (R90). -/
  policy : Option Bytes
  /-- The prefix index: hash and record (R459–R463). -/
  index : List (Nat × Nat)
  collisions : Nat
  seqs : List Sequence
  /-- How many boundaries have passed, and the running step's rows. -/
  boundary : Nat
  rows : List StepRow
  /-- How many routes of the running step have ended; none between steps (R475). -/
  stage : Option Nat
  /-- The routes of the running step that are still to be submitted. -/
  todo : List WaitingRoute
  /-- When the step's first route started, until its last has ended: the step is one unit of work (R472, R499). -/
  begun : Option Nat
  /-- The blocks that the last boundary confirmed under R461, and the bytes that it copied under R455 and R483 (R488). -/
  hits : Nat
  copied : Nat
  /-- Where SAMPLE writes the step's token array, and the distance between two tokens (R476). -/
  sample : Nat × Nat
  /-- The mass arrays that the step's FORWARD routes have left, by layer and group (R464, R466). -/
  masses : List (Nat × Nat × List Word)
  nextSeq : Nat
  order : Nat
  /-- The warn_mask of the step's routes and the first status of one that failed (R471, R485 action 1). -/
  warn : BitVec 16
  failed : Option (BitVec 8)
  actions : List ActionBinding
  stopping : Option Cmd
  deriving DecidableEq, Repr

end Sys2Proof.Machine
end

