-- ==== Sys2Proof/Machine/StateServo.lean ====
section
/-!
DEFINITION. Machine/StateServo.lean: the servo channels, the pairs and the motion network image (08).
-/
namespace Sys2Proof.Machine

/-- The states of a channel (R318). -/
inductive ChanState where
  | disabled | enabling | tracking | exceeded | hold | stop
  deriving DecidableEq, Repr

/-- What a channel does in stop mode (R574, R575). -/
inductive StopKind where
  | off
  /-- The group entered stop mode and the channel's next read instant decides. -/
  | due
  /-- It interpolates the stop trajectory. -/
  | traj
  /-- The slew stop: a fixed target in P format and a fixed torque feed-forward. -/
  | slew (target tff : Int)
  deriving DecidableEq, Repr

/-- The four states of a notch (R312). -/
structure Notch where
  i1 : Int
  i2 : Int
  o1 : Int
  o2 : Int
  deriving DecidableEq, Repr

def Notch.zero : Notch := ⟨0, 0, 0, 0⟩

/-- A supervision fault that a sample has detected (R319, R321, R324). -/
inductive ChanFault where
  | following | enabling | xcheck
  deriving DecidableEq, Repr

/-- A command that takes effect at a channel's next read instant (R331). -/
inductive ChanReq where
  | config (cmd : Cmd) (cfg block : List Word) (pair : Nat)
  | enable (cmd : Cmd)
  | disable (cmd : Cmd)
  | clear (cmd : Cmd)
  | status (cmd : Cmd)
  /-- SERVO_NET_CONFIG as it comes to this channel. -/
  | net (cmd : Cmd)
  deriving DecidableEq, Repr

/-- A servo channel (R294–R330). -/
structure Channel where
  /-- The configuration descriptor in force, 16 words; empty while not configured (R325). -/
  cfg : List Word
  pair : Nat
  st : ChanState
  /-- Whether the entry actions of `st` are still due (R318). -/
  entryDue : Bool
  /-- The state from which TRACKING was entered is HOLD (R318, R323). -/
  fromHold : Bool
  /-- The coefficient block in force, 32 words (R315). -/
  block : List Word
  /-- A committed block that the next read instant puts in force (R317). -/
  nextBlock : Option (List Word)
  reqs : List ChanReq
  ps : Int
  v : Int
  a : Int
  rPrev : Int
  y : Int
  yPrev : Int
  ePrev : Int
  df : Int
  integ : Int
  nf : List Notch
  satPrev : Bool
  feTimer : Nat
  rHold : Int
  tffHold : Int
  /-- tff of the last sample (R318, R575). -/
  tffLast : Int
  jerkOverrides : BitVec 16
  planEnd : Bool
  /-- Samples spent in ENABLING (R321). -/
  enableTimer : Nat
  /-- Consecutive samples beyond xcheck_limit, and whether they have made a fault (R324). -/
  xTimer : Nat
  xFaulted : Bool
  /-- The drive position of the last returned frame; none before the first (R326). -/
  rawLast : Option Word
  faultDue : Option ChanFault
  /-- The reaction, STOP or HOLD, that has reached the channel from outside its own sample since its read instant (R330). -/
  outside : Option ChanState
  stopping : StopKind
  /-- The brake request of STOP (R318). -/
  brakeReq : Bool
  /-- The count of the last sample evaluated; none before the first. -/
  lastCount : Option Nat
  deriving DecidableEq, Repr

def Channel.reset : Channel where
  cfg := []
  pair := 0
  st := .disabled
  entryDue := false
  fromHold := false
  block := []
  nextBlock := none
  reqs := []
  ps := 0
  v := 0
  a := 0
  rPrev := 0
  y := 0
  yPrev := 0
  ePrev := 0
  df := 0
  integ := 0
  nf := [Notch.zero, Notch.zero]
  satPrev := false
  feTimer := 0
  rHold := 0
  tffHold := 0
  tffLast := 0
  jerkOverrides := 0
  planEnd := false
  enableTimer := 0
  xTimer := 0
  xFaulted := false
  rawLast := none
  faultDue := none
  outside := none
  stopping := .off
  brakeReq := false
  lastCount := none

/-- A servo engine pair (R294, R330, R621). -/
structure Pair where
  retired : Bool
  /-- Its self-test after a drain, or after the power-up that cleared its retirement, is running (R621). -/
  testing : Bool
  deriving DecidableEq, Repr

/-- A SERVO_PAIR_DRAIN in progress (R169, R329, R621). -/
structure PairDrain where
  cmd : Cmd
  pair : Nat
  retire : Bool
  moved : Nat
  deriving DecidableEq, Repr

/-- A SERVO_NET_CONFIG (R295, R331): `left` are the channels whose read instant it waits for, and `off` says that those read were
DISABLED. -/
structure NetConfig where
  cmd : Cmd
  tCyc : Nat
  txShift : Nat
  rxBound : Nat
  missLimit : Nat
  left : List Nat
  off : Bool
  deriving DecidableEq, Repr

/-- The motion network's process data (R295, R298, R325–R328). -/
structure ServoNet where
  tCyc : Nat
  txShift : Nat
  rxBound : Nat
  missLimit : Nat
  /-- The motion-cycle count C (R298). -/
  count : Nat
  /-- The stamp of that cycle's SYNC0. -/
  sync0 : Nat
  /-- The output image, 4,096 bytes, of the next frame. -/
  outImage : Bytes
  /-- The image that the last frame carried. -/
  sentImage : Bytes
  /-- The input image of the last returned frame. -/
  inImage : Bytes
  /-- Whether this cycle's frame has been transmitted, and whether it has returned. -/
  sent : Bool
  returned : Bool
  /-- Consecutive missing cycles (R328), and whether miss_limit has been acted on since a frame last returned. -/
  missing : Nat
  missHandled : Bool
  /-- Configurations that wait for read instants, oldest first (R331). -/
  nexts : List NetConfig
  deriving DecidableEq, Repr

/-- A plan in force for a group (R304). -/
structure PlanInForce where
  plan : Bytes
  /-- Whether it carries a Tracer acceptance record (R573). -/
  accepted : Bool
  deriving DecidableEq, Repr

/-- A plan group's stop and disagreement record (R570–R576). -/
structure Group where
  /-- The channels that the running Plate's plan-group table gives it (R304). -/
  channels : List Nat
  plan : Option PlanInForce
  inStop : Bool
  /-- When it last entered stop mode. -/
  stopEntry : Nat
  held : BitVec 4
  /-- The last 16 frames, newest in bit 0 (R572). -/
  window : BitVec 16
  /-- Whether the Tracer rejected a feasible plan, and accepted one, in this frame (R571). -/
  sawReject : Bool
  sawAccept : Bool
  /-- The payload of the TRACER_REJECT record of the frame's first rejection (R611); none while there was none. -/
  firstReject : Option Bytes
  /-- The group held a live channel when the last safe-state trigger came (R580). -/
  live : Bool
  deriving DecidableEq, Repr

def Group.reset : Group where
  channels := []
  plan := none
  inStop := false
  stopEntry := 0
  held := 0
  window := 0
  sawReject := false
  sawAccept := false
  firstReject := none
  live := false

/-- The servo complex. -/
structure Servo where
  net : ServoNet
  channels : List Channel
  pairs : List Pair
  groups : List Group
  /-- The stop trajectory in force (R29, R304). -/
  stopTraj : Option Bytes
  /-- What each channel evaluated in this cycle was at its read instant (R330). -/
  snaps : List (Nat × Channel)
  drain : Option PairDrain
  /-- The SERVO_PAIR_DRAINs that wait for it to end, in order (R169). -/
  drainNext : List PairDrain
  deriving DecidableEq, Repr

def Servo.reset : Servo where
  net := { tCyc := 0, txShift := 0, rxBound := 0, missLimit := 0, count := 0, sync0 := 0, outImage := List.replicate 4096 0,
           sentImage := List.replicate 4096 0, inImage := List.replicate 4096 0, sent := false, returned := false,
           missing := 0, missHandled := false, nexts := [] }
  channels := List.replicate 96 Channel.reset
  pairs := List.replicate 4 { retired := false, testing := false }
  groups := List.replicate 16 Group.reset
  stopTraj := none
  snaps := []
  drain := none
  drainNext := []

end Sys2Proof.Machine
end

