-- ==== Sys2Proof/Machine/StateTime.lean ====
section
/-!
DEFINITION. Machine/StateTime.lean: the phase sources, the two GTCs, the synchronisation state (02) and the etch
committer's table (03).
-/
namespace Sys2Proof.Machine

/-- One phase source PS0–PS7 (R33–R62). -/
structure PhaseSource where
  /-- The configuration block in force, 8 words (R36, PHU_PS_CFG); all zero is OFF. -/
  cfg : List Word
  /-- The raw 48.16 value of the last edge (R37): its fraction is 0 but for an encoder calibration with a fraction
  (R91). -/
  raw : BitVec 64
  /-- Stamp of the last edge, after edge_delay_ns (R54 PHU_PS_EDGE_STAMP); of the block's start before the first. -/
  stamp : Nat
  /-- The last edge intervals, newest first, at most 8 (R41). -/
  intervals : List Nat
  /-- Edges since the source was enabled (R43), saturating at 255. -/
  edges : BitVec 8
  /-- Qualifying edges since the last count (R33, divider). -/
  divPos : BitVec 8
  /-- direction (R56): true when the last edge moved the count below that of the edge before it. -/
  down : Bool
  /-- Whether an edge has arrived since the count restarted (R56). -/
  seen : Bool
  /-- Whether the last edge that moved the count moved it down (R44). -/
  lastDown : Bool
  /-- Whether the last two edges moved the count the same way (R44). -/
  sameWay : Bool
  stalled : Bool
  countValid : Bool
  /-- Stall declarations, saturating (R49). -/
  stallCount : BitVec 8
  /-- Index mismatches, saturating (R40). -/
  indexErr : BitVec 8
  deriving DecidableEq, Repr

/-- A source that has never been configured: OFF, every field at its reset value (R56). -/
def PhaseSource.off : PhaseSource where
  cfg := List.replicate 8 0
  raw := 0
  stamp := 0
  intervals := []
  edges := 0
  divPos := 0
  down := false
  seen := false
  lastDown := false
  sameWay := false
  stalled := false
  countValid := false
  stallCount := 0
  indexErr := 0

/-- The phase unit (R54). -/
structure PhaseUnit where
  /-- The Shell's shadow GTC, 64 bits (R58). -/
  shadow : Nat
  /-- The main GTC (R54 PHU_GTC). -/
  gtc : Nat
  /-- PHU_GTC_SHADOW as sampled by the last read of PHU_GTC (R54). -/
  shadowRead : Nat
  /-- The hold of first lock: the value at which counting resumes (R75). -/
  hold : Option Nat
  /-- PS0–PS7. -/
  sources : List PhaseSource
  /-- Sources as they were before the calibration update of a tick: source, tick, source. The targets of that tick still
  match against them (R46). -/
  before : List (Nat × Nat × PhaseSource)
  deriving DecidableEq, Repr

def PhaseUnit.reset : PhaseUnit where
  shadow := 0
  gtc := 0
  shadowRead := 0
  hold := none
  sources := List.replicate 8 PhaseSource.off
  before := []

/-- Cross-device synchronisation (R57, R73–R78). -/
structure Sync where
  locked : Bool
  /-- 0 standalone, 1 master, 2 follower (R57). -/
  role : BitVec 3
  masterPeer : BitVec 2
  /-- Signed offset from the master at the last exchange, saturating (R57). -/
  offset : BitVec 16
  /-- Consecutive exchanges within 8 ns, at most 16 (R73). -/
  good : BitVec 5
  /-- Consecutive exchanges beyond 8 ns, at most 4 (R78). -/
  bad : BitVec 3
  /-- Whether first lock has taken place (R75). -/
  everLocked : Bool
  /-- Whether the offset of first lock has been removed (R75), and whether a lead beyond 1 s has been recorded (R77). -/
  stepped : Bool
  leadFault : Bool
  /-- The rate correction in force, in parts per billion, within ±200,000 (R75). -/
  ratePpb : Int
  /-- Lock has been lost and the last rate is held (R78). -/
  rateHeld : Bool
  /-- The sequence number and departure stamp of the timing request that has no answer yet (R718). -/
  request : Option (Nat × Nat)
  deriving DecidableEq, Repr

def Sync.reset : Sync where
  locked := false
  role := 0
  masterPeer := 0
  offset := 0
  good := 0
  bad := 0
  everLocked := false
  stepped := false
  leadFault := false
  ratePpb := 0
  rateHeld := false
  request := none

/-- The states of an etch (R94). -/
inductive EtchPhase where
  | staged | armed | committed | expired | aborted | replaced
  deriving DecidableEq, Repr

/-- The 64-byte etch descriptor header (R85). -/
structure EtchHeader where
  count : Nat
  kind : Nat
  tag : BitVec 16
  husk : Bool
  notify : Bool
  commitPoint : PhaseValue
  armDeadline : PhaseValue
  fallbackId : Nat
  deriving DecidableEq, Repr

/-- A 32-byte action entry (R86). -/
structure EtchAction where
  typ : Nat
  cls : Nat
  index : Nat
  item : Nat
  argLo : Word
  argHi : Word
  width : Nat
  length : Nat
  crc : Word
  deriving DecidableEq, Repr

/-- An etch from its staging to its release (R94, R95). -/
structure Etch where
  id : Nat
  /-- The staging session; none once the etch has passed to its function (R152). -/
  session : Option Word
  fn : Nat
  hdr : EtchHeader
  acts : List EtchAction
  /-- The payloads staged into shadow tables when the etch is armed (R101, R108), one per action. -/
  payloads : List Bytes
  st : EtchPhase
  /-- The stamp of the last change of state (R166). -/
  changed : Nat
  /-- The arm instant (R97). -/
  armInstant : Nat
  /-- The command that armed it (R167); none when the firmware armed it. -/
  armCmd : Option CmdKey
  /-- The command that staged it; none when the firmware did. -/
  stageCmd : Option CmdKey
  /-- The plan groups of its class 0x10 payloads that carry a Tracer acceptance record, with the stamp at which the plan
  was accepted (R564, R573, R576). -/
  records : List (Nat × Nat)
  /-- Whether the match of the fallback's arm_deadline has taken place (R114). -/
  deadlinePassed : Bool
  deriving DecidableEq, Repr

/-- An arm whose checks before the arm instant have passed (R96 rows 1–10). -/
structure Arming where
  etch : Nat
  cmd : Cmd
  /-- The arm belongs to an ETCH_STAGE_ARM (R168). -/
  staged : Bool
  /-- The scenario batch whose primary it is (R281). -/
  batch : Option CmdKey
  payloads : List Bytes
  /-- The acceptance records that its plans had when they were validated (R564). -/
  records : List (Nat × Nat)
  deriving DecidableEq, Repr

/-- What a pending abort is aimed at (R116). -/
inductive AbortTarget where
  | etch (id : Nat)
  | command (key : CmdKey)
  deriving DecidableEq, Repr

/-- An abort between its acceptance and its abort instant (R116). -/
structure PendingAbort where
  cmd : Cmd
  target : AbortTarget
  deriving DecidableEq, Repr

/-- The etch committer (R94–R124). -/
structure Committer where
  /-- Staged, armed, replaced and final but unreleased etches, oldest first. -/
  etches : List Etch
  arming : List Arming
  aborts : List PendingAbort
  /-- ETC_REJECT_COUNT (R123). -/
  conflicts : BitVec 16
  expired : BitVec 16
  /-- ETC_FALLBACK_COUNT (R123). -/
  fallbacks : BitVec 32
  /-- ETC_LAST_COMMIT (R123). -/
  lastCommit : Nat
  deriving DecidableEq, Repr

def Committer.reset : Committer where
  etches := []
  arming := []
  aborts := []
  conflicts := 0
  expired := 0
  fallbacks := 0
  lastCommit := 0

end Sys2Proof.Machine
end

