-- ==== Sys2Proof/Machine/State.lean ====
section
/-!
DEFINITION. Machine/State.lean: the state of the Oxnus, its value after a Shell power-on reset, and the reasons for
which a step can stop.
-/
namespace Sys2Proof.Machine

/-- The state of the device: every register, buffer, queue and mode that the spec gives it, the free-value counter of
the model (log entry 10) and the queue of the commands and events that wait. -/
structure State where
  /-- Phase sources and the two GTCs (02). -/
  phase : PhaseUnit
  /-- Cross-device synchronisation (02). -/
  sync : Sync
  /-- The etch committer (03). -/
  etch : Committer
  /-- The functions' registers, the doorbell FIFO and MSI-X (04). -/
  hif : HostIf
  /-- Sessions, queues, windows, allocations, transfers (04). -/
  cmds : Cmds
  /-- Device memory and host memory (04, 10). -/
  mem : Mem
  /-- Solver engines and scenario batches (06, 07). -/
  solver : Solver
  /-- Servo channels, pairs and plan groups (08, 14). -/
  servo : Servo
  /-- Sectors, routes and partitions (09, 10, 11). -/
  field : Field
  /-- Serving loops (11, 12). -/
  loops : List Loop
  /-- The running Plate and the loaded ones (13). -/
  plate : Plate
  /-- The Tracer, STO, brakes, E-stop and the safe state (14). -/
  safety : Safety
  /-- Protection set, boot code, boot flash and updates (15). -/
  boot : Boot
  /-- The Husk (15). -/
  husk : Husk
  /-- Imprints and the hash engine (16). -/
  imprints : Imprints
  /-- Power states (17). -/
  power : Power
  /-- The external interfaces (18). -/
  ports : Ports
  /-- What has left the device at its ports, oldest first. -/
  out : List Output
  /-- How many free values have been taken: the model's own field (log entry 10). -/
  free : Nat
  /-- The commands and events that wait, first in, first out. -/
  pending : List Instr
  deriving DecidableEq, Repr

/-- The reasons for which a step can fault. No command of this block ends in a fault: memory that nothing has written
reads as 0 (log entry 3), and every access outside an envelope completes with a status that the spec names. -/
inductive Fault where
  /-- Raised by nothing: kept so that the type has a name for a state that no rule describes. Safe. -/
  | unreachable
  deriving DecidableEq, Repr

/-- The reasons for which the model refuses a command. -/
inductive Refusal where
  /-- A command that the model gives no meaning yet; raised by the arms of Dispatch.lean alone. Safe. -/
  | notModelled (mnemonic : String)
  deriving DecidableEq, Repr

/-- The device right after Shell power-on reset, before boot step 1 ends: every register at the reset value of its
table, the Shell holding STO low and the brakes applied (R582, R729), SHELL_ONLY (R673). -/
def State.reset : State where
  phase := PhaseUnit.reset
  sync := Sync.reset
  etch := Committer.reset
  hif := HostIf.reset
  cmds := Cmds.reset
  mem := Mem.reset
  solver := Solver.reset
  servo := Servo.reset
  field := Field.reset
  loops := []
  plate := Plate.reset
  safety := Safety.reset
  boot := Boot.reset
  husk := Husk.blank
  imprints := Imprints.reset
  power := Power.reset
  ports := Ports.reset
  out := []
  free := 0
  pending := []

end Sys2Proof.Machine
end

