-- ==== Sys2Proof/Machine/Memory.lean ====
section
/-!
DEFINITION. Machine/Memory.lean: reading and writing the byte memories, which keep one canonical form, and the keys
under which a place in device or host memory is named.
-/
namespace Sys2Proof.Machine

/-- What an unlisted address reads as (DESIGN CHOICE, log entry 3). -/
def emptyByte : Byte := 0

/-- The byte at an address. -/
def Memory.get : Memory → Nat → Byte
  | [], _ => emptyByte
  | (k, v) :: r, a => if k = a then v else Memory.get r a

/-- Put an entry in front, unless it holds what an unlisted address reads as. -/
def Memory.cons (a : Nat) (v : Byte) (m : Memory) : Memory := if v = emptyByte then m else (a, v) :: m

/-- Write one byte, keeping the canonical form. -/
def Memory.put : Memory → Nat → Byte → Memory
  | [], a, v => Memory.cons a v []
  | (k, w) :: r, a, v =>
    if a < k then Memory.cons a v ((k, w) :: r)
    else if k = a then Memory.cons a v r
    else (k, w) :: Memory.put r a v

/-- The canonical form: addresses strictly rising, no entry equal to the value of an unlisted address. -/
def Memory.wf : Memory → Bool
  | [] => true
  | (k, v) :: r => v != emptyByte && (match r with | [] => true | (k', _) :: _ => decide (k < k')) && Memory.wf r

/-- `n` bytes from an address. -/
def Memory.read (m : Memory) (a : Nat) : Nat → Bytes
  | 0 => []
  | n + 1 => m.get a :: Memory.read m (a + 1) n

/-- Write a byte string from an address. -/
def Memory.write (m : Memory) (a : Nat) : Bytes → Memory
  | [] => m
  | b :: bs => Memory.write (m.put a b) (a + 1) bs

/-- The key under which host memory of a function begins; a key below it is a device address. -/
def hostBase : Nat := 2 ^ 80

/-- The key of a host address of function `fn` (R153: each function has its own IOVA space). -/
def hostKey (fn a : Nat) : Nat := hostBase + fn * 2 ^ 64 + a

/-- Read `n` bytes at a key. -/
def readKey (m : Mem) (k n : Nat) : Bytes :=
  if hostBase ≤ k then m.host.read (k - hostBase) n else m.dev.read k n

/-- Write bytes at a key. -/
def writeKey (m : Mem) (k : Nat) (b : Bytes) : Mem :=
  if hostBase ≤ k then { m with host := m.host.write (k - hostBase) b } else { m with dev := m.dev.write k b }

end Sys2Proof.Machine
end

