-- ==== Sys2Proof/Machine/Pages.lean ====
section
/-!
DEFINITION. Machine/Pages.lean: the fields of a page header (R445) and of the serving configuration (R473), and where the parts
of a loop's pool lie.
-/
namespace Sys2Proof.Machine

/-- Bits of an element of a format (R352). -/
def fmtBits (f : Nat) : Nat :=
  match f with
  | 1 => 32
  | 2 => 16
  | 3 => 16
  | 4 => 8
  | 5 => 8
  | 6 => 4
  | 7 => 8
  | 8 => 32
  | 9 => 32
  | 10 => 4
  | _ => 0

/-- Bytes of a page's payload or of a candidate sub-block (R444). -/
def pageBytes (slots g d f : Nat) : Nat := 2 * slots * g * d * fmtBits f / 8

/-! Page headers and block records (R445, R446). -/

def headerAddr (base p : Nat) : Nat := base + 128 * p
def phWord (m : Mem) (a i : Nat) : Word := BitVec.ofNat 32 (leNat (m.dev.read (a + 4 * i) 4))
/-- 0 FREE, 1 LIVE, 2 RETIRING. -/
def phState (m : Mem) (a : Nat) : Nat := fld (phWord m a 0) 31 28
def phFormat (m : Mem) (a : Nat) : Nat := fld (phWord m a 0) 27 24
def phHeads (m : Mem) (a : Nat) : Nat := fld (phWord m a 0) 23 21 + 1
def phD (m : Mem) (a : Nat) : Nat := 32 * (fld (phWord m a 0) 20 18 + 1)
def phTier (m : Mem) (a : Nat) : Nat := fld (phWord m a 0) 17 17
def phTokens (m : Mem) (a : Nat) : Nat := fld (phWord m a 0) 8 0
def phLayer (m : Mem) (a : Nat) : Nat := fld (phWord m a 1) 31 24
def phGroup (m : Mem) (a : Nat) : Nat := fld (phWord m a 1) 23 16
def phRefs (m : Mem) (a : Nat) : Nat := (phWord m a 2).toNat
def phPins (m : Mem) (a : Nat) : Nat := (phWord m a 3).toNat
def phPayload (m : Mem) (a : Nat) : Nat := leNat (m.dev.read (a + 24) 8)
def phScale (m : Mem) (a : Nat) (value : Bool) (h : Nat) : Word := phWord m a ((if value then 24 else 16) + h)

/-- The parent that stands for none (R446). -/
def noRecord : Nat := 0xFFFFFF

/-- Whether the block of an entry lives on another device (R493): it has no record here. -/
def SeqEntry.remote (e : SeqEntry) : Bool := e.record == noRecord && !e.dropped

/-- Bytes of a record (R447). -/
def recordStride (L G : Nat) : Nat := (64 + 4 * L * G + 63) / 64 * 64

/-! The serving configuration block (R473). -/

def cfLayers (b : Bytes) : Nat := fld (wordAt b 0) 23 16
def cfGroups (b : Bytes) : Nat := fld (wordAt b 0) 15 8
def cfFmt (b : Bytes) : Nat := fld (wordAt b 1) 31 28
def cfHeads (b : Bytes) : Nat := fld (wordAt b 1) 27 25 + 1
def cfDCode (b : Bytes) : Nat := fld (wordAt b 1) 24 22
def cfD (b : Bytes) : Nat := 32 * (cfDCode b + 1)
def cfHq (b : Bytes) : Nat := fld (wordAt b 1) 21 18 + 1
/-- 0 none, 1 by head, 2 by position. -/
def cfSpread (b : Bytes) : Nat := fld (wordAt b 1) 17 16
def cfDevices (b : Bytes) : Nat := fld (wordAt b 1) 15 12
def cfSequences (b : Bytes) : Nat := fld (wordAt b 1) 11 0
def cfDecay (b : Bytes) : Word := wordAt b 2
def cfSink (b : Bytes) : Nat := fld (wordAt b 3) 23 16
def cfRecent (b : Bytes) : Nat := fld (wordAt b 3) 15 8
def cfContext (b : Bytes) : Bytes := slice b 16 16
def cfRecords (b : Bytes) : Nat := fld (wordAt b 8) 23 0
def cfProgram (b : Bytes) : Nat := dwordAt b 10
def cfEntries (b : Bytes) : Nat := fld (wordAt b 12) 15 0
def cfTheta (b : Bytes) : Word := wordAt b 13
def cfHalf (b : Bytes) : Nat := fld (wordAt b 14) 31 24
def cfSplit (b : Bytes) : Bool := wbit (wordAt b 14) 23
def cfScale (b : Bytes) (value : Bool) (h : Nat) : Word := wordAt b ((if value then 24 else 16) + h)

/-- Pages of a record, bytes of a page and of a candidate sub-block (R444, R473). -/
def cfPages (b : Bytes) : Nat := cfLayers b * cfGroups b
def cfPageBytes (b : Bytes) : Nat := pageBytes 256 (cfHeads b) (cfD b) (cfFmt b)
def cfSubBytes (b : Bytes) : Nat := pageBytes 8 (cfHeads b) (cfD b) (cfFmt b)

/-! Where the parts of a loop's pool lie. -/

def Loop.pages (l : Loop) : Nat := cfPages l.cfg
def Loop.stride (l : Loop) : Nat := recordStride (cfLayers l.cfg) (cfGroups l.cfg)
def Loop.recordAddr (l : Loop) (i : Nat) : Nat := l.records + i * l.stride
def Loop.pageId (l : Loop) (i k : Nat) : Nat := i * l.pages + k
def Loop.pageAddr (l : Loop) (i k : Nat) : Nat := headerAddr l.headers (l.pageId i k)
def Loop.payloadAddr (l : Loop) (i k : Nat) : Nat := l.payloads + l.pageId i k * cfPageBytes l.cfg
def Loop.tokenAddr (l : Loop) (i : Nat) : Nat := l.tokens + 1024 * i
def Loop.candBlock (l : Loop) (slot : Nat) : Nat := l.cands + slot * l.pages * cfSubBytes l.cfg
def Loop.subAddr (l : Loop) (slot k : Nat) : Nat := l.candBlock slot + k * cfSubBytes l.cfg

/-- The places of a loop's pages that lie in the shared buffer (R445, R458): those whose header says so and that are not FREE. -/
def Loop.sharedPages (m : Mem) (l : Loop) : List (Nat × Nat) :=
  ((List.range (cfRecords l.cfg * l.pages)).map (headerAddr l.headers)).filterMap (fun a =>
    if phTier m a = 1 ∧ phState m a ≠ 0 then some (phPayload m a, cfPageBytes l.cfg) else none)

/-- The arrays of a step: length table, append table, attention table, mass array, packed tokens, token array. Their
extents hold `max_sequences` sequences of at most 263 rows and 512 entries. -/
def rowsMax (b : Bytes) : Nat := 263 * cfSequences b
def entriesMax (b : Bytes) : Nat := 512 * cfSequences b
def tableMax (b : Bytes) : Nat := 64 + 32 * cfSequences b + 16 * rowsMax b + 8 * entriesMax b
def Loop.lengthTable (l : Loop) : Nat := l.arrays
def Loop.appendTable (l : Loop) : Nat := l.lengthTable + 32 * cfSequences l.cfg
def Loop.attTable (l : Loop) : Nat := l.appendTable + tableMax l.cfg
def Loop.massArray (l : Loop) : Nat := l.attTable + tableMax l.cfg
def Loop.packed (l : Loop) : Nat := l.massArray + 4 * entriesMax l.cfg * cfHeads l.cfg
def Loop.tokenArray (l : Loop) : Nat := l.packed + 4 * rowsMax l.cfg
def arraysBytes (b : Bytes) : Nat :=
  32 * cfSequences b + 2 * tableMax b + 4 * entriesMax b * cfHeads b + 8 * rowsMax b

end Sys2Proof.Machine
end

