-- ==== Sys2Proof/Machine/Ops.lean ====
section
/-!
DEFINITION. Machine/Ops.lean: the named operations that every family of commands shares: the clock, the codes of
statuses and sources, the protection set, sessions and queues, completions, asynchronous events, Husk requests, and the
checks of an access to memory. A block has no exception entry: raising an event, an interrupt vector or a Husk record is
an effect on the state.
-/
namespace Sys2Proof.Machine

/-- What a command or an event answers. -/
abbrev Out := Host.Outcome State Fault Refusal

/-- A status code (R170). -/
abbrev Status := BitVec 8

def stOK : Status := 0x00
def stALREADY_DONE : Status := 0x01
def stDEFERRED : Status := 0x02
def stDEADLINE_MISS : Status := 0x10
def stPIVOT_REG : Status := 0x11
def stSAT : Status := 0x12
def stINPUT_RANGE : Status := 0x13
def stDEGRADED : Status := 0x14
def stFORMAT_BELOW_MIN : Status := 0x20
def stBANK_OFF : Status := 0x21
def stWINDOW_CLOSED : Status := 0x22
def stSTRUCT_MISMATCH : Status := 0x24
def stFORMAT_MIX : Status := 0x25
def stETCH_CONFLICT : Status := 0x30
def stETCH_EXPIRED : Status := 0x31
def stETCH_TARGET_LOCKED : Status := 0x32
def stTRACER_REJECT : Status := 0x40
def stDISAGREE : Status := 0x41
def stNO_PAGES : Status := 0x50
def stLENGTH_LIMIT : Status := 0x51
def stKEY_NARROW : Status := 0x52
def stPROTECTION : Status := 0x60
def stNO_RESOURCE : Status := 0x61
def stBAD_DESCRIPTOR : Status := 0x62
def stUNCORRECTABLE : Status := 0x70
def stSTEP_RERUN_LIMIT : Status := 0x71
def stINTERNAL : Status := 0x7F

/-! Source numbers (R72). -/

def srcShell : Nat := 0x00000
def srcTracer : Nat := 0x00001
def srcPair (n : Nat) : Nat := 0x00002 + n
def srcGtcTarget : Nat := 0x00006
def srcPs (n : Nat) : Nat := 0x00008 + n
def srcEngine (n : Nat) : Nat := 0x00010 + n
def srcSector (n : Nat) : Nat := 0x00020 + n
def srcCp : Nat := 0x00040
def srcDma : Nat := 0x00041
def srcPeer (n : Nat) : Nat := 0x00044 + n
def srcStream (n : Nat) : Nat := 0x00080 + n
def srcQueue (q : Nat) : Nat := 0x40000 + q

/-- The source number of a command (R71). -/
def srcCmd (k : CmdKey) : Nat :=
  match k.src with
  | .queue q => srcQueue q.toNat
  | .mailbox _ => srcCp
  | .firmware => srcCp

/-- Whether the event `(t1, n1)` is ordered before `(t2, n2)` (R70), the second coming later in its source's own
sequence. -/
def ordBefore (t1 n1 t2 n2 : Nat) : Bool := t1 < t2 || (t1 == t2 && n1 ≤ n2)

/-! The clock. -/

/-- The GTC value of the state (R54). -/
def now (s : State) : Nat := s.phase.gtc

/-- Both GTCs reach tick `t` (R58); during the hold of first lock they count no ticks (R75), and neither ever steps
backward (R59). -/
def advance (s : State) (t : Nat) : State :=
  match s.phase.hold with
  | some _ => s
  | none => { s with phase := { s.phase with gtc := max s.phase.gtc t, shadow := max s.phase.shadow t } }

/-- Take a free value: the counter of free values moves on (log entry 10). -/
def takeFree (s : State) : State := { s with free := s.free + 1 }

/-! The protection set (R599–R603). -/

/-- `n` bytes of the BOOT_PROT_ block as a number. -/
def protNum (s : State) (o n : Nat) : Nat := leNat (Memory.read s.boot.prot o n)

/-- A 32-bit word of the BOOT_PROT_ block, boot_lock apart. -/
def protWord (s : State) (o : Nat) : Word := BitVec.ofNat 32 (protNum s o 4)

def protSelftestReaction (s : State) : Nat := fld (protWord s 4) 31 30
def protEstopCategory (s : State) : Nat := fld (protWord s 4) 29 29
def protStoMode (s : State) : Nat := fld (protWord s 4) 28 28
def protHeldLimit (s : State) : Nat := fld (protWord s 4) 27 24
def protDisagreeK (s : State) : Nat := fld (protWord s 4) 23 21
/-- restart_window_ms in GTC ticks. -/
def protRestartWindow (s : State) : Nat := fld (protWord s 4) 15 8 * 1000000
/-- heartbeat_us in GTC ticks. -/
def protHeartbeat (s : State) : Nat := fld (protWord s 8) 31 22 * 1000
/-- brake_delay_ms in GTC ticks. -/
def protBrakeDelay (s : State) : Nat := fld (protWord s 8) 21 13 * 1000000
/-- estop_discrepancy_ms in GTC ticks (R583). -/
def protEstopDiscrepancy (s : State) : Nat := fld (protWord s 8) 12 6 * 1000000
def protSelftestLimit (s : State) : Nat := fld (protWord s 0xC) 31 22
def protMirrorMib (s : State) : Nat := fld (protWord s 0xC) 15 8

/-- Whether a target class may be changed at run time (R109, R599 BOOT_PROT_ETCH). -/
def protEtchAllowed (s : State) (cls : Nat) : Bool :=
  if cls < 0x10 then wbit (protWord s 0x14) cls else wbit (protWord s 0x14) (16 + (cls - 0x10))

/-- approved_models (R599): the entries that are not 0. -/
def protModels (s : State) : List Word :=
  ([0x20, 0x24, 0x28, 0x2C].map (protWord s)).filter (· != 0)

/-- A word of a function entry (R602). -/
def fnWord (s : State) (f w : Nat) : Word := protWord s (0x1000 + 64 * f + 4 * w)

/-- fn_enabled (R130, R602). -/
def fnEnabled (s : State) (f : Nat) : Bool := wbit (fnWord s f 0) 31
def fnExpert (s : State) (f : Nat) (bit : Nat) : Bool := wbit (fnWord s f 0) bit
def fnUpdate (s : State) (f : Nat) : Bool := wbit (fnWord s f 0) 27
def fnSessionLimit (s : State) (f : Nat) : Nat := fld (fnWord s f 0) 14 0
def fnSqBase (s : State) (f : Nat) : Nat := fld (fnWord s f 1) 17 0
def fnSqCount (s : State) (f : Nat) : Nat := fld (fnWord s f 2) 18 0
def fnCqBase (s : State) (f : Nat) : Nat := fld (fnWord s f 3) 15 0
def fnCqCount (s : State) (f : Nat) : Nat := fld (fnWord s f 3) 31 16
def fnPartition (s : State) (f p : Nat) : Bool := decide (p < 16) && wbit (fnWord s f 4) (16 + p)
def fnMsix (s : State) (f : Nat) : Nat := fld (fnWord s f 4) 11 0
def fnMemBase (s : State) (f : Nat) : Nat := protNum s (0x1000 + 64 * f + 20) 8
def fnMemLimit (s : State) (f : Nat) : Nat := protNum s (0x1000 + 64 * f + 28) 8

/-- A word of a channel entry (R603). -/
def chanWord (s : State) (c w : Nat) : Word := protWord s (0x2000 + 96 * c + 4 * w)
/-- A 64-bit signed item of a channel entry. -/
def chanS64 (s : State) (c w : Nat) : Int := toSigned 64 (protNum s (0x2000 + 96 * c + 4 * w) 8)

/-! Sessions, queues and commands. -/

def findSession (s : State) (id : Word) : Option Session := s.cmds.sessions.find? (fun x => x.id == id)
def findSq (s : State) (q : Nat) : Option SubQueue := s.cmds.sqs.find? (fun x => x.id == q)
def findCq (s : State) (q : Nat) : Option ComQueue := s.cmds.cqs.find? (fun x => x.id == q)
def findWindow (s : State) (w : Word) : Option Window := s.cmds.windows.find? (fun x => x.id == w.toNat)
def findOut (s : State) (k : CmdKey) : Option Outstanding := s.cmds.outstanding.find? (fun x => x.cmd.key == k)

def mapSessions (s : State) (f : Session → Session) : State :=
  { s with cmds := { s.cmds with sessions := s.cmds.sessions.map f } }
def modSession (s : State) (id : Word) (f : Session → Session) : State :=
  mapSessions s (fun x => if x.id == id then f x else x)
def modSq (s : State) (q : Nat) (f : SubQueue → SubQueue) : State :=
  { s with cmds := { s.cmds with sqs := s.cmds.sqs.map (fun x => if x.id == q then f x else x) } }
def modCq (s : State) (q : Nat) (f : ComQueue → ComQueue) : State :=
  { s with cmds := { s.cmds with cqs := s.cmds.cqs.map (fun x => if x.id == q then f x else x) } }
def modOut (s : State) (k : CmdKey) (f : Outstanding → Outstanding) : State :=
  { s with cmds := { s.cmds with outstanding := s.cmds.outstanding.map (fun x => if x.cmd.key == k then f x else x) } }
def dropOut (s : State) (k : CmdKey) : State :=
  { s with cmds := { s.cmds with outstanding := s.cmds.outstanding.filter (fun x => x.cmd.key != k) } }
def modFunc (s : State) (f : Nat) (g : Func → Func) : State :=
  { s with hif := { s.hif with funcs := s.hif.funcs.modify f g } }

/-- The function for which a command acts (R151). -/
def fnOf (s : State) (c : Cmd) : Nat :=
  match c.key.src with
  | .queue q => match findSq s q.toNat with | some x => x.fn | none => 0
  | .mailbox f => f
  | .firmware => 0

/-- The session for which a command acts: that of its queue (R151); none for the mailbox and for the firmware. -/
def sessionOf (s : State) (c : Cmd) : Option Word :=
  match c.key.src with
  | .queue q => (findSq s q.toNat).map (·.session)
  | .mailbox _ => none
  | .firmware => none

/-- The partition of a command's queue (R163); partition 0 for the mailbox and the firmware. -/
def partOf (s : State) (c : Cmd) : Nat :=
  match c.key.src with
  | .queue q => match findSq s q.toNat with | some x => x.part | none => 0
  | _ => 0

/-- The class of a command's queue (R163): 0 BEST, 1 SOFT, 2 HARD. -/
def classOf (s : State) (c : Cmd) : Nat :=
  match c.key.src with
  | .queue q => match findSq s q.toNat with | some x => x.cls | none => 0
  | _ => 0

/-- Whether a command may name a session (R151): on a queue only that of the queue, through the mailbox any open session
of its function, the firmware any open session. -/
def mayName (s : State) (c : Cmd) (id : Word) : Bool :=
  match findSession s id with
  | none => false
  | some x =>
    match c.key.src with
    | .queue _ => sessionOf s c == some id
    | .mailbox f => x.fn == f
    | .firmware => true

/-- Whether an object of session `owner` and function `fn` belongs to the command's session, or to its function for a
mailbox command (R151). -/
def ownsObject (s : State) (c : Cmd) (owner : Word) (fn : Nat) : Bool :=
  match c.key.src with
  | .queue _ => sessionOf s c == some owner
  | .mailbox f => fn == f
  | .firmware => true

/-! Completions. -/

/-- What a command's completion says (R142). -/
structure Reply where
  status : Status
  result : DWord := 0
  warn : BitVec 16 := 0
  epoch : BitVec 16 := 0
  kind : BitVec 4 := 0
  tag : BitVec 16 := 0
  stamp : Nat := 0
  last : Bool := true
  release : Option Nat := none
  urgent : Bool := false
  /-- The engine whose placement gave `epoch` (R288). -/
  placed : Option Nat := none

/-- A completion with a status and a result. -/
def reply (st : Status) (result : Nat := 0) : Reply := { status := st, result := BitVec.ofNat 64 result }

/-- The eight words of a completion entry (R142). -/
def completionWords (phase : Bool) (head : Nat) (x : Completion) : List Word :=
  [ BitVec.ofNat 32 ((if phase then 2 ^ 31 else 0) + x.status.toNat * 2 ^ 16 + x.cmdId.toNat),
    BitVec.ofNat 32 (x.kind.toNat * 2 ^ 28 + x.sq.toNat),
    BitVec.ofNat 32 (x.warn.toNat * 2 ^ 16 + head % 2 ^ 16),
    BitVec.ofNat 32 x.stamp,
    BitVec.ofNat 32 (x.stamp / 2 ^ 32),
    BitVec.ofNat 32 x.result.toNat,
    BitVec.ofNat 32 (x.result.toNat / 2 ^ 32),
    BitVec.ofNat 32 (x.tag.toNat * 2 ^ 16 + x.epoch.toNat) ]

/-- The completion of a reply to a command on queue `q`. -/
def replyEntry (s : State) (k : CmdKey) (q : BitVec 18) (r : Reply) : Completion where
  cmdId := k.id
  sq := q
  status := r.status
  kind := r.kind
  warn := r.warn
  stamp := if r.stamp = 0 then now s else r.stamp
  result := r.result
  tag := r.tag
  epoch := r.epoch
  last := r.last
  release := r.release
  urgent := r.urgent
  placed := r.placed

/-- Leave a completion to its queue's completion queue, to be written when that has a free entry (R144). -/
def enqueue (s : State) (q : BitVec 18) (x : Completion) : State :=
  match findSq s q.toNat with
  | none => s
  | some sq => modCq s sq.cq (fun cq => { cq with waiting := cq.waiting ++ [x] })

/-- Write the mailbox response (R147): kind 0x0, sq_id and sq_head 0, phase tag 1. -/
def mailboxRespond (s : State) (f : Nat) (k : CmdKey) (r : Reply) : State :=
  modFunc s f (fun x => { x with
    mbxResp := completionWords true 0 { replyEntry s k 0 r with kind := 0 }, respValid := true, busy := false })

/-- Whether a command is outstanding and its last completion not yet due (R141). -/
def isOpen (s : State) (k : CmdKey) : Bool := match findOut s k with | some o => !o.done | none => false

/-- Whether an imprint of a command waits to be written (R641). -/
def imprintWaits (s : State) (k : CmdKey) : Bool :=
  s.imprints.queue.any (fun j => match j with | .imprint x _ _ => x.owner == k && x.held.isNone | _ => false)

/-- Leave a completion to the last of the command's imprints, which it follows (R641). -/
def holdCompletion (s : State) (k : CmdKey) (x : Completion) : State :=
  let last := (s.imprints.queue.map (fun j => match j with | .imprint y _ _ => y.owner == k | _ => false)).reverse
  let i := s.imprints.queue.length - 1 - (last.findIdx (fun b => b))
  { s with imprints := { s.imprints with queue := s.imprints.queue.modify i (fun j => match j with
    | .imprint y w n => .imprint { y with held := some x } w n
    | j => j) } }

/-- Complete a command (R142–R147): on a queue the completion waits to be posted, unless quiet suppresses an OK one
(R139), one after DEFERRED has kind 0x2 (R146), and one whose imprint is not written yet waits for it (R641); a mailbox command's response is written at once; the firmware's own
commands post nothing, and neither does a command that is not outstanding or whose last completion is already due. -/
def finish (s : State) (c : Cmd) (r : Reply) : State :=
  match c.key.src with
  | .firmware => s
  | .mailbox f => if isOpen s c.key then dropOut (mailboxRespond s f c.key r) c.key else s
  | .queue q =>
    if !isOpen s c.key then s
    else
      let deferred := match findOut s c.key with | some o => o.deferred | none => false
      let r := if deferred && r.kind == 0 then { r with kind := 2 } else r
      if c.quiet && r.status == stOK then dropOut s c.key
      else
        let x := replyEntry s c.key q r
        modOut (if imprintWaits s c.key then holdCompletion s c.key x else enqueue s q x) c.key (fun o => { o with done := r.last })

/-- Post DEFERRED: the command stays outstanding until its final completion (R146). -/
def deferCmd (s : State) (c : Cmd) : State :=
  match c.key.src with
  | .queue q =>
    modOut (enqueue s q (replyEntry s c.key q { reply stDEFERRED with last := false })) c.key
      (fun o => { o with deferred := true, started := true })
  | _ => s

/-- Complete a command with a status and a result. -/
def done (s : State) (c : Cmd) (st : Status) (result : Nat := 0) : State := finish s c (reply st result)

/-- Complete a command with an error, or go on with the value. -/
def orFail {α : Type} (s : State) (c : Cmd) (x : Except Status α) (k : α → State) : State :=
  match x with
  | .error st => done s c st
  | .ok a => k a

/-- Complete a command with the status that refuses it, or go on. -/
def refuseOr (s : State) (c : Cmd) (st : Option Status) (k : State) : State :=
  match st with
  | some st => done s c st
  | none => k

/-- The lowest-coded warning status of a warn_mask (R145, R170): PIVOT_REG, SAT, INPUT_RANGE, KEY_NARROW. -/
def warnStatus (warn : BitVec 16) : Status :=
  if warn.getLsbD 0 then stPIVOT_REG
  else if warn.getLsbD 1 then stSAT
  else if warn.getLsbD 2 then stINPUT_RANGE
  else if warn.getLsbD 3 then stKEY_NARROW
  else stOK

/-! Interrupt vectors and asynchronous events. -/

/-- Raise an MSI-X vector of a function (R155): its message leaves unless it is masked, and then its pending bit is set.
An entry that nothing has written is masked, with address and data 0 (DESIGN CHOICE, log entry 4). -/
def raiseVector (s : State) (f v : Nat) : State :=
  match s.hif.msix.find? (fun e => e.fn == f && e.vector == v) with
  | some e =>
    if e.masked then
      { s with hif := { s.hif with msix := s.hif.msix.map (fun x => if x.fn == f && x.vector == v then { x with pend := true } else x) } }
    else { s with out := s.out ++ [.msix f v e.addr e.data] }
  | none =>
    { s with hif := { s.hif with msix := s.hif.msix ++ [{ fn := f, vector := v, addr := 0, data := 0, masked := true, pend := true }] } }

/-- The events without the oldest of them: the first with the lowest stamp. -/
def dropOldest (l : List AsyncEvent) : List AsyncEvent :=
  match l with
  | [] => []
  | e :: es => l.erase (es.foldl (fun m x => if x.stamp < m.stamp then x else m) e)

/-- An event of a session waits, the oldest of more than 64 being discarded (R156): events of a restart stand before older ones. -/
def keepEvent (x : Session) (e : AsyncEvent) : Session :=
  if 64 ≤ x.events.length then { x with events := dropOldest x.events ++ [e], discarded := satInc x.discarded }
  else { x with events := x.events ++ [e] }

/-- The oldest waiting events of a session complete its oldest outstanding requests with kind 0x3 (R156), at most `n` of them. -/
def deliverEvents : Nat → State → Word → State
  | 0, s, _ => s
  | n + 1, s, id => match findSession s id with
    | none => s
    | some x => match x.requests, x.events with
      | c :: rest, e :: more =>
        let s1 := modSession s id (fun x => { x with requests := rest, events := more, discarded := 0 })
        deliverEvents n (finish s1 c { status := stOK, result := e.result, kind := 3, tag := e.code, epoch := x.discarded,
                                       stamp := e.stamp }) id
      | _, _ => s

/-- Give an asynchronous event to one session (R156): the oldest outstanding request completes, or the event waits. Until fw_ready
returns after a safe-state trigger every event waits, for SAFE_STATE_ENTERED and MAIN_RESTARTED come first (R158). -/
def eventTo (s : State) (code : BitVec 16) (result : DWord) (id : Word) : State :=
  let s1 := modSession s id (fun x => keepEvent x ⟨code, result, now s⟩)
  if s.hif.fwReady then deliverEvents 1 s1 id else s1

/-- Raise an event to every open session that `p` selects (R156). -/
def raiseEvent (s : State) (code : BitVec 16) (result : Nat) (p : Session → Bool := fun _ => true) : State :=
  ((s.cmds.sessions.filter p).map (·.id)).foldl (fun s id => eventTo s code (BitVec.ofNat 64 result) id) s

def evSAFE_STATE_ENTERED : BitVec 16 := 0x0001
def evMAIN_RESTARTED : BitVec 16 := 0x0002
def evQUEUE_ERROR : BitVec 16 := 0x0003
def evDOORBELL_LOST : BitVec 16 := 0x0004
def evSTALE_EPOCH_SEEN : BitVec 16 := 0x0005
def evSYNC_LOST : BitVec 16 := 0x0006
def evTHERMAL : BitVec 16 := 0x0007
def evSPARE_USED : BitVec 16 := 0x0008
def evFW_SWAPPED : BitVec 16 := 0x0009
def evDISAGREE_COUNT : BitVec 16 := 0x000A
def evPROTECTION_REBOOT : BitVec 16 := 0x000B

/-! Husk requests. -/

/-- Ask the Shell to record an event (R607, R610, R614): during a power fail the request is lost and only
HSK_STATUS counts it; with 256 requests waiting it is lost and lost_before of the next record counts it. -/
def huskRequest (s : State) (typ source : Nat) (payload : Bytes) (stamp : Nat := 0) : State :=
  let h := s.husk
  match h.powerFail with
  | some _ => { s with husk := { h with lost := satInc h.lost } }
  | none =>
    if 256 ≤ h.queue.length then
      { s with husk := { h with lost := satInc h.lost, lostBefore := satInc h.lostBefore } }
    else
      { s with husk := { h with queue := h.queue ++
          [{ typ := typ, source := source, stamp := if stamp = 0 then now s else stamp, payload := payload.take 36 }] } }

/-- The seq that a record asked for now is written with (R608, R610). -/
def nextSeq (s : State) : Word := s.husk.next + BitVec.ofNat 32 s.husk.queue.length

/-- A FAULT record (R611, R612): unit class, unit, cause and the detail at byte 8. -/
def huskFault (s : State) (source cls unit cause : Nat) (detail : Nat := 0) : State :=
  huskRequest s 0x03 source (leBytes 1 cls ++ leBytes 1 unit ++ leBytes 1 cause ++ leBytes 5 0 ++ leBytes 8 detail)

/-- A DEADLINE_MISS record for a HARD queue (R274, R369): kind 1 solve, 2 batch, 3 route. -/
def huskMiss (s : State) (source kind sq : Nat) (id : BitVec 16) (missed lowest : Nat) : State :=
  huskRequest s 0x04 source
    (leBytes 4 kind ++ leBytes 4 sq ++ leBytes 2 id.toNat ++ leBytes 1 missed ++ leBytes 1 lowest)

/-- A remap or swap is appended to the boot flash's repair table (R622). -/
def repairEntry (s : State) (cls failed spare : Nat) : State :=
  { s with boot := { s.boot with flash := { s.boot.flash with repair := s.boot.flash.repair ++ [(cls, failed, spare)] } } }

/-! Memory windows, envelopes and accesses. -/

/-- The running Plate's entry of partition `p` (R504). -/
def partEntry (s : State) (p : Nat) : List Word :=
  match s.plate.parts[p]? with | some x => x.entry | none => []

def peValid (e : List Word) : Bool := wbit (wat e 0) 31
/-- 0 CYCLIC, 1 STATIC_WCET, 2 BEST_EFFORT (R498). -/
def peMode (e : List Word) : Nat := fld (wat e 0) 30 29
def peFirst (e : List Word) : Nat := fld (wat e 0) 28 25
def peSizeLog2 (e : List Word) : Nat := fld (wat e 0) 24 22
def peSize (e : List Word) : Nat := 2 ^ peSizeLog2 e
def peProof (e : List Word) : Bool := wbit (wat e 0) 21
def peSpdMode (e : List Word) : Nat := fld (wat e 0) 20 19
def peGtcPoints (e : List Word) : Bool := wbit (wat e 0) 18
def peSpill (e : List Word) : Bool := wbit (wat e 0) 17
def peMapIndex (e : List Word) : Nat := fld (wat e 0) 16 12
def peRtPorts (e : List Word) : Nat := fld (wat e 1) 30 16
def peEngines (e : List Word) : Nat := fld (wat e 1) 8 0
def peHasEngine (e : List Word) (n : Nat) : Bool := decide (n < 9) && wbit (wat e 1) n
def peSliceCount (e : List Word) : Nat := fld (wat e 2) 20 16
def peFirstSlice (e : List Word) : Nat := fld (wat e 2) 3 0
def peRtGbs (e : List Word) : Nat := fld (wat e 3) 25 16
def peQos (e : List Word) (q : Nat) : Bool := decide (q < 3) && wbit (wat e 3) q
def peWaitLimit (e : List Word) : Nat := (wat e 4).toNat

/-- Whether slice `i` lies in a partition's share (R420). -/
def peHasSlice (e : List Word) (i : Nat) : Bool :=
  peValid e && decide (peFirstSlice e ≤ i) && decide (i < peFirstSlice e + peSliceCount e)

/-- The share that holds 4 MiB block `i` of the shared buffer: its first slice and its size (R420); a slice in no share
stands alone. -/
def shareOf (s : State) (i : Nat) : Nat × Nat :=
  match s.plate.parts.find? (fun p => peHasSlice p.entry i) with
  | some p => (peFirstSlice p.entry, peSliceCount p.entry)
  | none => (i, 1)

/-- Size of one slice (R419). -/
def sliceBytes : Nat := 0x400000
/-- Where LPDDR begins (R419). -/
def lpddrBase : Nat := 0x1000000000

/-- The slice that holds a byte of the shared buffer (R421). -/
def sliceOf (s : State) (a : Nat) : Nat :=
  let sh := shareOf s (a / sliceBytes)
  sh.1 + (a - sliceBytes * sh.1) / 256 % sh.2

/-- The byte of its slice that a byte of the shared buffer is (R421). -/
def sliceByte (s : State) (a : Nat) : Nat :=
  let sh := shareOf s (a / sliceBytes)
  (a - sliceBytes * sh.1) / 256 / sh.2 * 256 + a % 256

/-- The device address of a byte of a slice (R421). -/
def sliceAddr (s : State) (i b : Nat) : Nat :=
  let sh := shareOf s i
  sliceBytes * sh.1 + (b / 256 * sh.2 + (i - sh.1)) * 256 + b % 256

/-- What device memory holds once the shares are those of `s1` (R420, R421): each byte of a slice stays in its place, and the
addresses that name it change with the share. -/
def reshapeShares (s s1 : State) : State :=
  if (List.range 16).all (fun i => shareOf s i == shareOf s1 i) then s1
  else
    let low := fun (c : Host.Cell) => decide (c.1 < 16 * sliceBytes)
    let rest : Memory := s1.mem.dev.filter (fun c => !low c)
    let dev := (s1.mem.dev.filter low).foldl (fun (m : Memory) c => m.put (sliceAddr s1 (sliceOf s c.1) (sliceByte s c.1)) c.2) rest
    { s1 with mem := { s1.mem with dev := dev } }

/-- The slices that a range of device addresses touches (R419, R421). -/
def slicesOf (s : State) (a n : Nat) : List Nat :=
  if n = 0 ∨ 16 * sliceBytes ≤ a then []
  else
    let first := a / 256
    let last := (min (a + n) (16 * sliceBytes) - 1) / 256
    let per := sliceBytes / 256
    ((List.range 16).flatMap (fun b =>
      let lo := max first (b * per)
      let hi := min last (b * per + per - 1)
      if hi < lo then [] else (List.range (min 16 (hi - lo + 1))).map (fun i => sliceOf s ((lo + i) * 256)))).eraseDups

/-- The attached LPDDR capacity in bytes (R676, PRESUMED 128 GiB, log entry 13). -/
def lpddrBytes : Nat := 128 * 2 ^ 30

/-- LPDDR bytes that `n` bytes of a class take with their check bytes (R415): 1 per 8, and for class 2 2 per 64. -/
def checkedBytes (cls n : Nat) : Nat := if cls = 2 then n + 2 * ((n + 63) / 64) else n + (n + 7) / 8

/-- LPDDR bytes that the allocations take, check bytes included (R415). -/
def lpddrHeld (s : State) : Nat :=
  (s.cmds.allocs.filter (fun a => decide (lpddrBase ≤ a.addr))).foldl (fun n a => n + checkedBytes a.cls a.bytes) 0

/-- Whether `n` more bytes of a class fit into LPDDR with their check bytes, beside the allocations and the spill areas (R415, R537). -/
def lpddrFits (s : State) (cls n : Nat) : Bool :=
  decide (lpddrHeld s + s.plate.spills.foldl (fun n x => n + x.2) 0 + checkedBytes cls n ≤ lpddrBytes)

/-- The LPDDR banks that a range touches: the eighths of the capacity (R655). -/
def banksOf (a n : Nat) : List Nat :=
  if n = 0 ∨ a + n ≤ lpddrBase then []
  else
    let e := lpddrBytes / 8
    let lo := (a - lpddrBase) / e
    let hi := (a + n - 1 - lpddrBase) / e
    (List.range 8).filter (fun b => decide (lo ≤ b) && decide (b ≤ hi))

/-- Whether two ranges overlap. -/
def overlaps (a n b m : Nat) : Bool := decide (a < b + m) && decide (b < a + n) && n != 0 && m != 0

/-- The address ranges that a handle action refers to (R86): types 2, 4, 6 and 7. -/
def actionRange (x : EtchAction) : Option (Nat × Nat) :=
  if [2, 4, 6, 7].contains x.typ then some (x.argLo.toNat + 2 ^ 32 * x.argHi.toNat, x.length) else none

/-- Memory key of a place in a ring: device memory, or the function's host memory (R163). -/
def ringKey (inDevice : Bool) (fn a : Nat) : Nat := if inDevice then a else hostKey fn a

/-- The entries that a doorbell has submitted and nothing has fetched yet (R134, R137). -/
def rungEntries (s : State) : List (List Word) :=
  s.cmds.sqs.flatMap (fun q => (List.range ((q.tail + q.depth - q.head) % q.depth)).map (fun i =>
    toWords 16 (readKey s.mem (ringKey q.inDevice q.fn (q.ring + 64 * ((q.head + i) % q.depth))) 64)))

/-- The descriptors of the SCENARIO_BATCH entries that are submitted or outstanding, in device memory (R293). -/
def batchDescriptors (s : State) : List (Nat × Nat) :=
  (rungEntries s ++ s.cmds.outstanding.map (·.entry)).filterMap (fun x =>
    if fld (wat x 0) 31 16 = 0x0410 then
      match findWindow s (wat x 5) with
      | some w =>
        let k := w.base + dat x 6
        if w.host then none else some (k, 64 + 48 * fld (BitVec.ofNat 32 (leNat (Memory.read s.mem.dev k 4))) 6 0)
      | none => none
    else none)

/-- The ranges that are write-protected now: payloads of ARMED etches (R98), by-reference data of solves and batch
descriptors (R242, R293), route operands (R365), and what the hash engine still reads (R638, R640). -/
def protectedRanges (s : State) : List (Nat × Nat) :=
  let t := now s
  let live := fun (g : Guard) => if t < g.till then some (g.lo, g.hi - g.lo) else none
  (s.etch.etches.filter (fun e => e.st == .armed)).flatMap (fun e => e.acts.filterMap actionRange)
  ++ s.solver.engines.flatMap (fun e => match e.run with | some r => r.guards.filterMap live | none => [])
  ++ batchDescriptors s ++ s.solver.batches.map (fun b => (b.desc, b.descLen))
  ++ s.field.parts.flatMap (fun p => (p.run.toList ++ p.spilled.toList ++ p.fenced.toList).flatMap (fun r =>
      r.guards.map (fun g => (g.lo, g.hi - g.lo))))
  ++ s.imprints.queue.filterMap (fun j => match j with
      | .weight _ a => (s.cmds.allocs.find? (fun x => x.addr == a)).map (fun x => (x.addr, x.bytes))
      | _ => none)
  ++ s.imprints.queue.flatMap (fun j => match j with | .inputs _ g _ => g | _ => [])

/-- Whether a unit state lets accesses through: only ON (R656, R661). -/
def unitOn (l : List (BitVec 2)) (i : Nat) : Bool := l.getD i 0 == 2

/-- Whether a sector or engine, by unit code, is ON and not on its way down (R656, R658). -/
def unitReady (s : State) (u : Nat) : Bool :=
  unitOn (if u / 65536 = 1 then s.power.sectors else s.power.engines) (u % 65536) && !s.power.moves.any (fun m => m.1 == u)

/-- Whether the units under a device range are all ON (R661). -/
def rangePowered (s : State) (a n : Nat) : Bool :=
  (slicesOf s a n).all (unitOn s.power.slices) &&
  (banksOf a n).all (fun b => unitOn s.power.banks b && !s.power.selfRefresh)

/-- Whether a device range touches a fenced slice (R623). -/
def rangeFenced (s : State) (a n : Nat) : Bool := (slicesOf s a n).any (fun i => s.power.fenced.getD i false)

/-- Whether every slice under a device range serves partition `p`'s sectors, engines and transfers (R422). -/
def sliceServes (s : State) (p a n : Nat) : Bool := (slicesOf s a n).all (peHasSlice (partEntry s p))

/-- What stops an access to device memory: a bank or slice that is not ON gives BANK_OFF (R661), a fenced slice
UNCORRECTABLE (R623), a write to a protected range PROTECTION (R98, R242, R365, R638). Host memory stops nothing. -/
def accessStatus (s : State) (k n : Nat) (write : Bool) : Option Status :=
  if hostBase ≤ k then none
  else if !rangePowered s k n then some stBANK_OFF
  else if rangeFenced s k n then some stUNCORRECTABLE
  else if write && (protectedRanges s).any (fun r => overlaps k n r.1 r.2) then some stPROTECTION
  else none

/-- Record the first write that a draining unit discards (R663). -/
def noteDiscard (s : State) (k n source : Nat) : State :=
  if hostBase ≤ k then s
  else
    let units := (slicesOf s k n).map (fun i => 0x30000 + i) ++ (banksOf k n).map (fun i => 0x40000 + i)
    { s with power := { s.power with drains := s.power.drains.map (fun d =>
        if units.contains d.unit && d.discarded.isNone then { d with discarded := some source } else d) } }

/-- A place in a window (R153): the key of the byte at `offset`, when `n` bytes from there lie in the window and the
command may use it. A closed or unknown window gives WINDOW_CLOSED, another session's PROTECTION (R151), a range past
the window's end or a write through a read-only window PROTECTION (log entry 14). -/
def windowKey (s : State) (c : Cmd) (w : Word) (offset n : Nat) (write : Bool) : Except Status Nat :=
  match findWindow s w with
  | none => .error stWINDOW_CLOSED
  | some x =>
    if !ownsObject s c x.session x.fn then .error stPROTECTION
    else if x.length < offset + n then .error stPROTECTION
    else if write && !x.writable then .error stPROTECTION
    else .ok (if x.host then hostKey x.fn (x.base + offset) else x.base + offset)

/-- For a command whose row lists no WINDOW_CLOSED (R161, R166, R169): a closed or unknown window gives PROTECTION, which any
command may return (DEDUCED, log entry 14). -/
def unlisted {α : Type} (x : Except Status α) : Except Status α :=
  match x with
  | .error st => .error (if st = stWINDOW_CLOSED then stPROTECTION else st)
  | .ok a => .ok a

/-- Read `n` bytes at a place in a window. -/
def readWindow (s : State) (c : Cmd) (w : Word) (offset n : Nat) : Except Status Bytes :=
  match windowKey s c w offset n false with
  | .error st => .error st
  | .ok k => match accessStatus s k n false with
    | some st => .error st
    | none => .ok (readKey s.mem k n)

/-- A write accepted to a registered weight allocation clears its registration (R640). -/
def clearWeights (s : State) (k n : Nat) : State :=
  if s.imprints.weights.isEmpty then s
  else { s with imprints := { s.imprints with weights := s.imprints.weights.filter (fun w =>
    match s.cmds.allocs.find? (fun a => a.addr == w.addr) with
    | some a => !overlaps k n a.addr a.bytes
    | none => true) } }

/-- Write bytes at a key whose access has been checked. -/
def putKey (s : State) (k : Nat) (b : Bytes) : State := { clearWeights s k b.length with mem := writeKey s.mem k b }

/-- Write bytes at a place in a window. -/
def writeWindow (s : State) (c : Cmd) (w : Word) (offset : Nat) (b : Bytes) : Except Status State :=
  match windowKey s c w offset b.length true with
  | .error st => .error st
  | .ok k => match accessStatus s k b.length true with
    | some st => .error st
    | none => .ok (putKey s k b)

/-- Complete with the number of bytes written to a window, or with the status that stops the write. -/
def writeReply (s : State) (c : Cmd) (w : Word) (offset : Nat) (b : Bytes) (result : Nat) : State :=
  match writeWindow s c w offset b with
  | .error st => done s c st
  | .ok s1 => done s1 c stOK result

/-- Whether the `n` bytes from device address `a` are covered by the allocations `l`, with `fuel` steps. -/
def coveredBy (l : List Allocation) : Nat → Nat → Nat → Bool
  | 0, _, n => n == 0
  | f + 1, a, n =>
    if n = 0 then true
    else match l.find? (fun x => decide (x.addr ≤ a) && decide (a < x.addr + x.bytes)) with
      | none => false
      | some x => let k := x.addr + x.bytes - a; coveredBy l f (a + k) (n - k)

/-- The session's memory envelope (R752): a device range must lie in its own allocations. The firmware's own commands
have no envelope. -/
def inEnvelope (s : State) (session : Option Word) (a n : Nat) : Bool :=
  match session with
  | none => true
  | some id =>
    let l := s.cmds.allocs.filter (fun x => x.session == some id)
    coveredBy l (l.length + 1) a n

/-- Whether a device range lies inside one allocation of the session (R752). -/
def inOneAllocation (s : State) (session : Option Word) (a n : Nat) : Bool :=
  s.cmds.allocs.any (fun x => (session.isNone || x.session == session) && decide (x.addr ≤ a) && decide (a + n ≤ x.addr + x.bytes))

/-- Charge a session's counters (R532). -/
def charge (s : State) (session : Option Word) (f : Counters → Counters) : State :=
  match session with
  | none => s
  | some id => modSession s id (fun x => { x with counters := f x.counters })

/-- A command begins to run (R121, R268): its session is charged once with the wait since the doorbell (R532). -/
def markStarted (s : State) (k : CmdKey) : State :=
  match findOut s k with
  | none => s
  | some o =>
    if o.started then s
    else
      let w := now s - o.stamp
      charge (modOut s k (fun o => { o with started := true })) (some o.session) (fun n => { n with
        started := min (n.started + 1) (2 ^ 64 - 1),
        queueWait := min (n.queueWait + w) (2 ^ 64 - 1),
        queueWaitMax := max n.queueWaitMax (min w (2 ^ 64 - 1)) })

/-- Complete a command with DEADLINE_MISS (R121, R268), which its session counts (R532). -/
def missDeadline (s : State) (c : Cmd) : State :=
  done (charge s (sessionOf s c) (fun n => { n with deadlineMisses := satInc n.deadlineMisses })) c stDEADLINE_MISS

/-- Refuse a command for want of admission (R278, R523, R525), which its session counts (R532). -/
def refuseAdmission (s : State) (c : Cmd) (st : Status) : State :=
  done (charge s (sessionOf s c) (fun n => { n with admissionRefusals := satInc n.admissionRefusals })) c st

/-- A host command reaches its execution at tick `t`: an operand with an undefined value completes it with
BAD_DESCRIPTOR and no other effect (R11), otherwise it starts and `body` is its effect. -/
def host (s : State) (t : Nat) (c : Cmd) (ok : Bool) (body : State → State) : Out :=
  let s1 := advance s t
  .next (if ok then body (markStarted s1 c.key) else done s1 c stBAD_DESCRIPTOR)

/-- A host command that waits for its unit: it starts when the unit takes it (R268, R335). -/
def hostWait (s : State) (t : Nat) (c : Cmd) (ok : Bool) (body : State → State) : Out :=
  let s1 := advance s t
  .next (if ok then body s1 else done s1 c stBAD_DESCRIPTOR)

/-- An event reaches the device at tick `t`. -/
def event (s : State) (t : Nat) (body : State → State) : Out := .next (body (advance s t))

/-- Whether partition `p` has HARD or SAFETY work: such a slot, or a bound HARD queue (R653, R663). -/
def partHard (s : State) (p : Nat) : Bool :=
  (match s.plate.parts[p]? with
   | some x => x.slots.any (fun w => decide (2 ≤ fld (wat w 0) 31 30))
   | none => false) ||
  s.cmds.sqs.any (fun q => q.part == p && q.cls == 2)

/-- Post a wire message at a peer port, an MSI-X message and the like. -/
def emit (s : State) (o : Output) : State := { s with out := s.out ++ [o] }

/-- A private write to the I3C target leaves its block and offset for the read that follows (R699). -/
def i3cSelect (s : State) (block offset : Nat) : State := { s with ports := { s.ports with i3c := some (block, offset) } }

/-! Places in device memory (R165, R361, R424, R753). -/

/-- The aligned places at which `size` bytes fit between the ranges `used`, in rising order, up to `hi`: the first of each
gap and how many there are. -/
def freeSpots (hi size align : Nat) : Nat → List (Nat × Nat) → List (Nat × Nat)
  | lo, [] =>
    let p := alignUp lo align
    if p + size ≤ hi then [(p, (hi - size - p) / align + 1)] else []
  | lo, (a, n) :: r =>
    let p := alignUp lo align
    let top := min a hi
    (if p + size ≤ top then [(p, (top - size - p) / align + 1)] else []) ++ freeSpots hi size align (max lo (a + n)) r

/-- The `k`-th place of a list of gaps. -/
def nthSpot (align : Nat) : List (Nat × Nat) → Nat → Option Nat
  | [], _ => none
  | (p, n) :: r, k => if k < n then some (p + k * align) else nthSpot align r (k - n)

/-- The place that the firmware chooses among those that are free (R753). -/
def chooseSpot (s : State) (lo hi size align : Nat) (used : List (Nat × Nat)) : Option Nat :=
  let spots := freeSpots hi size align lo (sortBy (fun a b => decide (a.1 < b.1)) used)
  let n := spots.foldl (fun m x => m + x.2) 0
  if n = 0 then none else nthSpot align spots (Config.handOut s.free % n)

/-- What already lies in device memory: the allocations, the firmware's copies of Plate images (R510), the private copies that
Proof-mode routes take from their partitions' shares (R361, R424), and the serving pages in the shared buffer (R473). -/
def heldRanges (s : State) : List (Nat × Nat) :=
  s.cmds.allocs.map (fun a => (a.addr, a.bytes)) ++ s.plate.loaded.map (fun l => (l.1, l.2.length))
  ++ s.field.parts.flatMap (fun p => (p.run.toList ++ p.spilled.toList ++ p.fenced.toList).flatMap (·.space))
  ++ s.loops.flatMap (Loop.sharedPages s.mem)

end Sys2Proof.Machine
end

