-- ==== Sys2Proof/Machine/Clock.lean ====
section
/-!
DEFINITION. Machine/Clock.lean: what a tick with no command does.
-/
namespace Sys2Proof.Machine

/-- One GTC tick: both GTCs advance by 1 ns, unless the hold of first lock stops them (R58, R75). -/
def tick (s : State) : State := advance s (now s + 1)

end Sys2Proof.Machine
end

