-- ==== Sys2Proof/Machine/CanOps.lean ====
section
/-!
DEFINITION. Machine/CanOps.lean: the CAN FD configuration block, its filters, and the receive rings (R697, R698).
-/
namespace Sys2Proof.Machine

def getCan (s : State) (n : Nat) : CanPort := s.ports.can.getD n CanPort.reset
def modCan (s : State) (n : Nat) (f : CanPort → CanPort) : State :=
  { s with ports := { s.ports with can := s.ports.can.modify n f } }

/-! The block (R698). -/

def cbEnable (b : Bytes) : Bool := wbit (wordAt b 0) 23
def cbFd (b : Bytes) : Bool := wbit (wordAt b 0) 22
def cbListen (b : Bytes) : Bool := wbit (wordAt b 0) 21
def cbFilters (b : Bytes) : Nat := fld (wordAt b 0) 7 0
def cbRing (b : Bytes) : Nat := dwordAt b 4
def cbRecords (b : Bytes) : Nat := fld (wordAt b 6) 15 0

/-- A port takes part in the bus. -/
def canRuns (p : CanPort) : Bool := !p.block.isEmpty && cbEnable p.block

/-- The layout of a block of this many bytes (R698). -/
def canBlockOk (b : Bytes) : Bool :=
  let w := wordAt b
  let n := cbFilters b
  let point := fun (v : Nat) => decide (50 ≤ v) && decide (v ≤ 90)
  fld (w 0) 31 24 == 1 && fld (w 0) 20 8 == 0 && decide (n ≤ 64) && b.length == 32 + 8 * n
  && decide (125000 ≤ (w 1).toNat) && decide ((w 1).toNat ≤ 1000000)
  && (if cbFd b then decide ((w 1).toNat ≤ (w 2).toNat) && decide ((w 2).toNat ≤ 8000000) && point (fld (w 3) 23 16)
      else w 2 == 0 && fld (w 3) 23 16 == 0)
  && point (fld (w 3) 31 24) && fld (w 6) 31 16 == 0 && decide (2 ≤ cbRecords b) && w 7 == 0
  && (List.range n).all (fun i => !wbit (w (8 + 2 * i)) 30 && fld (w (9 + 2 * i)) 31 29 == 0)

/-- Whether filter `i` of a block matches an identifier. -/
def filterHit (b : Bytes) (i : Nat) (ident : BitVec 29) (extended : Bool) : Bool :=
  let f := wordAt b (8 + 2 * i)
  let m := BitVec.ofNat 29 (fld (wordAt b (9 + 2 * i)) 28 0)
  wbit f 29 == extended && (BitVec.ofNat 29 (fld f 28 0) &&& m) == (ident &&& m)

/-- Whether a received frame is accepted (R698): by the first filter that matches; with no filters, every frame is. -/
def canAccepts (b : Bytes) (ident : BitVec 29) (extended : Bool) : Bool :=
  if cbFilters b = 0 then true
  else match (List.range (cbFilters b)).find? (fun i => filterHit b i ident extended) with
    | some i => !wbit (wordAt b (8 + 2 * i)) 31
    | none => false

/-- The 80-byte record of a received frame (R698). -/
def canRecord (stamp : Nat) (ident : BitVec 29) (extended fd brs : Bool) (data : Bytes) : Bytes :=
  let bit := fun (b : Bool) (i : Nat) => if b then 2 ^ i else 0
  leBytes 8 stamp ++ leBytes 4 (ident.toNat + bit extended 29 + bit fd 30 + bit brs 31) ++ leBytes 1 data.length
    ++ List.replicate 3 0 ++ slice data 0 64

/-! The rings. -/

/-- A write of the Shell or of the ingress unit, as source `src`, to device memory: it lands where the memory takes it. -/
def portWrite (s : State) (src a : Nat) (b : Bytes) : State :=
  match accessStatus s a b.length true with
  | some _ => noteDiscard s a b.length src
  | none => putKey s a b

/-- Write a record into a port's ring. -/
def ringPut (s : State) (n : Nat) (r : Bytes) : State :=
  let p := getCan s n
  modCan (portWrite s srcShell (cbRing p.block + p.index % max 1 (cbRecords p.block) * 80) r) n (fun p => { p with index := p.index + 1 })

/-- The records that the Shell has kept while the main domain did not run go into the rings in order (R698). -/
def keptOut (s : State) : State :=
  (List.range 4).foldl (fun s n =>
    let l := (getCan s n).kept
    l.foldl (fun s r => ringPut s n r) (modCan s n (fun p => { p with kept := [] }))) s

end Sys2Proof.Machine
end

