-- ==== Sys2Proof/Machine/DmaOps.lean ====
section
/-!
DEFINITION. Machine/DmaOps.lean: what a DMA transfer reads and writes, and what happens when it is cut short by a closed
window, a draining unit, an error or an abort (R121, R153, R165, R417, R661).
-/
namespace Sys2Proof.Machine

/-- The window and key that a transfer writes through. -/
def transferDst (x : Transfer) : Option (Nat × Nat) :=
  match x.kind with
  | .copy _ w d => some (w, d)
  | .fill w d _ => some (w, d)
  | .crc _ => none

/-- The key that a transfer reads from. -/
def transferSrc (x : Transfer) : Option Nat :=
  match x.kind with
  | .copy a _ _ => some a
  | .fill _ _ _ => none
  | .crc a => some a

/-- Byte `i` of a pattern that repeats its four bytes, byte 0 first (R165). -/
def patternByte (pattern : Word) (i : Nat) : Byte := BitVec.ofNat 8 (pattern.toNat / 256 ^ (i % 4))

/-- The data that a transfer moves: a copy's source, or its pattern (R165). -/
def transferData (s : State) (x : Transfer) : Bytes :=
  match x.kind with
  | .copy a _ _ => readKey s.mem a x.length
  | .fill _ _ pattern => (List.range x.length).map (patternByte pattern)
  | .crc a => readKey s.mem a x.length

/-- Whether a device byte is closed to writes: protected, or its unit not ON. -/
def byteClosed (s : State) (ranges : List (Nat × Nat)) (k : Nat) : Bool :=
  decide (k < hostBase) && (!rangePowered s k 1 || ranges.any (fun r => overlaps k 1 r.1 r.2))

/-- The undefined contents that a stopped command leaves over `n` bytes from key `k` (R121): each is a free value where it may be
written at all. -/
def undefRange (s : State) (k n : Nat) : State :=
  let ranges := protectedRanges s
  let put := fun (m : State) (i : Nat) =>
    if byteClosed s ranges (k + i) then m else putKey m (k + i) [Config.undefByte s.free i]
  takeFree ((List.range n).foldl put s)

/-- The channels of the DMA engine (R20). -/
def dmaChannels : Nat := 32

/-- Whether a transfer has a channel: the oldest have, the others wait for one and have moved nothing (R20; which transfer takes a
free channel is DEDUCED, log entry 23). -/
def hasChannel (s : State) (x : Transfer) : Bool := (s.cmds.transfers.take dmaChannels).any (fun y => y.cmd.key == x.cmd.key)

/-- How many first bytes of a transfer may land at all: those before the first one that is closed to writes. -/
def openBytes (s : State) (x : Transfer) : Nat :=
  match transferDst x with
  | none => x.length
  | some (_, d) =>
    let ranges := protectedRanges s
    ((List.range x.length).find? (fun i => byteClosed s ranges (d + i))).getD x.length

/-- How much of a transfer had landed when it was stopped, at most `most` bytes (R121, R153, R661). -/
def landedOf (s : State) (x : Transfer) (most : Nat) : Nat :=
  if hasChannel s x then Config.landed s.free % (min most (openBytes s x) + 1) else 0

/-- Whether what had not landed keeps its value: a write after a close instant or a drain instant is discarded (R153, R661); every
other end leaves it undefined (R121, R165). -/
def keepsRest (st : Status) : Bool := st == stBANK_OFF || st == stWINDOW_CLOSED

/-- What a transfer that stops early with a status leaves in its destination: the first `n` bytes hold the requested data (R121,
R153, R165, R661). -/
def landPrefix (s : State) (x : Transfer) (n : Nat) (st : Status) : State :=
  match transferDst x with
  | none => s
  | some (_, d) =>
    let s1 := putKey s d ((transferData s x).take n)
    takeFree (if keepsRest st || !hasChannel s x then s1 else undefRange s1 (d + n) (x.length - n))

/-- Cut the transfers that `p` selects: what has landed stays, and they complete later with `st`. -/
def cutTransfers (s : State) (st : Status) (p : Transfer → Bool) : State :=
  (s.cmds.transfers.filter (fun x => x.cut.isNone && p x)).foldl (fun s x =>
    let n := landedOf s x x.length
    let s1 := landPrefix s x n st
    { s1 with cmds := { s1.cmds with transfers := s1.cmds.transfers.map (fun y =>
      if y.cmd.key == x.cmd.key then { y with cut := some (n, st) } else y) } }) s

/-- Whether a transfer writes into a device range. -/
def writesRange (x : Transfer) (a n : Nat) : Bool :=
  match transferDst x with
  | some (_, d) => decide (d < hostBase) && overlaps d x.length a n
  | none => false

/-- Whether the range from key `k` touches the unit that `touches` stands for. -/
def keyTouches (touches : Nat → Nat → Bool) (k n : Nat) : Bool := decide (k < hostBase) && touches k n

/-- A unit begins to drain (R661): a transfer that writes to it or reads from it completes with BANK_OFF, and the first
write that it discards is noted (R663). `touches` tells whether a device range reaches the unit. -/
def cutForDrain (s : State) (touches : Nat → Nat → Bool) (unit : Nat) : State :=
  let writes := fun (x : Transfer) => match transferDst x with | some (_, d) => keyTouches touches d x.length | none => false
  let reads := fun (x : Transfer) => match transferSrc x with | some a => keyTouches touches a x.length | none => false
  let any := s.cmds.transfers.any (fun x => x.cut.isNone && writes x)
  let s1 := cutTransfers s stBANK_OFF (fun x => writes x || reads x)
  if any then { s1 with power := { s1.power with drains := s1.power.drains.map (fun d =>
    if d.unit == unit && d.discarded.isNone then { d with discarded := some srcDma } else d) } }
  else s1

/-- Drop a transfer and charge its channel time (R532). The oldest transfer that waits takes its channel (R20). -/
def dropTransfer (s : State) (x : Transfer) : State :=
  let rest := s.cmds.transfers.filter (fun y => y.cmd.key != x.cmd.key)
  let held := hasChannel s x
  let s1 := { s with cmds := { s.cmds with
    transfers := if held then rest.modify (dmaChannels - 1) (fun y => { y with start := now s }) else rest } }
  if !held then s1
  else charge s1 (sessionOf s x.cmd) (fun n => { n with dmaNs := min (n.dmaNs + (now s - x.start)) (2 ^ 64 - 1) })

/-- The result of a transfer of which `n` bytes landed: a DMA_CRC that fails has result 0 (R165). -/
def prefixResult (x : Transfer) (n : Nat) : Nat := match x.kind with | .crc _ => 0 | _ => n

/-- A transfer ends early with a status, a prefix of at most `most` bytes having landed. -/
def endEarly (s : State) (x : Transfer) (st : Status) (most : Nat) : State :=
  let n := landedOf s x (min most x.length)
  done (dropTransfer (landPrefix s x n st) x) x.cmd st (prefixResult x n)

/-- Whether a device range touches an activation-class allocation in LPDDR, which is protected by a CRC per burst (R415). -/
def burstRange (s : State) (a n : Nat) : Bool :=
  s.cmds.allocs.any (fun x => x.cls == 2 && decide (lpddrBase ≤ x.addr) && overlaps a n x.addr x.bytes)

/-- The bursts of activation-class ranges that were read again and then matched (R416): how many is a free value, which the channel's
counter takes (log entry 151). -/
def countRereads (s : State) (l : List (Nat × Nat)) : State :=
  let hit := l.filter (fun x => burstRange s x.1 x.2)
  if hit.isEmpty then s
  else takeFree { s with ports := { s.ports with lpddr := hit.foldl (fun ps x => ps.modify (Config.lpddrChannel x.1 % 32) (fun p => { p with
    rereads := BitVec.ofNat 32 (min (2 ^ 32 - 1) (p.rereads.toNat + Config.rereads s.free x.1)) })) s.ports.lpddr } }

/-- An uncorrectable error at a device address (R417, R611): its record and, for LPDDR, its channel's counter; in the
shared buffer it counts against the slice (R623). -/
def noteUncorrectable (s : State) (k source : Nat) : State :=
  if hostBase ≤ k then s
  else if k < lpddrBase then
    let i := sliceOf s k
    huskRequest { s with power := { s.power with sliceErrors := s.power.sliceErrors.modify i (· + 1) } } 0x07 source
      (leBytes 1 4 ++ leBytes 1 i ++ leBytes 6 0 ++ leBytes 8 k)
  else
    let ch := Config.lpddrChannel k % 32
    huskRequest { s with ports := { s.ports with lpddr := s.ports.lpddr.modify ch (fun x => { x with uncorrectable := satInc x.uncorrectable }) } }
      0x07 source (leBytes 1 5 ++ leBytes 1 ch ++ leBytes 6 0 ++ leBytes 8 k)

/-! LPDDR retraining (R169, R618). -/

def modLpddr (s : State) (n : Nat) (f : LpddrChannel → LpddrChannel) : State :=
  { s with ports := { s.ports with lpddr := s.ports.lpddr.modify n f } }

/-- Retraining goes on with the next channel, or ends (R618). -/
def goRetrain (s : State) (c : Cmd) (trained : Nat) (left : List Nat) : State :=
  match left with
  | [] => done { s with ports := { s.ports with retrain := none } } c stOK trained
  | n :: _ => modLpddr (takeFree { s with ports := { s.ports with retrain := some (c, trained, left) } }) n
      (fun x => { x with retraining := some (max 1 (Config.retrainSteps s.free)) })

/-- An LPDDR_RETRAIN begins, or waits for the one in progress (DESIGN CHOICE, log entry 138). -/
def beginRetrain (s : State) (c : Cmd) (left : List Nat) : State :=
  if s.ports.retrain.isSome then { s with ports := { s.ports with retrainNext := s.ports.retrainNext ++ [(c, left)] } }
  else goRetrain s c 0 left

/-- Those that wait begin, in order, once none is in progress. -/
def nextRetrains (s : State) : State :=
  if s.ports.retrain.isSome then s
  else s.ports.retrainNext.foldl (fun s r => beginRetrain s r.1 r.2) { s with ports := { s.ports with retrainNext := [] } }

/-- Retraining goes on with the next channel, or ends and the next command begins. -/
def nextRetrain (s : State) (c : Cmd) (trained : Nat) (left : List Nat) : State := nextRetrains (goRetrain s c trained left)

end Sys2Proof.Machine
end

