-- ==== Sys2Proof/Machine/Operands.lean ====
section
/-!
DEFINITION. Machine/Operands.lean: every operand form of the commands: the submission entry (R139), the parameters of
each opcode with their reserved bits (R161–R169, R253, R292, R331, R378, R495, R548, R591, R617, R643, R675, R721), and
the values of an operand that the manual does not define (R11).
-/
namespace Sys2Proof.Machine

/-! The framing (R139). -/

def entryOpcode (ws : List Word) : Nat := fld (wat ws 0) 31 16
def entryFamily (ws : List Word) : Nat := fld (wat ws 0) 31 24
def entryId (ws : List Word) : BitVec 16 := BitVec.ofNat 16 (fld (wat ws 0) 15 0)
def entryFence (ws : List Word) : Bool := wbit (wat ws 1) 31
def entryQuiet (ws : List Word) : Bool := wbit (wat ws 1) 30
def entryExpert (ws : List Word) : Bool := wbit (wat ws 1) 29
def entryHasDeadline (ws : List Word) : Bool := wbit (wat ws 1) 28

/-- The command framing that an entry from `src` carries. -/
def entryCmd (src : CmdSource) (ws : List Word) : Cmd where
  key := ⟨src, entryId ws⟩
  quiet := entryQuiet ws
  expert := entryExpert ws
  deadline := if entryHasDeadline ws then some ⟨wat ws 2, wat ws 3, wat ws 4⟩ else none

/-- All 32 bits of a parameter word. -/
def mAll : Word := 0xFFFFFFFF

/-- The bits of words 5 and on that each opcode gives a meaning; none for an opcode that firmware 3.2 does not
implement (R8). Every other bit of the entry is reserved (R10). -/
def opMasks (op : Nat) : Option (List Word) :=
  match op with
  | 0x0000 => some [mAll]
  | 0x0001 => some []
  | 0x0002 => some [mAll]
  | 0x0100 => some [mask 15 0, mAll, mAll, mAll]
  | 0x0101 => some [mAll]
  | 0x0102 => some [mAll, mask 15 0]
  | 0x0103 => some [mAll, mAll, mAll, mAll]
  | 0x0110 => some [mAll, mAll, mAll, mask 16 0 ||| mask 31 31, mask 10 0 ||| mask 23 16, mask 9 0]
  | 0x0111 => some [mask 15 0]
  | 0x0112 => some [mAll, mAll, mAll, mask 16 0 ||| mask 31 30, mask 15 0, mask 17 0, mask 9 0]
  | 0x0113 => some [mask 17 0]
  | 0x0114 => some [mask 17 0, mask 15 0]
  | 0x0200 => some [mAll, mAll, mAll]
  | 0x0201 => some [mask 15 0]
  | 0x0202 => some [mAll, mAll, mAll]
  | 0x0203 => some [mask 15 0]
  | 0x0204 => some [mask 15 0]
  | 0x0300 => some [mAll, mAll, mAll, mAll]
  | 0x0301 => some [mAll, mAll]
  | 0x0302 => some [mAll, mAll]
  | 0x0303 => some []
  | 0x0310 => some [mask 17 0, mask 3 0]
  | 0x0320 => some [mask 1 0 ||| mask 12 8]
  | 0x0400 => some [mask 3 0, mAll, mAll, mAll, mAll]
  | 0x0401 => some [mask 3 0, mask 15 0]
  | 0x0402 => some [mask 6 0]
  | 0x0403 => some [mask 6 0, mAll, mAll, mAll, mAll, mAll, mAll, mask 23 0]
  | 0x0410 => some [mAll, mAll, mAll]
  | 0x0411 => some [mask 6 0, mAll, mAll, mAll, mask 23 0]
  | 0x0412 => some [mask 3 0]
  | 0x0500 => some [mAll, mAll, mAll, mask 3 0]
  | 0x0501 => some [mask 6 0 ||| mask 9 8, mAll, mAll, mAll, mAll, mAll, mAll]
  | 0x0502 => some [mask 6 0]
  | 0x0503 => some [mask 6 0]
  | 0x0504 => some [mask 6 0]
  | 0x0505 => some [mask 6 0]
  | 0x0506 => some [mask 6 0, mAll, mAll, mAll, mAll, mAll, mAll]
  | 0x0600 => some [mAll, mAll, mAll, mAll]
  | 0x0601 => some [mask 11 0]
  | 0x0602 => some [mask 11 0, mAll, mAll, mAll]
  | 0x0603 => some [mask 3 0]
  | 0x0610 => some [mAll, mAll, mAll]
  | 0x0700 => some [mAll, mAll, mAll]
  | 0x0701 => some []
  | 0x0702 => some []
  | 0x0710 => some [mAll, mAll, mAll, mask 17 0, mask 16 0, mAll, mAll, mAll]
  | 0x0711 => some [mAll, mask 2 0 ||| mask 31 14, mask 27 0, mAll, mAll, mAll, mAll, mAll, mAll, mAll]
  | 0x0712 => some [mAll]
  | 0x0713 => some [mAll, mAll, mAll, mAll]
  | 0x0714 => some [mAll]
  | 0x0720 => some [mAll, mask 6 0 ||| mask 14 8 ||| mask 19 16, mask 6 0 ||| mask 13 8, mask 11 0]
  | 0x0800 => some [mAll, mAll, mAll, mask 3 0 ||| mask 15 8]
  | 0x0801 => some [mAll, mAll]
  | 0x0802 => some [mAll, mAll, mAll, mAll, mask 2 0]
  | 0x0803 => some [mAll]
  | 0x0810 => some [mAll, mAll, mAll, mAll, mAll, mAll, mAll, mAll, mask 1 0]
  | 0x0811 => some [mAll, mAll, mAll, mAll, mAll, mAll]
  | 0x0812 => some [mAll, mAll, mAll, mAll, mAll]
  | 0x0900 => some [mask 3 0]
  | 0x0901 => some [mask 19 0, mask 1 0]
  | 0x0902 => some [mAll, mAll, mAll]
  | 0x0903 => some [mask 15 0]
  | 0x0A00 => some [mAll, mAll, mAll]
  | 0x0A01 => some [mAll, mAll, mAll]
  | 0x0A02 => some [mask 0 0]
  | 0x0A03 => some []
  | 0x0B00 => some []
  | 0x0B01 => some [mAll, mask 16 0, mAll, mAll, mAll]
  | 0x0B02 => some [mAll, mAll, mAll]
  | 0x0C00 => some [mAll, mAll, mAll, mAll]
  | 0x0C01 => some []
  | 0x0C02 => some [mAll, mAll, mAll, mAll]
  | 0x0C03 => some []
  | 0x0C10 => some [mask 4 0]
  | 0x0C11 => some [mask 3 0]
  | 0x0C12 => some [mask 1 0 ||| mask 8 8]
  | 0x0C13 => some [mAll]
  | 0x0C14 => some []
  | 0x0D00 => some [mask 17 0, mAll, mAll, mAll, mask 16 0]
  | 0x0D01 => some [mAll, mAll]
  | 0x0D02 => some [mAll, mAll, mAll, mAll, mAll]
  | 0x0D03 => some [mask 6 0, mAll, mAll, mAll]
  | 0x0D04 => some [mask 6 0, mAll, mAll, mAll]
  | 0x0E00 => some []
  | 0x0E01 => some [mAll, mAll, mAll, mAll, mAll, mask 5 0]
  | 0x0E02 => some [mask 15 0]
  | 0x0E03 => some [mask 1 0, mask 15 0, mAll, mAll, mAll, mAll, mAll, mAll, mAll]
  | 0x0E04 => some [mask 1 0, mask 15 0, mAll, mAll, mAll, mAll, mAll, mAll, mAll]
  | 0x0E10 => some [mAll, mAll, mAll, mAll]
  | 0x0E20 => some [mask 5 0, mAll, mAll, mAll]
  | 0x0E21 => some [mask 3 0, mask 11 0]
  | 0x0E22 => some [mAll, mAll, mAll, mAll]
  | 0x0E30 => some [mask 1 0, mAll, mAll, mAll]
  | 0x0E31 => some [mask 1 0, mAll, mask 6 0, mAll, mAll, mAll, mAll, mAll]
  | _ => none

/-- `n` bits from bit `lo` of word `i`. -/
def opField (ws : List Word) (i hi lo : Nat) (n : Nat) : BitVec n := BitVec.ofNat n (fld (wat ws i) hi lo)

/-- The 64-bit parameter in words `i` and `i+1`, low word first (R161). -/
def opPair (ws : List Word) (i : Nat) : DWord := BitVec.ofNat 64 (dat ws i)

/-- The command that an entry stands for (R161–R169 and the tables of the other chapters), at tick `t`. -/
def decodeEntry (t : Nat) (src : CmdSource) (ws : List Word) : Option Instr :=
  let c := entryCmd src ws
  let w := wat ws
  match entryOpcode ws with
  | 0x0000 => some (.identify t c (w 5))
  | 0x0001 => some (.getHealth t c)
  | 0x0002 => some (.asyncEventRequest t c (w 5))
  | 0x0100 => some (.openSession t c (opField ws 5 15 0 16) (opField ws 6 15 0 16) (opField ws 6 31 16 16) (opPair ws 7))
  | 0x0101 => some (.closeSession t c (w 5))
  | 0x0102 => some (.setShare t c (w 5) (opField ws 6 15 0 16))
  | 0x0103 => some (.getCounters t c (w 5) (w 6) (opPair ws 7))
  | 0x0110 => some (.createCq t c (w 5) (opPair ws 6) (opField ws 8 16 0 17) (wbit (w 8) 31) (opField ws 9 10 0 11)
      (opField ws 9 23 16 8) (opField ws 10 9 0 10))
  | 0x0111 => some (.deleteCq t c (opField ws 5 15 0 16))
  | 0x0112 => some (.createSq t c (w 5) (opPair ws 6) (opField ws 8 16 0 17) (wbit (w 8) 30) (wbit (w 8) 31)
      (opField ws 9 15 0 16) (opField ws 10 17 0 18) (opField ws 11 7 0 8) (opField ws 11 9 8 2))
  | 0x0113 => some (.deleteSq t c (opField ws 5 17 0 18))
  | 0x0114 => some (.abort t c (opField ws 5 17 0 18) (opField ws 6 15 0 16))
  | 0x0200 => some (.etchStage t c (w 5) (opPair ws 6))
  | 0x0201 => some (.etchArm t c (opField ws 5 15 0 16))
  | 0x0202 => some (.etchStageArm t c (w 5) (opPair ws 6))
  | 0x0203 => some (.etchAbort t c (opField ws 5 15 0 16))
  | 0x0204 => some (.etchQuery t c (opField ws 5 15 0 16))
  | 0x0300 => some (.plateLoad t c (w 5) (opPair ws 6) (w 8))
  | 0x0301 => some (.plateUnload t c (opPair ws 5))
  | 0x0302 => some (.plateStart t c (opPair ws 5))
  | 0x0303 => some (.plateStatus t c)
  | 0x0310 => some (.sqMigrate t c (opField ws 5 17 0 18) (opField ws 6 3 0 4))
  | 0x0320 => some (.selftestStatus t c (opField ws 5 1 0 2) (opField ws 5 12 8 5))
  | 0x0400 => some (.structLoad t c (opField ws 5 3 0 4) (w 6) (opPair ws 7) (w 9))
  | 0x0401 => some (.structUnload t c (opField ws 5 3 0 4) (opField ws 6 15 0 16))
  | 0x0402 => some (.structQuery t c (opField ws 5 3 0 4) (opField ws 5 6 4 3))
  | 0x0403 => some (.solve t c (opField ws 5 3 0 4) (opField ws 5 6 4 3) (w 6) (opPair ws 7) (w 9) (opPair ws 10)
      (opField ws 12 23 0 24))
  | 0x0410 => some (.scenarioBatch t c (w 5) (opPair ws 6))
  | 0x0411 => some (.solveDiagRead t c (opField ws 5 3 0 4) (opField ws 5 6 4 3) (w 6) (opPair ws 7) (opField ws 9 23 0 24))
  | 0x0412 => some (.engineStatus t c (opField ws 5 3 0 4))
  | 0x0500 => some (.servoNetConfig t c (w 5) (w 6) (w 7) (opField ws 8 3 0 4))
  | 0x0501 => some (.servoChannelConfig t c (opField ws 5 6 0 7) (opField ws 5 9 8 2) (w 6) (opPair ws 7) (w 9) (opPair ws 10))
  | 0x0502 => some (.servoEnable t c (opField ws 5 6 0 7))
  | 0x0503 => some (.servoDisable t c (opField ws 5 6 0 7))
  | 0x0504 => some (.servoClearFault t c (opField ws 5 6 0 7))
  | 0x0505 => some (.servoStatus t c (opField ws 5 6 0 7))
  | 0x0506 => some (.servoGainsBasic t c (opField ws 5 6 0 7) (w 6) (opPair ws 7) ⟨w 9, w 10, w 11⟩)
  | 0x0600 => some (.routeLoad t c (w 5) (opPair ws 6) (w 8))
  | 0x0601 => some (.routeUnload t c (opField ws 5 11 0 12))
  | 0x0602 => some (.routeRun t c (opField ws 5 11 0 12) (w 6) (opPair ws 7))
  | 0x0603 => some (.sectorMap t c (opField ws 5 3 0 4))
  | 0x0610 => some (.fieldOp t c (w 5) (opPair ws 6))
  | 0x0700 => some (.serveConfig t c (w 5) (opPair ws 6))
  | 0x0701 => some (.serveStop t c)
  | 0x0702 => some (.serveStatus t c)
  | 0x0710 => some (.seqJoin t c (w 5) (opPair ws 6) (opField ws 8 17 0 18) (opField ws 9 15 0 16) (wbit (w 9) 16) (w 10)
      (opPair ws 11))
  | 0x0711 => some (.seqDraft t c (w 5) (opField ws 6 2 0 3) (opField ws 6 31 14 18) (w 7)
      [w 8, w 9, w 10, w 11, w 12, w 13, w 14])
  | 0x0712 => some (.seqLeave t c (w 5))
  | 0x0713 => some (.seqStatus t c (w 5) (w 6) (opPair ws 7))
  | 0x0714 => some (.seqRecompute t c (w 5))
  | 0x0720 => some (.actionBind t c (w 5) (opField ws 6 3 0 4) (opField ws 6 6 4 3) (opField ws 6 11 8 4)
      (opField ws 6 14 12 3) (opField ws 6 19 16 4) (opField ws 7 6 0 7) (opField ws 7 13 8 6) (opField ws 8 11 0 12))
  | 0x0800 => some (.memAlloc t c (w 5) (opPair ws 6) (opField ws 8 3 0 4) (opField ws 8 15 8 8))
  | 0x0801 => some (.memFree t c (opPair ws 5))
  | 0x0802 => some (.windowOpen t c (opPair ws 5) (opPair ws 7) (wbit (w 9) 0) (wbit (w 9) 1) (wbit (w 9) 2))
  | 0x0803 => some (.windowClose t c (w 5))
  | 0x0810 => some (.dmaCopy t c (w 5) (w 6) (opPair ws 7) (opPair ws 9) (opPair ws 11) (opField ws 13 1 0 2))
  | 0x0811 => some (.dmaFill t c (w 5) (opPair ws 6) (opPair ws 8) (w 10))
  | 0x0812 => some (.dmaCrc t c (w 5) (opPair ws 6) (opPair ws 8))
  | 0x0900 => some (.powerProfile t c (opField ws 5 3 0 4))
  | 0x0901 => some (.powerUnit t c (opField ws 5 19 0 20) (opField ws 6 1 0 2))
  | 0x0902 => some (.powerStatus t c (w 5) (opPair ws 6))
  | 0x0903 => some (.thermalSet t c (opField ws 5 15 0 16))
  | 0x0A00 => some (.safetyStatus t c (w 5) (opPair ws 6))
  | 0x0A01 => some (.tracerCheck t c (w 5) (opPair ws 6))
  | 0x0A02 => some (.safeStateRequest t c (wbit (w 5) 0))
  | 0x0A03 => some (.safetyReset t c)
  | 0x0B00 => some (.huskStatus t c)
  | 0x0B01 => some (.huskRead t c (w 5) (opField ws 6 16 0 17) (w 7) (opPair ws 8))
  | 0x0B02 => some (.protRead t c (w 5) (opPair ws 6))
  | 0x0C00 => some (.fwLoad t c (w 5) (opPair ws 6) (w 8))
  | 0x0C01 => some (.fwSwap t c)
  | 0x0C02 => some (.shellFwLoad t c (w 5) (opPair ws 6) (w 8))
  | 0x0C03 => some (.shellFwSwap t c)
  | 0x0C10 => some (.sectorRemap t c (opField ws 5 4 0 5))
  | 0x0C11 => some (.engineSwap t c (opField ws 5 3 0 4))
  | 0x0C12 => some (.servoPairDrain t c (opField ws 5 1 0 2) (wbit (w 5) 8))
  | 0x0C13 => some (.lpddrRetrain t c (w 5))
  | 0x0C14 => some (.spareStatus t c)
  | 0x0D00 => some (.imprintConfig t c (opField ws 5 17 0 18) (w 6) (opPair ws 7) (opField ws 9 15 0 16) (wbit (w 9) 16))
  | 0x0D01 => some (.weightDigest t c (opPair ws 5))
  | 0x0D02 => some (.imprintCompare t c (w 5) (opPair ws 6) (opPair ws 8))
  | 0x0D03 => some (.solveStateRead t c (opField ws 5 3 0 4) (opField ws 5 6 4 3) (w 6) (opPair ws 7))
  | 0x0D04 => some (.solveStateWrite t c (opField ws 5 3 0 4) (opField ws 5 6 4 3) (w 6) (opPair ws 7))
  | 0x0E00 => some (.peerStatus t c)
  | 0x0E01 => some (.peerWindowOpen t c (w 5) (opPair ws 6) (opPair ws 8) (opField ws 10 3 0 4) (wbit (w 10) 4) (wbit (w 10) 5))
  | 0x0E02 => some (.peerWindowClose t c (opField ws 5 15 0 16))
  | 0x0E03 => some (.peerWrite t c (opField ws 5 1 0 2) (opField ws 6 15 0 16) (opPair ws 7) (w 9) (opPair ws 10) (opPair ws 12))
  | 0x0E04 => some (.peerRead t c (opField ws 5 1 0 2) (opField ws 6 15 0 16) (opPair ws 7) (w 9) (opPair ws 10) (opPair ws 12))
  | 0x0E10 => some (.ifStatus t c (w 5) (w 6) (opPair ws 7))
  | 0x0E20 => some (.ingressConfig t c (opField ws 5 5 0 6) (w 6) (opPair ws 7))
  | 0x0E21 => some (.encConfig t c (opField ws 5 3 0 4) (opField ws 6 1 0 2) (opField ws 6 3 2 2) (opField ws 6 9 4 6)
      (opField ws 6 11 10 2))
  | 0x0E22 => some (.mnetConfig t c (w 5) (opPair ws 6) (w 8) [])
  | 0x0E30 => some (.canConfig t c (opField ws 5 1 0 2) (w 6) (opPair ws 7))
  | 0x0E31 => some (.canSend t c (opField ws 5 1 0 2) (opField ws 6 28 0 29) (wbit (w 6) 29) (wbit (w 6) 30) (wbit (w 6) 31)
      (opField ws 7 6 0 7) (opPair ws 8) ⟨w 10, w 11, w 12⟩)
  | _ => none

/-! Undefined values of an operand (R11), one predicate for each command that has some. -/

def okIdentify (selector : Word) : Bool := decide (selector.toNat ≤ 3)
def okQueueShape (ring : DWord) (depth : BitVec 17) : Bool :=
  decide (2 ≤ depth.toNat) && decide (depth.toNat ≤ 65536) && decide (ring.toNat % 4096 = 0)
def okCreateCq (ring : DWord) (depth : BitVec 17) (coalCount : BitVec 8) : Bool :=
  okQueueShape ring depth && coalCount != 0
def okCreateSq (ring : DWord) (depth : BitVec 17) (part : BitVec 8) (cls : BitVec 2) : Bool :=
  okQueueShape ring depth && (decide (part.toNat < 16) || part == 0xFF) && cls != 3
def okMemAlloc (bytes : DWord) (cls : BitVec 4) (alignLog2 : BitVec 8) : Bool :=
  bytes != 0 && decide (cls.toNat ≤ 3) && decide (12 ≤ alignLog2.toNat) && decide (alignLog2.toNat ≤ 30)
def okQos (qos : BitVec 2) : Bool := qos != 3
def okEngine (engine : BitVec 4) : Bool := decide (engine.toNat ≤ 8)
def okSelftest (cls : BitVec 2) (unit : BitVec 5) : Bool :=
  match cls.toNat with
  | 0 => decide (unit.toNat ≤ 17)
  | 1 => decide (unit.toNat ≤ 8)
  | 2 => decide (unit.toNat ≤ 15)
  | _ => false
def okChannel (channel : BitVec 7) : Bool := decide (channel.toNat < 96)
def okHandle (handle : BitVec 12) : Bool := handle != 0
def okSeqJoin (tokens : BitVec 18) : Bool := tokens != 0
/-- chunk_count 1–64, chunk_extra 0–32, engine 0–8 or 0xF (R495). -/
def okActionBind (engine stopEngine : BitVec 4) (chunkCount : BitVec 7) (chunkExtra : BitVec 6) : Bool :=
  (okEngine engine || engine == 0xF) && okEngine stopEngine && decide (1 ≤ chunkCount.toNat) &&
  decide (chunkCount.toNat ≤ 64) && decide (chunkExtra.toNat ≤ 32)
def okProfile (state : BitVec 4) : Bool := decide (1 ≤ state.toNat) && decide (state.toNat ≤ 5)
/-- Unit codes of R655; a state of 3 is DRAINING, which cannot be commanded, and a RETAIN of one bank is undefined
(R656). -/
def okUnitCode (unit : Nat) : Bool :=
  let n := unit % 65536
  match unit / 65536 with
  | 0 => n == 0
  | 1 => decide (n ≤ 17)
  | 2 => decide (n ≤ 8)
  | 3 => decide (n ≤ 15)
  | 4 => decide (n ≤ 7) || n == 0xFFFF
  | _ => false
def okUnitState (unit state : Nat) : Bool :=
  okUnitCode unit && decide (state ≤ 2) && !(unit / 65536 == 4 && unit % 65536 != 0xFFFF && state == 1)
def okPowerUnit (unit : BitVec 20) (state : BitVec 2) : Bool := okUnitState unit.toNat state.toNat
/-- 0 to 120 °C in 1/16 °C (R675). -/
def okThreshold (threshold : BitVec 16) : Bool := decide (threshold.toNat ≤ 120 * 16)
def okSafeState (confirm : Bool) : Bool := confirm
def okHuskRead (count : BitVec 17) : Bool := decide (1 ≤ count.toNat) && decide (count.toNat ≤ 65536)
def okRemap (sector : BitVec 5) : Bool := decide (sector.toNat ≤ 17)
/-- entries is 1–65,535 when the ring is enabled; a command that disables it may leave it 0 (DESIGN CHOICE, log entry 139). -/
def okImprint (entries : BitVec 16) (enable : Bool) : Bool := entries != 0 || !enable
def okIfStatus (selector : Word) : Bool := decide (selector.toNat ≤ 4)
/-- Mode 3 is undefined; a serial input has 8 to 40 position bits (R705, R721). -/
def okEncConfig (mode : BitVec 2) (posBits : BitVec 6) : Bool :=
  mode != 3 && (mode != 2 || (decide (8 ≤ posBits.toNat) && decide (posBits.toNat ≤ 40)))
/-- At most 64 data bytes (R697), 8 in a classical frame; a standard identifier has 11 bits. -/
def okCanSend (ident : BitVec 29) (extended fd brs : Bool) (length : BitVec 7) : Bool :=
  decide (length.toNat ≤ if fd then 64 else 8) && (extended || decide (ident.toNat < 2048)) && (fd || !brs)

/-- Whether every operand of a command holds a value that the manual defines (R11). An event has no undefined value. -/
def operandsOk (i : Instr) : Bool :=
  match i with
  | .identify _ _ selector => okIdentify selector
  | .createCq _ _ _ ring depth _ _ coalCount _ => okCreateCq ring depth coalCount
  | .createSq _ _ _ ring depth _ _ _ _ part cls => okCreateSq ring depth part cls
  | .memAlloc _ _ _ bytes cls alignLog2 => okMemAlloc bytes cls alignLog2
  | .dmaCopy _ _ _ _ _ _ _ qos => okQos qos
  | .selftestStatus _ _ cls unit => okSelftest cls unit
  | .structLoad _ _ engine _ _ _ => okEngine engine
  | .structUnload _ _ engine _ => okEngine engine
  | .structQuery _ _ engine _ => okEngine engine
  | .solve _ _ engine _ _ _ _ _ _ => okEngine engine
  | .solveDiagRead _ _ engine _ _ _ _ => okEngine engine
  | .engineStatus _ _ engine => okEngine engine
  | .servoChannelConfig _ _ channel _ _ _ _ _ => okChannel channel
  | .servoEnable _ _ channel => okChannel channel
  | .servoDisable _ _ channel => okChannel channel
  | .servoClearFault _ _ channel => okChannel channel
  | .servoStatus _ _ channel => okChannel channel
  | .servoGainsBasic _ _ channel _ _ _ => okChannel channel
  | .routeUnload _ _ handle => okHandle handle
  | .routeRun _ _ handle _ _ => okHandle handle
  | .seqJoin _ _ _ _ tokens _ _ _ _ => okSeqJoin tokens
  | .actionBind _ _ _ engine _ stopEngine _ _ chunkCount chunkExtra _ => okActionBind engine stopEngine chunkCount chunkExtra
  | .powerProfile _ _ state => okProfile state
  | .powerUnit _ _ unit state => okPowerUnit unit state
  | .thermalSet _ _ threshold => okThreshold threshold
  | .safeStateRequest _ _ confirm => okSafeState confirm
  | .huskRead _ _ _ count _ _ => okHuskRead count
  | .sectorRemap _ _ sector => okRemap sector
  | .engineSwap _ _ engine => okEngine engine
  | .imprintConfig _ _ _ _ _ entries enable => okImprint entries enable
  | .solveStateRead _ _ engine _ _ _ => okEngine engine
  | .solveStateWrite _ _ engine _ _ _ => okEngine engine
  | .ifStatus _ _ selector _ _ => okIfStatus selector
  | .encConfig _ _ _ mode _ posBits _ => okEncConfig mode posBits
  | .canSend _ _ _ ident extended fd brs length _ _ => okCanSend ident extended fd brs length
  | _ => true

end Sys2Proof.Machine
end

