-- ==== Sys2Proof/Machine/Flags.lean ====
section
/-!
DEFINITION. Machine/Flags.lean: the sticky arithmetic flag word (R194) and the values that carry one.
-/
namespace Sys2Proof.Machine

/-- SAT: saturation in a conversion or in fixed-point arithmetic (R194). -/
def flagSAT : Word := 0x1
/-- OF: floating-point overflow to an infinity (R194). -/
def flagOF : Word := 0x2
/-- DZ: division by zero (R194). -/
def flagDZ : Word := 0x4
/-- OV: INT_MIN divided by −1 (R194). -/
def flagOV : Word := 0x8
/-- NV: an invalid operation (R194). -/
def flagNV : Word := 0x10
/-- FZ: a subnormal accumulator value was flushed (R194). -/
def flagFZ : Word := 0x20

/-- A result with the flags it sets. -/
structure Flagged (α : Type) where
  val : α
  flags : Word
  deriving DecidableEq, Repr

/-- A result that sets no flag. -/
def plain {α : Type} (a : α) : Flagged α := ⟨a, 0⟩

/-- Flags are sticky: those of both operations are kept (R194). -/
def Flagged.andThen {α β : Type} (x : Flagged α) (f : α → Flagged β) : Flagged β :=
  let y := f x.val
  ⟨y.val, x.flags ||| y.flags⟩

/-- Apply a flagged operation along a list, keeping the flags of every step. -/
def foldFlagged {α β : Type} (f : β → α → Flagged β) (b : β) : List α → Flagged β
  | [] => plain b
  | x :: xs =>
    let y := f b x
    let z := foldFlagged f y.val xs
    ⟨z.val, y.flags ||| z.flags⟩

/-- Map a flagged operation over a list, keeping the flags of every element. -/
def mapFlagged {α β : Type} (f : α → Flagged β) : List α → Flagged (List β)
  | [] => plain []
  | x :: xs =>
    let y := f x
    let z := mapFlagged f xs
    ⟨y.val :: z.val, y.flags ||| z.flags⟩

/-- Map a flagged operation over two lists of one length. -/
def zipFlagged {α β γ : Type} (f : α → β → Flagged γ) : List α → List β → Flagged (List γ)
  | x :: xs, y :: ys =>
    let a := f x y
    let z := zipFlagged f xs ys
    ⟨a.val :: z.val, a.flags ||| z.flags⟩
  | _, _ => plain []

/-- SAT in the flag word sets bit [1] of warn_mask (R196). -/
def flagsWarn (f : Word) : BitVec 16 := if wbit f 0 then 2 else 0

end Sys2Proof.Machine
end

