-- ==== Sys2Proof/Machine/Float.lean ====
section
/-!
DEFINITION. Machine/Float.lean: the floating-point formats, rounding, operations and conversions of the Field
(R171–R198, R747). Every value is held exactly as sign, integer mantissa and power of two, computed exactly, and
rounded once at the end.
-/
namespace Sys2Proof.Machine

/-- A floating-point value, exact: `fin neg m e` is ±m·2^e (R171). -/
inductive Fp where
  | nan
  | inf (neg : Bool)
  | fin (neg : Bool) (m : Nat) (e : Int)
  deriving DecidableEq, Repr

/-- A binary floating-point format (R171): exponent bits, mantissa bits, bias, the largest finite encoding without
its sign, and the encoding of infinity where it has one. -/
structure Fmt where
  eb : Nat
  mb : Nat
  bias : Int
  maxFin : Nat
  infEnc : Option Nat
  nanEnc : Option Nat
  deriving DecidableEq, Repr

def fmtFP32 : Fmt := ⟨8, 23, 127, 0x7F7FFFFF, some 0x7F800000, some 0x7FC00000⟩
def fmtBF16 : Fmt := ⟨8, 7, 127, 0x7F7F, some 0x7F80, some 0x7FC0⟩
def fmtFP16 : Fmt := ⟨5, 10, 15, 0x7BFF, some 0x7C00, some 0x7E00⟩
def fmtE4M3 : Fmt := ⟨4, 3, 7, 0x7E, none, some 0x7F⟩
def fmtE5M2 : Fmt := ⟨5, 2, 15, 0x7B, some 0x7C, some 0x7E⟩
def fmtE2M1 : Fmt := ⟨2, 1, 1, 0x7, none, none⟩

/-- The width of a format in bits. -/
def Fmt.width (f : Fmt) : Nat := 1 + f.eb + f.mb

/-- The exponent of the least unit of a format's subnormals: 1 − bias − mantissa bits (R171). -/
def Fmt.emin (f : Fmt) : Int := 1 - f.bias - f.mb

/-- Read an encoding (R171, R189: every NaN encoding reads as NaN). -/
def decodeFp (f : Fmt) (w : Nat) : Fp :=
  let mag := w % 2 ^ (f.eb + f.mb)
  let neg := w / 2 ^ (f.eb + f.mb) % 2 = 1
  if mag ≤ f.maxFin then
    let x := mag / 2 ^ f.mb
    let m := mag % 2 ^ f.mb
    if x = 0 then .fin neg m f.emin else .fin neg (2 ^ f.mb + m) (f.emin + x - 1)
  else if f.infEnc = some mag then .inf neg
  else .nan

/-- `m · 2^e` rounded to the nearest encoding without sign, ties to even, as if the format had no largest value
(R181): the encoding counts upward one unit in the last place at a time. -/
def roundMag (f : Fmt) (m : Nat) (e : Int) : Nat :=
  if m = 0 then 0
  else
    let q : Int := max f.emin (e + (Nat.log2 m + 1 : Nat) - (f.mb + 1 : Nat))
    let r : Nat :=
      if q ≤ e then m * 2 ^ (e - q).toNat
      else (divNearestEven (m : Int) (2 ^ (q - e).toNat)).toNat
    (q - f.emin).toNat * 2 ^ f.mb + r

/-- The encoding with its sign. -/
def withSign (f : Fmt) (neg : Bool) (mag : Nat) : Nat := if neg then 2 ^ (f.eb + f.mb) + mag else mag

/-- The canonical NaN of FP32 (R190). -/
def nan32 : Word := 0x7FC00000

def inf32 (neg : Bool) : Word := if neg then 0xFF800000 else 0x7F800000

def zero32 (neg : Bool) : Word := if neg then 0x80000000 else 0

/-- Read an FP32 word. -/
def rd32 (w : Word) : Fp := decodeFp fmtFP32 w.toNat

/-- An exact finite value rounded to FP32; overflow gives an infinity and sets OF (R181, R193). -/
def round32 (neg : Bool) (m : Nat) (e : Int) : Flagged Word :=
  let mag := roundMag fmtFP32 m e
  if mag ≤ fmtFP32.maxFin then plain (BitVec.ofNat 32 (withSign fmtFP32 neg mag))
  else ⟨inf32 neg, flagOF⟩

/-- An invalid operation: the canonical NaN with NV (R191). -/
def invalid32 : Flagged Word := ⟨nan32, flagNV⟩

/-- The exact sum of two finite values; an exact zero takes the sign + unless both are negative (R197). -/
def addExact (n1 : Bool) (m1 : Nat) (e1 : Int) (n2 : Bool) (m2 : Nat) (e2 : Int) : Bool × Nat × Int :=
  let e := min e1 e2
  let a : Int := (m1 * 2 ^ (e1 - e).toNat : Nat)
  let b : Int := (m2 * 2 ^ (e2 - e).toNat : Nat)
  let s := (if n1 then -a else a) + (if n2 then -b else b)
  if s = 0 then (n1 && n2, 0, e) else (decide (s < 0), s.natAbs, e)

/-- The sum of two exact values, not yet rounded; infinities and NaN by R191. -/
def addFp (x y : Fp) : Flagged Fp :=
  match x, y with
  | .nan, _ => plain .nan
  | _, .nan => plain .nan
  | .inf a, .inf b => if a = b then plain (.inf a) else ⟨.nan, flagNV⟩
  | .inf a, _ => plain (.inf a)
  | _, .inf b => plain (.inf b)
  | .fin a m e, .fin b n k =>
    let r := addExact a m e b n k
    plain (.fin r.1 r.2.1 r.2.2)

/-- The product of two exact values, not yet rounded (R175, R191). -/
def mulFp (x y : Fp) : Flagged Fp :=
  match x, y with
  | .nan, _ => plain .nan
  | _, .nan => plain .nan
  | .inf a, .inf b => plain (.inf (a != b))
  | .inf a, .fin b m _ => if m = 0 then ⟨.nan, flagNV⟩ else plain (.inf (a != b))
  | .fin a m _, .inf b => if m = 0 then ⟨.nan, flagNV⟩ else plain (.inf (a != b))
  | .fin a m e, .fin b n k => plain (.fin (a != b) (m * n) (e + k))

/-- Round an exact value to FP32 (R181, R190, R193). -/
def toFp32 (x : Fp) : Flagged Word :=
  match x with
  | .nan => plain nan32
  | .inf n => plain (inf32 n)
  | .fin n m e => round32 n m e

/-- MAP add (R191, R193, R197). -/
def fadd (a b : Word) : Flagged Word := (addFp (rd32 a) (rd32 b)).andThen toFp32

/-- The negation of an FP32 value; a NaN stays a NaN. -/
def negFp : Fp → Fp
  | .nan => .nan
  | .inf n => .inf (!n)
  | .fin n m e => .fin (!n) m e

def fneg (a : Word) : Word := (toFp32 (negFp (rd32 a))).val

def fsub (a b : Word) : Flagged Word := (addFp (rd32 a) (negFp (rd32 b))).andThen toFp32

def fmul (a b : Word) : Flagged Word := (mulFp (rd32 a) (rd32 b)).andThen toFp32

/-- Fused multiply-add: one rounding (R197); a NaN input sets no flag (R191). -/
def ffma (a b c : Word) : Flagged Word :=
  if rd32 c = .nan then plain nan32 else ((mulFp (rd32 a) (rd32 b)).andThen (fun p => addFp p (rd32 c))).andThen toFp32

/-- An exact quotient with its remainder kept as a last sticky bit, `extra` bits beyond the dividend's own. -/
def quotSticky (m n : Nat) (extra : Nat) : Nat :=
  let q := m * 2 ^ extra / n
  2 * q + (if m * 2 ^ extra % n = 0 then 0 else 1)

/-- MAP divide (R191, R193). -/
def fdiv (a b : Word) : Flagged Word :=
  match rd32 a, rd32 b with
  | .nan, _ => plain nan32
  | _, .nan => plain nan32
  | .inf _, .inf _ => invalid32
  | .inf x, .fin y _ _ => plain (inf32 (x != y))
  | .fin x _ _, .inf y => plain (zero32 (x != y))
  | .fin x m e, .fin y n k =>
    if n = 0 then
      if m = 0 then invalid32 else ⟨inf32 (x != y), flagDZ⟩
    else if m = 0 then plain (zero32 (x != y))
    else round32 (x != y) (quotSticky m n 80) (e - k - 81)

/-- Whether the first of two exact values that are no NaN lies below the second, with −0 below +0 (R192). -/
def ltFp (x y : Fp) : Bool :=
  match x, y with
  | .nan, _ => false
  | _, .nan => false
  | .inf a, .inf b => a && !b
  | .inf a, .fin _ _ _ => a
  | .fin _ _ _, .inf b => !b
  | .fin a m e, .fin b n k =>
    let q := min e k
    let u : Int := (m * 2 ^ (e - q).toNat : Nat)
    let v : Int := (n * 2 ^ (k - q).toNat : Nat)
    let u' := if a then -u else u
    let v' := if b then -v else v
    if u' = v' then a && !b && u == 0 else decide (u' < v')

/-- Numeric comparison: −0 equals +0; false when either operand is NaN. -/
def flt (a b : Word) : Bool :=
  match rd32 a, rd32 b with
  | .fin _ 0 _, .fin _ 0 _ => false
  | x, y => ltFp x y

/-- Numeric equality: −0 equals +0; false when either operand is NaN. -/
def feq (a b : Word) : Bool :=
  match rd32 a, rd32 b with
  | .nan, _ => false
  | _, .nan => false
  | .fin _ 0 _, .fin _ 0 _ => true
  | _, _ => a == b

/-- Less than or equal; false when either operand is NaN. -/
def fle (a b : Word) : Bool := flt a b || feq a b

def isNan32 (a : Word) : Bool := rd32 a == .nan

/-- Whether an FP32 word is finite. -/
def isFinite32 (a : Word) : Bool :=
  match rd32 a with
  | .fin _ _ _ => true
  | _ => false

/-- MAP max (R192). -/
def fmax (a b : Word) : Word :=
  if isNan32 a || isNan32 b then nan32 else if ltFp (rd32 a) (rd32 b) then b else a

/-- MAP min (R192). -/
def fmin (a b : Word) : Word :=
  if isNan32 a || isNan32 b then nan32 else if ltFp (rd32 b) (rd32 a) then b else a

/-- The sort key of an FP32 word: −infinity lowest, then the finite values with −0 below +0, +infinity, and every
NaN last (R177). -/
def sortKeyFP32 (a : Word) : Nat :=
  if isNan32 a then 2 ^ 32 else if wbit a 31 then (~~~a).toNat else a.toNat + 2 ^ 31

/-! The correctly rounded functions (R198). -/

/-- The integer square root, bit by bit from bit `i`. -/
def isqrtFrom : Nat → Nat → Nat → Nat
  | 0, n, acc => if (acc + 1) * (acc + 1) ≤ n then acc + 1 else acc
  | i + 1, n, acc =>
    let c := acc + 2 ^ (i + 1)
    if c * c ≤ n then isqrtFrom i n c else isqrtFrom i n acc

/-- ⌊√n⌋. -/
def isqrt (n : Nat) : Nat := isqrtFrom (Nat.log2 n / 2 + 1) n 0

/-- The fractional bits that the transcendental functions are computed with. -/
def fxBits : Nat := 200

/-- The sum z + z³/3 + z⁵/5 + … in fixed point: `k` terms, `p` the current odd power, `z2` the square. -/
def atanhSeries : Nat → Int → Int → Nat → Int
  | 0, _, _, _ => 0
  | k + 1, p, z2, d => p / (d : Int) + atanhSeries k (p * z2 / (2 ^ fxBits : Nat)) z2 (d + 2)

/-- ln 2 in fixed point: 2·atanh(1/3). -/
def fxLn2 : Int :=
  let z : Int := ((2 ^ fxBits : Nat) : Int) / 3
  2 * atanhSeries 70 z (z * z / (2 ^ fxBits : Nat)) 1

/-- 1 + r + r²/2! + … in fixed point. -/
def expSeries : Nat → Int → Int → Nat → Int
  | 0, _, _, _ => 0
  | k + 1, term, r, d => term + expSeries k (term * r / (2 ^ fxBits : Nat) / (d : Int)) r (d + 1)

/-- A fixed-point value of an exact finite value: ±m·2^e times 2^fxBits, rounded down. -/
def fxOf (neg : Bool) (m : Nat) (e : Int) : Int :=
  let k : Int := e + fxBits
  let v : Int := if 0 ≤ k then ((m * 2 ^ k.toNat : Nat) : Int) else ((m / 2 ^ (-k).toNat : Nat) : Int)
  if neg then -v else v

/-- The exponential of a finite FP32 value, correctly rounded (R198, R747). -/
def fexp (a : Word) : Flagged Word :=
  match rd32 a with
  | .nan => plain nan32
  | .inf n => plain (if n then 0 else inf32 false)
  | .fin n m e =>
    if m = 0 then plain 0x3F800000
    else if e + (Nat.log2 m : Nat) > 7 then (if n then plain 0 else ⟨inf32 false, flagOF⟩)
    else
      let x := fxOf n m e
      let k := x / fxLn2
      let r := x - k * fxLn2
      let y := expSeries 60 (2 ^ fxBits : Nat) r 1
      round32 false (2 * y.toNat + 1) (k - fxBits - 1)

/-- The natural logarithm, correctly rounded (R198, R747). -/
def flog (a : Word) : Flagged Word :=
  match rd32 a with
  | .nan => plain nan32
  | .inf n => if n then invalid32 else plain (inf32 false)
  | .fin n m e =>
    if m = 0 then ⟨inf32 true, flagDZ⟩
    else if n then invalid32
    else
      let l := Nat.log2 m
      let big := 4 * m ≥ 6 * 2 ^ l
      let k : Int := e + (l : Nat) + (if big then 1 else 0)
      let one : Int := (2 ^ fxBits : Nat)
      let y := fxOf false m (e - k)
      let z := (y - one) * one / (y + one)
      let v := k * fxLn2 + 2 * atanhSeries 60 z (z * z / one) 1
      if v = 0 then plain 0 else round32 (decide (v < 0)) v.natAbs (-(fxBits : Int))

/-- The reciprocal, correctly rounded (R198, R747). -/
def frcp (a : Word) : Flagged Word :=
  match rd32 a with
  | .nan => plain nan32
  | .inf n => plain (zero32 n)
  | .fin n m e =>
    if m = 0 then ⟨inf32 n, flagDZ⟩ else round32 n (quotSticky 1 m 104) (-e - 105)

/-- The square root, correctly rounded (R198, R747). -/
def fsqrt (a : Word) : Flagged Word :=
  match rd32 a with
  | .nan => plain nan32
  | .inf n => if n then invalid32 else plain (inf32 false)
  | .fin n m e =>
    if m = 0 then plain (zero32 n)
    else if n then invalid32
    else
      let odd := e % 2 = 1
      let m' := if odd then 2 * m else m
      let e' := if odd then e - 1 else e
      let q := m' * 2 ^ 80
      let s := isqrt q
      round32 false (2 * s + (if s * s = q then 0 else 1)) (e' / 2 - 41)

/-- The reciprocal square root, correctly rounded (R198, R747). -/
def frsqrt (a : Word) : Flagged Word :=
  match rd32 a with
  | .nan => plain nan32
  | .inf n => if n then invalid32 else plain 0
  | .fin n m e =>
    if m = 0 then ⟨inf32 n, flagDZ⟩
    else if n then invalid32
    else
      let odd := e % 2 = 1
      let m' := if odd then 2 * m else m
      let e' := if odd then e - 1 else e
      let s := isqrt (2 ^ 160 / m')
      round32 false (2 * s + (if s * s * m' = 2 ^ 160 then 0 else 1)) (-(e' / 2) - 81)

/-! Conversions (R184–R189). -/

/-- FP32 to E4M3 (R184). -/
def cvtE4M3 (a : Word) : Flagged Nat :=
  match rd32 a with
  | .nan => plain 0x7F
  | .inf n => ⟨withSign fmtE4M3 n 0x7E, flagSAT⟩
  | .fin n m e =>
    let r := roundMag fmtE4M3 m e
    if r ≤ 0x7E then plain (withSign fmtE4M3 n r) else ⟨withSign fmtE4M3 n 0x7E, flagSAT⟩

/-- FP32 to E5M2 (R185). -/
def cvtE5M2 (a : Word) : Flagged Nat :=
  match rd32 a with
  | .nan => plain 0x7E
  | .inf n => plain (withSign fmtE5M2 n 0x7C)
  | .fin n m e =>
    let r := roundMag fmtE5M2 m e
    if r ≤ 0x7B then plain (withSign fmtE5M2 n r) else ⟨withSign fmtE5M2 n 0x7B, flagSAT⟩

/-- FP32 to BF16 or FP16 (R186). -/
def cvt16 (f : Fmt) (a : Word) : Flagged Nat :=
  match rd32 a with
  | .nan => plain (f.nanEnc.getD 0)
  | .inf n => plain (withSign f n (f.infEnc.getD 0))
  | .fin n m e =>
    let r := roundMag f m e
    if r ≤ f.maxFin then plain (withSign f n r) else ⟨withSign f n (f.infEnc.getD 0), flagOF⟩

/-- An exact finite value rounded to an integer, ties to even. -/
def roundInt (neg : Bool) (m : Nat) (e : Int) : Int :=
  let v : Int := if 0 ≤ e then ((m * 2 ^ e.toNat : Nat) : Int) else divNearestEven (m : Int) (2 ^ (-e).toNat)
  if neg then -v else v

/-- FP32 to a signed integer of `n` bits (R187); the result is the two's-complement field. -/
def cvtInt (n : Nat) (a : Word) : Flagged Nat :=
  match rd32 a with
  | .nan => ⟨0, flagNV⟩
  | .inf s => ⟨if s then 2 ^ (n - 1) else 2 ^ (n - 1) - 1, flagSAT⟩
  | .fin s m e =>
    let v := roundInt s m e
    let c := satSigned n v
    ⟨wrapN n c, if c = v then 0 else flagSAT⟩

/-- An up-conversion to FP32, exact (R189). -/
def upCvt (f : Fmt) (w : Nat) : Word := (toFp32 (decodeFp f w)).val

/-- A signed integer to FP32, rounded to nearest-even (R181). -/
def intToFp32 (v : Int) : Word := (round32 (decide (v < 0)) v.natAbs 0).val

/-- A pure scale of `2^(s − 127)` applied to an E2M1 element; scale 0xFF reads as NaN (R173, R189). -/
def mxElem (scale elem : Nat) : Fp :=
  if scale = 0xFF then .nan
  else match decodeFp fmtE2M1 elem with
    | .fin n m e => .fin n m (e + (scale : Int) - 127)
    | x => x

/-- The block scale exponent of a list of FP32 values, or none when a value is not finite (R188). -/
def mxExponent : List Word → Option (Option Int)
  | [] => some none
  | w :: ws =>
    match rd32 w, mxExponent ws with
    | .fin _ m e, some r =>
      if m = 0 then some r
      else
        let x := e + (Nat.log2 m : Nat)
        some (some (match r with | none => x | some y => max x y))
    | _, _ => none

/-- FP32 to an MXFP4 block: the scale byte and the element codes (R188). -/
def cvtMX (ws : List Word) : Flagged (Nat × List Nat) :=
  match mxExponent ws with
  | none => ⟨(0xFF, ws.map (fun _ => 0)), flagNV⟩
  | some none => plain (0, ws.map (fun w => if wbit w 31 then 8 else 0))
  | some (some x) =>
    let e := clampI (-127) 127 (x - 2)
    plain ((e + 127).toNat, ws.map (fun w =>
      match rd32 w with
      | .fin n m k => withSign fmtE2M1 n (min 7 (roundMag fmtE2M1 m (k - e)))
      | _ => 0))

/-- Stochastic rounding of a finite FP32 value to BF16 (16 discarded bits) or FP16 (13 discarded bits): the random
integer `r` is added to the discarded bits of the significand, which are then dropped (R183). It is the low bits of the generator's
word, which R183 leaves open (DESIGN CHOICE, log entry 142). -/
def cvtStochastic (f : Fmt) (bits : Nat) (a : Word) (r : Nat) : Flagged Nat :=
  match rd32 a with
  | .nan => plain (f.nanEnc.getD 0)
  | .inf n => plain (withSign f n (f.infEnc.getD 0))
  | .fin n m e =>
    if m = 0 then plain (withSign f n 0)
    else
      let s := m + r % 2 ^ bits
      let q : Int := max f.emin (e + (Nat.log2 s + 1 : Nat) - (f.mb + 1 : Nat))
      let k : Nat := if q ≤ e then s * 2 ^ (e - q).toNat else s / 2 ^ (q - e).toNat
      let mag := (q - f.emin).toNat * 2 ^ f.mb + k
      if mag ≤ f.maxFin then plain (withSign f n mag) else ⟨withSign f n (f.infEnc.getD 0), flagOF⟩

/-- One step of the 32-bit xorshift generator (R183). The shifts 13, 17 and 5, which R183 does not give, are those of Marsaglia's
generator (PRESUMED, log entry 140). -/
def xorshift32 (x : Word) : Word :=
  let a := x ^^^ (x <<< 13)
  let b := a ^^^ (a >>> 17)
  b ^^^ (b <<< 5)

/-! The accumulators of MATRIX and ATTEND (R175–R179). -/

/-- Whether an FP32 word is subnormal. -/
def isSubnormal32 (w : Word) : Bool := fld w 30 23 == 0 && fld w 22 0 != 0

/-- A subnormal accumulator value is flushed to zero of its sign in Throughput mode, setting FZ (R179). -/
def flushAcc (proof : Bool) (x : Flagged Word) : Flagged Word :=
  if !proof && isSubnormal32 x.val then ⟨x.val &&& 0x80000000, x.flags ||| flagFZ⟩ else x

/-- One product accumulated into an FP32 accumulator (R175, R176, R179). -/
def accProduct (proof : Bool) (acc : Word) (x y : Fp) : Flagged Word :=
  let p := flushAcc proof ((mulFp x y).andThen toFp32)
  let s := flushAcc proof (fadd acc p.val)
  ⟨s.val, p.flags ||| s.flags⟩

/-- A dot product accumulated in order of the reduction index (R176). -/
def dotAcc (proof : Bool) (acc : Word) (xs ys : List Fp) : Flagged Word :=
  foldFlagged (fun a p => accProduct proof a p.1 p.2) acc (xs.zip ys)

end Sys2Proof.Machine
end

