-- ==== Sys2Proof/Machine/Integer.lean ====
section
/-!
DEFINITION. Machine/Integer.lean: the 32-bit integer arithmetic of MAP and the sequencers (R199–R201, R748) and the
fixed-point arithmetic of the solver engines (R202–R212).
-/
namespace Sys2Proof.Machine

/-- INT32 add keeps the low 32 bits and sets no flag (R748). -/
def iadd (a b : Word) : Word := a + b
def isub (a b : Word) : Word := a - b
def imul (a b : Word) : Word := a * b

/-- Unsigned division: quotient and remainder (R199). -/
def udiv (a b : Word) : Flagged (Word × Word) :=
  if b = 0 then ⟨(0xFFFFFFFF, a), flagDZ⟩
  else plain (BitVec.ofNat 32 (a.toNat / b.toNat), BitVec.ofNat 32 (a.toNat % b.toNat))

/-- Signed division truncates toward zero, and the remainder takes the sign of the dividend (R199). -/
def sdiv (a b : Word) : Flagged (Word × Word) :=
  if b = 0 then ⟨(0xFFFFFFFF, a), flagDZ⟩
  else if a = 0x80000000 ∧ b = 0xFFFFFFFF then ⟨(0x80000000, 0), flagOV⟩
  else plain (BitVec.ofInt 32 (Int.tdiv a.toInt b.toInt), BitVec.ofInt 32 (Int.tmod a.toInt b.toInt))

/-- The bit length of a number: 32 − clz for a 32-bit one (R200). -/
def bitLen (n : Nat) : Nat := if n = 0 then 0 else Nat.log2 n + 1

/-- The cycles of an integer divide whose quotient has magnitude `q` (R200). -/
def divCycles (q : Nat) : Nat := 3 + (bitLen q + 3) / 4

/-- The magnitude of a signed quotient (R200). -/
def sMag (q : Word) : Nat := q.toInt.natAbs

/-! Solver fixed point. A word is held as its raw signed value (R202). -/

/-- The largest and smallest solver word (R172). -/
def wMax : Int := 2 ^ 31 - 1
def wMin : Int := -2 ^ 31

/-- Saturate an exact value to a solver word, with the SAT flag (R204). -/
def satWord (v : Int) : Flagged Int :=
  if v < wMin then ⟨wMin, flagSAT⟩ else if wMax < v then ⟨wMax, flagSAT⟩ else plain v

/-- Add an exact product or sum to the 80-bit accumulator (R203). -/
def accAdd (acc v : Int) : Flagged Int :=
  let s := acc + v
  let hi : Int := 2 ^ 79 - 1
  let lo : Int := -2 ^ 79
  if s < lo then ⟨lo, flagSAT⟩ else if hi < s then ⟨hi, flagSAT⟩ else plain s

/-- An arithmetic shift right by `k` bits rounded to nearest-even; a negative `k` shifts left (R204). -/
def shiftRound (v : Int) (k : Int) : Int :=
  if k ≤ 0 then v * (2 ^ (-k).toNat : Nat) else divNearestEven v (2 ^ k.toNat)

/-- Write an accumulator of fraction width `fs` into a word of format `fd` (R204). -/
def writeOut (acc : Int) (fs fd : Int) : Flagged Int := satWord (shiftRound acc (fs - fd))

/-- The product of two words written in a format (R203, R204). -/
def solverMul (a b : Int) (fa fb fd : Int) : Flagged Int :=
  (accAdd 0 (a * b)).andThen (fun p => writeOut p (fa + fb) fd)

/-- The sum of two words of one format (R203, R204). -/
def solverAdd (a b : Int) : Flagged Int := satWord (a + b)

/-- The divide with quotient fraction width `F` (R205). -/
def solverDiv (a b : Int) (F : Nat) : Flagged Int :=
  if b = 0 then ⟨if a < 0 then wMin else wMax, flagSAT⟩
  else
    let n := a * (2 ^ F : Nat) * (if b < 0 then -1 else 1)
    satWord (divNearestEven n b.natAbs)

/-- The square root of a word in format `fa`, in destination format `fd` (R206). -/
def solverSqrt (a : Int) (fa fd : Int) : Flagged Int :=
  if a < 0 then ⟨0, flagSAT⟩
  else
    let k := 2 * fd - fa
    let n : Nat := if 0 ≤ k then a.natAbs * 2 ^ k.toNat else a.natAbs
    let d : Nat := if 0 ≤ k then 1 else 2 ^ (-k).toNat
    let s := isqrt (n / d)
    let mid := (2 * s + 1) * (2 * s + 1) * d
    satWord (if 4 * n > mid then s + 1 else if 4 * n = mid then s + s % 2 else s : Nat)

/-- The cycles of a solver divide (R209). -/
def solverDivCycles (a b : Int) (F : Nat) : Nat :=
  if b = 0 then 4
  else
    let k := (Nat.log2 a.natAbs - Nat.log2 b.natAbs) + F + 1
    4 + (k + 1) / 2

end Sys2Proof.Machine
end

