-- ==== Sys2Proof/Machine/Image.lean ====
section
/-!
DEFINITION. Machine/Image.lean: structure images (R213–R227): their header, their sections and the checks at load.
-/
namespace Sys2Proof.Machine

def imFormat (b : Bytes) : Nat := fld (wordAt b 0) 31 16
/-- Problem kind (R215): 1 KIN, 2 DYN, 3 MPC, 4 EST, 5 LSQ. -/
def imKind (b : Bytes) : Nat := fld (wordAt b 0) 15 12
def imPath (b : Bytes) : Nat := fld (wordAt b 0) 11 8
def imSections (b : Bytes) : Nat := fld (wordAt b 0) 7 0
def imVersion (b : Bytes) : BitVec 16 := BitVec.ofNat 16 (fld (wordAt b 1) 31 16)
def imLength (b : Bytes) : Nat := (wordAt b 2).toNat
def imBodies (b : Bytes) : Nat := fld (wordAt b 4) 31 24
def imDof (b : Bytes) : Nat := fld (wordAt b 4) 23 16
def imHorizon (b : Bytes) : Nat := fld (wordAt b 5) 31 24
def imWindow (b : Bytes) : Nat := fld (wordAt b 5) 23 16
def imMaxIter (b : Bytes) : Nat := fld (wordAt b 5) 15 8
def imDefIter (b : Bytes) : Nat := fld (wordAt b 5) 7 0
def imNx (b : Bytes) : Nat := fld (wordAt b 6) 31 16
def imNu (b : Bytes) : Nat := fld (wordAt b 6) 15 0
def imConstraints (b : Bytes) : Nat := fld (wordAt b 7) 31 16
def imContacts (b : Bytes) : Nat := fld (wordAt b 7) 15 8
def imFrames (b : Bytes) : Nat := fld (wordAt b 7) 7 0
def imLsqM (b : Bytes) : Nat := fld (wordAt b 8) 31 16
def imLsqN (b : Bytes) : Nat := fld (wordAt b 8) 15 0
def imPersistent (b : Bytes) : Nat := (wordAt b 9).toNat
def imScratch (b : Bytes) : Nat := (wordAt b 10).toNat
def imStopKnots (b : Bytes) : Nat := fld (wordAt b 11) 31 16
def imKnotSpacing (b : Bytes) : Nat := fld (wordAt b 11) 15 0
def imCyclesFixed (b : Bytes) : Nat := (wordAt b 12).toNat
def imCyclesIter (b : Bytes) : Nat := (wordAt b 13).toNat
def imDefTau (b : Bytes) : Word := wordAt b 15
def imDefTol (b : Bytes) : Word := wordAt b 16

/-- Section-table entry `i`: type, offset, length (R219). -/
def imSection (b : Bytes) (i : Nat) : Nat × Nat × Nat :=
  (fld (wordAt b (64 + 4 * i)) 31 24, (wordAt b (64 + 4 * i + 1)).toNat, (wordAt b (64 + 4 * i + 2)).toNat)

def imTable (b : Bytes) : List (Nat × Nat × Nat) := (List.range (imSections b)).map (imSection b)

/-- The contents of the section of a type; empty when the image has none. -/
def imFind (b : Bytes) (ty : Nat) : Bytes :=
  match (imTable b).find? (fun e => e.1 == ty) with
  | some e => (b.drop e.2.1).take e.2.2
  | none => []

def imHas (b : Bytes) (ty : Nat) : Bool := (imTable b).any (fun e => e.1 == ty)

/-- The QFORMAT entries (R220). -/
def imEntries (b : Bytes) : List Word :=
  let q := imFind b 0x04
  (List.range (q.length / 4)).map (wordAt q)

/-- The QFORMAT entry of a block class and instance: that of the instance, or the one of instance 0xFF (R220). -/
def imEntryOf (b : Bytes) (cls inst : Nat) : Word :=
  let es := imEntries b
  match es.find? (fun w => fld w 31 24 == cls && fld w 23 16 == inst) with
  | some w => w
  | none => (es.find? (fun w => fld w 31 24 == cls && fld w 23 16 == 0xFF)).getD 0

/-- The fraction width and the level of a block (R220). -/
def imFormatOf (b : Bytes) (cls inst : Nat) : Nat := fld (imEntryOf b cls inst) 4 0
def imLevelOf (b : Bytes) (cls inst : Nat) : Nat := fld (imEntryOf b cls inst) 9 8

/-- The level-1 entries, in order (R220, R223). -/
def imIterateEntries (b : Bytes) : List Word := (imEntries b).filter (fun w => fld w 9 8 == 1)

/-- The bounds of a block of iterates (R219, R223): a pair of raw words for each level-1 entry, in their order. -/
def iterateBound (b : Bytes) (cls inst : Nat) : Word × Word :=
  let i := (imIterateEntries b).findIdx (fun w => w == imEntryOf b cls inst)
  (wordAt (imFind b 0x09) (2 * i), wordAt (imFind b 0x09) (2 * i + 1))

/-- One BOUNDS group: item id, first element, pairs lo and hi (R224). -/
structure BoundGroup where
  item : Nat
  first : Nat
  pairs : List (Word × Word)

/-- The groups of a BOUNDS section, at most `fuel`; none when it is cut short or breaks its layout. -/
def boundGroups : Nat → Bytes → Option (List BoundGroup)
  | 0, b => if b.isEmpty then some [] else none
  | f + 1, b =>
    if b.isEmpty then some []
    else
      let n := fld (wordAt b 1) 15 0
      if b.length < 16 + 8 * n ∨ fld (wordAt b 1) 31 16 ≠ 0 ∨ wordAt b 2 ≠ 0 ∨ wordAt b 3 ≠ 0 then none
      else
        let ps := (List.range n).map (fun i => (wordAt b (4 + 2 * i), wordAt b (5 + 2 * i)))
        (boundGroups f (b.drop (16 + 8 * n))).map (fun r => ⟨fld (wordAt b 0) 31 16, fld (wordAt b 0) 15 0, ps⟩ :: r)

def imBounds (b : Bytes) : List BoundGroup :=
  let x := imFind b 0x05
  (boundGroups (x.length / 16 + 1) x).getD []

/-- Whether the QFORMAT section has a block at level 1 (R220, R223). -/
def imIterates (b : Bytes) : Bool := !(imIterateEntries b).isEmpty

/-- The section types that a kind needs (R219). -/
def imRequired (b : Bytes) : List Nat :=
  let tree := [0x01, 0x02]
  let stop := imStopKnots b != 0
  let base := [0x04, 0x05, 0x06] ++ (if 3 ≤ imKind b ∧ imIterates b then [0x09] else [])
  match imKind b with
  | 1 => tree ++ base
  | 2 => tree ++ base ++ (if stop then [0x03, 0x0A] else [])
  | 3 => tree ++ base ++ [0x03] ++ (if imConstraints b = 0 then [] else [0x08])
  | 4 => tree ++ base
  | _ => base

/-- The section types that a kind may have (R219). -/
def imOptional (b : Bytes) : List Nat :=
  match imKind b with
  | 3 => [0x09]
  | 4 => [0x09]
  | 5 => [0x07, 0x09]
  | _ => []

/-- The block classes that a kind uses, on either path, each of which needs an entry of instance 0xFF (R221; which classes a kind uses
is DEDUCED from its items, its work and its results, log entry 15). -/
def imClasses (b : Bytes) : List Nat :=
  match imKind b with
  | 1 => [0x01, 0x05, 0x08, 0x09]
  | 2 => [0x01, 0x02, 0x03, 0x04, 0x05, 0x06, 0x07, 0x08, 0x09]
  | 3 => [0x01, 0x02, 0x03, 0x04, 0x05, 0x06, 0x07, 0x08, 0x0A, 0x0B, 0x0C, 0x0D, 0x0E, 0x0F]
  | 4 => [0x01, 0x02, 0x05, 0x08, 0x0E, 0x0F, 0x10, 0x11]
  | 5 => [0x12]
  | _ => []

def inRange (lo hi v : Nat) : Bool := decide (lo ≤ v) && decide (v ≤ hi)

/-- The header fields within R218 and the limits of R215. -/
def imHeaderOk (b : Bytes) : Bool :=
  let k := imKind b
  let lsq := k == 5
  let plan := k == 3 || (k == 2 && imStopKnots b != 0)
  inRange 1 5 k
  && (imPath b == 0 || (k == 3 && imPath b == 1))
  && inRange 1 16 (imSections b)
  && fld (wordAt b 1) 15 0 == 0
  && inRange 256 4194304 (imLength b)
  && (if lsq then imBodies b == 0 && imDof b == 0 else inRange 1 64 (imBodies b) && inRange 1 72 (imDof b))
  && fld (wordAt b 4) 14 0 == 0
  && (if k = 3 then inRange 1 64 (imHorizon b) else imHorizon b == 0)
  && (if k = 4 then inRange 1 32 (imWindow b) else imWindow b == 0)
  && inRange 1 64 (imMaxIter b) && inRange 1 (imMaxIter b) (imDefIter b)
  && (if k = 3 then inRange 1 144 (imNx b) && inRange 1 96 (imNu b)
      else if k = 4 then inRange 1 144 (imNx b) && inRange 1 256 (imNu b)
      else imNx b == 0 && imNu b == 0)
  && (if k = 3 then decide (imConstraints b ≤ 128) else imConstraints b == 0)
  && decide (imContacts b ≤ 16) && decide (imFrames b ≤ 16)
  && (if lsq then
        (if imHas b 0x07 then inRange 1 1024 (imLsqN b) && decide (1 ≤ imLsqM b)
             && decide ((imFind b 0x07).length ≤ 4 * 65536) && (imFind b 0x07).length % 4 == 0
         else inRange 1 256 (imLsqM b) && inRange 1 256 (imLsqN b))
      else imLsqM b == 0 && imLsqN b == 0)
  && (if k = 2 then imStopKnots b == 0 || inRange 2 257 (imStopKnots b) else imStopKnots b == 0)
  && (if plan then inRange 1 65535 (imKnotSpacing b) else imKnotSpacing b == 0)
  && (wordAt b 14 &&& ~~~(mask 20 16 ||| mask 12 8 ||| mask 4 0)) == 0
  && decide (0 < (imDefTau b).toInt) && decide (0 < (imDefTol b).toInt)
  && (List.range 47).all (fun i => wordAt b (17 + i) == 0)

/-- A value clamped to its declared bounds as a signed word. -/
def clampWord (lo hi v : Word) : Word := if v.toInt < lo.toInt then lo else if hi.toInt < v.toInt then hi else v

/-- Whether sections overlap or run past the image (R227). A section that lies over the header or the section table, and a second
section of one type, are refused with them (DESIGN CHOICE, log entry 134). -/
def imSectionsOk (b : Bytes) : Bool :=
  let t := imTable b
  let lo := 256 + 16 * imSections b
  (List.range (imSections b)).all (fun i =>
    fld (wordAt b (64 + 4 * i)) 23 0 == 0 && wordAt b (64 + 4 * i + 3) == 0)
  && t.all (fun e => decide (lo ≤ e.2.1) && decide (e.2.1 + e.2.2 ≤ imLength b)
      && (imRequired b ++ imOptional b).contains e.1)
  && (imRequired b).all (imHas b)
  && (List.range t.length).all (fun i => (List.range i).all (fun j =>
      let x := t.getD i (0, 0, 0)
      let y := t.getD j (0, 0, 0)
      x.1 != y.1 && (decide (x.2.1 + x.2.2 ≤ y.2.1) || decide (y.2.1 + y.2.2 ≤ x.2.1))))

/-- The QFORMAT section (R220, R221): reserved bits, levels, and every class that the kind uses. -/
def imFormatsOk (b : Bytes) : Bool :=
  let es := imEntries b
  (imFind b 0x04).length % 4 == 0
  && es.all (fun w => (w &&& ~~~(mask 31 16 ||| mask 9 8 ||| mask 4 0)) == 0 && decide (fld w 9 8 ≤ 1) && inRange 1 0x12 (fld w 31 24))
  && (imClasses b).all (fun c => es.any (fun w => fld w 31 24 == c && fld w 23 16 == 0xFF))

/-! Input items (R239). -/

/-- Values that a CONSTRAINTS section takes from the delta packet, over the rows from word `o`, `fuel` of them. -/
def deltaNonZeros : Nat → Bytes → Nat
  | 0, _ => 0
  | f + 1, b =>
    if b.length < 4 then 0
    else
      let n := fld (wordAt b 0) 31 16
      let fromDelta := wbit (wordAt b 0) 0
      let idx := (2 * n + 3) / 4 * 4
      (if fromDelta then n else 0) + deltaNonZeros f (b.drop (4 + idx + if fromDelta then 0 else 4 * n))

/-- The number of elements of an item for an image's kind; none when the kind has no such item (R239). BASE_PLAN may have as many as an
entry can count, 65,535: no field of a DYN image gives its length (DESIGN CHOICE, log entry 135). -/
def itemCount (b : Bytes) (item : Nat) : Option Nat :=
  let k := imKind b
  let on := fun (ks : List Nat) (n : Nat) => if ks.contains k then some n else none
  let N := imHorizon b
  match item with
  | 0x01 => on [1, 2, 3, 4] (imDof b + if wbit (wordAt b 4) 15 then 1 else 0)
  | 0x02 => on [2, 3, 4] (imDof b)
  | 0x03 => on [2] (imDof b)
  | 0x04 => on [2] (imDof b)
  | 0x05 => on [2, 3, 4] 1
  | 0x06 => on [2, 3, 4] (3 * imContacts b)
  | 0x07 => on [2, 3] (6 * imBodies b)
  | 0x08 => on [2, 3] (10 * imFrames b)
  | 0x10 => on [3] ((N + 1) * imNx b)
  | 0x11 => on [3] (N * imNu b)
  | 0x12 => on [3] (imNx b + imNu b)
  | 0x13 => on [3] (imNx b)
  | 0x14 => on [3] (2 * (imNx b + imNu b) * N)
  | 0x15 => on [3] (2 * imConstraints b * N)
  | 0x16 => on [3] (deltaNonZeros 128 (imFind b 0x08))
  | 0x20 => on [3] ((N + 1) * imNx b + N * imNu b)
  | 0x21 => on [3] (Config.warmDualCount b)
  | 0x30 => on [4] (imNu b * imWindow b)
  | 0x31 => on [4] (imNu b)
  | 0x32 => on [4] (imNx b)
  | 0x40 => on [5] (if imHas b 0x07 then (imFind b 0x07).length / 4 else imLsqM b * imLsqN b)
  | 0x41 => on [5] (imLsqM b)
  | 0x50 => if k = 2 ∧ imStopKnots b ≠ 0 then some 65535 else none
  | _ => none

/-- BOUNDS pairs with lo ≤ hi, on elements of items of R239, and one DEFAULTS value for each (R11, R219, R224). -/
def imBoundsOk (b : Bytes) : Bool :=
  let x := imFind b 0x05
  match boundGroups (x.length / 16 + 1) x with
  | none => false
  | some gs =>
    gs.all (fun g => g.pairs.all (fun p => decide (p.1.toInt ≤ p.2.toInt))
      && (match itemCount b g.item with | some n => decide (g.first + g.pairs.length ≤ n) | none => false))
    && (imFind b 0x06).length == 4 * (gs.foldl (fun n g => n + g.pairs.length) 0)

/-- The DOFs of a joint type (R219): fixed, revolute, prismatic, floating (R215). -/
def jointDofs (ty : Nat) : Nat := if ty = 0 then 0 else if ty = 3 then 6 else 1

/-- TOPOLOGY: every parent precedes its body (R227), and the encodings of R219, the DOFs of every body among the image's and as many
as its joint type has (DEDUCED, log entry 15). -/
def imTopologyOk (b : Bytes) : Bool :=
  imKind b == 5 ||
  (let x := imFind b 0x01
   x.length == 8 * imBodies b &&
   (List.range (imBodies b)).all (fun i =>
     let w := wordAt x (2 * i)
     let p := fld w 7 0
     (p == 0xFF || decide (p < i)) && decide (fld w 15 8 ≤ 3) && wordAt x (2 * i + 1) == 0
     && fld w 31 24 == jointDofs (fld w 15 8) && decide (fld w 23 16 + fld w 31 24 ≤ imDof b)))

/-- The CONSTRAINTS rows (R219), `n` of them on `cols` variables, which fill the section: reserved bits and padding 0. -/
def constraintRowsOk (cols : Nat) : Nat → Bytes → Bool
  | 0, b => b.isEmpty
  | n + 1, b =>
    let w := wordAt b 0
    let nz := fld w 31 16
    let idx := (2 * nz + 3) / 4 * 4
    let size := 4 + idx + if wbit w 0 then 0 else 4 * nz
    decide (4 ≤ b.length) && decide (size ≤ b.length) && fld w 15 1 == 0
    && (List.range nz).all (fun i => decide (leNat (slice b (4 + 2 * i) 2) < cols))
    && decide (leNat (slice b (4 + 2 * nz) (idx - 2 * nz)) = 0)
    && constraintRowsOk cols n (b.drop size)

/-- The lengths that R219 gives the other sections: 25 words for each body, a pair of words for each level-1 entry and for each DOF,
and a SPARSITY of lower-factor places. -/
def imLengthsOk (b : Bytes) : Bool :=
  (imKind b == 5 || (imFind b 0x02).length == 100 * imBodies b)
  && (!imHas b 0x09 || (imFind b 0x09).length == 8 * (imIterateEntries b).length)
  && (!imHas b 0x0A || (imFind b 0x0A).length == 8 * imDof b)
  && (!imHas b 0x08 || constraintRowsOk (imNx b + imNu b) (imConstraints b) (imFind b 0x08))
  && (!imHas b 0x07 || (let x := imFind b 0x07
      (List.range (x.length / 4)).all (fun i => decide (fld (wordAt x i) 15 0 ≤ fld (wordAt x i) 31 16)
        && decide (fld (wordAt x i) 31 16 < imLsqN b))))

/-- JOINT_MAP entries (R248): one for each DOF, reserved bits 0, channel 0–95 or 0xFF. -/
def imJointsOk (b : Bytes) : Bool :=
  !imHas b 0x03 ||
  (let x := imFind b 0x03
   x.length == 24 * imDof b &&
   (List.range (imDof b)).all (fun i =>
     let w := wordAt x (6 * i)
     (w &&& ~~~(mask 31 24 ||| mask 20 16 ||| mask 12 8)) == 0
     && (decide (fld w 31 24 ≤ 95) || fld w 31 24 == 0xFF) && wordAt x (6 * i + 3) == 0))

/-- The image with its CRC word zeroed, as its CRC is computed (R218). -/
def imForCrc (b : Bytes) : Bytes := b.take 12 ++ List.replicate 4 0 ++ b.drop 16

/-- Every check of R227 on the `n` bytes of an image. -/
def imageOk (b : Bytes) : Bool :=
  decide (256 ≤ b.length)
  && imFormat b == 1 && imLength b == b.length
  && crc32c (imForCrc b) == wordAt b 3
  && imHeaderOk b && imSectionsOk b && imFormatsOk b && imBoundsOk b && imTopologyOk b && imJointsOk b
  && imLengthsOk b

/-! Versions (R214) and slots (R213). -/

def verSlot (v : BitVec 16) : Nat := v.toNat / 2 ^ 13
def verRev (v : BitVec 16) : Nat := v.toNat % 2 ^ 13

def Slot.images (x : Slot) : List Image := x.active.toList ++ x.standby.toList

def Engine.images (e : Engine) : List Image := e.slots.flatMap Slot.images

/-- The slot that holds a version, and whether it is the active one. -/
def Engine.holds (e : Engine) (v : BitVec 16) : Bool := e.images.any (fun i => i.version == v)

end Sys2Proof.Machine
end

