-- ==== Sys2Proof/Machine/Phase.lean ====
section
/-!
DEFINITION. Machine/Phase.lean: phase values, the phase of a source at a tick, its edges, its stalls and its
calibration (R33–R69, R749).
-/
namespace Sys2Proof.Machine

/-! Configuration blocks (R36). -/

def psType (c : List Word) : Nat := fld (wat c 0) 31 28
def psInterpLog2 (c : List Word) : Nat := fld (wat c 0) 27 24
def psInput (c : List Word) : Nat := fld (wat c 0) 23 16
def psEdgeSel (c : List Word) : Nat := fld (wat c 0) 15 14
def psCsiVc (c : List Word) : Nat := fld (wat c 0) 11 8
def psDivider (c : List Word) : Nat := fld (wat c 0) 7 0
def psParam (c : List Word) : Nat := (wat c 1).toNat
def psStallPeriods (c : List Word) : Nat := fld (wat c 2) 23 16
def psEdgeDelay (c : List Word) : Int := toSigned 16 (fld (wat c 2) 15 0)
def psScale (c : List Word) : Nat := (wat c 3).toNat
def psOffset (c : List Word) : Nat := dat c 4
def psMarkValid (c : List Word) : Bool := wbit (wat c 6) 0

/-- The inputs that a type allows (R33, R34). -/
def psInputAllowed (ty inp : Nat) : Bool :=
  let pin := decide (inp ≤ 7)
  let enc := decide (0x10 ≤ inp) && decide (inp ≤ 0x1F)
  let csi := decide (0x20 ≤ inp) && decide (inp ≤ 0x27)
  let mac := decide (0x30 ≤ inp) && decide (inp ≤ 0x33)
  match ty with
  | 0 => inp == 0
  | 1 => pin
  | 2 => enc
  | 3 => enc
  | 4 => inp == 0x40
  | 5 => mac
  | 6 => csi || pin
  | 7 => csi || pin
  | 8 => pin
  | _ => false

/-- Whether a configuration block keeps R36: an OFF block is all zeros; any other keeps every range of the table. -/
def psBlockOk (c : List Word) : Bool :=
  let ty := psType c
  let inp := psInput c
  if ty = 0 then c.all (· == 0)
  else
    decide (ty ≤ 8) && psInputAllowed ty inp
    && decide (psInterpLog2 c ≤ 3)
    && decide (psEdgeSel c ≤ 2)
    && (psEdgeSel c == 0 || ty == 1 || ty == 8 || ((ty == 6 || ty == 7) && decide (inp ≤ 7)))
    && (psCsiVc c == 0 || (decide (0x20 ≤ inp) && decide (inp ≤ 0x27)))
    && (psDivider c == 0 || ty == 1 || ty == 8)
    && (match ty with
        | 5 => decide (1000 ≤ psParam c) && decide (psParam c ≤ 1000000000)
        | 8 => decide (psParam c < 2 ^ 27) && decide (1 ≤ psParam c % 2 ^ 24)
        | _ => psParam c == 0)
    && decide (2 ≤ psStallPeriods c)
    && withinMasks c [mask 31 14 ||| mask 11 0, mask 31 0, mask 23 0, mask 31 0, mask 31 0, mask 31 0, 1, 0]

/-- A source that nothing configures. -/
def getPs (s : State) (n : Nat) : PhaseSource := s.phase.sources.getD n PhaseSource.off

/-- What an edge of source `b.1`, which takes the sources from `old` to `new`, does to its state before a calibration. -/
def carryEdge (old new : List PhaseSource) (b : Nat × Nat × PhaseSource) : Nat × Nat × PhaseSource :=
  let p := old.getD b.1 PhaseSource.off
  let q := new.getD b.1 PhaseSource.off
  (b.1, b.2.1, { b.2.2 with raw := b.2.2.raw + (q.raw - p.raw), stamp := if q.stamp = p.stamp then b.2.2.stamp else q.stamp })

/-- The sources change by an edge or by a status bit; what a calibration of the present tick has replaced sees the edge too. -/
def setSources (s : State) (l : List PhaseSource) : State :=
  { s with phase := { s.phase with sources := l, before := s.phase.before.map (carryEdge s.phase.sources l) } }

def modPs (s : State) (n : Nat) (f : PhaseSource → PhaseSource) : State := setSources s (s.phase.sources.modify n f)

/-- A calibration update replaces source `n` by `q`: the targets of the present tick match against the source as it was
before the first update of this tick (R46). -/
def calibrate (s : State) (n : Nat) (q : PhaseSource) : State :=
  let b := s.phase.before.filter (fun (x : Nat × Nat × PhaseSource) => x.2.1 == now s)
  { s with phase := { s.phase with
    sources := s.phase.sources.set n q,
    before := if b.any (fun x => x.1 == n) then b else b ++ [(n, now s, getPs s n)] } }

/-! Interpolation (R41–R44). -/

/-- Edges after which interpolation runs (R43). -/
def psNeeded (c : List Word) : Nat := 2 ^ psInterpLog2 c + 1

/-- interp_valid (R43). -/
def psInterpValid (p : PhaseSource) : Bool := psType p.cfg != 0 && decide (psNeeded p.cfg ≤ p.edges.toNat)

/-- The period estimate P (R41): the mean of the last intervals, truncated; a free value while there are not enough. -/
def psPeriod (p : PhaseSource) : Nat :=
  let n := 2 ^ psInterpLog2 p.cfg
  if n ≤ p.intervals.length then (p.intervals.take n).foldl (· + ·) 0 / n else Config.periodUnknown p.intervals.length

/-- The value F of R42 at tick `t`; a period of 0 leaves it open, and it is 0 at a tick before the last edge's stamp, for
which R42 gives no value (DESIGN CHOICE, log entry 108). -/
def psF (p : PhaseSource) (t : Nat) : Nat :=
  if psPeriod p = 0 then (Config.fractionNoPeriod (t - p.stamp)).toNat
  else min 0xFFFF ((t - p.stamp) * 65536 / psPeriod p)

/-- The interpolated fraction: 0 while interp_valid is 0 (R43), for a SERIAL_ENC source (R707), and on a QUAD source
whose last two edges moved in opposite directions (R44). -/
def psInterp (p : PhaseSource) (t : Nat) : Nat :=
  if !psInterpValid p then 0
  else if psType p.cfg = 3 then 0
  else if psType p.cfg = 2 && !p.sameWay then 0
  else psF p t

/-- The raw 48.16 phase at tick `t` (R42, R44): a decreasing count lies below its last edge. -/
def psRaw (p : PhaseSource) (t : Nat) : Nat :=
  let f := psInterp p t
  if p.down then (p.raw.toNat + 2 ^ 64 - f) % 2 ^ 64 else (p.raw.toNat + f) % 2 ^ 64

/-- The calibrated value of a raw phase (R37): scale × raw, the product rounded to nearest-even at the 16-bit fraction,
plus offset, modulo 2^64. A QUAD or SERIAL_ENC count is signed (R38). -/
def psCalibrate (c : List Word) (raw : Nat) : Nat :=
  let r : Int := if psType c = 2 ∨ psType c = 3 then toSigned 64 raw else raw
  wrapN 64 (divNearestEven (r * psScale c) (2 ^ 30) + psOffset c)

/-- The calibrated phase of a source at tick `t`: PHU_PS_PHASE (R54). -/
def psPhase (p : PhaseSource) (t : Nat) : Nat := psCalibrate p.cfg (psRaw p t)

def phaseAt (s : State) (n : Nat) : Nat := psPhase (getPs s n) (now s)

/-- PHU_PS_STATUS (R56). -/
def psStatus (p : PhaseSource) : Word :=
  BitVec.ofNat 32 (p.stallCount.toNat * 2 ^ 16 + p.indexErr.toNat * 2 ^ 8 + (if p.down then 16 else 0)
    + (if p.stalled then 8 else 0) + (if psInterpValid p then 4 else 0) + (if p.countValid then 2 else 0)
    + (if psType p.cfg != 0 then 1 else 0))

/-! Phase values (R64–R68). -/

def pvForm (v : PhaseValue) : Nat := fld v.w2 4 3
def pvIsGtc (v : PhaseValue) : Bool := pvForm v == 1
def pvSource (v : PhaseValue) : Nat := fld v.w2 2 0
def pvDecreasing (v : PhaseValue) : Bool := wbit v.w2 5
/-- The 48.16 target of the phase form. -/
def pvPhase (v : PhaseValue) : Nat :=
  (v.w0.toNat + 2 ^ 32 * fld v.w1 15 0) * 65536 + fld v.w1 31 16
/-- The GTC value of the GTC form. -/
def pvGtc (v : PhaseValue) : Nat := v.w0.toNat + 2 ^ 32 * fld v.w1 15 0 + 2 ^ 48 * fld v.w1 31 16
def pvZero : PhaseValue := ⟨0, 0, 0⟩
def pvOfWords (ws : List Word) (i : Nat) : PhaseValue := ⟨wat ws i, wat ws (i + 1), wat ws (i + 2)⟩
def pvWords (v : PhaseValue) : List Word := [v.w0, v.w1, v.w2]
/-- The source number that a match of the target carries (R71). -/
def pvSrc (v : PhaseValue) : Nat := if pvIsGtc v then srcGtcTarget else srcPs (pvSource v)

/-- Whether a phase value keeps the encoding of R64: reserved bits 0, form 0 or 1, source and direction 0 in GTC form. -/
def pvOk (v : PhaseValue) : Bool :=
  (v.w2 &&& ~~~mask 5 0) == 0 && decide (pvForm v ≤ 1) &&
  (!pvIsGtc v || (pvSource v == 0 && !pvDecreasing v))

/-- A decreasing target is allowed only on a QUAD or SERIAL_ENC source (R64). -/
def pvDirectionOk (s : State) (v : PhaseValue) : Bool :=
  !pvDecreasing v || psType (getPs s (pvSource v)).cfg == 2 || psType (getPs s (pvSource v)).cfg == 3

/-- Whether target `target` is equal to phase `q` or is passed by it in its direction (R39, R66). -/
def reached (q target : Nat) (decreasing : Bool) : Bool :=
  if decreasing then decide ((target + 2 ^ 64 - q) % 2 ^ 64 < 2 ^ 63)
  else decide ((q + 2 ^ 64 - target) % 2 ^ 64 < 2 ^ 63)

/-- A source as the targets of the present tick see it: a calibration update of this tick counts from the next one (R46, R47). -/
def matchSource (s : State) (n : Nat) : PhaseSource :=
  match s.phase.before.find? (fun b => b.1 == n && b.2.1 == now s) with
  | some b => b.2.2
  | none => getPs s n

/-- The phase that a target is compared with at tick `t`: with fraction 0 it is never matched by interpolation, so the phase
is that of the last edge (R67). -/
def matchPhase (p : PhaseSource) (t target : Nat) : Nat :=
  if target % 65536 = 0 then psCalibrate p.cfg p.raw.toNat else psPhase p t

/-- Whether the target has matched at this tick (R66, R67). -/
def pvReached (s : State) (v : PhaseValue) : Bool :=
  if pvIsGtc v then decide (pvGtc v ≤ now s)
  else
    let p := matchSource s (pvSource v)
    psType p.cfg != 0 && reached (matchPhase p (now s) (pvPhase v)) (pvPhase v) (pvDecreasing v)

/-- Whether a target is passed when it is armed or submitted now: its source's phase equals it or lies beyond it (R68). -/
def pvPassed (s : State) (v : PhaseValue) : Bool :=
  if pvIsGtc v then decide (pvGtc v ≤ now s)
  else psType (getPs s (pvSource v)).cfg != 0 && reached (phaseAt s (pvSource v)) (pvPhase v) (pvDecreasing v)

/-- Whether the source of a phase-form value is stalled. -/
def pvStalled (s : State) (v : PhaseValue) : Bool := !pvIsGtc v && (getPs s (pvSource v)).stalled

/-- Whether a deadline has arrived: its target matches, or its source is stalled (R52). A deadline that comes while its source is
already stalled has arrived too: R52 speaks of the declaration only (DESIGN CHOICE, log entry 109). -/
def deadlineArrived (s : State) (v : PhaseValue) : Bool := pvReached s v || pvStalled s v

/-- Whether a deadline is passed when it is submitted (R52, R69; log entry 109). -/
def deadlinePassed (s : State) (v : PhaseValue) : Bool := pvPassed s v || pvStalled s v

/-- Whether the source of a phase value has count_valid 1 (R63). -/
def pvCountValid (s : State) (v : PhaseValue) : Bool := pvIsGtc v || (getPs s (pvSource v)).countValid

/-- Whether GTC-form values are permitted in a partition (R65). -/
def pvPermitted (s : State) (p : Nat) (v : PhaseValue) : Bool := !pvIsGtc v || peGtcPoints (partEntry s p)

/-- Whether the deadline `d` lies before the point `p`, on the same source, in p's direction (R39, R92). -/
def pvBefore (d p : PhaseValue) : Bool :=
  if pvIsGtc p then decide (pvGtc d < pvGtc p)
  else
    let a := if pvDecreasing p then (pvPhase d + 2 ^ 64 - pvPhase p) % 2 ^ 64 else (pvPhase p + 2 ^ 64 - pvPhase d) % 2 ^ 64
    decide (0 < a) && decide (a < 2 ^ 63)

/-! Edges (R41, R49, R53). -/

/-- Whether an edge that brings the source to raw value `raw` moves its count down: a QUAD or SERIAL_ENC count alone can
decrease (R38). -/
def movesDown (raw : BitVec 64) (p : PhaseSource) : Bool := (psType p.cfg == 2 || psType p.cfg == 3) && (raw - p.raw).msb

/-- An edge that brings the source to raw value `raw`, arriving at tick `t`: its stamp is the arrival less edge_delay_ns
(R36), it updates the period (R41), the direction (R44, R56) and clears stalled (R49). An edge that leaves the count
unchanged is no move in either direction (R707). A stamp before that of the edge before it makes an interval of 0: R41 gives no
value for it (DESIGN CHOICE, log entry 108). -/
def edge (t : Nat) (raw : BitVec 64) (p : PhaseSource) : PhaseSource :=
  let g := ((t : Int) - psEdgeDelay p.cfg).toNat
  { p with
    raw := raw, stamp := g,
    intervals := if p.edges == 0 then p.intervals else (((g : Int) - p.stamp).toNat :: p.intervals).take 8,
    edges := satInc p.edges,
    down := p.seen && movesDown raw p,
    seen := true,
    lastDown := if raw = p.raw then p.lastDown else movesDown raw p,
    sameWay := if raw = p.raw then p.sameWay else movesDown raw p == p.lastDown,
    stalled := false }

/-- A qualifying edge of a counting source: every divider + 1 of them make one count (R33). -/
def countEdge (t : Nat) (p : PhaseSource) : PhaseSource :=
  if p.divPos.toNat < psDivider p.cfg then { p with divPos := p.divPos + 1 }
  else { edge t (p.raw + 0x10000) p with divPos := 0 }

/-- The 802.1AS time of a MAC at this tick, from its last message (R35, R690). -/
def macTime (s : State) (m : Nat) : Nat :=
  let x := s.ports.macs.getD m Mac.reset
  x.time + (now s - x.at_)

/-- The raw value of a GPTP source now (R35). -/
def gptpRaw (s : State) (c : List Word) : BitVec 64 :=
  BitVec.ofNat 64 (macTime s (psInput c - 0x30) / psParam c * 65536)

/-- The position that encoder input `n` presents (R91): negated where its calibration says so, plus its offset. -/
def encoderPosition (s : State) (n : Nat) : BitVec 64 :=
  let e := s.ports.encoders.getD n Encoder.reset
  let r : BitVec 64 := e.count.signExtend 64 <<< (16 : Nat)
  (if e.invert then -r else r) + e.offset

/-- Apply `f` to every source of the types given that follows input code `inp`. -/
def modSourcesOn (s : State) (inp : Nat) (types : List Nat) (f : PhaseSource → PhaseSource) : State :=
  setSources s (s.phase.sources.map (fun p => if psInput p.cfg == inp && types.contains (psType p.cfg) then f p else p))

/-! Calibration (R46–R48, R749). -/

/-- The raw count that a source of the block's type has at the commit instant when its type or input changes, and the
count_valid that it then has without mark_valid (R749). A SERIAL_ENC source has no position before its first valid reply
(log entry 94). -/
def restartCount (s : State) (c : List Word) : BitVec 64 × Bool :=
  match psType c with
  | 2 => (encoderPosition s (psInput c - 0x10), false)
  | 3 => (Config.serialBeforeReply c, false)
  | 4 => (BitVec.ofNat 64 (s.servo.net.count % 2 ^ 48 * 65536), true)
  | 5 => (gptpRaw s c, (s.ports.macs.getD (psInput c - 0x30) Mac.reset).synced)
  | _ => (0, false)

/-- Put a configuration block in force (R46): a change of type, input or interp_log2 restarts the period estimate (R48);
a change of type or input restarts the count (R749), and then also clears stalled and sets the edge stamp to the present tick,
of which R749 says nothing (DESIGN CHOICE, log entry 110). -/
def applyBlock (s : State) (n : Nat) (c : List Word) : State :=
  let p := getPs s n
  let sameInput := psType c == psType p.cfg && psInput c == psInput p.cfg
  let samePeriod := sameInput && psInterpLog2 c == psInterpLog2 p.cfg
  let r := restartCount s c
  let p1 := { p with cfg := c }
  let p2 := if samePeriod then p1 else { p1 with intervals := [], edges := 0 }
  let p3 := if sameInput then { p2 with countValid := p.countValid || psMarkValid c }
    else { p2 with raw := r.1, countValid := psMarkValid c || r.2, down := false, seen := false, lastDown := false,
                   sameWay := false, stalled := false, stamp := now s, divPos := 0 }
  calibrate s n p3

/-- The count_valid that a source will have once a block is applied (R511, R749). -/
def countValidAfter (s : State) (n : Nat) (c : List Word) : Bool :=
  let p := getPs s n
  if psType c == psType p.cfg && psInput c == psInput p.cfg then p.countValid || psMarkValid c
  else psMarkValid c || (restartCount s c).2

/-- The sources after a main-domain reset (R62): a MOTION_CYCLE source keeps everything; a GPTP source is recomputed; a
SERIAL_ENC source waits for its first frame; every other restarts at 0 with count_valid 0. stalled is cleared and the edge stamp is
that of the reset (DESIGN CHOICE, log entry 110). -/
def resetSource (s : State) (p : PhaseSource) : PhaseSource :=
  let fresh := { p with intervals := [], edges := 0, down := false, seen := false, lastDown := false, sameWay := false,
                        stalled := false, divPos := 0, stamp := now s }
  match psType p.cfg with
  | 4 => p
  | 5 => { fresh with raw := gptpRaw s p.cfg, countValid := (s.ports.macs.getD (psInput p.cfg - 0x30) Mac.reset).synced }
  | 3 => { fresh with raw := Config.serialBeforeReply p.cfg, countValid := false }
  | _ => { fresh with raw := 0, countValid := false }

/-- An encoder calibration changes the position that its input presents: the sources that follow it move with it and
keep their period estimate, as at a calibration update (R46, R91). -/
def moveEncoderSources (s : State) (n : Nat) : State :=
  (List.range s.phase.sources.length).foldl (fun s i =>
    let p := getPs s i
    if psInput p.cfg = 0x10 + n ∧ (psType p.cfg = 2 ∨ psType p.cfg = 3) then calibrate s i { p with raw := encoderPosition s n }
    else s) s

end Sys2Proof.Machine
end

