-- ==== Sys2Proof/Machine/EtchTable.lean ====
section
/-!
DEFINITION. Machine/EtchTable.lean: etch descriptors and the checks at staging (R82–R93), and the etch committer's table:
ids, states, limits and release (R94–R99, R152).
-/
namespace Sys2Proof.Machine

/-! Descriptors (R85, R86). -/

/-- The header of a descriptor, when it keeps R85. -/
def parseHeader (b : Bytes) : Option EtchHeader :=
  let ws := toWords 16 b
  let w := wat ws
  if !withinMasks ws [mask 31 20 ||| mask 15 0, mask 1 0, mAll, mAll, mAll, mAll, mAll, mAll, mask 15 0] then none
  else
    let cp := pvOfWords ws 2
    let dl := pvOfWords ws 5
    if 2 < fld (w 0) 23 20 ∨ !pvOk cp ∨ !pvOk dl then none
    else some
      { count := fld (w 0) 31 24, kind := fld (w 0) 23 20, tag := BitVec.ofNat 16 (fld (w 0) 15 0),
        husk := wbit (w 1) 1, notify := wbit (w 1) 0, commitPoint := cp, armDeadline := dl,
        fallbackId := fld (w 8) 15 0 }

/-- Types that carry a handle (R86): TABLE_SWAP, PLATE_SWAP, CALIBRATION, SERVO_GAIN_SET. -/
def isHandle (ty : Nat) : Bool := [2, 4, 6, 7].contains ty

/-- The action types that a class accepts (R82). -/
def classTypes (cls : Nat) : List Nat :=
  match cls with
  | 0x01 => [1, 3]
  | 0x02 => [1, 2]
  | 0x03 => [2]
  | 0x04 => [4]
  | 0x05 => [6]
  | 0x06 => [5]
  | 0x07 => [1, 2]
  | 0x10 => [2]
  | 0x11 => [2]
  | 0x12 => [7]
  | 0x13 => [1, 2]
  | 0x14 => [6]
  | _ => []

/-- The indices of a class (R82, R750). -/
def classIndexOk (cls i : Nat) : Bool :=
  match cls with
  | 0x01 => decide (i ≤ 8)
  | 0x02 => decide (i ≤ 15)
  | 0x03 => decide (i ≤ 15)
  | 0x04 => decide (i ≤ 15)
  | 0x05 => decide (i ≤ 7)
  | 0x06 => okUnitCode i
  | 0x07 => decide (0x100 ≤ i) && decide (i ≤ 0x103)
  | 0x10 => decide (i ≤ 15)
  | 0x11 => i == 0
  | 0x12 => decide (i ≤ 95)
  | 0x13 => decide (i ≤ 15)
  | 0x14 => decide (i ≤ 15)
  | _ => false

/-- The value of a PARAM_WRITE. -/
def actValue (x : EtchAction) : Nat := x.argLo.toNat + 2 ^ 32 * x.argHi.toNat

/-- An action entry, when it keeps R86, R87 and R82. -/
def parseAction (b : Bytes) : Option EtchAction :=
  let ws := toWords 8 b
  let w := wat ws
  let x : EtchAction :=
    { typ := fld (w 0) 31 28, cls := fld (w 0) 27 20, index := fld (w 0) 19 0, item := (w 1).toNat, argLo := w 2,
      argHi := w 3, width := fld (w 4) 31 24, length := fld (w 4) 23 0, crc := w 5 }
  let zeros := w 6 == 0 && w 7 == 0
  let shape :=
    match x.typ with
    | 1 => [1, 2, 4, 8].contains x.width && x.length == 0 && x.crc == 0 && decide (actValue x < 2 ^ (8 * x.width))
    | 3 => x.item == 0 && x.width == 0 && x.length == 0 && x.crc == 0 && decide (actValue x < 2 ^ 16)
    | 5 => x.item == 0 && x.width == 0 && x.length == 0 && x.crc == 0 && decide (actValue x < 2 ^ 4)
    | _ => isHandle x.typ && x.item == 0 && x.width == 0 && decide (32 ≤ x.length)
  if zeros && shape && (classTypes x.cls).contains x.typ && classIndexOk x.cls x.index then some x else none

/-- Parse the action entries after the header. -/
def parseActions (b : Bytes) (n : Nat) : Option (List EtchAction) :=
  (List.range n).foldr (fun i acc => match parseAction (slice b (64 + 32 * i) 32), acc with
    | some x, some l => some (x :: l)
    | _, _ => none) (some [])

/-- The object of an action (R84). -/
def actObject (x : EtchAction) : Nat × Nat × Nat := (x.cls, x.index, if x.typ = 1 then x.item else 0)

/-- Whether a list repeats a value. -/
def hasRepeat {α : Type} [BEq α] : List α → Bool
  | [] => false
  | x :: xs => xs.contains x || hasRepeat xs

/-- Whether the action takes its unit to OFF or RETAIN (R93). -/
def powersDown (x : EtchAction) : Bool := x.typ == 5 && x.index != 0 && decide (actValue x ≤ 1)

/-- An engine of the solver complex. -/
def getEngine (s : State) (n : Nat) : Engine := s.solver.engines.getD n (Engine.reset .failed)

def modEngine (s : State) (n : Nat) (f : Engine → Engine) : State :=
  { s with solver := { s.solver with engines := s.solver.engines.modify n f } }

/-- A slot of an engine. -/
def getSlot (s : State) (e n : Nat) : Slot := (getEngine s e).slots.getD n Slot.empty

def modSlot (s : State) (e n : Nat) (f : Slot → Slot) : State :=
  modEngine s e (fun x => { x with slots := x.slots.modify n f })

/-- The run-time parameters of R235: item, width and range. -/
def engineParamOk (s : State) (x : EtchAction) : Bool :=
  let slot := x.item / 256 % 8
  let v := actValue x
  decide (x.item < 2 ^ 11) &&
  (match x.item % 256 with
   | 1 => x.width == 1 && decide (1 ≤ v) &&
       (match (getSlot s x.index slot).active with | some i => decide (v ≤ imMaxIter i.bytes) | none => decide (v ≤ 64))
   | 2 => x.width == 4 && decide (1 ≤ v) && decide (v < 2 ^ 31)
   | 3 => x.width == 4 && decide (1 ≤ v) && decide (v < 2 ^ 31)
   | 4 => x.width == 1 && decide (v ≤ 1)
   | _ => false)

/-- The partition parameters of R88: item, width and value. -/
def partParamOk (s : State) (x : EtchAction) : Bool :=
  let v := actValue x
  let e := partEntry s x.index
  let maps := match s.plate.parts[x.index]? with | some p => p.maps.length | none => 0
  match x.item with
  | 1 => x.width == 1 && decide (v ≤ 1)
  | 2 => x.width == 1 && decide (v ≤ 2)
  | 3 => x.width == 2 && decide (v < 2 ^ 15)
  | 4 => x.width == 1 && (decide (v < maps) || v == 0x1F)
  | 5 => x.width == 4 && decide (1 ≤ v) && decide (v ≤ 1000000) && !peSpill e
  | _ => false

/-- The values of an action that depend on its class (R11, R88, R232, R235, R656, R664, R750). -/
def actValueOk (s : State) (x : EtchAction) : Bool :=
  match x.cls, x.typ with
  | 0x01, 1 => engineParamOk s x
  | 0x01, _ => (getEngine s x.index).holds (BitVec.ofNat 16 (actValue x))
  | 0x02, 1 => partParamOk s x
  | 0x06, _ => if x.index = 0 then decide (3 ≤ actValue x) && decide (actValue x ≤ 5) else okUnitState x.index (actValue x)
  | 0x07, 1 => false
  | 0x13, 1 => false
  | _, _ => true

/-- The fallback and primary fields of the header (R92). -/
def headerKindOk (h : EtchHeader) : Bool :=
  (if h.kind = 1 then
     pvIsGtc h.armDeadline == pvIsGtc h.commitPoint && pvSource h.armDeadline == pvSource h.commitPoint
     && pvBefore h.armDeadline h.commitPoint
   else h.armDeadline == pvZero)
  && (h.kind == 2 || h.fallbackId == 0)

/-- Every check of R92 and R93, and the values of the actions, before an etch is staged. -/
def stageOk (s : State) (h : EtchHeader) (acts : List EtchAction) : Bool :=
  decide (1 ≤ h.count) && decide (h.count ≤ 64)
  && headerKindOk h
  && pvDirectionOk s h.commitPoint && pvDirectionOk s h.armDeadline
  && !hasRepeat (acts.map actObject)
  && acts.all (actValueOk s)
  && acts.all (fun x => !(powersDown x && x.index / 65536 == 2 &&
       acts.any (fun y => y.cls == 0x01 && y.index == x.index % 65536)))

/-- A descriptor that may be staged, from the bytes at its place. -/
def parseEtch (s : State) (b : Bytes) : Option (EtchHeader × List EtchAction) :=
  match parseHeader b with
  | none => none
  | some h => match parseActions b h.count with
    | none => none
    | some acts => if stageOk s h acts then some (h, acts) else none

/-! Classes of targets. -/

def isSafetyClass (cls : Nat) : Bool := decide (0x10 ≤ cls) && decide (cls ≤ 0x1F)
/-- The main-domain targets of R122: classes 0x01–0x07 and 0x14. -/
def isMainClass (cls : Nat) : Bool := (decide (1 ≤ cls) && decide (cls ≤ 7)) || cls == 0x14

/-- The phase sources that a slot names: those of its bounds, on major_source (R506, R507). -/
def plateMajor (hdr : List Word) : Nat := fld (wat hdr 4) 2 0

/-- The slots of the running Plate. -/
def plateSlots (s : State) : List (List Word) := s.plate.parts.flatMap (·.slots)

/-- Whether a slot of class at least `cls` references a source (R51, R83): every slot references major_source. -/
def sourceReferenced (s : State) (n cls : Nat) : Bool :=
  (plateSlots s).any (fun w => decide (cls ≤ fld (wat w 0) 31 30)) && plateMajor s.plate.header == n

/-- Whether an action is validated as a safety target (R82, R83). -/
def isSafetyTarget (s : State) (x : EtchAction) : Bool :=
  isSafetyClass x.cls || (x.cls == 0x05 && sourceReferenced s x.index 3)

/-! The table. -/

def findEtch (s : State) (id : Nat) : Option Etch := s.etch.etches.find? (fun e => e.id == id)

def modEtch (s : State) (id : Nat) (f : Etch → Etch) : State :=
  { s with etch := { s.etch with etches := s.etch.etches.map (fun e => if e.id == id then f e else e) } }

/-- Enter a state (R94): its stamp is now. -/
def setEtch (s : State) (id : Nat) (p : EtchPhase) : State := modEtch s id (fun e => { e with st := p, changed := now s })

/-- Armed etches, with a REPLACED fallback until its arm_deadline has matched (R95, R96). -/
def countsArmed (e : Etch) : Bool := e.st == .armed || (e.st == .replaced && !e.deadlinePassed)
def armedCount (s : State) : Nat := (s.etch.etches.filter countsArmed).length
/-- Actions held by staged and armed etches (R99, R124). -/
def stagedActions (s : State) : Nat :=
  (s.etch.etches.filter (fun e => e.st == .staged || countsArmed e)).foldl (fun n e => n + e.acts.length) 0

/-- ETC_STATUS (R124). -/
def etcStatus (s : State) : Word := BitVec.ofNat 32 ((armedCount s) * 2 ^ 16 + stagedActions s)

/-- Free the allocations that were kept only for etches passed to a function, once none of those remains (R152). -/
def freePassed (s : State) : State :=
  let used := (s.etch.etches.filter (fun e => e.session.isNone)).flatMap (fun e => e.acts.filterMap actionRange)
  { s with cmds := { s.cmds with allocs := s.cmds.allocs.filter (fun a =>
      a.session.isSome || used.any (fun r => overlaps a.addr a.bytes r.1 r.2)) } }

/-- Release an etch's id and staged actions (R95). A primary that replaced it has no fallback to return to ARMED any more, whoever
takes the id next (R94, R753). -/
def releaseEtch (s : State) (id : Nat) : State :=
  freePassed { s with etch := { s.etch with etches := (s.etch.etches.filter (fun e => e.id != id)).map (fun e =>
    if e.st == .armed && e.hdr.fallbackId == id then { e with hdr := { e.hdr with fallbackId := 0 } } else e) } }

/-- An id for a new etch (R94, R753). -/
def newEtchId (s : State) : Option Nat :=
  pickFree 1 65535 (Config.handOut s.free) (s.etch.etches.map (·.id))

/-- Place a checked descriptor in the staging store: the limit of R99, an id of R94. -/
def stageEtch (s : State) (session : Option Word) (fn : Nat) (k : Option CmdKey) (h : EtchHeader) (acts : List EtchAction) :
    Except Status (Nat × State) :=
  if 32768 < stagedActions s + acts.length then .error stNO_RESOURCE
  else match newEtchId s with
    | none => .error stNO_RESOURCE
    | some id =>
      let e : Etch := { id := id, session := session, fn := fn, hdr := h, acts := acts, payloads := [], st := .staged,
                        changed := now s, armInstant := 0, armCmd := none, stageCmd := k, records := [],
                        deadlinePassed := false }
      let s1 := takeFree s
      .ok (id, { s1 with etch := { s1.etch with etches := s1.etch.etches ++ [e] } })

/-- Whether the etch belongs to the session of a command (R95); the firmware may use any. -/
def ownsEtch (s : State) (c : Cmd) (e : Etch) : Bool :=
  match c.key.src with
  | .firmware => true
  | .queue _ => e.session.isSome && e.session == sessionOf s c
  | .mailbox _ => false

/-- A completion of kind 0x1 of an etch (R115, R167, R289), posted on the queue of the command that armed or staged it;
the etch is released when it is posted (R95), or at once when it posts none. -/
def etchComplete (s : State) (e : Etch) (st : Status) (stamp : Nat) : State :=
  match e.armCmd <|> e.stageCmd with
  | some k =>
    match k.src with
    | .queue q =>
      if (findSq s q.toNat).isSome then
        enqueue s q { replyEntry s k q (reply st) with
          kind := 1, stamp := stamp, tag := e.hdr.tag, last := false, release := some e.id }
      else releaseEtch s e.id
    | _ => releaseEtch s e.id
  | none => releaseEtch s e.id

/-- The unit code of an object of class 0x01 (R93, R110). -/
def unitOfObject (x : EtchAction) : Option Nat := if x.cls = 0x01 then some (0x20000 + x.index) else none

/-- Whether an ARMED etch keeps a unit powered up to its commit point (R110): `before` decides whether the power-down
takes effect at or before the etch's commit point. -/
def heldByArmed (s : State) (unit : Nat) (before : Etch → Bool) : Bool :=
  s.etch.etches.any (fun e => e.st == .armed && before e && e.acts.any (fun x => unitOfObject x == some unit))

/-- Abort a primary that has replaced a fallback: the fallback returns to ARMED unless its arm_deadline has matched
(R120). -/
def restoreFallback (s : State) (e : Etch) : State :=
  if e.hdr.kind = 2 then
    modEtch s e.hdr.fallbackId (fun f => if f.st == .replaced && !f.deadlinePassed then { f with st := .armed, changed := now s } else f)
  else s

/-- Whether an ARMED primary's fallback still stands before its arm_deadline match, which wins every tie against an abort
(R115, R120). -/
def fallbackOpen (s : State) (e : Etch) : Bool :=
  match findEtch s e.hdr.fallbackId with
  | some f => f.st == .replaced && !f.deadlinePassed && !deadlineArrived s f.hdr.armDeadline
  | none => false

/-- Abort the etches of sessions that close, and pass on those that R152 keeps armed: how many are passed, and the
state. -/
def closeEtches (s : State) (p : Word → Bool) : Nat × State :=
  let mine := fun (e : Etch) => match e.session with | some i => p i | none => false
  let gone := s.etch.etches.filter (fun e => mine e &&
    (e.st == .staged || (e.st == .armed && (e.hdr.kind == 0 || (e.hdr.kind == 2 && fallbackOpen s e)))))
  let s1 := gone.foldl (fun s e => restoreFallback s e) s
  let s2 := gone.foldl (fun s e => releaseEtch s e.id) s1
  let kept := s2.etch.etches.filter (fun e => mine e && (e.st == .armed || e.st == .replaced))
  let final := s2.etch.etches.filter (fun e => mine e && e.st != .armed && e.st != .replaced)
  let s3 := final.foldl (fun s e => releaseEtch s e.id) s2
  ((kept.filter (fun e => e.st == .armed)).length,
   { s3 with etch := { s3.etch with
      etches := s3.etch.etches.map (fun e => if mine e then { e with session := none, armCmd := none, stageCmd := none } else e),
      arming := s3.etch.arming.filter (fun a => (s3.etch.etches.any (fun e => e.id == a.etch && e.session.isSome))) } })

end Sys2Proof.Machine
end

