-- ==== Sys2Proof/Machine/Sched.lean ====
section
/-!
DEFINITION. Machine/Sched.lean: the order in which the units of a partition take their work: slots, conversion of phase
differences into time, admission and shares (R498–R503, R518–R525, R530, R531, R756).
-/
namespace Sys2Proof.Machine

/-! Time (R503, R652). -/

/-- Main clock of the profile in force, in MHz (R650). -/
def mainMhz (s : State) : Nat :=
  match s.power.profile with
  | 3 => 800
  | 4 => 1250
  | _ => 1750

/-- Main cycles as a whole number of ns, rounded up (R652). -/
def cyclesNs (s : State) (n : Nat) : Nat := (n * 1000 + mainMhz s - 1) / mainMhz s

/-- A 48.16 phase difference of a source as its least time in ns (R503). -/
def phaseNs (s : State) (source d : Nat) : Nat := d * s.plate.minPeriods.getD source 0 / 65536

/-- The time to a phase value (R503): at least this many ns; 0 when it is reached. -/
def timeUntil (s : State) (v : PhaseValue) : Nat :=
  if pvReached s v || pvPassed s v then 0
  else if pvIsGtc v then pvGtc v - now s
  else
    let q := phaseAt s (pvSource v)
    let d := if pvDecreasing v then (q + 2 ^ 64 - pvPhase v) % 2 ^ 64 else (pvPhase v + 2 ^ 64 - q) % 2 ^ 64
    phaseNs s (pvSource v) d

/-! Slots (R506). -/

def slClass (w : List Word) : Nat := fld (wat w 0) 31 30
/-- 0 QUEUE, 1 BATCH, 2 STEP, 3 CHECK, 4 GAP. -/
def slUse (w : List Word) : Nat := fld (wat w 0) 29 27
def slPart (w : List Word) : Nat := fld (wat w 0) 26 23
def slOwner (w : List Word) : Nat := fld (wat w 0) 17 0
def slStart (w : List Word) : Nat := (wat w 1).toNat
def slEnd (w : List Word) : Nat := (wat w 2).toNat
def slBudget (w : List Word) : Nat := fld (wat w 3) 22 16
def slEngines (w : List Word) : Nat := fld (wat w 3) 8 0
def slHasEngine (w : List Word) (n : Nat) : Bool := decide (n < 9) && wbit (wat w 3) n

/-- major_len (R502). -/
def majorLen (s : State) : Nat := fld (wat s.plate.header 5) 15 0

/-- The phase of major_source since the start of its major cycle (R512), 48.16; 0 without a major cycle. -/
def majorPhase (s : State) : Nat :=
  let len := majorLen s * 65536
  if len = 0 then 0
  else ((phaseAt s (plateMajor s.plate.header) + 2 ^ 64 - s.plate.origin % 2 ^ 48 * 65536) % 2 ^ 64) % len

/-- A slot of the running Plate, by its place in the table. -/
def slotAt (s : State) (i : Nat) : Option (List Word) := (plateSlots s)[i]?

/-- A partition. -/
def getPart (s : State) (p : Nat) : Partition := s.field.parts.getD p Partition.reset
def modPart (s : State) (p : Nat) (f : Partition → Partition) : State :=
  { s with field := { s.field with parts := s.field.parts.modify p f } }

/-- The slot of a CYCLIC partition that is open now. -/
def openSlot (s : State) (p : Nat) : Option (List Word) := (getPart s p).slot.bind (slotAt s)

/-- Whether `ns` from now on end before a 48.16 phase difference `d` of major_source has passed at its shortest period (R503,
R520, R545). -/
def endsBefore (s : State) (ns d : Nat) : Bool :=
  decide (ns * 65536 < d * s.plate.minPeriods.getD (plateMajor s.plate.header) 0)
/-- The phase left of a slot, 48.16. -/
def slotLeft (s : State) (w : List Word) : Nat := slEnd w - majorPhase s

/-! Choosing (R523, R525, R530, R756). -/

/-- What decides the order between two commands that wait for one unit. -/
structure Bid where
  cls : Nat
  /-- ns to its deadline. -/
  deadline : Option Nat
  vtime : Rat
  slot : Nat
  sq : Nat
  seq : Nat

/-- Whether bid `a` goes before bid `b`. -/
def bidBefore (a b : Bid) : Bool :=
  if a.cls ≠ b.cls then decide (b.cls < a.cls)
  else if a.cls = 2 then
    match a.deadline, b.deadline with
    | some x, some y => decide (x < y) || (x == y && decide (a.seq < b.seq))
    | some _, none => true
    | none, some _ => false
    | none, none => decide (a.seq < b.seq)
  else if a.vtime ≠ b.vtime then decide (a.vtime < b.vtime)
  else if a.slot ≠ b.slot then decide (a.slot < b.slot)
  else if a.sq ≠ b.sq then decide (a.sq < b.sq)
  else decide (a.seq < b.seq)

/-- The first of a list of bids. -/
def bestBid {α : Type} : List (Bid × α) → Option α
  | [] => none
  | x :: xs => some (xs.foldl (fun m y => if bidBefore y.1 m.1 then y else m) x).2

/-- The bid of a command. -/
def bidOf (s : State) (cls : Nat) (deadline : Option PhaseValue) (session : Option Word) (sq seq : Nat) : Bid :=
  let x := session.bind (findSession s)
  { cls := cls, deadline := deadline.map (timeUntil s),
    vtime := match x with | some x => x.vtime | none => 0,
    slot := match session with | some i => fld i 15 0 | none => 0,
    sq := sq, seq := seq }

/-- Whether every unit that a partition holds is ON (R658). -/
def partUnitsOn (s : State) (p : Nat) : Bool :=
  let e := partEntry s p
  (List.range (peSize e)).all (fun i => match s.field.map[peFirst e + i]? with
    | some (.phys n) => unitReady s (0x10000 + n)
    | _ => true)
  && (List.range 9).all (fun n => !peHasEngine e n || (s.solver.remap.any (fun r => r.1 == n)) || unitReady s (0x20000 + n))
  && (List.range 16).all (fun i => !peHasSlice e i || unitOn s.power.slices i)

/-- Whether an admitted HARD command of the partition waits to start (R525). -/
def hardWaits (s : State) (p : Nat) : Bool := s.plate.admitted.any (fun a => a.part == p && a.started.isNone)

/-- When the step that a partition's serving loop runs began: from the start of its first route to the end of its last the step is
one unit of work (R472, R499). -/
def stepBegun (s : State) (p : Nat) : Option Nat := (s.loops.find? (fun l => l.part == p)).bind (·.begun)

/-- Whether a command or a serving step that started before `t` still runs in a partition: it has overrun its slot when another
began at `t` (R521). -/
def runsSince (s : State) (p t : Nat) : Bool :=
  (match (getPart s p).run with | some r => decide (r.start < t) | none => false)
  || (match stepBegun s p with | some b => decide (b < t) | none => false)
  || s.solver.engines.any (fun e => match e.run with | some r => r.job.part == p && decide (r.start < t) | none => false)

/-- Whether a self-test quantum occupies a unit that a command of the partition would use (R544): its sectors and slices,
and the engine named. -/
def partTesting (s : State) (p : Nat) (engine : Option Nat) : Bool :=
  let e := partEntry s p
  let on := fun (l : List UnitTest) i => (l.getD i UnitTest.zero).running
  (match engine with
   | some n => on s.plate.engineTests n
   | none => (List.range (peSize e)).any (fun i => match s.field.map[peFirst e + i]? with
      | some (.phys n) => on s.plate.sectorTests n
      | _ => false))
  || (List.range 16).any (fun i => peHasSlice e i && on s.plate.sliceTests i)

/-- Whether a command may start in its partition now (R518–R525): `use` is the slot use it needs (0 QUEUE, 1 BATCH,
2 STEP), `bound` its worst-case bound in ns, `engine` the engine it needs. -/
def mayStart (s : State) (p cls use sq bound : Nat) (engine : Option Nat) : Bool :=
  let e := partEntry s p
  peValid e && partUnitsOn s p && !partTesting s p engine &&
  (match peMode e with
   | 0 => match openSlot s p with
     | none => false
     | some w =>
       !runsSince s p (getPart s p).since && slUse w == use && (use != 0 || slClass w == cls) && (slOwner w == 0x3FFFF || slOwner w == sq)
       && (match engine with | some n => slHasEngine w n | none => true)
       && endsBefore s bound (slotLeft s w)
   | 1 => cls == 2 || !hardWaits s p
   | _ => true)

/-- Whether HARD work of a partition may displace what it runs (R521, R524): a STATIC_WCET partition whose policy is SPILL. -/
def spillsFor (s : State) (p cls : Nat) : Bool := cls == 2 && peSpill (partEntry s p) && peMode (partEntry s p) == 1

/-- Whether a route may start now: like any command while no step of the serving loop has begun; of a begun step the next route
goes on, unless HARD work that waits displaces the step, and no other route starts (R472, R499). -/
def routeMayStart (s : State) (p cls use sq bound : Nat) (k : CmdKey) : Bool :=
  match stepBegun s p with
  | none => mayStart s p cls use sq bound none
  | some _ =>
    if k.src = .firmware then
      peValid (partEntry s p) && partUnitsOn s p && !partTesting s p none && !(hardWaits s p && spillsFor s p 2)
    else spillsFor s p cls && mayStart s p cls use sq bound none

/-! Admission (R522–R525). -/

/-- The LPDDR bandwidth of a profile in tenths of GB/s (R650), and what reservations may take of it (R508, R652, R654). -/
def profileRate (st : Nat) : Nat := if st = 3 then 2048 else if st = 4 then 4096 else 5460
def profileGbs (st : Nat) : Nat := if st = 3 then 163 else if st = 4 then 327 else 436

/-- The spill-out bound of R535 for the whole scratchpad and share, in ns, at the bandwidth of the profile in force (R652);
beyond every deadline where the reservations leave none. -/
def spillBound (s : State) (p : Nat) : Nat :=
  let e := partEntry s p
  let others := ((List.range 16).filter (fun q => q != p && peValid (partEntry s q))).foldl (fun n q => n + peRtGbs (partEntry s q)) 0
  let avail := profileRate s.power.profile - 10 * (fld (wat s.plate.header 6) 9 0 + others)
  if avail = 0 then 2 ^ 64
  else (10 * (peSize e * 786432 + peSliceCount e * sliceBytes) + avail - 1) / avail + 14000

/-- wait_limit_us of a partition: a PARAM_WRITE's value overrides the Plate's (R88, R524, R525). -/
def partWaitLimit (s : State) (p : Nat) : Nat := (getPart s p).override.waitLimit.getD (peWaitLimit (partEntry s p))

/-- The blocking term B of R524, in ns. -/
def blocking (s : State) (p : Nat) : Nat :=
  let e := partEntry s p
  max (if peSpill e then spillBound s p else partWaitLimit s p * 1000) 50000

/-- Insert an admitted command in deadline order. -/
def insertAdmitted (s : State) (a : Admitted) : List Admitted → List Admitted
  | [] => [a]
  | x :: xs => if timeUntil s a.deadline < timeUntil s x.deadline then a :: x :: xs else x :: insertAdmitted s a xs

/-- The test of R523 over the commands not yet started, in deadline order, with `base` = B + R_run. -/
def admitTest (s : State) : Nat → List Admitted → Bool
  | _, [] => true
  | acc, a :: rest =>
    let acc := acc + a.bound + 4000
    decide (acc ≤ timeUntil s a.deadline) && admitTest s acc rest

/-- The remaining bound of the running HARD command (R523). -/
def runningBound (s : State) (l : List Admitted) : Nat :=
  l.foldl (fun n a => match a.started with | some t => max n (a.bound - (now s - t)) | none => n) 0

/-- Whether a partition of 1–4 sectors holds a serving loop (R524). -/
def loopJob (s : State) (p : Nat) : Bool := decide (peSize (partEntry s p) ≤ 4) && s.loops.any (fun l => l.part == p)

/-- The command that a solve belongs to: its own, or its batch's. -/
def jobKey (o : SolveFor) : CmdKey :=
  match o with
  | .command c => c.key
  | .scenario b _ => b
  | .stop b => b

/-- Whether the scenarios of a batch have begun to run. -/
def batchBegun (s : State) (b : Batch) : Bool :=
  b.scenarios.any (fun x => x.status.isSome)
  || s.solver.engines.any (fun e => match e.run with | some r => jobKey r.job.owner == b.cmd.key | none => false)

/-- Whether no other job holds a partition (R499, R534): in one of 1, 2 or 4 sectors a serving loop, a command of the Field, a solve or
a batch is a job that holds it until it ends; a HARD command of a SPILL partition spills the Field's. -/
def jobFree (s : State) (p cls : Nat) (k : CmdKey) : Bool :=
  let e := partEntry s p
  let spills := cls == 2 && peSpill e
  let x := getPart s p
  decide (4 < peSize e) ||
  ((!loopJob s p || k.src == .firmware || spills)
   && (match x.run with | some r => r.job.cmd.key == k | none => true) && (x.spilled.isNone || spills) && x.fenced.isNone
   && s.solver.engines.all (fun y => match y.run with | some r => r.job.part != p || jobKey r.job.owner == k | none => true)
   && s.solver.batches.all (fun b => b.part != p || b.cmd.key == k || !batchBegun s b))

/-- Admission of a command of partition `p` (R522–R525). -/
def admitHard (s : State) (c : Cmd) (p cls bound : Nat) : Except Status State :=
  let e := partEntry s p
  if peMode e ≠ 1 then .ok s
  else if cls = 2 then
    match c.deadline with
    | none => .error stBAD_DESCRIPTOR
    | some d =>
      if !peSpill e && loopJob s p then .error stNO_RESOURCE
      else
        let mine := s.plate.admitted.filter (fun a => a.part == p)
        let a : Admitted := { key := c.key, part := p, bound := bound, deadline := d, started := none }
        let waiting := insertAdmitted s a (mine.filter (fun a => a.started.isNone))
        if !pvIsGtc d && s.plate.minPeriods.getD (pvSource d) 0 == 0 then .error stNO_RESOURCE
        else if admitTest s (blocking s p + runningBound s mine) waiting then
          .ok { s with plate := { s.plate with admitted := s.plate.admitted ++ [a] } }
        else .error stNO_RESOURCE
  else if !peSpill e && decide (partWaitLimit s p * 1000 < bound) then .error stNO_RESOURCE
  else .ok s

/-- An admitted command starts, or leaves. -/
def admittedStart (s : State) (k : CmdKey) : State :=
  { s with plate := { s.plate with admitted := s.plate.admitted.map (fun a =>
      if a.key == k && a.started.isNone then { a with started := some (now s) } else a) } }
def admittedEnd (s : State) (k : CmdKey) : State :=
  { s with plate := { s.plate with admitted := s.plate.admitted.filter (fun a => a.key != k) } }

/-- Admission checked, with the refusal counted (R532). -/
def admitOr (s : State) (c : Cmd) (p cls bound : Nat) (k : State → State) : State :=
  match admitHard s c p cls bound with
  | .error st => if st = stNO_RESOURCE then refuseAdmission s c st else done s c st
  | .ok s1 => k s1

/-! Shares (R531, R532). -/

/-- Charge a session for a unit's Field or solver time, in unit-ns: its V rises by the time over its weight. -/
def chargeTime (s : State) (session : Option Word) (field solver : Nat) : State :=
  match session with
  | none => s
  | some id => modSession s id (fun x => { x with
      vtime := x.vtime + (field + solver : Nat) / (max 1 x.share.toNat : Nat),
      counters := { x.counters with
        fieldSectorNs := min (x.counters.fieldSectorNs + field) (2 ^ 64 - 1),
        solverEngineNs := min (x.counters.solverEngineNs + solver) (2 ^ 64 - 1) } })

/-- The sessions with an eligible or running unit in a partition (R531). -/
def sessionsIn (s : State) (p : Nat) : List Word :=
  let routes := let x := getPart s p
    x.waiting.map (·.session) ++ (x.run.toList ++ x.spilled.toList ++ x.fenced.toList).map (·.job.session)
  let solves := s.solver.engines.flatMap (fun e =>
    (e.waiting ++ (match e.run with | some r => [r.job] | none => [])).filterMap (fun w => if w.part = p then w.session else none))
  let loops := (s.loops.filter (fun l => l.part == p && (loopJob s p || l.stage.isSome))).map (·.session)
  routes ++ solves ++ loops

/-- A session gains its first eligible unit in a partition: its V rises to the lowest V there (R531). -/
def levelShare (s : State) (p : Nat) (session : Option Word) : State :=
  match session with
  | none => s
  | some id =>
    let l := sessionsIn s p
    if l.contains id then s
    else
      match (l.filterMap (findSession s)).map (·.vtime) with
      | [] => s
      | v :: vs => let m := vs.foldl (fun a b => if b < a then b else a) v
        modSession s id (fun x => { x with vtime := if x.vtime < m then m else x.vtime })

end Sys2Proof.Machine
end

