-- ==== Sys2Proof/Machine/PlateImage.lean ====
section
/-!
DEFINITION. Machine/PlateImage.lean: Plate images (R501–R509): their parts, the checks at load and the checks of a swap
or a start (R514, R515).
-/
namespace Sys2Proof.Machine

def plHeader (b : Bytes) : List Word := toWords 32 b
def plLength (b : Bytes) : Nat := (wordAt b 1).toNat
def plSlotCount (b : Bytes) : Nat := fld (wordAt b 3) 12 0
def plMapCount (b : Bytes) : Nat := fld (wordAt b 4) 20 16
def plMajor (b : Bytes) : Nat := fld (wordAt b 4) 2 0
def plMajorLen (b : Bytes) : Nat := fld (wordAt b 5) 15 0
def plInterval (b : Bytes) : Nat := fld (wordAt b 6) 31 16
def plIngress (b : Bytes) : Nat := fld (wordAt b 6) 9 0
/-- The phase-source block of source `n`, 8 words, and its min_period_ns (R503). -/
def plSource (b : Bytes) (n : Nat) : List Word := toWords 8 (slice b (128 + 40 * n) 32)
def plMinPeriod (b : Bytes) (n : Nat) : Nat := numAt b (128 + 40 * n + 32) 4
def plEntry (b : Bytes) (n : Nat) : List Word := toWords 16 (slice b (448 + 64 * n) 64)
def plGroup (b : Bytes) (n : Nat) : List Word := toWords 4 (slice b (1472 + 16 * n) 16)
def plMap (b : Bytes) (n : Nat) : Bytes := slice b (1728 + 512 * n) 512
def plSlot (b : Bytes) (i : Nat) : List Word := toWords 8 (slice b (1728 + 512 * plMapCount b + 32 * i) 32)
def plSlots (b : Bytes) : List (List Word) := (List.range (plSlotCount b)).map (plSlot b)
def plPart (b : Bytes) (n : Nat) : PlatePart where
  entry := plEntry b n
  slots := (plSlots b).filter (fun w => slPart w == n)
  maps := (List.range (plMapCount b)).map (plMap b)

/-- The channels of a plan-group entry (R505). -/
def groupChannels (g : List Word) : List Nat :=
  if wbit (wat g 3) 31 then (List.range 96).filter (fun c => wbit (wat g (c / 32)) (c % 32)) else []

/-- A partition entry within R504 and its alignment rules. -/
def entryOk (maps : Nat) (e : List Word) : Bool :=
  if !peValid e then e.all (· == 0)
  else
    let n := peSliceCount e
    withinMasks e [mask 31 12, mask 30 16 ||| mask 8 0, mask 20 16 ||| mask 3 0, mask 25 16 ||| mask 2 0, mAll]
    && decide (peMode e ≤ 2) && decide (peSizeLog2 e ≤ 4) && peFirst e % peSize e == 0
    && decide (peSpdMode e ≤ 2) && (decide (peMapIndex e < maps) || peMapIndex e == 0x1F)
    && [0, 1, 2, 4, 8, 16].contains n && (if n = 0 then peFirstSlice e == 0 else peFirstSlice e % n == 0)
    && (if peSpill e then peWaitLimit e == 0 else inRange 1 1000000 (peWaitLimit e))

/-- Whether two entries share a sector, an engine or a slice (R497). -/
def entriesClash (a b : List Word) : Bool :=
  peValid a && peValid b &&
  (overlaps (peFirst a) (peSize a) (peFirst b) (peSize b)
   || Nat.land (peEngines a) (peEngines b) != 0
   || overlaps (peFirstSlice a) (peSliceCount a) (peFirstSlice b) (peSliceCount b))

/-- Whether a list of entries keeps R497. -/
def entriesApart : List (List Word) → Bool
  | [] => true
  | e :: es => es.all (fun x => !entriesClash e x) && entriesApart es

/-- Whether a partition's slots include a HARD or SAFETY one. -/
def hasHardSlot (slots : List (List Word)) : Bool := slots.any (fun w => decide (2 ≤ slClass w))

/-- A slot within R506 and R507, in a partition with entry `e`. -/
def slotOk (len : Nat) (e w : List Word) : Bool :=
  let u := slUse w
  let k := slClass w
  let endCount := slEnd w / 65536
  withinMasks w [mask 31 23 ||| mask 17 0, mAll, mAll, mask 22 16 ||| mask 8 0]
  && peValid e && peMode e == 0
  && decide (slStart w / 65536 < len) && decide (slEnd w ≤ len * 65536) && decide (slStart w < slEnd w)
  && (endCount != len || slEnd w % 65536 == 0)
  && (match u with
      | 0 => decide (k ≤ 2)
      | 1 => k == 2
      | 2 => k == 1 || k == 2
      | 3 => k == 3
      | 4 => k == 0 && slOwner w == 0 && slBudget w == 0 && slEngines w == 0
      | _ => false)
  && (if u = 1 then inRange 1 64 (slBudget w) else slBudget w == 0)
  && (u != 3 || slEngines w == 0)
  && Nat.land (slEngines w) (peEngines e) == slEngines w

/-- No two slots but CHECK slots of one partition overlap (R507). -/
def slotsApart : List (List Word) → Bool
  | [] => true
  | w :: ws => ws.all (fun x => slUse w == 3 || slUse x == 3 || slPart w != slPart x
      || !overlaps (slStart w) (slEnd w - slStart w) (slStart x) (slEnd x - slStart x)) && slotsApart ws

/-- No channel lies in two groups (R505). -/
def groupsApart : List (List Word) → Bool
  | [] => true
  | g :: gs => gs.all (fun x => (groupChannels g).all (fun c => !(groupChannels x).contains c)) && groupsApart gs

/-- The checks of R508 on a partition's mode. -/
def modeOk (e : List Word) (slots : List (List Word)) : Bool :=
  (peMode e == 0 || slots.isEmpty)
  && (peMode e != 2 || (peRtGbs e == 0 && !peQos e 0))
  && ((peMode e != 1 && !hasHardSlot slots) || peSpdMode e != 0)

/-- Every check of R508; `gbs` is the bandwidth that reservations may take (R652). -/
def plateOk (gbs : Nat) (b : Bytes) : Bool :=
  let h := plHeader b
  let entries := (List.range 16).map (plEntry b)
  let slots := plSlots b
  let groups := (List.range 16).map (plGroup b)
  let of := fun n => slots.filter (fun w => slPart w == n)
  decide (1728 ≤ b.length) && fld (wat h 0) 31 24 == 1
  && withinMasks h [mask 31 24 ||| mask 15 0, mAll, mAll, mask 12 0, mask 20 16 ||| mask 2 0, mask 15 0, mask 31 16 ||| mask 9 0]
  && decide (plSlotCount b ≤ 4096) && decide (plMapCount b ≤ 16)
  && plLength b == 1728 + 512 * plMapCount b + 32 * plSlotCount b && plLength b == b.length
  && crc32c (b.take 8 ++ List.replicate 4 0 ++ b.drop 12) == wat h 2
  && inRange 10 1000 (plInterval b)
  && (plMajorLen b != 0 || entries.all (fun e => !(peValid e && peMode e == 0)))
  && entries.all (entryOk (plMapCount b)) && entriesApart entries
  && (List.range 16).all (fun n => modeOk (plEntry b n) (of n))
  && (!hasHardSlot slots || psType (plSource b (plMajor b)) == 4)
  && plMinPeriod b (plMajor b) != 0
  && slots.all (fun w => slotOk (plMajorLen b) (plEntry b (slPart w)) w) && slotsApart slots
  && decide (plIngress b + entries.foldl (fun n e => n + peRtGbs e) 0 ≤ gbs)
  && groups.all (fun g => withinMasks g [mAll, mAll, mAll, mask 31 31]) && groupsApart groups
  && (List.range 8).all (fun n => psBlockOk (plSource b n) && numAt b (128 + 40 * n + 36) 4 == 0)

/-- The ownership limits of the protection set (R509). -/
def plateAllowed (s : State) (b : Bytes) : Bool :=
  decide (plInterval b ≤ protSelftestLimit s)
  && (List.range 16).all (fun n =>
    let e := plEntry b n
    let p := protWord s (0x200 + 4 * n)
    !peValid e || (wbit p 31 && decide (peSizeLog2 e ≤ fld p 30 28)
      && Nat.land (peEngines e) (fld p 8 0) == peEngines e))

/-! Swaps and starts. -/

/-- The partitions that the PLATE_SWAP actions of an etch name. -/
def swapParts (acts : List EtchAction) : List Nat := (acts.filter (fun x => x.typ == 4)).map (·.index)

/-- The image behind the PLATE_SWAP actions of an etch; none when they name none. -/
def swapImage (s : State) (acts : List EtchAction) : Option Bytes :=
  match acts.find? (fun x => x.typ == 4) with
  | none => none
  | some x => (s.plate.loaded.find? (fun l => l.1 == actValue x)).map (·.2)

/-- Whether a count of major_source is a Plate boundary of the running Plate (R512). -/
def isBoundary (s : State) (count : Nat) : Bool :=
  let len := majorLen s
  let d := (count + 2 ^ 48 - s.plate.origin % 2 ^ 48) % 2 ^ 48
  len != 0 && decide (d < 2 ^ 47) && d % len == 0

/-- The header fields that R514 compares, with the plan-group table. -/
def headerSame (s : State) (b : Bytes) : Bool :=
  let h := s.plate.header
  plMajor b == plateMajor h && plMajorLen b == fld (wat h 5) 15 0 && plInterval b == fld (wat h 6) 31 16
  && plIngress b == fld (wat h 6) 9 0 && (List.range 16).map (plGroup b) == s.plate.groups

/-- The entries that a swap leaves (R513). -/
def entriesAfter (s : State) (b : Bytes) (named : List Nat) : List (List Word) :=
  (List.range 16).map (fun n => if named.contains n then plEntry b n else partEntry s n)

/-- The form and handles of PLATE_SWAP actions (R514). While the default Plate runs, whose boundaries are GTC ticks, no
phase-form point lies on one. -/
def swapFormOk (s : State) (h : EtchHeader) (acts : List EtchAction) : Bool :=
  let named := swapParts acts
  if named.isEmpty then true
  else match swapImage s acts with
    | none => false
    | some b =>
      ((acts.filter (fun x => x.typ == 4)).map actValue).eraseDups.length == 1
      && !pvIsGtc h.commitPoint && pvSource h.commitPoint == plMajor b && pvPhase h.commitPoint % 65536 == 0
      && !s.plate.isDefault && plateMajor s.plate.header == plMajor b && isBoundary s (pvPhase h.commitPoint / 65536)
      && (headerSame s b ||
          (List.range 16).all (fun n => (!peValid (plEntry b n) && !peValid (partEntry s n)) || named.contains n))
      && entriesApart (entriesAfter s b named)

/-- Whether a partition holds a serving loop. -/
def hasLoop (s : State) (p : Nat) : Bool := s.loops.any (fun l => l.part == p)

/-- A logical sector that no physical sector stands for. -/
def sectorAbsent (s : State) (n : Nat) : Bool :=
  match s.field.map[n]? with | some .absent => true | some _ => false | none => true

/-- The bytes of spill areas that a list of entries needs (R537). -/
def spillBytes (es : List (List Word)) : Nat :=
  es.foldl (fun n e => if peValid e && peSpill e then n + peSize e * 786432 + peSliceCount e * sliceBytes else n) 0

/-- LPDDR bytes that nothing holds, check bytes counted (R415). -/
def lpddrFree (s : State) : Nat :=
  lpddrBytes - lpddrHeld s
    - s.plate.spills.foldl (fun n x => n + x.2) 0

/-- Grants that a Plate may not make (R515): an absent sector, or an engine that is failed, retired or the spare. -/
def grantsOk (s : State) (e : List Word) : Bool :=
  !peValid e ||
  ((List.range (peSize e)).all (fun i => !sectorAbsent s (peFirst e + i))
   && (List.range 9).all (fun n => !peHasEngine e n || (getEngine s n).mode == .active))

/-- Whether a swap leaves a fenced slice in any share (R623). -/
def keepsFenced (s : State) (b : Bytes) (named : List Nat) : Bool :=
  (entriesAfter s b named).any (fun e => peValid e &&
    (List.range 16).any (fun i => peHasSlice e i && s.power.fenced.getD i false))

/-- The checks of R515 on the entries, slots and groups that a swap or a start leaves; `valid` is the count_valid of each
source. -/
def plateResources (s : State) (b : Bytes) (named : List Nat) (valid : Nat → Bool) : Option Status :=
  let after := entriesAfter s b named
  let groupsChange := (List.range 16).filter (fun g => groupChannels (plGroup b g) != groupChannels (s.plate.groups.getD g []))
  let slices := fun (e : List Word) i => peHasSlice e i
  if !(named.all (fun n => grantsOk s (plEntry b n))) then some stNO_RESOURCE
  else if named.any (fun n => hasLoop s n &&
      (!peValid (plEntry b n) || peSize (plEntry b n) != peSize (partEntry s n)))
    then some stNO_RESOURCE
  else if named.any (fun n => (List.range 16).any (fun i => slices (partEntry s n) i && !slices (plEntry b n) i &&
      s.cmds.allocs.any (fun a => (slicesOf s a.addr a.bytes).contains i))) then some stNO_RESOURCE
  else if lpddrFree s + s.plate.spills.foldl (fun n x => n + x.2) 0 < spillBytes after then some stNO_RESOURCE
  else if groupsChange.any (fun g =>
      (groupChannels (plGroup b g) ++ groupChannels (s.plate.groups.getD g [])).any (fun c =>
        (s.servo.channels.getD c Channel.reset).st != .disabled))
    then some stPROTECTION
  else if (plSlots b).any (fun w => named.contains (slPart w)) && !valid (plMajor b) then some stNO_RESOURCE
  else none

end Sys2Proof.Machine
end

