-- ==== Sys2Proof/Machine/RouteProg.lean ====
section
/-!
DEFINITION. Machine/RouteProg.lean: route programs (R338, R349–R356): their parts, the checks at load, the tiles of each
sector, and the scratchpad ports that a route uses (R384).
-/
namespace Sys2Proof.Machine

def rpStations (b : Bytes) : Nat := fld (wordAt b 0) 23 16
def rpQueues (b : Bytes) : Nat := fld (wordAt b 0) 15 8
def rpOperands (b : Bytes) : Nat := fld (wordAt b 0) 7 0
def rpStoch (b : Bytes) : Bool := wbit (wordAt b 3) 9
def rpAdapter (b : Bytes) : Bool := wbit (wordAt b 3) 8
def rpSizes (b : Bytes) : Nat := fld (wordAt b 3) 4 0
def rpLength (b : Bytes) : Nat := (wordAt b 1).toNat
/-- grid_rows and grid_cols: those of the header, or, for an ATTEND route in progress, those of its items, which
`withGrid` adds behind the program (R349, R427). -/
def rpRows (b : Bytes) : Nat := if rpLength b < b.length then numAt b (rpLength b) 4 else fld (wordAt b 4) 31 16
def rpCols (b : Bytes) : Nat := if rpLength b < b.length then numAt b (rpLength b + 4) 4 else fld (wordAt b 4) 15 0
def withGrid (b : Bytes) (rows cols : Nat) : Bytes := b.take (rpLength b) ++ leBytes 4 rows ++ leBytes 4 cols
def rpSplit (b : Bytes) : Nat := fld (wordAt b 5) 31 24
def rpSteps (b : Bytes) : Nat := fld (wordAt b 5) 15 0
def rpSeed (b : Bytes) : Word := wordAt b 6
def rpScratch (b : Bytes) : Nat := (wordAt b 7).toNat
def rpFixed (b : Bytes) : Nat := (wordAt b 8).toNat
def rpPerTile (b : Bytes) : Nat := (wordAt b 9).toNat
/-- stall_limit_us, in ns; 0 means 1,000 µs (R349, R357). -/
def rpStallNs (b : Bytes) : Nat := 1000 * (if fld (wordAt b 10) 15 0 = 0 then 1000 else fld (wordAt b 10) 15 0)

/-- A station entry (R350). -/
structure Station where
  typ : Nat
  op : Nat
  inFmt : Nat
  outFmt : Nat
  q0 : Nat
  q1 : Nat
  out : Nat
  operand : Nat
  /-- The eight words of the entry. -/
  words : List Word

def rpStation (b : Bytes) (i : Nat) : Station :=
  let ws := toWords 8 (slice b (128 + 32 * i) 32)
  let w := wat ws
  { typ := fld (w 0) 31 28, op := fld (w 0) 27 24, inFmt := fld (w 0) 23 16, outFmt := fld (w 0) 15 8,
    q0 := fld (w 1) 31 24, q1 := fld (w 1) 23 16, out := fld (w 1) 15 8, operand := fld (w 1) 7 0, words := ws }

def rpAll (b : Bytes) : List Station := (List.range (rpStations b)).map (rpStation b)

/-- A queue entry (R353). -/
structure Queue where
  rows : Nat
  cols : Nat
  fmt : Nat
  depth : Nat
  base : Nat

def rpQueueWords (b : Bytes) (i : Nat) : List Word := toWords 4 (slice b (128 + 32 * rpStations b + 16 * i) 16)

def rpQueue (b : Bytes) (i : Nat) : Queue :=
  let w := wat (rpQueueWords b i)
  { rows := fld (w 0) 31 16, cols := fld (w 0) 15 0, fmt := fld (w 1) 31 24, depth := fld (w 1) 23 20, base := (w 2).toNat }

def rpOperandWords (b : Bytes) (i : Nat) : List Word :=
  toWords 4 (slice b (128 + 32 * rpStations b + 16 * (rpQueues b + i)) 16)

/-- Role of an operand (R354): 0 INPUT, 1 OUTPUT, 2 ACCUM, 3 INDEX, 4 PAGES. -/
def rpRole (b : Bytes) (i : Nat) : Nat := fld (wat (rpOperandWords b i) 0) 31 28
def rpOpFmt (b : Bytes) (i : Nat) : Nat := fld (wat (rpOperandWords b i) 0) 27 20
def rpNeedRows (b : Bytes) (i : Nat) : Nat := (wat (rpOperandWords b i) 1).toNat
def rpNeedCols (b : Bytes) (i : Nat) : Nat := (wat (rpOperandWords b i) 2).toNat

/-- Scratchpad words of a tile (R353). -/
def tileWords (q : Queue) : Nat := (q.rows * q.cols * fmtBits q.fmt + 31) / 32

/-- The operand families of MATRIX (R174): FP8, MXFP4, INT8, 16-bit. -/
def fmtFamily (f : Nat) : Nat :=
  match f with
  | 4 => 1
  | 5 => 1
  | 6 => 2
  | 7 => 3
  | 2 => 4
  | 3 => 4
  | _ => 0

/-- Whether a MAP station reads or writes a format (R174): every Field format but INT4. -/
def mapFmt (f : Nat) : Bool := inRange 1 9 f

/-- The formats that a station may read and write (R174). The input format of LOAD and the output format of a station without an
output queue name nothing that a unit reads or writes: any code of R352 that a queue can have stands there, or none. -/
def stationFmtOk (st : Station) : Bool :=
  match st.typ with
  | 1 => inRange 1 9 st.outFmt && decide (st.inFmt ≤ 9)
  | 2 => (st.inFmt == 8 || st.inFmt == 9) && inRange 1 9 st.outFmt
  | 3 => fmtFamily st.inFmt != 0 && st.outFmt == 1
  | 4 =>
    match st.op with
    | 0 => [2, 3, 4, 5, 7].contains st.inFmt && decide (st.outFmt ≤ 9)
    | 1 => [2, 3, 4, 5, 7].contains st.inFmt && mapFmt st.outFmt
    | _ => st.inFmt == 1 && st.outFmt == 1
  | 5 => mapFmt st.inFmt && mapFmt st.outFmt
  | 6 => (st.inFmt == 1 || st.inFmt == 8) && (if st.op = 3 ∨ st.op = 4 then st.outFmt == 8 else st.outFmt == st.inFmt)
  | 7 => (st.inFmt == 1 || st.inFmt == 8) && st.outFmt == st.inFmt
  | 8 => [1, 8, 9].contains st.inFmt && st.outFmt == st.inFmt
  | 9 => st.inFmt == 9 && st.outFmt == 9
  | 10 => (st.inFmt == 1 || st.inFmt == 8) && decide (st.outFmt ≤ 9)
  | 11 => inRange 1 9 st.inFmt && decide (st.outFmt ≤ 9)
  | _ => false

/-- The highest operation code of a station; ATTEND's belong to R426. -/
def stationMaxOp (ty : Nat) : Nat :=
  match ty with
  | 4 => 2
  | 6 => 5
  | 7 => 2
  | 8 => 2
  | 9 => 2
  | 10 => 3
  | _ => 0

/-- The bits of words 2–7 to which R351 and R443 give a meaning. -/
def stationMasks (ty op : Nat) : List Word :=
  match ty with
  | 1 => [0xFFFFFFFF]
  | 11 => [0xFFFFFFFF]
  | 2 => [mask 15 0]
  | 4 => [0xFFFFFFFC, 0xFFFFFFFF, 0xFFFFFFFF, mask 31 23 ||| mask 7 0]
  | 5 => [0xFFFFFFFF, 0xFFFFFFFF, 0xFFFFFFFF, 0xFFFFFFFF]
  | 6 => [mask 1 0]
  | 8 => [if op = 2 then mask 24 16 ||| 1 else 1]
  | 9 => [1]
  | 10 => [mask 15 0]
  | _ => []

/-- Tile map of LOAD and STORE (R351). -/
def stMap (st : Station) : Nat := fld (wat st.words 2) 1 0

/-- Rows and columns of a LOAD or STORE tile in its operand (R351). The tile map shares bits [1:0] with the columns, whose two low bits
are taken as 0; a count of 0 stands for the queue's own (DEDUCED, log entry 19). -/
def stTile (st : Station) (q : Queue) : Nat × Nat :=
  let r := fld (wat st.words 2) 31 16
  let c := 4 * fld (wat st.words 2) 15 2
  (if r = 0 then q.rows else r, if c = 0 then q.cols else c)

/-- The queues that a station type uses: inputs and output. -/
def stationQueuesOk (st : Station) : Bool :=
  let none8 := 0xFF
  match st.typ with
  | 1 => st.q0 == none8 && st.q1 == none8 && st.out != none8 && st.operand != none8
  | 2 => st.q0 != none8 && st.q1 == none8 && st.out != none8 && st.operand != none8
  | 3 => st.q0 != none8 && st.q1 != none8 && st.out != none8 && st.operand == none8
  | 4 => st.q0 != none8 && (st.q1 == none8) == (st.op == 1) && (st.out == none8) == (st.op == 0) && st.operand != none8
  | 5 => st.q0 != none8 && st.out != none8 && st.operand == none8
  | 6 => st.q0 != none8 && st.q1 == none8 && st.out != none8 && st.operand == none8
  | 7 => st.q0 != none8 && st.q1 != none8 && st.out != none8 && st.operand == none8
  | 8 => st.q0 != none8 && (st.q1 != none8) == (st.op == 1) && st.out != none8 && st.operand == none8
  | 9 => st.q0 != none8 && st.q1 != none8 && st.out != none8 && st.operand == none8
  | 10 => st.q0 != none8 && st.q1 != none8 && st.out == none8 && st.operand != none8
  | 11 => st.q0 != none8 && st.q1 == none8 && st.out == none8 && st.operand != none8
  | _ => false

/-- The queues that a station reads and the one that it writes. -/
def stIn (st : Station) : List Nat := [st.q0, st.q1].filter (· != 0xFF)
def stOut (st : Station) : List Nat := [st.out].filter (· != 0xFF)

/-- The MAP operation bytes, up to the end of the list (R341). -/
def mapOps (st : Station) : List Nat :=
  ((leBytes 4 (wat st.words 2).toNat ++ leBytes 4 (wat st.words 3).toNat).map (·.toNat)).takeWhile (· != 0)

/-- Whether a byte is a MAP operation of R341. -/
def mapOpOk (o : Nat) : Bool := inRange 1 0x10 o || inRange 0x20 0x23 o

/-- One station entry within R350–R352. -/
def stationOk (b : Bytes) (st : Station) : Bool :=
  fld (wat st.words 0) 7 0 == 0
  && inRange 1 11 st.typ && decide (st.op ≤ stationMaxOp st.typ) && stationFmtOk st && stationQueuesOk st
  && (stIn st ++ stOut st).all (fun q => decide (q < rpQueues b))
  && (st.operand == 0xFF || decide (st.operand < rpOperands b))
  && (withinMasks (st.words.drop 2) (stationMasks st.typ st.op))
  && (st.typ != 5 || (mapOps st).all mapOpOk)
  && (st.typ != 8 || st.op != 2 || inRange 1 256 (fld (wat st.words 2) 24 16))

/-! ATTEND's fields (R443). -/

def atLayer (st : Station) : Nat := fld (wat st.words 2) 31 24
def atGroup (st : Station) : Nat := fld (wat st.words 2) 23 16
def atKvHeads (st : Station) : Nat := fld (wat st.words 2) 15 13 + 1
def atHq (st : Station) : Nat := fld (wat st.words 2) 12 9 + 1
def atD (st : Station) : Nat := 32 * (fld (wat st.words 2) 8 6 + 1)
def atStats (st : Station) : Bool := wbit (wat st.words 2) 5
def atStrict (st : Station) : Bool := wbit (wat st.words 2) 4
def atMinKey (st : Station) : Nat := fld (wat st.words 2) 3 2
def atScale (st : Station) : Word := wat st.words 3
def atTheta (st : Station) : Word := wat st.words 4
def atHalf (st : Station) : Nat := fld (wat st.words 5) 31 24
def atSplit (st : Station) : Bool := wbit (wat st.words 5) 23
def atAccum (st : Station) : Nat := fld (wat st.words 5) 7 0

/-- Shapes and parameters of an ATTEND station (R440, R443, R444). -/
def attendOk (b : Bytes) (st : Station) : Bool :=
  let d := atD st
  let tile := fun q r c => (rpQueue b q).rows == r && (rpQueue b q).cols == c
  st.typ != 4 ||
  (decide (atKvHeads st * d ≤ 1024)
   && (if (wat st.words 4) = 0 then atHalf st == 0 else inRange 1 (d / 2) (atHalf st))
   && (st.op == 1 || (!atStats st))
   && rpRole b st.operand == 4
   && (match st.op with
       | 0 => tile st.q0 64 d && tile st.q1 64 d && atAccum st == 0xFF
       | 1 => tile st.q0 64 d && atAccum st == 0xFF &&
           (if atStats st then st.outFmt == 1 && decide (d ≤ 224) && tile st.out 64 (d + 2) else tile st.out 64 d)
       | _ => tile st.q0 64 (d + 2) && tile st.q1 64 d && tile st.out 64 d && decide (atAccum st < rpOperands b)
           && rpRole b (atAccum st) == 2)
   && rpSplit b == 1)

/-- The order in which stations can run: those whose input queues are all produced by stations already in the list;
none when the graph has a cycle (R355). -/
def topoOrder (sts : List Station) : Nat → List Nat → Option (List Nat)
  | 0, done => if done.length = sts.length then some done else none
  | f + 1, done =>
    let ready := (List.range sts.length).filter (fun i => !done.contains i &&
      (match sts[i]? with
       | some st => (stIn st).all (fun q => (List.range sts.length).all (fun j => match sts[j]? with
          | some x => !(stOut x).contains q || done.contains j
          | none => true))
       | none => false))
    match ready with
    | [] => if done.length = sts.length then some done else none
    | i :: _ => topoOrder sts f (done ++ [i])

/-- Whether the regions of the queues, at their depths, lie apart and within scratch_words (R355). -/
def queueRegionsOk (b : Bytes) : Bool :=
  let r := (List.range (rpQueues b)).map (fun i => let q := rpQueue b i; (q.base, q.depth * tileWords q))
  r.all (fun x => decide (x.1 + x.2 ≤ rpScratch b))
  && (List.range r.length).all (fun i => (List.range i).all (fun j =>
      !overlaps (r.getD i (0, 0)).1 (r.getD i (0, 0)).2 (r.getD j (0, 0)).1 (r.getD j (0, 0)).2))

/-- The smallest partition size a route may run in. -/
def smallestSize (sizes : Nat) : Nat :=
  match [1, 2, 4, 8, 16].find? (fun n => sizes.testBit (Nat.log2 n)) with | some n => n | none => 0

def rpForCrc (b : Bytes) : Bytes := b.take 8 ++ List.replicate 4 0 ++ b.drop 12

/-- Every check of R355, with the layouts of R349–R354. -/
def routeOk (b : Bytes) : Bool :=
  let sts := rpAll b
  let count := fun ty => (sts.filter (fun x => x.typ == ty)).length
  decide (128 ≤ b.length) && fld (wordAt b 0) 31 24 == 1
  && inRange 1 16 (rpStations b) && inRange 1 24 (rpQueues b) && inRange 1 16 (rpOperands b)
  && (wordAt b 1).toNat == b.length && b.length == 128 + 32 * rpStations b + 16 * (rpQueues b + rpOperands b)
  && crc32c (rpForCrc b) == wordAt b 2
  && (wordAt b 3 &&& (mask 31 10 ||| mask 7 5)) == 0 && rpSizes b != 0
  && decide (1 ≤ rpRows b) && decide (1 ≤ rpCols b) && decide (rpRows b * rpCols b ≤ 1048576)
  && [1, 2, 4, 8, 16].contains (rpSplit b) && fld (wordAt b 5) 23 16 == 0
  && (rpStoch b || rpSeed b == 0) && decide (rpScratch b ≤ 196608)
  && fld (wordAt b 10) 31 16 == 0 && (List.range 21).all (fun i => wordAt b (11 + i) == 0)
  && sts.all (stationOk b) && sts.all (attendOk b)
  && decide (count 1 ≤ 4) && decide (count 11 ≤ 2) && [2, 3, 4, 5, 6, 7, 8, 9, 10].all (fun ty => decide (count ty ≤ 1))
  && !(count 6 != 0 && count 7 != 0)
  && (List.range (rpQueues b)).all (fun q =>
      let w := wat (rpQueueWords b q)
      let x := rpQueue b q
      inRange 1 256 x.rows && inRange 1 256 x.cols && inRange 1 9 x.fmt && inRange 2 8 x.depth && fld (w 1) 19 0 == 0 && w 3 == 0
      && (sts.filter (fun s => (stOut s).contains q)).length == 1
      && (sts.filter (fun s => (stIn s).contains q)).length == 1
      && sts.all (fun s => !(stOut s).contains q || s.outFmt == x.fmt)
      && sts.all (fun s => s.q0 != q || s.inFmt == x.fmt || (s.typ == 10 && (x.fmt == 8 || x.fmt == 9)))
      && sts.all (fun s => s.q1 != q || s.typ == 3 || s.inFmt == x.fmt || (s.typ == 7 && (x.fmt == 8 || x.fmt == 9))))
  && (List.range (rpOperands b)).all (fun i =>
      let w := wat (rpOperandWords b i)
      decide (rpRole b i ≤ 4) && (decide (rpOpFmt b i ≤ 9) || (rpOpFmt b i == 10 && rpRole b i == 4)) && fld (w 0) 19 0 == 0 && w 3 == 0)
  && (topoOrder sts sts.length []).isSome
  && sts.all (fun s => s.typ != 3 ||
      (let a := rpQueue b s.q0
       let c := rpQueue b s.q1
       fmtFamily a.fmt != 0 && fmtFamily a.fmt == fmtFamily c.fmt && a.cols == c.rows && a.cols % 32 == 0
       && inRange 32 256 a.cols && decide (a.rows ≤ 128) && decide (c.cols ≤ 128)))
  && queueRegionsOk b
  && smallestSize (rpSizes b) % rpSplit b == 0 && decide (rpSplit b ≤ rpSteps b)
  && (!rpStoch b || rpAdapter b)

/-! The tiles of a sector (R356). -/

def ceilDiv (a b : Nat) : Nat := (a + b - 1) / b

/-- Group, and place within it, of sector `s` of `P`. -/
def groupSize (b : Bytes) (P : Nat) : Nat := P / rpSplit b
def groupOf (b : Bytes) (P s : Nat) : Nat := s / groupSize b P

/-- The first output tile of a sector, and the first of its successor. -/
def tileRange (b : Bytes) (P s : Nat) : Nat × Nat :=
  let n := groupSize b P
  let T := rpRows b * rpCols b
  (ceilDiv (s % n * T) n, ceilDiv ((s % n + 1) * T) n)

def tilesOf (b : Bytes) (P s : Nat) : List Nat :=
  let r := tileRange b P s
  (List.range (r.2 - r.1)).map (r.1 + ·)

/-- The reduction steps of a sector's group. -/
def stepsOf (b : Bytes) (P s : Nat) : List Nat :=
  let g := groupOf b P s
  let lo := ceilDiv (g * rpSteps b) (rpSplit b)
  let hi := ceilDiv ((g + 1) * rpSteps b) (rpSplit b)
  (List.range (hi - lo)).map (lo + ·)

/-- The largest tile count of any sector (R358). -/
def mostTiles (b : Bytes) (P : Nat) : Nat := ceilDiv (rpRows b * rpCols b) (groupSize b P)

/-! Scratchpad ports and modes (R384–R390). -/

/-- The ports that a route uses in a partition of `P` sectors. -/
def portsUsed (b : Bytes) (P : Nat) : List Nat :=
  let has := fun (l : List Nat) => (rpAll b).any (fun s => l.contains s.typ)
  (if has [1, 2, 10, 11] then [0] else []) ++ (if has [3] then [1, 2, 3] else []) ++ (if has [4] then [4, 5, 6] else [])
  ++ (if has [5] then [7, 9] else []) ++ (if (rpAll b).any (fun s => s.typ == 5 && s.q1 != 0xFF) then [8] else [])
  ++ (if has [6, 7] then [10] else []) ++ (if has [8] then [11] else []) ++ (if has [9] then [12] else [])
  ++ [13] ++ (if 1 < P then [14] else [])

/-- The owner of an entry of a slot map (R402). -/
def mapOwner (m : Bytes) (c bank : Nat) : Nat :=
  let x := (byteAt m (32 * c + bank / 2)).toNat
  if bank % 2 = 0 then x % 16 else x / 16

/-- The even map of R390. -/
def evenMap : Bytes :=
  (List.range 512).map (fun i => BitVec.ofNat 8 ((i / 32 + i % 32 * 2) % 16 + 16 * ((i / 32 + i % 32 * 2 + 1) % 16)))

/-- Whether every port of a list owns an entry of every bank (R390). -/
def portsServed (m : Bytes) (ports : List Nat) : Bool :=
  ports.all (fun p => (List.range 64).all (fun bank => (List.range 16).any (fun c => mapOwner m c bank == p)))

end Sys2Proof.Machine
end

