-- ==== Sys2Proof/Machine/FieldCalc.lean ====
section
/-!
DEFINITION. Machine/FieldCalc.lean: what each station computes from its input tiles (R338–R348, R174–R200), ATTEND apart.
-/
namespace Sys2Proof.Machine

/-! Elements. -/

/-- The floating-point format of a code of R352. -/
def fmtOf (f : Nat) : Fmt :=
  match f with
  | 2 => fmtBF16
  | 3 => fmtFP16
  | 4 => fmtE4M3
  | 5 => fmtE5M2
  | _ => fmtFP32

/-- Whether a format is a 32-bit integer. -/
def isIntFmt (f : Nat) : Bool := f == 8 || f == 9

/-- An MXFP4 element, its block's scale above it, in FP32: beyond the FP32 range it overflows (R193). -/
def mxF32 (w : Word) : Flagged Word := toFp32 (mxElem (w.toNat / 16) (w.toNat % 16))

/-- An element up-converted to FP32 (R189); an integer is rounded (R181). -/
def toF32 (f : Nat) (w : Word) : Word :=
  match f with
  | 1 => w
  | 6 => (mxF32 w).val
  | 7 => intToFp32 (toSigned 8 w.toNat)
  | 8 => intToFp32 w.toInt
  | 9 => intToFp32 w.toNat
  | 10 => intToFp32 (toSigned 4 w.toNat)
  | _ => upCvt (fmtOf f) w.toNat

/-- An element as an exact operand of a product (R175). -/
def toFp (f : Nat) (w : Word) : Fp :=
  match f with
  | 6 => mxElem (w.toNat / 16) (w.toNat % 16)
  | 7 => rd32 (toF32 7 w)
  | 8 => rd32 (toF32 8 w)
  | 9 => rd32 (toF32 9 w)
  | 10 => rd32 (toF32 10 w)
  | _ => decodeFp (fmtOf f) w.toNat

/-- FP32 to an element of a format but MXFP4 (R184–R187). UINT32, for which no rule gives the range, saturates to its
own (DEDUCED, log entry 18). -/
def fromF32 (f : Nat) (w : Word) : Flagged Word :=
  let lift := fun (x : Flagged Nat) => (⟨BitVec.ofNat 32 x.val, x.flags⟩ : Flagged Word)
  match f with
  | 2 => lift (cvt16 fmtBF16 w)
  | 3 => lift (cvt16 fmtFP16 w)
  | 4 => lift (cvtE4M3 w)
  | 5 => lift (cvtE5M2 w)
  | 7 => lift (cvtInt 8 w)
  | 8 => lift (cvtInt 32 w)
  | 9 =>
    let x := cvtInt 64 w
    let v := toSigned 64 x.val
    let c := clampI 0 (2 ^ 32 - 1) v
    ⟨BitVec.ofNat 32 c.toNat, if c = v then x.flags else flagSAT⟩
  | _ => plain w

/-! Operands in memory (R348, R363). -/

/-- The element code in row `r`, column `c` of an operand in device memory. -/
def elemAt (m : Mem) (d : Binding) (f r c : Nat) : Word :=
  let bits := fmtBits f
  let a := d.addr + r * d.stride + c * bits / 8
  if bits < 8 then
    let x := (m.dev.get a).toNat
    let code := if c % 2 = 0 then x % 16 else x / 16
    if f = 6 then
      let sc := (m.dev.get (d.aux + r * (d.cols / 32) + c / 32)).toNat
      BitVec.ofNat 32 (sc * 16 + code)
    else BitVec.ofNat 32 code
  else BitVec.ofNat 32 (leNat (m.dev.read a (bits / 8)))

/-- The byte address of an element, for the writes of STORE. -/
def elemAddr (d : Binding) (f r c : Nat) : Nat := d.addr + r * d.stride + c * fmtBits f / 8

/-- The place in its operand of element `(a, b)` of a tile (R348, R351): output tile `(i, j)` of index `t`, reduction
step `k`. An MXFP4 B operand is stored N-major. -/
def tilePlace (map f rows cols opCols i j t k a b : Nat) : Nat × Nat :=
  match map with
  | 0 => (i * rows + a, k * cols + b)
  | 1 => if f = 6 then (j * cols + b, k * rows + a) else (k * rows + a, j * cols + b)
  | 2 => (i * rows + a, j * cols + b)
  | _ => let e := t * rows * cols + a * cols + b; if opCols = 0 then (0, 0) else (e / opCols, e % opCols)

/-- A tile that LOAD brings, of `shape` in its operand: elements outside the operand are 0, and a linear stream ends in a short
tile. -/
def loadTile (m : Mem) (d : Binding) (q : Queue) (shape : Nat × Nat) (map i j t k : Nat) : Tile where
  rows := q.rows
  cols := q.cols
  valid := if map = 3 then min (q.rows * q.cols) (d.rows * d.cols - t * shape.1 * shape.2) else q.rows * q.cols
  elems := (List.range (q.rows * q.cols)).map (fun e =>
    let p := tilePlace map q.fmt shape.1 shape.2 d.cols i j t k (e / shape.2) (e % shape.2)
    if p.1 < d.rows ∧ p.2 < d.cols then elemAt m d q.fmt p.1 p.2 else 0)
  flags := 0
  faults := 0

/-- An element of a tile. -/
def Tile.at (t : Tile) (r c : Nat) : Word := t.elems.getD (r * t.cols + c) 0

/-- The elements of a tile to be processed (R353). -/
def Tile.live (t : Tile) : List Word := t.elems.take t.valid

/-- Words cut into elements of a format, low bits first. -/
def wordElems (f : Nat) (ws : List Word) : List Word :=
  let n := 32 / fmtBits f
  ws.flatMap (fun w => (List.range n).map (fun i => BitVec.ofNat 32 (w.toNat / 2 ^ (i * fmtBits f) % 2 ^ fmtBits f)))

/-- The tile that GATHER emits for an index tile (R346); an MXFP4 table has the scale array of R348. -/
def gatherTile (m : Mem) (d : Binding) (q : Queue) (width : Nat) (x : Tile) : Tile :=
  let per := if fmtBits q.fmt = 0 then 0 else width * (32 / fmtBits q.fmt)
  let rows := x.live.map (fun (i : Word) =>
    if i.toNat < d.rows then
      (if q.fmt = 6 then (List.range per).map (elemAt m d 6 i.toNat)
       else wordElems q.fmt (toWords width (m.dev.read (d.addr + i.toNat * d.stride) (4 * width))), 0)
    else (List.replicate per (0 : Word), if i = 0xFFFFFFFF then 0 else 1))
  let es := (rows.flatMap (·.1)).take (q.rows * q.cols)
  { rows := q.rows, cols := q.cols, valid := es.length, elems := es ++ List.replicate (q.rows * q.cols - es.length) 0,
    flags := 0, faults := rows.foldl (fun n r => n + r.2) 0 }

/-! MATRIX (R340, R175, R176). -/

/-- Whether an element of a tile is one to be processed (R353). -/
def Tile.has (t : Tile) (r c : Nat) : Bool := decide (r * t.cols + c < t.valid)

/-- One MATRIX step on an FP32 accumulator tile of `M` × `N`: the products of the elements that both tiles' counts admit (R353). -/
def matrixStep (proof : Bool) (fa fb M N : Nat) (acc : List Word) (a b : Tile) : Flagged (List Word) :=
  mapFlagged (fun e =>
    let r := e / N
    let c := e % N
    let ks := (List.range a.cols).filter (fun k => a.has r k && b.has k c)
    dotAcc proof (acc.getD e 0) (ks.map (fun k => toFp fa (a.at r k))) (ks.map (fun k => toFp fb (b.at k c)))) (List.range (M * N))

/-- The FP32 tile that MATRIX emits from the tiles of its reduction steps. Its count covers the rows of which some step's A tile has
an element (R353; DEDUCED, log entry 19). -/
def matrixTile (proof : Bool) (qa qb : Queue) (as bs : List Tile) : Tile :=
  let M := qa.rows
  let N := qb.cols
  let r := foldFlagged (fun acc (p : Tile × Tile) => matrixStep proof qa.fmt qb.fmt M N acc p.1 p.2)
    (List.replicate (M * N) (0 : Word)) (as.zip bs)
  let live := as.foldl (fun n a => max n ((a.valid + a.cols - 1) / max 1 a.cols)) 0
  { rows := M, cols := N, valid := min M live * N, elems := r.val, flags := r.flags, faults := 0 }

/-- The sum of two partial tiles, element by element (R359, R360). -/
def addTiles (a b : Tile) : Tile :=
  let r := zipFlagged fadd a.elems b.elems
  { a with valid := max a.valid b.valid, elems := r.val, flags := a.flags ||| b.flags ||| r.flags }

/-! MAP (R341). -/

/-- The working value of a lane: an FP32, or an INT32, which is unsigned when it began as a UINT32 (R172). -/
structure Lane where
  int : Bool
  uns : Bool
  w : Word

/-- The number that an integer lane stands for. -/
def Lane.num (x : Lane) : Int := if x.uns then (x.w.toNat : Int) else x.w.toInt
def Lane.asFp (x : Lane) : Word := if x.int then intToFp32 x.num else x.w
def Lane.asInt (x : Lane) : Flagged Word := if x.int then plain x.w else fromF32 8 x.w
def Lane.asUns (x : Lane) : Flagged Word := if x.int then plain x.w else fromF32 9 x.w

def laneFp (x : Flagged Word) : Flagged Lane := ⟨⟨false, false, x.val⟩, x.flags⟩
def laneInt (uns : Bool) (x : Flagged Word) : Flagged Lane := ⟨⟨true, uns, x.val⟩, x.flags⟩

/-- Two operands of an operation that follows the type of its working value (DEDUCED, log entry 18). -/
def byType (x y : Lane) (fp : Word → Word → Flagged Word) (int : Word → Word → Flagged Word) : Flagged Lane :=
  if x.int then (if x.uns then y.asUns else y.asInt).andThen (fun b => laneInt x.uns (int x.w b)) else laneFp (fp x.w y.asFp)

/-- The greater and the lesser of two 32-bit integers, signed or unsigned (R172). -/
def intLt (uns : Bool) (a b : Word) : Bool := if uns then decide (a.toNat < b.toNat) else decide (a.toInt < b.toInt)
def imaxW (uns : Bool) (a b : Word) : Word := if intLt uns a b then b else a
def iminW (uns : Bool) (a b : Word) : Word := if intLt uns b a then b else a

/-- One MAP operation (R341) on the working value, the element of queue 1 and the constants. -/
def mapOp (o : Nat) (x q1 : Lane) (c0 c1 : Word) : Flagged Lane :=
  let k0 : Lane := ⟨x.int, x.uns, c0⟩
  let f := x.asFp
  let signed := fun (op : Word → Word → Flagged Word) =>
    x.asInt.andThen (fun a => q1.asInt.andThen (fun b => laneInt (x.int && x.uns) (op a b)))
  match o with
  | 0x01 => byType x q1 fadd (fun a b => plain (iadd a b))
  | 0x02 => byType x q1 fmul (fun a b => plain (imul a b))
  | 0x03 => byType x q1 (fun a b => plain (fmax a b)) (fun a b => plain (imaxW x.uns a b))
  | 0x04 => byType x q1 (fun a b => plain (fmin a b)) (fun a b => plain (iminW x.uns a b))
  | 0x05 => byType x k0 fadd (fun a b => plain (iadd a b))
  | 0x06 => byType x k0 fmul (fun a b => plain (imul a b))
  | 0x07 => if x.int then laneInt x.uns (plain (iadd (imul x.w c0) c1)) else laneFp (ffma x.w c0 c1)
  | 0x08 => byType x k0 (fun a b => plain (fmax a b)) (fun a b => plain (imaxW x.uns a b))
  | 0x09 => laneFp (fexp f)
  | 0x0A => laneFp (flog f)
  | 0x0B => laneFp (frcp f)
  | 0x0C => laneFp (frsqrt f)
  | 0x0D => laneFp (fsqrt f)
  | 0x0E => if x.int then laneInt x.uns (plain (isub 0 x.w)) else laneFp (plain (fneg x.w))
  | 0x0F =>
    if x.int then laneInt x.uns (plain (if x.num < 0 then isub 0 x.w else x.w))
    else laneFp (plain (if isNan32 x.w then nan32 else x.w &&& 0x7FFFFFFF))
  | 0x10 => laneFp (fdiv f q1.asFp)
  | 0x20 => signed (fun a b => plain (iadd a b))
  | 0x21 => signed (fun a b => plain (imul a b))
  | 0x22 => x.asInt.andThen (fun a => q1.asInt.andThen (fun b => let d := sdiv a b; laneInt false ⟨d.val.1, d.flags⟩))
  | 0x23 => x.asUns.andThen (fun a => q1.asUns.andThen (fun b => let d := udiv a b; laneInt true ⟨d.val.1, d.flags⟩))
  | _ => plain x

/-- An element as a working value. -/
def toLane (f : Nat) (w : Word) : Flagged Lane :=
  if isIntFmt f then plain ⟨true, f == 9, w⟩ else if f = 6 then laneFp (mxF32 w) else plain ⟨false, false, toF32 f w⟩

/-- The element of queue 1 for element `(r, c)`: its shape is that of queue 0, a row or a column (R341). -/
def q1At (t : Tile) (rows cols r c : Nat) : Word :=
  t.at (if t.rows = 1 ∧ rows ≠ 1 then 0 else r) (if t.cols = 1 ∧ cols ≠ 1 then 0 else c)

/-- The random integer of conversion number `n` of a MAP station under stochastic rounding (R183): lane `n` mod 64, its
generator stepped once for each of its conversions. -/
def laneRandom (seed : Word) (phys n : Nat) : Nat :=
  ((List.range (n / 64 + 1)).foldl (fun x _ => xorshift32 x) (Config.laneSeed seed (n % 64) phys)).toNat

/-- The result of a lane converted to the station's format (R181–R188), MXFP4 apart. -/
def laneOut (stoch : Bool) (seed : Word) (phys n f : Nat) (x : Lane) : Flagged Word :=
  if x.int ∧ isIntFmt f then plain x.w
  else if stoch ∧ !x.int ∧ (f = 2 ∨ f = 3) then
    let r := cvtStochastic (fmtOf f) (if f = 2 then 16 else 13) x.w (laneRandom seed phys n)
    ⟨BitVec.ofNat 32 r.val, r.flags⟩
  else if x.int ∧ f = 7 then
    let v := x.num
    let c := satSigned 8 v
    ⟨BitVec.ofNat 32 (wrapN 8 c), if c = v then 0 else flagSAT⟩
  else fromF32 f x.asFp

/-- FP32 values to MXFP4 blocks of 32 (R188), `fuel` blocks at most. -/
def mxBlocks : Nat → List Word → Flagged (List Word)
  | 0, _ => plain []
  | f + 1, ws =>
    if ws.isEmpty then plain []
    else
      let b := cvtMX (ws.take 32)
      let r := mxBlocks f (ws.drop 32)
      ⟨b.val.2.map (fun e => BitVec.ofNat 32 (b.val.1 * 16 + e)) ++ r.val, b.flags ||| r.flags⟩

/-- One MAP tile; `first` counts the conversions of the sector before it. -/
def mapTile (stoch : Bool) (seed : Word) (phys first : Nat) (ops : List Nat) (c0 c1 : Word) (fi f1 : Nat) (q : Queue)
    (x : Tile) (y : Option Tile) : Tile :=
  let r := mapFlagged (fun e =>
    (toLane fi (x.elems.getD e 0)).andThen (fun a =>
    (match y with
      | some t => toLane f1 (q1At t x.rows x.cols (e / x.cols) (e % x.cols))
      | none => plain ⟨a.int, a.uns, 0⟩).andThen (fun b =>
    foldFlagged (fun v o => mapOp o v b c0 c1) a ops))) (List.range x.valid)
  let out := if q.fmt = 6 then mxBlocks r.val.length (r.val.map Lane.asFp)
    else mapFlagged (fun p => laneOut stoch seed phys (first + p.1) q.fmt p.2) ((List.range r.val.length).zip r.val)
  { rows := x.rows, cols := x.cols, valid := x.valid, elems := out.val ++ List.replicate (x.rows * x.cols - x.valid) 0,
    flags := r.flags ||| out.flags, faults := 0 }

/-! REDUCE and SEGMENT (R342, R343). -/

/-- Sum, maximum or minimum of two values. -/
def combine (f op : Nat) (a b : Word) : Flagged Word :=
  match op with
  | 0 => if isIntFmt f then plain (iadd a b) else fadd a b
  | 1 => plain (if f = 1 then fmax a b else imaxW (f == 9) a b)
  | _ => plain (if f = 1 then fmin a b else iminW (f == 9) a b)

/-- Whether value `a` is a more extreme one than `b` for ARGMAX or ARGMIN: a NaN is the extreme of both. -/
def beats (f : Nat) (isMax : Bool) (a b : Word) : Bool :=
  if f = 1 then
    if isNan32 b then false
    else if isNan32 a then true
    else if isMax then ltFp (rd32 b) (rd32 a) else ltFp (rd32 a) (rd32 b)
  else if f = 9 then (if isMax then decide (b.toNat < a.toNat) else decide (a.toNat < b.toNat))
  else if isMax then decide (b.toInt < a.toInt) else decide (a.toInt < b.toInt)

/-- The extreme value and its index along a list, from index `i`. -/
def argExtreme (f : Nat) (isMax : Bool) : Nat → Option (Word × Nat) → List Word → Option (Word × Nat)
  | _, best, [] => best
  | i, best, w :: ws =>
    argExtreme f isMax (i + 1) (match best with
      | none => some (w, i)
      | some b => if beats f isMax w b.1 then some (w, i) else some b) ws

/-- The exclusive sums of a list. -/
def scanList (f : Nat) : Word → List Word → Flagged (List Word)
  | _, [] => plain []
  | acc, w :: ws =>
    let n := combine f 0 acc w
    let r := scanList f n.val ws
    ⟨acc :: r.val, n.flags ||| r.flags⟩

/-- A sum of one value: a NaN is the canonical one (R190). -/
def canonSum (f : Nat) (w : Word) : Word := if f == 1 && isNan32 w then nan32 else w

/-- One line of a tile reduced: the values that it leaves. An empty line leaves 0. -/
def reduceLine (f op : Nat) (ws : List Word) : Flagged (List Word) :=
  match op with
  | 3 => plain [match argExtreme f true 0 none ws with | some b => BitVec.ofNat 32 b.2 | none => 0]
  | 4 => plain [match argExtreme f false 0 none ws with | some b => BitVec.ofNat 32 b.2 | none => 0]
  | 5 => scanList f 0 ws
  | _ =>
    match ws with
    | [] => plain [0]
    | w :: rest =>
      let r := foldFlagged (fun a x => combine f op a x) (if op = 1 ∨ op = 2 then (combine f op w w).val else canonSum f w) rest
      ⟨[r.val], r.flags⟩

/-- The lines of a tile along an axis: 0 its rows, 1 its columns. -/
def tileLines (axis : Nat) (x : Tile) : List (List Word) :=
  let el := fun r c => if r * x.cols + c < x.valid then some (x.at r c) else none
  if axis = 0 then (List.range x.rows).map (fun r => (List.range x.cols).filterMap (el r))
  else (List.range x.cols).map (fun c => (List.range x.rows).filterMap (fun r => el r c))

/-- The transpose of lines of one length. -/
def transpose (n : Nat) (ls : List (List Word)) : List Word :=
  (List.range n).flatMap (fun i => ls.map (fun l => l.getD i 0))

/-- One REDUCE tile (R342). -/
def reduceTile (f op axis : Nat) (x : Tile) : Tile :=
  let r := mapFlagged (reduceLine f op) (tileLines axis x)
  if op = 5 then
    let es := if axis = 0 then r.val.flatMap id else transpose x.rows r.val
    { x with elems := es ++ List.replicate (x.rows * x.cols - es.length) 0, flags := r.flags, faults := 0 }
  else
    let es := r.val.flatMap id
    { rows := if axis = 0 then x.rows else 1, cols := if axis = 0 then 1 else x.cols, valid := es.length, elems := es,
      flags := r.flags, faults := 0 }

/-- The lines of a stream of tiles, joined tile after tile. -/
def joinLines (axis : Nat) (xs : List Tile) : List (List Word) :=
  match xs with
  | [] => []
  | x :: rest => rest.foldl (fun acc t => List.zipWith (· ++ ·) acc (tileLines axis t)) (tileLines axis x)

/-- The segments of a stream: the values of each run of one id (R343). -/
def segments : List (Word × Word) → List (List Word)
  | [] => []
  | (v, i) :: rest =>
    match segments rest, rest with
    | l :: ls, (_, j) :: _ => if i = j then (v :: l) :: ls else [v] :: l :: ls
    | ls, _ => [v] :: ls

/-- A list of elements cut into tiles of a queue, the last one short; `fuel` tiles at most. -/
def cutTiles (q : Queue) : Nat → List Word → List Tile
  | 0, _ => []
  | f + 1, ws =>
    if ws.isEmpty ∨ q.rows * q.cols = 0 then []
    else
      let n := q.rows * q.cols
      let l := ws.take n
      { rows := q.rows, cols := q.cols, valid := l.length, elems := l ++ List.replicate (n - l.length) 0, flags := 0, faults := 0 }
        :: cutTiles q f (ws.drop n)

/-- Put flags on the last tile of a stream. -/
def flagLast (fl : Word) (l : List Tile) : List Tile :=
  match l.reverse with
  | [] => []
  | t :: r => ({ t with flags := t.flags ||| fl } :: r).reverse

/-- SEGMENT over a whole stream. -/
def segmentStream (f op : Nat) (q : Queue) (vs ids : List Tile) : List Tile :=
  let r := mapFlagged (reduceLine f op) (segments ((vs.flatMap Tile.live).zip (ids.flatMap Tile.live)))
  let es := r.val.flatMap id
  flagLast r.flags (cutTiles q (es.length + 1) es)

/-! SORT and SETOP (R344, R345, R177). -/

/-- A key with its payload. -/
abbrev Keyed := Word × Word

/-- A key as a number that orders it (R344, R177). -/
def sortKey (f : Nat) (w : Word) : Nat :=
  if f = 1 then sortKeyFP32 w else if f = 9 then w.toNat else (w.toNat + 2 ^ 31) % 2 ^ 32

/-- Whether key `a` may stand before key `b` that comes after it in input order. -/
def keyLe (f : Nat) (desc : Bool) (a b : Keyed) : Bool :=
  if desc then decide (sortKey f b.1 ≤ sortKey f a.1) else decide (sortKey f a.1 ≤ sortKey f b.1)

/-- A stable sort of keys. -/
def sortKeys (f : Nat) (desc : Bool) (l : List Keyed) : List Keyed := l.mergeSort (keyLe f desc)

/-- A merge that takes from the first stream on equal keys; `fuel` is the number of keys. -/
def mergeKeys (f : Nat) (desc : Bool) : Nat → List Keyed → List Keyed → List Keyed
  | 0, _, _ => []
  | _ + 1, [], bs => bs
  | _ + 1, as, [] => as
  | n + 1, a :: as, b :: bs =>
    if keyLe f desc a b then a :: mergeKeys f desc n as (b :: bs) else b :: mergeKeys f desc n (a :: as) bs

/-- The keys of a tile, with payloads from row 1 when it has two rows. -/
def tileKeys (t : Tile) : List Keyed :=
  if t.rows = 2 then (List.range (t.valid / 2)).map (fun i => (t.at 0 i, t.at 1 i))
  else t.live.map (fun w => (w, 0))

/-- A tile of keys. -/
def keyTile (q : Queue) (l : List Keyed) : Tile :=
  let pad := fun (ws : List Word) => ws ++ List.replicate (q.cols - ws.length) 0
  if q.rows = 2 then
    { rows := 2, cols := q.cols, valid := 2 * l.length, elems := pad (l.map (·.1)) ++ pad (l.map (·.2)), flags := 0, faults := 0 }
  else
    { rows := q.rows, cols := q.cols, valid := l.length, elems := l.map (·.1) ++ List.replicate (q.rows * q.cols - l.length) 0,
      flags := 0, faults := 0 }

/-- Keys cut into tiles; `fuel` tiles at most. -/
def keyTiles (q : Queue) : Nat → List Keyed → List Tile
  | 0, _ => []
  | f + 1, l =>
    let n := if q.rows = 2 then q.cols else q.rows * q.cols
    if l.isEmpty ∨ n = 0 then [] else keyTile q (l.take n) :: keyTiles q f (l.drop n)

/-- The procedure of R345 with `fuel` for its rounds: keys with their positions in A and in B. -/
def setop (op : Nat) : Nat → Nat → Nat → List Word → List Word → List (Word × Word × Word)
  | 0, _, _, _, _ => []
  | n + 1, i, j, a, b =>
    let none32 : Word := 0xFFFFFFFF
    match a, b with
    | [], [] => []
    | x :: as, [] => (if op ≠ 0 then [(x, BitVec.ofNat 32 i, none32)] else []) ++ setop op n (i + 1) j as []
    | [], y :: bs => (if op = 1 then [(y, none32, BitVec.ofNat 32 j)] else []) ++ setop op n i (j + 1) [] bs
    | x :: as, y :: bs =>
      if x.toNat < y.toNat then
        (if op ≠ 0 then [(x, BitVec.ofNat 32 i, none32)] else []) ++ setop op n (i + 1) j as (y :: bs)
      else if y.toNat < x.toNat then
        (if op = 1 then [(y, none32, BitVec.ofNat 32 j)] else []) ++ setop op n i (j + 1) (x :: as) bs
      else (if op ≠ 2 then [(x, BitVec.ofNat 32 i, BitVec.ofNat 32 j)] else []) ++ setop op n (i + 1) (j + 1) as bs

/-- The words that SETOP emits: keys, or with emit_indices each key followed by its two positions (log entry 18). -/
def setopWords (emit : Bool) (l : List (Word × Word × Word)) : List Word :=
  if emit then l.flatMap (fun x => [x.1, x.2.1, x.2.2]) else l.map (·.1)

/-! Scratchpad words (R353, R394). -/

/-- A tile as the words of its slot: its elements packed low bits first. -/
def packTile (q : Queue) (t : Tile) : List Word :=
  let bits := fmtBits q.fmt
  if bits = 0 then []
  else
    let per := 32 / bits
    (List.range (tileWords q)).map (fun i =>
      BitVec.ofNat 32 ((List.range per).foldl (fun n j =>
        n + (t.elems.getD (i * per + j) 0).toNat % 2 ^ bits * 2 ^ (j * bits)) 0))

end Sys2Proof.Machine
end

