-- ==== Sys2Proof/Machine/Attention.lean ====
section
/-!
DEFINITION. Machine/Attention.lean: attention tables, block records and page headers, the prescan, and what ATTEND
computes for an item (R426–R454, R464).
-/
namespace Sys2Proof.Machine

/-! Rotation (R436). -/

/-- The fractional bits that the angles are computed with. -/
def trigBits : Nat := 640

/-- z − z³/3 + z⁵/5 − … in fixed point. -/
def atanSeries : Nat → Int → Int → Nat → Int
  | 0, _, _, _ => 0
  | k + 1, p, z2, d => p / (d : Int) - atanSeries k (p * z2 / (2 ^ trigBits : Nat)) z2 (d + 2)

/-- π in fixed point, by Machin's formula. -/
def fxPi : Int :=
  let a := fun (n : Nat) => let z : Int := ((2 ^ trigBits : Nat) : Int) / n; atanSeries 300 z (z * z / (2 ^ trigBits : Nat)) 1
  16 * a 5 - 4 * a 239

/-- The alternating series of sine (from d = 1) and cosine (from d = 0). -/
def trigSeries : Nat → Int → Int → Nat → Int
  | 0, _, _, _ => 0
  | k + 1, term, x2, d =>
    term - trigSeries k (term * x2 / (2 ^ trigBits : Nat) / (((d + 1) * (d + 2) : Nat) : Int)) x2 (d + 2)

/-- Cosine and sine of m·2^e, each rounded once to FP32. -/
def cosSin (m : Nat) (e : Int) : Word × Word :=
  let k : Int := e + trigBits
  let x : Int := if 0 ≤ k then ((m * 2 ^ k.toNat : Nat) : Int) else ((m / 2 ^ (-k).toNat : Nat) : Int)
  let r := x % (2 * fxPi)
  let y := if fxPi < r then r - 2 * fxPi else r
  let y2 := y * y / (2 ^ trigBits : Nat)
  let c := trigSeries 90 (2 ^ trigBits : Nat) y2 0
  let s := trigSeries 90 y y2 1
  let rd := fun (v : Int) => (round32 (decide (v < 0)) v.natAbs (-(trigBits : Int))).val
  if m = 0 then (0x3F800000, 0) else (rd c, rd s)

/-- θ^(−i/half) rounded to FP32 (R436). -/
def ropeFreq (theta : Word) (i half : Nat) : Word :=
  match rd32 theta with
  | .fin n m e =>
    if i = 0 then 0x3F800000
    else if n ∨ m = 0 ∨ half = 0 then nan32
    else
      let l := Nat.log2 m
      let one : Int := (2 ^ fxBits : Nat)
      let y := fxOf false m (-(l : Int))
      let z := (y - one) * one / (y + one)
      let ln := (e + (l : Nat)) * fxLn2 + 2 * atanhSeries 200 z (z * z / one) 1
      let x := -(ln * i / half)
      let k := x / fxLn2
      let v := expSeries 60 (2 ^ fxBits : Nat) (x - k * fxLn2) 1
      (round32 false (2 * v.toNat + 1) (k - fxBits - 1)).val
  | _ => nan32

/-- Cosine and sine for pair `i` at a position. -/
def ropeAngle (theta : Word) (half i pos : Nat) : Word × Word :=
  match rd32 (ropeFreq theta i half) with
  | .fin _ m e => cosSin (pos * m) e
  | _ => (nan32, nan32)

/-- The places of the two elements of pair `i`. -/
def ropePair (split : Bool) (half i : Nat) : Nat × Nat := if split then (i, i + half) else (2 * i, 2 * i + 1)

/-- One pair rotated, forward or back. -/
def rotate (inverse : Bool) (x y c s : Word) : Flagged (Word × Word) :=
  let xc := fmul x c
  let ys := fmul y s
  let xs := fmul x s
  let yc := fmul y c
  let a := if inverse then fadd xc.val ys.val else fsub xc.val ys.val
  let b := if inverse then fsub yc.val xs.val else fadd xs.val yc.val
  ⟨(a.val, b.val), xc.flags ||| ys.flags ||| xs.flags ||| yc.flags ||| a.flags ||| b.flags⟩

/-- A row of FP32 values rotated by a position (R436); no rotation when rope_theta is 0. -/
def ropeRow (st : Station) (inverse : Bool) (pos : Nat) (row : List Word) : Flagged (List Word) :=
  if atTheta st = 0 then plain row
  else
    foldFlagged (fun l i =>
      let p := ropePair (atSplit st) (atHalf st) i
      let a := ropeAngle (atTheta st) (atHalf st) i pos
      let r := rotate inverse (l.getD p.1 0) (l.getD p.2 0) a.1 a.2
      ⟨(l.set p.1 r.val.1).set p.2 r.val.2, r.flags⟩) row (List.range (atHalf st))

/-! Updates of page headers (R445, R454). -/

/-- Write a word of a header or record. -/
def putWord (s : State) (a i : Nat) (w : Word) : State := { s with mem := { s.mem with dev := s.mem.dev.write (a + 4 * i) (leBytes 4 w.toNat) } }

/-- Replace bits [hi:lo] of a word. -/
def setBits (w : Word) (hi lo v : Nat) : Word :=
  (w &&& ~~~mask hi lo) ||| BitVec.ofNat 32 (v % 2 ^ (hi + 1 - lo) * 2 ^ lo)

/-- Set a page's state (R454); a page that becomes FREE keeps the rest of its header. -/
def setPageState (s : State) (a v : Nat) : State := putWord s a 0 (setBits (phWord s.mem a 0) 31 28 v)

/-- Take a pin (R448). -/
def pinPage (s : State) (a : Nat) : State := putWord s a 3 (phWord s.mem a 3 + 1)

/-- Release a pin: a RETIRING page whose last pin goes is FREE (R454). -/
def unpinPage (s : State) (a : Nat) : State :=
  let s1 := putWord s a 3 (phWord s.mem a 3 - 1)
  if phPins s1.mem a = 0 ∧ phState s1.mem a = 2 then setPageState s1 a 0 else s1

/-- Elements of a page's half and the place of an element (R444); `slots` is 256, or 8 for a candidate sub-block. -/
def pageIndex (slots g d h t n : Nat) (value : Bool) : Nat := (if value then slots * g * d else 0) + (h * slots + t) * d + n

/-- An element of a page. -/
def pageElem (m : Mem) (payload f i : Nat) : Word :=
  let bits := fmtBits f
  let a := payload + i * bits / 8
  if bits < 8 then
    let x := (m.dev.get a).toNat
    BitVec.ofNat 32 (if i % 2 = 0 then x % 16 else x / 16)
  else BitVec.ofNat 32 (leNat (m.dev.read a (bits / 8)))

/-- Write an element of a page. -/
def pokeElem (m : Mem) (payload f i : Nat) (v : Word) : Mem :=
  let bits := fmtBits f
  let a := payload + i * bits / 8
  if bits < 8 then
    let x := (m.dev.get a).toNat
    let y := if i % 2 = 0 then x / 16 * 16 + v.toNat % 16 else x % 16 + v.toNat % 16 * 16
    { m with dev := m.dev.put a (BitVec.ofNat 8 y) }
  else { m with dev := m.dev.write a (leBytes (bits / 8) v.toNat) }

/-! Attention tables (R447). -/

/-- The header of an attention table and where it lies. -/
structure AttTable where
  addr : Nat
  segments : Nat
  rows : Nat
  entries : Nat
  layers : Nat
  groups : Nat
  mass : Nat
  records : Nat
  headers : Nat

def readTable (m : Mem) (a : Nat) : AttTable :=
  let w := fun (i : Nat) => (BitVec.ofNat 32 (leNat (m.dev.read (a + 4 * i) 4)) : Word)
  { addr := a, segments := fld (w 0) 11 0, rows := (w 1).toNat, entries := (w 2).toNat, layers := fld (w 3) 31 24,
    groups := fld (w 3) 23 16, mass := leNat (m.dev.read (a + 16) 8), records := leNat (m.dev.read (a + 24) 8),
    headers := leNat (m.dev.read (a + 32) 8) }

def AttTable.length (t : AttTable) : Nat := 64 + 32 * t.segments + 16 * t.rows + 8 * t.entries

structure AttSegment where
  id : Nat
  first : Nat
  rows : Nat
  entry : Nat
  entries : Nat
  slots : Nat
  cand : Nat

structure AttRow where
  segment : Nat
  pos : Nat
  cand : Bool
  node : Nat
  anc : Nat
  score : Bool

structure AttEntry where
  state : Nat
  record : Nat
  count : Nat

def AttTable.segment (t : AttTable) (m : Mem) (i : Nat) : AttSegment :=
  let ws := toWords 8 (m.dev.read (t.addr + 64 + 32 * i) 32)
  { id := fld (wat ws 0) 31 16, first := (wat ws 1).toNat, rows := (wat ws 2).toNat, entry := (wat ws 3).toNat,
    entries := fld (wat ws 4) 9 0, slots := fld (wat ws 5) 3 0, cand := dat ws 6 }

def AttTable.row (t : AttTable) (m : Mem) (i : Nat) : AttRow :=
  let ws := toWords 4 (m.dev.read (t.addr + 64 + 32 * t.segments + 16 * i) 16)
  { segment := fld (wat ws 0) 31 16, pos := fld (wat ws 1) 16 0, cand := wbit (wat ws 2) 31, node := fld (wat ws 2) 30 28,
    anc := fld (wat ws 2) 27 20, score := wbit (wat ws 2) 19 }

def AttTable.entry (t : AttTable) (m : Mem) (i : Nat) : AttEntry :=
  let ws := toWords 2 (m.dev.read (t.addr + 64 + 32 * t.segments + 16 * t.rows + 8 * i) 8)
  { state := fld (wat ws 0) 31 30, record := fld (wat ws 0) 23 0, count := fld (wat ws 1) 8 0 }

/-- Whether the reserved bits of every part are 0, its fields lie in their ranges, and the header's counts are those of all segments
(R447). -/
def AttTable.formOk (t : AttTable) (m : Mem) : Bool :=
  let ws := fun a n => toWords n (m.dev.read a (4 * n))
  fld (wat (ws t.addr 1) 0) 31 24 == 1
  && withinMasks (ws t.addr 16) [mask 31 24 ||| mask 11 0, mAll, mAll, mask 31 16, mAll, mAll, mAll, mAll, mAll, mAll]
  && inRange 1 4095 t.segments && decide (1 ≤ t.layers) && decide (1 ≤ t.groups)
  && (List.range t.segments).foldl (fun n i => n + (t.segment m i).rows) 0 == t.rows
  && (List.range t.segments).foldl (fun n i => n + (t.segment m i).entries) 0 == t.entries
  && (List.range t.segments).all (fun i =>
      let g := t.segment m i
      withinMasks (ws (t.addr + 64 + 32 * i) 8) [mask 31 16, mAll, mAll, mAll, mask 9 0, mask 3 0, mAll, mAll]
      && decide (1 ≤ g.rows) && decide (g.first + g.rows ≤ t.rows) && decide (g.entries ≤ 512)
      && decide (g.entry + g.entries ≤ t.entries) && decide (g.slots ≤ 8) && (g.slots != 0 || g.cand == 0)
      && (List.range g.rows).all (fun k => (t.row m (g.first + k)).segment == g.id))
  && (List.range t.rows).all (fun i =>
      withinMasks (ws (t.addr + 64 + 32 * t.segments + 16 * i) 4) [mask 31 16, mask 16 0, mask 31 19, 0])
  && (List.range t.entries).all (fun i =>
      let e := t.entry m i
      withinMasks (ws (t.addr + 64 + 32 * t.segments + 16 * t.rows + 8 * i) 2) [mask 31 30 ||| mask 23 0, mask 8 0]
      && decide (e.state ≤ 1) && inRange 1 256 e.count)

/-- The record of an entry, and the header of its page for a layer and group. -/
def AttTable.recordAddr (t : AttTable) (e : AttEntry) : Nat := t.records + e.record * recordStride t.layers t.groups
def AttTable.pageId (t : AttTable) (m : Mem) (st : Station) (e : AttEntry) : Nat :=
  fld (BitVec.ofNat 32 (leNat (m.dev.read (t.recordAddr e + 64 + 4 * (atLayer st * t.groups + atGroup st)) 4))) 23 0
def AttTable.pageOf (t : AttTable) (m : Mem) (st : Station) (e : AttEntry) : Nat := headerAddr t.headers (t.pageId m st e)

/-- The address of a block record's token ids (R446). -/
def recordTokens (m : Mem) (a : Nat) : Nat := leNat (m.dev.read (a + 32) 8)

/-- The reserved bits and the format of a block record (R446). -/
def recordFormOk (m : Mem) (a L G : Nat) : Bool :=
  let ws := toWords 16 (m.dev.read a 64)
  fld (wat ws 0) 31 24 == 1
  && withinMasks ws [mask 31 24 ||| mask 8 0, mask 23 0, mAll, mAll, mAll, mAll, mAll, mAll, mAll, mAll, mask 1 0]
  && (List.range (L * G)).all (fun i => byteAt (m.dev.read (a + 64 + 4 * i) 4) 3 == 0)

/-- The reserved bits, the state and the format code of a page header (R352, R445). -/
def headerFormOk (m : Mem) (a : Nat) : Bool :=
  let ws := toWords 16 (m.dev.read a 64)
  withinMasks ws [mask 31 17 ||| mask 8 0, mask 31 16, mAll, mAll, mAll, mask 23 0, mAll, mAll, mAll, mAll, mAll, mAll]
  && decide (phState m a ≤ 2) && [2, 4, 5, 7, 10].contains (phFormat m a) && decide (phTokens m a ≤ 256)

/-- The LIVE entries of a table, by index. -/
def AttTable.live (t : AttTable) (m : Mem) : List Nat := (List.range t.entries).filter (fun i => (t.entry m i).state == 0)

/-- The address of the station's sub-block in a segment's candidate block. -/
def subBlock (t : AttTable) (st : Station) (g : AttSegment) (f : Nat) : Nat :=
  g.cand + (atLayer st * t.groups + atGroup st) * pageBytes 8 (atKvHeads st) (atD st) f

/-- The header that gives a candidate block its format and scales: that of the page which holds the position of the
segment's first candidate. While that page holds no token the table does not name it (R480); the page of record 0, which has
the pool's one format and scales, stands for it (DEDUCED, log entry 35). -/
def candHeader (t : AttTable) (m : Mem) (st : Station) (g : AttSegment) : Option Nat :=
  match (List.range g.rows).find? (fun k => (t.row m (g.first + k)).cand) with
  | none => none
  | some k =>
    let i := (t.row m (g.first + k)).pos / 256
    if i < g.entries then some (t.pageOf m st (t.entry m (g.entry + i)))
    else some (headerAddr t.headers (atLayer st * t.groups + atGroup st))

/-- Width of a page's elements in bits as min_key counts it (R449). -/
def keyWidth (f : Nat) : Nat := if f = 10 then 1 else if f = 2 ∨ f = 3 then 3 else 2

/-- The formats that a route reads: those of its LIVE pages and candidate sub-blocks. -/
def formatsRead (t : AttTable) (m : Mem) (st : Station) : List Nat :=
  ((t.live m).map (fun i => phFormat m (t.pageOf m st (t.entry m i)))
   ++ (List.range t.segments).filterMap (fun i => let g := t.segment m i
        if g.slots = 0 then none else (candHeader t m st g).map (phFormat m))).eraseDups

/-- The prescan's checks (R10, R439, R442, R449): the status of the first that fails. `env` says whether a device range lies in
the session's envelope. -/
def prescanStatus (m : Mem) (st : Station) (t : AttTable) (proof : Bool) (env : Nat → Nat → Bool) : Option Status :=
  let live := t.live m
  let pages := live.map (fun i => t.pageOf m st (t.entry m i))
  let segs := (List.range t.segments).map (t.segment m)
  let allEntries := (List.range t.entries).map (t.entry m)
  let g := atKvHeads st
  let d := atD st
  let hard := fun (seg : AttSegment) (r : AttRow) =>
    if r.cand then (candHeader t m st seg).isNone || decide (seg.slots ≤ r.node)
    else
      let i := r.pos / 256
      if seg.entries ≤ i then true
      else
        let e := t.entry m (seg.entry + i)
        let a := t.pageOf m st e
        e.state != 0 || decide (1 < phRefs m a) || decide (r.pos % 256 < phTokens m a)
  if !(env t.addr t.length && env t.headers 128
      && allEntries.all (fun e => env (t.recordAddr e) (recordStride t.layers t.groups) && env (recordTokens m (t.recordAddr e)) 1024)
      && pages.all (fun a => env a 128 && env (phPayload m a) (pageBytes 256 (phHeads m a) (phD m a) (phFormat m a)))
      && (t.mass == 0 || env t.mass (4 * t.entries * g))
      && segs.all (fun s => s.slots == 0 || env s.cand (t.layers * t.groups * pageBytes 8 g d
          (match candHeader t m st s with | some a => phFormat m a | none => 4)))) then some stPROTECTION
  else if !(t.formOk m && decide (atLayer st < t.layers) && decide (atGroup st < t.groups)
      && allEntries.all (fun e => recordFormOk m (t.recordAddr e) t.layers t.groups) && pages.all (headerFormOk m)
      && (live.zip pages).all (fun p => phHeads m p.2 == g && phD m p.2 == d && phLayer m p.2 == atLayer st
          && phGroup m p.2 == atGroup st && decide ((t.entry m p.1).count ≤ phTokens m p.2))) then some stBAD_DESCRIPTOR
  else if pages.any (fun a => phState m a != 1) then some stNO_RESOURCE
  else if atStrict st && (formatsRead t m st).any (fun f => decide (keyWidth f < atMinKey st)) then some stFORMAT_BELOW_MIN
  else if proof && decide (1 < (formatsRead t m st).length) then some stFORMAT_MIX
  else if st.op = 2 ∧ (List.range t.rows).any (fun i => (t.row m i).cand) then some stBAD_DESCRIPTOR
  else if st.op = 0 ∧ segs.any (fun s => (List.range s.rows).any (fun k => hard s (t.row m (s.first + k)))) then some stBAD_DESCRIPTOR
  else none

/-- KEY_NARROW in warn_mask (R450). -/
def prescanWarn (m : Mem) (st : Station) (t : AttTable) : BitVec 16 :=
  if (formatsRead t m st).any (fun f => decide (keyWidth f < atMinKey st)) then 8 else 0

/-! Items (R426, R427). -/

/-- A query tile: its segment and its rows of the row table. -/
structure QueryTile where
  seg : AttSegment
  first : Nat
  tokens : Nat

/-- The query tiles of a segment; `fuel` tiles at most. -/
def segTiles (g : AttSegment) (per : Nat) : Nat → Nat → List QueryTile
  | 0, _ => []
  | f + 1, k =>
    if g.rows ≤ k then []
    else { seg := g, first := g.first + k, tokens := min per (g.rows - k) } :: segTiles g per f (k + per)

/-- Query heads per KV head, 1 for APPEND (R438). -/
def itemHq (st : Station) : Nat := if st.op = 0 then 1 else atHq st

def queryTiles (t : AttTable) (m : Mem) (st : Station) : List QueryTile :=
  (List.range t.segments).flatMap (fun i => let g := t.segment m i; segTiles g (64 / itemHq st) g.rows 0)

/-- The attention table of a route's ATTEND station, bound as its PAGES operand. -/
def tableOf (m : Mem) (binds : List Binding) (st : Station) : AttTable :=
  readTable m (match binds[st.operand]? with | some b => b.addr | none => 0)

/-- A route program with the grid of its items (R427). -/
def itemGrid (m : Mem) (b : Bytes) (binds : List Binding) (st : Station) : Bytes :=
  withGrid b (queryTiles (tableOf m binds st) m st).length (atKvHeads st)

/-- A key block (R428): slots `lo` to `lo + n − 1` of a page or candidate block. -/
structure KeyBlock where
  payload : Nat
  slots : Nat
  fmt : Nat
  lo : Nat
  n : Nat
  firstPos : Nat
  cand : Bool
  ks : Word
  vs : Word
  /-- The entry's index within its segment; none for the candidate block. -/
  entry : Option Nat

/-- A page descriptor (R452). -/
def pageDesc (segment : Nat) (cand : Bool) (count first payload fmt page entry header : Nat) : Bytes :=
  leBytes 4 (segment * 2 ^ 16 + (if cand then 2 ^ 9 else 0) + count) ++ leBytes 4 first ++ leBytes 8 payload
    ++ leBytes 4 (fmt * 2 ^ 28 + page) ++ leBytes 4 entry ++ leBytes 8 header

/-- The descriptors that the leader sends for an item: one for each LIVE entry of its segment, in entry order, and one for the
candidate block when the item has candidate rows (R451). -/
def itemDescriptors (t : AttTable) (m : Mem) (st : Station) (q : QueryTile) : List Bytes :=
  let g := q.seg
  let pages := (List.range g.entries).filterMap (fun i =>
    let e := t.entry m (g.entry + i)
    if e.state ≠ 0 then none
    else
      let a := t.pageOf m st e
      some (pageDesc g.id false e.count (256 * i) (phPayload m a) (phFormat m a) (t.pageId m st e) i a))
  let hasCand := (List.range q.tokens).any (fun k => (t.row m (q.first + k)).cand)
  match hasCand, candHeader t m st g with
  | true, some a => pages ++ [pageDesc g.id true g.slots 0 (subBlock t st g (phFormat m a)) (phFormat m a) 0xFFFFFF 0 a]
  | _, _ => pages

/-- The key blocks that a descriptor stands for, for KV head `h` (R428, R452). -/
def descBlocks (m : Mem) (h : Nat) (d : Bytes) : List KeyBlock :=
  let count := fld (wordAt d 0) 8 0
  let a := dwordAt d 6
  let ks := phScale m a false h
  let vs := phScale m a true h
  let fmt := fld (wordAt d 4) 31 28
  if wbit (wordAt d 0) 9 then
    [{ payload := dwordAt d 2, slots := 8, fmt := fmt, lo := 0, n := count, firstPos := 0, cand := true, ks := ks, vs := vs, entry := none }]
  else (List.range ((count + 63) / 64)).map (fun k =>
    { payload := dwordAt d 2, slots := 256, fmt := fmt, lo := 64 * k, n := min 64 (count - 64 * k), firstPos := fld (wordAt d 1) 16 0,
      cand := false, ks := ks, vs := vs, entry := some (fld (wordAt d 5) 9 0) })

/-- The blocks of an item, in walk order (R451). -/
def itemBlocks (t : AttTable) (m : Mem) (st : Station) (q : QueryTile) (h : Nat) : List KeyBlock :=
  (itemDescriptors t m st q).flatMap (descBlocks m h)

/-- Whether a block's page carries scales. -/
def KeyBlock.scaled (k : KeyBlock) : Bool := k.fmt == 7 || k.fmt == 10

/-- An element of a key or value of a block, as an operand of a product. -/
def KeyBlock.elem (k : KeyBlock) (m : Mem) (g d h j n : Nat) (value : Bool) : Fp :=
  toFp k.fmt (pageElem m k.payload k.fmt (pageIndex k.slots g d h (k.lo + j) n value))

/-- Whether slot `j` of a block is visible to a row (R431). -/
def KeyBlock.visible (k : KeyBlock) (r : AttRow) (j : Nat) : Bool :=
  if k.cand then r.cand && r.anc.testBit (k.lo + j) else decide (k.firstPos + k.lo + j ≤ r.pos)

/-- ATTEND's internal 19-bit format (R428). -/
def fmtA16 : Fmt := ⟨8, 10, 127, 0x3FBFF, some 0x3FC00, some 0x3FE00⟩

/-- An FP32 value as an operand of the 16-bit class. -/
def toA16 (w : Word) : Flagged Fp := let r := cvt16 fmtA16 w; ⟨decodeFp fmtA16 r.val, r.flags⟩

/-- The probability operand for ·V (R428). -/
def probOp (eight : Bool) (w : Word) : Flagged Fp :=
  if eight then let r := cvtE4M3 w; ⟨decodeFp fmtE4M3 r.val, r.flags⟩ else toA16 w

/-- The running values of one row (R432). -/
structure RowAcc where
  m : Word
  l : Word
  o : List Word
  /-- Per LIVE page: entry, w and m (R464). -/
  mass : List (Nat × Word × Word)

/-- The scores of a row against a block: the products are formed for every slot, and the score scale for a visible one (R432). -/
def rowScores (m : Mem) (st : Station) (proof : Bool) (h : Nat) (k : KeyBlock) (r : AttRow) (q : List Fp) : Flagged (List Word) :=
  mapFlagged (fun j =>
    (dotAcc proof 0 q ((List.range (atD st)).map (fun n => k.elem m (atKvHeads st) (atD st) h j n false))).andThen (fun t =>
    (if k.scaled then fmul t k.ks else plain t).andThen (fun t =>
    if k.visible r j then fmul t (atScale st) else plain (inf32 true)))) (List.range k.n)

/-- One block of R432 for one row. -/
def rowBlock (m : Mem) (st : Station) (proof : Bool) (h : Nat) (k : KeyBlock) (r : AttRow) (q : List Fp) (a : RowAcc) :
    Flagged RowAcc :=
  let eight := [4, 5, 7].contains st.inFmt && [4, 5, 7, 10].contains k.fmt
  (rowScores m st proof h k r q).andThen (fun sc =>
    let mb := sc.foldl fmax a.m
    let mass := match k.entry with
      | some e => if a.mass.any (fun x => x.1 == e) then a.mass else a.mass ++ [(e, 0, inf32 true)]
      | none => a.mass
    if mb = inf32 true then plain { a with mass := mass }
    else
      ((fsub a.m mb).andThen fexp).andThen (fun c =>
      (mapFlagged (fun x => (fsub x mb).andThen fexp) sc).andThen (fun p =>
      (match p with | [] => plain (0 : Word) | x :: xs => foldFlagged fadd x xs).andThen (fun sum =>
      ((fmul a.l c).andThen (fun l => fadd l sum)).andThen (fun l =>
      (mapFlagged (probOp eight) p).andThen (fun pc =>
      (mapFlagged (fun n =>
        (dotAcc proof 0 pc ((List.range k.n).map (fun j => k.elem m (atKvHeads st) (atD st) h j n true))).andThen (fun v =>
        (if k.scaled then fmul v k.vs else plain v).andThen (fun v =>
        (fmul (a.o.getD n 0) c).andThen (fun o => fadd o v)))) (List.range (atD st))).andThen (fun o =>
      (mapFlagged (fun (x : Nat × Word × Word) =>
        if some x.1 = k.entry then
          (fmul x.2.1 c).andThen (fun w => (fadd w sum).andThen (fun w => plain (x.1, w, mb)))
        else plain x) mass).andThen (fun ms =>
      plain { m := mb, l := l, o := o, mass := ms }))))))))

/-- The element of a query row at its station's format, rotated (R436, R437). -/
def queryRow (st : Station) (x : Tile) (k pos : Nat) : Flagged (List Word) :=
  let raw := (List.range (atD st)).map (fun n => x.at k n)
  if atTheta st = 0 then plain raw
  else (ropeRow st false pos (raw.map (toF32 st.inFmt))).andThen (fun l => mapFlagged (fromF32 st.inFmt) l)

/-- What an item leaves: its output tile, the mass values by entry within its segment, the page elements that APPEND
writes (payload, format, index, code), the rows that BACKWARD adds into ACCUM, and the stored pairs of each page (R464, R465): w and m
of its score rows, by entry within the segment. -/
structure ItemOut where
  tile : Option Tile
  mass : List (Nat × Word)
  pairs : List (Nat × List Word)
  writes : List (Nat × Nat × Nat × Word)
  accum : List (Nat × List Word)
  flags : Word

/-- The rows of an item: its token's row entry and its query head (R426). -/
def itemRows (t : AttTable) (m : Mem) (st : Station) (q : QueryTile) : List AttRow :=
  (List.range (q.tokens * itemHq st)).map (fun k => t.row m (q.first + k / itemHq st))

/-- Mass of each LIVE page of an item (R464): the first 16 score rows, in ascending order. -/
def itemMass (rows : List (AttRow × RowAcc × Word)) (entries : List Nat) : Flagged (List (Nat × Word)) :=
  let score := (rows.filter (fun r => r.1.score)).take 16
  mapFlagged (fun e =>
    (foldFlagged (fun acc (r : AttRow × RowAcc × Word) =>
      match r.2.1.mass.find? (fun x => x.1 == e) with
      | none => plain acc
      | some x => ((fsub x.2.2 r.2.2).andThen fexp).andThen (fun f => (fmul x.2.1 f).andThen (fun v => fadd acc v)))
      (0 : Word) score).andThen (fun v => plain (e, v))) entries

/-- A FORWARD item (R432, R433, R440, R464). -/
def forwardItem (m : Mem) (b : Bytes) (st : Station) (t : AttTable) (proof : Bool) (q : QueryTile) (h : Nat) (x : Tile) : ItemOut :=
  let d := atD st
  let blocks := itemBlocks t m st q h
  let rows := itemRows t m st q
  let r := mapFlagged (fun k =>
    match rows[k]? with
    | none => plain (AttRow.mk 0 0 false 0 0 false, RowAcc.mk (inf32 true) 0 [] [], inf32 true)
    | some row =>
      if !blocks.any (fun kb => (List.range kb.n).any (kb.visible row)) then
        plain (row, RowAcc.mk (inf32 true) 0 (List.replicate d 0) [], inf32 true)
      else
      (queryRow st x k row.pos).andThen (fun qr =>
      (foldFlagged (fun a kb => rowBlock m st proof h kb row (qr.map (toFp st.inFmt)) a)
        (RowAcc.mk (inf32 true) 0 (List.replicate d 0) []) blocks).andThen (fun a =>
      if a.m = inf32 true then plain (row, { a with o := List.replicate d 0 }, inf32 true)
      else
        (mapFlagged (fun v => fdiv v a.l) a.o).andThen (fun o =>
        ((flog a.l).andThen (fun lg => fadd a.m lg)).andThen (fun lse => plain (row, { a with o := o }, lse)))))) (List.range rows.length)
  let Q := rpQueue b st.out
  let lines := mapFlagged (fun (p : AttRow × RowAcc × Word) =>
    (if st.outFmt = 6 then mxBlocks d p.2.1.o else mapFlagged (fromF32 st.outFmt) p.2.1.o).andThen (fun o =>
      plain (if atStats st then o ++ [p.2.1.m, p.2.2] else o))) r.val
  let es := lines.val.flatMap id
  let live := (List.range q.seg.entries).filter (fun i => (t.entry m (q.seg.entry + i)).state == 0)
  let mass := if t.mass = 0 then plain [] else itemMass r.val live
  let fl := r.flags ||| lines.flags ||| mass.flags
  { tile := some { rows := Q.rows, cols := Q.cols, valid := es.length, elems := es ++ List.replicate (Q.rows * Q.cols - es.length) 0,
                   flags := fl, faults := 0 },
    mass := if t.mass ≠ 0 ∧ r.val.any (fun p => p.1.score) then
        (List.range q.seg.entries).map (fun i => match mass.val.find? (fun y => y.1 == i) with | some y => y | none => (i, 0))
      else [],
    pairs := if t.mass = 0 then [] else live.map (fun i => (i, ((r.val.filter (fun p => p.1.score)).take 16).flatMap (fun p =>
        match p.2.1.mass.find? (fun y => y.1 == i) with | some y => [y.2.1, y.2.2] | none => [0, inf32 true]))),
    writes := [], accum := [], flags := fl }

/-- x ÷ scale rounded to an integer of `n` bits (R437). -/
def quantise (n : Nat) (x scale : Word) : Flagged Word :=
  match rd32 x, rd32 scale with
  | .fin a m e, .fin _ k f =>
    if k = 0 then ⟨0, flagNV⟩
    else
      let num : Int := (m * 2 ^ (e - f).toNat : Nat)
      let den := k * 2 ^ (f - e).toNat
      let v := divNearestEven (if a then -num else num) den
      let c := satSigned n v
      ⟨BitVec.ofNat 32 (wrapN n c), if c = v then 0 else flagSAT⟩
  | .inf a, _ => ⟨BitVec.ofNat 32 (if a then 2 ^ (n - 1) else 2 ^ (n - 1) - 1), flagSAT⟩
  | _, _ => ⟨0, flagNV⟩

/-- An element in its page's format (R437). -/
def pageCode (f : Nat) (x scale : Word) : Flagged Word :=
  match f with
  | 7 => quantise 8 x scale
  | 10 => quantise 4 x scale
  | _ => fromF32 f x

/-- An APPEND item (R438): where its rows go and the codes written. -/
def appendItem (m : Mem) (st : Station) (t : AttTable) (q : QueryTile) (h : Nat) (keys vals : Tile) : ItemOut :=
  let d := atD st
  let g := atKvHeads st
  let r := mapFlagged (fun k =>
    let row := t.row m (q.first + k)
    let a := if row.cand then (candHeader t m st q.seg).getD 0 else t.pageOf m st (t.entry m (q.seg.entry + row.pos / 256))
    let f := phFormat m a
    let payload := if row.cand then subBlock t st q.seg f else phPayload m a
    let slots := if row.cand then 8 else 256
    let slot := if row.cand then row.node else row.pos % 256
    (ropeRow st false row.pos ((List.range d).map (fun n => toF32 st.inFmt (keys.at k n)))).andThen (fun kr =>
    (mapFlagged (fun n => (pageCode f (kr.getD n 0) (phScale m a false h)).andThen (fun w =>
      plain (payload, f, pageIndex slots g d h slot n false, w))) (List.range d)).andThen (fun ks =>
    (mapFlagged (fun n => (pageCode f (toF32 st.inFmt (vals.at k n)) (phScale m a true h)).andThen (fun w =>
      plain (payload, f, pageIndex slots g d h slot n true, w))) (List.range d)).andThen (fun vs => plain (ks ++ vs))))) (List.range q.tokens)
  { tile := none, mass := [], pairs := [], writes := r.val.flatMap id, accum := [], flags := r.flags }

/-- What BACKWARD takes of a block: p and ds per row and slot, in FP32 (R441). -/
def backScores (m : Mem) (st : Station) (proof : Bool) (h : Nat) (k : KeyBlock) (row : AttRow) (q dO : List Word) (lse D : Word) :
    Flagged (List (Word × Word)) :=
  (mapFlagged toA16 q).andThen (fun qa =>
  (mapFlagged toA16 dO).andThen (fun da =>
  (rowScores m st proof h k row qa).andThen (fun sc =>
  mapFlagged (fun (y : Nat × Word) =>
    ((fsub y.2 lse).andThen fexp).andThen (fun p =>
    (dotAcc proof 0 da ((List.range (atD st)).map (fun n => k.elem m (atKvHeads st) (atD st) h y.1 n true))).andThen (fun dp =>
    (if k.scaled then fmul dp k.vs else plain dp).andThen (fun dp =>
    (fsub dp D).andThen (fun z => (fmul p z).andThen (fun ds => plain (p, ds))))))) ((List.range k.n).zip sc))))

/-- A BACKWARD item (R441). -/
def backwardItem (m : Mem) (b : Bytes) (st : Station) (t : AttTable) (proof : Bool) (q : QueryTile) (h : Nat) (x y : Tile) : ItemOut :=
  let d := atD st
  let g := atKvHeads st
  let rows := itemRows t m st q
  let n := rows.length
  let posOf := fun k => match rows[k]? with | some r => r.pos | none => 0
  let qs := mapFlagged (fun k => ropeRow st false (posOf k) ((List.range d).map (fun e => x.at k e))) (List.range n)
  let dOs := (List.range n).map (fun k => (List.range d).map (fun e => y.at k e))
  let blocks := itemBlocks t m st q h
  let per := mapFlagged (fun (kb : KeyBlock) =>
    (mapFlagged (fun k => backScores m st proof h kb (rows.getD k ⟨0, 0, false, 0, 0, false⟩) (qs.val.getD k []) (dOs.getD k []) (x.at k d) (x.at k (d + 1)))
      (List.range n)).andThen (fun l => plain (kb, l))) blocks
  let kscale := fun (kb : KeyBlock) => if kb.scaled then fmul kb.ks (atScale st) else plain (atScale st)
  let dQ := mapFlagged (fun k =>
    (foldFlagged (fun acc (p : KeyBlock × List (List (Word × Word))) =>
      (kscale p.1).andThen (fun sc =>
      (mapFlagged (fun z => toA16 z.2) (p.2.getD k [])).andThen (fun ds =>
      mapFlagged (fun e =>
        (dotAcc proof 0 ds ((List.range p.1.n).map (fun j => p.1.elem m g d h j e false))).andThen (fun v =>
        (fmul v sc).andThen (fun v => fadd (acc.getD e 0) v))) (List.range d))))
      (List.replicate d (0 : Word)) per.val).andThen (fun r => ropeRow st true (posOf k) r)) (List.range n)
  let E := t.entries
  let col := fun (l : List (List (Word × Word))) j => l.map (fun r => r.getD j (0, 0))
  let acc := mapFlagged (fun (p : KeyBlock × List (List (Word × Word))) =>
    mapFlagged (fun j =>
      let base := ((q.seg.entry + p.1.entry.getD 0) * g + h) * 256 + p.1.lo + j
      (mapFlagged (fun z => toA16 z.1) (col p.2 j)).andThen (fun ps =>
      (mapFlagged (fun z => toA16 z.2) (col p.2 j)).andThen (fun ds =>
      (mapFlagged (fun e => (mapFlagged (fun (r : List Word) => toA16 (r.getD e 0)) dOs).andThen (fun o => dotAcc proof 0 ps o)) (List.range d)).andThen (fun dV =>
      (mapFlagged (fun e => (mapFlagged (fun (r : List Word) => toA16 (r.getD e 0)) qs.val).andThen (fun o =>
        (dotAcc proof 0 ds o).andThen (fun v => fmul v (atScale st)))) (List.range d)).andThen (fun dK =>
      (ropeRow st true (p.1.firstPos + p.1.lo + j) dK).andThen (fun dK =>
      plain [(base, dK), (base + E * g * 256, dV)])))))) (List.range p.1.n)) per.val
  let Q := rpQueue b st.out
  let es := dQ.val.flatMap id
  let fl := qs.flags ||| per.flags ||| dQ.flags ||| acc.flags
  { tile := some { rows := Q.rows, cols := Q.cols, valid := es.length, elems := es ++ List.replicate (Q.rows * Q.cols - es.length) 0,
                   flags := fl, faults := 0 },
    mass := [], pairs := [], writes := [], accum := acc.val.flatMap (fun l => l.flatMap id), flags := fl }

/-- Item `t` of a route's grid: its query tile and KV head. -/
def itemAt (m : Mem) (b : Bytes) (st : Station) (tbl : AttTable) (t : Nat) : Option (QueryTile × Nat) :=
  ((queryTiles tbl m st)[t / rpCols b]?).map (fun q => (q, t % rpCols b))

/-- The cycles of an item (R428, R434, R442, R465). -/
def itemCycles (t : AttTable) (m : Mem) (st : Station) (q : QueryTile) : Nat :=
  let eight := fun (k : KeyBlock) => [4, 5, 7].contains st.inFmt && [4, 5, 7, 10].contains k.fmt
  let blocks := itemBlocks t m st q 0
  let score := min 16 ((itemRows t m st q).filter (·.score)).length
  let pages := ((List.range q.seg.entries).filter (fun i => (t.entry m (q.seg.entry + i)).state == 0)).length
  96 + blocks.foldl (fun n k => n + (if st.op = 2 then max (5 * atD st) 128 else max (if eight k then atD st else 2 * atD st) 64)) 0
    + (if score = 0 then 0 else (pages * score + 63) / 64 + 32)

/-- A program whose cycles_fixed covers the prescan of its attention table and whose cycles_per_tile covers the largest item
(R435, R448): the greater of what it has and of what the table needs (DEDUCED, log entry 124). -/
def attendCycles (m : Mem) (b : Bytes) (binds : List Binding) (st : Station) : Bytes :=
  let t := tableOf m binds st
  let item := (queryTiles t m st).foldl (fun n q => max n (itemCycles t m st q)) 0
  b.take 32 ++ leBytes 4 (max (rpFixed b) (64 + 8 * t.entries)) ++ leBytes 4 (max (rpPerTile b) item) ++ b.drop 40

/-- The ranges that an item writes: masses, APPEND's elements and BACKWARD's rows (R438, R441, R464). -/
def itemRanges (m : Mem) (binds : List Binding) (st : Station) (q : QueryTile) (h : Nat) (o : ItemOut) : List (Nat × Nat) :=
  let t := tableOf m binds st
  let d := binds.getD (atAccum st) ⟨0, 0, 0, 0, 0⟩
  o.mass.map (fun x => (t.mass + 4 * ((q.seg.entry + x.1) * atKvHeads st + h), 4))
  ++ o.writes.map (fun w => (w.1 + w.2.2.1 * fmtBits w.2.1 / 8, (fmtBits w.2.1 + 7) / 8))
  ++ (o.accum.filter (fun x => decide (x.1 < d.rows))).map (fun x => (d.addr + x.1 * d.stride, 4 * x.2.length))

/-- What ATTEND does with an item. -/
def attendItem (m : Mem) (b : Bytes) (st : Station) (binds : List Binding) (proof : Bool) (t : Nat) (x y : Tile) : Option ItemOut :=
  let tbl := tableOf m binds st
  (itemAt m b st tbl t).map (fun p =>
    match st.op with
    | 0 => appendItem m st tbl p.1 p.2 x y
    | 1 => forwardItem m b st tbl proof p.1 p.2 x
    | _ => backwardItem m b st tbl proof p.1 p.2 x y)

end Sys2Proof.Machine
end

