-- ==== Sys2Proof/Machine/RouteEval.lean ====
section
/-!
DEFINITION. Machine/RouteEval.lean: the streams of tiles of a route, its writes to memory, and the operations of FIELD_OP
(R351, R356–R362, R379).
-/
namespace Sys2Proof.Machine

/-! Streams. -/

/-- What the streams of a route are computed from. -/
structure RouteEnv where
  mem : Mem
  prog : Bytes
  binds : List Binding
  /-- Sectors of the partition. -/
  size : Nat
  proof : Bool
  /-- Physical numbers of its sectors, in logical order. -/
  phys : List Nat
  /-- The queues, with the tiles already published. -/
  queues : List QueuePos
  /-- The free number behind the order of arrival. -/
  arrive : Nat

def RouteEnv.bind (v : RouteEnv) (i : Nat) : Binding := v.binds.getD i ⟨0, 0, 0, 0, 0⟩

/-- The streams known so far, by sector and queue. -/
abbrev Streams := List ((Nat × Nat) × List Tile)

def Streams.get (x : Streams) (sector q : Nat) : List Tile :=
  match x.find? (fun e => e.1 == (sector, q)) with | some e => e.2 | none => []

/-- The tiles of a queue that are published. -/
def publishedTiles (qs : List QueuePos) (sector q : Nat) : List Tile :=
  match qs.find? (fun p => p.sector == sector && p.queue == q) with | some p => p.tiles | none => []

/-- A list cut into runs of `n`; `fuel` runs at most. -/
def chunks {α : Type} (n : Nat) : Nat → List α → List (List α)
  | 0, _ => []
  | f + 1, l => if l.isEmpty ∨ n = 0 then [] else l.take n :: chunks n f (l.drop n)

/-- Sectors in the order in which their partial results are combined: ascending in Proof mode (R360), by arrival in
Throughput mode (R359). -/
def combineOrder (proof : Bool) (arrive : Nat) (l : List Nat) : List Nat :=
  if proof then l else l.mergeSort (fun a b => decide (Config.arrival arrive a ≤ Config.arrival arrive b))

/-- The partial tiles of MATRIX in one sector: one per output tile. -/
def matrixPartials (v : RouteEnv) (x : Streams) (st : Station) (s : Nat) : List Tile :=
  let n := (stepsOf v.prog v.size s).length
  let a := x.get s st.q0
  let b := x.get s st.q1
  (List.range ((tilesOf v.prog v.size s).length)).map (fun i =>
    matrixTile v.proof (rpQueue v.prog st.q0) (rpQueue v.prog st.q1) ((a.drop (i * n)).take n) ((b.drop (i * n)).take n))

/-- MATRIX: with split_k the owner adds the partial tiles of the groups (R356, R359, R360). -/
def matrixStream (v : RouteEnv) (x : Streams) (st : Station) (s : Nat) : List Tile :=
  let n := groupSize v.prog v.size
  if s ≥ n then []
  else
    let own := matrixPartials v x st s
    if rpSplit v.prog = 1 then own
    else
      let parts := (List.range (rpSplit v.prog)).map (fun g => (s + g * n, matrixPartials v x st (s + g * n)))
      (List.range own.length).filterMap (fun i =>
        let order := combineOrder v.proof (v.arrive + i) (parts.map (·.1))
        let ts := order.filterMap (fun k => (parts.find? (fun p => p.1 == k)).bind (fun p => p.2[i]?))
        match ts with
        | [] => none
        | t :: rest => some (rest.foldl addTiles t))

/-- A global REDUCE: every sector reduces its stream, the leader combines (R359, R360). -/
def globalReduce (v : RouteEnv) (x : Streams) (st : Station) (s : Nat) : List Tile :=
  if s ≠ 0 then []
  else
    let axis := fld (wat st.words 2) 0 0
    let lines := fun k => joinLines axis (x.get k st.q0)
    let q := rpQueue v.prog st.out
    let sectors := (List.range v.size).filter (fun k => !(x.get k st.q0).isEmpty)
    let r : Flagged (List Word) :=
      if st.op = 3 ∨ st.op = 4 then
        let all := sectors.foldl (fun acc k => if acc.isEmpty then lines k else List.zipWith (· ++ ·) acc (lines k)) []
        let y := mapFlagged (reduceLine st.inFmt st.op) all
        ⟨y.val.flatMap id, y.flags⟩
      else
        let parts := (combineOrder v.proof v.arrive sectors).map (fun k => mapFlagged (reduceLine st.inFmt st.op) (lines k))
        match parts with
        | [] => plain []
        | p :: ps => ps.foldl (fun acc y =>
            let z := zipFlagged (combine st.inFmt st.op) acc.val (y.val.flatMap id)
            ⟨z.val, acc.flags ||| y.flags ||| z.flags⟩) ⟨p.val.flatMap id, p.flags⟩
    flagLast r.flags (cutTiles q (r.val.length + 1) r.val)

/-- The tiles of items that ATTEND sends to its output queue. -/
def attendStream (v : RouteEnv) (x : Streams) (st : Station) (s : Nat) : List Tile :=
  let ts := tilesOf v.prog v.size s
  (List.range ts.length).filterMap (fun k =>
    match (x.get s st.q0)[k]? with
    | none => none
    | some a => (attendItem v.mem v.prog st v.binds v.proof (ts.getD k 0) a ((x.get s st.q1).getD k ⟨0, 0, 0, [], 0, 0⟩)).bind (·.tile))

/-- Conversions that a MAP station has made before tile `k` of a stream. -/
def convertedBefore (l : List Tile) (k : Nat) : Nat := (l.take k).foldl (fun n t => n + t.valid) 0

/-- The whole output stream of a station in sector `s`, from its whole input streams. -/
def stationStream (v : RouteEnv) (x : Streams) (st : Station) (s : Nat) : List Tile :=
  let b := v.prog
  let q := rpQueue b st.out
  let in0 := x.get s st.q0
  let in1 := x.get s st.q1
  let keys := fun (l : List Tile) => l.flatMap tileKeys
  match st.typ with
  | 1 =>
    let m := stMap st
    (tilesOf b v.size s).flatMap (fun t =>
      let one := fun k => loadTile v.mem (v.bind st.operand) q (stTile st q) m (t / rpCols b) (t % rpCols b) t k
      if m ≤ 1 then (stepsOf b v.size s).map one else [one 0])
  | 2 => in0.map (gatherTile v.mem (v.bind st.operand) q (fld (wat st.words 2) 15 0))
  | 3 => matrixStream v x st s
  | 4 => attendStream v x st s
  | 5 => (List.range in0.length).filterMap (fun k => in0[k]?.map (fun t =>
      mapTile (rpStoch b && !v.proof) (rpSeed b) (v.phys.getD s 0) (convertedBefore in0 k) (mapOps st) (wat st.words 4) (wat st.words 5)
        st.inFmt (rpQueue b st.q1).fmt q t (if st.q1 = 0xFF then none else in1[k]?)))
  | 6 => if wbit (wat st.words 2) 1 && st.op != 5 then globalReduce v x st s
      else in0.map (reduceTile st.inFmt st.op (fld (wat st.words 2) 0 0))
  | 7 => segmentStream st.inFmt st.op q in0 in1
  | 8 =>
    let desc := wbit (wat st.words 2) 0
    match st.op with
    | 0 => in0.map (fun t => keyTile q (sortKeys st.inFmt desc (tileKeys t)))
    | 1 =>
      let l := mergeKeys st.inFmt desc ((keys in0).length + (keys in1).length) (keys in0) (keys in1)
      keyTiles q (l.length + 1) l
    | _ =>
      let l := (sortKeys st.inFmt desc (keys in0)).take (fld (wat st.words 2) 24 16)
      keyTiles q (l.length + 1) l
  | 9 =>
    let a := in0.flatMap Tile.live
    let c := in1.flatMap Tile.live
    let l := setopWords (wbit (wat st.words 2) 0) (setop st.op (a.length + c.length) 0 0 a c)
    cutTiles q (l.length + 1) l
  | _ => []

/-- The streams of a whole route: station after station in an order that the graph allows; a tile already published
stands as it was published. -/
def routeStreams (v : RouteEnv) : Streams :=
  let sts := rpAll v.prog
  ((topoOrder sts sts.length []).getD []).foldl (fun x i =>
    match sts[i]? with
    | none => x
    | some st =>
      if st.out = 0xFF then x
      else x ++ (List.range v.size).map (fun s =>
        let pub := publishedTiles v.queues s st.out
        ((s, st.out), pub ++ (stationStream v x st s).drop pub.length))) []

/-! Writes (R347, R351, R361, R363). -/

/-- Write one element of an operand. -/
def putElem (m : Mem) (d : Binding) (f r c : Nat) (w : Word) : Mem :=
  let m1 := pokeElem m (d.addr + r * d.stride) f c w
  if f = 6 then { m1 with dev := m1.dev.put (d.aux + r * (d.cols / 32) + c / 32) (BitVec.ofNat 8 (w.toNat / 16)) } else m1

/-- The elements of a tile that STORE writes: their places and codes. -/
def storeElems (d : Binding) (q : Queue) (shape : Nat × Nat) (map i j t : Nat) (x : Tile) : List (Nat × Nat × Word) :=
  (List.range x.valid).filterMap (fun e =>
    let p := tilePlace map q.fmt shape.1 shape.2 d.cols i j t 0 (e / shape.2) (e % shape.2)
    if p.1 < d.rows ∧ p.2 < d.cols then some (p.1, p.2, x.elems.getD e 0) else none)

/-- The device ranges that a list of elements covers, one byte range for each element, and for MXFP4 that of its block's scale. -/
def elemRanges (d : Binding) (f : Nat) (l : List (Nat × Nat × Word)) : List (Nat × Nat) :=
  l.map (fun e => (elemAddr d f e.1 e.2.1, (fmtBits f + 7) / 8))
  ++ (if f = 6 then l.map (fun e => (d.aux + e.1 * (d.cols / 32) + e.2.1 / 32, 1)) else [])

/-- Combine of SCATTER: NONE, ADD, MAX, MIN (R347). -/
def scatterCombine (f op : Nat) (old new : Word) : Flagged Word :=
  match op with
  | 0 => plain new
  | 1 => combine f 0 old new
  | 2 => combine f 1 old new
  | _ => combine f 2 old new

/-- The rows that SCATTER writes: destination row and its words, as far as the data tile's count goes (R353); and the out-of-range
indices (R346). -/
def scatterRows (d : Binding) (width : Nat) (idx data : Tile) : List (Nat × List Word) × Nat :=
  let l := (List.range idx.valid).map (fun k =>
    (idx.elems.getD k 0, ((List.range width).filter (fun c => data.has k c)).map (fun c => data.at k c)))
  (l.filterMap (fun p => if p.1.toNat < d.rows then some (p.1.toNat, p.2) else none),
   (l.filter (fun p => decide (d.rows ≤ p.1.toNat) && p.1 != 0xFFFFFFFF)).length)

/-- Apply one row at its destination. -/
def scatterRow (m : Mem) (d : Binding) (f op row : Nat) (ws : List Word) : Flagged Mem :=
  foldFlagged (fun m (p : Nat × Word) =>
    let a := d.addr + row * d.stride + 4 * p.1
    let r := scatterCombine f op (BitVec.ofNat 32 (leNat (m.dev.read a 4))) p.2
    ⟨{ m with dev := m.dev.write a (leBytes 4 r.val.toNat) }, r.flags⟩) m ((List.range ws.length).zip ws)

/-- Whether a SCATTER is carried out in the two phases of R361. -/
def twoPhase (proof : Bool) (f op : Nat) : Bool := proof && f == 1 && decide (op ≤ 1)

/-- Update a sector's private copy (R361). -/
def copyRow (copies : List (Nat × Nat × Word)) (s : Nat) (d : Binding) (op row : Nat) (ws : List Word) :
    Flagged (List (Nat × Nat × Word)) :=
  foldFlagged (fun l (p : Nat × Word) =>
    let a := d.addr + row * d.stride + 4 * p.1
    let old := match l.find? (fun e => e.1 == s && e.2.1 == a) with | some e => e.2.2 | none => 0
    let r := scatterCombine 1 op old p.2
    ⟨l.filter (fun e => !(e.1 == s && e.2.1 == a)) ++ [(s, a, r.val)], r.flags⟩) copies ((List.range ws.length).zip ws)

/-- The end of the two phases: every sector's copy applied to every destination row, sectors ascending (R361). -/
def applyCopies (m : Mem) (d : Binding) (op width size : Nat) (copies : List (Nat × Nat × Word)) : Flagged Mem :=
  foldFlagged (fun m row =>
    foldFlagged (fun m c =>
      let a := d.addr + row * d.stride + 4 * c
      let old : Word := BitVec.ofNat 32 (leNat (m.dev.read a 4))
      let r := foldFlagged (fun v s =>
        match copies.find? (fun e => e.1 == s && e.2.1 == a) with
        | some e => scatterCombine 1 op v e.2.2
        | none => if op = 1 then fadd v 0 else plain v) old (List.range size)
      ⟨{ m with dev := m.dev.write a (leBytes 4 r.val.toNat) }, r.flags⟩) m (List.range width)) m (List.range d.rows)

/-- The operation block of the firmware's greedy SAMPLE route (R476): for each of `rows` rows of `cols` FP32 logits, `stride` bytes
apart, the index of the greatest. -/
def greedyBlock (rows cols stride logits tokens : Nat) : Bytes :=
  leBytes 4 (0x80 * 2 ^ 24 + 2 ^ 16 + 8) ++ leBytes 4 0 ++ leBytes 4 rows ++ leBytes 4 cols ++ leBytes 4 stride ++ leBytes 8 logits
    ++ leBytes 8 0 ++ leBytes 8 tokens ++ List.replicate 20 0

/-! FIELD_OP (R379, R380), and the firmware's own SAMPLE route (R476), whose operation block has a number that no FIELD_OP has. -/

def foOp (b : Bytes) : Nat := fld (wordAt b 0) 31 24
def foA (b : Bytes) : Nat := fld (wordAt b 0) 23 16
def foB (b : Bytes) : Nat := fld (wordAt b 0) 15 8
def foOut (b : Bytes) : Nat := fld (wordAt b 0) 7 0
def foVariant (b : Bytes) : Nat := fld (wordAt b 1) 31 16
def foK (b : Bytes) : Nat := fld (wordAt b 1) 15 0
def foM (b : Bytes) : Nat := (wordAt b 2).toNat
def foN (b : Bytes) : Nat := (wordAt b 3).toNat
def foDim (b : Bytes) : Nat := (wordAt b 4).toNat
def foAddrA (b : Bytes) : Nat := dwordAt b 5
def foAddrB (b : Bytes) : Nat := dwordAt b 7
def foAddrOut (b : Bytes) : Nat := dwordAt b 9
def foScaleA (b : Bytes) : Nat := dwordAt b 11
def foScaleB (b : Bytes) : Nat := dwordAt b 13
def foRows (b : Bytes) : Nat := (wordAt b 15).toNat

/-- Whether an operation block keeps R379 and R174. -/
def fieldOpOk (b : Bytes) : Bool :=
  let key := fun f => [1, 8, 9].contains f
  let noScale := foScaleA b == 0 && foScaleB b == 0
  match foOp b with
  | 1 =>
    fmtFamily (foA b) != 0 && fmtFamily (foA b) == fmtFamily (foB b) && inRange 1 9 (foOut b) && foOut b != 6
    && foVariant b == 0 && foK b == 0 && foDim b % 32 == 0 && decide (1 ≤ foDim b) && decide (1 ≤ foM b) && decide (1 ≤ foN b)
    && (foA b == 6 || noScale) && foRows b == 0
  | 2 =>
    key (foA b) && foB b == 0 && foOut b == foA b && decide (foVariant b ≤ 3) && foK b == 0 && foN b == 0 && foDim b == 0
    && noScale && foRows b == 0 && (foVariant b / 2 % 2 == 1 || foAddrB b == 0)
  | 3 =>
    key (foA b) && foB b == 0 && foOut b == foA b && decide (foVariant b ≤ 3) && inRange 1 256 (foK b) && foN b == 0 && foDim b == 0
    && noScale && foRows b == 0 && (foVariant b / 2 % 2 == 1 || foAddrB b == 0)
  | 4 =>
    foA b == 9 && foB b == 0 && foOut b == 9 && decide (foVariant b ≤ 7) && foVariant b % 4 != 3
    && foK b == 0 && foDim b == 0 && noScale && foRows b == 0
  | 5 =>
    inRange 1 9 (foA b) && foA b != 6 && foB b == 0 && foOut b == foA b && foVariant b == 0 && foK b == 0 && foDim b == 0 && noScale
  | 6 =>
    foA b == 0 && (foB b == 1 || foB b == 8) && foOut b == foB b && decide (foVariant b ≤ 3) && foK b == 0 && foDim b == 0 && noScale
  | _ => false

/-- A dense row-major operand. -/
def dense (addr aux f rows cols : Nat) : Binding := ⟨addr, aux, (cols * fmtBits f + 7) / 8, rows, cols⟩

/-- The B operand of MATMUL: K × N, or N-major for MXFP4 (R348). -/
def foBindB (b : Bytes) : Binding :=
  if foB b = 6 then dense (foAddrB b) (foScaleB b) 6 (foN b) (foDim b) else dense (foAddrB b) 0 (foB b) (foDim b) (foN b)

/-- Words that a key output takes for each key: two arrays with a payload, three words with emit_indices. -/
def foKeyWords (b : Bytes) : Nat :=
  match foOp b with
  | 4 => if foVariant b / 4 % 2 = 1 then 3 else 1
  | _ => if foVariant b / 2 % 2 = 1 then 2 else 1

/-- The ranges that an operation reads, and those that it writes: address, bytes. -/
def foReads (b : Bytes) : List (Nat × Nat) :=
  match foOp b with
  | 1 =>
    let mx := fun f addr n => if f = 6 then [(addr, n / 32)] else []
    [(foAddrA b, (foM b * foDim b * fmtBits (foA b) + 7) / 8), (foAddrB b, (foDim b * foN b * fmtBits (foB b) + 7) / 8)]
      ++ mx (foA b) (foScaleA b) (foM b * foDim b) ++ mx (foB b) (foScaleB b) (foN b * foDim b)
  | 4 => [(foAddrA b, 4 * foM b), (foAddrB b, 4 * foN b)]
  | 5 => [(foAddrA b, 4 * foM b), (foAddrB b, 4 * foRows b * foN b)]
  | 6 => [(foAddrA b, 4 * foM b), (foAddrB b, 4 * foM b * foN b)]
  | 0x80 => [(foAddrA b, (foM b - 1) * foDim b + 4 * foN b)]
  | _ => (foAddrA b, 4 * foM b) :: (if foVariant b / 2 % 2 = 1 then [(foAddrB b, 4 * foM b)] else [])

def foWrites (b : Bytes) : List (Nat × Nat) :=
  match foOp b with
  | 1 => [(foAddrOut b, (foM b * foN b * fmtBits (foOut b) + 7) / 8)]
  | 2 => [(foAddrOut b, 4 * foM b * foKeyWords b)]
  | 3 => [(foAddrOut b, 4 * min (foK b) (foM b) * foKeyWords b)]
  | 4 => [(foAddrOut b, 4 * (foM b + foN b) * foKeyWords b)]
  | 5 => [(foAddrOut b, 4 * foM b * foN b)]
  | 0x80 => [(foAddrOut b, 4 * foM b)]
  | _ => [(foAddrOut b, 4 * foRows b * foN b)]

/-- Reduction length of a step, and split_k, that the firmware chooses (R380). -/
def foStep (b : Bytes) (P : Nat) : Nat := 32 * (1 + Config.fieldStep b P % 8)
def foSplit (b : Bytes) (P : Nat) : Nat :=
  let n := 2 ^ (Config.fieldSplit b P % 5)
  if P % n = 0 ∧ n ≤ ceilDiv (foDim b) (foStep b P) then n else 1

/-- One element of a MATMUL: partials of the groups, combined (R356, R359, R360). -/
def matmulElem (m : Mem) (b : Bytes) (P : Nat) (proof : Bool) (arrive i j : Nat) : Flagged Word :=
  let A := dense (foAddrA b) (foScaleA b) (foA b) (foM b) (foDim b)
  let B := foBindB b
  let S := foSplit b P
  let steps := ceilDiv (foDim b) (foStep b P)
  let part := fun g =>
    let lo := ceilDiv (g * steps) S * foStep b P
    let hi := min (foDim b) (ceilDiv ((g + 1) * steps) S * foStep b P)
    let ks := (List.range (hi - lo)).map (lo + ·)
    dotAcc proof 0 (ks.map (fun k => toFp (foA b) (elemAt m A (foA b) i k)))
      (ks.map (fun k => toFp (foB b) (if foB b = 6 then elemAt m B 6 j k else elemAt m B (foB b) k j)))
  match combineOrder proof arrive (List.range S) with
  | [] => plain 0
  | g :: gs =>
    (gs.foldl (fun (acc : Flagged Word) k =>
      let y := part k
      let z := fadd acc.val y.val
      ⟨z.val, acc.flags ||| y.flags ||| z.flags⟩) (part g)).andThen (fromF32 (foOut b))

/-- The words of an array in device memory. -/
def memWords (m : Mem) (a n : Nat) : List Word := toWords n (m.dev.read a (4 * n))

/-- Write a list of words. -/
def putWords (m : Mem) (a : Nat) (ws : List Word) : Mem := { m with dev := m.dev.write a (ofWords ws) }

/-- What a FIELD_OP does to memory: the memory after it, its flags, its out-of-range indices and its key count. -/
structure FieldOut where
  mem : Mem
  flags : Word
  faults : Nat
  keys : Nat

def fieldOpRun (m : Mem) (b : Bytes) (P : Nat) (proof : Bool) (arrive : Nat) : FieldOut :=
  let out := fun (ws : List Word) (fl : Word) (faults keys : Nat) =>
    ({ mem := putWords m (foAddrOut b) ws, flags := fl, faults := faults, keys := keys } : FieldOut)
  let payload := foVariant b / 2 % 2 = 1
  let keyed := (memWords m (foAddrA b) (foM b)).zip
    (if payload then memWords m (foAddrB b) (foM b) else List.replicate (foM b) 0)
  let sorted := sortKeys (foA b) (foVariant b % 2 == 1) keyed
  let emit := fun (l : List Keyed) => l.map (·.1) ++ (if payload then l.map (·.2) else [])
  match foOp b with
  | 1 =>
    let d := dense (foAddrOut b) 0 (foOut b) (foM b) (foN b)
    let r := foldFlagged (fun m2 e =>
      (matmulElem m b P proof (arrive + e) (e / foN b) (e % foN b)).andThen (fun w =>
        plain (putElem m2 d (foOut b) (e / foN b) (e % foN b) w))) m (List.range (foM b * foN b))
    { mem := r.val, flags := r.flags, faults := 0, keys := 0 }
  | 2 => out (emit sorted) 0 0 0
  | 3 => out (emit (sorted.take (foK b))) 0 0 0
  | 4 =>
    let a := memWords m (foAddrA b) (foM b)
    let c := memWords m (foAddrB b) (foN b)
    let l := setop (foVariant b % 4) (a.length + c.length) 0 0 a c
    out (setopWords (foVariant b / 4 % 2 == 1) l) 0 0 l.length
  | 5 =>
    let idx := memWords m (foAddrA b) (foM b)
    let rows := idx.map (fun i => if i.toNat < foRows b then memWords m (foAddrB b + 4 * i.toNat * foN b) (foN b)
      else List.replicate (foN b) 0)
    out (rows.flatMap id) 0 (idx.filter (fun i => decide (foRows b ≤ i.toNat) && i != 0xFFFFFFFF)).length 0
  | 0x80 => out ((List.range (foM b)).map (fun r =>
      ((reduceLine 1 3 (memWords m (foAddrA b + r * foDim b) (foN b))).val).getD 0 0)) 0 0 0
  | _ =>
    let idx := memWords m (foAddrA b) (foM b)
    let d := dense (foAddrOut b) 0 1 (foRows b) (foN b)
    let op := foVariant b % 4
    let row := fun k => memWords m (foAddrB b + 4 * k * foN b) (foN b)
    let ks := (List.range (foM b)).filter (fun k => decide ((idx.getD k 0).toNat < foRows b))
    let order := if proof ∨ foB b ≠ 1 ∨ 1 < op then ks
      else ks.mergeSort (fun i j => decide (Config.arrival arrive i ≤ Config.arrival arrive j))
    let r := if twoPhase proof (foB b) op then
        (foldFlagged (fun l k => copyRow l (Config.fieldOwner b k % P) d op (idx.getD k 0).toNat (row k)) [] ks).andThen (fun l =>
          applyCopies m d op (foN b) P l)
      else foldFlagged (fun m2 k => scatterRow m2 d (foB b) op (idx.getD k 0).toNat (row k)) m order
    { mem := r.val, flags := r.flags, faults := (idx.filter (fun i => decide (foRows b ≤ i.toNat) && i != 0xFFFFFFFF)).length, keys := 0 }

/-! The route that FIELD_OP builds (R380): the stations and the queues that the operation takes, in the form of a route program. The
tiles, the depths and the order of the parts are the firmware's, which the spec does not give (DESIGN CHOICE, log entry 143). -/

/-- A station entry (R350): type and operation, formats, queues, operand, and word 2. -/
def stationBytes (typ op fi fo q0 q1 out operand w2 : Nat) : Bytes :=
  leBytes 4 (typ * 2 ^ 28 + op * 2 ^ 24 + fi * 2 ^ 16 + fo * 2 ^ 8) ++ leBytes 4 (q0 * 2 ^ 24 + q1 * 2 ^ 16 + out * 2 ^ 8 + operand)
    ++ leBytes 4 w2 ++ List.replicate 20 0

/-- Queue entries of depth 2, their regions one after another from word `base` (R353). -/
def queueEntries : Nat → List (Nat × Nat × Nat) → Bytes
  | _, [] => []
  | base, (r, c, f) :: rest =>
    leBytes 4 (r * 2 ^ 16 + c) ++ leBytes 4 (f * 2 ^ 24 + 2 * 2 ^ 20) ++ leBytes 4 base ++ List.replicate 4 0
      ++ queueEntries (base + 2 * tileWords ⟨r, c, f, 2, base⟩) rest

/-- An operand descriptor (R354). -/
def operandBytes (x : Nat × Nat) : Bytes := leBytes 4 (x.1 * 2 ^ 28 + x.2 * 2 ^ 20) ++ List.replicate 12 0

/-- A program of stations, queues (rows, columns, format) and operands (role, format) for a partition of `P` sectors (R349). -/
def programBytes (P : Nat) (sts : List Bytes) (qs : List (Nat × Nat × Nat)) (ops : List (Nat × Nat)) (rows cols split steps : Nat) : Bytes :=
  let n := 128 + 32 * sts.length + 16 * (qs.length + ops.length)
  let scratch := qs.foldl (fun n q => n + 2 * tileWords ⟨q.1, q.2.1, q.2.2, 2, 0⟩) 0
  let body := fun (crc : Nat) =>
    leBytes 4 (2 ^ 24 + sts.length * 2 ^ 16 + qs.length * 2 ^ 8 + ops.length) ++ leBytes 4 n ++ leBytes 4 crc ++ leBytes 4 P
      ++ leBytes 4 (min 65535 rows * 2 ^ 16 + min 65535 cols) ++ leBytes 4 (split * 2 ^ 24 + min 65535 steps) ++ leBytes 4 0
      ++ leBytes 4 scratch ++ List.replicate 96 0 ++ sts.flatMap id ++ queueEntries 0 qs ++ ops.flatMap operandBytes
  body (crc32c (body 0)).toNat

/-- Rows of an index tile: as many as let a row of `n` words each fit a tile. -/
def foTileRows (b : Bytes) : Nat := max 1 (min (min 256 (foM b)) (16384 / max 1 (foN b)))
/-- The shape of a tile of `r` rows of `n` elements each: its columns hold a row where they can (R353). -/
def foTileShape (r n : Nat) : Nat × Nat := if n ≤ 256 then (r, max 1 n) else (min 256 (ceilDiv (r * n) 256), 256)

/-- The program of an operation block for a partition of `P` sectors. -/
def foProgram (b : Bytes) (P : Nat) : Bytes :=
  let x := 0xFF
  match foOp b with
  | 1 =>
    let r := min 128 (foM b)
    let c := min 128 (foN b)
    let k := foStep b P
    let plain := foOut b == 1
    programBytes P
      ([stationBytes 1 0 0 (foA b) x x 0 0 0, stationBytes 1 0 0 (foB b) x x 1 1 1, stationBytes 3 0 (foA b) 1 0 1 2 x 0]
        ++ (if plain then [stationBytes 11 0 1 0 2 x x 2 2] else [stationBytes 5 0 1 (foOut b) 2 x 3 x 0, stationBytes 11 0 (foOut b) 0 3 x x 2 2]))
      ([(r, k, foA b), (k, c, foB b), (r, c, 1)] ++ (if plain then [] else [(r, c, foOut b)]))
      [(0, foA b), (0, foB b), (1, foOut b)] (ceilDiv (foM b) r) (ceilDiv (foN b) c) (foSplit b P) (ceilDiv (foDim b) k)
  | 4 =>
    programBytes P [stationBytes 1 0 0 9 x x 0 0 3, stationBytes 1 0 0 9 x x 1 1 3,
        stationBytes 9 (foVariant b % 4) 9 9 0 1 2 x (foVariant b / 4 % 2), stationBytes 11 0 9 0 2 x x 2 3]
      [(1, 256, 9), (1, 256, 9), (1, 256, 9)] [(0, 9), (0, 9), (1, 9)] 1 (max 1 (ceilDiv (max (foM b) (foN b)) 256)) 1 1
  | 5 =>
    let r := foTileRows b
    let y := foTileShape r (foN b * (32 / max 1 (fmtBits (foA b))))
    programBytes P [stationBytes 1 0 0 9 x x 0 0 3, stationBytes 2 0 9 (foA b) 0 x 1 1 (foN b % 2 ^ 16), stationBytes 11 0 (foA b) 0 1 x x 2 3]
      [(1, r, 9), (y.1, y.2, foA b)] [(3, 9), (0, foA b), (1, foA b)] 1 (max 1 (ceilDiv (foM b) r)) 1 1
  | 6 =>
    let r := foTileRows b
    let y := foTileShape r (foN b)
    programBytes P [stationBytes 1 0 0 9 x x 0 0 3, stationBytes 1 0 0 (foB b) x x 1 1 3,
        stationBytes 10 (foVariant b % 4) (foB b) 0 0 1 x 2 (foN b % 2 ^ 16)]
      [(1, r, 9), (y.1, y.2, foB b)] [(3, 9), (0, foB b), (if foVariant b % 4 = 0 then 1 else 2, foB b)]
      1 (max 1 (ceilDiv (foM b) r)) 1 1
  | 0x80 =>
    let c := max 1 (min 256 (foN b))
    programBytes P [stationBytes 1 0 0 1 x x 0 0 3, stationBytes 6 3 1 8 0 x 1 x 0, stationBytes 11 0 8 0 1 x x 1 3]
      [(1, c, 1), (1, 1, 8)] [(0, 1), (1, 8)] (max 1 (foM b)) (ceilDiv (foN b) c) 1 1
  | _ =>
    let rows := if foVariant b / 2 % 2 = 1 then 2 else 1
    programBytes P [stationBytes 1 0 0 (foA b) x x 0 0 3,
        stationBytes 8 (if foOp b = 3 then 2 else 0) (foA b) (foA b) 0 x 1 x (foVariant b % 2 + foK b * 2 ^ 16),
        stationBytes 11 0 (foA b) 0 1 x x 2 3]
      [(rows, 256, foA b), (rows, 256, foA b)] [(0, foA b), (0, foA b), (1, foA b)] 1 (max 1 (ceilDiv (foM b) 256)) 1 1

/-- The operands of an operation block, bound as its program numbers them: A, B and the output (R379). -/
def foBinds (b : Bytes) : List Binding :=
  match foOp b with
  | 1 => [dense (foAddrA b) (foScaleA b) (foA b) (foM b) (foDim b), foBindB b, dense (foAddrOut b) 0 (foOut b) (foM b) (foN b)]
  | 4 => [dense (foAddrA b) 0 9 1 (foM b), dense (foAddrB b) 0 9 1 (foN b), dense (foAddrOut b) 0 9 1 ((foM b + foN b) * foKeyWords b)]
  | 5 => [dense (foAddrA b) 0 9 1 (foM b), dense (foAddrB b) 0 1 (foRows b) (foN b), dense (foAddrOut b) 0 1 (foM b) (foN b)]
  | 6 => [dense (foAddrA b) 0 9 1 (foM b), dense (foAddrB b) 0 1 (foM b) (foN b), dense (foAddrOut b) 0 1 (foRows b) (foN b)]
  | 0x80 => [⟨foAddrA b, 0, foDim b, foM b, foN b⟩, dense (foAddrOut b) 0 8 (foM b) 1]
  | _ => [dense (foAddrA b) 0 1 1 (foM b), dense (foAddrB b) 0 1 1 (foM b), dense (foAddrOut b) 0 1 (foKeyWords b) (foM b)]

/-- The streams of a built route: as many tiles as its grid gives each queue, their contents the firmware's. What the operation leaves in
memory is `fieldOpRun`'s. -/
def builtStreams (v : RouteEnv) : Streams :=
  (rpAll v.prog).flatMap (fun st =>
    if st.out = 0xFF then []
    else (List.range v.size).map (fun s =>
      let q := rpQueue v.prog st.out
      let pub := publishedTiles v.queues s st.out
      let tiles := (tilesOf v.prog v.size s).length
      let n := if st.typ = 1 ∧ stMap st ≤ 1 then tiles * (stepsOf v.prog v.size s).length else if st.typ = 9 then 2 * tiles else tiles
      ((s, st.out), pub ++ (List.range (n - pub.length)).map (fun k =>
        { rows := q.rows, cols := q.cols, valid := q.rows * q.cols, flags := 0, faults := 0,
          elems := (List.range (q.rows * q.cols)).map (fun e =>
            Config.undefWord v.arrive (((32 * s + st.out) * 2 ^ 20 + pub.length + k) * 2 ^ 16 + e)) }))))

end Sys2Proof.Machine
end

