-- ==== Sys2Proof/Machine/PowerRules.lean ====
section
/-!
DEFINITION. Machine/PowerRules.lean: power units, who holds them, and the rules under which they may be powered down
or a profile may change (R650, R653–R659, R664).
-/
namespace Sys2Proof.Machine

/-- Class and number of a unit code (R655). -/
def unitClass (u : Nat) : Nat := u / 65536
def unitNumber (u : Nat) : Nat := u % 65536

/-- The LPDDR banks that a bank code names. -/
def bankList (n : Nat) : List Nat := if n = 0xFFFF then List.range 8 else [n]

/-- The state of a unit (R656). -/
def unitState (s : State) (u : Nat) : BitVec 2 :=
  match unitClass u with
  | 1 => s.power.sectors.getD (unitNumber u) 0
  | 2 => s.power.engines.getD (unitNumber u) 0
  | 3 => s.power.slices.getD (unitNumber u) 0
  | 4 => if unitNumber u = 0xFFFF then (if s.power.selfRefresh then 1 else s.power.banks.getD 0 0) else s.power.banks.getD (unitNumber u) 0
  | _ => 0

def setUnit (s : State) (u : Nat) (v : BitVec 2) : State :=
  let p := s.power
  let n := unitNumber u
  { s with power :=
    match unitClass u with
    | 1 => { p with sectors := p.sectors.set n v }
    | 2 => { p with engines := p.engines.set n v }
    | 3 => { p with slices := p.slices.set n v }
    | 4 => if n = 0xFFFF then
        (if v = 1 then { p with selfRefresh := true, banks := p.banks.map (fun b => if b = 0 then 0 else 1) }
         else { p with selfRefresh := false, banks := List.replicate 8 v })
      else { p with banks := p.banks.set n v }
    | _ => p }

/-- The logical sector for which a physical sector stands. -/
def logicalOf (s : State) (phys : Nat) : Option Nat := findIdx (fun x => x == SectorSlot.phys phys) s.field.map

/-- A spare sector or the spare engine (R333, R657). -/
def isSpare (s : State) (u : Nat) : Bool :=
  match unitClass u with
  | 1 => (logicalOf s (unitNumber u)).isNone
  | 2 => (getEngine s (unitNumber u)).mode != .active
  | _ => false

/-- Whether a partition entry holds a unit (R658). -/
def entryHolds (s : State) (e : List Word) (u : Nat) : Bool :=
  peValid e &&
  (match unitClass u with
   | 1 => (match logicalOf s (unitNumber u) with
      | some n => decide (peFirst e ≤ n) && decide (n < peFirst e + peSize e)
      | none => false)
   | 2 => peHasEngine e (unitNumber u)
   | 3 => peHasSlice e (unitNumber u)
   | _ => false)

/-- The partition of the running Plate that holds a unit. -/
def partHolding (s : State) (u : Nat) : Option Nat := (List.range 16).find? (fun p => entryHolds s (partEntry s p) u)

/-- Whether a range of device addresses touches a unit of class 3 or 4. -/
def rangeTouches (s : State) (u a n : Nat) : Bool :=
  match unitClass u with
  | 3 => (slicesOf s a n).contains (unitNumber u)
  | 4 => (banksOf a n).any (fun b => (bankList (unitNumber u)).contains b)
  | _ => false

/-- The rings of queues that lie in device memory (R163, R659). -/
def deviceRings (s : State) : List (Nat × Nat) :=
  (s.cmds.sqs.filter (·.inDevice)).map (fun q => (q.ring, 64 * q.depth))
  ++ (s.cmds.cqs.filter (·.inDevice)).map (fun q => (q.ring, 32 * q.depth))

/-- The page headers that running routes pin (R453). -/
def pinnedPages (s : State) : List Nat := 
  s.field.parts.flatMap (fun p => (p.run.toList ++ p.spilled.toList ++ p.fenced.toList).flatMap (·.pins))

/-- What keeps a slice or bank up (R659): protected ranges, payloads of ARMED etches, queue rings, pinned pages. -/
def unitBusy (s : State) (u : Nat) : Bool :=
  (protectedRanges s ++ deviceRings s).any (fun r => rangeTouches s u r.1 r.2)
  || (pinnedPages s).any (fun a => rangeTouches s u a 64)

/-- The checks on powering a unit down (R657–R659), with the partitions that the same etch takes it from. -/
def powerDownStatus (s : State) (u : Nat) (freed : Nat → Bool) : Option Status :=
  let heldBad := (List.range 16).any (fun p => entryHolds s (partEntry s p) u && !freed p && peMode (partEntry s p) != 2)
  if isSpare s u then some stPROTECTION
  else if heldBad then some stPROTECTION
  else if (unitClass u == 3 || unitClass u == 4) && unitBusy s u then some stNO_RESOURCE
  else none

/-- Sectors and engines that a profile allows ON (R650, R654). -/
def profileSectors (st : Nat) : Nat := if st = 3 then 4 else 16
def profileEngines (st : Nat) : Nat := if st = 3 then 4 else 8

def countOn (l : List (BitVec 2)) : Nat := (l.filter (· == 2)).length

/-- Whether a profile's caps hold for the unit states and the reservations given (R654). -/
def profileFits (st on engines gbs : Nat) : Bool :=
  decide (on ≤ profileSectors st) && decide (engines ≤ profileEngines st) && decide (gbs ≤ profileGbs st)

/-- The bandwidth that the running Plate reserves. -/
def reservedGbs (s : State) : Nat :=
  fld (wat s.plate.header 6) 9 0 +
    (List.range 16).foldl (fun n p => n + (if peValid (partEntry s p) then peRtGbs (partEntry s p) else 0)) 0

/-- The partitions that forbid a lower main clock (R653). -/
def clockBound (s : State) : List Nat := (List.range 16).filter (fun p => peValid (partEntry s p) && partHard s p)

/-- Whether a change to profile `b` lowers the main clock (R650, R653). -/
def lowersClock (s : State) (b : Nat) : Bool := decide (3 ≤ b) && decide (b < s.power.profile)

/-- The sector and engine states that count against a profile's caps: in STANDBY, those that return on waking (R648). -/
def sectorsNow (s : State) : List (BitVec 2) :=
  match s.power.saved with | some x => x.1 | none => s.power.sectors
def enginesNow (s : State) : List (BitVec 2) :=
  match s.power.saved with | some x => x.2.1 | none => s.power.engines

end Sys2Proof.Machine
end

