-- ==== Sys2Proof/Machine/ServoLoop.lean ====
section
/-!
DEFINITION. Machine/ServoLoop.lean: the computation of one sample of one channel (R301–R313), over plain integers: P
format has 16 fractional bits, slew and controller quantities have 32.
-/
namespace Sys2Proof.Machine

/-! The configuration descriptor (R325) and the coefficient block (R315). -/

def cfgOutMode (c : List Word) : Nat := fld (wat c 0) 23 22
def cfgReactStop (c : List Word) : Bool := wbit (wat c 0) 21
def cfgDivLog2 (c : List Word) : Nat := fld (wat c 0) 20 19
def cfgPhase (c : List Word) : Nat := fld (wat c 0) 18 16
def cfgXcheckEn (c : List Word) : Bool := wbit (wat c 0) 7
def cfgXcheckPs (c : List Word) : Nat := fld (wat c 0) 6 4
def cfgOutOffset (c : List Word) : Nat := fld (wat c 1) 31 16
def cfgOutShift (c : List Word) : Nat := fld (wat c 1) 15 8
def cfgOutWide (c : List Word) : Bool := wbit (wat c 1) 7
def cfgCtrlOffset (c : List Word) : Nat := fld (wat c 2) 31 16
def cfgStatusOffset (c : List Word) : Nat := fld (wat c 2) 15 0
def cfgPosOffset (c : List Word) : Nat := fld (wat c 3) 31 16
def cfgTffOffset (c : List Word) : Nat := fld (wat c 3) 15 0
def cfgCtrlEnable (c : List Word) : Nat := fld (wat c 4) 31 16
def cfgCtrlDisable (c : List Word) : Nat := fld (wat c 4) 15 0
def cfgFbFrac (c : List Word) : Nat := fld (wat c 7) 31 27
def cfgFbOffset (c : List Word) : Int := toSigned 64 (dat c 8)
def cfgXcheckLimit (c : List Word) : Int := toSigned 64 (dat c 10)

/-- The status word shows ready (R325). -/
def statusReady (c : List Word) (st : Nat) : Bool :=
  Nat.land st (fld (wat c 5) 31 16) == fld (wat c 5) 15 0

/-- The status word shows a drive fault (R325, R327). -/
def statusFault (c : List Word) (st : Nat) : Bool :=
  Nat.land st (fld (wat c 6) 31 16) == fld (wat c 6) 15 0

def blkJerkEn (b : List Word) : Bool := wbit (wat b 0) 15
def blkDOnError (b : List Word) : Bool := wbit (wat b 0) 14
def blkNotchCount (b : List Word) : Nat := fld (wat b 0) 13 12
def blkKshift (b : List Word) : Nat := fld (wat b 0) 3 0
def blkVel (b : List Word) : Int := toSigned 64 (dat b 2)
def blkAcc (b : List Word) : Int := toSigned 64 (dat b 4)
def blkJerk (b : List Word) : Int := toSigned 64 (dat b 6)
/-- A signed 32-bit field of the block. -/
def blkS (b : List Word) (i : Nat) : Int := (wat b i).toInt
def blkFeLimit (b : List Word) : Int := toSigned 64 (dat b 18)
def blkFeTime (b : List Word) : Nat := fld (wat b 20) 15 0

/-- Round to 16 fractional bits from `k + 16` and saturate to `n` bits (R302). -/
def rndTo (n k : Nat) (v : Int) : Int := satSigned n (divNearestEven v (2 ^ k))

/-- A P-format value extended to 32 fractional bits (R302). -/
def fine (v : Int) : Int := v * 65536

def sgn (v : Int) : Int := if v < 0 then -1 else if 0 < v then 1 else 0

/-- The largest velocity from which the set-point comes to rest within `D` (R307). `A` of 0 leaves the quotient open:
a free value. -/
def brake (D A : Int) : Int :=
  if D = 0 then 0
  else if A = 0 then Config.brakeNoAcc D
  else
    let n : Int := ((isqrt ((8 * D / A).toNat + 1) : Nat) - 1) / 2
    D / (n + 1) + A * n / 2

/-! Plan blocks (R249, R250). -/

def planChans (b : Bytes) : List Nat := ((b.drop 64).take (fld (wordAt b 0) 15 8)).map (·.toNat)
def planKnots (b : Bytes) : Nat := fld (wordAt b 1) 31 16
def planSpacing (b : Bytes) : Nat := fld (wordAt b 1) 15 0
/-- Count of the origin: its 48-bit count (R64). -/
def planOrigin (b : Bytes) : Nat := (wordAt b 2).toNat + 2 ^ 32 * fld (wordAt b 3) 15 0
def planChanBytes (b : Bytes) : Nat := (fld (wordAt b 0) 15 8 + 7) / 8 * 8
/-- The byte offset of the entry of channel index `i` at knot `k`. -/
def knotOff (b : Bytes) (k i : Nat) : Nat := 64 + planChanBytes b + (k * fld (wordAt b 0) 15 8 + i) * 24
def knotPos (b : Bytes) (k i : Nat) : Int := toSigned 64 (numAt b (knotOff b k i) 8)
def knotVel (b : Bytes) (k i : Nat) : Int := toSigned 64 (numAt b (knotOff b k i + 8) 8)
def knotTau (b : Bytes) (k i : Nat) : Int := toSigned 32 (numAt b (knotOff b k i + 16) 4)

/-- The target, the torque feed-forward and plan_end at count `C` (R305). -/
def planAt (b : Bytes) (i : Nat) (tCyc C : Nat) : Int × Int × Bool :=
  let O := planOrigin b
  let K := planKnots b
  let S := planSpacing b
  if C ≤ O then (knotPos b 0 i, knotTau b 0 i, false)
  else
    let j := C - O
    let k := j / S
    if K - 1 ≤ k then (knotPos b (K - 1) i, knotTau b (K - 1) i, true)
    else
      let u : Int := ((j - k * S) * 2 ^ 32 / S : Nat)
      let u2 := u * u
      let u3 := u2 * u
      let q : Int := 2 ^ 34
      let h01 := divTrunc (3 * u2 * 2 ^ 32 - 2 * u3) q
      let h10 := divTrunc (u * 2 ^ 64 - 2 * u2 * 2 ^ 32 + u3) q
      let h11 := divTrunc (u3 - u2 * 2 ^ 32) q
      let m := fun n => divTrunc (knotVel b n i * S * tCyc) 1000000000
      let dp := knotPos b (k + 1) i - knotPos b k i
      let r := knotPos b k i + rndTo 64 62 (h01 * dp + h10 * m k + h11 * m (k + 1))
      let tau := knotTau b k i + rndTo 32 32 (u * (knotTau b (k + 1) i - knotTau b k i))
      (satSigned 64 r, satSigned 32 tau, false)

/-- The first knot from which every channel of a stop trajectory rests (R574): velocity 0 and a constant position. -/
def restKnot (b : Bytes) : Nat :=
  let n := fld (wordAt b 0) 15 8
  let K := planKnots b
  let still := fun k => (List.range n).all (fun i =>
    knotVel b k i == 0 && knotPos b k i == knotPos b (K - 1) i)
  (List.range K).foldl (fun acc k => if still k then (match acc with | some a => some a | none => some k) else none)
    (none : Option Nat) |>.getD K

/-- What a sample reads at its read instant besides the channel itself (R299). -/
structure SampleIn where
  count : Nat
  tCyc : Nat
  status : Nat
  /-- The channel's group is in stop mode (R574). -/
  inStop : Bool
  plan : Option Bytes
  traj : Option Bytes
  /-- The calibrated phase of the cross-check source; none while the comparison is suspended (R324). -/
  xpos : Option Int
  channel : Nat
  deriving DecidableEq, Repr

/-- What a sample writes (R313). -/
structure SampleOut where
  chan : Channel
  drive : Int
  tffOut : Int
  enable : Bool
  /-- A drive fault was seen (R327). -/
  driveFault : Bool
  /-- HOLD passed to STOP under R320. -/
  holdStop : Bool
  err : Int
  deriving DecidableEq, Repr

/-- The target of the slew stop (R575). -/
def slewTarget (ps v A : Int) : Int :=
  let m : Int := v.natAbs
  let n : Int := if A ≤ 0 then 0 else (m + A - 1) / A
  let D := if A ≤ 0 then 0 else n * m - A * (n * (n + 1) / 2) + (if n * A > m then n * A - m else 0)
  rndTo 64 16 (ps + sgn v * D)

/-- The decision of R574 at the first read instant in stop mode. -/
def decideStop (inp : SampleIn) (c : Channel) : Channel :=
  match c.stopping with
  | .due =>
    let useTraj := match inp.traj with
      | none => false
      | some b =>
        (planChans b).contains inp.channel &&
          decide (2 * ((inp.count : Int) - planOrigin b) < (restKnot b : Int) * planSpacing b)
    if useTraj then { c with stopping := .traj }
    else { c with stopping := .slew (slewTarget c.ps c.v (blkAcc c.block)) c.tffLast }
  | _ => c

/-- The target and torque feed-forward of a channel that follows its plan (R304, R305). -/
def interpolate (inp : SampleIn) (c : Channel) : Int × Int × Bool :=
  let follow := fun (b : Bytes) =>
    match findIdx (· == inp.channel) (planChans b) with
    | some i => planAt b i inp.tCyc inp.count
    | none => (c.rPrev, 0, c.planEnd)
  match c.stopping with
  | .slew r f => (r, f, c.planEnd)
  | .traj => match inp.traj with | some b => follow b | none => (c.rPrev, 0, c.planEnd)
  | _ => match inp.plan with | some b => follow b | none => (c.rPrev, 0, c.planEnd)

/-- The slew limiter (R303 step 2). Where a new block has left the jerk bounds wholly outside the acceleration bounds, R308's bound A
stands and J gives way: R303's bounds then cross (DESIGN CHOICE, log entry 120). -/
def slew (b : List Word) (c : Channel) (r : Int) : Channel :=
  let A := blkAcc b
  let V := blkVel b
  let J := blkJerk b
  let vref := fine r - fine c.rPrev
  let d := fine c.rPrev - c.ps
  let Ab := if blkJerkEn b then A / 2 else A
  let vdes := clampI (-V) V (vref + sgn d * brake d.natAbs Ab)
  let plainV := clampI (c.v - A) (c.v + A) vdes
  let an := clampI (-A) A (clampI (c.a - J) (c.a + J) (vdes - c.v))
  let w := c.v + an - vref
  let isOver := sgn w == sgn d && decide ((w.natAbs : Int) > brake d.natAbs Ab)
  let vn := if !blkJerkEn b then plainV
    else if isOver then c.v + clampI (-A) A (vdes - c.v) else c.v + an
  { c with
    a := vn - c.v, v := vn, ps := satSigned 80 (c.ps + vn), rPrev := r,
    jerkOverrides := if blkJerkEn b && isOver then satInc c.jerkOverrides else c.jerkOverrides }

/-- One biquad notch: its new states and its output (R312). -/
def biquad (b : List Word) (o : Nat) (n : Notch) (x : Int) : Notch × Int :=
  let out := rndTo 64 30 (blkS b o * x + blkS b (o + 1) * n.i1 + blkS b (o + 2) * n.i2
    - blkS b (o + 3) * n.o1 - blkS b (o + 4) * n.o2)
  (⟨x, n.i1, out, n.o1⟩, out)

/-- Steps 3 to 7 of the sample: the channel with its controller states advanced, and the output u (R303). -/
def control (b : List Word) (torque : Bool) (c : Channel) (e tff : Int) : Channel × Int :=
  let k := blkKshift b
  let dx := if blkDOnError b then e - c.ePrev else c.yPrev - c.y
  let df := satSigned 64 (c.df + rndTo 64 30 (blkS b 11 * (fine dx - c.df)))
  let I := if c.satPrev then c.integ
    else clampI (blkS b 14 * 65536) (blkS b 15 * 65536) (c.integ + rndTo 64 (8 + k) (blkS b 9 * e))
  let x0 := satSigned 64 (rndTo 64 (24 + k) (blkS b 8 * e * 65536 + blkS b 10 * df) + I)
  let n0 := (c.nf.getD 0 Notch.zero)
  let n1 := (c.nf.getD 1 Notch.zero)
  let r0 := if 1 ≤ blkNotchCount b then biquad b 22 n0 x0 else (n0, x0)
  let r1 := if 2 ≤ blkNotchCount b then biquad b 27 n1 r0.2 else (n1, r0.2)
  let x1 := r1.2 + rndTo 64 24 (blkS b 12 * c.v)
  let x2 := if torque then x1 + rndTo 64 8 (blkS b 13 * tff) else x1
  let x3 := rndTo 32 16 x2
  let u := clampI (blkS b 16) (blkS b 17) x3
  ({ c with df := df, integ := I, nf := [r0.1, r1.1], satPrev := u != x3 }, u)

/-- Supervision of the following error in TRACKING and EXCEEDED (R318, R319) and in HOLD (R320). -/
def superviseErr (b : List Word) (c : Channel) (e : Int) : Channel × Bool :=
  let beyond := decide (blkFeLimit b < e.natAbs)
  match c.st with
  | .tracking => if beyond then ({ c with st := .exceeded, feTimer := 1 }, false) else (c, false)
  | .exceeded =>
    if beyond then
      let n := c.feTimer + 1
      ({ c with feTimer := n, faultDue := if blkFeTime b < n then some .following else c.faultDue }, false)
    else ({ c with st := .tracking, feTimer := 0 }, false)
  | .hold =>
    if beyond then
      let n := c.feTimer + 1
      ({ c with feTimer := n }, decide (blkFeTime b < n))
    else ({ c with feTimer := 0 }, false)
  | _ => (c, false)

/-- Supervision of the cross-check, at each sample (R324). A run of samples beyond the limit makes one fault, until the channel is
enabled or cleared again, and none in DISABLED and STOP, from which R318 leads to no reaction (DESIGN CHOICE, log entry 121). -/
def superviseX (inp : SampleIn) (c : Channel) : Channel :=
  match inp.xpos with
  | none => c
  | some x =>
    if cfgXcheckLimit c.cfg < (c.y - x).natAbs then
      let c := { c with xTimer := c.xTimer + 1 }
      if blkFeTime c.block < c.xTimer && !c.xFaulted && c.faultDue.isNone && c.st != .disabled && c.st != .stop then
        { c with xFaulted := true, faultDue := some .xcheck }
      else c
    else { c with xTimer := 0, xFaulted := false }

/-- The word that carries a value to the drive: rounded to its position format and saturated to its width (R313). -/
def driveWord (cfg : List Word) (v : Int) : Int :=
  let s := cfgOutShift cfg
  satSigned (if cfgOutWide cfg then 32 else 16)
    (if 16 ≤ s then v * (2 ^ (s - 16) : Nat) else divNearestEven v (2 ^ (16 - s)))

/-- The entry actions of a state (R318), at the read instant. -/
def entryActions (c : Channel) : Channel :=
  if !c.entryDue then c
  else
    let c := { c with entryDue := false }
    match c.st with
    | .disabled => { c with integ := 0, df := 0, nf := [Notch.zero, Notch.zero], brakeReq := false }
    | .enabling => { c with enableTimer := 0, brakeReq := false, xFaulted := false }
    | .tracking =>
      if c.fromHold then { c with fromHold := false, xFaulted := false }
      else { c with ps := fine c.y, v := 0, a := 0, rPrev := c.y, yPrev := c.y, ePrev := 0, satPrev := false, feTimer := 0 }
    | .exceeded => c
    | .hold => { c with ps := fine c.y, v := 0, a := 0, rPrev := c.y, rHold := c.y, tffHold := c.tffLast, feTimer := 0 }
    | .stop => { c with integ := 0, df := 0, nf := [Notch.zero, Notch.zero], brakeReq := true }

/-- A committed coefficient block comes into force at the read instant (R317, R312). -/
def takeBlock (c : Channel) : Channel :=
  match c.nextBlock with
  | none => c
  | some b =>
    let old := blkNotchCount c.block
    let new := blkNotchCount b
    let n0 := if old < 1 ∧ 1 ≤ new then Notch.zero else c.nf.getD 0 Notch.zero
    let n1 := if old < 2 ∧ 2 ≤ new then Notch.zero else c.nf.getD 1 Notch.zero
    { c with block := b, nextBlock := none, nf := [n0, n1],
             integ := clampI (blkS b 14 * 65536) (blkS b 15 * 65536) c.integ }

/-- The sample in DISABLED, ENABLING and STOP: idle outputs, supervision of the status word (R303, R318, R321). -/
def idleSample (inp : SampleIn) (c : Channel) : SampleOut :=
  let out := fun (c : Channel) (en f : Bool) =>
    { chan := superviseX inp c, drive := 0, tffOut := 0, enable := en, driveFault := f, holdStop := false, err := 0 : SampleOut }
  match c.st with
  | .enabling =>
    if statusFault c.cfg inp.status then out c true true
    else if statusReady c.cfg inp.status then
      out { c with st := .tracking, entryDue := true, fromHold := false } true false
    else
      let n := c.enableTimer + 1
      out { c with enableTimer := n, faultDue := if 4096 ≤ n then some .enabling else c.faultDue } true false
  | _ => out c false false

/-- The sample of a channel in TRACKING, EXCEEDED or HOLD (R303). -/
def liveSample (inp : SampleIn) (c0 : Channel) : SampleOut :=
  let b := c0.block
  let c1 := decideStop inp c0
  let t := if c1.st = .hold then (c1.rHold, c1.tffHold, c1.planEnd) else interpolate inp c1
  let c2 := slew b { c1 with planEnd := c1.planEnd || t.2.2, tffLast := t.2.1 } t.1
  let pSet := rndTo 64 16 c2.ps
  let e := satSigned 64 (pSet - c2.y)
  let position := cfgOutMode c2.cfg = 2
  let r := if position then (c2, 0) else control b (decide (cfgOutMode c2.cfg = 0)) c2 e t.2.1
  let c3 := { r.1 with ePrev := e, yPrev := r.1.y }
  let drive := driveWord c3.cfg (if position then pSet - cfgFbOffset c3.cfg else r.2)
  let tffO := rndTo 32 24 (blkS b 13 * t.2.1)
  let s := superviseErr b c3 e
  let c4 := superviseX inp s.1
  { chan := c4, drive := drive, tffOut := if cfgOutMode c3.cfg = 0 then 0 else tffO, enable := true,
    driveFault := statusFault c3.cfg inp.status, holdStop := s.2, err := e }

/-- One sample of one channel (R303), after the read instant's commands. -/
def sampleChannel (inp : SampleIn) (c : Channel) : SampleOut :=
  let c := { entryActions (takeBlock c) with lastCount := some inp.count }
  match c.st with
  | .tracking => liveSample inp c
  | .exceeded => liveSample inp c
  | .hold => liveSample inp c
  | .disabled => idleSample inp c
  | .enabling => idleSample inp c
  | .stop => idleSample inp c

end Sys2Proof.Machine
end

