-- ==== Sys2Proof/Machine/ShellCheck.lean ====
section
/-!
DEFINITION. Machine/ShellCheck.lean: the layouts of the safety payloads and the Shell's validation of safety targets
(R91, R108, R306, R315, R316, R555–R557, R564, R565, R603).
-/
namespace Sys2Proof.Machine

/-! Limit sets (R555, R556). -/

def lsChannels (b : Bytes) : Nat := fld (wordAt b 0) 23 16
def lsBodies (b : Bytes) : Nat := fld (wordAt b 0) 15 8
def lsPoints (b : Bytes) : Nat := fld (wordAt b 0) 7 0
def lsVersionA (b : Bytes) : Nat := fld (wordAt b 1) 31 16
def lsVersionB (b : Bytes) : Nat := fld (wordAt b 1) 15 0
def lsResidualF (b : Bytes) : Nat := fld (wordAt b 2) 31 27
def lsStreams (b : Bytes) : Nat := fld (wordAt b 2) 23 16
def lsKnots (b : Bytes) : Nat := fld (wordAt b 2) 15 8
def lsDegraded (b : Bytes) : Nat := fld (wordAt b 2) 2 0
def lsKkt (b : Bytes) : Word := wordAt b 3
def lsVh (b : Bytes) : Nat := (wordAt b 4).toNat
def lsReact (b : Bytes) : Nat := (wordAt b 5).toNat
def lsStop (b : Bytes) : Nat := (wordAt b 6).toNat
def lsC (b : Bytes) : Nat := (wordAt b 7).toNat
def lsZr (b : Bytes) : Nat := (wordAt b 8).toNat
def lsFkTol (b : Bytes) : Nat := (wordAt b 9).toNat
def lsBodyOff (b : Bytes) : Nat := 64 + 32 * lsChannels b
def lsPointOff (b : Bytes) : Nat := lsBodyOff b + 64 * lsBodies b
def lsStreamOff (b : Bytes) : Nat := lsPointOff b + 16 * lsPoints b
def lsLength (b : Bytes) : Nat := lsStreamOff b + 48 * lsStreams b
def lsChan (b : Bytes) (i : Nat) : Bytes := slice b (64 + 32 * i) 32
def lsBody (b : Bytes) (i : Nat) : Bytes := slice b (lsBodyOff b + 64 * i) 64
def lsPoint (b : Bytes) (i : Nat) : Bytes := slice b (lsPointOff b + 16 * i) 16
def lsStream (b : Bytes) (i : Nat) : Bytes := slice b (lsStreamOff b + 48 * i) 48
/-- The kinematic section (R556, R557): the body entries. -/
def lsKinematic (b : Bytes) : Bytes := slice b (lsBodyOff b) (64 * lsBodies b)

/-- The layout and ranges of a limit set (R555, R556). -/
def limitLayoutOk (b : Bytes) : Bool :=
  fld (wordAt b 0) 31 24 == 1 && inRange 1 96 (lsChannels b) && inRange 1 64 (lsBodies b) && inRange 1 64 (lsPoints b)
  && decide (lsStreams b ≤ 8) && inRange 2 65 (lsKnots b) && b.length == lsLength b
  && (wordAt b 2 &&& (mask 26 24 ||| mask 7 3)) == 0
  && (List.range 6).all (fun i => wordAt b (10 + i) == 0)
  && (List.range (lsChannels b)).all (fun i =>
      let w := wordAt (lsChan b i) 0
      decide (fld w 31 24 ≤ 95) && fld w 23 0 == 0)
  && (List.range (lsBodies b)).all (fun i =>
      let x := lsBody b i
      let w := wordAt x 0
      (decide (fld w 31 24 < i) || fld w 31 24 == 0xFF) && (decide (fld w 23 16 ≤ 95) || fld w 23 16 == 0xFF)
      && decide (fld w 15 8 ≤ 2) && (fld w 15 8 == 0 || fld w 23 16 != 0xFF) && fld w 7 6 == 0 && wordAt x 14 == 0 && wordAt x 15 == 0)
  && (List.range (lsPoints b)).all (fun i => decide (fld (wordAt (lsPoint b i) 0) 31 24 < lsBodies b))
  && (List.range (lsStreams b)).all (fun i =>
      let x := lsStream b i
      fld (wordAt x 0) 31 6 == 0 && wordAt x 3 == 0 && wordAt x 10 == 0 && wordAt x 11 == 0)

/-- A stream descriptor's fields (R682). -/
def sdKind (d : List Word) : Nat := fld (wat d 0) 23 20
def sdSealed (d : List Word) : Bool := wbit (wat d 0) 5
def getStream (s : State) (n : Nat) : Stream := s.ports.streams.getD n Stream.reset

/-- A value within the maximum of the protection set: `v` with `f` fraction bits against `m` with `g` (R557). -/
def rawAtMost (v : Int) (f : Nat) (m : Int) (g : Nat) : Bool := decide (v * 2 ^ g ≤ m * 2 ^ f)

/-- The limit envelope of the protection set (R557, R599, R603). -/
def limitEnvelopeOk (s : State) (b : Bytes) : Bool :=
  let t := fun i => (protWord s (0x40 + 4 * i)).toNat
  decide (t 0 ≤ lsVh b) && decide (t 1 ≤ lsReact b) && decide (t 2 ≤ lsC b) && decide (t 3 ≤ lsZr b)
  && decide (lsFkTol b ≤ t 4)
  && rawAtMost (lsKkt b).toInt (lsResidualF b) (protWord s 0x54).toInt (fld (protWord s 0x58) 4 0)
  && (List.range (lsStreams b)).all (fun i =>
      let x := lsStream b i
      decide ((protWord s (0x100 + 4 * fld (wordAt x 0) 5 0)).toNat ≤ (wordAt x 1).toNat))
  && (List.range (lsChannels b)).all (fun i =>
      let x := lsChan b i
      let c := fld (wordAt x 0) 31 24
      decide (chanS64 s c 14 ≤ toSigned 64 (numAt x 8 8)) && decide (toSigned 64 (numAt x 16 8) ≤ chanS64 s c 16)
      && decide ((wordAt x 6).toNat ≤ (chanWord s c 3).toNat) && decide ((wordAt x 7).toNat ≤ (chanWord s c 4).toNat))

/-- The Shell's validation of a limit set (R557). -/
def limitAllowed (s : State) (b : Bytes) : Bool :=
  (protModels s).contains (crc32c (lsKinematic b)) && limitEnvelopeOk s b
  && decide (protHeldLimit s + 2 ≤ lsKnots b)
  && (List.range (lsStreams b)).all (fun i => sdSealed (getStream s (fld (wordAt (lsStream b i) 0) 5 0)).desc
      && sdKind (getStream s (fld (wordAt (lsStream b i) 0) 5 0)).desc != 0)

/-! Plans (R249, R306, R565). -/

def planGroup (b : Bytes) : Nat := fld (wordAt b 0) 23 16
def planOriginPv (b : Bytes) : PhaseValue := ⟨wordAt b 2, wordAt b 3, wordAt b 4⟩
def planChanCount (b : Bytes) : Nat := fld (wordAt b 0) 15 8
def planLength (b : Bytes) : Nat := 64 + planChanBytes b + planKnots b * planChanCount b * 24

/-- The layout of a plan block (R249, R250). -/
def planLayoutOk (b : Bytes) : Bool :=
  fld (wordAt b 0) 31 24 == 1 && inRange 1 96 (planChanCount b) && fld (wordAt b 0) 7 0 == 0
  && decide (1 ≤ planKnots b) && decide (1 ≤ planSpacing b) && b.length == planLength b
  && (List.range 9).all (fun i => wordAt b (7 + i) == 0)
  && (planChans b).all (fun c => decide (c ≤ 95)) && !hasRepeat (planChans b)
  && (slice b (64 + planChanCount b) (planChanBytes b - planChanCount b)).all (· == 0)
  && (List.range (planKnots b * planChanCount b)).all (fun i => numAt b (64 + planChanBytes b + 24 * i + 20) 4 == 0)

/-- The origin is a phase-form value on the motion-cycle source with fraction 0 (R306). -/
def planOriginOk (s : State) (b : Bytes) : Bool :=
  let v := planOriginPv b
  pvOk v && !pvIsGtc v && !pvDecreasing v && pvPhase v % 65536 == 0 && psType (getPs s (pvSource v)).cfg == 4

/-- The plan that a group must have for R306: its channel list equals the group's channel set. -/
def planForGroupOk (s : State) (g : Nat) (b : Bytes) : Bool :=
  let cs := groupChannels (s.plate.groups.getD g [])
  planLayoutOk b && planGroup b == g && (planChans b).length == cs.length && cs.all (fun c => (planChans b).contains c)
  && planOriginOk s b

/-- A stop trajectory (R306): plan_group 0xFF, its origin, and at least 250 ms (R29). -/
def stopTrajOk (s : State) (b : Bytes) : Bool :=
  planLayoutOk b && planGroup b == 0xFF && planOriginOk s b
  && decide (250000000 ≤ (planKnots b - 1) * planSpacing b * s.servo.net.tCyc)

/-- A phase value in its 12 bytes. -/
def pvBytes (v : PhaseValue) : Bytes := ofWords (pvWords v)

/-- The held-plan form of a plan block (R565). -/
def heldForm (b : Bytes) : Bytes :=
  let n := planChanCount b
  let K := planKnots b
  let o := 64 + planChanBytes b
  let count := planOrigin b + planSpacing b
  let v : PhaseValue := ⟨BitVec.ofNat 32 count, BitVec.ofNat 32 (count / 2 ^ 32 % 2 ^ 16), (planOriginPv b).w2⟩
  let last := (List.range n).flatMap (fun i =>
    let k := slice b (knotOff b (K - 1) i) 24
    k.take 8 ++ List.replicate 8 0 ++ k.drop 16)
  b.take 8 ++ pvBytes v ++ (b.drop 20).take (o - 20) ++ (b.drop (o + 24 * n)).take (24 * n * (K - 1)) ++ last

/-- Whether a class 0x10 payload is accepted for its group (R108, R564, R565). -/
def planAccepted (s : State) (g : Nat) (b : Bytes) : Bool :=
  s.safety.acceptances.any (fun a => a.group == g && a.crc == crc32c b && !pvReached s a.origin)
  || (match (s.servo.groups.getD g Group.reset).plan with
      | some p => heldForm p.plan == b
      | none => false)

/-! Coefficient blocks (R315, R316, R603). -/

/-- The field ranges of R315. -/
def blockRangesOk (b : List Word) : Bool :=
  let w := wat b
  fld (w 0) 31 24 == 1 && (w 0 &&& (mask 23 16 ||| mask 11 4)) == 0 && decide (blkNotchCount b ≤ 2)
  && w 1 == 0 && decide (0 < blkVel b) && decide (0 < blkAcc b)
  && (if blkJerkEn b then decide (0 < blkJerk b) else blkJerk b == 0)
  && decide (1 ≤ (w 11).toNat) && decide ((w 11).toNat ≤ 0x40000000)
  && decide (blkS b 14 ≤ blkS b 15) && decide (blkS b 16 ≤ blkS b 17)
  && decide (0 < blkFeLimit b) && fld (w 20) 31 16 == 0 && decide (1 ≤ blkFeTime b) && w 21 == 0

/-- The channel's envelope (R603); an entry of all zeros accepts none. -/
def blockAllowed (s : State) (c : Nat) (b : List Word) : Bool :=
  (List.range 24).any (fun i => chanWord s c i != 0)
  && decide (blkVel b ≤ chanS64 s c 6) && decide (blkAcc b ≤ chanS64 s c 8) && decide (blkJerk b ≤ chanS64 s c 10)
  && decide ((chanWord s c 1).toInt ≤ blkS b 16) && decide (blkS b 17 ≤ (chanWord s c 2).toInt)
  && decide (blkFeLimit b ≤ chanS64 s c 12) && decide (blkFeTime b ≤ fld (chanWord s c 0) 15 0)

/-! Encoder calibration (R91). -/

def encBlockOk (b : Bytes) : Bool :=
  fld (wordAt b 0) 31 24 == 1 && fld (wordAt b 0) 23 1 == 0 && (List.range 5).all (fun i => wordAt b (3 + i) == 0)

def getChannel (s : State) (n : Nat) : Channel := s.servo.channels.getD n Channel.reset
def modChannel (s : State) (n : Nat) (f : Channel → Channel) : State :=
  { s with servo := { s.servo with channels := s.servo.channels.modify n f } }

/-- A channel in TRACKING, EXCEEDED or HOLD. -/
def isLive (c : Channel) : Bool := c.st == .tracking || c.st == .exceeded || c.st == .hold

/-- Whether a live channel's cross-check follows encoder input `n` and the etch does not recalibrate that source (R91). -/
def xcheckBlocks (s : State) (n : Nat) (acts : List EtchAction) : Bool :=
  s.servo.channels.any (fun c =>
    cfgXcheckEn c.cfg && isLive c
    && psInput (getPs s (cfgXcheckPs c.cfg)).cfg == 0x10 + n && [2, 3].contains (psType (getPs s (cfgXcheckPs c.cfg)).cfg)
    && !acts.any (fun y => y.cls == 0x05 && y.index == cfgXcheckPs c.cfg))

/-! Row 10 of R96. -/

/-- Layout and range checks of a safety payload (R91, R306, R316, R555). -/
def shellLayoutOk (s : State) (x : EtchAction) (b : Bytes) : Bool :=
  match x.cls with
  | 0x10 => planForGroupOk s x.index b
  | 0x11 => stopTrajOk s b
  | 0x12 => b.length == 128 && blockRangesOk (toWords 32 b)
  | 0x13 => limitLayoutOk b
  | 0x14 => b.length == 32 && encBlockOk b
  | _ => true

/-- Envelope, acceptance and channel-state checks (R91, R108, R316, R557). -/
def shellAllows (s : State) (acts : List EtchAction) (x : EtchAction) (b : Bytes) : Bool :=
  match x.cls with
  | 0x10 => planAccepted s x.index b
  | 0x12 => blockAllowed s x.index (toWords 32 b)
  | 0x13 => limitAllowed s b
  | 0x14 => !xcheckBlocks s x.index acts
  | _ => true

/-- The Shell's validation: layouts first, then the rest (R96 row 10). R29 says that a stop trajectory comes with every plan that an
acceptance record covers and with no held plan; R96 lists no check of it, and the model makes none (DESIGN CHOICE, log entry 117). -/
def shellStatus (s : State) (acts : List EtchAction) (payloads : List Bytes) : Option Status :=
  let l := (acts.zip payloads).filter (fun p => isSafetyTarget s p.1)
  if !l.all (fun p => shellLayoutOk s p.1 p.2) then some stBAD_DESCRIPTOR
  else if !l.all (fun p => shellAllows s acts p.1 p.2) then some stPROTECTION
  else none

end Sys2Proof.Machine
end

