-- ==== Sys2Proof/Machine/EtchArm.lean ====
section
/-!
DEFINITION. Machine/EtchArm.lean: the checks of an arm (R96) before the arm instant, rows 1 to 10, and at it, rows 11
to 14 (R105, R106, R111–R114).
-/
namespace Sys2Proof.Machine

/-- Rows 1 and 2: the etch named, staged and of the arming session. -/
def armRow12 (s : State) (c : Cmd) (id : Nat) : Except Status Etch :=
  match findEtch s id with
  | none => .error stBAD_DESCRIPTOR
  | some e =>
    if !ownsEtch s c e then .error stPROTECTION
    else if e.st ≠ .staged then .error stBAD_DESCRIPTOR
    else .ok e

/-- Row 4, R112: a primary's fallback. -/
def armFallback (s : State) (e : Etch) : Option Status :=
  if e.hdr.kind ≠ 2 then none
  else match findEtch s e.hdr.fallbackId with
    | none => some stBAD_DESCRIPTOR
    | some f =>
      if f.hdr.kind != 1 || f.session != e.session || f.hdr.commitPoint != e.hdr.commitPoint then some stBAD_DESCRIPTOR
      else if f.st == .replaced then some stETCH_CONFLICT
      else if f.st == .armed then none
      else some stBAD_DESCRIPTOR

/-- Row 4, R88: a value that R508 would refuse in the partition's entry, as it stands in the Plate in force at the arm: one outside
the table for its mode or its map count, or ARBITRATED where R508 forbids it. -/
def armPartParam (s : State) (x : EtchAction) : Bool :=
  !(x.cls == 0x02 && x.typ == 1) ||
  (let e := partEntry s x.index
   let slots := match s.plate.parts[x.index]? with | some p => p.slots | none => []
   partParamOk s x && (x.item != 2 || actValue x != 0 || (peMode e != 1 && !hasHardSlot slots)))

/-- Whether an action carries a payload in memory: a handle, but that of a Plate image in firmware memory (R510). -/
def inMemory (x : EtchAction) : Bool := isHandle x.typ && x.typ != 4

/-- The payload of an action: the bytes at its handle, or the loaded Plate image. -/
def readPayload (s : State) (x : EtchAction) : Except Status Bytes :=
  if x.typ = 4 then
    match s.plate.loaded.find? (fun l => l.1 == actValue x) with
    | some l => .ok l.2
    | none => .error stBAD_DESCRIPTOR
  else if inMemory x then
    match accessStatus s (actValue x) x.length false with
    | some st => .error st
    | none => .ok (readKey s.mem (actValue x) x.length)
  else .ok []

/-- The layout that the class of a main-domain payload requires (R36, R89, R90, R514, R750). -/
def mainLayoutOk (x : EtchAction) (b : Bytes) : Bool :=
  match x.cls, x.typ with
  | 0x02, 2 => x.length == 512
  | 0x03, _ => x.length == 32 && fld (wordAt b 0) 31 24 == 1 && fld (wordAt b 0) 23 16 == 0
      && inRange 1 8 (fld (wordAt b 0) 15 8) && inRange 1 8 (fld (wordAt b 0) 7 0)
      && decide ((wordAt b 1).toNat ≤ 0x3F800000) && (List.range 6).all (fun i => wordAt b (2 + i) == 0)
  | 0x04, _ => x.length == plLength b
  | 0x05, _ => x.length == 32 && psBlockOk (toWords 8 b)
  | 0x07, _ =>
      let n := numAt b 12 4
      x.length == 16 + 8 * n && inRange 1 256 n && decide (1 ≤ numAt b 8 4)
      && (List.range n).all (fun i => fld (wordAt b (4 + 2 * i)) 31 8 == 0 && decide (1 ≤ (wordAt b (5 + 2 * i)).toNat))
  | _, _ => true

/-- Row 8: every payload's CRC and layout. -/
def armPayload (s : State) (x : EtchAction) : Except Status Bytes :=
  match readPayload s x with
  | .error st => .error st
  | .ok b =>
    if isHandle x.typ && crc32c b != x.crc then .error stBAD_DESCRIPTOR
    else if !mainLayoutOk x b then .error stBAD_DESCRIPTOR
    else .ok b

/-- Payloads of all actions, or the status of the first that fails. -/
def armPayloads (s : State) : List EtchAction → Except Status (List Bytes)
  | [] => .ok []
  | x :: xs => match armPayload s x with
    | .error st => .error st
    | .ok b => match armPayloads s xs with
      | .error st => .error st
      | .ok bs => .ok (b :: bs)

/-- Whether commit point `a` falls at or before `b` (R110): decided on one source and form, and taken to be so where the
two cannot be compared (DEDUCED, log entry 16). -/
def notAfter (a b : PhaseValue) : Bool :=
  if pvIsGtc a != pvIsGtc b || pvSource a != pvSource b then true
  else a == b || pvBefore a b

/-- Row 9: resource and power checks, in the order of the row. -/
def armResources (s : State) (e : Etch) : Option Status :=
  let acts := e.acts
  let downs := acts.filter powersDown
  let swaps := swapParts acts
  let image := swapImage s acts
  let freed := fun (u p : Nat) => swaps.contains p &&
    (match image with | some b => !entryHolds s (plEntry b p) u | none => false)
  let moved := fun (u : Nat) => (List.range 16).all (fun p => !swaps.contains p ||
    (match image with | some b => !entryHolds s (plEntry b p) u | none => true))
  let profile := (acts.find? (fun x => x.typ == 5 && x.index == 0)).map actValue
  let after := fun (cls : Nat) (l : List (BitVec 2)) =>
    (List.range l.length).map (fun i => match acts.find? (fun x => x.typ == 5 && x.index == cls * 65536 + i) with
      | some x => BitVec.ofNat 2 (actValue x)
      | none => l.getD i 0)
  let gbs := match image with
    | some b => plIngress b + (entriesAfter s b swaps).foldl (fun n x => n + (if peValid x then peRtGbs x else 0)) 0
    | none => reservedGbs s
  if s.power.state == 2 && acts.any inMemory then some stNO_RESOURCE
  else if acts.any (fun x => x.cls == 0x03 && !hasLoop s x.index) then some stNO_RESOURCE
  else if downs.any (fun x => heldByArmed s x.index (fun a => notAfter e.hdr.commitPoint a.hdr.commitPoint)) then some stNO_RESOURCE
  else
    match (match image with
      | some b => plateResources s b swaps (fun n => (getPs s n).countValid)
      | none => none) with
    | some st => some st
    | none =>
      if (match image with | some b => keepsFenced s b swaps | none => false) then some stNO_RESOURCE
      else if (match profile with
          | some p => lowersClock s p && (clockBound s).any (fun q => !swaps.contains q)
          | none => false) then some stPROTECTION
      else if (if profile.isSome ∨ acts.any (fun x => x.typ == 5 && actValue x == 2 && x.index / 65536 ≤ 2)
          then !profileFits (profile.getD s.power.profile) (countOn (after 1 (sectorsNow s))) (countOn (after 2 (enginesNow s))) gbs
          else false) then some stNO_RESOURCE
      else if acts.any (fun x => x.typ == 5 && x.index != 0 && isSpare s x.index) then some stPROTECTION
      else match downs.findSome? (fun x => powerDownStatus s x.index (fun p => freed x.index p && moved x.index)) with
        | some st => some st
        | none => none

/-- A follower accepts a joint start only while it is locked (R80); every etch whose commit point has the GTC form is taken for
a joint start (log entry 106). -/
def jointOk (s : State) (v : PhaseValue) : Bool := !(pvIsGtc v && s.sync.role == 2 && !s.sync.locked)

/-- Rows 3 to 10 for an etch that a command of partition `p` arms, its payloads being found as row 8 says. -/
def armRowsOf (s : State) (p : Nat) (e : Etch) (found : Except Status (List Bytes)) : Except Status (List Bytes) :=
  let h := e.hdr
  if !pvPermitted s p h.commitPoint || !pvPermitted s p h.armDeadline then .error stBAD_DESCRIPTOR
  else match armFallback s e with
    | some st => .error st
    | none =>
      if !swapFormOk s h e.acts || !e.acts.all (armPartParam s) then .error stBAD_DESCRIPTOR
      else if 512 ≤ armedCount s then .error stNO_RESOURCE
      else if !jointOk s h.commitPoint then .error stNO_RESOURCE
      else if !pvCountValid s h.commitPoint || (h.kind == 1 && !pvCountValid s h.armDeadline) then .error stNO_RESOURCE
      else if !e.acts.all (fun x => protEtchAllowed s x.cls) then .error stETCH_TARGET_LOCKED
      else match found with
        | .error st => .error st
        | .ok bs => match armResources s e with
          | some st => .error st
          | none => match shellStatus s e.acts bs with
            | some st => .error st
            | none => .ok bs

/-- Rows 3 to 10: the payloads as they were read. -/
def armRows (s : State) (p : Nat) (e : Etch) : Except Status (List Bytes) := armRowsOf s p e (armPayloads s e.acts)

/-- An arm that row 4 or row 14 refuses with ETCH_CONFLICT, and one that row 13 refuses with ETCH_EXPIRED, is counted (R123). -/
def countReject (s : State) (st : Status) : State := { s with etch := { s.etch with
  conflicts := if st = stETCH_CONFLICT then satInc s.etch.conflicts else s.etch.conflicts,
  expired := if st = stETCH_EXPIRED then satInc s.etch.expired else s.etch.expired } }

/-- Rows 11 to 14, at the arm instant. -/
def armInstantStatus (s : State) (e : Etch) : Option Status :=
  let fallback := findEtch s e.hdr.fallbackId
  let deadlineGone := e.hdr.kind == 2 &&
    (match fallback with
     | some f => f.deadlinePassed || deadlineArrived s f.hdr.armDeadline || (f.st != .armed && f.st != .replaced)
     | none => true)
  let second := e.hdr.kind == 2 && (match fallback with | some f => f.st == .replaced | none => false)
  let conflict := s.etch.etches.any (fun a => a.id != e.id && a.st == .armed && a.hdr.commitPoint == e.hdr.commitPoint
    && !(e.hdr.kind == 2 && a.id == e.hdr.fallbackId)
    && e.acts.any (fun x => a.acts.any (fun y => actObject x == actObject y)))
  if e.st != .staged then some stBAD_DESCRIPTOR
  else if deadlineGone then some stDEADLINE_MISS
  else if pvPassed s e.hdr.commitPoint || pvReached s e.hdr.commitPoint then some stETCH_EXPIRED
  else if conflict || second then some stETCH_CONFLICT
  else none

/-- The acceptance records of the plans among an etch's payloads, by group, as they stand now (R564). -/
def planRecords (s : State) (acts : List EtchAction) (payloads : List Bytes) : List (Nat × Nat) :=
  (acts.zip payloads).filterMap (fun p => if p.1.cls = 0x10 then
    (s.safety.acceptances.find? (fun a => a.group == p.1.index && a.crc == crc32c p.2
      && !pvReached s a.origin)).map (fun a => (p.1.index, a.stamp))
    else none)

/-- The etch enters the armed table; a primary replaces its fallback (R97, R111). -/
def armEtch (s : State) (e : Etch) (k : Option CmdKey) (payloads : List Bytes) (records : List (Nat × Nat)) : State :=
  let s1 := modEtch s e.id (fun x => { x with
    st := .armed, changed := now s, armInstant := now s, armCmd := k, payloads := payloads, records := records })
  if e.hdr.kind = 2 then setEtch s1 e.hdr.fallbackId .replaced else s1

end Sys2Proof.Machine
end

