-- ==== Sys2Proof/Machine/Engine.lean ====
section
/-!
DEFINITION. Machine/Engine.lean: what a solver engine computes (R203–R207, R215–R217, R222, R223, R257, R261–R266, R273): the
operations of a solve, whose order the spec leaves to the engine, carried out with the arithmetic that the spec gives.
-/
namespace Sys2Proof.Machine

/-- The engine in the middle of a solve. -/
structure EngineState where
  mem : EnginePlace → Word
  /-- The 80-bit accumulator (R203). -/
  acc : Int
  /-- Terms in the accumulator since it was emptied (R203). -/
  terms : Nat
  /-- SAT events so far (R266), and whether one of them was in the result's arrays (R245). -/
  sats : Nat
  resultSat : Bool
  /-- The blocks of iterates, class and instance, that have left their ITERATE_BOUNDS (R223). -/
  outs : List (Nat × Nat)
  /-- Pivots replaced so far, and the index of the first (R265). -/
  pivots : Nat
  firstPivot : Nat
  seeds : List (Nat × Word)

/-- The engine as a solve begins: the slot's seeds serve path 1 alone (R261, R262). -/
def EngineState.start (inp : SolveInput) : EngineState where
  mem := fun _ => 0
  acc := 0
  terms := 0
  sats := 0
  resultSat := false
  outs := []
  pivots := 0
  firstPivot := 0xFFFF
  seeds := if imPath inp.image = 1 then inp.seeds else []

def EngineState.raw (x : EngineState) (p : EnginePlace) : Int := (x.mem p).toInt

def EngineState.put (x : EngineState) (d : EnginePlace) (v : Int) : EngineState :=
  { x with mem := fun p => if p = d then BitVec.ofInt 32 v else x.mem p }

/-- An operation on the accumulator (R203): no problem accumulates more than 1,024 terms in one sum. -/
def EngineState.accumulate (x : EngineState) (v : Int) : EngineState :=
  if 1024 ≤ x.terms then x
  else
    let r := accAdd x.acc v
    { x with acc := r.val, terms := x.terms + 1, sats := x.sats + if r.flags = 0 then 0 else 1 }

/-- Whether the bounds of a level-1 block hold a value (R223). -/
def iterateHolds (image : Bytes) (cls inst : Nat) (v : Int) : Bool :=
  let bd := iterateBound image cls inst
  decide (bd.1.toInt ≤ v) && decide (v ≤ bd.2.toInt)

/-- Compare an iterate with its bounds (R223). -/
def EngineState.compare (inp : SolveInput) (x : EngineState) (cls inst : Nat) (v : Int) : EngineState :=
  if imLevelOf inp.image cls inst = 1 ∧ !iterateHolds inp.image cls inst v then { x with outs := (cls, inst) :: x.outs } else x

/-- Whether what range analysis has proved excludes SAT in a block: in one of level 0 while every input lay within its bounds and
none was clamped (R222), in one of level 1 while no iterate that its proof assumes has left its declared bounds (R223). -/
def satExcluded (inp : SolveInput) (x : EngineState) (cls inst : Nat) : Bool :=
  Config.levelsProven inp.image &&
  (if imLevelOf inp.image cls inst = 0 then inp.clean
   else !x.outs.any (fun o => o == (cls, inst) || Config.iterateDepends inp.image (cls, inst) o))

/-- The value that a proven block takes in place of one that its proof excludes: in range, and within the bounds of an iterate. -/
def provenValue (inp : SolveInput) (d : EnginePlace) (cls inst : Nat) (acc : Int) : Int :=
  let w := Config.provenWord inp d acc
  if imLevelOf inp.image cls inst = 1 then
    (clampWord (iterateBound inp.image cls inst).1 (iterateBound inp.image cls inst).2 w).toInt
  else w.toInt

/-- Write a rounded and saturated result into a word of a block (R204–R208, R245, R266): each result that saturates sets SAT. Where
a proof excludes that (R222, R223) the operation that the model's free order names is not the engine's, and the word is free
(DEDUCED, log entry 152). -/
def EngineState.write (inp : SolveInput) (x : EngineState) (d : EnginePlace) (cls inst : Nat) (r : Flagged Int) : EngineState :=
  let y := x.compare inp cls inst r.val
  if r.flags = 0 then y.put d r.val
  else if satExcluded inp y cls inst then y.put d (provenValue inp d cls inst x.acc)
  else { y.put d r.val with sats := y.sats + 1, resultSat := y.resultSat || d.1 == 0 }

/-! Pivots (R261, R262, R264, R265). -/

/-- The pivots of a block of a factorisation (R265): the control block of an MPC stage (R258's example), a window step of EST. -/
def blockPivots (image : Bytes) : Nat :=
  if imKind image = 3 then imNu image else max 1 (min 256 (Config.stepPivots image))

/-- The index of the `n`-th pivot of a factorisation in the encoding of its kind (R265): from 0, in factorisation order. -/
def pivotIndex (image : Bytes) (n : Nat) : Nat :=
  let c := blockPivots image
  match imKind image with
  | 2 => n % imDof image
  | 3 => n / c % imHorizon image * 256 + n % c
  | 4 => n / c % imWindow image * 256 + n % c
  | 5 => n % imLsqN image
  | _ => 0xFFFF

/-- Whether a pivot is replaced: its raw magnitude is less than τ (R264). -/
def pivotSmall (tau p : Int) : Bool := decide ((p.natAbs : Int) < tau)

/-- The pivot that is used (R264): +τ for 0, τ with the sign of a small one, any other unchanged. -/
def pivotUsed (tau p : Int) : Int := if pivotSmall tau p then (if p < 0 then -tau else tau) else p

/-- The reciprocal of pivot `p` refined from seed `x` (R262): e = 1 − p·x in `fa` + `F` fraction bits, kept in format `fe`, and
x·(1 + e) where the magnitude of e is at most 2^−8. -/
def refined (p x : Int) (fa F fe : Nat) (fx : Int) : Option (Flagged Int) :=
  let g := fa + F
  let e : Int := (2 ^ g : Nat) - p * x
  if e.natAbs * 256 ≤ 2 ^ g then
    some ((writeOut e g fe).andThen (fun e => writeOut (x * (2 ^ fe : Nat) + x * e) (fx + fe) fx))
  else none

/-- The reciprocal of the pivot that is used (R261, R262): by a divide on path 0; on path 1 refined from its seed where that serves. -/
def pivotReciprocal (inp : SolveInput) (seeds : List (Nat × Word)) (index : Nat) (p : Int) (fa F fe : Nat) : Flagged Int :=
  let fx : Int := fa - fld (wordAt inp.image 14) 4 0 + F
  let seed := if imPath inp.image = 1 then (seeds.find? (fun y => y.1 == index)).map (·.2.toInt) else none
  match seed.bind (fun x => refined p x fa F fe fx) with
  | some r => r
  | none => solverDiv (2 ^ fa : Nat) p F

/-- Form the reciprocal of the factorisation's `n`-th pivot: a replacement is counted (R265), and on path 1 the reciprocal used
becomes the pivot's seed (R262). -/
def EngineState.reciprocal (inp : SolveInput) (x : EngineState) (n : Nat) (d p : EnginePlace) (fa F fe cls inst : Nat) : EngineState :=
  let tau := inp.tau.toInt
  let index := pivotIndex inp.image n
  let small := pivotSmall tau (x.raw p)
  let y := x.write inp d cls inst (pivotReciprocal inp x.seeds index (pivotUsed tau (x.raw p)) fa F fe)
  { y with
    pivots := y.pivots + (if small then 1 else 0)
    firstPivot := if small && y.pivots == 0 then index else y.firstPivot
    seeds := if imPath inp.image = 1 then (index, y.mem d) :: y.seeds.filter (fun z => z.1 != index) else y.seeds }

/-! Operations and parts. -/

/-- The value of an element of an input item. -/
def inputWord (inp : SolveInput) (item elem : Nat) : Word :=
  match inp.items.find? (fun x => x.1 == item) with | some x => x.2.getD elem 0 | none => 0

/-- One operation of a solve; `n` pivots of its factorisation went before it. -/
def engineStep (inp : SolveInput) (x : EngineState) (n : Nat) (op : EngineOp) : EngineState :=
  let signed := fun (minus : Bool) (v : Int) => if minus then -v else v
  match op with
  | .input d item elem => x.put d (inputWord inp item elem).toInt
  | .constant d word => x.put d (wordAt inp.image word).toInt
  | .kept d word => x.put d (inp.persistent.getD word 0).toInt
  | .clear => { x with acc := 0, terms := 0 }
  | .product a b minus => x.accumulate (signed minus (x.raw a * x.raw b))
  | .term a shift minus => x.accumulate (signed minus (x.raw a * (2 ^ (shift % 32) : Nat)))
  | .store d fs cls inst => x.write inp d cls inst (writeOut x.acc fs (imFormatOf inp.image cls inst))
  | .divide d a b F cls inst => x.write inp d cls inst (solverDiv (x.raw a) (x.raw b) F)
  | .root d a fa cls inst => x.write inp d cls inst (solverSqrt (x.raw a) fa (imFormatOf inp.image cls inst))
  | .choose d a b u v => x.put d (if x.raw a ≤ x.raw b then x.raw u else x.raw v)
  | .reciprocal d p fa F fe cls inst => x.reciprocal inp n d p fa F fe cls inst
  | .iterate a cls inst => x.compare inp cls inst (x.raw a)

/-- The parts of iteration `j` (R216, R217): an MPC or EST iteration relinearises, factors once and updates; the first iteration of
LSQ factors and solves, a further one refines; KIN has no pivots. -/
def iterationParts (kind j : Nat) : List EnginePart :=
  match kind with
  | 1 => [.update]
  | 2 => [.factor, .update]
  | 5 => if j = 0 then [.factor, .update] else [.update]
  | _ => [.relinearise, .factor, .update]

/-- The abandon_point code of a part (R273). -/
def partCode (p : EnginePart) : Nat :=
  match p with | .setup => 1 | .relinearise => 3 | .factor => 4 | .update => 5 | .final => 6

/-- A step of a solve: the code of its part (R273), the pivots of its factorisation before it, and the operation; the end of an
iteration has none. -/
structure EngineStep where
  part : Nat
  pivot : Nat
  op : Option EngineOp

/-- Whether an operation forms a pivot's reciprocal. -/
def isPivot (op : EngineOp) : Bool := match op with | .reciprocal .. => true | _ => false

/-- The operations of a part, with the pivots that go before each. -/
def partSteps (part : Nat) : Nat → List EngineOp → List EngineStep
  | _, [] => []
  | n, op :: ops => ⟨part, n, some op⟩ :: partSteps part (if isPivot op then n + 1 else n) ops

/-- The steps of a whole solve: the delta read, exactly so many iterations, each of which ends at the point between iterations, and
the final computation (R217, R257, R273). -/
def engineSteps (inp : SolveInput) : List EngineStep :=
  let part := fun (p : EnginePart) => partSteps (partCode p) 0 (Config.engineOps inp.image inp.ops (inputWord inp 0x05 0) p)
  part .setup
  ++ (List.range inp.iterations).flatMap (fun j => (iterationParts (imKind inp.image) j).flatMap part ++ [⟨2, 0, none⟩])
  ++ part .final

/-- Carry out a list of steps from the start of a solve. -/
def engineRun (inp : SolveInput) (steps : List EngineStep) : EngineState :=
  steps.foldl (fun x y => match y.op with | some op => engineStep inp x y.pivot op | none => x) (EngineState.start inp)

/-- The engine at the end of a solve. -/
def engineDone (inp : SolveInput) : EngineState := engineRun inp (engineSteps inp)

/-- The persistent words that a completed solve leaves (R233, R263). -/
def keptWords (inp : SolveInput) : List Word :=
  let x := engineDone inp
  (List.range (imPersistent inp.image / 4)).map (fun i => x.mem (3, i))

/-! Abandoned solves (R273). -/

/-- Where a solve stands that is abandoned after `dt` ns. -/
structure Abandoned where
  /-- abandon_point, iterations completed and pivot_at. -/
  point : Nat
  iterations : Nat
  pivotAt : Nat
  /-- The engine at the stop, and as the last completed iteration left it. -/
  stop : EngineState
  iterate : EngineState

/-- The pivot at which a factorisation stopped after `n` steps: the next one that it was to form, or its last where it had formed
them all (DESIGN CHOICE, log entry 131). -/
def stoppedPivot (image : Bytes) (steps : List EngineStep) (n : Nat) : Nat :=
  let inPart := fun (l : List EngineStep) => (l.takeWhile (fun y => y.part == 4)).find? (fun y => match y.op with | some op => isPivot op | none => false)
  match inPart (steps.drop n), inPart (steps.take n).reverse with
  | some y, _ => pivotIndex image y.pivot
  | none, some y => pivotIndex image y.pivot
  | none, none => 0xFFFF

/-- The stop of a solve after `dt` ns. -/
def abandonedAt (inp : SolveInput) (dt : Nat) : Abandoned :=
  let steps := engineSteps inp
  let n := Config.abandonAt inp dt % (steps.length + 1)
  let point := match steps[n]? with | some y => y.part | none => 6
  let ended := (List.range (min (n + 1) steps.length)).filter (fun i => match steps[i]? with | some y => y.op.isNone | none => false)
  let setup := (steps.takeWhile (fun y => y.part == 1)).length
  { point := point
    iterations := ended.length
    pivotAt := if point = 4 then stoppedPivot inp.image steps n else 0xFFFF
    stop := engineRun inp (steps.take n)
    iterate := engineRun inp (steps.take (ended.getLastD setup)) }

/-- Word `i` of the arrays of a diagnostic copy (R273): with no iteration completed, the warm start. -/
def abandonedWord (inp : SolveInput) (a : Abandoned) (i : Nat) : Word :=
  let warm := match inp.items.find? (fun x => x.1 == 0x20) with | some x => x.2 | none => []
  if a.iterations = 0 ∧ i < warm.length then warm.getD i 0 else a.iterate.mem (0, i)

/-! STOP trajectories (R251, R252). -/

/-- The words of the plan that BASE_PLAN names. -/
def baseWords (inp : SolveInput) : List Word := match inp.items.find? (fun x => x.1 == 0x50) with | some x => x.2 | none => []

/-- The stages N of the plan that BASE_PLAN names: 1 to 64, with no more states than its words hold. -/
def baseStages (inp : SolveInput) : Nat :=
  let n := (baseWords inp).length
  max 1 (min (min 64 (n / (2 * imDof inp.image) - 1)) (Config.planStages inp.image n))

/-- The path of a base plan where `a / b` knots of it are passed (R251): raw position and velocity of DOF `i`, those of its states at
whole knots, positions before velocities (DESIGN CHOICE, log entry 17). -/
def pathAt (inp : SolveInput) (a b i : Nat) : Word × Word :=
  let d := imDof inp.image
  if a % b = 0 then ((baseWords inp).getD (a / b * (2 * d) + i) 0, (baseWords inp).getD (a / b * (2 * d) + d + i) 0)
  else (Config.pathPos inp a b i, Config.pathVel inp a b i)

/-- Whether a stop over `T` knots keeps DOF `i` within STOP_LIMITS at knot `k` (R219, R251): with σ(k) = (2Tk − k²) / 2T, σ̇ = (T − k) / T
and σ̈ = −1/T, the acceleration is q″σ̇² + q′σ̈, and its derivative q‴σ̇³ + 3q″σ̇σ̈ the jerk. -/
def stopHolds (inp : SolveInput) (T k i : Nat) : Bool :=
  let lim := imFind inp.image 0x0A
  let a := 2 * T * k - k * k
  let d1 := Config.pathD1 inp a (2 * T) i
  let d2 := Config.pathD2 inp a (2 * T) i
  let d3 := Config.pathD3 inp a (2 * T) i
  let v : Int := T - k
  decide (((d2 * v * v - d1 * T).natAbs : Int) ≤ (wordAt lim (2 * i)).toInt * T * T)
  && decide (((d3 * v * v * v - 3 * d2 * v * T).natAbs : Int) ≤ (wordAt lim (2 * i + 1)).toInt * T * T * T)

/-- Whether a stop over `T` knots keeps every DOF within STOP_LIMITS at every knot. -/
def stopFits (inp : SolveInput) (T : Nat) : Bool :=
  (List.range (T + 1)).all (fun k => (List.range (imDof inp.image)).all (stopHolds inp T k))

/-- T, and whether the stop was stretched to it (R251, R252): the smallest whole number of knots that keeps STOP_LIMITS, or 2N. -/
def stopLength (inp : SolveInput) : Nat × Bool :=
  let N := baseStages inp
  match ((List.range (2 * N)).map (· + 1)).find? (stopFits inp) with
  | some T => (T, false)
  | none => (2 * N, true)

/-- Raw position, velocity and torque of a DOF at a knot of a stop trajectory (R251, R252): the path at σ(k) and at the speed σ̇ there;
after T the final position, at rest, with the gravity torque. -/
def stopRaw (inp : SolveInput) (k i : Nat) : Word × Word × Word :=
  let T := (stopLength inp).1
  let a := fun (k : Nat) => 2 * T * k - k * k
  if k ≤ T then
    let q := pathAt inp (a k) (2 * T) i
    (q.1, BitVec.ofInt 32 (divNearestEven (q.2.toInt * (T - k : Nat)) T), Config.stopTorque inp T k i)
  else ((pathAt inp (a T) (2 * T) i).1, 0, Config.stopGravity inp i)

/-- Raw position, velocity and torque of a DOF at a knot of a plan (R217, R250): for MPC those of the final iterate's states, positions
before velocities (DESIGN CHOICE, log entry 17), and the torque of the final inverse dynamics. -/
def planRaw (inp : SolveInput) (x : EngineState) (k i : Nat) : Word × Word × Word :=
  if imKind inp.image = 3 then
    let nx := imNx inp.image
    (x.mem (0, k * nx + i), x.mem (0, k * nx + nx / 2 + i), x.mem (2, k * imDof inp.image + i))
  else stopRaw inp k i

end Sys2Proof.Machine
end

