-- ==== Sys2Proof/Machine/Packet.lean ====
section
/-!
DEFINITION. Machine/Packet.lean: delta packets and input items (R224–R226, R236–R243), and the results of solves
(R244–R252, R273).
-/
namespace Sys2Proof.Machine

/-- The items of R239. -/
def itemIds : List Nat :=
  [0x01, 0x02, 0x03, 0x04, 0x05, 0x06, 0x07, 0x08, 0x10, 0x11, 0x12, 0x13, 0x14, 0x15, 0x16, 0x20, 0x21, 0x30, 0x31,
   0x32, 0x40, 0x41, 0x50]

/-- The block class of element `i` of an item (R239): positions before velocities in a state (DESIGN CHOICE, log entry 17), lo and hi
of BOX together for each variable (DESIGN CHOICE, log entry 132). CONTACT_MASK is an integer and has no block (`itemFormat`). -/
def itemClass (b : Bytes) (item i : Nat) : Nat :=
  let stateClass := fun (j : Nat) => if 2 * (j % imNx b) < imNx b then 0x01 else 0x02
  match item with
  | 0x01 => 0x01
  | 0x02 => 0x02
  | 0x03 => 0x03
  | 0x04 => 0x04
  | 0x06 => 0x05
  | 0x07 => 0x07
  | 0x08 => 0x08
  | 0x10 => stateClass i
  | 0x11 => 0x04
  | 0x12 => 0x0A
  | 0x13 => 0x0A
  | 0x14 => let j := i % (2 * (imNx b + imNu b)) / 2
      if j < imNx b then stateClass j else 0x04
  | 0x15 => 0x0E
  | 0x16 => 0x0B
  | 0x20 => if i < (imHorizon b + 1) * imNx b then stateClass i else 0x04
  | 0x21 => if Config.warmIsSlack b i then 0x0F else 0x0E
  | 0x30 => 0x10
  | 0x31 => 0x11
  | 0x32 => 0x11
  | 0x50 => if Config.planState b i then (if i % (2 * imDof b) < imDof b then 0x01 else 0x02) else 0x04
  | _ => 0x12

/-- The instance of the block that element `i` of an item belongs to (R220, R239): a body for EXT_WRENCH, elsewhere what the class
defines. -/
def itemInstance (b : Bytes) (item i : Nat) : Nat :=
  if item = 0x07 then i / 6 else Config.blockInstance b (itemClass b item i) item i

/-- The fraction width of an element (R239): 0 for CONTACT_MASK, which is an integer. -/
def itemFormat (b : Bytes) (item i : Nat) : Nat :=
  if item = 0x05 then 0 else imFormatOf b (itemClass b item i) (itemInstance b item i)

/-- The bounds of an element in a list of groups whose DEFAULTS values begin at word `base`: lo, hi, DEFAULTS value. -/
def boundIn (defs : Bytes) (item i : Nat) : List BoundGroup → Nat → Option (Word × Word × Word)
  | [], _ => none
  | g :: gs, base =>
    if g.item = item ∧ g.first ≤ i ∧ i < g.first + g.pairs.length then
      let p := g.pairs.getD (i - g.first) (0, 0)
      some (p.1, p.2, wordAt defs (base + (i - g.first)))
    else boundIn defs item i gs (base + g.pairs.length)

/-- The bounds and the default of an element (R219, R224): lo, hi, DEFAULTS value. -/
def elementBound (b : Bytes) (item i : Nat) : Option (Word × Word × Word) :=
  boundIn (imFind b 0x06) item i (imBounds b) 0

/-- The DEFAULTS value of an element (R233, R241); free where the image holds none. -/
def elementDefault (b : Bytes) (item i : Nat) : Word :=
  match elementBound b item i with
  | some x => x.2.2
  | none => Config.noDefault item i

/-- The input items of a slot after a STRUCT_SWITCH or with reset_state (R233, R241). -/
def defaultItems (b : Bytes) : List Item :=
  itemIds.filterMap (fun id => match itemCount b id with
    | some n => some { id := id, vals := if id = 0x50 then [] else (List.range n).map (elementDefault b id) }
    | none => none)

/-- The parameters of a slot after a switch (R235). -/
def defaultParams (b : Bytes) : SlotParams where
  iterations := imDefIter b
  tau := imDefTau b
  feasTol := imDefTol b
  emitPlan := true

/-- The inputs, parameters and persistent values that a slot has after image `b` became active (R233). -/
def Slot.fresh (x : Slot) (b : Bytes) : Slot :=
  { x with params := defaultParams b, items := defaultItems b, persistent := [], seeds := [] }

/-- A slot in which a version becomes active (R233). -/
def Slot.switchTo (x : Slot) (v : BitVec 16) : Slot :=
  match x.active, x.standby with
  | a, some sb =>
    if sb.version = v ∧ a.map (·.version) ≠ some v then
      { x.fresh sb.bytes with active := some sb, standby := a }
    else x
  | _, .none => x

/-! Delta packets (R236, R237). -/

def dpVersion (b : Bytes) : BitVec 16 := BitVec.ofNat 16 (fld (wordAt b 0) 31 16)
def dpCount (b : Bytes) : Nat := fld (wordAt b 0) 15 0
def dpSeq (b : Bytes) : Word := wordAt b 1
def dpLength (b : Bytes) : Nat := fld (wordAt b 2) 23 0
def dpGroup (b : Bytes) : Nat := fld (wordAt b 3) 15 8
def dpOps (b : Bytes) : Nat := fld (wordAt b 3) 4 0
def dpStop (b : Bytes) : Bool := wbit (wordAt b 3) 4
def dpOrigin (b : Bytes) : PhaseValue := ⟨wordAt b 4, wordAt b 5, wordAt b 6⟩
def dpReset (b : Bytes) : Bool := wbit (wordAt b 7) 0

/-- One entry of a delta packet. -/
structure DeltaEntry where
  item : Nat
  first : Nat
  /-- 0 inline raw, 1 inline FP32, 2 by reference. -/
  form : Nat
  count : Nat
  addr : Nat
  data : List Word

/-- The entries of a packet after its header; none when they break R237 or run past its end. -/
def deltaEntries : Nat → Bytes → Option (List DeltaEntry)
  | 0, b => if b.isEmpty then some [] else none
  | n + 1, b =>
    if b.length < 16 then none
    else
      let w := wordAt b
      let form := fld (w 1) 31 30
      let count := fld (w 1) 15 0
      let size := if form = 2 then 0 else 4 * count
      let e : DeltaEntry :=
        { item := fld (w 0) 31 16, first := fld (w 0) 15 0, form := form, count := count, addr := dwordAt b 2,
          data := toWords (size / 4) (b.drop 16) }
      if fld (w 1) 29 16 ≠ 0 ∨ form = 3 ∨ count = 0 ∨ (form ≠ 2 ∧ e.addr ≠ 0) ∨ b.length < 16 + size then none
      else (deltaEntries n (b.drop (16 + size))).map (fun l => e :: l)

/-- Whether two entries cover one element. -/
def entriesOverlap (a b : DeltaEntry) : Bool :=
  a.item == b.item && decide (a.first < b.first + b.count) && decide (b.first < a.first + a.count)

def entriesDisjoint : List DeltaEntry → Bool
  | [] => true
  | e :: es => es.all (fun x => !entriesOverlap e x) && entriesDisjoint es

/-- Whether a packet's header keeps R236 for an image's kind. -/
def packetHeaderOk (image b : Bytes) : Bool :=
  let k := imKind image
  let hasPlan := k == 3 || (k == 2 && dpStop b)
  withinMasks (toWords 12 b) [mAll, mAll, mask 23 0, mask 15 8 ||| mask 4 0, mAll, mAll, mAll, 1]
  && decide (dpCount b ≤ 1024) && inRange 48 262144 (dpLength b)
  && decide (dpGroup b ≤ 15)
  && (if k = 2 then dpOps b != 0 && (!dpStop b || imStopKnots image != 0) else dpOps b == 0)
  && (hasPlan || (wordAt b 4 == 0 && wordAt b 5 == 0 && wordAt b 6 == 0))

/-- The entries of a packet that keeps R236, R237 and R240 for an image; `basic` accepts inline FP32 (R243). -/
def packetEntries (image b : Bytes) (basic : Bool) : Option (List DeltaEntry) :=
  if !packetHeaderOk image b || b.length != dpLength b then none
  else match deltaEntries (dpCount b) (b.drop 48) with
    | none => none
    | some es =>
      if es.all (fun e => (match itemCount image e.item with
            | some n => decide (e.first + e.count ≤ n)
            | none => false)
          && (e.item != 0x50 || e.form == 2) && (basic || e.form != 1))
        && entriesDisjoint es then some es else none

/-! Items with a packet applied (R225, R226, R241, R243). -/

/-- Convert one inline FP32 element (R243): the raw word, and whether it was replaced. An element with no declared bound takes the limit
of the word for an infinity (DESIGN CHOICE, log entry 133). -/
def fp32ToRaw (image : Bytes) (item i : Nat) (w : Word) : Word × Bool :=
  let f : Int := itemFormat image item i
  let bound := elementBound image item i
  match rd32 w with
  | .nan => (elementDefault image item i, true)
  | .inf neg => (match bound with
    | some x => (if neg then x.1 else x.2.1, true)
    | none => (if neg then 0x80000000 else 0x7FFFFFFF, true))
  | .fin neg m e => (BitVec.ofInt 32 (satSigned 32 (roundInt neg m (e + f))), false)

/-- Put values into a list from an index, extending it with zeros where it is shorter. -/
def setFrom (l : List Word) (i : Nat) (vs : List Word) : List Word :=
  let l := l ++ List.replicate (i + vs.length - l.length) 0
  l.take i ++ vs ++ l.drop (i + vs.length)

/-- Apply raw values to an item of a list. -/
def setItem (items : List Item) (id first : Nat) (vs : List Word) : List Item :=
  items.map (fun x => if x.id = id then { x with vals := setFrom x.vals first vs } else x)

/-- An element of an item clamped to its declared bounds (R225); CONTACT_MASK then loses the bits of contacts that the image does not
have (R226). The number of clamps stands beside it. -/
def clampElement (image : Bytes) (item i : Nat) (v : Word) : Word × Nat :=
  let v1 := match elementBound image item i with
    | some bd => clampWord bd.1 bd.2.1 v
    | none => v
  let v2 := if item = 0x05 then v1 &&& BitVec.ofNat 32 (2 ^ imContacts image - 1) else v1
  (v2, (if v1 = v then 0 else 1) + (if v2 = v1 then 0 else 1))

/-- Clamp every element of every item (R225, R226), with the place of each clamp. -/
def clampItems (image : Bytes) (items : List Item) : List Item × List (Nat × Nat) :=
  let one := fun (x : Item) =>
    let vs := (List.range x.vals.length).map (fun i => clampElement image x.id i (x.vals.getD i 0))
    ({ x with vals := vs.map (·.1) }, (List.range vs.length).flatMap (fun i => List.replicate (vs.getD i (0, 0)).2 (x.id, i)))
  let r := items.map one
  (r.map (·.1), r.flatMap (·.2))

/-! Results (R244–R252). -/

def SolveInput.ofRun (r : Run) : SolveInput where
  image := r.image.bytes
  iterations := r.params.iterations
  tau := r.params.tau
  feasTol := r.params.feasTol
  items := r.items.map (fun x => (x.id, x.vals))
  clean := r.clampCount == 0
  persistent := r.persistent
  seeds := r.seeds
  ops := dpOps r.packet

/-- Whether a solve writes a plan block (R249, R250). -/
def runHasPlan (r : Run) : Bool :=
  (imKind r.image.bytes == 3 && r.params.emitPlan) || (imKind r.image.bytes == 2 && dpStop r.packet)

/-- The words of the arrays of R246. -/
def arrayWords (image : Bytes) (ops : Nat) (items : List Item) : Nat :=
  let d := imDof image
  let N := imHorizon image
  match imKind image with
  | 1 => 12 * imBodies image + 6 * d * imFrames image
  | 2 =>
    let contacts := match items.find? (fun x => x.id == 0x05) with | some x => (x.vals.getD 0 0).toNat | none => 0
    let rows := ((List.range 16).filter (fun c => Nat.testBit contacts c)).foldl
      (fun n c => n + if Config.contactWide image c then 6 else 3) 0
    (if Nat.testBit ops 0 then d else 0) + (if Nat.testBit ops 1 then d else 0)
      + (if Nat.testBit ops 2 then d * (d + 1) / 2 else 0) + (if Nat.testBit ops 3 then rows * d else 0)
  | 3 => (N + 1) * imNx image + N * imNu image + N * imConstraints image
  | 4 => imNx image + imNx image * (imNx image + 1) / 2 + imWindow image
  | 5 => imLsqN image + 1
  | _ => 0

/-- The DOFs in a plan, with their JOINT_MAP entries (R248). -/
def planDofs (image : Bytes) : List (Nat × Bytes) :=
  let x := imFind image 0x03
  ((List.range (imDof image)).map (fun i => (i, slice x (24 * i) 24))).filter (fun p => fld (wordAt p.2 0) 31 24 != 0xFF)

/-- Knots of a plan (R249). -/
def planKnotCount (image : Bytes) : Nat := if imKind image = 3 then imHorizon image + 1 else imStopKnots image

/-- `round_ne(x · 2^k)` for a signed `k` (R250). -/
def scaleRound (x k : Int) : Int := if 0 ≤ k then x * 2 ^ k.toNat else divNearestEven x (2 ^ (-k).toNat)

/-- A knot entry (R250), with the number of fields that saturated. -/
def knotEntry (image map : Bytes) (dof : Nat) (raw : Word × Word × Word) : Bytes × Nat :=
  let fq : Int := imFormatOf image 0x01 (Config.blockInstance image 0x01 0 dof)
  let fv : Int := imFormatOf image 0x02 (Config.blockInstance image 0x02 0 dof)
  let ft : Int := imFormatOf image 0x04 (Config.blockInstance image 0x04 0 dof)
  let sf : Int := fld (wordAt map 0) 20 16
  let tf : Int := fld (wordAt map 0) 12 8
  let cs := (wordAt map 1).toInt
  let ts := (wordAt map 2).toInt
  let p := scaleRound (raw.1.toInt * cs) (16 - fq - sf) + toSigned 64 (dwordAt map 4)
  let v := scaleRound (raw.2.1.toInt * cs) (16 - fv - sf)
  let t := scaleRound (raw.2.2.toInt * ts) (16 - ft - tf)
  let sat := fun (n : Nat) (x : Int) => if satSigned n x = x then 0 else 1
  (leBytes 8 (wrapN 64 (satSigned 64 p)) ++ leBytes 8 (wrapN 64 (satSigned 64 v)) ++ leBytes 4 (wrapN 32 (satSigned 32 t))
    ++ leBytes 4 0, sat 64 p + sat 64 v + sat 32 t)

/-- The plan block of a run (R249), with its saturations. -/
def planBlock (r : Run) (epoch : BitVec 16) : Bytes × Nat :=
  let image := r.image.bytes
  let dofs := planDofs image
  let K := planKnotCount image
  let inp := SolveInput.ofRun r
  let group := if imKind image = 3 then dpGroup r.packet else 0xFF
  let o := dpOrigin r.packet
  let head := ofWords [BitVec.ofNat 32 (2 ^ 24 + group * 2 ^ 16 + dofs.length * 2 ^ 8),
    BitVec.ofNat 32 (K * 2 ^ 16 + imKnotSpacing image), o.w0, o.w1, o.w2,
    BitVec.ofNat 32 (r.image.version.toNat * 2 ^ 16 + epoch.toNat), dpSeq r.packet] ++ List.replicate 36 0
  let chans := dofs.map (fun d => BitVec.ofNat 8 (fld (wordAt d.2 0) 31 24))
  let pad := List.replicate ((8 - chans.length % 8) % 8) (0 : Byte)
  let x := engineDone inp
  let knots := (List.range K).flatMap (fun k => dofs.map (fun d => knotEntry image d.2 d.1 (planRaw inp x k d.1)))
  (head ++ chans ++ pad ++ knots.flatMap (·.1), (knots.map (·.2)).foldl (· + ·) 0)

/-- What a completed solve reports, besides its bytes. -/
structure SolveReport where
  feasible : Bool
  degraded : Bool
  warn : BitVec 16
  plan : Bool
  planCrc : Word
  planOffset : Nat
  planLength : Nat
  bytes : Bytes

/-- The result of a completed run that ends at GTC `stamp` (R244–R250). -/
def solveResult (r : Run) (epoch : BitVec 16) (stamp : Nat) : SolveReport :=
  let image := r.image.bytes
  let k := imKind image
  let inp := SolveInput.ofRun r
  let n := arrayWords image inp.ops r.items
  let x := engineDone inp
  let arrays := (List.range n).flatMap (fun i => leBytes 4 (x.mem (0, i)).toNat)
  let hasPlan := runHasPlan r
  let pb := if hasPlan then planBlock r epoch else ([], 0)
  let pivots := if k = 1 then 0 else min 65535 x.pivots
  let sats := min 65535 (x.sats + pb.2)
  let stretched := k == 2 && dpStop r.packet && (stopLength inp).2
  let degraded := r.clampCount != 0 || pivots != 0 || sats != 0 || stretched
  let violation := x.mem (1, 1)
  let feasible := if k = 3 ∨ k = 4 then decide (violation.toInt ≤ r.params.feasTol.toInt)
      && (List.range (Config.warmDualCount image)).all (fun i => decide (0 ≤ (x.mem (4, i)).toInt))
    else !x.resultSat && pb.2 == 0
  let off := if hasPlan then 64 + 4 * n else 0
  let crc := if hasPlan then crc32c pb.1 else 0
  let bit := fun (b : Bool) (i : Nat) => if b then 2 ^ i else 0
  let head := ofWords [
    BitVec.ofNat 32 (r.image.version.toNat * 2 ^ 16 + k * 2 ^ 12 + bit stretched 3 + bit hasPlan 2 + bit degraded 1 + bit feasible 0),
    BitVec.ofNat 32 (r.params.iterations * 2 ^ 16 + epoch.toNat),
    dpSeq r.packet,
    BitVec.ofNat 32 ((if pivots = 0 then 0xFFFF else x.firstPivot) * 2 ^ 16 + pivots),
    BitVec.ofNat 32 (sats * 2 ^ 16 + min 65535 r.clampCount),
    BitVec.ofNat 32 (r.clampItem * 2 ^ 16 + r.clampElem),
    x.mem (1, 0), violation, x.mem (1, 2),
    BitVec.ofNat 32 off, BitVec.ofNat 32 pb.1.length, crc,
    BitVec.ofNat 32 r.start, BitVec.ofNat 32 (r.start / 2 ^ 32), BitVec.ofNat 32 stamp, BitVec.ofNat 32 (stamp / 2 ^ 32)]
  { feasible := feasible, degraded := degraded,
    warn := BitVec.ofNat 16 (bit (pivots != 0) 0 + bit (sats != 0) 1 + bit (r.clampCount != 0) 2),
    plan := hasPlan, planCrc := crc, planOffset := off, planLength := pb.1.length, bytes := head ++ arrays ++ pb.1 }

/-- The bytes that a result takes (R247). -/
def resultSize (image : Bytes) (packet : Bytes) (params : SlotParams) (items : List Item) : Nat :=
  let hasPlan := (imKind image == 3 && params.emitPlan) || (imKind image == 2 && dpStop packet)
  let c := (planDofs image).length
  64 + 4 * arrayWords image (dpOps packet) items
    + (if hasPlan then 64 + (c + 7) / 8 * 8 + planKnotCount image * c * 24 else 0)

/-- Where a run stands that is abandoned at GTC `stamp`. -/
def runAbandoned (r : Run) (stamp : Nat) : Abandoned := abandonedAt (SolveInput.ofRun r) (stamp - r.start)

/-- The warnings present in a run that is abandoned at GTC `stamp` (R145): PIVOT_REG, SAT, INPUT_RANGE. -/
def abandonWarn (r : Run) (stamp : Nat) : BitVec 16 :=
  let x := (runAbandoned r stamp).stop
  let bit := fun (b : Bool) (i : Nat) => if b then 2 ^ i else 0
  BitVec.ofNat 16 (bit (x.pivots != 0 && imKind r.image.bytes != 1) 0 + bit (x.sats != 0) 1 + bit (r.clampCount != 0) 2)

/-- The diagnostic copy of a run that is abandoned at GTC `stamp` (R273). -/
def diagCopy (r : Run) (epoch : BitVec 16) (stamp : Nat) : Bytes :=
  let inp := SolveInput.ofRun r
  let a := runAbandoned r stamp
  let k := imKind r.image.bytes
  let n := if k = 1 ∨ k = 2 then 0 else arrayWords r.image.bytes inp.ops r.items
  ofWords [
    BitVec.ofNat 32 (r.image.version.toNat * 2 ^ 16 + k * 2 ^ 12 + a.point * 2 ^ 8 + a.iterations % 256),
    dpSeq r.packet,
    BitVec.ofNat 32 (a.pivotAt * 2 ^ 16 + epoch.toNat),
    BitVec.ofNat 32 ((if k = 1 then 0 else min 65535 a.stop.pivots) * 2 ^ 16 + min 65535 a.stop.sats),
    BitVec.ofNat 32 r.start, BitVec.ofNat 32 (r.start / 2 ^ 32), BitVec.ofNat 32 stamp, BitVec.ofNat 32 (stamp / 2 ^ 32)]
  ++ List.replicate 32 0 ++ (List.range n).flatMap (fun i => leBytes 4 (abandonedWord inp a i).toNat)

/-- The items that a completed solve leaves (R241): an MPC solve's final iterate, shifted by one stage with its last stage
repeated, becomes the warm start. -/
def itemsAfter (r : Run) : List Item :=
  let image := r.image.bytes
  if imKind image ≠ 3 then r.items
  else
    let x := engineDone (SolveInput.ofRun r)
    let N := imHorizon image
    let nx := imNx image
    let nu := imNu image
    let xs := (List.range ((N + 1) * nx)).map (fun i => x.mem (0, i))
    let us := (List.range (N * nu)).map (fun i => x.mem (0, (N + 1) * nx + i))
    let shift := fun (l : List Word) (n : Nat) => l.drop n ++ l.drop (l.length - n)
    r.items.map (fun y => if y.id = 0x20 then { y with vals := shift xs nx ++ shift us nu } else y)

end Sys2Proof.Machine
end

