-- ==== Sys2Proof/Machine/ImprintCore.lean ====
section
/-!
DEFINITION. Machine/ImprintCore.lean: the digests of an imprint, and how a subject's imprint is begun and ended (R634–R642).
-/
namespace Sys2Proof.Machine

/-- A digest (R636): the first 16 bytes of SHA-256 over the items, each preceded by its length. -/
def digest (items : List Bytes) : Bytes := (sha256 (items.flatMap (fun b => leBytes 8 b.length ++ b))).take 16

/-- The items' bytes. -/
def itemBytes (items : List Bytes) : Nat := items.foldl (fun n b => n + b.length) 0

/-! Flags (R635). -/

def ifPROOF : Nat := 1
def ifORDER : Nat := 2
def ifSTOCHASTIC : Nat := 4
def ifPATH1 : Nat := 8
def ifDEGRADED : Nat := 16
def ifDROPPED : Nat := 32
def ifCACHED : Nat := 64
def ifRESTARTED : Nat := 128
def ifRERUNS : Nat := 256
def ifFAILED : Nat := 512

/-- A flag when it holds. -/
def flagIf (b : Bool) (f : Nat) : Nat := if b then f else 0

/-- The configuration of a queue that imprints a command (R637). -/
def imprintOn (s : State) (sq : Nat) (k : CmdKey) : Option ImprintConfig :=
  s.imprints.configs.find? (fun c => c.sq == sq && !c.before.contains k)

/-- The Plate partition entry in force (R88, R89, R636): the running entry with what PARAM_WRITE and TABLE_SWAP have changed. -/
def entryInForce (s : State) (p : Nat) : Bytes :=
  let o := (s.field.parts.getD p Partition.reset).override
  let put := fun (w : Word) (hi lo : Nat) (v : Option Nat) => match v with
    | some v => (w &&& ~~~mask hi lo) ||| BitVec.ofNat 32 (v % 2 ^ (hi + 1 - lo) * 2 ^ lo)
    | none => w
  let e := partEntry s p
  let w0 := put (put (put (wat e 0) 21 21 o.proof) 20 19 o.spdMode) 16 12 o.mapIndex
  slice (ofWords ([w0, put (wat e 1) 30 16 o.rtPorts] ++ (e.drop 2).take 2
    ++ [match o.waitLimit with | some v => BitVec.ofNat 32 v | none => wat e 4] ++ e.drop 5)) 0 64

/-- A subject starts (R637, R638): its input items go to the hash engine, and their ranges stay protected until it has them. -/
def beginImprint (s : State) (x : ImprintStart) (session : Word) (guards : List (Nat × Nat)) (bytes : Nat) : State :=
  { s with imprints := { s.imprints with
    started := s.imprints.started.filter (fun y => !(y.owner == x.owner && y.index == x.index)) ++ [x],
    queue := s.imprints.queue ++ [.inputs session guards bytes] } }

/-- A subject ends (R634–R638): `flags` beside those known at its start, and the items of its result; none when it ended with an
error status. -/
def endImprint (s : State) (owner : CmdKey) (index : Nat) (session : Word) (epoch : BitVec 16) (stamp flags : Nat)
    (result : Option (List Bytes)) : State :=
  match s.imprints.started.find? (fun y => y.owner == owner && y.index == index) with
  | none => s
  | some x =>
    let dig := match result with | some l => digest l | none => List.replicate 16 0
    let body := leBytes 1 1 ++ leBytes 1 (x.subject * 16 + x.unit) ++ leBytes 2 (x.flags + flags + flagIf result.isNone ifFAILED)
      ++ leBytes 2 x.cmdId ++ leBytes 2 epoch.toNat ++ leBytes 8 stamp ++ x.digests ++ dig ++ leBytes 8 Config.deviceSerial.toNat
    { s with imprints := { s.imprints with
      started := s.imprints.started.filter (fun y => !(y.owner == owner && y.index == index)),
      queue := s.imprints.queue ++ [.imprint { sq := x.sq, owner := owner, body := body, tag := x.tag, held := none } session
        (itemBytes (result.getD []))] } }

/-- The subjects of a command are no longer imprinted: it was stopped without a completion of its own. -/
def dropImprints (s : State) (k : CmdKey) : State :=
  { s with imprints := { s.imprints with started := s.imprints.started.filter (fun y => y.owner != k) } }

/-! Solves (R636). -/

/-- The persistent state of a slot in the bytes that the image gives it, whose layout the spec does not give. -/
def persistentBytes (image : Bytes) (items : List Item) (persistent : List Word) (seeds : List (Nat × Word)) : Bytes :=
  let l := items.map (fun i => (i.id, i.vals))
  slice (ofWords ((List.range ((imPersistent image + 3) / 4)).map (Config.stateWord image l persistent seeds))) 0 (imPersistent image)

/-- The four run-time parameters of a slot, 4 bytes each (R235). -/
def paramBytes (p : SlotParams) : Bytes :=
  leBytes 4 p.iterations ++ leBytes 4 p.tau.toNat ++ leBytes 4 p.feasTol.toNat ++ leBytes 4 (if p.emitPlan then 1 else 0)

/-- The command and the scenario that a solve is imprinted for: no imprint for a STOP solve (R637). -/
def solveSubject (o : SolveFor) : Option (CmdKey × Nat) :=
  match o with
  | .command c => some (c.key, 0)
  | .scenario k i => some (k, i)
  | .stop _ => none

/-- A solve starts on engine `e` from the state of its slot. -/
def beginSolveImprint (s : State) (e : Nat) (r : Run) (before : List Item) (persistent : List Word)
    (seeds : List (Nat × Word)) (refs : List (Nat × Nat)) : State :=
  match solveSubject r.job.owner, r.job.session with
  | some (k, i), some session =>
    (match k.src with
     | .queue _ =>
       match imprintOn s r.job.sq k with
       | none => s
       | some _ =>
         let program := [entryInForce s r.job.part, r.image.bytes, paramBytes r.params]
         let input := [r.packet] ++ refs.map (fun x => readKey s.mem x.1 x.2) ++ [persistentBytes r.image.bytes before persistent seeds]
         beginImprint s { sq := r.job.sq, owner := k, index := i, subject := 2, unit := e, cmdId := k.id.toNat,
                          flags := flagIf (imPath r.image.bytes = 1) ifPATH1,
                          digests := digest program ++ digest [] ++ digest input, tag := none }
           session refs (itemBytes input)
     | _ => s)
  | _, _ => s

/-- Where start_stamp and end_stamp, epoch and plan_crc lie in a result header (R244), and epoch in a plan block (R249): byte, bytes. -/
def resultFields : List (Nat × Nat) := [(4, 2), (44, 4), (48, 16)]
def planEpochAt : Nat := 20

/-- The result region with the fields set to 0 that vary between equal runs (R636): start_stamp, end_stamp, epoch and plan_crc of
the header, and epoch of the plan block. -/
def solveResultItem (result : Bytes) (plan : Option Nat) : Bytes :=
  let clear := fun (b : Bytes) (o n : Nat) => b.take o ++ List.replicate n 0 ++ b.drop (o + n)
  let b := resultFields.foldl (fun b f => clear b f.1 f.2) result
  match plan with
  | some o => clear b (o + planEpochAt) 2
  | none => b

/-- A solve has ended. -/
def endSolveImprint (s : State) (r : Run) (epoch : BitVec 16) (stamp : Nat) (degraded : Bool) (result : Option Bytes) : State :=
  match solveSubject r.job.owner, r.job.session with
  | some (k, i), some session =>
    endImprint s k i session epoch stamp (flagIf degraded ifDEGRADED) (result.map (fun b => [b]))
  | _, _ => s

end Sys2Proof.Machine
end

