-- ==== Sys2Proof/Machine/SolverOps.lean ====
section
/-!
DEFINITION. Machine/SolverOps.lean: how a solve starts, ends and is abandoned, and the chain of a scenario batch
(R234–R247, R257–R288).
-/
namespace Sys2Proof.Machine

/-- How a solve ended. -/
structure SolveEnd where
  status : Status
  warn : BitVec 16 := 0
  iterations : Nat := 0
  feasible : Bool := false
  degraded : Bool := false
  plan : Bool := false
  planCrc : Word := 0
  planAddr : Nat := 0
  planLen : Nat := 0
  stamp : Nat := 0
  epoch : BitVec 16 := 0
  /-- The engine that it ran on. -/
  engine : Option Nat := none

def findBatch (s : State) (k : CmdKey) : Option Batch := s.solver.batches.find? (fun b => b.cmd.key == k)
def modBatch (s : State) (k : CmdKey) (f : Batch → Batch) : State :=
  { s with solver := { s.solver with batches := s.solver.batches.map (fun b => if b.cmd.key == k then f b else b) } }
def dropBatch (s : State) (k : CmdKey) : State :=
  { s with solver := { s.solver with batches := s.solver.batches.filter (fun b => b.cmd.key != k) } }

/-! Placing and choosing solves. -/

/-- The engine that carries out a basic-level command naming `n` (R290). -/
def remapped (s : State) (n : Nat) : Nat :=
  match s.solver.remap.find? (fun p => p.1 == n) with | some p => p.2 | none => n

/-- Whether an engine carries out commands: it is active, or the spare to which a swap has given its work (R285, R290). -/
def engineServes (s : State) (e : Nat) : Bool := (getEngine s e).mode == .active || (getEngine s e).swapping.isSome

/-- The engine that a command names (R290): the spare for a basic-level command whose engine has been swapped. -/
def namedEngine (s : State) (c : Cmd) (engine : BitVec 4) : Nat :=
  if c.expert then engine.toNat else remapped s engine.toNat

/-- Put a solve at the end of an engine's queue. -/
def placeSolve (s : State) (e : Nat) (w : WaitingSolve) : State :=
  let s1 := levelShare s w.part w.session
  modEngine s1 e (fun x => { x with waiting := x.waiting ++ [{ w with epoch := x.epoch }] })

/-- The delta packet of a waiting solve as memory holds it now. -/
def packetOf (s : State) (w : WaitingSolve) : Except Status Bytes :=
  if !w.built.isEmpty then .ok w.built
  else match accessStatus s w.delta 48 false with
    | some st => .error st
    | none =>
      let n := dpLength (readKey s.mem w.delta 48)
      if !inRange 48 262144 n then .error stBAD_DESCRIPTOR
      else match accessStatus s w.delta n false with
        | some st => .error st
        | none => .ok (readKey s.mem w.delta n)

/-- By-reference bytes of a packet in the shared buffer and in LPDDR. -/
def refBytes (es : List DeltaEntry) : Nat × Nat :=
  let r := es.filter (fun e => e.form == 2)
  let sum := fun (l : List DeltaEntry) => l.foldl (fun n e => n + 4 * e.count) 0
  (sum (r.filter (fun e => decide (e.addr < lpddrBase))), sum (r.filter (fun e => decide (lpddrBase ≤ e.addr))))

/-- The worst-case bound of a solve in ns (R258, R259), at the image's max_iterations. -/
def solveBound (s : State) (image packet : Bytes) : Nat :=
  let r := refBytes ((deltaEntries (dpCount packet) (packet.drop 48)).getD [])
  cyclesNs s (imCyclesFixed image + imMaxIter image * imCyclesIter image)
    + (r.1 - 65536 + 63) / 64 + (r.2 + 31) / 32

/-- The bound in ns of a running solve (R258, R259), at its own iterations. -/
def runBound (s : State) (r : Run) : Nat :=
  let b := r.image.bytes
  let n := refBytes ((deltaEntries (dpCount r.packet) (r.packet.drop 48)).getD [])
  cyclesNs s (imCyclesFixed b + r.params.iterations * imCyclesIter b) + (n.1 - 65536 + 63) / 64 + (n.2 + 31) / 32

/-- The bound of a waiting solve; 0 where its packet or image cannot be read. -/
def waitingBound (s : State) (e : Nat) (w : WaitingSolve) : Nat :=
  match (getSlot s e w.slot).active, packetOf s w with
  | some i, .ok b => solveBound s i.bytes b
  | _, _ => 0

/-- The engine for which a spare stands (R290), by whose number the Plate grants it. -/
def grantName (s : State) (e : Nat) : Nat :=
  match s.solver.remap.find? (fun p => p.2 == e) with | some p => p.1 | none => e

/-- Whether an engine can take a solve: active, ON, idle, not under test. -/
def engineFree (s : State) (e : Nat) : Bool :=
  let x := getEngine s e
  x.mode == .active && x.swapping.isNone && x.run.isNone && unitReady s (0x20000 + e)
  && !(s.plate.engineTests.getD e UnitTest.zero).running

/-- The slot use that a solve needs: BATCH for the solves of a batch. -/
def solveUse (w : WaitingSolve) : Nat := match w.owner with | .command _ => 0 | _ => 1

/-- Whether the Plate grants an engine to a partition (R500). -/
def solveGranted (s : State) (p e : Nat) : Bool := peHasEngine (partEntry s p) (grantName s e)

/-- The solve that an engine takes next (R499, R500, R756). -/
def nextSolve (s : State) (e : Nat) : Option WaitingSolve :=
  if !engineFree s e then none
  else
    let ws := (getEngine s e).waiting
    bestBid ((List.range ws.length).filterMap (fun i => match ws[i]? with
      | some w => if solveGranted s w.part e && jobFree s w.part w.cls (jobKey w.owner) && mayStart s w.part w.cls (solveUse w) w.sq (waitingBound s e w) (some (grantName s e))
          then some (bidOf s w.cls w.deadline w.session w.sq i, w) else none
      | none => none))

/-- Take a solve out of an engine's queue. -/
def unqueueSolve (s : State) (e : Nat) (w : WaitingSolve) : State :=
  modEngine s e (fun x => { x with waiting := x.waiting.filter (fun y => y.owner != w.owner) })

/-! The chain of a batch (R280–R283). -/

/-- Whether a partition has a CHECK slot (R553). -/
def hasCheckSlot (s : State) (p : Nat) : Bool := (plateSlots s).any (fun w => slPart w == p && slUse w == 3)

/-- Submit a check request: its copy is made now (R552, R553). -/
def submitCheck (s : State) (owner : CheckFor) (p : Nat) (request : Bytes) : State :=
  { s with safety := { s.safety with queue := s.safety.queue ++
      [{ owner := owner, request := request, part := if hasCheckSlot s p then some p else none }] } }

/-- The request that the firmware builds for a candidate (R554). -/
def buildRequest (s : State) (b : Batch) (x : Scenario) : Bytes :=
  let head := readKey s.mem x.result 64
  let plan := readKey s.mem x.planAddr x.planLen
  let limits := ((s.safety.limits.getD b.limitSet none).getD [])
  let cp := lsPoints limits
  let n := planKnots plan * cp * 3
  ofWords [BitVec.ofNat 32 (2 ^ 24 + b.limitSet * 2 ^ 20), BitVec.ofNat 32 plan.length,
    BitVec.ofNat 32 (planKnots plan * 2 ^ 16 + cp * 2 ^ 8)] ++ List.replicate 52 0 ++ head ++ plan
    ++ (List.range n).flatMap (fun i => leBytes 4 (Config.cartesian limits plan i).toNat)

/-- The DYN STOP packet that the firmware builds on an accepted result (R281). -/
def buildStop (s : State) (b : Batch) (x : Scenario) : Bytes :=
  let image := match (getSlot s x.engine x.slot).active with | some i => i.bytes | none => []
  let version := match (getSlot s (remapped s b.stopEngine) b.stopSlot).active with | some i => i.version.toNat | none => 0
  let o := planOriginPv (readKey s.mem x.planAddr 64)
  let count := (imHorizon image + 1) * imNx image + imHorizon image * imNu image
  let addr := x.result + 64
  ofWords [BitVec.ofNat 32 (version * 2 ^ 16 + 1), wordAt (readKey s.mem x.result 64) 2, 64, 16, o.w0, o.w1, o.w2, 0, 0, 0, 0, 0,
    BitVec.ofNat 32 (0x50 * 2 ^ 16), BitVec.ofNat 32 (2 ^ 31 + count), BitVec.ofNat 32 addr, BitVec.ofNat 32 (addr / 2 ^ 32)]

/-- A scenario is resolved without acceptance (R280). -/
def resolved (x : Scenario) : Bool :=
  match x.status with
  | none => false
  | some _ => !x.feasible || x.rejected

/-- The report entry of a scenario (R276). -/
def reportEntry (x : Scenario) : Bytes :=
  let bit := fun (b : Bool) (i : Nat) => if b then 2 ^ i else 0
  let st := if x.rejected then stTRACER_REJECT else x.status.getD stDEADLINE_MISS
  ofWords [BitVec.ofNat 32 (x.iterations % 256 * 2 ^ 16 + bit x.accepted 11 + bit x.checked 10 + bit x.degraded 9
      + bit x.feasible 8 + st.toNat), x.planCrc, BitVec.ofNat 32 x.endStamp, BitVec.ofNat 32 (x.endStamp / 2 ^ 32)]

/-- The report and the completion of a batch that the firmware submitted for an action binding (R492). -/
def keepReport (s : State) (b : Batch) (report : Bytes) : State :=
  if b.cmd.key.src = .firmware then
    { s with loops := s.loops.map (fun l => { l with actions := l.actions.map (fun a =>
      if BitVec.ofNat 16 a.batch == b.cmd.key.id then { a with report := report } else a) }) }
  else s

/-- Complete a batch (R283, R293): the report entries first, then its one completion. -/
def batchComplete (s : State) (b : Batch) : State :=
  let n := b.scenarios.length
  let feasible := (b.scenarios.filter (·.feasible)).length
  let missed := (List.range n).filter (fun i => match b.scenarios[i]? with
    | some x => x.status == some stDEADLINE_MISS | none => false)
  let rejections := (b.scenarios.filter (·.rejected)).length
  let win := b.winner.bind (fun i => b.scenarios[i]?)
  let st : Status := match win with
    | none => if rejections ≠ 0 then stDISAGREE else stDEADLINE_MISS
    | some x => match b.armStatus with
      | some a => a
      | none => if x.degraded then stDEGRADED else stOK
  let crc := match win with | some x => x.planCrc | none => 0
  let index := b.winner.getD 0xFF
  let report := b.scenarios.flatMap reportEntry
  let s1 := putKey s (b.desc + 64 + 32 * n) report
  let s2 := if st = stDEADLINE_MISS ∧ b.cls = 2 then
      huskMiss s1 (match b.cmd.deadline with | some d => pvSrc d | none => srcCp) 2 b.sq b.cmd.key.id missed.length (missed.headD 0)
    else s1
  let s3 := admittedEnd (dropBatch s2 b.cmd.key) b.cmd.key
  let s4 := if st = stDEADLINE_MISS then charge s3 b.session (fun c => { c with deadlineMisses := satInc c.deadlineMisses }) else s3
  let r : Reply :=
    { status := st, warn := match win with | some x => x.warn | none => 0,
      result := BitVec.ofNat 64 (index + feasible * 2 ^ 8 + missed.length * 2 ^ 16 + rejections * 2 ^ 24 + crc.toNat * 2 ^ 32),
      epoch := match win with | some x => (getEngine s x.engine).epoch | none => 0, placed := win.map (·.engine) }
  keepReport (finish s4 b.cmd r) b (report ++ ofWords (completionWords true 0 (replyEntry s4 b.cmd.key 0 r)))

/-- Stage and begin to arm the primary of a batch (R281, R97): rows 3 to 10 now, the arm instant to come. -/
def armPrimary (s : State) (b : Batch) (x : Scenario) : State :=
  match findEtch s b.fallback with
  | none => modBatch s b.cmd.key (fun y => { y with stage := .finished, armStatus := some stBAD_DESCRIPTOR })
  | some f =>
    let act := fun (cls index addr len : Nat) (crc : Word) =>
      ({ typ := 2, cls := cls, index := index, item := 0, argLo := BitVec.ofNat 32 addr, argHi := BitVec.ofNat 32 (addr / 2 ^ 32),
         width := 0, length := len, crc := crc } : EtchAction)
    let plan := readKey s.mem x.planAddr 64
    let acts := [act 0x10 (planGroup plan) x.planAddr x.planLen x.planCrc, act 0x11 0 b.stopPlanAddr b.stopPlanLen b.stopPlanCrc]
    let h : EtchHeader := { count := 2, kind := 2, tag := f.hdr.tag, husk := b.primaryHusk, notify := b.primaryNotify,
                            commitPoint := f.hdr.commitPoint, armDeadline := pvZero, fallbackId := b.fallback }
    match stageEtch s b.session f.fn (some b.cmd.key) h acts with
    | .error st => modBatch s b.cmd.key (fun y => { y with stage := .finished, armStatus := some st })
    | .ok (id, s1) =>
      match findEtch s1 id with
      | none => s1
      | some e =>
        match armRows s1 b.part e with
        | .error st => modBatch (releaseEtch (countReject s1 st) id) b.cmd.key (fun y => { y with stage := .finished, armStatus := some st })
        | .ok bs =>
          let a : Arming := { etch := id, cmd := { b.cmd with key := ⟨.firmware, b.cmd.key.id⟩ }, staged := true,
                              batch := some b.cmd.key, payloads := bs, records := planRecords s1 acts bs }
          modBatch { s1 with etch := { s1.etch with arming := s1.etch.arming ++ [a] } } b.cmd.key (fun y => { y with stage := .arming })

/-- Take the next step of a batch's chain that the state allows (R280–R283); a retired stop engine takes no STOP solve, as no command
that names it (R291). -/
def batchAdvance (s : State) (k : CmdKey) : State :=
  match findBatch s k with
  | none => s
  | some b =>
    let ended := b.scenarios.all (fun x => x.status.isSome)
    match b.winner, b.stage with
    | some i, .solving =>
      match b.scenarios[i]? with
      | none => s
      | some x =>
        if b.fallback = 0 then (if ended then batchComplete s b else s)
        else
          let w : WaitingSolve := { owner := .stop k, session := b.session, slot := b.stopSlot, delta := 0, built := buildStop s b x,
                                    result := b.stopResult, resultWindow := none, capacity := b.stopCapacity, deadline := none, basic := false,
                                    epoch := 0, part := b.part, cls := b.cls, sq := b.sq }
          if engineServes s (remapped s b.stopEngine) then
            modBatch (placeSolve s (remapped s b.stopEngine) w) k (fun y => { y with stage := .stopSolve })
          else
            let b1 := { b with stage := .finished, armStatus := some stNO_RESOURCE }
            if ended then batchComplete s b1 else modBatch s k (fun _ => b1)
    | some _, .finished => if ended then batchComplete s b else s
    | some _, _ => s
    | none, _ =>
      match (List.range b.scenarios.length).find? (fun i => match b.scenarios[i]? with
          | some x => !resolved x | none => false) with
      | none => batchComplete s b
      | some i =>
        match b.scenarios[i]? with
        | none => s
        | some x =>
          if b.closed && b.inTracer.isNone then (if ended then batchComplete s b else s)
          else if x.status.isNone || b.inTracer.isSome then s
          else
            let s1 := modBatch s k (fun y => { y with inTracer := some i,
                                                      scenarios := y.scenarios.modify i (fun z => { z with checked := true }) })
            submitCheck s1 (.candidate k i) b.part (buildRequest s b x)

/-- The Tracer's answer on a candidate (R280). -/
def batchAnswer (s : State) (k : CmdKey) (i : Nat) (accepted : Bool) : State :=
  batchAdvance (modBatch s k (fun b => { b with
    inTracer := none, winner := if accepted then some i else b.winner,
    scenarios := b.scenarios.modify i (fun z => { z with accepted := accepted, rejected := !accepted }) })) k

/-- The arm of a batch's primary has ended (R283). -/
def batchArmed (s : State) (k : CmdKey) (st : Option Status) : State :=
  batchAdvance (modBatch s k (fun b => { b with stage := .finished, armStatus := st })) k

/-! Checks and arms that stop. -/

/-- Whether a check belongs to command `k`, itself or as part of its batch. -/
def checkOf (k : CmdKey) (o : CheckFor) : Bool :=
  match o with
  | .command c => c.key == k
  | .candidate b _ => b == k

/-- The checks that `p` selects leave the Tracer. -/
def stopChecks (s : State) (p : CheckFor → Bool) : State :=
  { s with safety := { s.safety with
    queue := s.safety.queue.filter (fun r => !p r.owner),
    check := match s.safety.check with | some r => if p r.req.owner then none else some r | none => none } }

/-- An arm between its checks and its arm instant: an etch that the arm staged goes with it (R168, R281). -/
def stopArming (s : State) (p : Arming → Bool) : State :=
  let l := s.etch.arming.filter p
  let s1 := { s with etch := { s.etch with arming := s.etch.arming.filter (fun a => !p a) } }
  l.foldl (fun s a => if a.staged then releaseEtch s a.etch else s) s1

/-! The end of a solve. -/

/-- Hand the outcome of a solve to whoever asked for it. -/
def solveOver (s : State) (w : WaitingSolve) (x : SolveEnd) : State :=
  match w.owner with
  | .command c =>
    let bit := fun (b : Bool) (i : Nat) => if b then 2 ^ i else 0
    let s1 := admittedEnd s c.key
    let s2 := if x.status = stDEADLINE_MISS then
        charge s1 w.session (fun c => { c with deadlineMisses := satInc c.deadlineMisses }) else s1
    let s3 := if x.status = stDEADLINE_MISS ∧ w.cls = 2 then
        huskMiss s2 (match w.deadline with | some d => pvSrc d | none => srcCp) 1 w.sq c.key.id 0 0 else s2
    finish s3 c { status := x.status, warn := x.warn, epoch := x.epoch, stamp := x.stamp, placed := x.engine,
                  result := if x.status = stOK ∨ x.status = stDEGRADED then
          BitVec.ofNat 64 (x.iterations + bit x.feasible 8 + bit x.degraded 9 + bit x.plan 10 + x.planCrc.toNat * 2 ^ 32)
        else if x.status = stINTERNAL then 2 else 0 }
  | .scenario k i =>
    batchAdvance (modBatch s k (fun b => { b with scenarios := b.scenarios.modify i (fun z => { z with
      status := some x.status, iterations := x.iterations, feasible := x.feasible, degraded := x.degraded, warn := x.warn,
      planCrc := x.planCrc, planAddr := x.planAddr, planLen := x.planLen, endStamp := x.stamp }) })) k
  | .stop k =>
    match findBatch s k with
    | none => s
    | some b =>
      let s1 := modBatch s k (fun y => { y with stopPlanCrc := x.planCrc, stopPlanAddr := x.planAddr, stopPlanLen := x.planLen })
      if x.status = stOK ∨ x.status = stDEGRADED then
        match b.winner.bind (fun i => b.scenarios[i]?), findBatch s1 k with
        | some c, some b1 => batchAdvance (armPrimary s1 b1 c) k
        | _, _ => s1
      else batchArmed s1 k (some x.status)

/-- A solve that is waiting ends without starting. -/
def refuseSolve (s : State) (e : Nat) (w : WaitingSolve) (st : Status) : State :=
  solveOver (unqueueSolve s e w) w { status := st, stamp := now s, epoch := (getEngine s e).epoch, engine := some e }

/-- Mark the active image of a slot unusable, with its Husk record (R231). -/
def markUnusable (s : State) (e n : Nat) : State :=
  huskRequest (modSlot s e n (fun x => { x with active := x.active.map (fun i => { i with usable := false }) }))
    0x07 (srcEngine e) (leBytes 1 1 ++ leBytes 1 e)

/-- The raw values of a delta entry, and the places where a basic-level FP32 element was replaced (R237, R243). -/
def entryValue (s : State) (image : Bytes) (x : DeltaEntry) : List Word × List (Nat × Nat) :=
  match x.form with
  | 0 => (x.data, [])
  | 1 =>
    let r : List (Nat × Word × Bool) := (List.range x.count).map (fun i =>
      (x.first + i, fp32ToRaw image x.item (x.first + i) (x.data.getD i 0)))
    (r.map (fun y => y.2.1), (r.filter (fun y => y.2.2)).map (fun y => (x.item, y.1)))
  | _ => (toWords x.count (readKey s.mem x.addr (4 * x.count)), [])

/-- Whether plan_origin is a phase value that the partition may use (R64, R65, R236). -/
def originOk (s : State) (part : Nat) (v : PhaseValue) : Bool := pvOk v && pvDirectionOk s v && pvPermitted s part v

/-- The checks on a waiting solve of image `im` before it starts (R231, R234, R238, R240–R243, R247, R752): its run, or the status that
ends it. -/
def solveRun (s : State) (w : WaitingSolve) (slot : Slot) (im : Image) : Except Status Run :=
  match packetOf s w with
  | .error st => .error st
  | .ok b =>
    match packetEntries im.bytes b w.basic with
    | none => .error stBAD_DESCRIPTOR
    | some es =>
      let refs := es.filter (fun x => x.form == 2)
      let items0 := if dpReset b then defaultItems im.bytes else slot.items
      if !originOk s w.part (dpOrigin b) then .error stBAD_DESCRIPTOR
      else if !refs.all (fun x => inEnvelope s w.session x.addr (4 * x.count)) then .error stPROTECTION
      else if !(refs.map (fun (x : DeltaEntry) => (x.addr, 4 * x.count)) ++ [(w.delta, if w.built.isEmpty then b.length else 0), (w.result, w.capacity)]).all
          (fun x => sliceServes s w.part x.1 x.2) then .error stPROTECTION
      else match refs.findSome? (fun x => accessStatus s x.addr (4 * x.count) false) with
        | some st => .error st
        | none =>
          let vs := es.map (fun x => (x, entryValue s im.bytes x))
          let items1 := vs.foldl (fun l y => setItem l y.1.item y.1.first y.2.1) items0
          let cl := clampItems im.bytes items1
          if w.capacity < resultSize im.bytes b slot.params cl.1 then .error stBAD_DESCRIPTOR
          else if dpVersion b ≠ im.version then .error stSTRUCT_MISMATCH
          else
            let clamped := vs.flatMap (fun y => y.2.2) ++ cl.2
            let n := refBytes es
            let till := now s + (n.1 + 63) / 64 + (n.2 + 31) / 32
            let first := clamped.headD (0, 0)
            .ok { job := w, packet := b, image := im, params := slot.params, items := cl.1,
                  persistent := if dpReset b then [] else slot.persistent, seeds := if dpReset b then [] else slot.seeds,
                  clampCount := clamped.length, clampItem := first.1, clampElem := first.2, start := now s,
                  guards := refs.map (fun x => ⟨x.addr, x.addr + 4 * x.count, till⟩), writing := false, rewritten := false }

/-- The engine takes a waiting solve whose run is `run`: its command is admitted and started. -/
def takeSolve (s : State) (e : Nat) (w : WaitingSolve) (run : Run) : State :=
  let items0 := if dpReset run.packet then defaultItems run.image.bytes else (getSlot s e w.slot).items
  let s1 := beginSolveImprint (modEngine (unqueueSolve s e w) e (fun x => { x with run := some run })) e run
    items0 run.persistent run.seeds (run.guards.map (fun g => (g.lo, g.hi - g.lo)))
  match w.owner with
  | .command c => markStarted (admittedStart s1 c.key) c.key
  | .scenario k _ => markStarted (admittedStart s1 k) k
  | .stop _ => s1

/-- The engine begins reading the delta packet of a waiting solve (R231, R234). -/
def startSolve (s : State) (e : Nat) (w : WaitingSolve) (imageError : Bool) : State :=
  let slot := getSlot s e w.slot
  match slot.active with
  | none => refuseSolve s e w stNO_RESOURCE
  | some im =>
    if imageError then refuseSolve (markUnusable s e w.slot) e w stUNCORRECTABLE
    else if !im.usable then refuseSolve s e w stUNCORRECTABLE
    else match solveRun s w slot im with
      | .error st => refuseSolve s e w st
      | .ok run => takeSolve s e w run

/-- Charge the session of a run for its engine time (R531). -/
def chargeRun (s : State) (r : Run) : State := chargeTime s r.job.session 0 (now s - r.start)

/-- A started solve is abandoned at GTC `stamp` (R272, R273): its diagnostic copy stays, nothing else of it does. -/
def abandonRun (s : State) (e : Nat) (r : Run) (stamp : Nat) : State :=
  let s1 := endSolveImprint (chargeRun (modEngine s e (fun x => { x with run := none })) r) r (getEngine s e).epoch stamp false none
  modSlot s1 e r.job.slot (fun x => { x with diag := some (diagCopy r (getEngine s e).epoch stamp) })

/-- A result is discarded as stale: counted and reported (R288, R157). -/
def discardStale (s : State) (session : Option Word) : State :=
  let s1 := { s with solver := { s.solver with staleCount := satInc s.solver.staleCount } }
  match session with
  | none => s1
  | some id =>
    eventTo (charge s1 session (fun c => { c with staleEpoch := satInc c.staleEpoch })) evSTALE_EPOCH_SEEN 1 id

/-- The running solve's result is complete (R241, R247, R257, R263). -/
def completeSolve (s : State) (e : Nat) (r : Run) : State :=
  let en := getEngine s e
  let rep := solveResult r en.epoch (now s)
  let windowGone := match r.job.resultWindow with
    | some w => !s.cmds.windows.any (fun x => x.id == w)
    | none => false
  let s := countRereads s (r.guards.map (fun g => (g.lo, g.hi - g.lo)))
  let s0 := chargeRun (modEngine s e (fun x => { x with run := none, solves := satInc x.solves })) r
  let fail := fun (st : Status) => solveOver (endSolveImprint s0 r en.epoch (now s) false none) r.job { status := st, warn := rep.warn, stamp := now s, epoch := en.epoch, engine := some e }
  if windowGone then fail stWINDOW_CLOSED
  else match accessStatus s r.job.result rep.bytes.length true with
    | some st => fail st
    | none =>
      let inp := SolveInput.ofRun r
      let s1 := modSlot (putKey s0 r.job.result rep.bytes) e r.job.slot (fun x =>
        if r.rewritten then x else { x with items := itemsAfter r, persistent := keptWords inp, seeds := (engineDone inp).seeds })
      let s2 := endSolveImprint s1 r en.epoch (now s) rep.degraded
        (some (solveResultItem rep.bytes (if rep.plan then some rep.planOffset else none)))
      solveOver s2 r.job
        { status := if rep.degraded then stDEGRADED else stOK, warn := rep.warn, iterations := r.params.iterations,
          feasible := rep.feasible, degraded := rep.degraded, plan := rep.plan, planCrc := rep.planCrc,
          planAddr := r.job.result + rep.planOffset, planLen := rep.planLength, stamp := now s, epoch := en.epoch, engine := some e }

/-- The waiting or running solves of a command or batch come to their deadline (R268, R269, R272). -/
def missSolves (s : State) (p : SolveFor → Bool) (stamp : Nat) : State :=
  (List.range 9).foldl (fun s e =>
    let en := getEngine s e
    let s1 := (en.waiting.filter (fun w => p w.owner)).foldl (fun s w => refuseSolve s e w stDEADLINE_MISS) s
    match (getEngine s1 e).run with
    | some r =>
      if p r.job.owner && !r.writing then
        solveOver (abandonRun s1 e r stamp) r.job
          { status := stDEADLINE_MISS, warn := abandonWarn r stamp, iterations := (runAbandoned r stamp).iterations, stamp := stamp,
            epoch := en.epoch, engine := some e }
      else s1
    | none => s1) s

/-- An aborted solve has completed nothing of its result, whose contents are undefined (R121). -/
def undefResult (s : State) (r : Run) : State :=
  if (match r.job.resultWindow with | some w => s.cmds.windows.any (fun x => x.id == w) | none => true) then
    undefRange s r.job.result (resultSize r.image.bytes r.packet r.params r.items)
  else s

/-- Stop the solves of a command without a completion (R121): waiting ones leave, a running one is abandoned. -/
def stopSolves (s : State) (p : SolveFor → Bool) : State :=
  (List.range 9).foldl (fun s e =>
    let s1 := modEngine s e (fun x => { x with waiting := x.waiting.filter (fun w => !p w.owner) })
    match (getEngine s1 e).run with
    | some r => if p r.job.owner then undefResult (abandonRun s1 e r (now s)) r else s1
    | none => s1) s

/-- Whether a solve belongs to command `k`, itself or as part of its batch. -/
def solveOf (k : CmdKey) (o : SolveFor) : Bool :=
  match o with
  | .command c => c.key == k
  | .scenario b _ => b == k
  | .stop b => b == k

end Sys2Proof.Machine
end

