-- ==== Sys2Proof/Machine/ServeLoop.lean ====
section
/-!
DEFINITION. Machine/ServeLoop.lean: the checks of the serving configuration, the step program, and the chunk sets of an action
binding (R473–R476, R491).
-/
namespace Sys2Proof.Machine

/-! The serving configuration block (R473). -/

/-- Whether an FP32 word lies from 0.0 to 1.0. -/
def unitFloat (w : Word) : Bool := decide (w.toNat ≤ 0x3F800000)
/-- Whether an FP32 word is positive and finite. -/
def positiveFloat (w : Word) : Bool := decide (0 < w.toNat) && decide (w.toNat < 0x7F800000)

/-- Whether a configuration block keeps its layout (R10, R11, R443, R444, R473). -/
def cfOk (own : Nat) (b : Bytes) : Bool :=
  withinMasks (toWords 16 b) [mask 31 8, mAll, mAll, mask 23 8, mAll, mAll, mAll, mAll, mask 23 0, 0,
    mAll, mAll, mask 15 0, mAll, mask 31 23, 0]
  && fld (wordAt b 0) 31 24 == 1 && decide (1 ≤ cfLayers b) && decide (1 ≤ cfGroups b)
  && [2, 4, 5, 7, 10].contains (cfFmt b) && decide (cfHeads b * cfD b ≤ 1024)
  && cfSpread b != 3 && (cfSpread b != 0 || cfDevices b == 2 ^ own) && (cfDevices b).testBit own
  && decide (1 ≤ cfSequences b) && unitFloat (cfDecay b) && inRange 1 8 (cfSink b) && inRange 1 8 (cfRecent b)
  && inRange 1 16777214 (cfRecords b) && inRange 1 1024 (cfEntries b)
  && (if cfTheta b = 0 then cfHalf b == 0 else inRange 1 (cfD b / 2) (cfHalf b))
  && (List.range 8).all (fun h => [false, true].all (fun v =>
      if cfFmt b = 7 ∨ cfFmt b = 10 then decide (cfHeads b ≤ h) || positiveFloat (cfScale b v h) else cfScale b v h == 0))

/-! Spreading across devices (R493). -/

/-- The place of this device among those that a loop is spread over, and their number (R493). -/
def spreadPlace (own : Nat) (b : Bytes) : Nat × Nat :=
  let ds := (List.range 4).filter (cfDevices b).testBit
  ((findIdx (· == own) ds).getD 0, max 1 ds.length)

/-- Whether this device runs the step program: the lowest-numbered device (R493). -/
def isHome (own : Nat) (b : Bytes) : Bool := (spreadPlace own b).1 == 0

/-- Whether block `b` of every sequence lives on this device: under spread by position, every D-th block in list order. -/
def ownsBlock (own : Nat) (b : Bytes) (i : Nat) : Bool := cfSpread b != 2 || i % (spreadPlace own b).2 == (spreadPlace own b).1

/-- Whether the candidate blocks live on this device: by position, on the home device only. -/
def holdsCands (own : Nat) (b : Bytes) : Bool := cfSpread b != 2 || isHome own b

/-! The step program (R474). -/

/-- Entry `i` of a step program. -/
def spEntry (b : Bytes) (i : Nat) : Bytes := slice b (16 * i) 16
/-- 1 PRE, 2 PROJECT, 3 APPEND, 4 FORWARD, 5 POST, 6 SAMPLE, 7 ACTION. -/
def spRole (b : Bytes) (i : Nat) : Nat := fld (wordAt (spEntry b i) 0) 31 28
def spLayer (b : Bytes) (i : Nat) : Nat := fld (wordAt (spEntry b i) 0) 27 20
def spRoute (b : Bytes) (i : Nat) : Nat := fld (wordAt (spEntry b i) 0) 11 0
def spBindings (b : Bytes) (i : Nat) : Nat := dwordAt (spEntry b i) 2

/-- The entries of a role, and of a layer of it, in listing order. -/
def spOf (b : Bytes) (n role : Nat) : List Nat := (List.range n).filter (fun i => spRole b i == role)
def spLayerOf (b : Bytes) (n role layer : Nat) : List Nat :=
  (spOf b n role).filter (fun i => spLayer b i == layer)

/-- Whether an entry of the step program names the firmware's own greedy SAMPLE route (R476): a SAMPLE entry with handle 0, which no
ROUTE_LOAD gives (DESIGN CHOICE, log entry 148). -/
def greedyEntry (b : Bytes) (i : Nat) : Bool := spRole b i == 6 && spRoute b i == 0

/-- The order in which a step runs its entries (R475); POST is run after the last layer. -/
def spOrder (b : Bytes) (n layers : Nat) (action : Bool) : List Nat :=
  spOf b n 1
  ++ (List.range layers).flatMap (fun l => spLayerOf b n 2 l ++ spLayerOf b n 3 l ++ spLayerOf b n 4 l)
  ++ spOf b n 5 ++ spOf b n 6 ++ (if action then spOf b n 7 else [])

/-- Whether a status leaves the step sound: OK and the warnings (R145, R471). -/
def routeSound (st : Status) : Bool := [stOK, stPIVOT_REG, stSAT, stINPUT_RANGE, stKEY_NARROW].contains st

/-! The chunk sets of an action binding (R491, R492). -/

/-- The image of a problem slot; empty where there is none. -/
def slotImage (s : State) (e n : Nat) : Bytes := match (getSlot s e n).active with | some i => i.bytes | none => []

/-- The image of a binding's MPC slot (R491): with engine 0xF, that of the first engine that holds an MPC problem there. -/
def actionImage (s : State) (a : ActionBinding) : Bytes :=
  if a.engine = 0xF then
    match (List.range 9).find? (fun e => imKind (slotImage s e a.slot) == 3) with
    | some e => slotImage s e a.slot
    | none => []
  else slotImage s a.engine a.slot

/-- Elements of a chunk: reference states, warm-start states, warm-start controls (R491). -/
def chunkStates (im : Bytes) (extra : Nat) : Nat := (imHorizon im + 1 + extra) * imNx im
def chunkControls (im : Bytes) (extra : Nat) : Nat := (imHorizon im + extra) * imNu im
def chunkElems (im : Bytes) (extra : Nat) : Nat := 2 * chunkStates im extra + chunkControls im extra

/-- The item and the element within one knot that element `i` of a chunk is: their block format scales it. -/
def chunkElem (im : Bytes) (extra i : Nat) : Nat × Nat :=
  let n := chunkStates im extra
  if i < n then (0x10, i % max 1 (imNx im))
  else if i < 2 * n then (0x20, (i - n) % max 1 (imNx im))
  else (0x20, (imHorizon im + 1) * imNx im + (i - 2 * n) % max 1 (imNu im))

/-- An element of a chunk converted to a raw word: scaled by 2^f of its block format, then R187. -/
def chunkRaw (im : Bytes) (extra i : Nat) (w : Word) : Flagged Nat :=
  let e := chunkElem im extra i
  let f : Int := imFormatOf im (itemClass im e.1 e.2) 0xFF
  match rd32 w with
  | .fin n m x =>
    let v := roundInt n m (x + f)
    let c := satSigned 32 v
    ⟨wrapN 32 c, if c = v then 0 else flagSAT⟩
  | _ => cvtInt 32 w

/-- The buffer that the loop may write: neither the newest published set nor one that a running batch reads (R492). -/
def freeSet (s : State) (a : ActionBinding) : Nat :=
  let read := s.solver.batches.any (fun b => b.cmd.key == ⟨.firmware, BitVec.ofNat 16 a.batch⟩)
  ((List.range 3).find? (fun i => (match a.published with | some p => p.1 != i | none => true) && !(read && a.batchSet == i))).getD 0

def setAddr (a : ActionBinding) (im : Bytes) (i : Nat) : Nat := a.sets + i * (4 * a.chunkCount * chunkElems im a.chunkExtra)

end Sys2Proof.Machine
end

