-- ==== Sys2Proof/Machine/RouteOps.lean ====
section
/-!
DEFINITION. Machine/RouteOps.lean: a partition's sectors, and the operands and the bounds of a submitted route (R333, R334, R358,
R361–R366, R385).
-/
namespace Sys2Proof.Machine

/-! Partitions and their sectors. -/

/-- Physical numbers of a partition's sectors, in logical order; an absent one counts as none. -/
def partPhys (s : State) (p : Nat) : List (Option Nat) :=
  let e := partEntry s p
  (List.range (peSize e)).map (fun i => match s.field.map[peFirst e + i]? with | some (.phys n) => some n | _ => none)

/-- Source number of a partition's leader (R333, R334). -/
def leaderSrc (s : State) (p : Nat) : Nat :=
  match partPhys s p with | some n :: _ => srcSector n | _ => srcSector 0

/-- Arithmetic mode, conflict mode, real-time ports and slot map that the next route start reads (R88, R89, R178, R385). -/
def partProof (s : State) (p : Nat) : Bool :=
  match (getPart s p).override.proof with | some v => v == 1 | none => peProof (partEntry s p)
def partMode (s : State) (p : Nat) : Nat := (getPart s p).override.spdMode.getD (peSpdMode (partEntry s p))
def partRt (s : State) (p : Nat) : Nat := (getPart s p).override.rtPorts.getD (peRtPorts (partEntry s p))
def partMap (s : State) (p : Nat) : Bytes :=
  let x := getPart s p
  match x.override.slotMap with
  | some m => m
  | none =>
    match (match s.plate.parts[p]? with | some q => q.maps | none => [])[x.override.mapIndex.getD (peMapIndex (partEntry s p))]? with
    | some m => m
    | none => evenMap

def modSector (s : State) (n : Nat) (f : Sector → Sector) : State :=
  { s with field := { s.field with sectors := s.field.sectors.modify n f } }
def getSector (s : State) (n : Nat) : Sector := s.field.sectors.getD n Sector.reset

/-! Operands (R363–R366). -/

/-- The formats in which stations and the descriptor take an operand, and the bytes of a row that each reaches: by the queue's
format for LOAD and STORE, by the row width for GATHER and SCATTER, and d words for the rows of BACKWARD's ACCUM (R351, R354, R441). -/
def operandUses (b : Bytes) (i : Nat) (d : Binding) : List (Nat × Nat) :=
  let bits := fun (f : Nat) => (d.cols * fmtBits f + 7) / 8
  (rpOpFmt b i, bits (rpOpFmt b i)) :: (rpAll b).flatMap (fun st =>
    if st.operand = i then
      match st.typ with
      | 1 => [(st.outFmt, bits st.outFmt)]
      | 2 => [(st.outFmt, 4 * fld (wat st.words 2) 15 0)]
      | 10 => [(st.inFmt, 4 * fld (wat st.words 2) 15 0)]
      | 11 => [(st.inFmt, bits st.inFmt)]
      | _ => []
    else if st.typ = 4 ∧ st.op = 2 ∧ atAccum st = i then [(1, 4 * atD st)] else [])

/-- The device ranges of operand `i` bound as `d` (R363, R364): its rows, as far as any use of it reaches, and its scale or count
address. -/
def bindRanges (b : Bytes) (i : Nat) (d : Binding) : List (Nat × Nat) :=
  let uses := operandUses b i d
  let row := uses.foldl (fun n u => max n u.2) 0
  let main := if d.rows = 0 ∨ row = 0 then [] else [(d.addr, (d.rows - 1) * d.stride + row)]
  main ++ (if d.aux = 0 ∨ d.rows = 0 then []
    else if uses.any (fun u => u.1 == 6) then [(d.aux, (d.rows - 1) * (d.cols / 32) + (2 * row + 31) / 32)] else [(d.aux, 4)])

/-- The range of a PAGES operand: the whole attention table (R447). -/
def pagesRange (m : Mem) (d : Binding) : Nat × Nat := (d.addr, (readTable m d.addr).length)

/-- The operands of a route with one of these roles, in binding order, as device ranges. -/
def roleRanges (w : WaitingRoute) (roles : List Nat) : List (Nat × Nat) :=
  (List.range w.binds.length).flatMap (fun i => match w.binds[i]? with
    | some d => if roles.contains (rpRole w.program i) then bindRanges w.program i d else []
    | none => [])

/-- The reads and the writes of a submitted route. -/
def routeReads (m : Mem) (w : WaitingRoute) : List (Nat × Nat) :=
  if w.op.isEmpty then
    roleRanges w [0, 3] ++ (List.range w.binds.length).filterMap (fun i =>
      if rpRole w.program i = 4 then w.binds[i]?.map (pagesRange m) else none)
  else foReads w.op
def routeWrites (w : WaitingRoute) : List (Nat × Nat) := if w.op.isEmpty then roleRanges w [1, 2] else foWrites w.op

/-- Whether a route has an ACCUM operand: a SCATTER that combines, for a FIELD_OP. -/
def hasAccum (w : WaitingRoute) : Bool :=
  if w.op.isEmpty then (List.range w.binds.length).any (fun i => rpRole w.program i == 2)
  else foOp w.op == 6 && decide (1 ≤ foVariant w.op % 4)

/-- Whether a route can be restarted (R366). -/
def restartable (m : Mem) (w : WaitingRoute) : Bool :=
  !hasAccum w && !(routeWrites w).any (fun x => (routeReads m w).any (fun y => overlaps x.1 x.2 y.1 y.2))

/-- The ATTEND station of a program, if it has one. -/
def attendOf (b : Bytes) : Option Station := (rpAll b).find? (fun st => st.typ == 4)

/-- A program as it runs with these bindings: an ATTEND route's grid is that of its items (R427). -/
def gridded (m : Mem) (w : WaitingRoute) : Bytes :=
  match (if w.op.isEmpty then attendOf w.program else none) with
  | some st => itemGrid m w.program w.binds st
  | none => w.program

/-- The worst-case bound of a route in ns (R358, R435). -/
def routeBound (s : State) (w : WaitingRoute) : Nat :=
  let P := peSize (partEntry s w.part)
  if w.op.isEmpty then 1100 + cyclesNs s (rpFixed w.program + mostTiles (gridded s.mem w) P * rpPerTile w.program)
  else Config.fieldBound w.op P

/-! Reductions in two phases (R361, R441). -/

/-- The stations whose additions into memory are SCATTER updates, with their row width: SCATTER, and a BACKWARD ATTEND. -/
def scatterWidth (st : Station) : Option Nat :=
  if st.typ = 10 then some (fld (wat st.words 2) 15 0) else if st.typ = 4 ∧ st.op = 2 then some (atD st) else none
/-- The operand that such a station updates, and how it combines. -/
def scatterOperand (st : Station) : Nat := if st.typ = 4 then atAccum st else st.operand
def scatterOp (st : Station) : Nat := if st.typ = 4 then 1 else st.op
/-- Whether such a station's updates go through private copies in a mode. -/
def viaCopies (proof : Bool) (st : Station) : Bool :=
  (scatterWidth st).isSome && twoPhase proof (if st.typ = 4 then 1 else st.inFmt) (scatterOp st)

/-- Bytes of one private copy of the destination region that a Proof-mode route needs (R361); 0 for none. -/
def copySize (w : WaitingRoute) : Nat :=
  if w.op.isEmpty then
    ((rpAll w.program).filter (viaCopies true)).foldl (fun n st =>
      n + (w.binds.getD (scatterOperand st) ⟨0, 0, 0, 0, 0⟩).rows * 4 * (scatterWidth st).getD 0) 0
  else if foOp w.op = 6 ∧ twoPhase true (foB w.op) (foVariant w.op % 4) then 4 * foRows w.op * foN w.op else 0

/-- Places for `n` private copies of `size` bytes in a partition's share, the lowest that are free (R361, R424). -/
def placeCopies (s : State) (p size : Nat) : Nat → List (Nat × Nat) → Option (List (Nat × Nat))
  | 0, acc => some acc
  | n + 1, acc =>
    let e := partEntry s p
    let lo := peFirstSlice e * sliceBytes
    match freeSpots (lo + peSliceCount e * sliceBytes) size 4 lo (sortBy (fun a b => decide (a.1 < b.1)) (heldRanges s ++ acc)) with
    | [] => none
    | (a, _) :: _ => placeCopies s p size n (acc ++ [(a, size)])

/-- Where the copies of a starting route lie; none when the share cannot hold them. -/
def copySpace (s : State) (w : WaitingRoute) (proof : Bool) : Option (List (Nat × Nat)) :=
  if proof ∧ copySize w ≠ 0 then placeCopies s w.part (copySize w) (peSize (partEntry s w.part)) [] else some []

end Sys2Proof.Machine
end

