-- ==== Sys2Proof/Machine/Scratch.lean ====
section
/-!
DEFINITION. Machine/Scratch.lean: the requests of a sector's ports, the grants of its banks, and the strided and transposing reads
(R381–R392).
-/
namespace Sys2Proof.Machine

/-! Requests (R381, R382). -/

/-- A request of a port: the words of one aligned group of four that it reads or writes, by their lanes. -/
structure ScratchReq where
  port : Nat
  group : Nat
  lanes : List Nat
  deriving DecidableEq, Repr

/-- The bank of a group (R381). -/
def bankOf (group : Nat) : Nat := group % 64

/-- Where word `w` of a scratchpad lies: bank, bank row and lane (R381). -/
def wordPlace (w : Nat) : Nat × Nat × Nat := (bankOf (w / 4), w / 256, w % 4)

/-- Put a word into the request of its group, or into a new one. -/
def addWord (port : Nat) (l : List ScratchReq) (a : Nat) : List ScratchReq :=
  if l.any (fun r => r.group == a / 4) then
    l.map (fun r => if r.group = a / 4 ∧ !r.lanes.contains (a % 4) then { r with lanes := r.lanes ++ [a % 4] } else r)
  else l ++ [⟨port, a / 4, [a % 4]⟩]

/-- The requests for words at any addresses: those of one group share one (R391). -/
def wordReqs (port : Nat) (addrs : List Nat) : List ScratchReq := addrs.foldl (addWord port) []

/-- The requests for `n` words from address `a` upward. -/
def rangeReqs (port a n : Nat) : List ScratchReq :=
  if n = 0 then []
  else (List.range ((a + n - 1) / 4 + 1 - a / 4)).map (fun i =>
    let g := a / 4 + i
    { port := port, group := g, lanes := (List.range 4).filter (fun k => decide (a ≤ 4 * g + k) && decide (4 * g + k < a + n)) })

/-! Grants (R386–R389). -/

/-- The first port from `ptr` round the ring of 15 that `who` holds of. -/
def ringFirst (ptr : Nat) (who : Nat → Bool) : Option Nat := ((List.range 15).map (fun i => (ptr + i) % 15)).find? who

/-- The round robin of R386: the port granted, and the bank's pointer after it. -/
def ringGrant (ptr : Nat) (who : Nat → Bool) : Option Nat × Nat :=
  match ringFirst ptr who with
  | some p => (some p, (p + 1) % 15)
  | none => (none, ptr)

/-- The one grant of a bank in a cycle (R382, R386, R387, R389), and its pointer: `mode` 0 ARBITRATED, 1 SLOTTED, 2 MIXED; `owner` is the
bank's entry for the frame cycle, `rt` the real-time ports and `wants` the ports that request the bank. -/
def bankGrant (mode : Nat) (rt : Nat → Bool) (owner ptr : Nat) (wants : Nat → Bool) : Option Nat × Nat :=
  match mode with
  | 0 => ringGrant ptr wants
  | 1 => (if owner < 15 ∧ wants owner then some owner else none, ptr)
  | _ => if owner < 15 ∧ rt owner ∧ wants owner then (some owner, ptr) else ringGrant ptr (fun p => wants p && !rt p)

/-- What a port issues in a cycle: at most 16 requests, all to different banks (R384). -/
def issued (l : List ScratchReq) : List ScratchReq :=
  l.foldl (fun acc r => if acc.length < 16 ∧ !acc.any (fun x => bankOf x.group == bankOf r.group) then acc ++ [r] else acc) []

/-- The banks while one port's requests are served. -/
structure ScratchRun where
  todo : List ScratchReq
  ptrs : List Nat
  losses : Nat
  waits : Nat

/-- What the grants of a sector depend on besides its ports: mode, real-time mask, slot map and frame position; and the other
ports' requests, of which a port's tile does not decide: a free value for each cycle and bank. -/
structure ScratchMode where
  mode : Nat
  rt : Nat → Bool
  map : Bytes
  frame : Nat
  rivals : Nat → Nat → BitVec 15

/-- One cycle of the crossbar, the `n`th of a service: a port that is not granted retries in the next one; it has lost an arbitration,
or waits for its slot (R386, R402). -/
def scratchCycle (m : ScratchMode) (n : Nat) (r : ScratchRun) : ScratchRun :=
  let mine := issued r.todo
  let wants := fun (b p : Nat) => (m.rivals n b).getLsbD p || mine.any (fun x => x.port == p && bankOf x.group == b)
  let grant := fun (b : Nat) => bankGrant m.mode m.rt (mapOwner m.map ((m.frame + n) % 16) b) (r.ptrs.getD b 0) (wants b)
  let gs := (List.range 64).map grant
  let granted := fun (b : Nat) => (gs.getD b (none, 0)).1
  let refused := fun (arb : Bool) => (List.range 64).foldl (fun k b => k + ((List.range 15).filter (fun p =>
    wants b p && granted b != some p && (m.mode == 0 || (m.mode == 2 && !m.rt p)) == arb)).length) 0
  { todo := r.todo.filter (fun x => !(mine.contains x && granted (bankOf x.group) == some x.port)),
    ptrs := gs.map (·.2), losses := r.losses + refused true, waits := r.waits + refused false }

/-- Serve a port's requests, for at most `fuel` cycles from the `n`th on: the banks after it, and the cycles it took. -/
def serveReqs (m : ScratchMode) : Nat → Nat → ScratchRun → ScratchRun × Nat
  | 0, n, r => (r, n)
  | f + 1, n, r => if r.todo.isEmpty then (r, n) else serveReqs m f (n + 1) (scratchCycle m n r)

/-! A sector's accesses. -/

/-- The position in the frame of 16 cycles (R387). -/
def framePos (s : State) (c : Sector) : Nat := (now s - c.frame0) * mainMhz s / 1000 % 16

def scratchMode (s : State) (c : Sector) : ScratchMode where
  mode := c.mode.toNat
  rt := fun p => c.rtPorts.getLsbD p
  map := c.slotMap
  frame := framePos s c
  rivals := Config.rivalRequests s.free

/-- Serve requests in a sector: its pointers move, and its losses and waits count (R386, R402). The words themselves move when the
station's step ends (log entry 123). -/
def serveSector (s : State) (reqs : List ScratchReq) (c : Sector) : Sector :=
  let r := (serveReqs (scratchMode s c) (16 * reqs.length + 16) 0 ⟨reqs, c.ptrs, 0, 0⟩).1
  { c with ptrs := r.ptrs, losses := satAdd c.losses r.losses, waits := satAdd c.waits r.waits }

/-- The ports through which a station writes its output queue, and reads its input queues (R384). -/
def writePort (st : Station) : Nat :=
  match st.typ with
  | 3 => 3
  | 4 => 6
  | 5 => 9
  | 6 => 10
  | 7 => 10
  | 8 => 11
  | 9 => 12
  | _ => 0
def readPort (st : Station) (second : Bool) : Nat :=
  match st.typ with
  | 3 => if second then 2 else 1
  | 4 => if second then 5 else 4
  | 5 => if second then 8 else 7
  | _ => writePort st

/-! Strided and transposing reads (R391, R392). Which form a station uses for a slot follows from the data layout that the compiler
chooses, which the spec does not give: it is a free value (log entry 123). -/

/-- A word of a sector's scratchpad: a free value where none has been written since the route's start (R337). -/
def scratchWord (s : State) (c : Sector) (a : Nat) : Word :=
  match c.words.find? (fun e => e.1 == a) with | some e => e.2 | none => Config.undefWord s.free a

/-- The address of offset `o` of a region, modulo its size. -/
def regionAddr (r : Region) (o : Int) : Nat := r.base + (o % ((r.slots * r.words : Nat) : Int)).toNat

/-- The words that a strided read returns: n from 1 to 64, a non-zero stride of 16 bits (R391). -/
def stridedOk (n : Nat) (stride : Int) : Bool := inRange 1 64 n && stride != 0 && decide (-32768 ≤ stride) && decide (stride ≤ 32767)
def stridedAddrs (r : Region) (o n : Nat) (stride : Int) : List Nat :=
  (List.range n).map (fun (i : Nat) => regionAddr r ((o : Int) + (i : Int) * stride))

/-- A transposing read of 32 × 32 words: offset and pitch are multiples of 4 (R392). -/
def transposeOk (o pitch : Nat) : Bool := o % 4 == 0 && pitch % 4 == 0 && inRange 4 65532 pitch
/-- The addresses of its data, column by column. -/
def transposeAddrs (r : Region) (o pitch : Nat) : List Nat :=
  (List.range 32).flatMap (fun c => (List.range 32).map (fun i => regionAddr r ((o + i * pitch + c : Nat) : Int)))
/-- Its 256 requests, one for each row of each column group, in order of column group, then row. -/
def transposeReqs (port : Nat) (r : Region) (o pitch : Nat) : List ScratchReq :=
  (List.range 8).flatMap (fun g => (List.range 32).map (fun i =>
    { port := port, group := regionAddr r ((o + i * pitch + 4 * g : Nat) : Int) / 4, lanes := [0, 1, 2, 3] }))

/-- The requests of strided reads over the `n` words of a slot at region offset `o`: word `c`, `c + stride` and so on, 64 at a time, for
each `c` below the stride. -/
def stridedReqs (port : Nat) (r : Region) (o n stride : Nat) : List ScratchReq :=
  (List.range stride).flatMap (fun c =>
    let k := (n - c + stride - 1) / stride
    (List.range ((k + 63) / 64)).flatMap (fun j =>
      let m := min 64 (k - 64 * j)
      if stridedOk m stride then wordReqs port (stridedAddrs r (o + c + 64 * stride * j) m stride) else []))

/-- The requests of transposing reads over a slot taken as rows of `pitch` words: window by window of 32 × 32 words. -/
def windowReqs (port : Nat) (r : Region) (o n pitch : Nat) : List ScratchReq :=
  (List.range (n / pitch / 32)).flatMap (fun i => (List.range (pitch / 32)).flatMap (fun j =>
    let a := o + 32 * i * pitch + 32 * j
    if transposeOk a pitch then transposeReqs port r a pitch else []))

/-- The requests by which a consumer reads a slot of `n` words at region offset `o`: word after word, strided, or transposing where the
slot divides into windows. -/
def slotReqs (form port : Nat) (r : Region) (o n : Nat) : List ScratchReq :=
  let stride := 2 + form / 3 % (max 2 n - 1)
  let pitch := 32 * (1 + form / 3 % (n / 1024 + 1))
  if form % 3 = 1 ∧ stride < n ∧ stride ≤ 32767 then stridedReqs port r o n stride
  else if form % 3 = 2 ∧ 1024 ≤ n ∧ n % (32 * pitch) = 0 ∧ o % 4 = 0 then windowReqs port r o n pitch
  else rangeReqs port (regionAddr r o) n

/-- A consumer reads the slot at a region's head in physical sector `n`: the banks served, and the slot's words in ascending order (R383,
R397). -/
def readSlot (s : State) (n port q : Nat) : State × List Word :=
  let c := getSector s n
  let r := c.regions.getD q Region.off
  let o := r.head * r.words
  (takeFree (modSector s n (serveSector s (slotReqs (Config.readForm s.free) port r o r.words))),
   (List.range r.words).map (fun i => scratchWord s c (regionAddr r ((o + i : Nat) : Int))))

/-- The elements that words hold, at most `n` of them (R353). -/
def unpackWords (f n : Nat) (ws : List Word) : List Word := if fmtBits f = 0 then [] else (wordElems f ws).take n

/-! Regions of the sequencer and the firmware (R393): 24 page descriptors, 25 the stored pairs (R451, R465); 26 the partial tiles of MATRIX and
27 those of a global REDUCE (R359, R360), for which the spec gives no number. Where each lies is the firmware's choice, a free value at or
above the program's own words where these leave room (log entry 123). -/

def sideBase (s : State) (b : Bytes) (n size : Nat) : Nat :=
  let lo := min (rpScratch b) (196608 - size)
  lo + Config.pageRegion (s.free + n) % (196608 - size - lo + 1)

/-- The side regions of place `i` of a partition of `P` sectors, by number, for a route; `pairs` tells whether it keeps pairs. -/
def sideRegions (s : State) (b : Bytes) (pairs : Bool) (P i : Nat) : List (Nat × Region) :=
  let reg := fun (n k size : Nat) => (n, ({
    enable := true, weight := false, base := sideBase s b n (k * size), slots := k, words := size, head := 0, tail := 0,
    tags := List.replicate k 0 } : Region))
  let tile := fun (st : Station) => max 1 (min 16384 (tileWords (rpQueue b st.out)))
  (if pairs then [reg 25 512 32] else [])
  ++ (rpAll b).flatMap (fun st =>
    if st.typ = 3 ∧ 1 < rpSplit b ∧ i < groupSize b P then [reg 26 (max 2 (min (rpSplit b) (196608 / tile st))) (tile st)]
    else if st.typ = 6 ∧ wbit (wat st.words 2) 1 ∧ st.op ≠ 5 ∧ i = 0 ∧ 1 < P then [reg 27 (max 2 (min P (196608 / tile st))) (tile st)]
    else [])

/-- Words arrive in a slot of a side region, are read and the slot is released. -/
def putSide (x : Nat × Nat × List Word) (c : Sector) : Sector :=
  let r := c.regions.getD x.1 Region.off
  let base := r.base + x.2.1 % max 1 r.slots * r.words
  let ws := x.2.2.take r.words
  { c with words := (List.range ws.length).map (fun k => (base + k, ws.getD k 0))
      ++ c.words.filter (fun e => !(decide (base ≤ e.1) && decide (e.1 < base + ws.length))) }

/-! Page descriptors in region 24 (R393, R451). -/

/-- Region 24 holds 512 page descriptors of 8 words. -/
def pageRegionBase (s : State) (b : Bytes) : Nat := sideBase s b 24 4096

/-- Region 24 shows the first of the descriptors that a sector has still to take, from slot `head`. -/
def showPages (c : Sector) (head : Nat) : Sector :=
  let r := c.regions.getD 24 Region.off
  let full := min 512 c.pages.length
  let tag := fun i =>
    let k := (i + 512 - head % 512) % 512
    if k < full then BitVec.ofNat 32 (2 ^ 31 + (if k + 1 = c.pages.length then 2 ^ 30 else 0) + 8) else 0
  { c with
    regions := c.regions.set 24 { r with head := head % 512, tail := (head + full) % 512, tags := (List.range 512).map tag },
    words := ((List.range full).flatMap (fun k => (List.range 8).map (fun j =>
        (r.base + 8 * ((head + k) % 512) + j, wordAt (c.pages.getD k []) j))))
      ++ c.words.filter (fun e => !(decide (r.base ≤ e.1) && decide (e.1 < r.base + 4096))) }

/-- A sector's stream of page descriptors at a route's start. -/
def fillPages (base : Nat) (l : List Bytes) (c : Sector) : Sector :=
  let r : Region := { enable := true, weight := false, base := base, slots := 512, words := 8, head := 0, tail := 0, tags := [] }
  showPages { c with pages := l, regions := c.regions.set 24 r } 0

/-- A sector has taken `n` descriptors. -/
def dropPages (n : Nat) (c : Sector) : Sector :=
  showPages { c with pages := c.pages.drop n } ((c.regions.getD 24 Region.off).head + n)

end Sys2Proof.Machine
end

