-- ==== Sys2Proof/Machine/ImprintRoute.lean ====
section
/-!
DEFINITION. Machine/ImprintRoute.lean: what the imprint of a route covers (R627, R634–R639).
-/
namespace Sys2Proof.Machine

/-! What is bound. -/

def routeInputs (w : WaitingRoute) : List (Nat × Nat) := if w.op.isEmpty then roleRanges w [0] else foReads w.op
def routeIndexes (w : WaitingRoute) : List (Nat × Nat) := if w.op.isEmpty then roleRanges w [3] else []
def routeAccums (w : WaitingRoute) : List (Nat × Nat) :=
  if w.op.isEmpty then roleRanges w [2] else if hasAccum w then foWrites w.op else []

/-- Whether a range lies in an allocation of class 1. -/
def isWeight (s : State) (x : Nat × Nat) : Bool :=
  s.cmds.allocs.any (fun a => a.cls == 1 && decide (a.addr ≤ x.1) && decide (x.1 + x.2 ≤ a.addr + a.bytes))

/-- The registration that a weight range covers whole (R639). -/
def registered (s : State) (x : Nat × Nat) : Option WeightReg :=
  s.imprints.weights.find? (fun w => s.cmds.allocs.any (fun a => a.addr == w.addr && decide (x.1 ≤ a.addr)
    && decide (a.addr + a.bytes ≤ x.1 + x.2)))

/-- The binding table with its addresses set to 0 (R363, R636). -/
def bindingBytes (binds : List Binding) : Bytes :=
  binds.flatMap (fun d => List.replicate 16 0 ++ leBytes 4 d.stride ++ leBytes 4 d.rows ++ leBytes 4 d.cols ++ List.replicate 4 0)

/-- Slots 0 to `count` − 1 of a page's payload: its keys by head, then its values. -/
def payloadItem (m : Mem) (a count : Nat) : Bytes :=
  let f := phFormat m a
  let part := fun (h : Nat) (value : Bool) =>
    let i := pageIndex 256 (phHeads m a) (phD m a) h 0 0 value
    m.dev.read (phPayload m a + i * fmtBits f / 8) (count * phD m a * fmtBits f / 8)
  (List.range (phHeads m a)).flatMap (fun h => part h false) ++ (List.range (phHeads m a)).flatMap (fun h => part h true)

/-- What the prescan of an ATTEND route reads (R448, R636): the attention table; for each entry in order its record's head, and for
a LIVE one the page's header and its payload. One item of length 0 when the route has no PAGES operand. -/
def pagesItems (m : Mem) (w : WaitingRoute) : List Bytes :=
  match (if w.op.isEmpty then attendOf w.program else none) with
  | none => [[]]
  | some st =>
    let t := tableOf m w.binds st
    m.dev.read t.addr t.length :: (List.range t.entries).flatMap (fun i =>
      let e := t.entry m i
      let a := t.pageOf m st e
      m.dev.read (t.recordAddr e) 64 :: (if e.state = 0 then [m.dev.read a 128, payloadItem m a e.count] else []))

/-- Whether the PAGES operand holds a DROPPED entry. -/
def dropsPages (m : Mem) (w : WaitingRoute) : Bool :=
  match (if w.op.isEmpty then attendOf w.program else none) with
  | none => false
  | some st => let t := tableOf m w.binds st; (List.range t.entries).any (fun i => (t.entry m i).state != 0)

/-! Flags (R182, R627, R635). -/

/-- Whether a route uses stochastic rounding. -/
def usesStochastic (w : WaitingRoute) : Bool := w.op.isEmpty && rpStoch w.program

/-- An FP32 SCATTER with ADD or NONE whose destination lies outside the scratchpad. -/
def scattersOut (w : WaitingRoute) : Bool :=
  if w.op.isEmpty then (rpAll w.program).any (fun st => st.typ == 10 && twoPhase true st.inFmt st.op)
  else foOp w.op == 6 && twoPhase true (foB w.op) (foVariant w.op % 4)

/-- Whether a route is order-sensitive in a partition of `P` sectors (R627). -/
def orderSensitive (w : WaitingRoute) (P : Nat) : Bool :=
  let split := if w.op.isEmpty then rpSplit w.program else 2 ^ Config.fieldSplit w.op P
  (decide (1 < P) && (decide (1 < split) || scattersOut w))
  || (w.op.isEmpty && (rpAll w.program).any (fun st =>
      (st.typ == 6 && wbit (wat st.words 2) 1 && st.op != 5) || (st.typ == 4 && st.op == 2)))
  || usesStochastic w

/-! Begin and end. -/

/-- The digests of a starting route, the bytes they cover, and whether a registration served. -/
def routeDigests (s : State) (w : WaitingRoute) (m : Mem) : Bytes × Nat × Bool :=
  let P := peSize (partEntry s w.part)
  let read := fun (x : Nat × Nat) => m.dev.read x.1 x.2
  let program := if w.op.isEmpty then w.program.take (rpLength w.program) else Config.fieldProgram w.op P
  let table := if w.op.isEmpty then bindingBytes w.binds else Config.fieldBindings w.op P
  let ins := routeInputs w
  let weights := ins.filter (isWeight s)
  let regs := weights.map (fun x => (x, registered s x))
  let cached := regs.any (fun r => r.2.isSome)
  let weight := if cached then Config.cachedWeights (regs.map (fun r => match r.2 with
      | some g => (true, g.digest) | none => (false, read r.1)))
    else digest (weights.map read)
  let others := if w.op.isEmpty then
      (List.range w.binds.length).flatMap (fun i => match w.binds[i]? with
        | some d => if [0, 3].contains (rpRole w.program i) then (bindRanges w.program i d).filter (fun x =>
            rpRole w.program i = 3 || !isWeight s x) else []
        | none => [])
    else ins.filter (fun x => !isWeight s x)
  let input := [table] ++ others.map read ++ (routeAccums w).map read ++ pagesItems m w
  let hashed := regs.foldl (fun n r => if r.2.isSome then n else n + r.1.2) 0
  (digest [entryInForce s w.part, program] ++ weight ++ digest input, itemBytes input + hashed, cached)

/-- The queue, the subject, the number and the tag of a route that is to be imprinted (R634, R637). -/
def routeSubject (s : State) (w : WaitingRoute) : Option (Nat × Nat × Nat × Option Word) :=
  match w.cmd.key.src with
  | .queue q => (imprintOn s q.toNat w.cmd.key).map (fun c => (c.sq, 1, w.cmd.key.id.toNat, none))
  | .mailbox _ => none
  | .firmware =>
    match s.loops.find? (fun l => l.part == w.part) with
    | none => none
    | some l => match l.cmd.key.src with
      | .queue q => (s.imprints.configs.find? (fun c => c.sq == q.toNat)).map (fun c =>
          (c.sq, 3, w.cmd.key.id.toNat, some (BitVec.ofNat 32 l.boundary)))
      | _ => none

/-- A route has started: `m` is memory as the prescan found it. -/
def beginRouteImprint (s : State) (r : RouteRun) (m : Mem) : State :=
  let w := r.job
  match routeSubject s w with
  | none => s
  | some x =>
    let P := peSize (partEntry s w.part)
    let d := routeDigests s w m
    beginImprint s { sq := x.1, owner := w.cmd.key, index := w.part, subject := x.2.1, unit := peSizeLog2 (partEntry s w.part),
                     cmdId := x.2.2.1, tag := x.2.2.2, digests := d.1,
                     flags := flagIf r.proof ifPROOF + flagIf (orderSensitive w P) ifORDER + flagIf (usesStochastic w) ifSTOCHASTIC
                       + flagIf (dropsPages m w) ifDROPPED + flagIf d.2.2 ifCACHED }
      w.session (r.guards.map (fun g => (g.lo, g.hi - g.lo))) d.2.1

/-- A route has ended with a status and a result (R367): each OUTPUT and ACCUM range as it now is, then result bits [63:32] and
[15:0]. -/
def endRouteImprint (s : State) (r : RouteRun) (st : Status) (result : Nat) : State :=
  if s.imprints.started.isEmpty then s
  else
    let ranges := if r.job.op.isEmpty then roleRanges r.job [1, 2] else foWrites r.job.op
    let items := ranges.map (fun x => s.mem.dev.read x.1 x.2) ++ [leBytes 4 (result / 2 ^ 32) ++ leBytes 2 result]
    endImprint s r.job.cmd.key r.job.part r.job.session r.epoch (now s)
      (flagIf (0 < r.reruns.toNat) ifRERUNS + flagIf r.restarted ifRESTARTED) (if routeSound st then some items else none)

end Sys2Proof.Machine
end

