-- ==== Sys2Proof/Machine/StepRoutes.lean ====
section
/-!
DEFINITION. Machine/StepRoutes.lean: the routes of a serving step: what is tested before one is submitted, the bound of the step, and
what the end of a route does to its loop (R464, R471, R475, R491, R499, R520).
-/
namespace Sys2Proof.Machine

/-! The end of a step's route. -/

/-- The layer and group of a route's ATTEND station. -/
def attendPlace (b : Bytes) : Nat × Nat :=
  match (rpAll b).find? (fun st => st.typ == 4) with
  | some st => (atLayer st, atGroup st)
  | none => (0, 0)

/-- CHUNK_SET_PUBLISH (R491): the ACTION route `w` has written its chunks; the conversion writes them as raw words into a
buffer, and the set is published unless the conversion set NV or the buffer is not to be written (R98). At expert level the route has written raw words itself. -/
def publishSet (s : State) (l : Loop) (w : WaitingRoute) (a : ActionBinding) : State × ActionBinding :=
  let running := l.seqs.any (fun q => q.id == a.sequence && q.st == .running)
  match (List.range w.binds.length).find? (fun i => rpRole w.program i == 1) with
  | none => (s, a)
  | some i =>
    let d := w.binds.getD i ⟨0, 0, 0, 0, 0⟩
    let im := actionImage s a
    let n := chunkElems im a.chunkExtra
    let at_ := fun (k : Nat) => d.addr + k / max 1 d.cols * d.stride + 4 * (k % max 1 d.cols)
    let vs := (List.range (a.chunkCount * n)).map (fun k =>
      let v : Word := BitVec.ofNat 32 (leNat (s.mem.dev.read (at_ k) 4))
      if rpOpFmt w.program i = 8 then (plain v.toNat : Flagged Nat) else chunkRaw im a.chunkExtra (k % max 1 n) v)
    let set := freeSet s a
    let held := (accessStatus s (setAddr a im set) (4 * a.chunkCount * n) true).isSome
    if !running || held then (s, a)
    else if vs.any (fun v => v.flags &&& flagNV != 0) then (s, a)
    else
      let m := vs.foldl (fun (p : Nat × Memory) v => (p.1 + 4, p.2.write p.1 (leBytes 4 v.val))) (setAddr a im set, s.mem.dev)
      ({ s with mem := { s.mem with dev := m.2 } }, { a with
        published := some (set, now s), age := 0, nextChunk := 0, prev := a.published.map (fun p => (p.1, a.age, a.nextChunk)) })

/-- The checks of R364 on the next route of a step: every range that it reads or writes lies in the session's envelope (R752), then
the required counts and the partition's size. -/
def stepRouteStatus (s : State) (w : WaitingRoute) : Option Status :=
  let ranges := (List.range w.binds.length).filterMap (fun i => w.binds[i]?.map (fun d => (d, i)))
  if (routeReads s.mem w ++ routeWrites w).any (fun r => !inEnvelope s (some w.session) r.1 r.2) then some stPROTECTION
  else if !w.op.isEmpty then none
  else if ranges.any (fun x => (rpNeedRows w.program x.2 != 0 && rpNeedRows w.program x.2 != x.1.rows)
      || (rpNeedCols w.program x.2 != 0 && rpNeedCols w.program x.2 != x.1.cols)) then some stBAD_DESCRIPTOR
  else if !(rpSizes w.program).testBit (peSizeLog2 (partEntry s w.part)) then some stBAD_DESCRIPTOR
  else none

/-- The time that a boundary may take, in ns (R488): of the sequences not ENDED, the blocks confirmed and the bytes copied. -/
def boundaryNs (l : Loop) : Nat :=
  12000 + 400 * (l.seqs.filter (fun q => q.st != .ended)).length + 600 * l.hits + (l.copied + 272) / 273

/-- The bound of the unit that a route starts (R520): its own, and for the first route of a serving step the sum of the step's
routes and the boundary. -/
def unitBound (s : State) (w : WaitingRoute) : Nat :=
  match (if w.cmd.key.src = .firmware then s.loops.find? (fun l => l.part == w.part) else none) with
  | some l => routeBound s w + (l.todo.map (routeBound s)).foldl (· + ·) 0 + boundaryNs l
  | none => routeBound s w

/-- Submit the next route of a loop's step; the step ends when there is none or when a route of it has failed. -/
def nextStepRoute (s : State) (l : Loop) : State × Loop :=
  match l.todo, l.failed with
  | w :: rest, none =>
    match stepRouteStatus s w with
    | some st => (s, { l with failed := some st, todo := [], begun := none })
    | none =>
      (modPart s l.part (fun x => { x with waiting := x.waiting ++ [{ w with submitted := now s }] }), { l with todo := rest })
  | _, _ => (s, { l with todo := [], begun := none })

def setLoop (s : State) (l : Loop) : State := { s with loops := s.loops.map (fun x => if x.part == l.part then l else x) }

/-- A route of a serving step has ended with this status (R464, R471, R475, R491): the loop keeps its warnings and masses,
publishes its chunks, and goes on with the next route. -/
def loopRouteOver (s : State) (p : Nat) (w : WaitingRoute) (st : Status) (warn : BitVec 16) : State :=
  match s.loops.find? (fun l => l.part == p) with
  | none => s
  | some l =>
    let role := spRole l.program w.cmd.key.id.toNat
    let place := attendPlace w.program
    let table := readTable s.mem l.attTable
    let mass : List (Nat × Nat × List Word) := if role = 4 ∧ routeSound st then
        [(place.1, place.2, toWords (table.entries * cfHeads l.cfg) (s.mem.dev.read l.massArray (4 * table.entries * cfHeads l.cfg)))]
      else []
    let l1 := { l with
      warn := l.warn ||| warn, failed := if l.failed.isNone && !routeSound st then some st else l.failed,
      stage := l.stage.map (· + 1), masses := l.masses ++ mass }
    let r := if role = 7 ∧ routeSound st then
        l1.actions.foldl (fun (a : State × List ActionBinding) x => let y := publishSet a.1 l1 w x; (y.1, a.2 ++ [y.2])) (s, [])
      else (s, l1.actions)
    let n := nextStepRoute r.1 { l1 with actions := r.2 }
    setLoop n.1 n.2

end Sys2Proof.Machine
end

