-- ==== Sys2Proof/Machine/FieldOps.lean ====
section
/-!
DEFINITION. Machine/FieldOps.lean: how a route starts, moves its tiles, ends, is stopped and is restarted (R335–R337,
R364–R376, R385–R414, R448, R453).
-/
namespace Sys2Proof.Machine

/-! Choosing (R335, R523, R525, R530, R534, R756). -/

/-- The slot use of a route: STEP for the routes of a serving step. -/
def routeUse (w : WaitingRoute) : Nat := if w.cmd.key.src = .firmware then 2 else 0

/-- Whether a sector of a partition waits for its spare (R374). -/
def sparePending (s : State) (p : Nat) : Bool :=
  let e := partEntry s p
  (List.range (peSize e)).any (fun i => match s.field.map[peFirst e + i]? with | some (.pend ..) => true | _ => false)

/-- The route that a partition takes next: none while one runs, while the fenced route waits for its spare or while a
sector is being replaced (R372, R374); with a spilled unit, only a HARD one; in a partition that a serving loop holds as one job (R472), only the loop's own, and a HARD
one that may spill it. -/
def nextRoute (s : State) (p : Nat) : Option WaitingRoute :=
  let x := getPart s p
  if x.run.isSome || x.fenced.isSome || sparePending s p then none
  else
    let ws := x.waiting
    bestBid ((List.range ws.length).filterMap (fun i => match ws[i]? with
      | some w => if (x.spilled.isNone || w.cls == 2) && jobFree s p w.cls w.cmd.key
            && routeMayStart s p w.cls (routeUse w) w.sq (unitBound s w) w.cmd.key
          then some (bidOf s w.cls w.cmd.deadline (some w.session) w.sq i, w) else none
      | none => none))

def unqueueRoute (s : State) (p : Nat) (w : WaitingRoute) : State :=
  modPart s p (fun x => { x with waiting := x.waiting.filter (fun y => y.cmd.key != w.cmd.key) })

/-! The end of a route. -/

/-- The combined flag word of a partition's sectors (R195). -/
def routeFlags (s : State) (p : Nat) : Word :=
  (partPhys s p).foldl (fun f n => match n with | some n => f ||| (getSector s n).flags | none => f) 0

/-- The result of a route (R367, R378): indices, re-runs, the restart mark and the flags, or the key count. -/
def routeResult (r : RouteRun) (flags : Word) : Nat :=
  let low := if !r.job.op.isEmpty && foOp r.job.op == 4 then r.keys % 2 ^ 32
    else r.indexFaults.toNat + r.reruns.toNat * 2 ^ 16 + (if r.restarted then 2 ^ 28 else 0)
  low + flags.toNat * 2 ^ 32

/-- Release a route's pins, at its completion however it ends (R453). -/
def releasePins (s : State) (r : RouteRun) : State := r.pins.foldl unpinPage s

/-- The time that a spill-out or a restore has taken until now is charged to the session that caused the spill (R533). -/
def chargeSpill (s : State) (p : Nat) : State :=
  match (getPart s p).spill with
  | some y => chargeTime s (some y.session) (peSize (partEntry s p) * (now s - y.since)) 0
  | none => s

/-- The spill-out has ended when a route starts: its time is charged (R533, log entry 154). -/
def spillEnds (s : State) (p : Nat) : State :=
  match (getPart s p).spill with
  | some y => if y.out then modPart (chargeSpill s p) p (fun x => { x with spill := some { y with out := false } }) else s
  | none => s

/-- A route leaves its partition: its pins go and its session is charged for the sectors' time (R531). A restore may begin now
(R533). -/
def leavePart (s : State) (p : Nat) (r : RouteRun) : State :=
  let s1 := modPart (releasePins s r) p (fun x => { x with run := none, spill := x.spill.map (fun y => { y with since := now s }) })
  chargeTime (admittedEnd s1 r.job.cmd.key) (some r.job.session) (peSize (partEntry s p) * (now s - r.start)) 0

/-- The undefined contents of a stopped command's outputs (R121, R357, R365, R368, R372): each byte of the ranges is a free value,
but where it may not be written: it is protected by another command, whose ranges stand without `own`, or its unit is not ON (R98,
R661). -/
def spoilBut (s : State) (own : List Guard) (l : List (Nat × Nat)) : State :=
  let ranges := own.foldl (fun l g => l.erase (g.lo, g.hi - g.lo)) (protectedRanges s)
  takeFree { s with mem := { s.mem with dev := l.foldl (fun m x =>
    (List.range x.2).foldl (fun m i =>
      if byteClosed s ranges (x.1 + i) then m else m.put (x.1 + i) (Config.undefByte s.free (x.1 + i))) m) s.mem.dev } }
def spoil (s : State) (l : List (Nat × Nat)) : State := spoilBut s [] l

/-- The environment of a running route. -/
def routeEnv (s : State) (p : Nat) (r : RouteRun) : RouteEnv where
  mem := s.mem
  prog := r.job.program
  binds := r.job.binds
  size := peSize (partEntry s p)
  proof := r.proof
  phys := (partPhys s p).map (fun n => n.getD 0)
  queues := r.queues
  arrive := s.free

/-- The streams of a running route. -/
def runStreams (s : State) (p : Nat) (r : RouteRun) : Streams :=
  if r.job.op.isEmpty then routeStreams (routeEnv s p r) else builtStreams (routeEnv s p r)

def modQueue (r : RouteRun) (sector q : Nat) (f : QueuePos → QueuePos) : RouteRun :=
  { r with queues := r.queues.map (fun x => if x.sector == sector && x.queue == q then f x else x) }
def getQueue (r : RouteRun) (sector q : Nat) : Option QueuePos := r.queues.find? (fun x => x.sector == sector && x.queue == q)

def setRun (s : State) (p : Nat) (r : RouteRun) : State := modPart s p (fun x => { x with run := some r })

/-- The physical sector behind place `i` of a partition. -/
def physAt (s : State) (p i : Nat) : Option Nat := ((partPhys s p)[i]?).bind id

/-- Flags of a sector's sequencer are sticky (R194, R195). -/
def setFlags (s : State) (p i : Nat) (f : Word) : State :=
  match physAt s p i with | some n => modSector s n (fun x => { x with flags := x.flags ||| f }) | none => s

/-- The station that writes a queue, and the one that reads it. -/
def producerOf (b : Bytes) (queue : Nat) : Option Station := (rpAll b).find? (fun st => (stOut st).contains queue)
def consumerOf (b : Bytes) (queue : Nat) : Option Station := (rpAll b).find? (fun st => (stIn st).contains queue)

/-- The stations that act on memory, with the queue whose release makes them act: the last of their inputs. -/
def sinkQueue (st : Station) : Option Nat :=
  match st.typ with
  | 11 => some st.q0
  | 10 => some st.q1
  | 4 => some (if st.q1 = 0xFF then st.q0 else st.q1)
  | _ => none

/-- The other input of a sink, for tile `k`. -/
def sinkInputs (st : Station) (x : Streams) (i k : Nat) : Option (Tile × Tile) :=
  match (x.get i st.q0)[k]? with
  | none => none
  | some a =>
    if st.q1 = 0xFF then some (a, ⟨0, 0, 0, [], 0, 0⟩)
    else (x.get i st.q1)[k]?.map (fun b => (a, b))

/-- The sinks of one sector still to be done, oldest first: station and tile number. -/
def pendingSinks (r : RouteRun) (x : Streams) (i : Nat) : List (Station × Nat) :=
  (rpAll r.job.program).flatMap (fun st => match sinkQueue st with
    | none => []
    | some q =>
      let done := match getQueue r i q with | some y => y.released | none => 0
      (List.range ((x.get i q).length - done)).map (fun k => (st, done + k)))

/-- The ranges that a route still writes once its tiles are consumed: the element counts of its STORE stations, and every row of the
destination of SCATTER updates in two phases (R361, R363). -/
def lateRanges (r : RouteRun) : List (Nat × Nat) :=
  (rpAll r.job.program).flatMap (fun st =>
    let d := r.job.binds.getD st.operand ⟨0, 0, 0, 0, 0⟩
    if st.typ = 11 ∧ d.aux ≠ 0 ∧ rpOpFmt r.job.program st.operand ≠ 6 then [(d.aux, 4)]
    else if viaCopies r.proof st then
      let d := r.job.binds.getD (scatterOperand st) ⟨0, 0, 0, 0, 0⟩
      (List.range d.rows).map (fun i => (d.addr + i * d.stride, 4 * (scatterWidth st).getD 0))
    else [])

/-- What a sink writes for tile `k` of sector `i`, before any of it is written: the elements of STORE, the rows of SCATTER, and the
masses, elements and rows of an ATTEND item (R347, R351, R438, R441, R464). -/
def sinkRanges (s : State) (p : Nat) (r : RouteRun) (i : Nat) (st : Station) (k : Nat) (x y : Tile) : List (Nat × Nat) :=
  let b := r.job.program
  let P := peSize (partEntry s p)
  let t := (tilesOf b P i).getD k ((tileRange b P i).1 + k)
  let d := r.job.binds.getD st.operand ⟨0, 0, 0, 0, 0⟩
  match st.typ with
  | 11 =>
    let q := rpQueue b st.q0
    elemRanges d q.fmt (storeElems d q (stTile st q) (stMap st) (t / rpCols b) (t % rpCols b) t x)
  | 10 => (scatterRows d (fld (wat st.words 2) 15 0) x y).1.map (fun w => (d.addr + w.1 * d.stride, 4 * w.2.length))
  | 4 =>
    match itemAt s.mem b st (tableOf s.mem r.job.binds st) t, attendItem s.mem b st r.job.binds r.proof t x y with
    | some it, some o => itemRanges s.mem r.job.binds st it.1 it.2 o
    | _, _ => []
  | _ => []

/-- The extent that a running route has not yet written (R357, R365, R368): what the sinks have still to write of its streams, and what it
writes at its end; for a built route its output (log entry 143). -/
def unwritten (s : State) (p : Nat) (r : RouteRun) : List (Nat × Nat) :=
  if r.job.op.isEmpty then
    let x := runStreams s p r
    (List.range (peSize (partEntry s p))).flatMap (fun i => (pendingSinks r x i).flatMap (fun e =>
      match sinkInputs e.1 x i e.2 with | some y => sinkRanges s p r i e.1 e.2 y.1 y.2 | none => [])) ++ lateRanges r
  else foWrites r.job.op

/-- The outputs of a route that stops are undefined over the extent not yet written (R121, R357, R365, R368). -/
def spoilRoute (s : State) (r : RouteRun) : State := spoilBut s r.guards (unwritten s r.job.part r)

/-- The combination of R494 of one row's results, in ascending device order: each of its values and its lse, in FP32. Rows that see no
key anywhere give zeros and −infinity. -/
def combineResults (rs : List (List Word × Word)) (d : Nat) : List Word × Word :=
  let top := rs.foldl (fun m r => fmax m r.2) (inf32 true)
  if top = inf32 true then (List.replicate d 0, inf32 true)
  else
    let sum := rs.foldl (fun a r => (fadd a (fexp (fsub r.2 top).val).val).val) 0
    let lse := (fadd top (flog sum).val).val
    ((List.range d).map (fun e => rs.foldl (fun a r => (fadd a (fmul (r.1.getD e 0) (fexp (fsub r.2 lse).val).val).val).val) 0), lse)

/-- The results of a FORWARD route that every device of a spread loop has run over its own blocks (R493, R494): this device's lie in the
route's outputs, in runs of d + 2 words (R440); those of the others come in messages whose form is not given, and are free values
(log entry 37). The home device puts their combination in place of its own. -/
def combineRanges (s : State) (l : Loop) (w : WaitingRoute) : State :=
  let place := spreadPlace s.ports.peer.number.toNat l.cfg
  let d := cfD l.cfg
  if place.1 ≠ 0 then s
  else takeFree { s with mem := { s.mem with dev := ((List.range w.binds.length).filter (fun k => rpRole w.program k == 1)).foldl (fun m k =>
    match w.binds[k]? with
    | none => m
    | some b => (List.range b.rows).foldl (fun m r => (List.range (b.cols / (d + 2))).foldl (fun m c =>
        let a := b.addr + r * b.stride + 4 * c * (d + 2)
        let mine := toWords (d + 2) (m.read a (4 * (d + 2)))
        let rs := (List.range place.2).map (fun i =>
          if i = place.1 then (mine.take d, mine.getD (d + 1) 0)
          else
            let word := fun e => Config.remoteWord s.free ((((k * 2 ^ 32 + r) * 2 ^ 16 + c) * 4 + i) * 512 + e)
            ((List.range d).map word, word d))
        let o := combineResults rs d
        m.write a (ofWords (o.1 ++ [rs.foldl (fun m r => fmax m r.2) (inf32 true), o.2]))) m) m) s.mem.dev } }

/-- Complete a route with a status (R367–R369); a miss on a HARD queue is recorded. Under spread by position the results of a
FORWARD of every device are combined (R494). -/
def endRoute (s : State) (p : Nat) (r : RouteRun) (st : Status) (result : Nat := 0) (warn : BitVec 16 := 0) : State :=
  let s1 := endRouteImprint (leavePart s p r) r st result
  if r.job.cmd.key.src = .firmware then
    let spread := s1.loops.find? (fun l => l.part == p && cfSpread l.cfg == 2 && spRole l.program r.job.cmd.key.id.toNat == 4)
    loopRouteOver (match spread with | some l => if routeSound st then combineRanges s1 l r.job else s1 | none => s1) p r.job st warn
  else
    let s2 := if st = stDEADLINE_MISS then charge s1 (some r.job.session) (fun c => { c with deadlineMisses := satInc c.deadlineMisses }) else s1
    let s3 := if st = stDEADLINE_MISS ∧ r.job.cls = 2 then
        huskMiss s2 (match r.job.cmd.deadline with | some d => pvSrc d | none => srcCp) 3 r.job.sq r.job.cmd.key.id 0 0 else s2
    finish s3 r.job.cmd { status := st, result := BitVec.ofNat 64 result, warn := warn, epoch := r.epoch }

/-- The flag word of a route that ends: of its partition's sectors, or, while it is spilled, of those that were saved (R195, R401). -/
def runFlags (s : State) (p : Nat) (r : RouteRun) : Word :=
  if r.saved.isEmpty then routeFlags s p else r.saved.foldl (fun f c => f ||| c.flags) 0

/-- A running route stops where it is (R357, R365, R368): its outputs are undefined over the extent not yet written. What
has been written stands. Its completion carries the result of R367 and the warnings present (R145). -/
def stopRoute (s : State) (p : Nat) (r : RouteRun) (st : Status) : State :=
  endRoute (spoilRoute s r) p r st (routeResult r (runFlags s p r)) (r.warn ||| flagsWarn (runFlags s p r))

/-- A running route ends with INTERNAL and a low word that replaces that of R367 (R195, R357, R372, R541, R542). -/
def failRoute (s : State) (p : Nat) (r : RouteRun) (result : Nat) : State :=
  endRoute (spoilRoute s r) p r stINTERNAL (result + (runFlags s p r).toNat * 2 ^ 32) (r.warn ||| flagsWarn (runFlags s p r))

/-- A route that is not restartable ends at the fence, its outputs undefined over every OUTPUT and ACCUM range (R372). -/
def fenceRoute (s : State) (p : Nat) (r : RouteRun) : State :=
  failRoute (spoilBut s r.guards (routeWrites r.job)) p r 3

/-- A route that is refused before start-up. -/
def refuseRoute (s : State) (p : Nat) (w : WaitingRoute) (st : Status) : State :=
  let s1 := admittedEnd (unqueueRoute s p w) w.cmd.key
  if w.cmd.key.src = .firmware then loopRouteOver s1 p w st 0
  else finish s1 w.cmd { status := st, epoch := (getPart s p).epoch }

/-! The start of a route. -/

/-- Configure a sector for a route (R337, R385, R393–R408). -/
def setupSector (s : State) (p : Nat) (w : WaitingRoute) (x : Sector) : Sector :=
  let b := w.program
  let feeds := fun q => (rpAll b).find? (fun st => (stOut st).contains q)
  let weight := fun q => match feeds q with
    | some st => (st.typ == 1 || st.typ == 2) &&
        (match w.binds[st.operand]? with
         | some d => (bindRanges b st.operand d).all (fun x => s.cmds.allocs.any (fun a =>
            a.cls == 1 && decide (a.addr ≤ x.1) && decide (x.1 + x.2 ≤ a.addr + a.bytes)))
         | none => false)
    | none => false
  { x with
    flags := 0, mode := BitVec.ofNat 2 (partMode s p), rtPorts := BitVec.ofNat 15 (partRt s p), slotMap := partMap s p,
    losses := 0, waits := 0, words := [], frame0 := now s, pages := [],
    regions := (List.range 32).map (fun i =>
      if i < rpQueues b then
        let q := rpQueue b i
        { enable := true, weight := weight i && tileWords q % 2 == 0, base := q.base, slots := q.depth, words := tileWords q,
          head := 0, tail := 0, tags := List.replicate q.depth 0 }
      else Region.off),
    lanes := List.replicate 64 0 }

/-- The queues of a route in every sector, empty. -/
def freshQueues (b : Bytes) (P at_ : Nat) : List QueuePos :=
  (List.range P).flatMap (fun s => (List.range (rpQueues b)).map (fun q =>
    { sector := s, queue := q, tiles := [], released := 0, detections := [], moved := at_ }))

/-- The route that a FIELD_OP builds for its partition's size (R380); any other route is as it was submitted. -/
def buildRoute (s : State) (w : WaitingRoute) : WaitingRoute :=
  if w.op.isEmpty then w
  else { w with program := foProgram w.op (peSize (partEntry s w.part)), binds := foBinds w.op }

/-- Whether the slices under a range serve a route (R422): those of its partition; those of the firmware for its own routes, and with
`page` for the pages of an attention table. -/
def sliceFeeds (s : State) (w : WaitingRoute) (page : Bool) (a n : Nat) : Bool :=
  (slicesOf s a n).all (fun i => peHasSlice (partEntry s w.part) i
    || ((page || w.cmd.key.src == .firmware) && !(List.range 16).any (fun q => peHasSlice (partEntry s q) i)))

/-- Whether a range lies in a page of a session's serving loop that the firmware has moved into the shared buffer (R458, R473): the page
is the session's wherever it lies. -/
def ownPage (s : State) (session : Word) (a n : Nat) : Bool :=
  s.loops.any (fun l => l.session == session && (l.sharedPages s.mem).any (fun x => decide (x.1 ≤ a) && decide (a + n ≤ x.1 + x.2)))

/-- Whether the partition's fence, an absent sector or the scratchpad map keeps a route from starting, and the other
checks made before start-up (R182, R361, R365, R376, R390, R422, R427, R449, R661). -/
def startStatus (s : State) (w : WaitingRoute) : Option Status :=
  let p := w.part
  let P := peSize (partEntry s p)
  let proof := partProof s p
  let reads := routeReads s.mem w
  if (partPhys s p).any (·.isNone) then some stNO_RESOURCE
  else if w.op.isEmpty && !(rpSizes w.program).testBit (peSizeLog2 (partEntry s p)) then some stBAD_DESCRIPTOR
  else if w.op.isEmpty && rpStoch w.program && proof then some stBAD_DESCRIPTOR
  else if partMode s p != 0 && !portsServed (partMap s p) (portsUsed w.program P) then some stBAD_DESCRIPTOR
  else if (copySpace s w proof).isNone then some stNO_RESOURCE
  else if (reads ++ routeWrites w).any (fun x => !sliceFeeds s w false x.1 x.2) then some stPROTECTION
  else match reads.findSome? (fun x => accessStatus s x.1 x.2 false) with
    | some st => some st
    | none =>
      if !w.op.isEmpty then none
      else match attendOf w.program with
        | none => none
        | some st =>
          let session := if w.cmd.key.src = .firmware then none else some w.session
          match prescanStatus s.mem st (tableOf s.mem w.binds st) proof (fun a n =>
              (inEnvelope s session a n || ownPage s w.session a n) && sliceFeeds s w true a n) with
          | some x => some x
          | none => none

/-- The ranges that a route write-protects while it runs (R365): INPUT, INDEX and PAGES. -/
def routeGuards (s : State) (w : WaitingRoute) : List Guard := (routeReads s.mem w).map (fun x => ⟨x.1, x.1 + x.2, 0⟩)

/-- The page descriptors of the items of place `i` of a partition, in the order of R356 (R451). -/
def sectorPages (s : State) (p i : Nat) (w : WaitingRoute) (st : Station) : List Bytes :=
  let t := tableOf s.mem w.binds st
  (tilesOf w.program (peSize (partEntry s p)) i).flatMap (fun k => match itemAt s.mem w.program st t k with
    | some it => itemDescriptors t s.mem st it.1
    | none => [])

/-- The leader sends the page descriptors of an ATTEND route into region 24 of each sector (R451). -/
def sendPages (s : State) (p : Nat) (w : WaitingRoute) (st : Station) : State :=
  let l := (partPhys s p).zip ((List.range (peSize (partEntry s p))).map (fun i => sectorPages s p i w st))
  takeFree (l.foldl (fun s x => match x.1 with
    | some n => modSector s n (fillPages (pageRegionBase s w.program) x.2)
    | none => s) s)

/-- The side regions of a starting route in every sector (R393, R465). -/
def setSides (s : State) (p : Nat) (w : WaitingRoute) : State :=
  let P := peSize (partEntry s p)
  let pairs := match (if w.op.isEmpty then attendOf w.program else none) with
    | some st => st.op == 1 && (tableOf s.mem w.binds st).mass != 0
    | none => false
  takeFree ((partPhys s p).zip (List.range P) |>.foldl (fun s x => match x.1 with
    | some n => modSector s n (fun c => (sideRegions s w.program pairs P x.2).foldl (fun c r => { c with regions := c.regions.set r.1 r.2 }) c)
    | none => s) s)

/-- The first route of a serving step has started: the step has begun (R472, R499). -/
def noteBegun (s : State) (w : WaitingRoute) : State :=
  if w.cmd.key.src = .firmware then
    { s with loops := s.loops.map (fun l => if l.part == w.part then { l with begun := some (l.begun.getD (now s)) } else l) }
  else s

/-- The leader begins reading a route program (R336): with every check passed, the route runs. -/
def beginRoute (s : State) (p : Nat) (w : WaitingRoute) (restarted : Bool) (pins : List Nat) : State :=
  let w := buildRoute s w
  match startStatus s w with
  | some st => refuseRoute (pins.foldl unpinPage s) p w st
  | none =>
    let P := peSize (partEntry s p)
    let att := if w.op.isEmpty then attendOf w.program else none
    let w := { w with program := gridded s.mem w }
    let pages := match att with
      | some st => let t := tableOf s.mem w.binds st
        (t.live s.mem).map (fun i => t.pageOf s.mem st (t.entry s.mem i))
      | none => []
    let warn := match att with | some st => prescanWarn s.mem st (tableOf s.mem w.binds st) | none => 0
    let run : RouteRun := { job := w, start := now s, proof := partProof s p, epoch := (getPart s p).epoch, guards := routeGuards s w,
                            queues := freshQueues w.program P (now s), indexFaults := 0, reruns := 0,
                            restarted := restarted, warn := warn, pins := pins ++ pages, copies := [],
                            space := (copySpace s w (partProof s p)).getD [], keys := 0, saved := [] }
    let s1 := pages.foldl pinPage (spillEnds s p)
    let s2 := (partPhys s p).foldl (fun s n => match n with
      | some n => modSector s n (setupSector s p w)
      | none => s) s1
    let s2 := setSides (match att with | some st => sendPages s2 p w st | none => s2) p w
    let s3 := beginRouteImprint (modPart (unqueueRoute s2 p w) p (fun x => { x with run := some run })) run s.mem
    markStarted (admittedStart (noteBegun s3 w) w.cmd.key) w.cmd.key

/-! Tiles. -/

/-- Publish a tile (R396): its words, through its producer's port, its tag and the tail. -/
def publishSlot (s : State) (p i q : Nat) (b : Bytes) (t : Tile) (last : Bool) : State :=
  match physAt s p i with
  | none => s
  | some n => takeFree (modSector s n (fun c =>
      let r := c.regions.getD q Region.off
      let base := r.base + r.tail * r.words
      let ws := packTile (rpQueue b q) t
      let port := match producerOf b q with | some st => writePort st | none => 0
      let c := serveSector s (rangeReqs port base ws.length) c
      { c with
        words := (List.range ws.length).map (fun k => (base + k, ws.getD k 0)) ++ c.words.filter (fun e => !(decide (base ≤ e.1) && decide (e.1 < base + ws.length))),
        regions := c.regions.modify q (fun r => { r with
          tags := r.tags.set r.tail (BitVec.ofNat 32 (2 ^ 31 + (if last then 2 ^ 30 else 0) + t.valid)),
          tail := (r.tail + 1) % max 1 r.slots }) }))

/-- What passes through the side regions of sector `i` as the station's output tile `k` is formed: the pairs of an item's pages (R465), the
partial tiles of the groups, and those of a global REDUCE (R359, R360). -/
def sideWords (s : State) (p : Nat) (r : RouteRun) (i : Nat) (st : Station) (k : Nat) : List (Nat × Nat × List Word) :=
  let v := routeEnv s p r
  let b := r.job.program
  let x := runStreams s p r
  let q := rpQueue b st.out
  if !r.job.op.isEmpty then []
  else match st.typ with
    | 3 => if rpSplit b = 1 then [] else (List.range (rpSplit b)).filterMap (fun g =>
        (matrixPartials v x st (i + g * groupSize b v.size))[k]?.map (fun t => (26, g, packTile q t)))
    | 4 => match (x.get i st.q0)[k]? with
      | none => []
      | some a => match attendItem s.mem b st r.job.binds r.proof ((tilesOf b v.size i).getD k 0) a ((x.get i st.q1).getD k ⟨0, 0, 0, [], 0, 0⟩) with
        | some o => o.pairs.map (fun e => (25, e.1, e.2))
        | none => []
    | 6 => if wbit (wat st.words 2) 1 ∧ st.op ≠ 5 ∧ st.op ≠ 3 ∧ st.op ≠ 4 ∧ i = 0 ∧ 1 < v.size then (List.range v.size).map (fun j =>
        (27, j, ((joinLines (fld (wat st.words 2) 0 0) (x.get j st.q0)).map (reduceLine st.inFmt st.op)).flatMap (·.val)))
      else []
    | _ => []

/-- Those words go through the sector's regions. -/
def passSides (s : State) (p : Nat) (r : RouteRun) (i : Nat) (st : Station) (k : Nat) : State :=
  match physAt s p i, sideWords s p r i st k with
  | some n, x :: l => modSector s n (fun c => (x :: l).foldl (fun c y => putSide y c) c)
  | _, _ => s

/-- A consumer reads the slot at the head of a queue (R397): the banks served, and the tile that its tag and words give, of which an
MXFP4 tile's scales are those that it was published with. -/
def readHead (s : State) (p i q : Nat) (b : Bytes) (t : Tile) : State × Tile :=
  match physAt s p i with
  | none => (s, t)
  | some n =>
    let port := match consumerOf b q with | some st => readPort st (st.q1 == q) | none => 0
    let x := readSlot s n port q
    let r := (getSector s n).regions.getD q Region.off
    let y := rpQueue b q
    (x.1, { t with valid := fld (r.tags.getD r.head 0) 16 0,
                   elems := if y.fmt = 6 then t.elems else unpackWords y.fmt (y.rows * y.cols) x.2 })

/-- Release the slot at the head (R397); an ATTEND station that has done an item has taken its page descriptors (R451). -/
def releaseSlot (s : State) (p i q : Nat) (r : RouteRun) (k : Nat) : State :=
  match physAt s p i with
  | none => s
  | some n =>
    let b := r.job.program
    let pages := match attendOf b with
      | some st => if st.q0 = q then
          (match itemAt s.mem b st (tableOf s.mem r.job.binds st) ((tilesOf b (peSize (partEntry s p)) i).getD k 0) with
           | some it => (itemDescriptors (tableOf s.mem r.job.binds st) s.mem st it.1).length
           | none => 0) else 0
      | none => 0
    modSector s n (fun c =>
      let c := { c with regions := c.regions.modify q (fun r => { r with
        tags := r.tags.set r.head 0, head := (r.head + 1) % max 1 r.slots }) }
      if pages = 0 then c else dropPages pages c)

/-! When a tile can be published and a slot released (R397, R400). -/

/-- Whether a REDUCE station combines across sectors. -/
def isGlobal (st : Station) : Bool := st.typ == 6 && wbit (wat st.words 2) 1 && st.op != 5

/-- Whether a station makes tile `k` of its output from tile `k` of each input. -/
def oneToOne (st : Station) : Bool :=
  st.typ == 2 || st.typ == 5 || (st.typ == 6 && !isGlobal st) || (st.typ == 8 && st.op == 0)

/-- Tiles of a queue that are published. -/
def publishedCount (r : RouteRun) (i q : Nat) : Nat := match getQueue r i q with | some y => y.tiles.length | none => 0

/-- Whether the inputs that output tile `k` of a station is made from are published (R397): a read of an empty slot blocks. A station whose
outputs do not follow its inputs one by one can form a tile once the published inputs give it, TOPK and a global REDUCE at the end. -/
def inputsReady (s : State) (p : Nat) (r : RouteRun) (i : Nat) (st : Station) (k : Nat) : Bool :=
  let v := routeEnv s p r
  let b := r.job.program
  let x := runStreams s p r
  let whole := fun (j : Nat) => (stIn st).all (fun q => decide ((x.get j q).length ≤ publishedCount r j q))
  match st.typ with
  | 1 => true
  | 3 => (List.range (rpSplit b)).all (fun g =>
      let j := i + g * groupSize b v.size
      (stIn st).all (fun q => decide ((k + 1) * (stepsOf b v.size j).length ≤ publishedCount r j q)))
  | _ =>
    if oneToOne st || st.typ == 4 then (stIn st).all (fun q => decide (k < publishedCount r i q))
    else if isGlobal st then (List.range v.size).all whole
    else if st.typ = 8 ∧ st.op = 2 then whole i
    else if !r.job.op.isEmpty then (stIn st).all (fun q => decide (0 < publishedCount r i q))
    else
      let y : Streams := (stIn st).map (fun q => ((i, q), (x.get i q).take (publishedCount r i q)))
      decide ((stationStream v y st i)[k]? = (x.get i st.out)[k]?)

/-- Whether every output slot that a station wrote from input tile `k` has been read in full (R400); MATRIX, ATTEND and the sinks hold
nothing. Of a station whose outputs do not follow its inputs one by one, these are the tiles published so far (DEDUCED, log entry 144). -/
def outputsRead (r : RouteRun) (i : Nat) (st : Station) (k : Nat) : Bool :=
  if st.typ = 3 ∨ st.typ = 4 ∨ st.out = 0xFF then true
  else match getQueue r (if isGlobal st then 0 else i) st.out with
    | none => true
    | some o => if oneToOne st then decide (k < o.released) else decide (o.tiles.length ≤ o.released)

/-! Detections by slot (R410, R413). -/

/-- Consecutive detections on the contents of tile `k`'s slot. -/
def QueuePos.count (y : QueuePos) (k : Nat) : Nat := match y.detections.find? (fun e => e.1 == k) with | some e => e.2 | none => 0
/-- One more; and none, after a read without one. -/
def QueuePos.detect (y : QueuePos) (k : Nat) : QueuePos :=
  { y with detections := (k, y.count k + 1) :: y.detections.filter (fun e => e.1 != k) }
def QueuePos.clear (y : QueuePos) (k : Nat) : QueuePos := { y with detections := y.detections.filter (fun e => e.1 != k) }

/-- A station that has formed output tile `k` from its inputs one by one has read those slots without a detection (R413). -/
def clearInputs (r : RouteRun) (i : Nat) (st : Station) (k : Nat) : RouteRun :=
  if oneToOne st then (stIn st).foldl (fun r q => modQueue r i q (·.clear k)) r else r

/-! Stalls (R357, R399). -/

/-- Whether the producer or the consumer of a queue is blocked on it (R396, R397, R399): no slot is free for a tile to come, or no tile is
there for a consumer that has more to read. -/
def queueBlocked (x : Streams) (r : RouteRun) (y : QueuePos) : Bool :=
  let b := r.job.program
  let more := fun (q : Nat) => match getQueue r y.sector q with
    | some z => decide (z.released < (x.get y.sector q).length)
    | none => false
  (decide ((rpQueue b y.queue).depth ≤ y.tiles.length - y.released) && decide (y.tiles.length < (x.get y.sector y.queue).length))
  || (decide (y.tiles.length ≤ y.released)
      && (match consumerOf b y.queue with | some st => (stIn st).any more | none => false))

/-- Whether a station has been blocked on a queue for longer than the route's stall limit (R357). -/
def stalled (s : State) (p : Nat) (r : RouteRun) : Bool :=
  let x := runStreams s p r
  r.queues.any (fun y => queueBlocked x r y && decide (rpStallNs r.job.program < now s - y.moved))

/-- What a route's write meets: a protected range of another command, a unit that is not ON (R365, R661). Its own guards
do not stop it. -/
def routeWriteStatus (s : State) (p : Nat) (r : RouteRun) (ranges : List (Nat × Nat)) : Option Status :=
  let s1 := setRun s p { r with guards := [] }
  ranges.findSome? (fun x => accessStatus s1 x.1 x.2 true)

/-- The masses and APPEND's elements that an item of ATTEND writes (R438, R464). -/
def applyItem (m : Mem) (r : RouteRun) (st : Station) (q : QueryTile) (h : Nat) (o : ItemOut) : Mem :=
  let t := tableOf m r.job.binds st
  let m1 : Mem := { m with dev := o.mass.foldl (fun d x =>
    d.write (t.mass + 4 * ((q.seg.entry + x.1) * atKvHeads st + h)) (leBytes 4 x.2.toNat)) m.dev }
  o.writes.foldl (fun m w => pokeElem m w.1 w.2.1 w.2.2.1 w.2.2.2) m1

/-- Updates of rows at their destination, or in the private copy of sector `i` where the route goes through copies (R347, R361, R362): the
rows within the operand. -/
def scatterInto (s : State) (p : Nat) (r : RouteRun) (i : Nat) (st : Station) (rows : List (Nat × List Word)) : State × RouteRun :=
  let d := r.job.binds.getD (scatterOperand st) ⟨0, 0, 0, 0, 0⟩
  let f := if st.typ = 4 then 1 else st.inFmt
  if viaCopies r.proof st then
    let c := foldFlagged (fun l (w : Nat × List Word) => copyRow l i d (scatterOp st) w.1 w.2) r.copies rows
    (setFlags s p i c.flags, { r with copies := c.val })
  else
    let m := foldFlagged (fun m (w : Nat × List Word) => scatterRow m d f (scatterOp st) w.1 w.2) s.mem rows
    (setFlags { s with mem := m.val } p i m.flags, r)

/-- Consume tile `k` of a sink in sector `i`: STORE, SCATTER, and the effects of ATTEND on memory (R347, R351, R361,
R438, R441, R464). -/
def consumeTile (s : State) (p : Nat) (r : RouteRun) (i : Nat) (st : Station) (k : Nat) (x y : Tile) : Except Status (State × RouteRun) :=
  let b := r.job.program
  let P := peSize (partEntry s p)
  let t := (tilesOf b P i).getD k ((tileRange b P i).1 + k)
  let d := r.job.binds.getD st.operand ⟨0, 0, 0, 0, 0⟩
  match routeWriteStatus s p r (sinkRanges s p r i st k x y) with
  | some e => .error e
  | none =>
    match st.typ with
    | 11 =>
      let q := rpQueue b st.q0
      let es := storeElems d q (stTile st q) (stMap st) (t / rpCols b) (t % rpCols b) t x
      let m := es.foldl (fun m e => putElem m d q.fmt e.1 e.2.1 e.2.2) s.mem
      let s1 := es.foldl (fun s e => clearWeights s (elemAddr d q.fmt e.1 e.2.1) ((fmtBits q.fmt + 7) / 8)) s
      .ok ({ s1 with mem := m }, r)
    | 10 =>
      let rows := scatterRows d (fld (wat st.words 2) 15 0) x y
      .ok (scatterInto s p { r with indexFaults := satAdd r.indexFaults rows.2 } i st rows.1)
    | 4 =>
      match itemAt s.mem b st (tableOf s.mem r.job.binds st) t, attendItem s.mem b st r.job.binds r.proof t x y with
      | some it, some o =>
        let n := (r.job.binds.getD (atAccum st) ⟨0, 0, 0, 0, 0⟩).rows
        let s1 := setFlags { s with mem := applyItem s.mem r st it.1 it.2 o } p i o.flags
        let out := o.accum.filter (fun e => decide (n ≤ e.1))
        .ok (scatterInto s1 p { r with indexFaults := satAdd r.indexFaults out.length } i st (o.accum.filter (fun e => decide (e.1 < n))))
      | _, _ => .ok (s, r)
    | _ => .ok (s, r)

/-- Consume the tiles that remain, sector after sector in an order of arrival in Throughput mode (R362). -/
def consumeRest (p : Nat) (x : Streams) : Nat → Nat → List (Nat × List (Station × Nat)) → State × RouteRun →
    Except Status (State × RouteRun)
  | 0, _, _, a => .ok a
  | f + 1, n, todo, a =>
    let live := todo.filter (fun e => !e.2.isEmpty)
    match live[if a.2.proof then 0 else Config.arrival a.1.free n % max 1 live.length]? with
    | none => .ok a
    | some (_, []) => .ok a
    | some (i, (st, k) :: rest) =>
      let next := todo.map (fun e => if e.1 == i then (i, rest) else e)
      match sinkInputs st x i k with
      | none => consumeRest p x f (n + 1) next a
      | some y =>
        match consumeTile a.1 p a.2 i st k y.1 y.2 with
        | .error e => .error e
        | .ok a1 => consumeRest p x f (n + 1) next a1

/-- Element counts that STORE leaves for variable-length outputs (R363). -/
def storeCounts (m : Mem) (r : RouteRun) (x : Streams) (P : Nat) : Mem :=
  (rpAll r.job.program).foldl (fun m st =>
    let d := r.job.binds.getD st.operand ⟨0, 0, 0, 0, 0⟩
    if st.typ = 11 ∧ d.aux ≠ 0 ∧ rpOpFmt r.job.program st.operand ≠ 6 then
      let n := ((List.range P).flatMap (fun i => x.get i st.q0)).foldl (fun n t => n + t.valid) 0
      putWords m d.aux [BitVec.ofNat 32 n]
    else m) m

/-- The second phase of SCATTER updates that went through private copies (R361): each station's in turn. -/
def secondPhase (s : State) (p : Nat) (r : RouteRun) : State :=
  ((rpAll r.job.program).filter (viaCopies r.proof)).foldl (fun s st =>
    let m := applyCopies s.mem (r.job.binds.getD (scatterOperand st) ⟨0, 0, 0, 0, 0⟩) (scatterOp st) ((scatterWidth st).getD 0)
      (peSize (partEntry s p)) r.copies
    setFlags { s with mem := m.val } p 0 m.flags) s

/-- The token counts that APPEND sets at its completion stamp (R438). -/
def appendCounts (s : State) (r : RouteRun) : State :=
  match attendOf r.job.program with
  | some st =>
    if st.op ≠ 0 then s
    else
      let t := tableOf s.mem r.job.binds st
      (List.range t.segments).foldl (fun s i =>
        let g := t.segment s.mem i
        (List.range g.rows).foldl (fun s k =>
          let row := t.row s.mem (g.first + k)
          if row.cand then s
          else
            let a := t.pageOf s.mem st (t.entry s.mem (g.entry + row.pos / 256))
            if phTokens s.mem a < row.pos % 256 + 1 then putWord s a 0 (setBits (phWord s.mem a 0) 8 0 (row.pos % 256 + 1)) else s) s) s
  | none => s

/-- What a route has read of device memory: its operands, and for an ATTEND the payloads of the pages that it has pinned. -/
def readByRoute (m : Mem) (r : RouteRun) : List (Nat × Nat) :=
  routeReads m r.job ++ r.pins.map (fun a => (phPayload m a, pageBytes 256 (phHeads m a) (phD m a) (phFormat m a)))

/-- The running route's last write is accepted (R367, R368): everything it still has to write is written. -/
def finishRoute (s : State) (p : Nat) (r : RouteRun) : State :=
  let P := peSize (partEntry s p)
  let warnOf := fun (s : State) (r : RouteRun) => r.warn ||| flagsWarn (routeFlags s p)
  if r.job.op.isEmpty then
    let x := runStreams s p r
    let fresh := x.flatMap (fun e => (e.2.drop (publishedTiles r.queues e.1.1 e.1.2).length).map (fun t => (e.1.1, t)))
    let s1 := fresh.foldl (fun s e => setFlags s p e.1 e.2.flags) s
    let r1 := { r with indexFaults := satAdd r.indexFaults (fresh.foldl (fun n e => n + e.2.faults) 0) }
    let todo := (List.range P).map (fun i => (i, pendingSinks r1 x i))
    match consumeRest p x ((todo.map (fun e => e.2.length)).foldl (· + ·) 0 + 1) 0 todo (s1, r1) with
    | .error st => stopRoute s1 p r1 st
    | .ok (s2, r2) =>
      match routeWriteStatus s2 p r2 (lateRanges r2) with
      | some st => stopRoute s2 p r2 st
      | none =>
        let s3 := secondPhase { s2 with mem := storeCounts s2.mem r2 x P } p r2
        let s4 := appendCounts s3 r2
        let w := warnOf s4 r2
        endRoute (countRereads (takeFree s4) (readByRoute s.mem r2)) p r2 (warnStatus w) (routeResult r2 (routeFlags s4 p)) w
  else
    match routeWriteStatus s p r (foWrites r.job.op) with
    | some st => stopRoute s p r st
    | none =>
      let o := fieldOpRun s.mem r.job.op P r.proof s.free
      let s1 := (foWrites r.job.op).foldl (fun s x => clearWeights s x.1 x.2) s
      let s2 := setFlags { s1 with mem := o.mem } p 0 o.flags
      let r1 := { r with indexFaults := satAdd r.indexFaults o.faults, keys := o.keys }
      let w := warnOf s2 r1
      endRoute (countRereads (takeFree s2) (readByRoute s.mem r1)) p r1 (warnStatus w) (routeResult r1 (routeFlags s2 p)) w

/-! Sector faults (R370–R376). -/

/-- Stop a running route without a completion; it waits again, first in its queue. -/
def requeueRoute (s : State) (p : Nat) (r : RouteRun) : State :=
  let s1 := leavePart s p r
  modPart s1 p (fun x => { x with waiting := r.job :: x.waiting })

/-- A command running at a migration or on a changed unit (R541, R542): a restartable route runs again, any other completes
with INTERNAL and result 5. -/
def migrateRun (s : State) (p : Nat) (r : RouteRun) : State :=
  if restartable s.mem r.job then requeueRoute s p r else failRoute s p r 5

/-- A new placement epoch of a partition (R538). -/
def bumpEpoch (s : State) (p : Nat) : State := modPart s p (fun x => { x with epoch := x.epoch + 1 })

/-- The partition that holds a logical sector. -/
def partOfLogical (s : State) (n : Nat) : Option Nat :=
  (List.range 16).find? (fun p => let e := partEntry s p
    peValid e && decide (peFirst e ≤ n) && decide (n < peFirst e + peSize e))

/-- Whether sector `n` is a spare left: idle, neither fenced nor marked failed nor already on its way (R333, R374, R622). -/
def sectorLeft (s : State) (n : Nat) : Bool :=
  (logicalOf s n).isNone && !(getSector s n).fenced
  && !s.boot.flash.badSpares.contains (1, n) && !s.boot.flash.repair.any (fun r => r.1 == 1 && r.2.1 == n)
  && !s.field.map.any (fun m => match m with | .pend k f _ => k == n || f == n | _ => false)

/-- The spare sector to use. -/
def spareSector (s : State) : Option Nat := (List.range 18).find? (sectorLeft s)

/-- Give logical sector `l`, until now physical sector `phys`, to a spare that powers up for it, or make it absent (R374,
R376). -/
def remapSector (s : State) (l phys : Nat) (c : Option Cmd) : State :=
  match spareSector s with
  | some n =>
    { s with field := { s.field with map := s.field.map.set l (.pend n phys c) },
             power := { s.power with moves := s.power.moves.filter (fun m => m.1 != 0x10000 + n) ++ [(0x10000 + n, 2)] } }
  | none => { s with field := { s.field with map := s.field.map.set l .absent } }

/-- A SECTOR_REMAP of physical sector `n` goes to its work (R169, R374, R375): it waits for the running route of the sector's
partition, and with no spare left it completes with NO_RESOURCE. -/
def startRemap (s : State) (n : Nat) (c : Cmd) : State :=
  match logicalOf s n with
  | none => done s c stBAD_DESCRIPTOR
  | some l =>
    if (spareSector s).isNone then done s c stNO_RESOURCE
    else match partOfLogical s l with
      | none => remapSector s l n (some c)
      | some p =>
        if (getPart s p).run.isSome || (getPart s p).spilled.isSome then modPart s p (fun x => { x with remap := x.remap ++ [(n, c)] })
        else remapSector (bumpEpoch s p) l n (some c)

/-- The SECTOR_REMAPs that wait for the route that has just left partition `p` are carried out in order (R375). -/
def afterRoute (s : State) (p : Nat) : State :=
  let x := getPart s p
  if x.run.isSome || x.spilled.isSome then s
  else x.remap.foldl (fun s r => startRemap s r.1 r.2) (modPart s p (fun x => { x with remap := [] }))

/-- The fenced route of a partition runs again from its start once no sector waits for a spare, unless its deadline has
arrived (R368, R372); with a sector absent it completes with NO_RESOURCE (R376). -/
def rerunFenced (s : State) (p : Nat) : State :=
  match (getPart s p).fenced with
  | none => s
  | some r =>
    if sparePending s p then s
    else
      let s1 := modPart s p (fun x => { x with fenced := none })
      if (match r.job.cmd.deadline with | some d => deadlineArrived s1 d | none => false) then
        stopRoute s1 p { r with start := now s1 } stDEADLINE_MISS
      else beginRoute s1 p r.job true r.pins

/-- The fence of a sector (R371, R372, R374, R376) with a FAULT record of this cause: its partition's route stops, its
epoch moves on, and a spare powers up for it, or the sector becomes absent. A route that ends with `ended` is not run
again (R370); what completes carries the new epoch (R288). -/
def faultSector (s : State) (phys cause : Nat) (ended : Option Status) : State :=
  if (getSector s phys).fenced then s
  else
    let s1 := huskFault (modSector s phys (fun x => { x with fenced := true })) (srcSector phys) 1 phys cause
    match logicalOf s1 phys with
    | none => s1
    | some l =>
      match partOfLogical s1 l with
      | none => remapSector s1 l phys none
      | some p =>
        let s2 := bumpEpoch s1 p
        match (getPart s2 p).run with
        | none => remapSector s2 l phys none
        | some r =>
          let r1 := { r with epoch := (getPart s2 p).epoch }
          match ended with
          | some st => afterRoute (remapSector (stopRoute s2 p r1 st) l phys none) p
          | none =>
            if restartable s.mem r.job then
              rerunFenced (afterRoute (remapSector (modPart (chargeTime s2 (some r.job.session) (peSize (partEntry s2 p) * (now s2 - r.start)) 0)
                p (fun x => { x with run := none, fenced := some r1 })) l phys none) p) p
            else afterRoute (remapSector (fenceRoute s2 p r1) l phys none) p

/-- An uncorrectable error in a sector ends its route (R414), with its record. -/
def routeUncorrectable (s : State) (p i : Nat) (r : RouteRun) : State :=
  let phys := (physAt s p i).getD 0
  stopRoute (huskRequest s 0x07 (srcSector phys) (leBytes 1 3 ++ leBytes 1 phys)) p r stUNCORRECTABLE

end Sys2Proof.Machine
end

