-- ==== Sys2Proof/Machine/PowerOps.lean ====
section
/-!
DEFINITION. Machine/PowerOps.lean: how units and the device change their power state (R648, R656, R660–R666).
-/
namespace Sys2Proof.Machine

/-- Whether a device address lies in slice or bank unit `u`, or in any bank for the code of all of them. -/
def addrIn (s : State) (u a : Nat) : Bool := rangeTouches s u a 1

/-- The contents of a slice or bank are lost (R656): its addresses read as 0. -/
def loseContents (s : State) (u : Nat) : State :=
  { s with mem := { s.mem with dev := s.mem.dev.filter (fun c => !addrIn s u c.1) } }

/-- Start the change of a unit to state `v` (R656, R660): a slice or bank that is ON drains first, from an instant that
carries `source`; a unit already draining takes the new target. -/
def startOne (s : State) (u : Nat) (v : BitVec 2) (source : Nat) : State :=
  let p := s.power
  let cur := unitState s u
  let moves := p.moves.filter (fun m => m.1 != u)
  if cur = 3 then
    { s with power := { p with drains := p.drains.map (fun d => if d.unit == u then { d with target := v } else d) } }
  else if cur = v then { s with power := { p with moves := moves } }
  else if cur = 2 ∧ 3 ≤ unitClass u then
    setUnit (cutForDrain { s with power := { p with moves := moves, drains := p.drains ++
      [{ unit := u, target := v, at_ := now s, source := source, discarded := none }] } } (rangeTouches s u) u) u 3
  else { s with power := { p with moves := moves ++ [(u, v)] } }

/-- Start the change of a unit code (R655): the code of all banks outside self-refresh names each of them for OFF and ON. -/
def startUnit (s : State) (u : Nat) (v : BitVec 2) (source : Nat) : State :=
  if u = 0x4FFFF ∧ v ≠ 1 ∧ !s.power.selfRefresh then
    (List.range 8).foldl (fun s n => startOne s (0x40000 + n) v source) s
  else startOne s u v source

/-- Whether a sector or engine has reached its command boundary (R652, R656). -/
def unitIdle (s : State) (u : Nat) : Bool :=
  match unitClass u with
  | 1 => match partHolding s u with
    | some p => (getPart s p).run.isNone
    | none => true
  | 2 => (getEngine s (unitNumber u)).run.isNone
  | _ => true

/-- An engine that comes out of OFF has its images from the firmware's copies and its slots as after STRUCT_SWITCH
(R233, R656). -/
def reloadEngine (s : State) (e : Nat) : State :=
  modEngine s e (fun x => { x with slots := x.slots.map (fun y =>
    match y.active with
    | some i => { y.fresh i.bytes with
      active := some { i with usable := true }, standby := y.standby.map (fun j => { j with usable := true }) }
    | none => y) })

/-- What a sector loses on entering OFF (R656): its configuration and everything it holds. -/
def resetSector (x : Sector) : Sector := { Sector.reset with fenced := x.fenced }

/-- A unit reaches a state. -/
def enterUnit (s : State) (u : Nat) (v : BitVec 2) : State :=
  let was := unitState s u
  let s1 := setUnit { s with power := { s.power with moves := s.power.moves.filter (fun m => m.1 != u) } } u v
  match unitClass u with
  | 1 => if v = 0 then { s1 with field := { s1.field with sectors := s1.field.sectors.modify (unitNumber u) resetSector } } else s1
  | 2 => if was = 0 ∧ v = 2 then reloadEngine s1 (unitNumber u) else s1
  | _ => if v = 0 then loseContents s1 u else s1

/-- A POWER record (R611, R663): from and to codes and the cause. -/
def huskPower (s : State) (source from_ dest cause : Nat) : State :=
  huskRequest s 0x09 source (leBytes 1 from_ ++ leBytes 1 dest ++ leBytes 1 cause)

/-- Whether a discarded request at a unit is recorded (R663): the unit belongs to a partition with HARD or SAFETY work, or
holds an allocation of a session that owns a HARD queue. -/
def drainMatters (s : State) (u : Nat) : Bool :=
  (match partHolding s u with | some p => partHard s p | none => false)
  || s.cmds.allocs.any (fun a => rangeTouches s u a.addr a.bytes &&
      s.cmds.sqs.any (fun q => q.cls == 2 && some q.session == a.session))

/-- A unit's drain ends (R662): it enters its target state, and the first discarded write is recorded where R663 asks. -/
def endDrain (s : State) (d : Drain) : State :=
  let s1 := { s with power := { s.power with drains := s.power.drains.filter (fun x => x.unit != d.unit) } }
  let s2 := enterUnit s1 d.unit d.target
  match d.discarded with
  | some src => if drainMatters s d.unit then huskPower s2 src 3 d.target.toNat 0 else s2
  | none => s2

/-- The codes of all units of a class that are ON. -/
def unitsOn (cls : Nat) (l : List (BitVec 2)) : List Nat :=
  ((List.range l.length).filter (fun i => l.getD i 0 == 2)).map (fun i => cls * 65536 + i)

/-! VDD_MAIN (R651, R731). -/

/-- The fuses' trim in mV, −20 to +60 in steps of 5 (R731). -/
def vddTrim : Int := 5 * max (-4) (min 12 Config.vddTrim)

/-- The set-point of a profile in mV (R731), by its code of R647: its own voltage and the trim, clamped. -/
def vddSetPoint (v : Nat) : Nat :=
  let base : Int := if v = 5 then 700 else if v = 4 then 600 else 550
  (max 550 (min 800 (base + vddTrim))).toNat

/-- Command a VDD_MAIN set-point over AVSBus (R731). -/
def setVdd (s : State) (mv : Nat) : State :=
  if s.power.vddMain = mv then s else emit { s with power := { s.power with vddMain := mv } } (.avs mv)

/-- A change to profile `v` raises VDD_MAIN when it begins (R651). STANDBY, for which R731 gives no set-point, leaves it as it is
(DESIGN CHOICE, log entry 126). -/
def raiseVdd (s : State) (v : Nat) : State :=
  if 3 ≤ v ∧ s.power.vddMain < vddSetPoint v then setVdd s (vddSetPoint v) else s

/-- It lowers VDD_MAIN when it ends (R651). -/
def lowerVdd (s : State) (v : Nat) : State := if 3 ≤ v then setVdd s (vddSetPoint v) else s

/-- Raise MAIN_PWR_EN towards ACTIVE_FULL (R648, R731, R733). -/
def mainPowerOn (s : State) : State :=
  raiseVdd { s with power := { s.power with mainPwrEn := true, transition := some 5 } } 5

/-- Begin a change of the device's state (R648, R666): towards STANDBY every unit that is ON starts towards RETAIN,
the slices once the sectors and engines are down. -/
def startProfile (s : State) (v : Nat) : State :=
  let p := s.power
  if v = p.state then s
  else
    let s1 := raiseVdd { s with power := { p with transition := some v } } v
    if v = 2 then
      let s2 := { s1 with power := { s1.power with saved := some (p.sectors, p.engines, p.slices) } }
      (unitsOn 1 p.sectors ++ unitsOn 2 p.engines).foldl (fun s u => startUnit s u 1 srcCp) s2
    else s1

/-- On the way to STANDBY the slices drain once no sector or engine is ON (R666). -/
def standbySlices (s : State) : State :=
  if s.power.transition = some 2 ∧ countOn s.power.sectors = 0 ∧ countOn s.power.engines = 0 then
    (unitsOn 3 s.power.slices).foldl (fun s u => startUnit s u 1 srcCp) s
  else s

/-- Whether everything that a transition towards STANDBY waits for is done. -/
def standbyReady (s : State) : Bool :=
  countOn s.power.sectors == 0 && countOn s.power.engines == 0 && s.power.slices.all (fun v => v != 2 && v != 3)

/-- LPDDR leaves self-refresh (R648, R656): the banks that it kept are ON again. -/
def leaveSelfRefresh (s : State) : State :=
  if s.power.selfRefresh then
    { s with power := { s.power with selfRefresh := false, banks := s.power.banks.map (fun b => if b = 1 then 2 else b) } }
  else s

/-- The transition of the device between ACTIVE profiles or to and from STANDBY ends (R648): its POWER record, the
profile in force, LPDDR's self-refresh and, on waking, the unit states held before. -/
def endProfile (s : State) (v : Nat) : State :=
  let p := s.power
  let s1 := huskPower (lowerVdd { s with power := { p with
    state := v, transition := none, profile := if 3 ≤ v then v else p.profile } } v) srcCp p.state v 0
  if v = 2 then setUnit s1 0x4FFFF 1
  else if p.state = 2 then
    let s2 := leaveSelfRefresh s1
    match p.saved with
    | some x =>
      let s3 := (List.range 9).foldl (fun s e => if p.engines.getD e 0 = 0 ∧ x.2.1.getD e 0 = 2 then reloadEngine s e else s) s2
      { s3 with power := { s3.power with sectors := x.1, engines := x.2.1, slices := x.2.2, saved := none } }
    | none => s2
  else s1

end Sys2Proof.Machine
end

