-- ==== Sys2Proof/Machine/SafetyOps.lean ====
section
/-!
DEFINITION. Machine/SafetyOps.lean: stop mode, STO, what a main-domain reset takes with it, the safe state and its
restart, and the Tracer's registers (R122, R158, R570–R590, R667).
-/
namespace Sys2Proof.Machine

/-! Plan groups and stop mode (R570–R576). -/

/-- Whether the running Plate defines plan group `g` (R505). -/
def groupValid (s : State) (g : Nat) : Bool := wbit (wat (s.plate.groups.getD g []) 3) 31

def getGroup (s : State) (g : Nat) : Group := s.servo.groups.getD g Group.reset
def modGroup (s : State) (g : Nat) (f : Group → Group) : State :=
  { s with servo := { s.servo with groups := s.servo.groups.modify g f } }

/-- The plan group of a channel. -/
def chanGroup (s : State) (c : Nat) : Option Nat := (List.range 16).find? (fun g => (getGroup s g).channels.contains c)

def mapChannels (s : State) (f : Nat → Channel → Channel) : State :=
  { s with servo := { s.servo with channels :=
      (List.range s.servo.channels.length).map (fun i => f i (s.servo.channels.getD i Channel.reset)) } }

/-- A group enters stop mode: each channel decides at its next read instant (R574). A group that is in it stays in it. -/
def enterStop (s : State) (g : Nat) : State :=
  let x := getGroup s g
  if !groupValid s g || x.inStop then s
  else mapChannels (modGroup s g (fun x => { x with inStop := true, stopEntry := now s }))
    (fun i c => if x.channels.contains i then { c with stopping := .due } else c)

/-- Every plan group enters stop mode. -/
def allStop (s : State) : State := (List.range 16).foldl enterStop s

/-- A group leaves stop mode (R576): its channels follow its plan again. -/
def leaveStop (s : State) (g : Nat) : State :=
  let x := getGroup s g
  mapChannels (modGroup s g (fun x => { x with
      inStop := false, live := x.live && s.safety.stoDue.any (fun d => d.1 == .restart) }))
    (fun i c => if x.channels.contains i then { c with stopping := .off } else c)

/-- A channel that is not DISABLED enters STOP (R318). -/
def stopChannel (c : Channel) : Channel :=
  if c.st = .disabled then c else { c with st := .stop, entryDue := true, outside := some .stop }

/-- A channel enters the reaction of its configuration (R318, R325): STOP, or HOLD. One that is in STOP already leaves it by
SERVO_CLEAR_FAULT alone (R323, R586). -/
def reactChannel (stop : Bool) (c : Channel) : Channel :=
  if stop || c.st = .stop then stopChannel c else { c with st := .hold, entryDue := true, outside := some .hold }

/-- Disagreements in a group's window (R572). -/
def windowCount (g : Group) : Nat := ((List.range 16).filter (fun i => g.window.getLsbD i)).length

/-- disagree_max of TRC_STATUS (R590). -/
def disagreeMax (s : State) : Nat := s.servo.groups.foldl (fun n g => max n (windowCount g)) 0

/-! STO and brakes (R582). -/

/-- Whether an E-stop is active (R583). -/
def estopActive (s : State) : Bool := s.safety.openA || s.safety.openB

/-- Whether STO is asserted, its outputs low or on their way. -/
def stoAsserted (s : State) : Bool := s.safety.stoHeld || s.safety.brakeDelay == .sto

/-- Both STO outputs and both brake outputs are low, the request is in every safety message, and every channel that is
not DISABLED enters STOP (R580, R582). -/
def stoDown (s : State) : State :=
  mapChannels { s with safety := { s.safety with
      stoA := false, stoB := false, brakeA := false, brakeB := false, stoRequest := true, stoHeld := true, stoDue := [],
      brakeDelay := .idle, pulse := none } } (fun _ c => stopChannel c)

/-- STO is asserted according to sto_mode (R582): at once, or brake_delay_ms after the brakes. -/
def assertSto (s : State) : State :=
  if stoAsserted s then { s with safety := { s.safety with stoDue := [] } }
  else if protStoMode s = 0 then stoDown s
  else { s with safety := { s.safety with
    brakeA := false, brakeB := false, stoDue := [], brakeDelay := .sto, brakeDelayAt := now s + protBrakeDelay s } }

/-- Whether a channel has come to rest: it is not driven, or its set-point stands on its target, and in stop mode its stop has been
decided and a stop trajectory has reached its rest (R309, R574, R575; DEDUCED, log entry 158). -/
def channelRests (traj : Option Bytes) (c : Channel) : Bool :=
  !isLive c || (c.v == 0 && c.ps == fine c.rPrev &&
    (c.st == .hold || match c.stopping with
      | .due => false
      | .traj => (match traj, c.lastCount with
        | some b, some n => decide (((planOrigin b + restKnot b * planSpacing b : Nat) : Int) ≤ n)
        | _, _ => true)
      | _ => true))

/-- Whether the stops that a cause waits for have come to rest: those of the groups that the restart has not brought back, or every
channel's (R580, R581, R584, R588). -/
def stopsRest (s : State) (cause : StoCause) : Bool :=
  let rests := channelRests s.servo.stopTraj
  match cause with
  | .restart => s.servo.groups.all (fun g => !g.live || g.channels.all (fun c => rests (getChannel s c)))
  | _ => s.servo.channels.all rests

/-- STO that waits for the stops is asserted once they have come to rest. -/
def stoAtRest (s : State) : State := if s.safety.stoDue.any (fun d => stopsRest s d.1) then assertSto s else s

/-- STO follows when the stops have come to rest, no later than 300 ms after `since` (R580, R581, R584). -/
def stoLater (s : State) (cause : StoCause) (since : Nat) : State :=
  if stoAsserted s then s
  else stoAtRest { s with safety := { s.safety with stoDue := s.safety.stoDue ++ [(cause, since)] } }

/-! The main domain goes down (R62, R158, R578). -/

/-- What a reset of the main domain takes from a partition: the routes that wait or run, with their pins, its open slots
and the SECTOR_REMAP that waits. -/
def partDown (p : Partition) : Partition :=
  { p with waiting := [], run := none, spilled := none, spill := none, fenced := none, remap := [], slot := none, check := none }

def engineDown (e : Engine) : Engine :=
  { e with waiting := [], run := none, swapping := e.swapping.map (fun x => (x.1, none)) }

def fieldDown (f : Field) : Field :=
  { f with
    sectors := f.sectors.map resetSector, parts := f.parts.map partDown,
    map := f.map.map (fun m => match m with | .pend k x _ => .pend k x none | y => y) }

/-- The tests that were running end without an outcome. -/
def testDown (t : UnitTest) : UnitTest := { t with running := false }

/-- Whether a command's completion waits for its imprint (R641). -/
def heldByImprint (s : State) (k : CmdKey) : Bool :=
  s.imprints.queue.any (fun j => match j with | .imprint x _ _ => x.owner == k && x.held.isSome | _ => false)

/-- Whether the main domain runs. -/
def mainRuns (s : State) : Bool :=
  decide (2 ≤ s.power.state) && !s.safety.shellFault && !s.ports.jtag
  && (match s.safety.safe with | some x => x.released | none => s.hif.fwReady)

/-- The main domain is quiesced and goes into reset: what runs there is lost; what R158, R517, R579 and R649 bring back stays. Entries
that were submitted and not fetched are submitted again by the doorbell of R159. The peer devices heard before, and the device's role,
stand through the restart although both ports are down: the devices have not gone (DESIGN CHOICE, log entry 141). -/
def mainDown (s : State) : State :=
  let pinned := s.field.parts.foldl (fun s p => (p.run.toList ++ p.spilled.toList ++ p.fenced.toList).foldl releasePins s) s
  let s1 := (List.range 9).foldl reloadEngine pinned
  { s1 with
    hif := { s1.hif with fwReady := false, fifo := [], swapInProgress := false },
    etch := { s1.etch with arming := [], aborts := [] },
    cmds := { s1.cmds with
      outstanding := s1.cmds.outstanding.map (fun o => if heldByImprint s1 o.cmd.key then { o with done := false } else o),
      transfers := [], sqs := s1.cmds.sqs.map (fun q => { q with tail := q.head, bells := [] }) },
    solver := { s1.solver with engines := s1.solver.engines.map engineDown, batches := [] },
    field := fieldDown s1.field,
    loops := s1.loops.map (fun l => { l with stage := none, todo := [], failed := if l.stage.isSome then some stINTERNAL else l.failed }),
    plate := { s1.plate with
      admitted := [], sectorTests := s1.plate.sectorTests.map testDown, engineTests := s1.plate.engineTests.map testDown,
      sliceTests := s1.plate.sliceTests.map testDown },
    safety := { s1.safety with queue := [], check := none },
    boot := { s1.boot with writes := [], swap := none, shellSwap := none, takeover := none },
    imprints := { s1.imprints with queue := [], started := [] },
    sync := { s1.sync with locked := false, good := 0, bad := 0, request := none },
    ports := { s1.ports with
      retrain := none, retrainNext := [], streams := s1.ports.streams.map (fun x => { x with assembly := none }),
      peer := { s1.ports.peer with
        transfers := [], messages := [], ports := s1.ports.peer.ports.map (fun p => { p with up := false }) } } }

/-- At a safe-state trigger every armed etch with a main-domain target is discarded whole and posts no completion (R122):
the state and their number. A fallback that a discarded primary had replaced stands again, when all its targets are the
Shell's. -/
def discardMain (s : State) : Nat × State :=
  let isMain := fun (e : Etch) => e.st == .armed && e.acts.any (fun x => isMainClass x.cls)
  let s1 := (s.etch.etches.filter isMain).foldl restoreFallback s
  let gone := s1.etch.etches.filter isMain
  (gone.length, gone.foldl (fun s e => releaseEtch s e.id) s1)

/-- The groups that hold a live channel at a trigger (R580). -/
def markLive (s : State) : State :=
  { s with servo := { s.servo with groups := s.servo.groups.map (fun g =>
      { g with live := g.channels.any (fun c => isLive (getChannel s c)) }) } }

/-- Steps 1–5 of R578, with the Husk record that `record` asks for: it is given the number of etches discarded. -/
def enterSafe (s : State) (source : Nat) (record : State → Nat → State) : State :=
  let d := discardMain (allStop (markLive s))
  let s1 := mainDown (record d.2 d.1)
  { s1 with
    hif := { s1.hif with safeState := true }
    safety := { s1.safety with
    safe := some { trigger := now s, source := source, seq := nextSeq s, released := false }, windowFrom := some (now s), firstPlan := true } }

/-- A SAFE_STATE record (R611). -/
def huskSafeState (source : Nat) (s : State) (n : Nat) : State :=
  huskRequest s 0x02 source (leBytes 4 source ++ leBytes 2 n ++ leBytes 1 (disagreeMax s))

/-- A safe-state trigger (R577, R578, R581), detected by the unit `source`: with a safe state in progress or the Shell fault
path latched it is only recorded. -/
def safeTrigger (s : State) (source : Nat) : State :=
  if s.safety.safe.isSome || s.safety.shellFault then huskSafeState source s 0
  else enterSafe s source (huskSafeState source)

/-- The SHELL_FW_SWAP that the restart has carried out completes (R604, R620). -/
def endReboot (s : State) : State :=
  match s.boot.reboot with
  | none => s
  | some r =>
    let s1 := { s with boot := { s.boot with reboot := none } }
    if r.failed then done s1 r.cmd stINTERNAL 6 else done s1 r.cmd stOK

/-- The events of a restart (R578, R606), which go before those that were raised during it (R158): SAFE_STATE_ENTERED, or
PROTECTION_REBOOT in its place, and MAIN_RESTARTED. A restart that no trigger began raises MAIN_RESTARTED alone. -/
def restartEvents (s : State) : List AsyncEvent :=
  let prot := match s.boot.reboot with | some r => r.prot | none => false
  let first : List AsyncEvent := match s.safety.safe with
    | some x => [⟨if prot then evPROTECTION_REBOOT else evSAFE_STATE_ENTERED, BitVec.ofNat 64 x.seq.toNat, now s⟩]
    | none => []
  first ++ [⟨evMAIN_RESTARTED, BitVec.ofNat 64 (now s), now s⟩]

/-- Put events before the waiting ones of a session; of more than 64 the oldest are discarded (R156). -/
def leadEvents (l : List AsyncEvent) (x : Session) : Session :=
  let excess := x.events.length + l.length - 64
  { x with events := l ++ Nat.repeat dropOldest excess x.events, discarded := BitVec.ofNat 16 (min (2 ^ 16 - 1) (x.discarded.toNat + excess)) }

/-- Step 10 of R578 ends: fw_ready is set, and the events of the restart are raised. -/
def finishRestart (s : State) : State :=
  let s1 := mapSessions { s with
    safety := { s.safety with safe := none },
    hif := { s.hif with fwReady := true, safeState := false } } (leadEvents (restartEvents s))
  let s2 := (s1.cmds.sessions.map (·.id)).foldl (deliverEvents 8) s1
  keptOut (endReboot s2)

/-- The main domain loses its supply (R647, R656, R667): the device is SHELL_ONLY, and what the main domain and the LPDDR
hold is lost; an armed etch whose targets are all the Shell's stays armed for the Shell to commit. The counts of the etch
committer stay: the reset since which R123 counts is taken to be the Shell's start (DESIGN CHOICE, log entry 116). -/
def mainLost (s : State) (keepShell : Bool) : State :=
  let s1 := mainDown s
  let shell := fun (e : Etch) => keepShell && (e.st == .armed || e.st == .replaced) && !e.acts.any (fun x => isMainClass x.cls)
  let kept := (s1.etch.etches.filter shell).map (fun e => { e with session := none, armCmd := none, stageCmd := none })
  { s1 with
    hif := { s1.hif with shellOnly := true, safeState := s1.safety.safe.isSome, funcs := s1.hif.funcs.map (fun _ => Func.reset),
                         msix := [], latches := [] },
    etch := { s1.etch with etches := kept },
    cmds := { Cmds.reset with generations := s1.cmds.generations },
    boot := { s1.boot with reboot := none },
    ports := { s1.ports with linkUp := false, peer := { s1.ports.peer with windows := [], closed := [] } },
    mem := { s1.mem with dev := [] },
    solver := Solver.reset,
    field := { Field.reset with sectors := s1.field.sectors, map := s1.field.map },
    loops := [],
    plate := { Plate.reset with groups := s1.plate.groups },
    imprints := Imprints.reset,
    power := { s1.power with
      state := 1, transition := none, vddMain := 0, mainPwrEn := false, mainValid := false, sectors := List.replicate 18 0,
      engines := List.replicate 9 0, slices := List.replicate 16 0, banks := List.replicate 8 0, selfRefresh := false,
      drains := [], moves := [], saved := none } }

/-- The Shell fault path (R581): every group stops, the main domain is held in reset, and STO follows and stays latched. -/
def shellFaultPath (s : State) : State :=
  if s.safety.shellFault then s
  else
    let s1 := mainDown (discardMain (allStop (markLive s))).2
    stoLater { s1 with safety := { s1.safety with shellFault := true } } .shellFault (now s1)

/-- A main supply leaves its window, or the Shell drops MAIN_PWR_EN (R577, R670, R735): a safe-state trigger while the
device is ACTIVE or STANDBY, and the main domain is unpowered. -/
def supplyLost (s : State) : State :=
  if 2 ≤ s.power.state then mainLost (safeTrigger s srcShell) true
  else if s.power.mainPwrEn then mainLost s true
  else s

/-! The Tracer's registers (R589, R590). -/

/-- TRC_STATUS. -/
def trcStatus (s : State) : Word :=
  let x := s.safety
  let bit := fun (b : Bool) (i : Nat) => if b then 2 ^ i else 0
  let groups := (List.range 16).foldl (fun n g => n + bit (getGroup s g).inStop g) 0
  BitVec.ofNat 32 (bit x.safe.isSome 31 + bit x.shellFault 30 + bit (!x.stoA && !x.stoB) 29 + bit (!x.brakeA && !x.brakeB) 28
    + bit (estopActive s) 27 + bit x.estopFault 26 + bit x.outputFault 25 + disagreeMax s * 2 ^ 16 + groups)

/-- TRC_HELD. -/
def trcHeld (s : State) : Nat := (List.range 16).foldl (fun n g => n + (getGroup s g).held.toNat * 16 ^ g) 0

/-- The TRC block from 0x00 to 0x23 (R589, R591). -/
def trcBytes (s : State) : Bytes :=
  let x := s.safety
  leBytes 4 (trcStatus s).toNat ++ leBytes 4 0
    ++ leBytes 8 (x.checks.toNat * 2 ^ 32 + x.rejections.toNat * 2 ^ 16 + x.disagreements.toNat)
    ++ leBytes 8 x.lastReject.toNat ++ leBytes 8 (trcHeld s) ++ leBytes 4 (x.e2eBad.toNat * 2 ^ 16 + x.e2eLoss.toNat)

/-- Whether a byte belongs to data that a HARD or SAFETY slot uses (R31, R577): the running Plate's image, the payload of an armed
etch, what a HARD solve reads, and the plans that the scenarios and the STOP solve of a HARD batch have left in their results. -/
def usedByHard (s : State) (a : Nat) : Bool :=
  let inside := fun (lo n : Nat) => decide (lo ≤ a) && decide (a < lo + n)
  let hard := s.plate.parts.any (fun p => hasHardSlot p.slots)
  (hard && s.plate.loaded.any (fun l => s.plate.handle == some l.1 && inside l.1 l.2.length))
  || (hard && s.etch.etches.any (fun e => e.st == .armed && e.acts.any (fun x => match actionRange x with
      | some r => inside r.1 r.2
      | none => false)))
  || s.solver.engines.any (fun e => match e.run with
      | some r => r.job.cls == 2 && (inside r.job.delta r.packet.length || r.guards.any (fun g => inside g.lo (g.hi - g.lo)))
      | none => false)
  || s.solver.batches.any (fun b => b.cls == 2 && (inside b.desc b.descLen || inside b.stopPlanAddr b.stopPlanLen
      || b.scenarios.any (fun x => inside x.planAddr x.planLen)))

/-- An uncorrectable error at a device address (R31, R417, R577): its record, and a safe-state trigger when it lies in LPDDR data that a
HARD or SAFETY slot uses. -/
def uncorrectableAt (s : State) (k source : Nat) : State :=
  let s1 := noteUncorrectable s k source
  if lpddrBase ≤ k ∧ k < hostBase ∧ usedByHard s k then safeTrigger s1 srcShell else s1

end Sys2Proof.Machine
end

