-- ==== Sys2Proof/Machine/Can.lean ====
section
/-!
DEFINITION. Machine/Can.lean: the commands and events of the CAN FD ports (R697, R698, R721).
-/
namespace Sys2Proof.Machine

/-- CAN_CONFIG (R698, R721, R752). -/
def execCanConfig (t : Nat) (c : Cmd) (port : BitVec 2) (window : Word) (offset : DWord) (s : State) : Out :=
  host s t c true (fun s => orFail s c (readWindow s c window offset.toNat 32) (fun h =>
    if 64 < cbFilters h then done s c stBAD_DESCRIPTOR
    else orFail s c (readWindow s c window offset.toNat (32 + 8 * cbFilters h)) (fun b =>
      if !canBlockOk b then done s c stBAD_DESCRIPTOR
      else if cbEnable b ∧ !inEnvelope s (sessionOf s c) (cbRing b) (80 * cbRecords b) then done s c stPROTECTION
      else done (modCan s port.toNat (fun p => { p with block := b, index := 0, busOff := false })) c stOK)))

/-- What refuses a CAN_SEND (R11, R63–R65, R697, R721, R752). -/
def canRefusal (s : State) (c : Cmd) (p : CanPort) (fd : Bool) (data n : Nat) (point : PhaseValue) : Option Status :=
  if (fd && !p.block.isEmpty && !cbFd p.block)
      || (point != pvZero && !(pvOk point && pvDirectionOk s point && pvPermitted s (partOf s c) point)) then
    some stBAD_DESCRIPTOR
  else if n != 0 && !inEnvelope s (sessionOf s c) data n then some stPROTECTION
  else if 64 ≤ p.queue.length then some stNO_RESOURCE
  else if n = 0 then none
  else accessStatus s data n false

/-- CAN_SEND (R697, R721): the frame joins the port's transmit queue; its data are read now. -/
def execCanSend (t : Nat) (c : Cmd) (port : BitVec 2) (ident : BitVec 29) (extended fd brs : Bool) (length : BitVec 7)
    (data : DWord) (point : PhaseValue) (s : State) : Out :=
  host s t c (okCanSend ident extended fd brs length) (fun s =>
    match canRefusal s c (getCan s port.toNat) fd data.toNat length.toNat point with
    | some st => done s c st
    | none =>
      let b := readKey s.mem data.toNat length.toNat
      let f : CanFrame := { cmd := c, ident := ident, extended := extended, fd := fd, brs := brs, data := b,
                            point := if point = pvZero then none else some point }
      modCan s port.toNat (fun p => { p with queue := p.queue ++ [f] }))

/-- A frame that waits for nothing. -/
def canReady (f : CanFrame) : Bool := f.point.isNone

/-- The frame of a command may be sent: it follows those that became ready before it. -/
def readyFrame (k : CmdKey) (l : List CanFrame) : List CanFrame :=
  match l.find? (fun f => f.cmd.key == k) with
  | none => l
  | some f =>
    let rest := l.filter (fun g => g.cmd.key != k)
    rest.filter canReady ++ [{ f with point := none }] ++ rest.filter (fun g => !canReady g)

/-- CAN_SEND_MATCH (R66, R697). -/
def execCanSendMatch (t : Nat) (cmd : CmdKey) (s : State) : Out :=
  event s t (fun s =>
    let due := fun (f : CanFrame) => f.cmd.key == cmd && (match f.point with | some v => pvReached s v | none => false)
    { s with ports := { s.ports with can := s.ports.can.map (fun p =>
      if p.queue.any due then { p with queue := readyFrame cmd p.queue } else p) } })

/-- CAN_FRAME_SENT (R697, R720, R721): the port's next ready frame has been sent, and its command completes with the stamp. -/
def execCanFrameSent (t : Nat) (port : Nat) (s : State) : Out :=
  event s t (fun s =>
    let p := getCan s port
    match p.queue.find? canReady with
    | none => s
    | some f =>
      if !canRuns p || cbListen p.block || p.busOff || (f.fd && !cbFd p.block) then s
      else
        let s1 := modCan s port (fun p => { p with queue := p.queue.filter (fun g => g.cmd.key != f.cmd.key), sent := satInc p.sent })
        done (emit s1 (.can port f.ident f.extended f.fd f.brs f.data)) f.cmd stOK (now s1))

/-- CAN_FRAME_RX (R697, R698, R720): an accepted frame becomes a record of the ring, which the Shell keeps while the main
domain does not run. An FD frame at a port that receives none is an error frame. -/
def execCanFrameRx (t : Nat) (port : Nat) (ident : BitVec 29) (extended fd brs : Bool) (data : Bytes) (s : State) : Out :=
  event s t (fun s =>
    let p := getCan s port
    if !canRuns p || p.busOff then s
    else if fd && !cbFd p.block then modCan s port (fun p => { p with errors := satInc p.errors })
    else if !canAccepts p.block ident extended then s
    else
      let s1 := modCan s port (fun p => { p with received := satInc p.received })
      let r := canRecord s.phase.shadow ident extended fd brs data
      if s.hif.fwReady then ringPut s1 port r
      else modCan s1 port (fun p => if p.kept.length < 256 then { p with kept := p.kept ++ [r] } else p))

/-- CAN_BUS_OFF (R697, R720). -/
def execCanBusOff (t : Nat) (port : Nat) (s : State) : Out :=
  event s t (fun s => modCan s port (fun p =>
    if canRuns p ∧ !p.busOff then { p with busOff := true, busOffs := satInc p.busOffs } else p))

/-- CAN_BUS_OFF_RECOVERY (R697): 128 occurrences of 11 recessive bits have passed. -/
def execCanBusOffRecovery (t : Nat) (port : Nat) (s : State) : Out :=
  event s t (fun s => modCan s port (fun p => { p with busOff := false }))

end Sys2Proof.Machine
end

