-- ==== Sys2Proof/Machine/QueueOps.lean ====
section
/-!
DEFINITION. Machine/QueueOps.lean: where a queue is placed and how it moves to another partition (R498, R538–R543).
-/
namespace Sys2Proof.Machine

/-- Whether a mode accepts a queue class (R498). -/
def modeAccepts (mode cls : Nat) : Bool := decide (mode ≤ 1) || (mode == 2 && cls == 0)

/-- Whether a partition of the running Plate accepts a class. -/
def partAccepts (s : State) (p cls : Nat) : Bool := peValid (partEntry s p) && modeAccepts (peMode (partEntry s p)) cls

/-- Bytes of a session's allocations in a partition's share (R539). -/
def shareBytes (s : State) (p : Nat) (session : Word) : Nat :=
  let e := partEntry s p
  let lo := peFirstSlice e * sliceBytes
  let hi := lo + peSliceCount e * sliceBytes
  (s.cmds.allocs.filter (fun a => a.session == some session)).foldl (fun n a => n + (min hi (a.addr + a.bytes) - max lo a.addr)) 0

/-- A session's resident images on a partition's engines (R539). -/
def engineImages (s : State) (p : Nat) (session : Word) : Nat :=
  ((List.range 9).filter (solveGranted s p)).foldl (fun n e =>
    n + ((getEngine s e).images.filter (fun i => i.session == some session)).length) 0

/-- The sum of the share weights of the sessions bound to a partition (R539). -/
def boundWeight (s : State) (p : Nat) : Nat :=
  ((s.cmds.sqs.filter (fun q => q.part == p)).map (·.session)).eraseDups.foldl (fun n id =>
    n + (match findSession s id with | some x => x.share.toNat | none => 0)) 0

/-- Whether partition `a` is preferred to `b` for a queue of the session (R539); equal ones keep the lower id. -/
def placeBefore (s : State) (session : Word) (a b : Nat) : Bool :=
  let x := shareBytes s a session
  let y := shareBytes s b session
  if x ≠ y then decide (y < x)
  else
    let i := engineImages s a session
    let j := engineImages s b session
    if i ≠ j then decide (j < i)
    else decide (boundWeight s a < boundWeight s b)

/-- The partition in which the firmware places a queue (R539), among those that the function may use. -/
def choosePart (s : State) (fn : Nat) (session : Word) (cls : Nat) : Option Nat :=
  match (List.range 16).filter (fun p => partAccepts s p cls && fnPartition s fn p) with
  | [] => none
  | p :: ps => some (ps.foldl (fun m x => if placeBefore s session x m then x else m) p)

/-- A queue enters ERROR (R135): nothing more is fetched from it, and its session is told. -/
def queueError (s : State) (q : Nat) : State :=
  match findSq s q with
  | none => s
  | some x => if x.error then s
    else eventTo (modSq s q (fun x => { x with error := true })) evQUEUE_ERROR (BitVec.ofNat 64 q) x.session

/-- A waiting route goes to a partition of another size only when its program allows that size (R364). -/
def routeFits (s : State) (w : WaitingRoute) (p : Nat) : Bool :=
  !w.op.isEmpty || (rpSizes w.program).testBit (peSizeLog2 (partEntry s p))

/-- Let a route wait in a partition, or refuse it there. -/
def placeRoute (s : State) (w : WaitingRoute) (p : Nat) : State :=
  let x := { w with part := p }
  if routeFits s w p then modPart s p (fun y => { y with waiting := y.waiting ++ [x] })
  else done (admittedEnd s w.cmd.key) w.cmd stBAD_DESCRIPTOR

/-- A running route at a migration stamp (R541): a restartable one waits again, in partition `p`; any other completes with
INTERNAL and result 5. -/
def migrateRoute (s : State) (old p : Nat) (r : RouteRun) : State :=
  if restartable s.mem r.job then placeRoute (leavePart s old r) r.job p
  else failRoute s old r 5

/-- The same for a spilled or fenced unit, which is not the partition's running one. -/
def migrateAside (s : State) (old p : Nat) (r : RouteRun) : State :=
  let run := (getPart s old).run
  afterRoute (modPart (migrateRoute s old p { r with start := now s }) old (fun y => { y with run := run })) old

/-- A running solve at a migration stamp (R541) is stopped and waits again on its engine. -/
def requeueSolve (s : State) (e : Nat) (r : Run) : State :=
  let s1 := chargeRun (modEngine s e (fun x => { x with run := none })) r
  modEngine s1 e (fun x => { x with waiting := { r.job with epoch := x.epoch } :: x.waiting })

/-- Whether the completion of a partition's route, or of an engine's solve, still waits behind the migration stamp `t` that a command
gives: it is ordered first, and stands (R70, R543). -/
def routeEnding (s : State) (t : Option Nat) (p : Nat) : Bool :=
  s.pending.any (fun i => match i with | .routeComplete u x => t == some u && x == p | _ => false)
def solveEnding (s : State) (t : Option Nat) (e : Nat) (r : Run) : Bool :=
  r.writing && s.pending.any (fun i => match i with | .solveComplete u x => t == some u && x == e | _ => false)

/-- The solves of a queue go with it: an engine that the new partition does not hold is no longer granted to them (R500). -/
def moveSolves (s : State) (q p : Nat) (t : Option Nat) : State :=
  (List.range 9).foldl (fun s e =>
    let s1 := match (getEngine s e).run with
      | some r => if r.job.sq = q && !solveEnding s t e r then requeueSolve s e r else s
      | none => s
    let granted := peHasEngine (partEntry s1 p) (grantName s1 e)
    let mine := (getEngine s1 e).waiting.filter (fun w => w.sq == q && w.session.isSome)
    let s2 := modEngine s1 e (fun x => { x with waiting := x.waiting.map (fun w => if w.sq = q then { w with part := p } else w) })
    if granted then s2
    else mine.foldl (fun s w => refuseSolve s e { w with part := p } stPROTECTION) s2) s

/-- A queue moves to partition `p` (R538, R541, R543): its commands go with it, and the partition takes a new epoch; `t` is the
migration stamp of a command, none at the commit of a PLATE_SWAP, which is ordered before every completion of its stamp. A queue
that is in `p` already does not move (DESIGN CHOICE, log entry 155). -/
def moveQueue (s : State) (q p : Nat) (t : Option Nat) : State :=
  match findSq s q with
  | none => s
  | some x =>
    let old := x.part
    if old = p then s
    else
      let s1 := bumpEpoch (modSq s q (fun x => { x with part := p })) p
      let mine := (getPart s1 old).waiting.filter (fun w => w.sq == q && w.cmd.key.src != .firmware)
      let s2 := modPart s1 old (fun y => { y with waiting := y.waiting.filter (fun w => !(w.sq == q && w.cmd.key.src != .firmware)) })
      let s3 := mine.foldl (fun s w => placeRoute s w p) s2
      let hits := fun (r : RouteRun) => r.job.sq == q && r.job.cmd.key.src != .firmware
      let s4 := match (getPart s3 old).run with
        | some r => if hits r && !routeEnding s3 t old then afterRoute (migrateRoute s3 old p r) old else s3
        | none => s3
      let s5 := match (getPart s4 old).spilled with
        | some r => if hits r then migrateAside (modPart s4 old (fun y => { y with spilled := none })) old p r else s4
        | none => s4
      let s6 := match (getPart s5 old).fenced with
        | some r => if hits r then migrateAside (modPart s5 old (fun y => { y with fenced := none })) old p r else s5
        | none => s5
      let s7 := moveSolves s6 q p t
      { s7 with
        solver := { s7.solver with batches := s7.solver.batches.map (fun b => if b.sq = q then { b with part := p } else b) },
        plate := { s7.plate with admitted := s7.plate.admitted.map (fun a =>
          if a.key.src = .queue (BitVec.ofNat 18 q) then { a with part := p } else a) } }

/-- A queue whose partition no longer accepts it (R540): placed again by the firmware if it placed it, else in ERROR. -/
def placeAgain (s : State) (x : SubQueue) : State :=
  if partAccepts s x.part x.cls then s
  else if x.placed then
    match choosePart s x.fn x.session x.cls with
    | some p => moveQueue s x.id p none
    | none => queueError s x.id
  else queueError s x.id

end Sys2Proof.Machine
end

