-- ==== Sys2Proof/Machine/EtchCommit.lean ====
section
/-!
DEFINITION. Machine/EtchCommit.lean: what the actions of an etch do at its commit (R46, R84, R88–R91, R100–R104, R115,
R233, R304, R317, R513, R516, R537, R540, R542, R570–R576, R653, R750).
-/
namespace Sys2Proof.Machine

/-! PLATE_SWAP (R513, R516, R537–R542). -/

/-- The plan groups of an image: their channel sets replace the running ones; a group whose set changes has no plan in
force any more (R304, R516). -/
def loadGroups (s : State) (groups : List (List Word)) : State :=
  { s with
    plate := { s.plate with groups := groups },
    servo := { s.servo with groups := (List.range 16).map (fun g =>
      let x := s.servo.groups.getD g Group.reset
      let cs := groupChannels (groups.getD g [])
      if cs = x.channels then x
      else { x with channels := cs, plan := none, inStop := x.inStop && wbit (wat (groups.getD g []) 3) 31 }) } }

/-- The places of a partition whose unit changes: its sectors, engines or slices. -/
def unitsDiffer (a b : List Word) : Bool :=
  peValid a != peValid b ||
  (peValid a && (peFirst a != peFirst b || peSizeLog2 a != peSizeLog2 b || peEngines a != peEngines b
    || peSliceCount a != peSliceCount b || peFirstSlice a != peFirstSlice b))

/-- The partition whose entry grants engine `n`. -/
def engineHolder (es : List (List Word)) (n : Nat) : Option Nat := findIdx (fun e => peValid e && peHasEngine e n) es

/-- The units that run on a changed partition are handled as at a migration (R542). -/
def migratePart (s : State) (p : Nat) : State :=
  let s1 := match (getPart s p).run with | some r => afterRoute (migrateRoute s p p r) p | none => s
  let s2 := match (getPart s1 p).spilled with
    | some r => migrateAside (modPart s1 p (fun y => { y with spilled := none })) p p r
    | none => s1
  match (getPart s2 p).fenced with
  | some r => migrateAside (modPart s2 p (fun y => { y with fenced := none })) p p r
  | none => s2

/-- An engine that moves between partitions takes a new epoch, and its running solve waits again (R516, R542). -/
def moveEngine (s : State) (n : Nat) : State :=
  let s1 := modEngine s n (fun x => { x with epoch := x.epoch + 1 })
  match (getEngine s1 n).run with | some r => requeueSolve s1 n r | none => s1

/-- The waiting solves of an engine that the Plate no longer grants to their partitions complete with PROTECTION (R500). -/
def dropUngranted (s : State) (n : Nat) : State :=
  ((getEngine s n).waiting.filter (fun w => !solveGranted s w.part n)).foldl (fun s w => refuseSolve s n w stPROTECTION) s

/-- The spill areas of the partitions that run in SPILL (R537). -/
def spillAreas (s : State) : List (Nat × Nat) :=
  (List.range 16).filterMap (fun p =>
    let n := spillBytes [partEntry s p]
    if n = 0 then none else some (p, n))

/-- The image's entries, slots, header and plan groups replace the running ones for the partitions named (R513, R516). -/
def swapCommit (s : State) (named : List Nat) (b : Bytes) (handle count : Nat) : State :=
  let before := (List.range 16).map (partEntry s)
  let s1 := loadGroups s ((List.range 16).map (plGroup b))
  let s2 := { s1 with
    plate := { s1.plate with
      isDefault := false, header := plHeader b, handle := some handle, origin := count, cycles := 0,
      parts := (List.range 16).map (fun n => if named.contains n then plPart b n
        else s1.plate.parts.getD n { entry := [], slots := [], maps := [] }) },
    field := { s1.field with parts := (List.range 16).map (fun n =>
      let x := s1.field.parts.getD n Partition.reset
      if named.contains n then { x with override := PartOverride.none, slot := none, check := none }
      else { x with slot := none, check := none }) } }
  let after := (List.range 16).map (partEntry s2)
  let s2 := reshapeShares s s2
  let s3 := { s2 with plate := { s2.plate with spills := spillAreas s2 } }
  let changed := named.filter (fun n => unitsDiffer (before.getD n []) (after.getD n []))
  let s4 := changed.foldl (fun s p => migratePart (bumpEpoch s p) p) s3
  let moved := (List.range 9).filter (fun n => engineHolder before n != engineHolder after n)
  let s5 := moved.foldl moveEngine s4
  let s6 := (s5.cmds.sqs.filter (fun q => named.contains q.part)).foldl placeAgain s5
  (List.range 9).foldl dropUngranted s6

/-! Power actions (R103, R653, R665). -/

/-- The bound of an admitted command that waits, at the clock of the profile in force (R520, R652). -/
def boundNow (s : State) (a : Admitted) : Nat :=
  match (getPart s a.part).waiting.find? (fun w => w.cmd.key == a.key) with
  | some w => routeBound s w
  | none =>
    (List.range 9).foldl (fun n e => (getEngine s e).waiting.foldl (fun n w =>
      if solveOf a.key w.owner then max n (waitingBound s e w) else n) n) 0

/-- A waiting command leaves its unit's queue with a status. -/
def refuseWaiting (s : State) (k : CmdKey) (st : Status) : State :=
  let s1 := s.field.parts.foldl (fun s p => (p.waiting.filter (fun w => w.cmd.key == k)).foldl (fun s w => refuseRoute s w.part w st) s) s
  let s2 := (List.range 9).foldl (fun s e =>
    ((getEngine s e).waiting.filter (fun w => match w.owner with | .command c => c.key == k | _ => false)).foldl
      (fun s w => refuseSolve s e w st) s) s1
  match findBatch s2 k with
  | some b => admittedEnd (done (dropBatch (stopSolves s2 (solveOf k)) k) b.cmd st) k
  | none => s2

/-- The commands of a partition that fail the test of R523 at the present clock, in deadline order. -/
def failingHard (s : State) (p : Nat) : List CmdKey :=
  let mine := s.plate.admitted.filter (fun a => a.part == p)
  let waiting := sortBy (fun a b => decide (timeUntil s a.deadline < timeUntil s b.deadline)) (mine.filter (fun a => a.started.isNone))
  (waiting.foldl (fun (acc : Nat × List CmdKey) a =>
    let n := acc.1 + boundNow s a + 4000
    if n ≤ timeUntil s a.deadline then (n, acc.2) else (acc.1, acc.2 ++ [a.key])) (blocking s p + runningBound s mine, [])).2

/-- At a change to a profile with a lower clock, the admitted HARD commands are tested again (R653). -/
def retestHard (s : State) (profile : Nat) : State :=
  if !lowersClock s profile then s
  else
    let at_ := { s with power := { s.power with profile := profile } }
    let keys := (List.range 16).flatMap (fun p => if peMode (partEntry s p) = 1 then failingHard at_ p else [])
    keys.foldl (fun s k => refuseWaiting s k stNO_RESOURCE) s

/-! Plans (R304, R572, R573, R576). -/

/-- A plan comes into force for a group: `record` is the stamp of its acceptance, none for a held-plan form. -/
def commitPlan (s : State) (g : Nat) (b : Bytes) (record : Option Nat) : State :=
  let s1 := modGroup s g (fun x => { x with
    plan := some { plan := b, accepted := record.isSome }, held := if record.isSome then 0 else satInc x.held })
  let s2 := mapChannels s1 (fun i c => if (getGroup s1 g).channels.contains i then { c with planEnd := false } else c)
  match record with
  | none => s2
  | some t =>
    let s3 := if s2.safety.firstPlan then
        { s2 with servo := { s2.servo with groups := s2.servo.groups.map (fun x => { x with window := 0 }) },
                  safety := { s2.safety with firstPlan := false } }
      else s2
    let x := getGroup s3 g
    let down := match s3.safety.safe with | some y => !y.released | none => false
    let s4 := if x.inStop && decide (x.stopEntry ≤ t) && !estopActive s3 && !stoAsserted s3 && !down then leaveStop s3 g else s3
    match s4.safety.safe with
    | some y => if y.released then finishRestart s4 else s4
    | none => s4

/-! One action. -/

/-- A run-time parameter of an engine slot (R235). -/
def paramWrite (s : State) (x : EtchAction) : State :=
  let v := actValue x
  modSlot s x.index (x.item / 256 % 8) (fun y => { y with params :=
    match x.item % 256 with
    | 1 => { y.params with iterations := v }
    | 2 => { y.params with tau := BitVec.ofNat 32 v }
    | 3 => { y.params with feasTol := BitVec.ofNat 32 v }
    | _ => { y.params with emitPlan := v == 1 } })

/-- A partition parameter (R88, R89). -/
def partWrite (s : State) (x : EtchAction) : State :=
  let v := some (actValue x)
  modPart s x.index (fun y => { y with override :=
    match x.item with
    | 1 => { y.override with proof := v }
    | 2 => { y.override with spdMode := v }
    | 3 => { y.override with rtPorts := v }
    | 4 => { y.override with mapIndex := v, slotMap := none }
    | _ => { y.override with waitLimit := v } })

/-- The effect of one action at its commit, `source` being the match's source number; PLATE_SWAP acts with the others of
its etch. -/
def applyAction (s : State) (e : Etch) (source : Nat) (x : EtchAction) (b : Bytes) : State :=
  match x.cls with
  | 0x01 =>
    if x.typ = 1 then paramWrite s x
    else
      let v := BitVec.ofNat 16 (actValue x)
      modSlot s x.index (verSlot v) (fun y => y.switchTo v)
  | 0x02 => if x.typ = 1 then partWrite s x
            else modPart s x.index (fun y => { y with override := { y.override with slotMap := some b } })
  | 0x03 => { s with loops := s.loops.map (fun l => if l.part = x.index then { l with policy := some b } else l) }
  | 0x05 => applyBlock s x.index (toWords 8 b)
  | 0x06 => if x.index = 0 then startProfile (retestHard s (actValue x)) (actValue x)
            else startUnit s x.index (BitVec.ofNat 2 (actValue x)) source
  | 0x07 => { s with ports := { s.ports with macs := s.ports.macs.modify (x.index - 0x100) (fun m =>
      { m with gates := b, entry := 0, elapsed := 0 }) } }
  | 0x10 => commitPlan s x.index b ((e.records.find? (fun r => r.1 == x.index)).map (·.2))
  | 0x11 => { s with servo := { s.servo with stopTraj := some b } }
  | 0x12 => modChannel s x.index (fun c => { c with nextBlock := some (toWords 32 b) })
  | 0x13 => { s with safety := { s.safety with limits := s.safety.limits.set x.index (some b) } }
  | 0x14 => moveEncoderSources { s with ports := { s.ports with encoders := s.ports.encoders.modify x.index (fun y =>
      { y with invert := wbit (wordAt b 0) 0, offset := BitVec.ofNat 64 (dwordAt b 1) }) } } x.index
  | _ => s

/-! One etch. -/

/-- The Husk record of an etch with husk_record set (R611). -/
def huskEtch (s : State) (e : Etch) (source : Nat) : State :=
  huskRequest s 0x0F source (leBytes 2 e.id ++ leBytes 2 e.hdr.tag.toNat ++ leBytes 1 e.hdr.kind ++ leBytes 3 0
    ++ leBytes 4 (match e.session with | some i => i.toNat | none => 0))

/-- An armed etch commits (R100, R115, R167): all its actions take effect, and it enters COMMITTED. A PLATE_SWAP acts first, so that a
PARAM_WRITE of class 0x02 in the same etch overrides the new entry, and the other actions act in descriptor order, which decides
between a TABLE_SWAP and a PARAM_WRITE of map_index of one partition: R88 and R89 give no order (DESIGN CHOICE, log entry 115). -/
def commitEtch (s : State) (e : Etch) : State :=
  let source := pvSrc e.hdr.commitPoint
  let named := swapParts e.acts
  let s1 := match e.acts.zip e.payloads |>.find? (fun p => p.1.typ == 4) with
    | some p => swapCommit s named p.2 (actValue p.1) (pvPhase e.hdr.commitPoint / 65536)
    | none => s
  let s2 := (e.acts.zip e.payloads).foldl (fun s p => applyAction s e source p.1 p.2) s1
  let s3 := setEtch { s2 with etch := { s2.etch with lastCommit := now s } } e.id .committed
  let s4 := if e.hdr.husk then huskEtch s3 e source else s3
  if e.hdr.kind = 1 then
    let s5 := { s4 with etch := { s4.etch with fallbacks := satInc s4.etch.fallbacks } }
    etchComplete (huskMiss s5 source 4 e.id e.hdr.tag 0 0) e stDEADLINE_MISS (now s)
  else if e.hdr.notify then etchComplete s4 e stOK (now s)
  else releaseEtch s4 e.id

/-- The source number of an etch's arm instant (R97). -/
def armSource (e : Etch) : Nat := match e.armCmd with | some k => srcCmd k | none => srcCp

/-- Whether the target phase of `a` lies before that of `b` in their direction (R39, R104), within half a turn of the phase; a GTC-form
target is its tick. -/
def targetBefore (a b : PhaseValue) : Bool :=
  if pvIsGtc a then decide (pvGtc a < pvGtc b)
  else
    let d := if pvDecreasing a then (pvPhase a + 2 ^ 64 - pvPhase b) % 2 ^ 64 else (pvPhase b + 2 ^ 64 - pvPhase a) % 2 ^ 64
    decide (0 < d) && decide (d < 2 ^ 63)

/-- Whether the match of `a` is ordered before that of `b` in the same tick (R70, R104): by source number, then by target phase
in its direction. -/
def matchBefore (a b : PhaseValue) : Bool := decide (pvSrc a < pvSrc b) || (pvSrc a == pvSrc b && targetBefore a b)

/-- The order of the commits of one tick (R104): by match, then by arm instant. -/
def commitBefore (a b : Etch) : Bool :=
  matchBefore a.hdr.commitPoint b.hdr.commitPoint ||
  (!matchBefore b.hdr.commitPoint a.hdr.commitPoint &&
    (decide (a.armInstant < b.armInstant) || (a.armInstant == b.armInstant && decide (armSource a < armSource b))))

/-- The armed etches whose commit point has matched and that `p` selects commit, in the order of R104 (R107). -/
def commitDue (s : State) (p : Etch → Bool) : State :=
  let due := sortBy commitBefore (s.etch.etches.filter (fun e => e.st == .armed && pvReached s e.hdr.commitPoint && p e))
  due.foldl (fun s e => match findEtch s e.id with
    | some x => if x.st = .armed then commitEtch s x else s
    | none => s) s

/-- A commit point matches: the etches keyed to it commit, after every one whose match is ordered before (R104, R107). -/
def commitAt (s : State) (point : PhaseValue) : State := commitDue s (fun e => !matchBefore point e.hdr.commitPoint)

/-! Frames (R564, R570–R572). -/

/-- A frame of a plan group ends (R570, R571). -/
def frameEnd (s : State) (g : Nat) : State :=
  let x := getGroup s g
  let bad := x.sawReject && !x.sawAccept
  let w : BitVec 16 := (x.window <<< (1 : Nat)) ||| (if bad then 1 else 0)
  let s1 := modGroup s g (fun x => { x with window := w, sawReject := false, sawAccept := false, firstReject := none })
  let s2 := { s1 with safety := { s1.safety with acceptances := s1.safety.acceptances.filter (fun a => a.group != g) } }
  let s3 := match x.firstReject with
    | some b => if x.sawAccept then s2 else huskRequest s2 0x05 srcTracer b
    | none => s2
  if bad then
    let n := windowCount (getGroup s3 g)
    let s4 := { s3 with safety := { s3.safety with disagreements := satInc s3.safety.disagreements } }
    raiseEvent (huskRequest s4 0x06 srcTracer (leBytes 1 g ++ leBytes 1 n)) evDISAGREE_COUNT (n % 16)
  else s3

/-- The arm deadline of a fallback matches (R114, R115, R282, R570): no primary can replace it any more. -/
def deadlineMatched (s : State) (e : Etch) : State :=
  let s1 := modEtch s e.id (fun x => { x with deadlinePassed := true })
  let s2 := if e.st = .replaced then releaseEtch s1 e.id else s1
  let groups := (e.acts.filter (fun x => x.cls == 0x10)).map (·.index)
  let s3 := groups.foldl frameEnd s2
  let mine := s3.solver.batches.filter (fun b => b.fallback == e.id && b.fallback != 0 && !b.closed)
  mine.foldl (fun s b => batchAdvance (modBatch s b.cmd.key (fun y => { y with closed := true })) b.cmd.key) s3

end Sys2Proof.Machine
end

