-- ==== Sys2Proof/Machine/Etch.lean ====
section
/-!
DEFINITION. Machine/Etch.lean: the staging, arming and query commands of family 0x02, and the events of the etch
committer (R82–R115, R166–R168).
-/
namespace Sys2Proof.Machine

/-- The descriptor at a place in a window (R85, R166): its header, then its action entries. -/
def readDescriptor (s : State) (c : Cmd) (window : Word) (offset : Nat) : Except Status (EtchHeader × List EtchAction) :=
  match unlisted (readWindow s c window offset 64) with
  | .error st => .error st
  | .ok h =>
    let n := fld (wordAt h 0) 31 24
    if 64 < n then .error stBAD_DESCRIPTOR
    else match unlisted (readWindow s c window offset (64 + 32 * n)) with
      | .error st => .error st
      | .ok b =>
        match parseEtch s b with
        | none => .error stBAD_DESCRIPTOR
        | some (hdr, acts) =>
          if acts.all (fun x => !inMemory x || inEnvelope s (sessionOf s c) (actValue x) x.length) then .ok (hdr, acts)
          else .error stPROTECTION

/-- Stage the descriptor that a command names (R92–R94, R99). -/
def stageFrom (s : State) (c : Cmd) (window : Word) (offset : Nat) : Except Status (Nat × State) :=
  match readDescriptor s c window offset with
  | .error st => .error st
  | .ok (h, acts) => stageEtch s (sessionOf s c) (fnOf s c) (some c.key) h acts

/-- ETCH_STAGE (R92, R93, R166). -/
def execEtchStage (t : Nat) (c : Cmd) (window : Word) (offset : DWord) (s : State) : Out :=
  host s t c true (fun s => match stageFrom s c window offset.toNat with
    | .error st => done s c st
    | .ok (id, s1) => done s1 c stOK id)

/-- An arm whose checks before the arm instant pass: its payloads and acceptance records are taken now (R96 rows 3–10). -/
def beginArm (s : State) (c : Cmd) (e : Etch) (staged : Bool) : Except Status State :=
  match armRows s (partOf s c) e with
  | .error st => .error st
  | .ok bs =>
    let a : Arming := { etch := e.id, cmd := c, staged := staged, batch := none, payloads := bs, records := planRecords s e.acts bs }
    .ok { s with etch := { s.etch with arming := s.etch.arming ++ [a] } }

/-- ETCH_ARM (R96 rows 1–10, R166): the arm instant is ETCH_ARM_INSTANT. -/
def execEtchArm (t : Nat) (c : Cmd) (etch : BitVec 16) (s : State) : Out :=
  host s t c true (fun s => match armRow12 s c etch.toNat with
    | .error st => done s c st
    | .ok e => match beginArm s c e false with
      | .error st => done (countReject s st) c st
      | .ok s1 => s1)

/-- ETCH_STAGE_ARM (R166, R168): an arm that fails releases the staged etch, whose id its result still names. -/
def execEtchStageArm (t : Nat) (c : Cmd) (window : Word) (offset : DWord) (s : State) : Out :=
  host s t c true (fun s => match stageFrom s c window offset.toNat with
    | .error st => done s c st
    | .ok (id, s1) =>
      match findEtch s1 id with
      | none => done s1 c stBAD_DESCRIPTOR
      | some e => match beginArm s1 c e true with
        | .error st => done (releaseEtch (countReject s1 st) id) c st id
        | .ok s2 => s2)

/-- The code of a state in ETCH_QUERY (R166). -/
def EtchPhase.code : EtchPhase → Nat
  | .staged => 0
  | .armed => 1
  | .committed => 2
  | .expired => 3
  | .aborted => 4
  | .replaced => 5

/-- ETCH_QUERY (R166). -/
def execEtchQuery (t : Nat) (c : Cmd) (etch : BitVec 16) (s : State) : Out :=
  host s t c true (fun s => match findEtch s etch.toNat with
    | none => done s c stBAD_DESCRIPTOR
    | some e =>
      if ownsEtch s c e then done s c stOK (e.st.code + e.changed % 2 ^ 32 * 2 ^ 32) else done s c stPROTECTION)

/-- The arm of a batch's primary or of a command ends with this status; `release` is the etch that its completion
releases. -/
def armOver (s : State) (a : Arming) (st : Status) (release : Option Nat) : State :=
  match a.batch with
  | some k => batchArmed (match release with | some id => releaseEtch s id | none => s) k (if st = stOK then none else some st)
  | none =>
    finish s a.cmd { status := st, stamp := now s, release := release,
                     result := if a.staged then BitVec.ofNat 64 a.etch else 0 }

/-- Whether a completion of a command is posted on a queue. -/
def posts (s : State) (c : Cmd) : Bool := match c.key.src with | .queue _ => isOpen s c.key | _ => false

/-- An arm that fails at its instant (R96 rows 11–14, R106, R118, R168): its etch is released when the arm had staged it,
or when it is now EXPIRED, then by its last completion or at once when none is posted (R95); the committer counts conflicts and
expiries (R123). -/
def armFails (s : State) (a : Arming) (st : Status) : State :=
  let s1 := countReject s st
  if st = stETCH_EXPIRED ∧ !a.staged then
    (if a.batch.isSome || posts s1 a.cmd then armOver (setEtch s1 a.etch .expired) a st (some a.etch)
     else releaseEtch (armOver s1 a st none) a.etch)
  else if a.staged then armOver (if a.etch = 0 then s1 else releaseEtch s1 a.etch) a st none
  else armOver s1 a st none

/-- ETCH_ARM_INSTANT (R96 rows 11–14, R97, R105, R106, R111, R114). -/
def execEtchArmInstant (t etch : Nat) (s : State) : Out :=
  event s t (fun s => match s.etch.arming.find? (fun a => a.etch == etch) with
    | none => s
    | some a =>
      let s1 := { s with etch := { s.etch with arming := s.etch.arming.filter (fun b => b.cmd.key != a.cmd.key || b.etch != etch) } }
      match findEtch s1 etch with
      | none => armFails s1 a stBAD_DESCRIPTOR
      | some e => match armInstantStatus s1 e with
        | some st => armFails s1 a st
        | none => armOver (armEtch s1 e (if a.batch.isSome then none else some a.cmd.key) a.payloads a.records) a stOK none)

/-- ETCH_COMMIT (R66, R100, R104, R107): a commit point matches. -/
def execEtchCommit (t : Nat) (point : PhaseValue) (s : State) : Out :=
  event s t (fun s => if pvReached s point then commitAt s point else s)

/-- FALLBACK_ARM_DEADLINE (R114, R115, R570). -/
def execFallbackArmDeadline (t etch : Nat) (s : State) : Out :=
  event s t (fun s => match findEtch s etch with
    | none => s
    | some e =>
      if e.hdr.kind == 1 && !e.deadlinePassed && (e.st == .armed || e.st == .replaced) && deadlineArrived s e.hdr.armDeadline then
        deadlineMatched s e
      else s)

end Sys2Proof.Machine
end

