-- ==== Sys2Proof/Machine/Hif.lean ====
section
/-!
DEFINITION. Machine/Hif.lean: doorbells, the fetch of entries and their checks, the posting of completions, the admin
mailbox, BAR accesses and MSI-X (R125–R160, R751, R754).
-/
namespace Sys2Proof.Machine

/-! Doorbells (R134–R136, R159). -/

/-- Count a discarded doorbell or head write of a function (R129). -/
def rejectDoorbell (s : State) (fn : Nat) : State := modFunc s fn (fun f => { f with dbReject := satInc f.dbReject })
/-- Count a rejected BAR access of a function (R127, R128). -/
def rejectBar (s : State) (fn : Nat) : State := modFunc s fn (fun f => { f with barReject := satInc f.barReject })

/-- Whether a queue id lies in a function's range (R125). -/
def sqInRange (s : State) (fn q : Nat) : Bool := decide (fnSqBase s fn ≤ q) && decide (q < fnSqBase s fn + fnSqCount s fn)
def cqInRange (s : State) (fn q : Nat) : Bool := decide (fnCqBase s fn ≤ q) && decide (q < fnCqBase s fn + fnCqCount s fn)

/-- A doorbell lost because the FIFO is full (R136). -/
def loseDoorbell (s : State) (fn : Nat) : State :=
  let s1 := modFunc s fn (fun f => { f with dbLost := satInc f.dbLost })
  raiseEvent s1 evDOORBELL_LOST (s1.hif.funcs.getD fn Func.reset).dbLost.toNat (fun x => x.fn == fn)

/-- A doorbell of function `fn` for queue `x` with tail `tail` (R134–R136). -/
def ringQueue (s : State) (fn : Nat) (x : SubQueue) (tail : Nat) : State :=
  let n := (tail + x.depth - x.tail) % x.depth
  let u := (x.tail + x.depth - x.head) % x.depth
  if n = 0 then s
  else if x.depth - 1 - u < n then queueError (rejectDoorbell s fn) x.id
  else if 4096 ≤ s.hif.fifo.length then loseDoorbell s fn
  else
    let s1 := modSq s x.id (fun y => { y with tail := tail })
    { s1 with hif := { s1.hif with fifo := s1.hif.fifo ++ [{ sq := x.id, tail := tail, stamp := now s }] } }

/-- HIF_DOORBELL (R131, R134–R136); ignored while fw_ready is 0 (R130, R740). -/
def execHifDoorbell (t fn : Nat) (value : DWord) (s : State) : Out :=
  event s t (fun s =>
    let q := nfld value.toNat 17 0
    let tail := nfld value.toNat 47 32
    if !s.hif.fwReady then s
    else match findSq s q with
      | none => rejectDoorbell s fn
      | some x =>
        if !fnEnabled s fn || !sqInRange s fn q || x.fn != fn || x.error || decide (x.depth ≤ tail) then rejectDoorbell s fn
        else ringQueue s fn x tail)

/-- HIF_CQ_HEAD (R132, R751). -/
def execHifCqHead (t fn : Nat) (value : DWord) (s : State) : Out :=
  event s t (fun s =>
    let q := nfld value.toNat 15 0
    let head := nfld value.toNat 47 32
    if s.hif.shellOnly then s
    else match findCq s q with
      | none => rejectDoorbell s fn
      | some x =>
        if !fnEnabled s fn || !cqInRange s fn q || x.fn != fn || decide (x.depth ≤ head)
            || decide ((x.tail + x.depth - x.head) % x.depth < (head + x.depth - x.head) % x.depth) then rejectDoorbell s fn
        else modCq s q (fun y => { y with head := head }))

/-! Checks of an entry (R754). -/

/-- Families of the PF only (R161). -/
def pfOnly (family : Nat) : Bool := [0x03, 0x05, 0x09, 0x0A, 0x0C, 0x0E].contains family
/-- Families with an expert level (R13). -/
def hasExpert (family : Nat) : Bool := [0x03, 0x04, 0x05, 0x06, 0x07, 0x0A].contains family
/-- Commands that are always expert level (R378, R591). -/
def alwaysExpert (op : Nat) : Bool := [0x0600, 0x0602, 0x0A01].contains op
/-- Families that take a deadline (R140). -/
def hasDeadlines (family : Nat) : Bool := [0x04, 0x06, 0x07, 0x08].contains family
/-- The bit of word 0 of a function entry that permits a family's expert level (R13, R602). -/
def expertBit (family : Nat) : Nat :=
  match family with
  | 0x06 => 30
  | 0x04 => 29
  | 0x07 => 28
  | _ => 26

/-- Whether every reserved bit and every operand value of an entry is defined (R10, R11, R139, R754 row 3). -/
def entryDefined (s : State) (src : CmdSource) (ws : List Word) (masks : List Word) : Bool :=
  let v := pvOfWords ws 2
  (wat ws 1 &&& mask 27 0) == 0
  && (if entryHasDeadline ws then pvOk v && pvDirectionOk s v else v == pvZero)
  && withinMasks (ws.drop 5) masks
  && (!entryExpert ws || hasExpert (entryFamily ws))
  && (match decodeEntry (now s) src ws with | some i => operandsOk i | none => true)

/-- Rows 2 to 10 of R754 for an entry of function `fn` and partition `part`: the status of the first check that fails. -/
def entryStatus (s : State) (src : CmdSource) (fn part : Nat) (ws : List Word) : Option Status :=
  let fam := entryFamily ws
  let op := entryOpcode ws
  let isMailbox := match src with | .mailbox _ => true | _ => false
  match opMasks op with
  | none => some stBAD_DESCRIPTOR
  | some masks =>
    if !entryDefined s src ws masks then some stBAD_DESCRIPTOR
    else if pfOnly fam && fn != 0 then some stPROTECTION
    else if isMailbox && (decide (2 ≤ fam) || op == 0x0002) then some stBAD_DESCRIPTOR
    else if entryHasDeadline ws && !hasDeadlines fam then some stBAD_DESCRIPTOR
    else if (entryExpert ws || alwaysExpert op) && !fnExpert s fn (expertBit fam) then some stPROTECTION
    else if fam == 0x0C && !fnUpdate s fn then some stPROTECTION
    else if !entryHasDeadline ws then none
    else if !pvPermitted s part (pvOfWords ws 2) then some stBAD_DESCRIPTOR
    else if !pvCountValid s (pvOfWords ws 2) then some stNO_RESOURCE
    else if deadlinePassed s (pvOfWords ws 2) then some stDEADLINE_MISS
    else none

/-! Fetching (R136, R137, R141, R144, R666). -/

/-- Whether a completion queue has a free entry (R144). -/
def cqHasRoom (x : ComQueue) : Bool := x.waiting.isEmpty && decide ((x.tail + x.depth - x.head) % x.depth < x.depth - 1)

/-- The firmware takes the doorbells from the FIFO in arrival order (R136). -/
def drainFifo (s : State) : State :=
  let s1 := s.hif.fifo.foldl (fun s d => modSq s d.sq (fun x => { x with bells := x.bells ++ [(d.tail, d.stamp)] })) s
  { s1 with hif := { s1.hif with fifo := [] } }

/-- Families that are not fetched on the way to STANDBY and in it (R666). -/
def standbyHolds (s : State) (family : Nat) : Bool :=
  (s.power.state == 2 || s.power.transition == some 2) && [0x04, 0x06, 0x07, 0x08, 0x0C, 0x0D].contains family

/-- Whether the next entry of a queue, `ws`, may be fetched now: fw_ready, a free completion entry, every earlier command
completed when it asks for that (R139), its family fetched in this power state. -/
def mayFetch (s : State) (x : SubQueue) (ws : List Word) : Bool :=
  s.hif.fwReady && !x.error
  && (match findCq s x.cq with | some c => cqHasRoom c | none => false)
  && (!entryFence ws || !s.cmds.outstanding.any (fun o => o.cmd.key.src == .queue (BitVec.ofNat 18 x.id) && !o.done))
  && !standbyHolds s (entryFamily ws)

/-- The kind of DEADLINE_MISS record that an opcode's command writes (R274, R369): a solve, a batch, a route. -/
def missKind (op : Nat) : Option Nat :=
  if op = 0x0403 then some 1 else if op = 0x0410 then some 2 else if op = 0x0602 ∨ op = 0x0610 then some 3 else none

/-- A command whose deadline arrives before a unit has taken it (R140, R268, R274, R369): one of a HARD queue leaves its record. -/
def missUnstarted (s : State) (c : Cmd) : State :=
  let kind := (findOut s c.key).bind (fun o => missKind (entryOpcode o.entry))
  let s1 := match kind, c.deadline, c.key.src with
    | some k, some d, .queue q => if classOf s c = 2 then huskMiss s (pvSrc d) k q.toNat c.key.id 0 0 else s
    | _, _, _ => s
  missDeadline s1 c

/-- An entry fetched from queue `x` with its doorbell's stamp: a duplicate command_id is refused (R141), any other entry is
outstanding, and one that fails a check completes at once (R754). -/
def admitEntry (s : State) (x : SubQueue) (ws : List Word) (stamp : Nat) : State :=
  let q := BitVec.ofNat 18 x.id
  let c := entryCmd (.queue q) ws
  if (findOut s c.key).isSome then enqueue s q { replyEntry s c.key q (reply stBAD_DESCRIPTOR) with last := false }
  else
    let o : Outstanding := { cmd := c, session := x.session, entry := ws, stamp := stamp, started := false, deferred := false, done := false }
    let s1 := { s with cmds := { s.cmds with outstanding := s.cmds.outstanding ++ [o] } }
    match entryStatus s1 c.key.src x.fn x.part ws with
    | some st => if st = stDEADLINE_MISS then missUnstarted s1 c else done s1 c st
    | none => s1

/-- SQ_ENTRY_FETCH (R137, R139–R141, R144, R754). -/
def execSqEntryFetch (t : Nat) (sq : BitVec 18) (s : State) : Out :=
  event s t (fun s =>
    let s1 := if s.hif.fwReady then drainFifo s else s
    match findSq s1 sq.toNat with
    | none => s1
    | some x =>
      match x.bells with
      | [] => s1
      | b :: rest =>
        let ws := toWords 16 (readKey s1.mem (ringKey x.inDevice x.fn (x.ring + 64 * x.head)) 64)
        if !mayFetch s1 x ws then s1
        else
          let head := (x.head + 1) % x.depth
          let s2 := modSq s1 x.id (fun y => { y with head := head, bells := if head = b.1 then rest else x.bells })
          admitEntry s2 x ws b.2)

/-! Posting completions (R142–R144, R152, R155). -/

/-- Raise a completion queue's vector: nothing of it is unsignalled any more (R155). -/
def signalCq (s : State) (x : ComQueue) : State :=
  raiseVector (modCq s x.id (fun y => { y with unsignalled := 0, firstAt := none })) x.fn x.vector

/-- Step 5 of R152: the session's queues, windows and allocations go; an allocation that holds a payload of a passed etch
stays until the last such etch is final. -/
def closeFinal (s : State) (id : Word) : State :=
  let c := s.cmds
  freePassed { s with cmds := { c with
    sessions := c.sessions.filter (fun x => x.id != id),
    sqs := c.sqs.filter (fun x => x.session != id),
    cqs := c.cqs.filter (fun x => x.session != id),
    outstanding := c.outstanding.filter (fun o => o.session != id || (match o.cmd.key.src with | .queue _ => false | _ => true)),
    windows := c.windows.filter (fun x => x.session != id),
    allocs := c.allocs.map (fun a => if a.session == some id then { a with session := none } else a),
    closing := c.closing.filter (fun x => x != id) } }

/-- A completion that leaves its queue for the ring (R142, R143): its words, the next tail, and the phase of the next pass. -/
def writeCompletion (s : State) (x : ComQueue) (e : Completion) : State :=
  let head := match findSq s e.sq.toNat with | some q => q.head | none => 0
  let tail := (x.tail + 1) % x.depth
  let s1 := putKey s (ringKey x.inDevice x.fn (x.ring + 32 * x.tail)) (ofWords (completionWords x.pass head e))
  modCq s1 x.id (fun y => { y with
    tail := tail, pass := if tail = 0 then !y.pass else y.pass, waiting := y.waiting.drop 1,
    unsignalled := y.unsignalled + 1, firstAt := y.firstAt <|> some (now s) })

/-- What a posted completion ends: its command (R141), the etch that it releases (R95), the close that waited for it
(R152). -/
def afterPost (s : State) (x : ComQueue) (e : Completion) : State :=
  let s1 := if e.last then dropOut s ⟨.queue e.sq, e.cmdId⟩ else s
  let s2 := match e.release with | some id => releaseEtch s1 id | none => s1
  let s3 := match findCq s2 x.id with
    | some y => if e.urgent || y.coalTime = 0 || y.coalCount ≤ y.unsignalled then signalCq s2 y else s2
    | none => s2
  if e.urgent && s3.cmds.closing.contains x.session then closeFinal s3 x.session else s3

/-- COMPLETION_POST (R142–R144): the next completion of a queue with a free entry. -/
def execCompletionPost (t : Nat) (cq : BitVec 16) (s : State) : Out :=
  event s t (fun s => match findCq s cq.toNat with
    | none => s
    | some x =>
      match x.waiting with
      | [] => s
      | e :: _ =>
        if !s.hif.fwReady || decide (x.depth - 1 ≤ (x.tail + x.depth - x.head) % x.depth) then s
        else afterPost (writeCompletion s x e) x e)

/-- CQ_COALESCE_TIMER (R155). -/
def execCqCoalesceTimer (t : Nat) (cq : BitVec 16) (s : State) : Out :=
  event s t (fun s => match findCq s cq.toNat with
    | none => s
    | some x => match x.firstAt with
      | some f => if f + 1000 * x.coalTime ≤ now s then signalCq s x else s
      | none => s)

/-! The mailbox (R147–R149). -/

/-- MAILBOX_DOORBELL (R147–R149, R754). -/
def execMailboxDoorbell (t fn : Nat) (entry : List Word) (s : State) : Out :=
  event s t (fun s =>
    let ws := (List.range 16).map (wat entry)
    let s1 := if s.hif.shellOnly then s else modFunc s fn (fun f => { f with mbxCmd := ws })
    let f := s1.hif.funcs.getD fn Func.reset
    if f.busy then modFunc s1 fn (fun f => { f with overrun := true })
    else if !s1.hif.fwReady || !fnEnabled s1 fn then s1
    else
      let c := entryCmd (.mailbox fn) ws
      let o : Outstanding := { cmd := c, session := 0, entry := ws, stamp := now s1, started := false, deferred := false, done := false }
      let s2 := modFunc s1 fn (fun f => { f with busy := true, overrun := false, respValid := false })
      let s3 := { s2 with cmds := { s2.cmds with outstanding := s2.cmds.outstanding.filter (fun o => o.cmd.key != c.key) ++ [o] } }
      match entryStatus s3 c.key.src fn 0 ws with
      | some st => done s3 c st
      | none => s3)

/-! BAR0 and BAR2 (R126–R128). -/

/-- Whether BAR0 accepts an access (R127). -/
def bar0Accepts (write : Bool) (offset size : Nat) : Bool :=
  (size == 4 || size == 8) && offset % size == 0 &&
  !(write && size == 4 && decide (0x1000 ≤ offset) && decide (offset < 0x1010))

/-- BAR0_BAD_ACCESS (R127): a read completes with Unsupported Request, a write is dropped and counted. -/
def execBar0BadAccess (t fn : Nat) (write : Bool) (offset size : Nat) (s : State) : Out :=
  event s t (fun s =>
    if bar0Accepts write offset size || s.hif.shellOnly then s
    else if write then rejectBar s fn
    else emit s (.unsupported fn))

/-- The window that BAR2 maps at an offset (R128). -/
def bar2Window (s : State) (fn offset size : Nat) : Option Window :=
  s.cmds.windows.find? (fun w => w.fn == fn && (match w.bar2 with
    | some o => decide (o ≤ offset) && decide (offset + size ≤ o + w.length)
    | none => false))

/-- BAR2_ACCESS (R128): all ones outside a window, and where the unit behind it is not ON (R661). -/
def execBar2Access (t fn : Nat) (write : Bool) (offset size : Nat) (data : Bytes) (s : State) : Out :=
  event s t (fun s =>
    if s.hif.shellOnly then s
    else match bar2Window s fn offset size with
      | none => if write then rejectBar s fn else emit s (.readData fn (List.replicate size 0xFF))
      | some w =>
        let a := w.base + (offset - w.bar2.getD 0)
        if write then
          let b := slice data 0 size
          if !w.writable then rejectBar s fn
          else match accessStatus s a size true with
            | some st => if st = stBANK_OFF then noteDiscard s a size srcCp else s
            | none => putKey s a b
        else match accessStatus s a size false with
          | some _ => emit s (.readData fn (List.replicate size 0xFF))
          | none => emit s (.readData fn (readKey s.mem a size)))

/-- REGISTER_WRITE_IGNORED (R9, R16): a write to a read-only register or to reserved bits has no effect. -/
def execRegisterWriteIgnored (t _fn _offset : Nat) (_value : DWord) (s : State) : Out := event s t (fun s => s)

/-- MSIX_VECTOR_CONTROL_WRITE (R126, R155): unmasking a vector that is pending sends its message. The entry's address and data are
what the host has written there, for which the table of commands has no row: free values (log entry 102). -/
def execMsixVectorControlWrite (t fn vector : Nat) (masked : Bool) (s : State) : Out :=
  event s t (fun s =>
    if s.hif.shellOnly || decide (fnMsix s fn ≤ vector) then s
    else
      let pend := s.hif.msix.any (fun e => e.fn == fn && e.vector == vector && e.pend)
      let e : MsixEntry := { fn := fn, vector := vector, addr := Config.msixAddr s.free fn vector,
                             data := Config.msixData s.free fn vector, masked := masked, pend := pend && masked }
      let rest := s.hif.msix.filter (fun e => !(e.fn == fn && e.vector == vector))
      let s1 := takeFree { s with hif := { s.hif with msix := rest ++ [e] } }
      if pend && !masked then emit s1 (.msix fn vector e.addr e.data) else s1)

end Sys2Proof.Machine
end

