-- ==== Sys2Proof/Machine/PeerOps.lean ====
section
/-!
DEFINITION. Machine/PeerOps.lean: the message layer of the peer link: headers, routes, sending, what a received message
tells, and the transfers of PEER_WRITE and PEER_READ (R57, R73, R708–R717).
-/
namespace Sys2Proof.Machine

def modPeer (s : State) (f : Peer → Peer) : State := { s with ports := { s.ports with peer := f s.ports.peer } }
def getPort (s : State) (p : Nat) : PeerPort := s.ports.peer.ports.getD p PeerPort.reset
def modPort (s : State) (p : Nat) (f : PeerPort → PeerPort) : State :=
  modPeer s (fun x => { x with ports := x.ports.modify p f })
def ownNumber (s : State) : Nat := s.ports.peer.number.toNat

/-! Headers (R710, R711). -/

def pmType (h : List Word) : Nat := fld (wat h 0) 31 24
def pmDst (h : List Word) : Nat := fld (wat h 0) 23 22
def pmSrc (h : List Word) : Nat := fld (wat h 0) 21 20
def pmHops (h : List Word) : Nat := fld (wat h 0) 19 18
def pmLength (h : List Word) : Nat := fld (wat h 0) 12 0
def pmSeq (h : List Word) : Word := wat h 1
def pmWindow (h : List Word) : Nat := fld (wat h 2) 31 16
def pmTransfer (h : List Word) : BitVec 16 := BitVec.ofNat 16 (fld (wat h 2) 15 0)
def pmOffset (h : List Word) : Nat := dat h 3
def pmStatus (h : List Word) : Status := BitVec.ofNat 8 (fld (wat h 5) 7 0)

/-- The header with its header_crc over words 0–6. -/
def sealHeader (h : List Word) : List Word := h.take 7 ++ [crc32c (ofWords (h.take 7))]

/-- CRC-32C of a payload, 0 for none (R710). -/
def payloadCrc (b : Bytes) : Word := if b.isEmpty then 0 else crc32c b

/-- Whether a message is whole: its lengths and both CRCs (R710, R711). -/
def intact (h : List Word) (b : Bytes) : Bool :=
  h.length == 8 && pmLength h == b.length && decide (b.length ≤ 4096) && wat h 7 == crc32c (ofWords (h.take 7))
  && wat h 6 == payloadCrc b

/-- What a message says, its src, seq and CRCs apart. -/
structure Message where
  type : Nat
  dst : Nat
  window : Nat := 0
  transfer : BitVec 16 := 0
  offset : Nat := 0
  status : Status := 0
  payload : Bytes := []

/-- The header of a message from device `src` (R710). -/
def makeHeader (src : Nat) (seq : Word) (m : Message) : List Word :=
  sealHeader [BitVec.ofNat 32 (m.type * 2 ^ 24 + m.dst * 2 ^ 22 + src * 2 ^ 20 + m.payload.length), seq,
    BitVec.ofNat 32 (m.window * 2 ^ 16 + m.transfer.toNat), BitVec.ofNat 32 m.offset, BitVec.ofNat 32 (m.offset / 2 ^ 32),
    BitVec.ofNat 32 m.status.toNat, payloadCrc m.payload]

/-! Devices and routes (R73, R708, R709). -/

/-- The devices present, this one among them. -/
def devicesPresent (s : State) : List Nat :=
  (List.range 4).filter (fun d => d == ownNumber s || s.ports.peer.present.getLsbD d)

/-- The number of devices in the ring, which holds at least device `d` (R708). -/
def ringSize (s : State) (d : Nat) : Nat := (devicesPresent s).foldl max d + 1

/-- The port towards device `d` (R709): the one with fewer hops, port 0 when they are equal; the other while its connection is
down and the other's is up. -/
def routePort (s : State) (d : Nat) : Nat :=
  let n := ringSize s d
  let p := if (d + n - ownNumber s) % n ≤ (ownNumber s + n - d) % n then 0 else 1
  if !(getPort s p).up && (getPort s (1 - p)).up then 1 - p else p

/-- The role and the master, from the devices present (R57, R73). The exchanges with one master say nothing of another: the lock,
the runs of exchanges and the open request end when the role or the master changes. master_peer of a standalone device, for which
R57 gives no value, is its own number (DESIGN CHOICE, log entry 112). -/
def setRole (s : State) : State :=
  let l := devicesPresent s
  let m := l.headD 0
  let role : BitVec 3 := if s.ports.peer.present = 0 then 0 else if m = ownNumber s then 1 else 2
  let master : BitVec 2 := if role = 2 then BitVec.ofNat 2 m else s.ports.peer.number
  if role = s.sync.role ∧ master = s.sync.masterPeer then s
  else { s with sync := { s.sync with
    role := role, masterPeer := master, locked := false, good := 0, bad := 0, rateHeld := false, request := none } }

/-! Sending and receiving. -/

/-- A message leaves at a port. -/
def sendAt (s : State) (p : Nat) (h : List Word) (b : Bytes) : State :=
  emit (modPort s p (fun x => { x with lastSent := now s })) (.peer p h b)

/-- The next header for a message, whose seq goes on by one (R710). -/
def nextHeader (s : State) (m : Message) : List Word × State :=
  let seq := s.ports.peer.seqs.getD m.dst 0
  (makeHeader (ownNumber s) seq m, modPeer s (fun x => { x with seqs := x.seqs.modify m.dst (· + 1) }))

/-- Send a new message by its route. -/
def sendMessage (s : State) (m : Message) : State :=
  let x := nextHeader s m
  sendAt x.2 (routePort x.2 m.dst) x.1 m.payload

/-- A flit has arrived at a port, whose connection is up (R709). -/
def flitHeard (s : State) (p : Nat) : State := modPort s p (fun x => { x with up := true, lastFlit := now s })

/-- What a whole message tells of its sender (R708, R709, R717). -/
def senderHeard (s : State) (p : Nat) (h : List Word) : State :=
  let d := pmSrc h
  let s1 := if pmHops h = 0 then modPort s p (fun x => { x with neighbour := BitVec.ofNat 2 d }) else s
  setRole (modPeer s1 (fun x => { x with
    present := if d = ownNumber s then x.present else x.present ||| BitVec.ofNat 4 (2 ^ d),
    lost := x.lost.filter (· != d) }))

/-- A message arrives at a port (R711): one with a wrong CRC or of a reserved type is discarded and counted; `body` is the
effect of a whole message of type `type` for this device. The ports are down while the main domain does not run. -/
def receive (s : State) (p : Nat) (h : List Word) (b : Bytes) (type : Nat) (body : State → State) : State :=
  if !mainRuns s then s
  else
    let s1 := flitHeard s p
    if !intact h b || decide (pmType h < 1) || decide (8 < pmType h) then
      modPort s1 p (fun x => { x with discarded := satInc x.discarded })
    else
      let s2 := senderHeard s1 p h
      if pmType h = type ∧ pmDst h = ownNumber s then body s2 else s2

/-! Windows (R712, R713). -/

/-- Whether a PEER_WINDOW_CLOSE of stamp `t` that will be carried out still waits behind a message for its window: the close is
ordered before every message that arrives at its stamp. -/
def peerClosing (s : State) (t : Nat) (w : PeerWindow) : Bool :=
  s.pending.any (fun i => match i with
    | .peerWindowClose u c x => u == t && x.toNat == w.id
        && ownsObject s c w.session (match findSession s w.session with | some y => y.fn | none => 0)
    | _ => false)

/-- The key of the byte range that a WRITE or READ_REQ arriving at `t` names, or what refuses it. -/
def peerRange (s : State) (t src window offset n : Nat) (write : Bool) : Except Status Nat :=
  match s.ports.peer.windows.find? (fun w => w.id == window) with
  | none => .error (if s.ports.peer.closed.contains window then stWINDOW_CLOSED else stPROTECTION)
  | some w =>
    if peerClosing s t w then .error stWINDOW_CLOSED
    else if !w.devices.getLsbD src || !(if write then w.writable else w.readable) || decide (w.length < offset + n) then
      .error stPROTECTION
    else match accessStatus s (w.base + offset) n write with
      | some st => .error st
      | none => .ok (w.base + offset)

/-- Close the peer windows that `p` selects (R713). -/
def closePeerWindows (s : State) (p : PeerWindow → Bool) : State :=
  modPeer s (fun x => { x with
    windows := x.windows.filter (fun w => !p w), closed := x.closed ++ (x.windows.filter p).map (·.id) })

/-! The messages already taken (R716). -/

def keptStatus (s : State) (d : Nat) (seq : Word) : Option Status :=
  ((s.ports.peer.kept.getD d []).find? (fun x => x.1 == seq)).map (·.2)

def keepStatus (s : State) (d : Nat) (seq : Word) (st : Status) : State :=
  modPeer s (fun x => { x with kept := x.kept.modify d (fun l => ((seq, st) :: l).take 4096) })

/-! Transfers (R714, R716, R717). -/

/-- The bytes that have landed before the first message that failed, and its status (R714). -/
def transferOutcome (x : PeerTransfer) : Status × Nat :=
  let l := sortBy (fun (a b : Nat × Nat × Status) => a.1 < b.1) x.outcomes
  match l.find? (fun o => o.2.2 != stOK) with
  | none => (stOK, x.length)
  | some o => (o.2.2, o.1)

/-- A transfer is over. -/
def dropPeerTransfer (s : State) (id : BitVec 16) : State :=
  modPeer s (fun p => { p with
    transfers := p.transfers.filter (fun x => x.id != id), messages := p.messages.filter (fun m => m.transfer != id) })

/-- A message of a transfer has its answer; the transfer completes with the last of them. -/
def answered (s : State) (m : PeerMessage) (st : Status) : State :=
  let s1 := modPeer s (fun p => { p with
    messages := p.messages.filter (fun y => !(y.device == m.device && y.seq == m.seq)),
    transfers := p.transfers.map (fun x => if x.id == m.transfer then { x with outcomes := x.outcomes ++ [(m.offset, m.length, st)] } else x) })
  if s1.ports.peer.messages.any (fun y => y.transfer == m.transfer) then s1
  else match s1.ports.peer.transfers.find? (fun x => x.id == m.transfer) with
    | none => s1
    | some x => let o := transferOutcome x; done (dropPeerTransfer s1 x.id) x.cmd o.1 o.2

/-- The message that an ACK or READ_DATA answers. -/
def awaited (s : State) (h : List Word) (write : Bool) : Option (PeerTransfer × PeerMessage) :=
  match s.ports.peer.transfers.find? (fun x => x.id == pmTransfer h && x.write == write) with
  | none => none
  | some x =>
    (s.ports.peer.messages.find? (fun m => m.transfer == x.id && m.device == pmSrc h && pmOffset m.header == pmOffset h)).map
      (fun m => (x, m))

/-- Send the message of a transfer that covers `n` of its bytes from `o`. -/
def sendPart (s : State) (x : PeerTransfer) (device window remote o n : Nat) : State :=
  let b := if x.write then readKey s.mem (x.local_ + o) n else leBytes 4 n
  let m : Message := { type := if x.write then 1 else 3, dst := device, window := window, transfer := x.id,
                       offset := remote + o, payload := b }
  let r := nextHeader s m
  let y : PeerMessage := { device := device, seq := pmSeq r.1, header := r.1, payload := b, resends := 0, transfer := x.id,
                           offset := o, length := n }
  modPeer (sendAt r.2 (routePort r.2 device) r.1 b) (fun p => { p with messages := p.messages ++ [y] })

/-- PEER_WRITE and PEER_READ (R422, R714, R721): the local range lies in a window of the session and in slices that serve its
partition; every message is sent in offset
order. -/
def startPeer (s : State) (c : Cmd) (write : Bool) (device window remote : Nat) (lw : Word) (lo length : Nat) : State :=
  if device = ownNumber s then done s c stBAD_DESCRIPTOR
  else orFail s c (windowKey s c lw lo length (!write)) (fun k =>
    match (if sliceServes s (partOf s c) k length then accessStatus s k length (!write) else some stPROTECTION) with
    | some st => done s c st
    | none =>
      if length = 0 then done s c stOK
      else
        let x : PeerTransfer := { cmd := c, write := write, window := lw.toNat, local_ := k, length := length,
                                  id := s.ports.peer.nextTransfer, outcomes := [] }
        let s1 := modPeer s (fun p => { p with transfers := p.transfers ++ [x], nextTransfer := p.nextTransfer + 1 })
        (List.range ((length + 4095) / 4096)).foldl (fun s i =>
          sendPart s x device window remote (4096 * i) (min 4096 (length - 4096 * i))) s1)

end Sys2Proof.Machine
end

