-- ==== Sys2Proof/Machine/Solver.lean ====
section
/-!
DEFINITION. Machine/Solver.lean: the family 0x04 commands and the events of the solver engines (R213–R293).
-/
namespace Sys2Proof.Machine

/-! Capacity (R228). -/

def storeUsed (images : List Image) : Nat := images.foldl (fun n i => n + i.bytes.length) 0
def workUsed (images : List Image) : Nat :=
  images.foldl (fun n i => n + imPersistent i.bytes) 0 + images.foldl (fun n i => max n (imScratch i.bytes)) 0
def storeFree (images : List Image) : Nat := (4194304 - storeUsed images) / 1024
def workFree (images : List Image) : Nat := (2097152 - workUsed images) / 1024

/-- The engine that carries a command out (R290, R291); none when there is none. -/
def commandEngine (s : State) (c : Cmd) (engine : BitVec 4) : Option Nat :=
  let e := namedEngine s c engine
  if engineServes s e then some e else none

/-- The engine that a query reads (R253, R290–R292): any but one that has failed or is retired, the unused spare among them. -/
def queriedEngine (s : State) (c : Cmd) (engine : BitVec 4) : Option Nat :=
  let e := namedEngine s c engine
  if engineServes s e || (getEngine s e).mode == .spare then some e else none

/-- Whether an image of an engine is kept by a STRUCT_SWITCH whose etch is not final, a REPLACED fallback's among them (R94), or by a
running solve (R229, R232). -/
def imageHeld (s : State) (e : Nat) (v : BitVec 16) : Bool :=
  s.etch.etches.any (fun x => (x.st == .staged || x.st == .armed || x.st == .replaced) && x.acts.any (fun a =>
    a.cls == 0x01 && a.typ == 3 && a.index == e && actValue a == v.toNat))
  || (match (getEngine s e).run with | some r => r.image.version == v | none => false)

/-- The next unused revision of a slot (R256). -/
def nextRevision (x : Slot) : Nat :=
  let used := x.images.map (fun i => verRev i.version)
  let top := used.foldl max 0
  if top < 8191 then top + 1 else ((List.range 8191).map (· + 1)).find? (fun r => !used.contains r) |>.getD 1

/-- The version that a load takes (R214, R256): as the image names it at expert level, else assigned. -/
def loadVersion (s : State) (c : Cmd) (e : Nat) (b : Bytes) : Except Status (BitVec 16) :=
  if c.expert then (if verRev (imVersion b) = 0 then .error stBAD_DESCRIPTOR else .ok (imVersion b))
  else
    let own := verSlot (imVersion b)
    let ver := fun (n : Nat) => BitVec.ofNat 16 (n * 2 ^ 13 + nextRevision (getSlot s e n))
    if (getSlot s e own).images.any (fun i => imKind i.bytes == imKind b) then .ok (ver own)
    else match (List.range 8).find? (fun n => (getSlot s e n).images.isEmpty) with
      | some n => .ok (ver n)
      | none => .error stNO_RESOURCE

/-- STRUCT_LOAD (R227–R230, R253, R256). -/
def execStructLoad (t : Nat) (c : Cmd) (engine : BitVec 4) (window : Word) (offset : DWord) (length : Word) (s : State) : Out :=
  host s t c (okEngine engine) (fun s =>
    match commandEngine s c engine with
    | none => done s c stNO_RESOURCE
    | some e =>
      orFail s c (readWindow s c window offset.toNat length.toNat) (fun b =>
        if !imageOk b then done s c stBAD_DESCRIPTOR
        else orFail s c (loadVersion s c e b) (fun v =>
          let x := getSlot s e (verSlot v)
          let others := (getEngine s e).slots.flatMap Slot.images
          let rest := match x.standby with
            | some old => others.erase old
            | none => others
          let im : Image := { bytes := b, version := v, usable := true, session := sessionOf s c }
          if (match x.standby with | some old => imageHeld s e old.version | none => false) then done s c stPROTECTION
          else if 4194304 < storeUsed (im :: rest) ∨ 2097152 < workUsed (im :: rest) then done s c stNO_RESOURCE
          else
            done (modSlot s e (verSlot v) (fun y => { y with standby := some im })) c stOK
              (v.toNat + storeFree (im :: rest) * 2 ^ 32))))

/-- STRUCT_UNLOAD (R229, R254). -/
def execStructUnload (t : Nat) (c : Cmd) (engine : BitVec 4) (version : BitVec 16) (s : State) : Out :=
  host s t c (okEngine engine) (fun s =>
    match commandEngine s c engine with
    | none => done s c stNO_RESOURCE
    | some e =>
      let n := verSlot version
      let x := getSlot s e n
      let busy := (getEngine s e).waiting.any (fun w => w.slot == n) ||
        (match (getEngine s e).run with | some r => r.job.slot == n | none => false)
      if x.standby.map (·.version) = some version then
        if imageHeld s e version then done s c stPROTECTION
        else done (modSlot s e n (fun y => { y with standby := none })) c stOK
      else if x.active.map (·.version) = some version then
        if busy || x.standby.isSome || imageHeld s e version then done s c stPROTECTION
        else done (modSlot s e n (fun _ => Slot.empty)) c stOK
      else done s c stNO_RESOURCE)

/-- STRUCT_QUERY (R253). -/
def execStructQuery (t : Nat) (c : Cmd) (engine : BitVec 4) (slot : BitVec 3) (s : State) : Out :=
  host s t c (okEngine engine) (fun s =>
    match queriedEngine s c engine with
    | none => done s c stNO_RESOURCE
    | some e =>
      let x := getSlot s e slot.toNat
      let ver := fun (i : Option Image) => match i with | some i => i.version.toNat | none => 0
      let images := (getEngine s e).images
      done s c stOK (ver x.active + ver x.standby * 2 ^ 16 + workFree images * 2 ^ 32 + storeFree images * 2 ^ 48))

/-- The window key of a whole delta packet: its header, then its length (R153, R236). -/
def packetKey (s : State) (c : Cmd) (window : Word) (offset : Nat) : Except Status Nat :=
  match windowKey s c window offset 48 false with
  | .error st => .error st
  | .ok k =>
    let n := dpLength (readKey s.mem k 48)
    if n ≤ 48 then .ok k
    else match windowKey s c window offset n false with
      | .error st => .error st
      | .ok _ => .ok k

/-- SOLVE (R234, R253, R255, R271, R500): the solve is placed on its engine. -/
def execSolve (t : Nat) (c : Cmd) (engine : BitVec 4) (slot : BitVec 3) (deltaWindow : Word) (deltaOffset : DWord)
    (resultWindow : Word) (resultOffset : DWord) (capacity : BitVec 24) (s : State) : Out :=
  hostWait s t c (okEngine engine) (fun s =>
    let p := partOf s c
    let cls := classOf s c
    if !peHasEngine (partEntry s p) engine.toNat then done s c stPROTECTION
    else match commandEngine s c engine with
      | none => done s c stNO_RESOURCE
      | some e =>
        match (getSlot s e slot.toNat).active with
        | none => done s c stNO_RESOURCE
        | some im =>
          orFail s c (packetKey s c deltaWindow deltaOffset.toNat) (fun dk =>
            orFail s c (windowKey s c resultWindow resultOffset.toNat capacity.toNat true) (fun rk =>
              if c.deadline.isSome && decide (hostBase ≤ rk) then done s c stBAD_DESCRIPTOR
              else
                let w : WaitingSolve := { owner := .command c, session := sessionOf s c, slot := slot.toNat, delta := dk, built := [],
                                          result := rk, resultWindow := some resultWindow.toNat, capacity := capacity.toNat,
                                          deadline := c.deadline, basic := !c.expert, epoch := 0, part := p, cls := cls,
                                          sq := match c.key.src with | .queue q => q.toNat | _ => 0 }
                let bound := match packetOf s w with | .ok b => solveBound s im.bytes b | .error _ => 0
                admitOr s c p cls bound (fun s => placeSolve s e w))))

/-! Scenario batches (R275–R279). -/

/-- The descriptor's header with its reserved fields (R275). -/
def batchHeaderOk (b : Bytes) : Bool :=
  withinMasks (toWords 16 b) [mask 31 24 ||| mask 6 0, mask 31 16, mask 31 25 ||| mask 23 20 ||| mask 1 0, 0, mAll, mAll, mask 23 0]
  && fld (wordAt b 0) 31 24 == 1 && inRange 1 64 (fld (wordAt b 0) 6 0)

/-- Scenario entry `i` (R276), when its reserved fields are 0 and its engine is 0–8 or 0xF. -/
def scenarioAt (b : Bytes) (i : Nat) : Option Scenario :=
  let x := slice b (64 + 32 * i) 32
  let e := fld (wordAt x 0) 31 28
  if !withinMasks (toWords 8 x) [mask 31 25, 0, mAll, mAll, mAll, mAll, mask 23 0] || (decide (8 < e) && e != 0xF) then none
  else some { engine := e, slot := fld (wordAt x 0) 27 25, delta := dwordAt x 2, result := dwordAt x 4, capacity := fld (wordAt x 6) 23 0,
              status := none, iterations := 0, feasible := false, degraded := false, warn := 0, checked := false, accepted := false,
              rejected := false, planCrc := 0, planAddr := 0, planLen := 0, endStamp := 0 }

/-- The image of a slot is of a kind. -/
def slotKind (s : State) (e n k : Nat) : Bool :=
  match (getSlot s e n).active with | some i => imKind i.bytes == k | none => false

/-- The BATCH slots of a CYCLIC partition that serve a queue (R278, R519). -/
def batchSlots (s : State) (p sq : Nat) : List (List Word) :=
  (plateSlots s).filter (fun w => slPart w == p && slUse w == 1 && (slOwner w == 0x3FFFF || slOwner w == sq))

/-- The engines that a batch may use (R278): those of its BATCH slot in a CYCLIC partition, else the partition's. -/
def batchGrant (s : State) (p sq : Nat) : List Nat :=
  let e := partEntry s p
  (List.range 9).filter (fun n => if peMode e = 0 then (batchSlots s p sq).any (fun w => slHasEngine w n) else peHasEngine e n)

/-- The scenario budget (R278); none where no slot limits it. -/
def batchBudget (s : State) (p sq : Nat) : Option Nat :=
  if peMode (partEntry s p) = 0 then some ((batchSlots s p sq).foldl (fun n w => max n (slBudget w)) 0) else none

/-- Assign the scenarios whose engine is 0xF (R279). -/
def assignEngines (s : State) (grant : List Nat) (l : List Scenario) : Option (List Scenario) :=
  if l.all (fun x => x.engine != 0xF) then some l
  else
    (List.range l.length).foldr (fun i acc => match l[i]?, acc with
      | some x, some r =>
        let es := grant.filter (fun e => slotKind s (remapped s e) x.slot 3)
        if es.isEmpty then none else some ({ x with engine := remapped s (es.getD (i % es.length) 0) } :: r)
      | _, _ => none) (some [])

/-- The checks on a batch of `n` scenarios with descriptor `b` (R275–R279, R293): its scenarios on their engines in model order, or the
status that refuses it, with whether it is refused for want of admission (R532). -/
def batchScenarios (s : State) (c : Cmd) (session : Option Word) (p sq : Nat) (b : Bytes) (n : Nat) : Except (Status × Bool) (List Scenario) :=
  let raw := (List.range n).filterMap (scenarioAt b)
  let fallback := fld (wordAt b 1) 31 16
  let stopEngine := remapped s (fld (wordAt b 2) 31 28)
  let stopSlot := fld (wordAt b 2) 27 25
  let grant := batchGrant s p sq
  let named := raw.map (·.engine) ++ (if fallback = 0 then [] else [fld (wordAt b 2) 31 28])
  let mixed := raw.any (fun x => x.engine == 0xF) && raw.any (fun x => x.engine != 0xF)
  if raw.length ≠ n ∨ c.deadline.isNone ∨ mixed ∨ hasRepeat (raw.map (·.result)) ∨ (fallback ≠ 0 ∧ 8 < fld (wordAt b 2) 31 28) then
    .error (stBAD_DESCRIPTOR, false)
  else if named.any (fun e => e != 0xF && !peHasEngine (partEntry s p) e) then .error (stPROTECTION, false)
  else if c.expert && named.any (fun e => e != 0xF && (getEngine s e).mode == .failed) then .error (stNO_RESOURCE, false)
  else match assignEngines s grant raw with
    | none => .error (stBAD_DESCRIPTOR, false)
    | some xs =>
      let xs := xs.map (fun x => { x with engine := remapped s x.engine })
      let emitOff := xs.any (fun x => !(getSlot s x.engine x.slot).params.emitPlan)
      if xs.any (fun x => !slotKind s x.engine x.slot 3) ∨ emitOff then .error (stBAD_DESCRIPTOR, false)
      else if fallback ≠ 0 ∧ !(slotKind s stopEngine stopSlot 2 &&
          (match (getSlot s stopEngine stopSlot).active with | some i => imStopKnots i.bytes != 0 | none => false)) then
        .error (stBAD_DESCRIPTOR, false)
      else if xs.any (fun x => !engineServes s x.engine) ∨ (fallback ≠ 0 ∧ !engineServes s stopEngine) then
        .error (stNO_RESOURCE, false)
      else if (match batchBudget s p sq with | some m => decide (m < n) | none => false)
          || xs.any (fun x => !grant.contains (grantName s x.engine))
          || (fallback != 0 && !grant.contains (grantName s stopEngine)) then .error (stNO_RESOURCE, true)
      else if xs.any (fun x => !inEnvelope s (session) x.delta (max 48 (dpLength (readKey s.mem x.delta 48))) || !inEnvelope s (session) x.result x.capacity)
          || (fallback != 0 && !inEnvelope s (session) (dwordAt b 4) (fld (wordAt b 6) 23 0)) then .error (stPROTECTION, false)
      else .ok xs

/-- Scenario `i` of a batch as it waits on its engine. -/
def batchWait (c : Cmd) (session : Option Word) (p cls sq i : Nat) (x : Scenario) : WaitingSolve where
  owner := .scenario c.key i
  session := session
  slot := x.slot
  delta := x.delta
  built := []
  result := x.result
  resultWindow := none
  capacity := x.capacity
  deadline := c.deadline
  basic := !c.expert
  epoch := 0
  part := p
  cls := cls
  sq := sq

/-- The bound of a batch (R524): that of the engine with the longest sum of its scenarios' bounds. -/
def batchBound (s : State) (c : Cmd) (session : Option Word) (p cls sq : Nat) (xs : List Scenario) : Nat :=
  let bounds := (List.range xs.length).map (fun i => match xs[i]? with
    | some x => (x.engine, waitingBound s x.engine (batchWait c session p cls sq i x))
    | none => (0, 0))
  (List.range 9).foldl (fun m e => max m ((bounds.filter (fun y => y.1 == e)).foldl (fun a y => a + y.2) 0)) 0

/-- The batch that descriptor `b` at `key` stands for, with its scenarios. -/
def batchOf (s : State) (c : Cmd) (session : Option Word) (p cls sq key : Nat) (b : Bytes) (xs : List Scenario) : Batch where
  cmd := c
  session := session
  desc := key
  descLen := b.length
  fallback := fld (wordAt b 1) 31 16
  stopEngine := remapped s (fld (wordAt b 2) 31 28)
  stopSlot := fld (wordAt b 2) 27 25
  limitSet := fld (wordAt b 2) 23 20
  primaryHusk := wbit (wordAt b 2) 1
  primaryNotify := wbit (wordAt b 2) 0
  stopResult := dwordAt b 4
  stopCapacity := fld (wordAt b 6) 23 0
  scenarios := xs
  stage := .solving
  winner := none
  inTracer := none
  closed := false
  armStatus := none
  stopPlanCrc := 0
  stopPlanAddr := 0
  stopPlanLen := 0
  part := p
  cls := cls
  sq := sq

/-- An admitted batch: its scenarios wait on their engines in model order (R276). -/
def placeBatch (s : State) (b : Batch) : State :=
  (List.range b.scenarios.length).foldl (fun s i => match b.scenarios[i]? with
    | some x => placeSolve s x.engine (batchWait b.cmd b.session b.part b.cls b.sq i x)
    | none => s) { s with solver := { s.solver with batches := s.solver.batches ++ [b] } }

/-- A batch whose descriptor of `n` scenarios lies at `key` is checked, admitted and placed (R275–R279, R293, R522). -/
def submitBatch (s : State) (c : Cmd) (session : Option Word) (p cls sq key n : Nat) : State :=
  let b := readKey s.mem key (64 + 48 * n)
  match batchScenarios s c session p sq b n with
  | .error (st, true) => refuseAdmission s c st
  | .error (st, false) => done s c st
  | .ok xs =>
    admitOr s c p cls (batchBound s c session p cls sq xs) (fun u => placeBatch u (batchOf s c session p cls sq key b xs))

/-- SCENARIO_BATCH (R275–R279, R292, R293). -/
def execScenarioBatch (t : Nat) (c : Cmd) (window : Word) (offset : DWord) (s : State) : Out :=
  hostWait s t c true (fun s =>
    orFail s c (readWindow s c window offset.toNat 64) (fun h =>
      let n := fld (wordAt h 0) 6 0
      if !batchHeaderOk h then done s c stBAD_DESCRIPTOR
      else orFail s c (windowKey s c window offset.toNat (64 + 48 * n) true) (fun key =>
        submitBatch s c (sessionOf s c) (partOf s c) (classOf s c) (match c.key.src with | .queue q => q.toNat | _ => 0) key n)))

/-- SOLVE_DIAG_READ (R273, R292): the copy, when its slot holds one and the capacity takes it. -/
def execSolveDiagRead (t : Nat) (c : Cmd) (engine : BitVec 4) (slot : BitVec 3) (window : Word) (offset : DWord)
    (capacity : BitVec 24) (s : State) : Out :=
  host s t c (okEngine engine) (fun s =>
    match queriedEngine s c engine with
    | none => done s c stNO_RESOURCE
    | some e =>
      match (getSlot s e slot.toNat).diag with
      | none => done s c stNO_RESOURCE
      | some b =>
        if capacity.toNat < b.length then done s c stBAD_DESCRIPTOR
        else writeReply s c window offset.toNat b b.length)

/-- The state code of an engine (R292). -/
def engineModeCode (m : EngineMode) : Nat :=
  match m with | .active => 0 | .spare => 1 | .failed => 2 | .retired => 3

/-- ENGINE_STATUS (R290–R292). -/
def execEngineStatus (t : Nat) (c : Cmd) (engine : BitVec 4) (s : State) : Out :=
  host s t c (okEngine engine) (fun s => match queriedEngine s c engine with
  | none => done s c stNO_RESOURCE
  | some n =>
    let e := getEngine s n
    let occupied := (List.range 8).foldl (fun n i =>
      if (e.slots.getD i Slot.empty).images.isEmpty then n else n + 2 ^ i) 0
    done s c stOK (e.epoch.toNat + engineModeCode e.mode * 2 ^ 16 + occupied * 2 ^ 24 + e.solves.toNat * 2 ^ 32))

/-! Events of an engine. -/

/-- SOLVE_START (R231, R234): the engine takes its next solve. -/
def execSolveStart (t : Nat) (engine : Nat) (imageError : Bool) (s : State) : Out :=
  event s t (fun s => match nextSolve s engine with
    | some w =>
      let s1 := startSolve s engine w imageError
      if imageError && w.cls == 2 then safeTrigger s1 srcShell else s1
    | none => s)

/-- SOLVE_WRITEOUT_START (R270): the deadline is disarmed, unless it is ordered first. -/
def execSolveWriteoutStart (t : Nat) (engine : Nat) (s : State) : Out :=
  event s t (fun s => match (getEngine s engine).run with
    | none => s
    | some r =>
      if (match r.job.deadline with | some d => deadlineArrived s d | none => false) then
        missSolves s (fun o => o == r.job.owner) (now s)
      else if (getEngine s engine).mode == .active then
        modEngine s engine (fun x => { x with run := some { r with writing := true } })
      else s)

/-- SOLVE_COMPLETE (R247, R288): the result of a solve whose write-out has begun is complete; one of a fenced engine is
stale. -/
def execSolveComplete (t : Nat) (engine : Nat) (s : State) : Out :=
  event s t (fun s => match (getEngine s engine).run with
    | none => s
    | some r =>
      if (getEngine s engine).mode != .active || r.job.epoch != (getEngine s engine).epoch then discardStale s r.job.session
      else if r.writing then completeSolve s engine r
      else s)

/-- An image from the firmware's copy, with its image_crc checked (R218, R285): the copy is good where the resident one had become
unusable (R231). -/
def reloadImage (i : Image) : Option Image :=
  if crc32c (imForCrc i.bytes) == wordAt i.bytes 3 then some { i with usable := true } else none

/-- The slots of a failed engine as they start on the spare (R285, R286). -/
def carrySlot (x : Slot) : Slot :=
  let standby := x.standby.bind reloadImage
  match x.active.bind reloadImage with
  | some i => { x with active := some i, standby := standby, items := defaultItems i.bytes, persistent := [], seeds := [], diag := none }
  | none => { Slot.empty with standby := standby }

/-- The etches with an action of class 0x01 on an engine that is swapped (R289). -/
def abortEngineEtches (s : State) (e : Nat) : State :=
  (s.etch.etches.filter (fun x => (x.st == .staged || x.st == .armed) && x.acts.any (fun a => a.cls == 0x01 && a.index == e))).foldl
    (fun s x => etchComplete (setEtch (restoreFallback s x) x.id .aborted) x stNO_RESOURCE (now s)) s

/-! Results of a placement that is no more (R31, R288): they reach no completion queue, no check and no etch. -/

/-- The scenarios of a batch that its report entries give as missed (R276); the report lies behind the descriptor that its entry
names (R292). -/
def reportMissed (s : State) (o : Outstanding) : List Nat :=
  match windowKey s o.cmd (wat o.entry 5) (fld (wat o.entry 6) 31 0 + fld (wat o.entry 7) 31 0 * 2 ^ 32) 64 false with
  | .error _ => []
  | .ok k =>
    let n := fld (wordAt (readKey s.mem k 64) 0) 6 0
    let report := readKey s.mem (k + 64 + 32 * n) (16 * n)
    (List.range n).filter (fun i => byteAt report (16 * i) == stDEADLINE_MISS)

/-- A solve or a batch whose completion was discarded comes to its deadline, which has arrived already (R274, R287). -/
def missStale (s : State) (o : Outstanding) (d : PhaseValue) (sq : Nat) : State :=
  let missed := reportMissed s o
  let s1 := if classOf s o.cmd = 2 then
      (if entryOpcode o.entry = 0x0410 then huskMiss s (pvSrc d) 2 sq o.cmd.key.id missed.length (missed.headD 0)
       else huskMiss s (pvSrc d) 1 sq o.cmd.key.id 0 0)
    else s
  missDeadline s1 o.cmd

/-- The completions of solves of engine `e` that wait to be posted are discarded; their commands end as the solve does that was
running (R287): at their deadline, or now with INTERNAL and result 2. -/
def dropStale (s : State) (e : Nat) : State :=
  let stale := fun (x : Completion) => x.placed == some e
  let held := s.imprints.queue.filterMap (fun j => match j with | .imprint x _ _ => x.held | _ => none)
  let l := (s.cmds.cqs.flatMap (·.waiting) ++ held).filter stale
  let s1 := { s with
    cmds := { s.cmds with cqs := s.cmds.cqs.map (fun q => { q with waiting := q.waiting.filter (fun x => !stale x) }) },
    imprints := { s.imprints with queue := s.imprints.queue.map (fun j => match j with
      | .imprint x w n => .imprint (if (match x.held with | some y => stale y | none => false) then { x with held := none } else x) w n
      | j => j) } }
  l.foldl (fun s x => match findOut s ⟨.queue x.sq, x.cmdId⟩ with
    | none => s
    | some o =>
      let s2 := modOut (discardStale s (some o.session)) o.cmd.key (fun o => { o with done := false })
      match o.cmd.deadline with
      | none => done s2 o.cmd stINTERNAL 2
      | some d => if deadlineArrived s2 d then missStale s2 o d x.sq.toNat else s2) s1

/-- Whether a scenario has a result of engine `e` that may still reach a check or an etch. -/
def scenarioStale (e : Nat) (x : Scenario) : Bool :=
  x.engine == e && (x.status == some stOK || x.status == some stDEGRADED) && x.feasible && !x.rejected

/-- A batch loses the results that engine `e` gave it: they count as missed (log entry 128), and the primary of an accepted one is not
armed. -/
def dropStaleBatch (s : State) (e : Nat) (k : CmdKey) : State :=
  match findBatch s k with
  | none => s
  | some b =>
    let lost := (List.range b.scenarios.length).filter (fun i => match b.scenarios[i]? with | some x => scenarioStale e x | none => false)
    let won := match b.winner with | some i => lost.contains i | none => false
    if lost.isEmpty || (b.winner.isSome && !won) || b.stage == .finished then s
    else
      let s1 := lost.foldl (fun s _ => discardStale s b.session) s
      if b.stage == .stopSolve || b.stage == .arming then
        batchArmed (stopArming (stopSolves s1 (fun o => o == .stop k)) (fun a => a.batch == some k)) k (some stNO_RESOURCE)
      else
        let s2 := stopChecks s1 (fun o => match o with | .candidate y i => y == k && lost.contains i | _ => false)
        batchAdvance (modBatch s2 k (fun b => { b with
          winner := none,
          inTracer := match b.inTracer with | some i => if lost.contains i then none else some i | none => none,
          scenarios := (List.range b.scenarios.length).filterMap (fun i => (b.scenarios[i]?).map (fun x =>
            if lost.contains i then { x with status := some stDEADLINE_MISS, feasible := false, accepted := false, endStamp := now s }
            else x)) })) k

/-- Everything that still carries the placement epoch of engine `e` is discarded (R288). -/
def discardPlacement (s : State) (e : Nat) : State :=
  (s.solver.batches.map (·.cmd.key)).foldl (fun s k => dropStaleBatch s e k) (dropStale s e)

/-- Move an engine's problems onto the spare (R284–R287): the spare starts at SPARE_ENGINE_READY. -/
def swapEngine (s : State) (e spare : Nat) (c : Option Cmd) : State :=
  let old := getEngine s e
  let epoch := old.epoch + 1
  let s1 := modEngine (abortEngineEtches (discardPlacement s e) e) spare (fun x => { x with
    epoch := epoch, slots := old.slots.map carrySlot, waiting := x.waiting ++ old.waiting.map (fun w => { w with epoch := epoch }),
    swapping := some (e, c) })
  let s2 := modEngine s1 e (fun x => { x with waiting := [] })
  { s2 with solver := { s2.solver with remap := (s2.solver.remap.map (fun p => if p.2 = e then (p.1, spare) else p)) ++ [(e, spare)] } }

/-- The unused spare engine. -/
def spareEngine (s : State) : Option Nat :=
  (List.range 9).find? (fun n => (getEngine s n).mode == .spare && (getEngine s n).swapping.isNone)

/-- The solves of an engine that no spare replaces complete as the running one does (R287, R291). -/
def failWaiting (s : State) (e : Nat) : State :=
  ((getEngine s e).waiting.filter (fun w => w.deadline.isNone)).foldl (fun s w => refuseSolve s e w stINTERNAL) s

/-- An engine is taken out of use, and its running solve stops (R284, R287). -/
def fenceEngine (s : State) (e : Nat) : State :=
  let s1 := modEngine s e (fun x => { x with mode := .failed })
  match (getEngine s1 e).run with
  | some r =>
    if r.job.deadline.isNone then
      solveOver (endSolveImprint (modEngine (chargeRun s1 r) e (fun x => { x with run := none })) r (getEngine s e).epoch (now s) false none)
        r.job
        { status := stINTERNAL, warn := abandonWarn r (now s), stamp := now s, epoch := (getEngine s e).epoch, engine := some e }
    else modEngine s1 e (fun x => { x with run := some { r with writing := false } })
  | none => s1

/-- An engine fault (R284, R287, R291). -/
def engineFaulted (s : State) (e cause : Nat) : State :=
  if (getEngine s e).mode != .active then s
  else
    let s2 := fenceEngine (huskFault s (srcEngine e) 0x02 e cause) e
    match spareEngine s2 with
    | some sp => swapEngine s2 e sp none
    | none => failWaiting (modEngine s2 e (fun x => { x with mode := .retired })) e

/-- ENGINE_OVERRUN (R258–R260): the run has not begun its write-out 2,048 cycles beyond its bound. -/
def execEngineOverrun (t : Nat) (engine : Nat) (s : State) : Out :=
  event s t (fun s => match (getEngine s engine).run with
    | some r =>
      if r.writing || decide (now s < r.start + runBound s r + cyclesNs s 2048) then s else engineFaulted s engine 0x02
    | none => s)

/-- ENGINE_FAULT (R284): an uncorrectable work-store error during a solve. -/
def execEngineFault (t : Nat) (engine : Nat) (s : State) : Out :=
  event s t (fun s => engineFaulted s engine 0x03)

/-- SPARE_ENGINE_READY (R284, R285): the spare starts solving; SPARE_USED and the spare-remap record follow. -/
def execSpareEngineReady (t : Nat) (s : State) : Out :=
  event s t (fun s => match (List.range 9).find? (fun n => (getEngine s n).swapping.isSome) with
    | none => s
    | some sp =>
      match (getEngine s sp).swapping with
      | none => s
      | some (e, c) =>
        let epoch := (getEngine s sp).epoch.toNat
        let s1 := modEngine s sp (fun x => { x with mode := .active, swapping := none })
        let s2 := { s1 with power := { s1.power with engines := s1.power.engines.set sp 2 } }
        let s3 := huskRequest s2 0x0B srcCp (leBytes 1 0x02 ++ leBytes 1 e ++ leBytes 1 sp ++ [0] ++ leBytes 2 epoch)
        let s4 := repairEntry (raiseEvent s3 evSPARE_USED (0x02 + e * 2 ^ 8 + sp * 2 ^ 16)) 2 e sp
        match c with
        | some c => done s4 c stOK (sp + epoch * 2 ^ 16)
        | none => s4)

end Sys2Proof.Machine
end

