-- ==== Sys2Proof/Machine/ServeAction.lean ====
section
/-!
DEFINITION. Machine/ServeAction.lean: the scenario batch that the firmware submits at the start of a bound Plate slot (R492).
-/
namespace Sys2Proof.Machine

/-- Where the parts of a binding's own area lie: descriptor, delta packets of 128 bytes each, held plans, result regions. There are
several places for held plans, so that the payload of a fallback that is still ARMED stays as it is (R98). -/
def packetBytes : Nat := 12288
def planAreaBytes : Nat := 0x100000
def planAreas : Nat := 4
def ActionBinding.packetAddr (a : ActionBinding) (i : Nat) : Nat := a.area + 4096 + 128 * i
def ActionBinding.planAddr (a : ActionBinding) (i : Nat) : Nat := a.area + packetBytes + i * planAreaBytes
def ActionBinding.resultAddr (a : ActionBinding) (i : Nat) : Nat := a.planAddr planAreas + i * a.resultBytes
def areaBytes (resultBytes : Nat) : Nat := packetBytes + planAreas * planAreaBytes + 65 * resultBytes

/-- The partition that runs a binding's batches: that of its Plate slot (R491). -/
def bindPart (s : State) (l : Loop) (a : ActionBinding) : Nat :=
  match slotAt s a.plateSlot with | some sl => slPart sl | none => l.part

/-- A phase value that the firmware puts into a plan cycle (log entry 38). -/
def cyclePoint (n which : Nat) : PhaseValue := ⟨Config.batchPoint n which 0, Config.batchPoint n which 1, Config.batchPoint n which 2⟩

/-- The delta packet of one chunk (R236, R237, R492): three by-reference entries at an offset of `age` knots. -/
def chunkPacket (im : Bytes) (version : BitVec 16) (group : Nat) (origin : PhaseValue) (chunk extra age : Nat) : Bytes :=
  let w := fun (n : Nat) => (BitVec.ofNat 32 n : Word)
  let N := imHorizon im
  let states := (N + 1) * imNx im
  let entry := fun (item first count addr : Nat) => [w (item * 2 ^ 16 + first), w (2 * 2 ^ 30 + count), w addr, w (addr / 2 ^ 32)]
  let s := 4 * chunkStates im extra
  ofWords ([w (version.toNat * 2 ^ 16 + 3), 0, w 96, w (group * 2 ^ 8), origin.w0, origin.w1, origin.w2, 0, 0, 0, 0, 0]
    ++ entry 0x10 0 states (chunk + 4 * age * imNx im)
    ++ entry 0x20 0 states (chunk + s + 4 * age * imNx im)
    ++ entry 0x20 states (N * imNu im) (chunk + 2 * s + 4 * age * imNu im))

/-- A number for a command of the firmware's own that none of its commands uses: it and its successor. -/
def firmwareId (s : State) : Nat :=
  let used := s.solver.batches.map (fun b => b.cmd.key.id.toNat) ++ s.etch.arming.map (fun a => a.cmd.key.id.toNat)
  ((List.range 0x6000).map (fun i => 0x4000 + 2 * i)).find? (fun n => !used.contains n && !used.contains (n + 1)) |>.getD 0x4000

def firmwareCmd (id : Nat) (deadline : Option PhaseValue) : Cmd :=
  { key := ⟨.firmware, BitVec.ofNat 16 id⟩, quiet := false, expert := false, deadline := deadline }

/-- A place for a held plan of `n` bytes: the first that nothing protects from the write (R98, R661). -/
def planPlace (s : State) (a : ActionBinding) (n : Nat) : Option Nat :=
  ((List.range planAreas).map a.planAddr).find? (fun k => (accessStatus s k n true).isNone)

/-- Stage and begin to arm the held-plan fallback of a plan cycle (R115, R492, R565): its id, 0 when the group has no plan to
hold, every place for one is protected (R98), or the arm fails. -/
def armHeld (s : State) (l : Loop) (a : ActionBinding) (group id : Nat) (commit armBy : PhaseValue) : State × Nat :=
  match (getGroup s group).plan.bind (fun p => (planPlace s a (heldForm p.plan).length).map (fun k => (heldForm p.plan, k))) with
  | none => (s, 0)
  | some (b, place) =>
    let s1 := { s with mem := { s.mem with dev := s.mem.dev.write place b } }
    let act : EtchAction := { typ := 2, cls := 0x10, index := group, item := 0, argLo := BitVec.ofNat 32 place,
                              argHi := BitVec.ofNat 32 (place / 2 ^ 32), width := 0, length := b.length, crc := crc32c b }
    let h : EtchHeader := { count := 1, kind := 1, tag := 0, husk := false, notify := false, commitPoint := commit, armDeadline := armBy,
                            fallbackId := 0 }
    let fn := match findSession s l.session with | some x => x.fn | none => 0
    match stageEtch s1 (some l.session) fn none h [act] with
    | .error _ => (s1, 0)
    | .ok (e, s2) =>
      match findEtch s2 e with
      | none => (s2, 0)
      | some x =>
        match armRows s2 (bindPart s2 l a) x with
        | .error _ => (releaseEtch s2 e, 0)
        | .ok bs =>
          let g : Arming := { etch := e, cmd := firmwareCmd (id + 1) none, staged := true, batch := none, payloads := bs,
                              records := planRecords s2 x.acts bs }
          ({ s2 with etch := { s2.etch with arming := s2.etch.arming ++ [g] } }, e)

/-- The set that a batch slot starting now may use: the newest published before this tick (R70, R492), with its age and the
chunk that comes next. -/
def usableSet (s : State) (a : ActionBinding) : Option (Nat × Nat × Nat) :=
  match a.published with
  | none => none
  | some (b, t) => if t < now s then some (b, a.age, a.nextChunk) else a.prev

/-- The delta packet of the first plan cycle after a restart (R579): reset_state, and REF_X by reference. -/
def restartPacket (im : Bytes) (version : BitVec 16) (group : Nat) (origin : PhaseValue) (addr : Nat) : Bytes :=
  let w := fun (n : Nat) => (BitVec.ofNat 32 n : Word)
  ofWords [w (version.toNat * 2 ^ 16 + 1), 0, w 64, w (group * 2 ^ 8), origin.w0, origin.w1, origin.w2, 1, 0, 0, 0, 0,
    w (0x10 * 2 ^ 16), w (2 * 2 ^ 30 + (imHorizon im + 1) * imNx im), w addr, w (addr / 2 ^ 32)]

/-- The version of the image that a binding's scenarios run on. -/
def actionVersion (s : State) (a : ActionBinding) : BitVec 16 :=
  match (getSlot s (if a.engine = 0xF then 0 else a.engine) a.slot).active with
  | some i => i.version
  | none => imVersion (actionImage s a)

/-- Write the descriptor and the delta packets of a batch of `k` scenarios, and submit it in its slot's partition (R492); nothing
when their place is not to be written (R98, R293, R661). -/
def cycleBatch (s : State) (l : Loop) (a : ActionBinding) (id held k : Nat) (deadline : PhaseValue) (packet : Nat → Bytes) : State :=
  let sq := match l.cmd.key.src with | .queue q => q.toNat | _ => 0
  let w := fun (n : Nat) => (BitVec.ofNat 32 n : Word)
  let addr := fun (n : Nat) => [w n, w (n / 2 ^ 32)]
  let head := [w (2 ^ 24 + k), w (held * 2 ^ 16), w (a.stopEngine * 2 ^ 28 + a.stopSlot * 2 ^ 25 + a.limitSet * 2 ^ 20), 0]
    ++ addr (a.resultAddr 64) ++ [w a.resultBytes] ++ List.replicate 9 0
  let entries := (List.range k).flatMap (fun i => [w (a.engine * 2 ^ 28 + a.slot * 2 ^ 25), 0] ++ addr (a.packetAddr i)
    ++ addr (a.resultAddr i) ++ [w a.resultBytes, 0])
  let m := (List.range k).foldl (fun (m : Memory) i => m.write (a.packetAddr i) (packet i)) (s.mem.dev.write a.area (ofWords (head ++ entries)))
  if (accessStatus s a.area packetBytes true).isSome then s
  else submitBatch { s with mem := { s.mem with dev := m } } (firmwareCmd id (some deadline)) (some l.session) (bindPart s l a) 2 sq a.area k

/-- The plan cycle of an action binding in a restart (R579): one scenario with reset_state, whose reference the firmware samples
from the stop trajectory. -/
def restartCycle (s : State) (l : Loop) (a : ActionBinding) : State × ActionBinding :=
  let id := firmwareId s
  let n := s.free
  let group := Config.batchGroup n % 16
  let held := armHeld (takeFree s) l a group id (cyclePoint n 0) (cyclePoint n 1)
  let im := actionImage held.1 a
  let set := freeSet held.1 a
  let ref := ofWords ((List.range ((imHorizon im + 1) * imNx im)).map (Config.restartReference n))
  let s1 := { held.1 with mem := { held.1.mem with dev := held.1.mem.dev.write (setAddr a im set) ref } }
  if (accessStatus held.1 (setAddr a im set) ref.length true).isSome then (held.1, a)
  else (cycleBatch s1 l a id held.2 1 (cyclePoint n 2)
    (fun _ => restartPacket im (actionVersion s1 a) group (cyclePoint n 3) (setAddr a im set)), { a with batch := id, batchSet := set })

/-- One plan cycle of an action binding (R492): the fallback is armed, and the next chunks of the newest set go out as a batch. -/
def planCycle (s : State) (l : Loop) (a : ActionBinding) : State × ActionBinding :=
  let id := firmwareId s
  let n := s.free
  let group := Config.batchGroup n % 16
  let commit := cyclePoint n 0
  let held := armHeld (takeFree s) l a group id commit (cyclePoint n 1)
  let older := fun (a : ActionBinding) => { a with age := a.age + 1, prev := a.prev.map (fun p => (p.1, p.2.1 + 1, p.2.2)) }
  match usableSet s a with
  | none => (held.1, older a)
  | some (set, age, next) =>
    if a.chunkExtra < age then (held.1, older a)
    else
      let s1 := held.1
      let im := actionImage s1 a
      let sq := match l.cmd.key.src with | .queue q => q.toNat | _ => 0
      let k := min (min 64 a.chunkCount) ((batchBudget s1 (bindPart s1 l a) sq).getD a.chunkCount)
      let chunk := fun (i : Nat) => setAddr a im set + (next + i) % max 1 a.chunkCount * (4 * chunkElems im a.chunkExtra)
      let s3 := cycleBatch s1 l a id held.2 k (cyclePoint n 2)
        (fun i => chunkPacket im (actionVersion s1 a) group (cyclePoint n 3) (chunk i) a.chunkExtra age)
      let a1 := older { a with batch := id, batchSet := set }
      let newest := match a.published with | some p => p.1 == set && decide (p.2 < now s) | none => false
      (s3, if newest then { a1 with nextChunk := (next + k) % max 1 a.chunkCount }
           else { a1 with prev := a1.prev.map (fun p => (p.1, p.2.1, (next + k) % max 1 a.chunkCount)) })

/-- The start instant of a Plate slot: the plan cycles of the bindings attached to it, those of a restart until its first plan
is committed (R578, R579). -/
def actionSlot (s : State) (slot : Nat) : State :=
  let restarting := match s.safety.safe with | some x => x.released | none => false
  s.loops.foldl (fun s l =>
    let r := l.actions.foldl (fun (x : State × List ActionBinding) a =>
      if a.plateSlot = slot then let y := if restarting then restartCycle x.1 l a else planCycle x.1 l a; (y.1, x.2 ++ [y.2]) else (x.1, x.2 ++ [a])) (s, [])
    { r.1 with loops := r.1.loops.map (fun x => if x.part == l.part then { x with actions := r.2 } else x) }) s

end Sys2Proof.Machine
end

