-- ==== Sys2Proof/Machine/Dma.lean ====
section
/-!
DEFINITION. Machine/Dma.lean: the memory and DMA commands of family 0x08 and the events of the shared buffer and the
LPDDR (R98, R153, R165, R417, R418, R422, R424, R526, R529, R623, R678, R680, R681, R752).
-/
namespace Sys2Proof.Machine

/-! Allocations (R165, R424, R752, R753). -/

/-- Where an allocation goes (R424): classes 1 and 2 into the share of the partition of the session's lowest-numbered
queue when it has room, everything else into LPDDR while the check bytes leave room there (R415), always inside the function's envelope (R125, R752). -/
def placeAlloc (s : State) (x : Session) (bytes cls align : Nat) : Option Nat :=
  let used := heldRanges s
  let lo := fnMemBase s x.fn
  let hi := fnMemLimit s x.fn
  let first := (s.cmds.sqs.filter (fun q => q.session == x.id)).foldl (fun (m : Option SubQueue) q => match m with
    | some y => if q.id < y.id then some q else some y
    | none => some q) none
  let share := if cls = 1 ∨ cls = 2 then
      (match first with
       | some q =>
         let e := partEntry s q.part
         let b := peFirstSlice e * sliceBytes
         if peValid e then chooseSpot s (max lo b) (min hi (b + peSliceCount e * sliceBytes)) bytes align used else none
       | none => none)
    else none
  match share with
  | some a => some a
  | none => if lpddrFits s cls bytes then chooseSpot s (max lo lpddrBase) (min hi (lpddrBase + lpddrBytes)) bytes align used else none

/-- Bytes of a session's allocations, against its quota (R752). -/
def sessionBytes (s : State) (id : Word) : Nat :=
  (s.cmds.allocs.filter (fun a => a.session == some id)).foldl (fun n a => n + a.bytes) 0

/-- MEM_ALLOC (R165, R424, R752, R753). -/
def execMemAlloc (t : Nat) (c : Cmd) (session : Word) (bytes : DWord) (cls : BitVec 4) (alignLog2 : BitVec 8) (s : State) : Out :=
  host s t c (okMemAlloc bytes cls alignLog2) (fun s => match findSession s session with
    | none => done s c stPROTECTION
    | some x =>
      if !mayName s c session then done s c stPROTECTION
      else if x.quota.toNat < sessionBytes s session + bytes.toNat then done s c stNO_RESOURCE
      else match placeAlloc s x bytes.toNat cls.toNat (2 ^ alignLog2.toNat) with
        | none => done s c stNO_RESOURCE
        | some a =>
          let n : Allocation := { addr := a, bytes := bytes.toNat, cls := cls.toNat, session := some session, fn := x.fn }
          let s1 := takeFree s
          done { s1 with cmds := { s1.cmds with allocs := s1.cmds.allocs ++ [n] } } c stOK a)

/-- Whether a range of keys holds a payload of an ARMED etch or the ring of a queue (R98, R752). -/
def ringsInUse (s : State) (k n : Nat) : Bool :=
  let armed := (s.etch.etches.filter (fun e => e.st == .armed)).flatMap (fun e => e.acts.filterMap actionRange)
  (decide (k < hostBase) && armed.any (fun r => overlaps k n r.1 r.2))
  || s.cmds.sqs.any (fun q => overlaps k n (ringKey q.inDevice q.fn q.ring) (64 * q.depth))
  || s.cmds.cqs.any (fun q => overlaps k n (ringKey q.inDevice q.fn q.ring) (32 * q.depth))

/-- Whether an allocation is so used, or is a part of a serving loop's pool (log entry 39). -/
def rangeInUse (s : State) (k n : Nat) : Bool :=
  ringsInUse s k n
  || (decide (k < hostBase) && s.loops.any (fun l => ([l.headers, l.records, l.tokens, l.payloads, l.cands, l.arrays]
        ++ l.actions.flatMap (fun a => [a.sets, a.area])).contains k))

/-- MEM_FREE (R98, R153, R165, R752): the close instant is its completion; the windows over the allocation close with
it. An address of the session's own memory at which no allocation begins completes with BAD_DESCRIPTOR (DESIGN CHOICE, log entry
136). -/
def execMemFree (t : Nat) (c : Cmd) (addr : DWord) (s : State) : Out :=
  host s t c true (fun s => match s.cmds.allocs.find? (fun a => a.addr == addr.toNat) with
    | none => done s c (if inEnvelope s (sessionOf s c) addr.toNat 1 then stBAD_DESCRIPTOR else stPROTECTION)
    | some a =>
      if !(match a.session with | some id => ownsObject s c id a.fn | none => false) then done s c stPROTECTION
      else if rangeInUse s a.addr a.bytes then done s c stPROTECTION
      else
        let s0 := closePeerWindows s (fun w => overlaps w.base w.length a.addr a.bytes)
        let s1 := cutTransfers s0 stWINDOW_CLOSED (fun x => writesRange x a.addr a.bytes)
        done { s1 with
          cmds := { s1.cmds with
            allocs := s1.cmds.allocs.filter (fun x => x.addr != a.addr),
            windows := s1.cmds.windows.filter (fun w => w.host || !overlaps w.base w.length a.addr a.bytes) },
          imprints := { s1.imprints with weights := s1.imprints.weights.filter (fun w => w.addr != a.addr) } } c stOK)

/-! Windows (R128, R153, R165, R752). -/

/-- What refuses a WINDOW_OPEN, or its BAR2 offset. BAR2 maps device memory: host and bar2_map together answer BAD_DESCRIPTOR, and a
host range beyond 2^64, which no IOVA space holds, PROTECTION (DESIGN CHOICE, log entry 137). -/
def windowPlace (s : State) (x : Session) (base length : Nat) (isHost bar2 : Bool) : Except Status (Option Nat) :=
  if isHost && bar2 then .error stBAD_DESCRIPTOR
  else if isHost && decide (2 ^ 64 < base + length) then .error stPROTECTION
  else if !isHost && !inOneAllocation s (some x.id) base length then .error stPROTECTION
  else if !bar2 then .ok none
  else
    let used := (s.cmds.windows.filter (fun w => w.fn == x.fn)).filterMap (fun w => w.bar2.map (fun o => (o, alignUp w.length 4096)))
    match chooseSpot s 0 (32 * 2 ^ 30) (alignUp length 4096) 4096 used with
    | some o => .ok (some o)
    | none => .error stNO_RESOURCE

/-- WINDOW_OPEN (R128, R165, R752, R753). -/
def execWindowOpen (t : Nat) (c : Cmd) (base length : DWord) (isHost bar2 writable : Bool) (s : State) : Out :=
  host s t c true (fun s => match (sessionOf s c).bind (findSession s) with
    | none => done s c stPROTECTION
    | some x =>
      orFail s c (windowPlace s x base.toNat length.toNat isHost bar2) (fun o =>
        match pickFree 0 (2 ^ 32) (Config.handOut s.free) (s.cmds.windows.map (·.id)) with
        | none => done s c stNO_RESOURCE
        | some id =>
          let w : Window := { id := id, session := x.id, fn := x.fn, host := isHost, base := base.toNat,
                              length := length.toNat, bar2 := o, writable := writable }
          let s1 := takeFree s
          done { s1 with cmds := { s1.cmds with windows := s1.cmds.windows ++ [w] } } c stOK (id + o.getD 0 / 4096 * 2 ^ 32)))

/-- WINDOW_CLOSE (R98, R153, R165, R752): the close instant is its completion. -/
def execWindowClose (t : Nat) (c : Cmd) (window : Word) (s : State) : Out :=
  host s t c true (fun s => match findWindow s window with
    | none => done s c stBAD_DESCRIPTOR
    | some w =>
      if !ownsObject s c w.session w.fn then done s c stPROTECTION
      else if ringsInUse s (ringKey (!w.host) w.fn w.base) w.length then done s c stPROTECTION
      else
        let s1 := cutTransfers s stWINDOW_CLOSED (fun x => match transferDst x with | some d => d.1 == w.id | none => false)
        done { s1 with cmds := { s1.cmds with windows := s1.cmds.windows.filter (fun y => y.id != w.id) } } c stOK)

/-! Transfers (R153, R165, R422, R526, R529). -/

/-- Whether a partition's queue may use a QoS class (R529): 0 REALTIME, 1 SOFT, 2 BULK. -/
def qosAllowed (s : State) (c : Cmd) (qos : Nat) : Bool :=
  peQos (partEntry s (partOf s c)) qos && (qos != 0 || classOf s c == 2)

/-- What stops a transfer at one of its ends: a slice of another partition (R422), or what stops the access. -/
def endStatus (s : State) (c : Cmd) (k n : Nat) (write : Bool) : Option Status :=
  if decide (k < hostBase) && c.key.src != .firmware && !sliceServes s (partOf s c) k n then some stPROTECTION
  else accessStatus s k n write

/-- Start a transfer, or refuse it with the status of the first end that stops it. Its write is accepted now (R640). -/
def startTransfer (s : State) (c : Cmd) (kind : TransferKind) (length : Nat) : State :=
  let x : Transfer := { cmd := c, kind := kind, length := length, start := now s, cut := none }
  let src := match transferSrc x with | some k => endStatus s c k length false | none => none
  let dst := match transferDst x with | some (_, k) => endStatus s c k length true | none => none
  match src <|> dst with
  | some st => done s c st
  | none =>
    let s1 := match transferDst x with | some (_, k) => clearWeights s k length | none => s
    { s1 with cmds := { s1.cmds with transfers := s1.cmds.transfers ++ [x] } }

/-- DMA_COPY (R165, R422, R526, R529). -/
def execDmaCopy (t : Nat) (c : Cmd) (src dst : Word) (srcOff dstOff length : DWord) (qos : BitVec 2) (s : State) : Out :=
  host s t c (okQos qos) (fun s =>
    let n := length.toNat
    if !qosAllowed s c qos.toNat then done s c stPROTECTION
    else orFail s c (windowKey s c src srcOff.toNat n false) (fun a =>
      orFail s c (windowKey s c dst dstOff.toNat n true) (fun d => startTransfer s c (.copy a dst.toNat d) n)))

/-- DMA_FILL (R165). -/
def execDmaFill (t : Nat) (c : Cmd) (window : Word) (offset length : DWord) (pattern : Word) (s : State) : Out :=
  host s t c true (fun s => orFail s c (windowKey s c window offset.toNat length.toNat true) (fun d =>
    startTransfer s c (.fill window.toNat d pattern) length.toNat))

/-- DMA_CRC (R86, R165). -/
def execDmaCrc (t : Nat) (c : Cmd) (window : Word) (offset length : DWord) (s : State) : Out :=
  host s t c true (fun s => orFail s c (unlisted (windowKey s c window offset.toNat length.toNat false)) (fun a =>
    startTransfer s c (.crc a) length.toNat))

/-- Whether a transfer reads or writes host memory. -/
def transferHost (x : Transfer) : Bool :=
  (match transferSrc x with | some k => decide (hostBase ≤ k) | none => false)
  || (match transferDst x with | some (_, k) => decide (hostBase ≤ k) | none => false)

/-- The last write of a transfer is accepted (R71, R153, R165): its data lands, or a CRC is returned. -/
def landAll (s : State) (x : Transfer) : State :=
  match x.kind with
  | .crc a => done (dropTransfer s x) x.cmd stOK (crc32c (readKey s.mem a x.length)).toNat
  | _ =>
    match transferDst x with
    | none => s
    | some (_, d) => match accessStatus s d x.length true with
      | some st => endEarly s x st x.length
      | none => done (dropTransfer (putKey s d (transferData s x)) x) x.cmd stOK x.length

/-- The deadline of a transfer arrives (R140, R153). -/
def missTransfer (s : State) (x : Transfer) : State :=
  if x.cut.isSome then s
  else endEarly (charge s (sessionOf s x.cmd) (fun n => { n with deadlineMisses := satInc n.deadlineMisses })) x stDEADLINE_MISS x.length

/-- Whether a WINDOW_CLOSE or MEM_FREE of the same stamp still waits behind a transfer's completion and will be carried out: it is
ordered before the transfer's last write (R70, R153). -/
def closedAtStamp (s : State) (t : Nat) (x : Transfer) : Bool :=
  s.pending.any (fun i => match i with
    | .windowClose u c w => u == t && (match findWindow s w with
      | some y => ownsObject s c y.session y.fn && !ringsInUse s (ringKey (!y.host) y.fn y.base) y.length
          && (match transferDst x with | some d => d.1 == y.id | none => false)
      | none => false)
    | .memFree u c addr => u == t && (match s.cmds.allocs.find? (fun a => a.addr == addr.toNat) with
      | some a => (match a.session with | some id => ownsObject s c id a.fn | none => false) && !rangeInUse s a.addr a.bytes
          && writesRange x a.addr a.bytes
      | none => false)
    | _ => false)

/-- The deadline of a transfer has arrived by this tick: its match is ordered first, with a lower source number than DMA's (R70, R140). -/
def transferLate (s : State) (x : Transfer) : Bool := match x.cmd.deadline with | some d => deadlineArrived s d | none => false

/-- DMA_TRANSFER_COMPLETE (R153, R165, R417, R678). -/
def execDmaTransferComplete (t : Nat) (cmd : CmdKey) (outcome : DmaEnd) (s : State) : Out :=
  event s t (fun s => match s.cmds.transfers.find? (fun x => x.cmd.key == cmd && (x.cut.isSome || hasChannel s x)) with
    | none => s
    | some x =>
      match x.cut, outcome with
      | some (n, st), _ => done (dropTransfer s x) x.cmd st (prefixResult x n)
      | none, out =>
        if transferLate s x then missTransfer s x
        else if closedAtStamp s t x then endEarly s x stWINDOW_CLOSED x.length
        else match out with
        | .done => landAll (match transferSrc x with | some k => if k < hostBase then countRereads s [(k, x.length)] else s | none => s) x
        | .uncorrectable o => match transferSrc x with
          | some k => if o < x.length then endEarly (uncorrectableAt s (k + o) srcDma) x stUNCORRECTABLE o else s
          | none => s
        | .refused => if transferHost x then endEarly s x stPROTECTION x.length else s)

/-- HOST_DMA_COMPLETION_TIMEOUT (R678): 50 ms without the host's completion. -/
def execHostDmaCompletionTimeout (t : Nat) (cmd : CmdKey) (s : State) : Out :=
  event s t (fun s => match s.cmds.transfers.find? (fun x => x.cmd.key == cmd) with
    | none => s
    | some x =>
      if transferHost x && x.cut.isNone && hasChannel s x && decide (x.start + 50000000 ≤ now s) then
        done (dropTransfer (landPrefix s x (landedOf s x x.length) stINTERNAL) x) x.cmd stINTERNAL 7
      else s)

/-! The shared buffer and the LPDDR. -/

/-- Fence a slice (R623), by an uncorrectable-error count of 4 or a failed quantum. -/
def fenceSlice (s : State) (i cause : Nat) : State :=
  if 16 ≤ i ∨ s.power.fenced.getD i false then s
  else huskFault { s with power := { s.power with fenced := s.power.fenced.set i true } } srcCp 0x05 i cause

/-- SLICE_FENCE (R623): the slice has 4 uncorrectable errors in this diagnostic interval, or has failed a quantum. -/
def execSliceFence (t slice : Nat) (s : State) : Out :=
  event s t (fun s => fenceSlice s slice (if 4 ≤ s.power.sliceErrors.getD slice 0 then 3 else 4))

/-- SHARED_BUFFER_SCRUB (R418): corrected words are written back as they read, so nothing changes. -/
def execSharedBufferScrub (t _slice : Nat) (s : State) : Out := event s t (fun s => s)

/-- LPDDR_DRIFT_MEASURE (R681). -/
def execLpddrDriftMeasure (t channel : Nat) (drift : BitVec 16) (s : State) : Out :=
  event s t (fun s => { s with ports := { s.ports with lpddr := s.ports.lpddr.modify channel (fun x => { x with drift := drift }) } })

end Sys2Proof.Machine
end

