-- ==== Sys2Proof/Machine/Field.lean ====
section
/-!
DEFINITION. Machine/Field.lean: the family 0x06 commands and the events of the sectors and routes (R333–R414, R534–R536).
-/
namespace Sys2Proof.Machine

/-! Loaded routes (R378). -/

/-- The session that owns what a command makes: that of its queue, none for the mailbox (R151). -/
def ownerOf (s : State) (c : Cmd) : Word := (sessionOf s c).getD 0

/-- The route that a handle names for a command (R151). -/
def findRoute (s : State) (c : Cmd) (handle : Nat) : Option Route :=
  s.field.routes.find? (fun r => r.handle == handle && r.session == ownerOf s c)

/-- Whether a handle has outstanding ROUTE_RUNs, or stands in the step program of a serving loop. -/
def routeInUse (s : State) (handle : Nat) : Bool :=
  s.loops.any (fun l => (List.range (cfEntries l.cfg)).any (fun i => spRoute l.program i == handle)) ||
  s.field.parts.any (fun p => (p.waiting ++ (p.run.toList ++ p.spilled.toList ++ p.fenced.toList).map (·.job)).any
    (fun w => w.handle == handle))

/-- ROUTE_LOAD (R355, R378). -/
def execRouteLoad (t : Nat) (c : Cmd) (window : Word) (offset : DWord) (length : Word) (s : State) : Out :=
  host s t c true (fun s =>
    orFail s c (readWindow s c window offset.toNat length.toNat) (fun b =>
      let mine := s.field.routes.filter (fun r => r.session == ownerOf s c)
      if 65536 < b.length ∨ !routeOk b then done s c stBAD_DESCRIPTOR
      else if 256 ≤ mine.length then done s c stNO_RESOURCE
      else match pickFree 1 4095 (Config.handOut s.free) (s.field.routes.map (·.handle)) with
        | none => done s c stNO_RESOURCE
        | some h =>
          let r : Route := { handle := h, session := ownerOf s c, program := b }
          done (takeFree { s with field := { s.field with routes := s.field.routes ++ [r] } }) c stOK h))

/-- ROUTE_UNLOAD (R378). -/
def execRouteUnload (t : Nat) (c : Cmd) (handle : BitVec 12) (s : State) : Out :=
  host s t c (okHandle handle) (fun s =>
    match findRoute s c handle.toNat with
    | none => done s c stPROTECTION
    | some _ =>
      if routeInUse s handle.toNat then done s c stPROTECTION
      else done { s with field := { s.field with routes := s.field.routes.filter (fun r => r.handle != handle.toNat) } } c stOK)

/-! Submission (R363, R364, R379). -/

/-- One entry of a binding table (R363). -/
def bindingAt (b : Bytes) (i : Nat) : Binding :=
  let x := slice b (32 * i) 32
  { addr := dwordAt x 0, aux := dwordAt x 2, stride := (wordAt x 4).toNat, rows := (wordAt x 5).toNat, cols := (wordAt x 6).toNat }

/-- Whether a binding keeps the form of R363: reserved word 0; an auxiliary address for MXFP4 and OUTPUT operands only,
and blocks of 32 for MXFP4 (R348). -/
def bindingForm (prog b : Bytes) (i : Nat) : Bool :=
  let d := bindingAt b i
  wordAt (slice b (32 * i) 32) 7 == 0
  && (d.aux == 0 || rpOpFmt prog i == 6 || rpRole prog i == 1)
  && (rpOpFmt prog i != 6 || d.cols % 32 == 0)

/-- The checks of R364 on a submitted route: every range in the session's envelope, then the required counts and the
partition's size. -/
def bindStatus (s : State) (c : Cmd) (w : WaitingRoute) (b : Bytes) : Option Status :=
  let n := w.binds.length
  if (routeReads s.mem w ++ routeWrites w).any (fun r => !inEnvelope s (sessionOf s c) r.1 r.2) then some stPROTECTION
  else if (List.range n).any (fun i =>
      let d := bindingAt b i
      !bindingForm w.program b i
      || (rpNeedRows w.program i != 0 && rpNeedRows w.program i != d.rows)
      || (rpNeedCols w.program i != 0 && rpNeedCols w.program i != d.cols)) then some stBAD_DESCRIPTOR
  else if !(rpSizes w.program).testBit (peSizeLog2 (partEntry s w.part)) then some stBAD_DESCRIPTOR
  else none

/-- Whether a HARD command finds a lower-class route running that it must wait for (R532, R534). -/
def hardBlocked (s : State) (p cls : Nat) : Bool :=
  cls == 2 && peMode (partEntry s p) == 1 && (match (getPart s p).run with | some r => decide (r.job.cls < 2) | none => false)

/-- Admit a route and let it wait for its partition (R335, R522–R525, R531). -/
def submitRoute (s : State) (w : WaitingRoute) : State :=
  admitOr s w.cmd w.part w.cls (routeBound s w) (fun s =>
    let s1 := levelShare s w.part (some w.session)
    let s2 := if hardBlocked s w.part w.cls then charge s1 (some w.session) (fun n => { n with hardWaits := satInc n.hardWaits }) else s1
    modPart s2 w.part (fun x => { x with waiting := x.waiting ++ [w] }))

/-- The waiting route of a command, without its program. -/
def routeFor (s : State) (c : Cmd) : WaitingRoute where
  cmd := c
  session := ownerOf s c
  part := partOf s c
  cls := classOf s c
  sq := match c.key.src with | .queue q => q.toNat | _ => 0
  handle := 0
  program := []
  binds := []
  op := []
  submitted := now s

/-- ROUTE_RUN (R363, R364, R378): the bindings are read and checked, and the run waits for its partition. -/
def execRouteRun (t : Nat) (c : Cmd) (handle : BitVec 12) (window : Word) (offset : DWord) (s : State) : Out :=
  hostWait s t c (okHandle handle) (fun s =>
    match findRoute s c handle.toNat with
    | none => done s c stPROTECTION
    | some r =>
      let n := rpOperands r.program
      orFail s c (readWindow s c window offset.toNat (32 * n)) (fun b =>
        let w := { routeFor s c with handle := r.handle, program := r.program, binds := (List.range n).map (bindingAt b) }
        match bindStatus s c w b with
        | some st => done s c st
        | none => submitRoute s w))

/-- The shape and formats of an operation block, for which a route is built once (R380). -/
def foShape (b : Bytes) : Bytes := b.take 20 ++ (b.drop 60).take 4

/-- Note the use of a shape by a session: the most recent 256 are kept (R380). -/
def noteShape (s : State) (session : Word) (k : Bytes) : State :=
  let others := s.field.built.filter (fun e => !(e.1 == session && e.2 == k))
  let mine := (others.filter (fun e => e.1 == session)).take 255
  { s with field := { s.field with built := (session, k) :: mine ++ others.filter (fun e => e.1 != session) } }

/-- FIELD_OP (R364, R378–R380): the operation block is read and checked, and the route that is built for it waits for its partition. -/
def execFieldOp (t : Nat) (c : Cmd) (window : Word) (offset : DWord) (s : State) : Out :=
  hostWait s t c true (fun s =>
    orFail s c (readWindow s c window offset.toNat 64) (fun b =>
      let w := buildRoute s { routeFor s c with op := b }
      if !fieldOpOk b then done s c stBAD_DESCRIPTOR
      else if (routeReads s.mem w ++ routeWrites w).any (fun r => !inEnvelope s (sessionOf s c) r.1 r.2) then done s c stPROTECTION
      else submitRoute (noteShape s w.session (foShape b)) w))

/-- SECTOR_MAP (R378): the physical sector, 0x1F when absent or not yet replaced, and the epoch of its partition. -/
def execSectorMap (t : Nat) (c : Cmd) (sector : BitVec 4) (s : State) : Out :=
  host s t c true (fun s =>
    let phys := match s.field.map[sector.toNat]? with | some (.phys n) => n | _ => 0x1F
    let epoch := match partOfLogical s sector.toNat with | some p => (getPart s p).epoch.toNat | none => 0
    done s c stOK (phys + epoch * 2 ^ 16))

/-! Events of a route. -/

/-- Apply `f` to the running route of a partition. -/
def withRun (s : State) (p : Nat) (f : RouteRun → State) : State :=
  match (getPart s p).run with | some r => f r | none => s

/-- ROUTE_START (R336): the partition takes its next route, when that is the command's. -/
def execRouteStart (t part : Nat) (cmd : CmdKey) (s : State) : Out :=
  event s t (fun s => match nextRoute s part with
    | some w => if w.cmd.key = cmd then beginRoute s part w false [] else s
    | none => s)

/-- ROUTE_COMPLETE (R367, R368). A deadline that is ordered first has stopped the route already (R70). -/
def execRouteComplete (t part : Nat) (s : State) : Out :=
  event s t (fun s => withRun s part (fun r =>
    if (match r.job.cmd.deadline with | some d => deadlineArrived s d | none => false) then
      afterRoute (stopRoute s part r stDEADLINE_MISS) part
    else afterRoute (finishRoute s part r) part))

/-- ROUTE_STALL_TIMEOUT (R357, R399): a station that has been blocked on a queue for longer than stall_limit_us stops the route. -/
def execRouteStallTimeout (t part : Nat) (s : State) : Out :=
  event s t (fun s => withRun s part (fun r => if stalled s part r then afterRoute (failRoute s part r 4) part else s))

/-- The station that publishes the next tile of a queue, and the tile; none while its slot is full, an input of it is not published or
the stream has ended (R396, R397). -/
def nextTile (s : State) (p i : Nat) (r : RouteRun) (y : QueuePos) : Option (Station × Tile) :=
  if (rpQueue r.job.program y.queue).depth ≤ y.tiles.length - y.released then none
  else match producerOf r.job.program y.queue, ((runStreams s p r).get i y.queue)[y.tiles.length]? with
    | some st, some x => if inputsReady s p r i st y.tiles.length then some (st, x) else none
    | _, _ => none

/-- A running route with tile `x` published on a queue of sector `i` by its station (R346, R396): its inputs have been read without a
detection (R413). -/
def withTile (s : State) (i : Nat) (r : RouteRun) (y : QueuePos) (st : Station) (x : Tile) : RouteRun :=
  modQueue (clearInputs { r with indexFaults := satAdd r.indexFaults x.faults } i st y.tiles.length) i y.queue
    (fun y => { y with tiles := y.tiles ++ [x], moved := now s })

/-- TILE_PUBLISH (R194, R346, R393, R396): the next tile of the queue's stream, when it can be published. -/
def execTilePublish (t part sector queue : Nat) (s : State) : Out :=
  event s t (fun s => withRun s part (fun r =>
    match getQueue r sector queue with
    | none => s
    | some y =>
      match nextTile s part sector r y with
      | none => s
      | some (st, x) =>
        publishSlot (passSides (setFlags (setRun s part (withTile s sector r y st x)) part sector x.flags) part r sector st y.tiles.length)
          part sector queue r.job.program x (y.tiles.length + 1 == ((runStreams s part r).get sector queue).length)))

/-- The sink that the release of a queue's tile lets act; what a FIELD_OP writes is written at its end (log entry 143). -/
def sinkOf (w : WaitingRoute) (queue : Nat) : Option Station :=
  if w.op.isEmpty then (rpAll w.program).find? (fun st => sinkQueue st == some queue) else none

/-- The tiles that a sink acts on when it has read tile `x` at the head of its last input: the other input's is published (R397). -/
def sinkTiles (st : Station) (r : RouteRun) (i k : Nat) (x : Tile) : Option (Tile × Tile) :=
  if st.q1 = 0xFF then some (x, ⟨0, 0, 0, [], 0, 0⟩)
  else ((getQueue r i st.q0).bind (fun z => z.tiles[k]?)).map (fun a => (a, x))

/-- A tile is released (R397): the next one is at the head. -/
def passHead (s : State) (r : RouteRun) (i q k : Nat) : RouteRun :=
  modQueue r i q (fun y => { y.clear k with released := k + 1, moved := now s })

/-- TILE_RELEASE (R397, R400, R413): the tile at the head has been read in full without a detection, and a sink has written what it
writes from it; the slot is released once every output slot that was written from it has been read in full. -/
def execTileRelease (t part sector queue : Nat) (s : State) : Out :=
  event s t (fun s => withRun s part (fun r =>
    match getQueue r sector queue with
    | none => s
    | some y =>
      match y.tiles[y.released]?, consumerOf r.job.program queue with
      | some x, some st =>
        let h := readHead s part sector queue r.job.program x
        if !outputsRead r sector st y.released then
          setRun h.1 part (modQueue r sector queue (fun y => y.clear y.released))
        else
          let free := fun (s : State) (r : RouteRun) =>
            releaseSlot (setRun s part (passHead s r sector queue y.released)) part sector queue r y.released
          match sinkOf r.job queue with
          | none => free h.1 r
          | some st =>
            match sinkTiles st r sector y.released h.2 with
            | none => s
            | some ts =>
              match consumeTile h.1 part r sector st y.released ts.1 ts.2 with
              | .error e => afterRoute (stopRoute h.1 part r e) part
              | .ok (s1, r1) => free s1 r1
      | _, _ => s))

/-! Detections (R404, R409–R414). -/

/-- Count a detection in a sector's SPD_ERR_COUNT (R404). -/
def countDetect (s : State) (phys : Nat) (k : DetectKind) : State :=
  modSector s phys (fun x => match k with
    | .corrected => { x with corrected := satInc x.corrected }
    | .crc => { x with weightDetect := satInc x.weightDetect }
    | .weight => { x with weightDetect := satInc x.weightDetect }
    | .parity => { x with parityDetect := satInc x.parityDetect }
    | .outside => { x with parityDetect := satInc x.parityDetect }
    | .tag => { x with tagParity := satInc x.tagParity })

/-- Whether a detection in a slot of the queue cannot be answered by regenerating it (R412, R414). -/
def cannotRegenerate (m : Mem) (r : RouteRun) (queue : Nat) : Bool :=
  let b := r.job.program
  match producerOf b queue with
  | none => true
  | some st =>
    let whole := st.typ == 3 || st.typ == 4
    let fed := fun q => match producerOf b q with | some x => x.typ == 1 || x.typ == 2 | none => false
    (whole && (stIn st).any (fun q => !fed q)) || ((whole || st.typ == 1 || st.typ == 2) && !restartable m r.job)

/-- The tile whose slot a detection concerns: of a CRC mismatch the one that is being written, of any other the one at the head (R410). -/
def detectedTile (y : QueuePos) (kind : DetectKind) : Nat := if kind = .crc then y.tiles.length else y.released

/-- SLOT_DETECTION (R409–R414): a corrected bit is only counted; the third consecutive detection on a slot is left to
STEP_RERUN_LIMIT_REACHED; any other regenerates the slot. -/
def execSlotDetection (t part sector queue : Nat) (kind : DetectKind) (s : State) : Out :=
  event s t (fun s => match physAt s part sector with
    | none => s
    | some n =>
      let s1 := countDetect s n kind
      if kind = .corrected then s1
      else withRun s1 part (fun r =>
        if kind = .outside ∨ kind = .tag ∨ cannotRegenerate s1.mem r queue then afterRoute (routeUncorrectable s1 part sector r) part
        else
          match getQueue r sector queue with
          | none => s1
          | some y =>
            let k := detectedTile y kind
            let r1 := modQueue r sector queue (fun y => y.detect k)
            setRun s1 part (if 2 ≤ y.count k then r1 else { r1 with reruns := satInc r1.reruns })))

/-- STEP_RERUN_LIMIT_REACHED (R370, R413): three consecutive reads of the slot's contents have met a detection. -/
def execStepRerunLimitReached (t part sector queue : Nat) (s : State) : Out :=
  event s t (fun s => withRun s part (fun r =>
    match getQueue r sector queue, physAt s part sector with
    | some y, some n => if y.detections.any (fun e => decide (3 ≤ e.2)) then faultSector s n 0x0E (some stSTEP_RERUN_LIMIT) else s
    | _, _ => s))

/-! Sector faults and spares (R370–R376). -/

/-- SECTOR_HEARTBEAT_TIMEOUT (R370). -/
def execSectorHeartbeatTimeout (t sector : Nat) (s : State) : Out :=
  event s t (fun s => faultSector s sector 0x02 none)

/-- SECTOR_FAULT (R370, R371): the fence after a failed self-test quantum. -/
def execSectorFault (t sector : Nat) (s : State) : Out :=
  event s t (fun s => faultSector s sector 0x04 none)

/-- SPARE_SECTOR_READY (R372, R374, R375): the spare takes the logical sector's place; a fenced restartable route runs
again from its start, unless its deadline has arrived; a SECTOR_REMAP completes. -/
def execSpareSectorReady (t logical : Nat) (s : State) : Out :=
  event s t (fun s => match s.field.map[logical]? with
    | some (.pend spare failed c) =>
      let s1 := enterUnit { s with field := { s.field with map := s.field.map.set logical (.phys spare) } } (0x10000 + spare) 2
      let p := partOfLogical s1 logical
      let epoch := match p with | some p => (getPart s1 p).epoch.toNat | none => 0
      let s2 := repairEntry (raiseEvent s1 evSPARE_USED (1 + failed * 2 ^ 8 + spare * 2 ^ 16)) 1 failed spare
      let s3 := huskRequest s2 0x0B srcCp (leBytes 1 1 ++ leBytes 1 failed ++ leBytes 1 spare ++ [0] ++ leBytes 2 epoch)
      let s4 := match c with | some c => done s3 c stOK spare | none => s3
      match p with
      | none => s4
      | some p => rerunFenced s4 p
    | _ => s)

/-! Spilling (R401, R534–R536). -/

/-- What a full spill saves of a partition's sectors (R401); how long a queue has stood still does not grow meanwhile. -/
def saveSectors (s : State) (p : Nat) (r : RouteRun) : RouteRun :=
  { r with queues := r.queues.map (fun y => { y with moved := now s - y.moved }), saved := (partPhys s p).map (fun n => match n with | some n => (let c := getSector s n; { c with frame0 := now s - c.frame0 }) | none => Sector.reset) }

/-- A restore puts back words, tags, region registers, mode, map and flags; the error counts go on (R401, R404). -/
def restoreSectors (s : State) (p : Nat) (r : RouteRun) : State :=
  ((partPhys s p).zip r.saved).foldl (fun s e => match e.1 with
    | some n => modSector s n (fun x => { e.2 with
        fenced := x.fenced, tagParity := x.tagParity, weightDetect := x.weightDetect,
        parityDetect := x.parityDetect, corrected := x.corrected, latches := x.latches, frame0 := now s - e.2.frame0, ptrs := x.ptrs })
    | none => s) s

/-- The session whose HARD command causes a spill (R533): that of the admitted command that waits with the earliest deadline; none for
a command of the firmware. -/
def spillSession (s : State) (p : Nat) : Option Word :=
  match (s.plate.admitted.filter (fun a => a.part == p && a.started.isNone)).foldl (fun l a => insertAdmitted s a l) [] with
  | [] => none
  | a :: _ => match a.key.src with | .queue q => (findSq s q.toNat).map (·.session) | _ => none

/-- SPILL_OUT (R533, R534, R536): an admitted HARD command waits in a SPILL partition behind a unit of a lower class. -/
def execSpillOut (t part : Nat) (s : State) : Out :=
  event s t (fun s => withRun s part (fun r =>
    let e := partEntry s part
    if peMode e = 1 ∧ peSpill e ∧ r.job.cls < 2 ∧ (getPart s part).spilled.isNone ∧ hardWaits s part then
      let s1 := chargeTime s (some r.job.session) (peSize e * (now s - r.start)) 0
      let s2 := charge s1 (some r.job.session) (fun n => { n with preemptions := satInc n.preemptions })
      modPart s2 part (fun x => { x with
        run := none, spilled := some (saveSectors s part r),
        spill := (spillSession s part).map (fun i => { session := i, since := now s, out := true }) })
    else s))

/-- SPILL_RESTORE (R401, R534): with no HARD command left to run, the unit resumes as it was; its own time goes on from
here (R533), under the placement epoch that a fault has given meanwhile. It waits while a sector is being replaced, and ends with
NO_RESOURCE when one has become absent (R374, R376). -/
def execSpillRestore (t part : Nat) (s : State) : Out :=
  event s t (fun s =>
    let x := getPart s part
    match x.spilled with
    | some r =>
      if x.run.isSome || hardWaits s part || sparePending s part then s
      else if (partPhys s part).any (·.isNone) then
        afterRoute (stopRoute (modPart s part (fun x => { x with spilled := none })) part { r with start := now s } stNO_RESOURCE) part
      else
        let queues := r.queues.map (fun y => { y with moved := now s - y.moved })
        modPart (restoreSectors (chargeSpill s part) part r) part (fun x => { x with
          run := some { r with start := now s, epoch := x.epoch, queues := queues, saved := [] }, spilled := none, spill := none })
    | none => s)

end Sys2Proof.Machine
end

