-- ==== Sys2Proof/Machine/ServeOps.lean ====
section
/-!
DEFINITION. Machine/ServeOps.lean: the pool of a serving loop, its sequences and its step boundary (R453–R470, R477–R490).
-/
namespace Sys2Proof.Machine

/-- Empty a range of memory. -/
def Memory.clear (m : Memory) (a n : Nat) : Memory := m.filter (fun c => decide (c.1 < a) || decide (a + n ≤ c.1))

/-- Change device memory. -/
def onDev (s : State) (f : Memory → Memory) : State := { s with mem := { s.mem with dev := f s.mem.dev } }

/-- A state and the loop that acts in it. -/
abbrev Srv := State × Loop

/-! Records and pages (R444–R446, R453–R458). -/

def recWord (s : State) (l : Loop) (i w : Nat) : Word := phWord s.mem (l.recordAddr i) w
def recRefs (s : State) (l : Loop) (i : Nat) : Nat := (recWord s l i 2).toNat
def recScore (s : State) (l : Loop) (i : Nat) : Word := recWord s l i 3
def recTokens (s : State) (l : Loop) (i : Nat) : Nat := fld (recWord s l i 0) 8 0
def recHash (s : State) (l : Loop) (i : Nat) : Bytes := s.mem.dev.read (l.recordAddr i + 16) 16
def recPages (l : Loop) (i : Nat) : List Nat := (List.range l.pages).map (l.pageAddr i)
def recLive (s : State) (l : Loop) (i : Nat) : Bool := (recPages l i).all (fun a => phState s.mem a == 1)
/-- A record returns to the pool when every one of its pages is FREE (R454). -/
def recFree (s : State) (l : Loop) (i : Nat) : Bool := (recPages l i).all (fun a => phState s.mem a == 0)
def recPinned (s : State) (l : Loop) (i : Nat) : Bool := (recPages l i).any (fun a => phPins s.mem a != 0)

def freeRecords (s : State) (l : Loop) : List Nat := (List.range (cfRecords l.cfg)).filter (recFree s l)

/-- Write a word of a record and of every page of it. -/
def setRecord (s : State) (l : Loop) (i w pw : Nat) (v : Word) : State :=
  (recPages l i).foldl (fun s a => putWord s a pw v) (putWord s (l.recordAddr i) w v)

/-- The payload of page `k` of record `i`, where its header says that it lies (R445, R458). -/
def pagePayload (s : State) (l : Loop) (i k : Nat) : Nat := phPayload s.mem (l.pageAddr i k)

/-- The header of page `k` of record `i`, with its payload in the pool (R445). -/
def headerWords (l : Loop) (i k state refs : Nat) : List Word :=
  let b := l.cfg
  let a := l.payloadAddr i k
  [ BitVec.ofNat 32 (state * 2 ^ 28 + cfFmt b * 2 ^ 24 + (cfHeads b - 1) * 2 ^ 21 + cfDCode b * 2 ^ 18),
    BitVec.ofNat 32 (k / max 1 (cfGroups b) * 2 ^ 24 + k % max 1 (cfGroups b) * 2 ^ 16), BitVec.ofNat 32 refs, 0, 0,
    BitVec.ofNat 32 i, BitVec.ofNat 32 a, BitVec.ofNat 32 (a / 2 ^ 32), 0, 0, 0, 0, 0, 0, 0, 0 ]
  ++ (List.range 8).map (cfScale b false) ++ (List.range 8).map (cfScale b true)

def writeHeader (s : State) (l : Loop) (i state refs : Nat) : State :=
  (List.range l.pages).foldl (fun s k =>
    onDev s (fun m => m.write (l.pageAddr i k) (ofWords (headerWords l i k state refs)))) s

/-- The head and page ids of a fresh record (R446): one reference, score 0. -/
def recordBytes (l : Loop) (i parent : Nat) : Bytes :=
  let t := l.tokenAddr i
  ofWords ([BitVec.ofNat 32 (2 ^ 24), BitVec.ofNat 32 parent, 1, 0, 0, 0, 0, 0, BitVec.ofNat 32 t, BitVec.ofNat 32 (t / 2 ^ 32),
    0, 0, 0, 0, 0, 0] ++ (List.range l.pages).map (fun k => BitVec.ofNat 32 (l.pageId i k)))

/-- Take a free record (R454, R753): LIVE pages with no token. -/
def newRecord (s : State) (l : Loop) (parent : Nat) : Option (State × Nat) :=
  let fs := freeRecords s l
  match fs[Config.handOut s.free % max 1 fs.length]? with
  | none => none
  | some i => some (takeFree (onDev (writeHeader s l i 1 1) (fun m => m.write (l.recordAddr i) (recordBytes l i parent))), i)

/-- Add a reference to a record and its pages (R461). -/
def addRef (s : State) (l : Loop) (i : Nat) : State :=
  setRecord s l i 2 2 (BitVec.ofNat 32 (recRefs s l i + 1))

/-- Drop a reference of a record and its pages (R454, R463): with the last one the pages become FREE, or RETIRING while
pinned, and the record leaves the index. -/
def dropRef (x : Srv) (i : Nat) : Srv :=
  let (s, l) := x
  let n := recRefs s l i - 1
  let s1 := setRecord s l i 2 2 (BitVec.ofNat 32 n)
  if n ≠ 0 then (s1, l)
  else ((recPages l i).foldl (fun s a => setPageState s a (if phPins s.mem a = 0 then 0 else 2)) s1,
        { l with index := l.index.filter (fun e => e.2 != i) })

/-! Sequences. -/

def modSeq (l : Loop) (id : Nat) (f : Sequence → Sequence) : Loop :=
  { l with seqs := l.seqs.map (fun q => if q.id == id then f q else q) }
def getSeq (l : Loop) (id : Nat) : Option Sequence := l.seqs.find? (fun q => q.id == id)
def Sequence.live (q : Sequence) : Bool := q.st != .ended
def Sequence.prefill (q : Sequence) : Bool := decide (q.len < q.target)
def Sequence.held (q : Sequence) : List Nat := (q.entries.filter (fun e => !e.dropped && !e.remote)).map (·.record)
def countSt (l : Loop) (st : SeqState) : Nat := (l.seqs.filter (fun q => q.st == st)).length

/-- The sequences that a test admits, in an order of admission or pausing. -/
def seqsBy (l : Loop) (test : Sequence → Bool) (rank : Sequence → Nat) : List Nat :=
  (sortBy (fun a b => decide (rank a < rank b)) (l.seqs.filter test)).map (·.id)

/-- The sequences that run or are rebuilt: they take part in the steps. -/
def Sequence.active (q : Sequence) : Bool := q.st == .running || q.st == .rebuilding

/-- The hold flags of a record (R446, R467): hold_sink of any sequence whose first `n_sink` records hold it, hold_recent of any
whose last `n_recent` do. -/
def holdFlags (l : Loop) (i : Nat) : Nat :=
  let has := fun (es : List SeqEntry) => es.any (fun e => !e.dropped && e.record == i)
  let live := l.seqs.filter Sequence.live
  (if live.any (fun q => has (q.entries.drop (q.entries.length - l.nRecent))) then 2 else 0)
  + (if live.any (fun q => has (q.entries.take l.nSink)) then 1 else 0)

/-- Bring the hold flags of every record that a sequence holds up to date (R467). -/
def markHolds (x : Srv) : Srv :=
  (((x.2.seqs.filter Sequence.live).flatMap Sequence.held).eraseDups.foldl
    (fun s i => putWord s (x.2.recordAddr i) 10 (BitVec.ofNat 32 (holdFlags x.2 i))) x.1, x.2)

/-- Whether a record is pinned for eviction (R467): a hold flag is set, or a page of it is pinned. -/
def evictPinned (s : State) (l : Loop) (i : Nat) : Bool := fld (recWord s l i 10) 1 0 != 0 || recPinned s l i

/-- Mark the entry of a sequence for a record DROPPED and drop its reference (R468). -/
def dropEntry (x : Srv) (id i : Nat) : Srv :=
  let y := dropRef x i
  (y.1, modSeq y.2 id (fun q => { q with entries := q.entries.map (fun e =>
    if e.record == i && !e.dropped then { e with dropped := true } else e) }))

/-- The record to drop for space, with its sequence (R468): the lowest score, then the lowest id. -/
def dropChoice (s : State) (l : Loop) : Option (Nat × Nat) :=
  let cs := (l.seqs.filter (fun q => q.st == .running)).flatMap (fun q => (q.held.filter (fun i =>
    recRefs s l i == 1 && recLive s l i && !evictPinned s l i)).map (fun i => (q.id, i)))
  (sortBy (fun (a b : Nat × Nat) =>
    let x := (recScore s l a.2).toNat
    let y := (recScore s l b.2).toNat
    decide (x < y) || (x == y && decide (a.2 < b.2))) cs).head?

/-- A fresh record, dropping one when the pool is empty (R485 action 4). -/
def obtain_ (x : Srv) (parent : Nat) : Srv × Option Nat :=
  match newRecord x.1 x.2 parent with
  | some y => ((y.1, x.2), some y.2)
  | none =>
    match dropChoice x.1 x.2 with
    | none => (x, none)
    | some c =>
      let z := dropEntry x c.1 c.2
      match newRecord z.1 z.2 parent with
      | some y => ((y.1, z.2), some y.2)
      | none => (z, none)

/-- Pause a sequence (R485 action 4): its records with one reference that are not pinned are dropped. -/
def pauseSeq (x : Srv) (id : Nat) : Srv :=
  match getSeq x.2 id with
  | none => x
  | some q =>
    let y := (q.held.filter (fun i => recRefs x.1 x.2 i == 1 && !evictPinned x.1 x.2 i)).foldl (fun x i => dropEntry x id i) x
    (y.1, { modSeq y.2 id (fun q => { q with st := .paused, pausedAt := some y.2.order, nodes := [], fill := 0 }) with
      order := y.2.order + 1 })

/-- Copy elements between two payloads of one format: slot `a` of a half with `n` slots to slot `b` of one with `m`. -/
def copySlot (m : Mem) (b : Bytes) (src n a dst k c : Nat) : Mem :=
  (List.range (cfHeads b)).foldl (fun m h => [false, true].foldl (fun m v => (List.range (cfD b)).foldl (fun m e =>
    pokeElem m dst (cfFmt b) (pageIndex k (cfHeads b) (cfD b) h c e v)
      (pageElem m src (cfFmt b) (pageIndex n (cfHeads b) (cfD b) h a e v))) m) m) m

/-- The next block's record of a sequence, when no other sequence has it, gets record `i` as its parent (R459). -/
def setParent (s : State) (l : Loop) (q : Sequence) (b i : Nat) : State :=
  match q.entries[b + 1]? with
  | some e => if e.dropped || recRefs s l e.record != 1 then s
              else putWord s (l.recordAddr e.record) 1 (BitVec.ofNat 32 i)
  | none => s

/-- Tokens of entry `b` that are committed for the sequence: never more than reach up to its committed length (R480, log
entry 36). -/
def Sequence.committed (q : Sequence) (b count : Nat) : Nat := min count (q.len - 256 * b)

/-- Bytes of `n` tokens in every page of a record, keys and values. -/
def Loop.tokenBytes (l : Loop) (n : Nat) : Nat := n * l.pages * (2 * cfHeads l.cfg * cfD l.cfg * fmtBits (cfFmt l.cfg) / 8)

/-- Copy a block before it is written (R455): entry `b` of a sequence then points at the new record `i`. -/
def copyRecord (x : Srv) (id b i : Nat) : Srv :=
  match (getSeq x.2 id).bind (fun q => q.entries[b]?.map (fun e => (q, e))) with
  | none => x
  | some (q, e) =>
    let (s, l) := x
    let old := e.record
    let n := q.committed b e.count
    let s1 := (List.range l.pages).foldl (fun s k =>
      let s := (List.range n).foldl (fun s t =>
        { s with mem := copySlot s.mem l.cfg (pagePayload s l old k) 256 t (pagePayload s l i k) 256 t }) s
      putWord s (l.pageAddr i k) 0 (setBits (phWord s.mem (l.pageAddr i k) 0) 8 0 n)) s
    let s2 := onDev s1 (fun m => m.write (l.tokenAddr i) (m.read (l.tokenAddr old) 1024))
    let s3 := putWord (putWord s2 (l.recordAddr i) 1 (recWord s2 l old 1)) (l.recordAddr i) 10 (recWord s2 l old 10)
    let s4 := setParent (setRecord s3 l i 3 4 (recScore s3 l old)) l q b i
    let l1 := { l with copied := l.copied + l.tokenBytes n }
    dropRef (s4, modSeq l1 id (fun q => { q with entries := q.entries.set b { e with record := i } })) old

/-- Whether slot `t` of entry `b` can be written only in a copy (R455). -/
def mustCopy (x : Srv) (id b t : Nat) : Bool :=
  match (getSeq x.2 id).bind (fun q => q.entries[b]?) with
  | none => false
  | some e => decide (1 < recRefs x.1 x.2 e.record)
      || (recPages x.2 e.record).any (fun a => decide (t < phTokens x.1.mem a))

/-- Whether entry `b` of a sequence is DROPPED: its record is not the sequence's to write. -/
def isDropped (l : Loop) (id b : Nat) : Bool :=
  match (getSeq l id).bind (fun q => q.entries[b]?) with | some e => e.dropped | none => false

/-- Make entry `b` of a sequence writable at slot `t`; false when it is DROPPED or no record can be had. A block of another device
is written there. -/
def makeWritable (x : Srv) (id b t : Nat) : Srv × Bool :=
  if isDropped x.2 id b then (x, false)
  else if !ownsBlock (ownNumber x.1) x.2.cfg b then (x, true)
  else if !mustCopy x id b t then (x, true)
  else match obtain_ x noRecord with
    | (y, none) => (y, false)
    | (y, some i) => (copyRecord y id b i, true)

/-- The tokens of a block of a sequence, `n` of them. -/
def blockTokens (q : Sequence) (b n : Nat) : List Word := (q.tokens.drop (256 * b)).take n

/-- Note that entry `b` holds `n` committed tokens: the count, and the token array of its record (R446, R477). -/
def setCount (x : Srv) (id b n : Nat) : Srv :=
  match getSeq x.2 id with
  | none => x
  | some q =>
    match q.entries[b]? with
    | none => x
    | some e => (if e.remote then x.1 else onDev x.1 (fun m => m.write (x.2.tokenAddr e.record) (ofWords (blockTokens q b n))),
                 modSeq x.2 id (fun q => { q with entries := q.entries.set b { e with count := n } }))

/-- The places of a page that hold slot `t`: key and value of every head (R444). -/
def slotRanges (b : Bytes) (payload t : Nat) : List (Nat × Nat) :=
  let bits := fmtBits (cfFmt b)
  (List.range (cfHeads b)).flatMap (fun h => [false, true].map (fun v =>
    (payload + pageIndex 256 (cfHeads b) (cfD b) h t 0 v * bits / 8, (cfD b * bits + 7) / 8)))

/-- Whether nothing stops the firmware's write of slot `t` of every page of a record, and of its tokens (R98, R242, R661). -/
def slotFree (s : State) (l : Loop) (i t : Nat) : Bool :=
  ((l.tokenAddr i, 1024) :: (List.range l.pages).flatMap (fun k => slotRanges l.cfg (pagePayload s l i k) t)).all
    (fun r => (accessStatus s r.1 r.2 true).isNone)

/-- PATH_COMMIT of one node (R483): its rows are copied from the candidate block to its position; false when no record can be had
or the place is not to be written. -/
def commitNode (x : Srv) (id slot node pos : Nat) : Srv × Bool :=
  let b := pos / 256
  let t := pos % 256
  match makeWritable x id b t with
  | (y, false) => (y, false)
  | (y, true) =>
    match (getSeq y.2 id).bind (fun q => q.entries[b]?) with
    | none => (y, true)
    | some e =>
      let l := y.2
      if !e.remote && !slotFree y.1 l e.record t then (y, false)
      else
      let s := (if e.remote then [] else List.range l.pages).foldl (fun s k =>
        let s := { s with mem := copySlot s.mem l.cfg (l.subAddr slot k) 8 node (pagePayload s l e.record k) 256 t }
        let a := l.pageAddr e.record k
        putWord s a 0 (setBits (phWord s.mem a 0) 8 0 (max (t + 1) (phTokens s.mem a)))) y.1
      let z := setCount (s, if e.remote then l else { l with copied := l.copied + l.tokenBytes 1 }) id b (t + 1)
      ((z.1, modSeq z.2 id (fun q => { q with len := max q.len (pos + 1) })), true)

/-- Commit a path from a position on; false when the pool ran out. -/
def commitPath (id slot : Nat) : List Nat → Nat → Srv → Srv × Bool
  | [], _, x => (x, true)
  | n :: r, pos, x =>
    match commitNode x id slot n pos with
    | (y, true) => commitPath id slot r (pos + 1) y
    | (y, false) => (y, false)

/-! The rows of a sequence (R479, R481, R484, R489). -/

/-- Token positions of a sequence (R489). -/
def positionLimit : Nat := 131072

/-- Fill rows of the next prefill step from committed length `n`, and the seed positions (R484). -/
def fillRows (n target : Nat) : Nat := if n % 256 = 0 then 0 else min target ((n + 255) / 256 * 256) - n
def seedStart (n : Nat) : Nat := if n % 256 = 0 then n else (n + 256) / 256 * 256
def seedCount (n target : Nat) : Nat := min 8 (target - seedStart n)

/-- The blocks that a sequence must hold for its next step (R485 action 3). -/
def blocksNeeded (q : Sequence) : Nat :=
  let last := if q.prefill then
      (if seedCount q.len q.target = 0 then q.len + fillRows q.len q.target - 1 else seedStart q.len + seedCount q.len q.target - 1)
    else q.len + 7
  min 512 (last / 256 + 1)

/-- The first of a sequence's first `n` blocks that it does not hold: one past its list, or one dropped before it held a token. -/
def missingBlock (q : Sequence) (n : Nat) : Option Nat :=
  (List.range n).find? (fun b => match q.entries[b]? with | some e => e.dropped && e.count == 0 | none => true)

/-- The record of the block before block `b`, which is the parent of the record of block `b` (R459). -/
def parentOf (q : Sequence) (b : Nat) : Nat :=
  match b with
  | 0 => noRecord
  | b + 1 => match q.entries[b]? with | some e => e.record | none => noRecord

/-- Put a fresh record in place of block `b`. -/
def Sequence.withBlock (q : Sequence) (b i : Nat) : Sequence :=
  let e : SeqEntry := { dropped := false, record := i, count := 0 }
  { q with entries := if b < q.entries.length then q.entries.set b e else q.entries ++ [e] }

/-- Give a sequence fresh records up to `n` blocks, but those that other devices hold; false when the pool ran out. -/
def growTo (id : Nat) : Nat → Nat → Srv → Srv × Bool
  | 0, _, x => (x, true)
  | f + 1, n, x =>
    match (getSeq x.2 id).bind (fun q => (missingBlock q n).map (fun b => (b, parentOf q b))) with
    | none => (x, true)
    | some (b, p) =>
      if !ownsBlock (ownNumber x.1) x.2.cfg b then growTo id f n (x.1, modSeq x.2 id (fun q => q.withBlock b noRecord))
      else match obtain_ x p with
        | (y, none) => (y, false)
        | (y, some i) => growTo id f n (markHolds (y.1, modSeq y.2 id (fun q => q.withBlock b i)))

/-- Extend one running sequence (R485 actions 3 and 4) with the path that its last step accepted. -/
def extendSeq (x : Srv) (id : Nat) (path : List Nat) : Srv :=
  match getSeq x.2 id with
  | none => x
  | some q =>
    match commitPath id q.slot path q.len x with
    | (y, false) => pauseSeq y id
    | (y, true) =>
      match getSeq y.2 id with
      | none => y
      | some q1 =>
        let fills := q1.prefill && fillRows q1.len q1.target != 0
        match (if fills then makeWritable y id (q1.len / 256) (q1.len % 256) else (y, true)) with
        | (z, false) => pauseSeq z id
        | (z, true) =>
          match growTo id 512 (blocksNeeded q1) z with
          | (w, false) => pauseSeq w id
          | (w, true) => w

/-! What a step has produced (R483, R484, R466). -/

/-- The row of a sequence's node in the running step. -/
def rowOf (l : Loop) (slot : Nat) (node : Option Nat) (pos : Nat) : Option Nat :=
  findIdx (fun r => r.segment == slot && r.node == node && (node.isSome || r.position == pos)) l.rows

/-- The token that SAMPLE wrote for a row (R476). -/
def sampled (s : State) (l : Loop) (row : Option Nat) : Word :=
  match row with
  | some r => BitVec.ofNat 32 (leNat (s.mem.dev.read (l.sample.1 + r * l.sample.2) 4))
  | none => 0

/-- The depth of a node. -/
def nodeDepth (ns : List Node) : Nat → Nat → Nat
  | 0, _ => 0
  | f + 1, n => if n = 0 then 0 else match ns[n]? with | some x => nodeDepth ns f x.parent + 1 | none => 0

/-- Whether a node is placed in the step: its position lies below the limit (R489), and so does every ancestor's. -/
def Sequence.placed (q : Sequence) (n : Nat) : Bool := decide (q.len + q.fill + nodeDepth q.nodes 8 n < positionLimit)

/-- The nodes that a step has accepted, in depth order (R483): all of a prefill's seeds. -/
def acceptedNodes (s : State) (l : Loop) (q : Sequence) : List Nat :=
  let ns := (List.range q.nodes.length).filter q.placed
  if q.prefill then ns
  else ns.foldl (fun acc n => match q.nodes[n]? with
    | some x =>
      if n = 0 then acc ++ [n]
      else if acc.contains x.parent && sampled s l (rowOf l q.slot (some x.parent) 0) == x.token then acc ++ [n]
      else acc
    | none => acc) []

/-- The tokens that a step has added to a sequence (R483, R484). -/
def newTokens (s : State) (l : Loop) (q : Sequence) (path : List Nat) : List Word :=
  let last := match path.getLast? with
    | some n => rowOf l q.slot (some n) 0
    | none => rowOf l q.slot none (q.len + q.fill - 1)
  if q.prefill then
    (if q.len + q.fill + path.length < q.target ∨ q.target < q.tokens.length then [] else [sampled s l last])
  else if path.isEmpty then []
  else (path.drop 1).map (fun n => (q.nodes.getD n ⟨0, 0⟩).token) ++ [sampled s l last]

/-- The tokens that a sequence keeps of those: up to max_new and to an end token, and whether it leaves with them (R496). -/
def keptTokens (l : Loop) (q : Sequence) (ts : List Word) : List Word × Bool :=
  let a := if q.maxNew = 0 then ts else ts.take (q.maxNew - q.generated)
  let ended := findIdx (Config.endToken (cfContext l.cfg)) a
  let b := match ended with | some i => a.take (i + 1) | none => a
  (b, ended.isSome || (q.maxNew != 0 && decide (q.maxNew ≤ q.generated + b.length)))

/-- Append tokens to the output window: the tokens, then the count word (R496). -/
def emitTokens (s : State) (q : Sequence) (ts : List Word) : Except Status State :=
  let w : Word := BitVec.ofNat 32 q.outWindow
  if ts.isEmpty then .ok s
  else match writeWindow s q.cmd w (q.outOffset + 4 + 4 * q.generated) (ofWords ts) with
    | .error st => .error st
    | .ok s1 => writeWindow s1 q.cmd w q.outOffset (leBytes 4 (q.generated + ts.length))

/-- The rank of a status in R496: of two reasons to leave, the first row counts. -/
def leaveRank (st : Status) : Nat :=
  if st = stUNCORRECTABLE then 0 else if st = stNO_PAGES then 1 else if st = stDEADLINE_MISS then 2
  else if st = stLENGTH_LIMIT then 3 else if st = stOK then 5 else 4

def leaveWith (old : Option Status) (st : Status) : Option Status :=
  match old with
  | some o => if leaveRank st < leaveRank o then some st else some o
  | none => some st

/-- The completion of a draft (R482, R495). -/
def draftDone (s : State) (d : Option Draft) (result : Nat) : State :=
  match d with | some d => done s d.cmd stOK result | none => s

/-- Action 1 for one sequence (R483–R485): its fill rows are committed, its accepted path is decided, its new tokens go out. A
sequence that is rebuilt runs again when the rows of this step have reached the end of its tokens (R470). -/
def readStep (x : Srv) (q : Sequence) : Srv × List Nat :=
  let (s, l) := x
  let path := acceptedNodes s l q
  let n := q.len / 256
  let kept := keptTokens l q (newTokens s l q path)
  let x1 : Srv := if q.fill = 0 then x else setCount x q.id n (q.len % 256 + q.fill)
  let s1 := draftDone x1.1 q.inUse path.length
  let out := emitTokens s1 q kept.1
  let s2 := match out with | .ok t => t | .error _ => s1
  let y := modSeq x1.2 q.id (fun y => { y with
    len := y.len + y.fill, tokens := y.tokens ++ kept.1, generated := y.generated + kept.1.length, nodes := [], fill := 0,
    inUse := none, st := if y.st = .rebuilding ∧ q.target ≤ q.len + q.fill + path.length then .running else y.st,
    leaver := match out with
      | .error st => leaveWith y.leaver st
      | .ok _ => if kept.2 then leaveWith y.leaver stOK else y.leaver })
  ((s2, y), path)

/-- The masses of the step, in ascending layer order, then ascending head order (R466). -/
def sortedMasses (l : Loop) : List (Nat × Nat × List Word) :=
  sortBy (fun a b => decide (a.1 < b.1) || (a.1 == b.1 && decide (a.2.1 < b.2.1))) l.masses

/-- M of a record (R466). -/
def massOf (s : State) (l : Loop) (i : Nat) : Word :=
  let t := readTable s.mem l.attTable
  let mine := (List.range t.entries).filter (fun k => (t.entry s.mem k).record == i)
  let g := cfHeads l.cfg
  (sortedMasses l).foldl (fun m x => (List.range g).foldl (fun m h => mine.foldl (fun m k =>
    (fadd m (x.2.2.getD (k * g + h) 0)).val) m) m) 0

/-- The eviction scores of the running sequences' LIVE records (R466). -/
def updateScores (x : Srv) : Srv :=
  let (s, l) := x
  let rs := ((l.seqs.filter (fun q => q.st == .running)).flatMap Sequence.held).eraseDups.filter (recLive s l)
  (rs.foldl (fun s i => setRecord s l i 3 4 (fadd (fmul (recScore s l i) l.decay).val (massOf s l i)).val) s, l)

/-! Leaving (R485 action 2, R487, R490, R496). -/

/-- A sequence ends: its references go, its commands complete. -/
def retireSeq (x : Srv) (id : Nat) (st : Status) : Srv :=
  match getSeq x.2 id with
  | none => x
  | some q =>
    let y := q.held.foldl dropRef x
    let s1 := done y.1 q.cmd st (q.generated % 2 ^ 32 + q.id * 2 ^ 32)
    let s2 := q.leaves.foldl (fun s c => done s c.1 stOK) s1
    let s3 := draftDone (draftDone s2 q.draft 16) q.inUse 16
    (s3, modSeq y.2 id (fun q => { q with
      st := .ended, entries := [], nodes := [], fill := 0, draft := none, inUse := none, leaves := [] }))

/-- The status with which a sequence leaves at this boundary, if it does. -/
def leavesNow (s : State) (l : Loop) (q : Sequence) : Option Status :=
  if !q.live then none
  else if l.stopping.isSome then some (q.leaver.getD stOK)
  else match q.leaver with
    | some st => some st
    | none => if q.leaves.any (fun c => ordBefore c.2 (srcCmd c.1.key) (now s) srcCp) then some stOK else none

def retireLeavers (x : Srv) : Srv :=
  x.2.seqs.foldl (fun x q => match leavesNow x.1 x.2 q with | some st => retireSeq x q.id st | none => x) x

/-! Joining and resuming (R460–R463, R470, R486). -/

/-- prefix_hash of block `b` of a sequence with `n` tokens of it (R460). -/
def blockHash (ctx : Bytes) (tokens : List Word) : Nat → Nat → Bytes
  | 0, n => (sha256 (ctx ++ leBytes 2 n ++ ofWords (tokens.take n))).take 16
  | b + 1, n => (sha256 (blockHash ctx tokens b 256 ++ leBytes 2 n ++ ofWords ((tokens.drop (256 * (b + 1))).take n))).take 16

/-- Whether a record matches block `b` of a joiner (R461). -/
def confirms (s : State) (l : Loop) (q : Sequence) (b n parent i : Nat) : Bool :=
  recLive s l i && recTokens s l i == n && fld (recWord s l i 1) 23 0 == parent
  && s.mem.dev.read (l.tokenAddr i) (4 * n) == ofWords (blockTokens q b n)

/-- How many of the blocks from `lo` to `hi` − 1 this device holds (R493). -/
def ownBlocks (s : State) (l : Loop) (lo hi : Nat) : Nat :=
  ((List.range (hi - lo)).filter (fun i => ownsBlock (ownNumber s) l.cfg (lo + i))).length

/-- Whether the other devices of a spread loop fit their shares of a sequence's need (R493): a free value (log entry 37). -/
def othersFit (l : Loop) (id : Nat) : Bool := cfSpread l.cfg == 0 || Config.remoteFits l.boundary id

/-- The records that a joiner matches, block by block, and the records that failed confirmation (R461, R462). Whether a block that
another device holds matches is that device's answer, a free value (log entry 37). -/
def matchBlocks (s : State) (l : Loop) (q : Sequence) : Nat → Nat → Nat → List Nat × Nat
  | 0, _, _ => ([], 0)
  | f + 1, b, parent =>
    let n := min 256 (q.promptLen - 256 * b)
    if n = 0 then ([], 0)
    else if !ownsBlock (ownNumber s) l.cfg b then
      (if Config.remoteMatch l.boundary q.id b then let r := matchBlocks s l q f (b + 1) noRecord; (noRecord :: r.1, r.2) else ([], 0))
    else
      let h := leNat (blockHash (cfContext l.cfg) q.tokens b n)
      let cs := (l.index.filter (fun e => e.1 == h)).map (·.2)
      match cs.find? (confirms s l q b n parent) with
      | none => ([], cs.length)
      | some i =>
        let bad := (cs.takeWhile (fun j => j != i)).length
        let r := matchBlocks s l q f (b + 1) i
        (i :: r.1, bad + r.2)

/-- Add `n` blocks to a sequence: fresh records of those that are free, and none for a block that another device holds. -/
def freshEntries (id : Nat) : Nat → Srv → Srv
  | 0, x => x
  | n + 1, x =>
    match getSeq x.2 id with
    | none => x
    | some q =>
      if !ownsBlock (ownNumber x.1) x.2.cfg q.entries.length then
        freshEntries id n (x.1, modSeq x.2 id (fun q => q.withBlock q.entries.length noRecord))
      else match newRecord x.1 x.2 (parentOf q q.entries.length) with
      | none => x
      | some y => freshEntries id n (y.1, modSeq x.2 id (fun q => q.withBlock q.entries.length y.2))

/-- Admit a joiner when its whole need is free (R486); false when it does not fit. Of a prompt that is matched whole, the last
token counts as not committed: a decode step runs it as node 0 and gives the first generated token (DESIGN CHOICE, log
entry 36). -/
def admitSeq (x : Srv) (id : Nat) : Srv × Bool :=
  match getSeq x.2 id with
  | none => (x, true)
  | some q =>
    let m := matchBlocks x.1 x.2 q 512 0 noRecord
    let total := (q.promptLen + 8 + 255) / 256
    let l := { x.2 with collisions := x.2.collisions + m.2 }
    if (freeRecords x.1 l).length < ownBlocks x.1 l m.1.length total ∨ !othersFit l id then ((x.1, l), false)
    else
      let whole := decide (q.promptLen ≤ 256 * m.1.length)
      let len := if whole then q.promptLen - 1 else 256 * m.1.length
      let l := { l with hits := l.hits + m.1.length }
      let s1 := (m.1.filter (fun i => i != noRecord)).foldl (fun s i => addRef s l i) x.1
      let l1 := { modSeq l id (fun q => { q with
        st := .running, admitted := some l.order, len := len, target := if whole then len else q.target,
        entries := (List.range m.1.length).map (fun b =>
          { dropped := false, record := m.1.getD b noRecord, count := min 256 (q.promptLen - 256 * b) }) }) with order := l.order + 1 }
      (freshEntries id (min total 512 - m.1.length) (s1, l1), true)

/-- The block of a sequence's first DROPPED entry. -/
def firstDropped (q : Sequence) : Nat := (findIdx (fun (e : SeqEntry) => e.dropped) q.entries).getD q.entries.length

/-- Resume a paused sequence when its whole need is free (R470, R486): every block from its first DROPPED entry on is built
again by prefill steps over its kept tokens, and until the last of them the sequence counts as paused; one that has nothing to
build runs at once. -/
def resumeSeq (x : Srv) (id : Nat) : Srv × Bool :=
  match getSeq x.2 id with
  | none => (x, true)
  | some q =>
    let b := firstDropped q
    let total := min 512 ((q.len + 7) / 256 + 1)
    if (freeRecords x.1 x.2).length < ownBlocks x.1 x.2 b total ∨ !othersFit x.2 id then (x, false)
    else
      let old := ((q.entries.drop b).filter (fun e => !e.dropped && !e.remote)).map (·.record)
      let y := old.foldl dropRef x
      let l := modSeq y.2 id (fun q => { q with
        st := if min q.len (256 * b) < q.len then .rebuilding else .running, pausedAt := none, entries := q.entries.take b,
        len := min q.len (256 * b), target := if q.promptLen < q.tokens.length then q.tokens.length - 1 else q.promptLen })
      (freshEntries id (total - b) (y.1, l), true)

/-- Action 5: resume, then take in, each in its order, up to the first that does not fit. -/
def enterAll : List (Nat × Bool) → Srv → Srv
  | [], x => x
  | (id, resume) :: r, x =>
    match (if resume then resumeSeq x id else admitSeq x id) with
    | (y, true) => enterAll r y
    | (y, false) => y

/-- The joiners that this boundary may take in: those whose SEQ_JOIN is ordered before it (R70, R485). -/
def joiners (s : State) (l : Loop) : List Nat :=
  (sortBy (fun (a b : Sequence) => decide (a.joined < b.joined)) (l.seqs.filter (fun q => q.st == .waiting
    && ordBefore q.joined (srcCmd q.cmd.key) (now s) srcCp))).map (·.id)

/-- A joiner that waits no longer: not admitted at its first boundary with `wait` clear, or past its deadline (R496). -/
def dropJoiners (x : Srv) (ids : List Nat) : Srv :=
  ids.foldl (fun x id => match getSeq x.2 id with
    | none => x
    | some q =>
      if q.st != .waiting then x
      else if !q.wait && !q.seenBoundary then retireSeq x id stNO_PAGES
      else if (match q.cmd.deadline with | some d => deadlineArrived x.1 d | none => false) then
        retireSeq (charge x.1 (some q.session) (fun n => { n with deadlineMisses := satInc n.deadlineMisses }), x.2) id stDEADLINE_MISS
      else (x.1, modSeq x.2 id (fun q => { q with seenBoundary := true }))) x

/-! Tiers (R458, R473). -/

/-- A slice of the shared buffer that belongs to the firmware: in no partition's share, and powered (R420). -/
def firmwareSlice (s : State) (i : Nat) : Bool :=
  s.plate.parts.all (fun p => !peHasSlice p.entry i) && rangePowered s (i * sliceBytes) sliceBytes

/-- A place for `n` bytes in a firmware slice (R473, R753), the lowest slice that has one. -/
def slicePlace (s : State) (n : Nat) : Option Nat :=
  (List.range 16).findSome? (fun i => if firmwareSlice s i then
    chooseSpot s (i * sliceBytes) ((i + 1) * sliceBytes) n 4096 (heldRanges s) else none)

/-- Move the payload of page `k` of record `i` to another place (R458): it is copied, and one update of the header gives the new
address and tier. -/
def movePage (s : State) (l : Loop) (i k dest : Nat) (shared : Bool) : State :=
  let n := cfPageBytes l.cfg
  let a := l.pageAddr i k
  let h := s.mem.dev.read a 128
  let w := setBits (wordAt h 0) 17 17 (if shared then 1 else 0)
  let s1 := onDev s (fun m => m.write dest (m.read (phPayload s.mem a) n))
  onDev s1 (fun m => m.write a (leBytes 4 w.toNat ++ (h.drop 4).take 20 ++ leBytes 8 dest ++ h.drop 32))

/-- Whether a page may move: it is LIVE, with one reference and no pin (R458). -/
def mayMove (s : State) (a : Nat) : Bool := phState s.mem a == 1 && phRefs s.mem a == 1 && phPins s.mem a == 0

/-- The LIVE records of a loop by their scores, the highest first, and of equal scores the lower id. -/
def recordsByScore (s : State) (l : Loop) : List Nat :=
  sortBy (fun a b =>
    let x := (recScore s l a).toNat
    let y := (recScore s l b).toNat
    decide (y < x) || (x == y && decide (a < b))) ((List.range (cfRecords l.cfg)).filter (recLive s l))

/-- The page that gives up its place in a firmware slice for a page of score `w`: one of the lowest-scored record, of a lower
score, that may move. -/
def yieldingPage (s : State) (l : Loop) (w : Word) : Option (Nat × Nat) :=
  (recordsByScore s l).reverse.findSome? (fun i =>
    if (recScore s l i).toNat < w.toNat then
      ((List.range l.pages).find? (fun k => phTier s.mem (l.pageAddr i k) == 1 && mayMove s (l.pageAddr i k))).map (fun k => (i, k))
    else none)

/-- Give page `k` of record `i` a place in a firmware slice, if there is one or a page of a lower score makes room. -/
def promotePage (l : Loop) (s : State) (i k : Nat) : State :=
  let a := l.pageAddr i k
  if phTier s.mem a = 1 ∨ !mayMove s a then s
  else match slicePlace s (cfPageBytes l.cfg) with
    | some dest => takeFree (movePage s l i k dest true)
    | none => match yieldingPage s l (recScore s l i) with
      | none => s
      | some y =>
        let s1 := movePage s l y.1 y.2 (l.payloadAddr y.1 y.2) false
        match slicePlace s1 (cfPageBytes l.cfg) with
        | some dest => takeFree (movePage s1 l i k dest true)
        | none => s1

/-- Bring back to the pool the pages that lie in a slice that is the firmware's no longer. -/
def retreatPages (s : State) (l : Loop) : State :=
  (List.range (cfRecords l.cfg)).foldl (fun s i => (List.range l.pages).foldl (fun s k =>
    let a := l.pageAddr i k
    if phTier s.mem a == 1 && mayMove s a && !firmwareSlice s (phPayload s.mem a / sliceBytes) then
      movePage s l i k (l.payloadAddr i k) false else s) s) s

/-- The moves of a boundary (R458, R473): the pages of the highest-scoring records move into firmware slices, page by page, as
space permits (DESIGN CHOICE, log entry 146: the order and the moment). -/
def moveTiers (x : Srv) : Srv :=
  ((recordsByScore x.1 x.2).foldl (fun s i => (List.range x.2.pages).foldl (fun s k => promotePage x.2 s i k) s)
    (retreatPages x.1 x.2), x.2)

/-! The next step (R463, R467, R474, R478–R482). -/

/-- The hash engine's time for the hash of a block of `n` tokens, charged to a session (R460, R532, R642): 400 ns for a full one, in
proportion for another (log entry 157). -/
def hashTime (s : State) (session : Word) (n : Nat) : State :=
  charge s (some session) (fun k => { k with hashNs := min (k.hashNs + 400 * n / 256) (2 ^ 64 - 1) })

/-- Index the records whose token count has changed (R463), at most four of one hash (R462). -/
def indexEntry (x : Srv) (q : Sequence) (b : Nat) : Srv :=
  match q.entries[b]? with
  | none => x
  | some e =>
    let (s, l) := x
    if e.dropped || e.remote || e.count ≤ recTokens s l e.record then x
    else
      let h := blockHash (cfContext l.cfg) q.tokens b e.count
      let s1 := putWord s (l.recordAddr e.record) 0 (setBits (recWord s l e.record 0) 8 0 e.count)
      let s2 := onDev s1 (fun m => (recPages l e.record).foldl (fun m a => m.write (a + 32) h) (m.write (l.recordAddr e.record + 16) h))
      let rest := l.index.filter (fun y => y.2 != e.record)
      let full := 4 ≤ (rest.filter (fun y => y.1 == leNat h)).length
      (hashTime s2 q.session e.count, { l with index := if full then rest else rest ++ [(leNat h, e.record)] })

/-- Apply to every entry of every sequence that holds records, running or paused. -/
def onEntries (f : Srv → Sequence → Nat → Srv) (x : Srv) : Srv :=
  (x.2.seqs.filter Sequence.live).foldl (fun x q => (List.range q.entries.length).foldl (fun x b => f x q b) x) x

/-- Whether the nodes of a draft keep R481, node 0 being the sequence's newest token. -/
def draftOk (ns : List Node) : Bool :=
  (List.range ns.length).all (fun i => match ns[i]? with
    | some x => decide (x.parent ≤ i) && (List.range i).all (fun j => match ns[j]? with
        | some y => y.parent != x.parent || y.token != x.token
        | none => true)
    | none => true)

/-- The bits of a node and of all its ancestors (R479). -/
def ancMask (ns : List Node) : Nat → Nat → Nat
  | 0, _ => 0
  | f + 1, n => if n = 0 then 1 else match ns[n]? with | some x => 2 ^ n + ancMask ns f x.parent | none => 0

/-- Give a running sequence its fill rows and nodes for the next step. -/
def planRows (x : Srv) (q : Sequence) : Srv :=
  if q.prefill then
    let fill := fillRows q.len q.target
    let start := seedStart q.len
    let ns := (List.range (seedCount q.len q.target)).map (fun k => (⟨if k = 0 then 0xF else k - 1, q.tokens.getD (start + k) 0⟩ : Node))
    (x.1, modSeq x.2 q.id (fun q => { q with fill := fill, nodes := ns, inUse := none }))
  else
    let node0 : Node := ⟨0xF, q.tokens.getD q.len 0⟩
    let ready := match q.draft with | some d => ordBefore d.stamp (srcCmd d.cmd.key) (now x.1) srcCp | none => false
    let fits := match q.draft with | some d => d.length == q.len | none => false
    let s1 := if ready && !fits then draftDone x.1 q.draft 16 else x.1
    let used := if ready && fits then q.draft else none
    let ns := node0 :: (match used with | some d => d.nodes | none => [])
    (s1, modSeq x.2 q.id (fun q => { q with
      fill := 0, nodes := ns, inUse := used, draft := if ready then none else q.draft }))

/-- The rows of a sequence in a step (R479). -/
def seqRows (q : Sequence) : List StepRow :=
  (List.range q.fill).map (fun k => { segment := q.slot, position := q.len + k, node := none, token := q.tokens.getD (q.len + k) 0 })
  ++ ((List.range q.nodes.length).filter q.placed).map (fun n =>
      { segment := q.slot, position := q.len + q.fill + nodeDepth q.nodes 8 n, node := some n, token := (q.nodes.getD n ⟨0, 0⟩).token })

/-- The sequences that the length table names (R478): those that run or are rebuilt, in segment order. -/
def tableSeqs (l : Loop) : List Sequence :=
  sortBy (fun (a b : Sequence) => decide (a.slot < b.slot)) (l.seqs.filter Sequence.active)

/-- The sequences of a step, in segment order: those that have a row in it (R447). -/
def stepSeqs (l : Loop) : List Sequence := (tableSeqs l).filter (fun q => !(seqRows q).isEmpty)

/-- The block-list entries of a sequence in a table, `fill` counting its fill rows in the open block (R480). A block that another
device holds stands there as DROPPED, so that the later ones keep their positions (R452, R493): it names a record that the
sequence has here. -/
def tableEntries (q : Sequence) (fill : Bool) : List SeqEntry :=
  let es := ((List.range q.entries.length).filterMap (fun b => q.entries[b]?.map (fun e =>
    let e := { e with count := q.committed b e.count }
    if fill && b == q.len / 256 then { e with count := e.count + q.fill } else e))).filter (fun e => e.count != 0)
  match (es.filter (fun e => !e.remote)).head? with
  | none => []
  | some y => es.map (fun e => if e.remote then { e with dropped := true, record := y.record } else e)

/-- Whether the fill rows of a sequence go to another device (R494): its open block lives there. -/
def fillsElsewhere (q : Sequence) : Bool := match q.entries[q.len / 256]? with | some e => q.fill != 0 && e.remote | none => false

/-- The rows of a sequence in a table. A device that holds no candidate block takes the candidate rows as queries only; the append table
has only the rows that are written here (R479, R493, R494). -/
def tableRows (q : Sequence) (att cands : Bool) : List StepRow :=
  ((seqRows q).filter (fun r => att || (if r.node.isSome then cands else !fillsElsewhere q))).map (fun r =>
    if cands then r else { r with node := none })

/-- The bytes of an append or attention table (R447, R479, R480). -/
def tableBytes (l : Loop) (all : List Sequence) (att cands : Bool) : Bytes :=
  let qs := all.filter (fun q => !(tableRows q att cands).isEmpty)
  let rowsOf := fun (q : Sequence) => tableRows q att cands
  let rows := qs.flatMap rowsOf
  let es := qs.map (fun q => tableEntries q att)
  let sum := fun (n : Nat) (f : Sequence → Nat) => ((qs.take n).map f).foldl (· + ·) 0
  let w := fun (n : Nat) => (BitVec.ofNat 32 n : Word)
  let addr := fun (n : Nat) => [w n, w (n / 2 ^ 32)]
  let head := [w (2 ^ 24 + qs.length), w rows.length, w (es.foldl (fun n x => n + x.length) 0),
    w (cfLayers l.cfg * 2 ^ 24 + cfGroups l.cfg * 2 ^ 16)] ++ addr (if att then l.massArray else 0) ++ addr l.records
    ++ addr l.headers ++ List.replicate 6 0
  let slots := fun (q : Sequence) => if cands then q.nodes.length else 0
  let segs := (List.range qs.length).flatMap (fun i => match qs[i]? with
    | some q => [w (q.slot * 2 ^ 16), w (sum i (fun q => (rowsOf q).length)), w (rowsOf q).length,
        w (sum i (fun q => (tableEntries q att).length)), w (tableEntries q att).length, w (slots q)]
        ++ addr (if slots q = 0 then 0 else l.candBlock q.slot)
    | none => [])
  let rowWords := qs.flatMap (fun q => (rowsOf q).flatMap (fun r =>
    let score := if Config.scoreRow l.boundary r.position then 2 ^ 19 else 0
    [w (r.segment * 2 ^ 16), w r.position,
      w (match r.node with
         | some n => 2 ^ 31 + n * 2 ^ 28 + ancMask q.nodes 8 n * 2 ^ 20 + score
         | none => score), 0]))
  let entryWords := es.flatMap (fun x => x.flatMap (fun e => [w ((if e.dropped then 2 ^ 30 else 0) + e.record), w e.count]))
  ofWords (head ++ segs ++ rowWords ++ entryWords)

/-- The length table (R478). -/
def lengthBytes (qs : List Sequence) : Bytes :=
  let w := fun (n : Nat) => (BitVec.ofNat 32 n : Word)
  ofWords ((List.range qs.length).flatMap (fun i => match qs[i]? with
    | some q =>
      let parents := (List.range 8).foldl (fun n k => n + (match q.nodes[k]? with | some x => if q.placed k then x.parent else 0xF | none => 0xF) * 16 ^ k) 0
      [w (q.slot * 2 ^ 16 + (if q.prefill then 1 else 0) * 2 ^ 14 + ((List.range q.nodes.length).filter q.placed).length * 2 ^ 8), w q.id, w q.len, w q.fill, w parents,
        w (((qs.take i).map (fun q => (seqRows q).length)).foldl (· + ·) 0), 0, 0]
    | none => []))

/-- A route of a step: entry `i` of the program, on behalf of the loop. -/
def loopRoute (s : State) (l : Loop) (i handle : Nat) (program : Bytes) (binds : List Binding) (op : Bytes) : WaitingRoute :=
  let sq := match l.cmd.key.src with | .queue q => q.toNat | _ => 0
  { cmd := { key := ⟨.firmware, BitVec.ofNat 16 i⟩, quiet := false, expert := false, deadline := none },
    session := l.session, part := l.part, cls := (match findSq s sq with | some q => q.cls | none => 0), sq := sq,
    handle := handle, program := program, binds := binds, op := op, submitted := now s }

/-- The firmware's greedy SAMPLE route (R476): its one binding names the logits, with the step's rows where it gives none. -/
def greedyRoute (s : State) (l : Loop) (rows i : Nat) : WaitingRoute :=
  let d := bindingAt (s.mem.dev.read (spBindings l.program i) 32) 0
  loopRoute s l i 0 [] [] (greedyBlock (if d.rows = 0 then rows else d.rows) d.cols d.stride d.addr l.tokenArray)

/-- Entry `i` of the step program as a route of the step, its operands bound anew and the bound of an ATTEND route covered (R435, R474, log entry 33). -/
def stepRoute (s : State) (l : Loop) (rows i : Nat) : Option WaitingRoute :=
  match s.field.routes.find? (fun r => r.handle == spRoute l.program i && r.session == l.session) with
  | none => if greedyEntry l.program i then some (greedyRoute s l rows i) else none
  | some r =>
    let role := spRole l.program i
    let n := rpOperands r.program
    let table := s.mem.dev.read (spBindings l.program i) (32 * n)
    let bind := fun (k : Nat) =>
      let d := bindingAt table k
      let op := rpRole r.program k
      if op = 4 ∧ role = 3 then { d with addr := l.appendTable }
      else if op = 4 ∧ role = 4 then { d with addr := l.attTable }
      else if d.rows ≠ 0 ∨ op = 4 then d
      else if op = 3 then { d with addr := l.packed, stride := 4, rows := rows, cols := max 1 d.cols }
      else if op = 1 ∧ role = 6 then { d with addr := l.tokenArray, stride := 4, rows := rows, cols := max 1 d.cols }
      else { d with rows := rows }
    let binds := (List.range n).map bind
    let program := match attendOf r.program with | some st => attendCycles s.mem r.program binds st | none => r.program
    some (loopRoute s l i r.handle program binds [])

/-- Whether the home device leaves this route to another device (R493): an APPEND or FORWARD of another's head group. -/
def remoteRoute (own : Nat) (b : Bytes) (role : Nat) (w : WaitingRoute) : Bool :=
  (role == 3 || role == 4) && cfSpread b == 1
  && (attendPlace w.program).2 % (spreadPlace own b).2 != (spreadPlace own b).1

/-- What the messages of the other devices bring before the routes of a step run (R493, R494): their form is not given, so the bytes are
free values (log entry 37). At the home device, the outputs of the head groups of others, and the rows that an APPEND takes when others
take fill rows; elsewhere the rows from the home device, its tokens, and its candidate rows. -/
def remoteBytes (own : Nat) (l : Loop) (qs : List Sequence) (ws : List (Nat × WaitingRoute)) : List (Nat × Nat) :=
  if cfSpread l.cfg = 0 then []
  else if isHome own l.cfg then
    (ws.filter (fun w => w.1 == 4 && remoteRoute own l.cfg 4 w.2)).flatMap (fun w => routeWrites w.2)
    ++ (if qs.any fillsElsewhere then (ws.filter (fun w => w.1 == 3)).flatMap (fun w => routeInputs w.2) else [])
  else
    (ws.filter (fun w => (w.1 == 3 || w.1 == 4) && !remoteRoute own l.cfg w.1 w.2)).flatMap (fun w => routeInputs w.2)
    ++ (l.tokenArray, 4 * rowsMax l.cfg)
    :: (if holdsCands own l.cfg then [] else qs.map (fun q => (l.candBlock q.slot, l.pages * cfSubBytes l.cfg)))

/-- Start the step (R475, R485 action 6); one whose bound exceeds the wait limit of a WAIT partition is not started (R525). The home device
runs the step program; another device runs the APPEND and FORWARD routes of what lives on it (R493). -/
def startStep (x : Srv) : Srv :=
  let (s, l0) := x
  let qs := stepSeqs l0
  let rows := qs.flatMap seqRows
  let own := ownNumber s
  let cands := holdsCands own l0.cfg
  let appended := (qs.flatMap (fun q => tableRows q false cands)).length
  let l := { l0 with rows := rows, warn := 0, failed := none, masses := [], stage := none, todo := [] }
  if let some st := accessStatus s l.arrays (arraysBytes l.cfg) true then (s, { l with stage := some 0, failed := some st })
  else if rows.isEmpty then (onDev s (fun m => m.write l.lengthTable (lengthBytes (tableSeqs l))), l)
  else
    let s1 := onDev s (fun m => (((m.write l.lengthTable (lengthBytes (tableSeqs l))).write l.appendTable (tableBytes l qs false cands)).write
      l.attTable (tableBytes l qs true cands)).write l.packed (ofWords (rows.map (·.token))))
    let s2 := onDev s1 (fun m => m.clear l.massArray (4 * entriesMax l.cfg * cfHeads l.cfg))
    let order := spOrder l.program (cfEntries l.cfg) (cfLayers l.cfg) (!l.actions.isEmpty)
    let ws := order.map (fun i => (stepRoute s2 l (if spRole l.program i = 3 then appended else rows.length) i).map
      (fun w => (spRole l.program i, w)))
    let known := ws.filterMap id
    let remote := remoteBytes own l qs known
    let s3 := if remote.isEmpty then s2 else spoil s2 remote
    let out := (known.filter (fun w => w.1 == 6)).getLast?.bind (fun w =>
      ((List.range w.2.binds.length).find? (fun k => rpRole w.2.program k == 1)).bind (fun k => w.2.binds[k]?))
    let runs := fun (w : Nat × WaitingRoute) => (isHome own l.cfg || w.1 == 3 || w.1 == 4) && !remoteRoute own l.cfg w.1 w.2
      && (w.1 != 3 || decide (0 < appended))
    let l1 := { l with
      stage := some 0, begun := none, todo := (known.filter runs).map (·.2),
      sample := (match out with | some d => if isHome own l.cfg then (d.addr, d.stride) else (l.tokenArray, 4) | none => (l.tokenArray, 4)),
      failed := if known.length < ws.length then some stNO_RESOURCE else none }
    let e := partEntry s l.part
    let bound := (l1.todo.map (routeBound s3)).foldl (· + ·) 0 + boundaryNs l
    let long := peMode e == 1 && !peSpill e && decide (4 < peSize e) && decide (partWaitLimit s l.part * 1000 < bound)
    nextStepRoute (levelShare s3 l.part (some l.session)) (if long then { l1 with failed := some stNO_RESOURCE } else l1)

/-- Whether a route of a loop's step waits or runs. -/
def stepBusy (s : State) (l : Loop) : Bool :=
  let x := getPart s l.part
  !l.todo.isEmpty || x.waiting.any (fun w => w.cmd.key.src == .firmware)
  || (x.run.toList ++ x.spilled.toList ++ x.fenced.toList).any (fun r => r.job.cmd.key.src == .firmware)

/-- The policy block that the boundary puts in force (R90). -/
def takePolicy (l : Loop) : Loop :=
  match l.policy with
  | some b => { l with decay := wordAt b 1, nSink := fld (wordAt b 0) 15 8, nRecent := fld (wordAt b 0) 7 0, policy := none }
  | none => l

/-- Actions 1 to 4 of a boundary (R485). -/
def boundaryFirst (x0 : Srv) : Srv :=
  let l0 := { x0.2 with hits := 0, copied := 0 }
  let x : Srv := (x0.1, l0)
  let sound := l0.stage.isSome && l0.failed.isNone
  let ids := (l0.seqs.filter Sequence.active).map (·.id)
  let r := ids.foldl (fun (a : Srv × List (Nat × List Nat)) id => match getSeq a.1.2 id with
    | none => a
    | some q =>
      if sound && !(q.nodes.isEmpty && q.fill == 0) then let y := readStep a.1 q; (y.1, a.2 ++ [(id, y.2)])
      else ((draftDone a.1.1 q.inUse 16, modSeq a.1.2 id (fun q => { q with nodes := [], fill := 0, inUse := none })), a.2)) (x, [])
  let x1 : Srv := updateScores (r.1.1, takePolicy r.1.2)
  let x2 := markHolds (retireLeavers x1)
  (seqsBy x2.2 Sequence.active (fun q => q.admitted.getD 0)).foldl (fun x id => match getSeq x.2 id with
    | none => x
    | some q =>
      if !q.active then x
      else extendSeq x id (match r.2.find? (fun p => p.1 == id) with | some p => p.2 | none => [])) x2

/-- The sequences whose committed length has reached the limit leave at the next boundary (R490). -/
def markLimit (l : Loop) : Loop :=
  { l with seqs := l.seqs.map (fun q => if q.active && decide (positionLimit ≤ q.len) then
    { q with leaver := leaveWith q.leaver stLENGTH_LIMIT } else q) }

/-- A step boundary of a loop (R485). -/
def boundary (s : State) (l : Loop) : Srv :=
  let x := boundaryFirst (s, l)
  let x1 : Srv := (x.1, markLimit x.2)
  let js := joiners x1.1 x1.2
  let x2 := enterAll ((seqsBy x1.2 (fun q => q.st == .paused) (fun q => q.pausedAt.getD 0)).map (fun i => (i, true)) ++ js.map (fun i => (i, false))) x1
  let x3 := dropJoiners x2 js
  let x4 := moveTiers (markHolds (onEntries indexEntry x3))
  let x5 := (x4.2.seqs.filter Sequence.active).foldl planRows x4
  startStep (x5.1, { x5.2 with boundary := x5.2.boundary + 1 })

end Sys2Proof.Machine
end

