-- ==== Sys2Proof/Machine/Serve.lean ====
section
/-!
DEFINITION. Machine/Serve.lean: the family 0x07 commands and STEP_BOUNDARY (R472–R496).
-/
namespace Sys2Proof.Machine

/-! The loop (R472–R475, R495). -/

/-- A piece of memory of the session for a loop: its address (R424, R753). -/
def serveAlloc (s : State) (x : Session) (bytes : Nat) (lo hi : Nat) : Option (State × Nat) :=
  if x.quota.toNat < sessionBytes s x.id + bytes then none
  else if lpddrBase ≤ lo ∧ !lpddrFits s 2 bytes then none
  else match chooseSpot s (max lo (fnMemBase s x.fn)) (min hi (fnMemLimit s x.fn)) bytes 4096 (heldRanges s) with
  | none => none
  | some a =>
    let n : Allocation := { addr := a, bytes := bytes, cls := 2, session := some x.id, fn := x.fn }
    let s1 := takeFree s
    some ({ s1 with cmds := { s1.cmds with allocs := s1.cmds.allocs ++ [n] } }, a)

/-- Several pieces in LPDDR, in order. -/
def serveAllocs (x : Session) : List Nat → State → Option (State × List Nat)
  | [], s => some (s, [])
  | n :: r, s =>
    match serveAlloc s x n lpddrBase (lpddrBase + lpddrBytes) with
    | none => none
    | some (s1, a) => match serveAllocs x r s1 with
      | none => none
      | some (s2, l) => some (s2, a :: l)

/-- The sizes of a loop's pool (R444–R446, R473): headers, records, token arrays, payloads, candidate blocks, step arrays. -/
def poolSizes (b : Bytes) : List Nat :=
  let pages := cfRecords b * cfPages b
  [128 * pages, cfRecords b * recordStride (cfLayers b) (cfGroups b), 1024 * cfRecords b, pages * cfPageBytes b,
   cfSequences b * cfPages b * cfSubBytes b, arraysBytes b]

/-- The route that an entry of the step program names, of the loop's session (R378). -/
def entryRoute (s : State) (session : Word) (b : Bytes) (i : Nat) : Option Route :=
  s.field.routes.find? (fun r => r.handle == spRoute b i && r.session == session)

/-- Whether an entry keeps its layout (R474). -/
def entryForm (b : Bytes) (i : Nat) : Bool :=
  withinMasks (toWords 4 (spEntry b i)) [mask 31 20 ||| mask 11 0, 0, mAll, mAll]
  && inRange 1 7 (spRole b i) && (inRange 2 5 (spRole b i) || spLayer b i == 0)

/-- Whether the ATTEND station of an APPEND or FORWARD entry is that of the configuration (R473, R475). -/
def entryStation (cfg b : Bytes) (i : Nat) (r : Route) : Bool :=
  let role := spRole b i
  if role ≠ 3 ∧ role ≠ 4 then true
  else match attendOf r.program with
    | none => false
    | some st => st.op == role - 3 && atLayer st == spLayer b i && decide (atLayer st < cfLayers cfg) && decide (atGroup st < cfGroups cfg)
        && atKvHeads st == cfHeads cfg && atD st == cfD cfg && atHq st == cfHq cfg
        && atTheta st == cfTheta cfg && atHalf st == cfHalf cfg && atSplit st == cfSplit cfg

/-- The checks of R475 on a step program, and that its routes and binding tables are the session's (R151, R752). -/
def programStatus (s : State) (session : Word) (cfg b : Bytes) : Option Status :=
  let is := List.range (cfEntries cfg)
  if !is.all (entryForm b) then some stBAD_DESCRIPTOR
  else if is.any (fun i => !greedyEntry b i && (entryRoute s session b i).isNone) then some stPROTECTION
  else if is.any (fun i => match entryRoute s session b i with
      | some r => !inEnvelope s (some session) (spBindings b i) (32 * rpOperands r.program)
      | none => !inEnvelope s (some session) (spBindings b i) 32) then some stPROTECTION
  else if !(List.range (cfLayers cfg)).all (fun l =>
      !(spLayerOf b (cfEntries cfg) 3 l).isEmpty && !(spLayerOf b (cfEntries cfg) 4 l).isEmpty) then some stBAD_DESCRIPTOR
  else if is.any (fun i => match entryRoute s session b i with | some r => !entryStation cfg b i r | none => !greedyEntry b i) then
    some stBAD_DESCRIPTOR
  else if (spOf b (cfEntries cfg) 6).isEmpty then some stBAD_DESCRIPTOR
  else none

/-- A loop whose pool lies at `as`: every page FREE, no sequence. -/
def freshLoop (p : Nat) (session : Word) (c : Cmd) (cfg program : Bytes) (as : List Nat) : Loop where
  part := p
  session := session
  cmd := c
  cfg := cfg
  program := program
  headers := as.getD 0 0
  records := as.getD 1 0
  tokens := as.getD 2 0
  payloads := as.getD 3 0
  cands := as.getD 4 0
  arrays := as.getD 5 0
  decay := cfDecay cfg
  nSink := cfSink cfg
  nRecent := cfRecent cfg
  policy := none
  index := []
  collisions := 0
  seqs := []
  boundary := 0
  rows := []
  stage := none
  todo := []
  begun := none
  hits := 0
  copied := 0
  sample := (0, 4)
  masses := []
  nextSeq := 0
  order := 0
  warn := 0
  failed := none
  actions := []
  stopping := none

/-- A loop that holds its partition as one job is eligible from its start, and its session's V is raised (R499, R531). -/
def levelJob (s : State) (p : Nat) (session : Word) : State :=
  if peSize (partEntry s p) ≤ 4 then levelShare s p (some session) else s

/-- SERVE_CONFIG (R472–R475, R495): the pool comes from the session's quota. -/
def execServeConfig (t : Nat) (c : Cmd) (window : Word) (offset : DWord) (s : State) : Out :=
  host s t c true (fun s =>
    let p := partOf s c
    match (sessionOf s c).bind (findSession s) with
    | none => done s c stPROTECTION
    | some x =>
      orFail s c (readWindow s c window offset.toNat 128) (fun cfg =>
        if !cfOk s.ports.peer.number.toNat cfg then done s c stBAD_DESCRIPTOR
        else if hasLoop s p then done s c stNO_RESOURCE
        else
          let n := 16 * cfEntries cfg
          if !inEnvelope s (some x.id) (cfProgram cfg) n then done s c stPROTECTION
          else match accessStatus s (cfProgram cfg) n false with
            | some st => done s c st
            | none =>
              let b := readKey s.mem (cfProgram cfg) n
              match programStatus s x.id cfg b with
              | some st => done s c st
              | none =>
                if 0xFFFFFF < cfRecords cfg * cfPages cfg then
                  done s c stNO_RESOURCE
                else match serveAllocs x (poolSizes cfg) s with
                  | none => done s c stNO_RESOURCE
                  | some (s1, as) =>
                    let l := freshLoop p x.id c cfg b as
                    let s2 := onDev s1 (fun m => (m.clear l.headers ((poolSizes cfg).getD 0 0)).clear l.records ((poolSizes cfg).getD 1 0))
                    let s3 := levelJob (writeHeader s2 l 0 0 0) p x.id
                    done { s3 with loops := s3.loops ++ [l] } c stOK (cfRecords cfg)))

/-- The loop of a command's partition. -/
def findLoop (s : State) (p : Nat) : Option Loop := s.loops.find? (fun l => l.part == p)

/-- Go on with the loop of the command's partition; without one, NO_RESOURCE. -/
def withLoop (s : State) (c : Cmd) (k : Loop → State) : State :=
  match findLoop s (partOf s c) with | none => done s c stNO_RESOURCE | some l => k l

/-- SERVE_STOP (R495, R496): every sequence leaves at the next boundary, where the loop ends. -/
def execServeStop (t : Nat) (c : Cmd) (s : State) : Out :=
  host s t c true (fun s => withLoop s c (fun l =>
    if sessionOf s c != some l.session then done s c stPROTECTION
    else if l.stopping.isSome then done s c stNO_RESOURCE
    else setLoop s { l with stopping := some c }))

/-- SERVE_STATUS (R495). -/
def execServeStatus (t : Nat) (c : Cmd) (s : State) : Out :=
  host s t c true (fun s => withLoop s c (fun l =>
    done s c stOK ((freeRecords s l).length + countSt l .running * 2 ^ 24 + countSt l .waiting * 2 ^ 36 + (countSt l .paused + countSt l .rebuilding) * 2 ^ 48)))

/-! Sequences (R477–R496). -/

/-- The sequence that a command names, with its loop (R151, R495). -/
def findSeq (s : State) (id : Nat) : Option (Loop × Sequence) :=
  s.loops.findSome? (fun l => (getSeq l id).map (fun q => (l, q)))

def withSeq (s : State) (c : Cmd) (id : Word) (k : Loop → Sequence → State) : State :=
  match findSeq s id.toNat with
  | none => done s c stBAD_DESCRIPTOR
  | some (l, q) =>
    let fn := match findSession s q.session with | some x => x.fn | none => 0
    if ownsObject s c q.session fn then k l q else done s c stPROTECTION

/-- SEQ_JOIN (R489, R495, R496): the sequence waits for its admission; the command completes when it ends. -/
def execSeqJoin (t : Nat) (c : Cmd) (window : Word) (promptOffset : DWord) (promptTokens : BitVec 18) (maxNew : BitVec 16)
    (wait : Bool) (outWindow : Word) (outOffset : DWord) (s : State) : Out :=
  host s t c (okSeqJoin promptTokens) (fun s => withLoop s c (fun l =>
    let n := promptTokens.toNat
    let live := l.seqs.filter Sequence.live
    if positionLimit ≤ n then done s c stLENGTH_LIMIT
    else orFail s c (readWindow s c window promptOffset.toNat (4 * n)) (fun b =>
      orFail s c (windowKey s c outWindow outOffset.toNat 4 true) (fun _ =>
        match sessionOf s c, pickFree 0 (cfSequences l.cfg) (Config.handOut s.free) (live.map (·.slot)),
            pickFree 0 (2 ^ 32) (Config.handOut s.free) (s.loops.flatMap (fun l => l.seqs.map (·.id))) with
        | some session, some slot, some id =>
          if l.stopping.isSome then done s c stNO_RESOURCE
          else
            let q : Sequence := { id := id, session := session, cmd := c, st := .waiting, slot := slot, len := 0, promptLen := n,
                                  target := n, tokens := toWords n b, entries := [], nodes := [], fill := 0, draft := none,
                                  inUse := none, leaves := [], leaver := none, maxNew := maxNew.toNat, wait := wait,
                                  outWindow := outWindow.toNat, outOffset := outOffset.toNat, generated := 0, joined := now s,
                                  admitted := none, pausedAt := none, seenBoundary := false }
            let s1 := hashTime (takeFree s) session (256 * (n / 256))
            setLoop s1 { l with seqs := l.seqs ++ [q] }
        | _, _, _ => done s c stNO_RESOURCE))))

/-- The nodes of a SEQ_DRAFT (R495). -/
def draftNodes (n : Nat) (parents : Word) (tokens : List Word) : List Node :=
  (List.range n).map (fun i => ⟨fld parents (4 * i + 3) (4 * i), tokens.getD i 0⟩)

/-- SEQ_DRAFT (R481, R482, R495): it replaces an unused earlier one, and completes when it has been used or discarded. -/
def execSeqDraft (t : Nat) (c : Cmd) (sequence : Word) (nodes : BitVec 3) (length : BitVec 18) (parents : Word)
    (tokens : List Word) (s : State) : Out :=
  host s t c true (fun s => withSeq s c sequence (fun l q =>
    let ns := draftNodes nodes.toNat parents tokens
    if q.st != .running then done s c stNO_RESOURCE
    else if !draftOk ns then done s c stBAD_DESCRIPTOR
    else
      let d : Draft := { cmd := c, length := length.toNat, nodes := ns, stamp := now s }
      setLoop (draftDone s q.draft 16) (modSeq l q.id (fun q => { q with draft := some d }))))

/-- SEQ_LEAVE (R487, R495): the boundary that it is ordered before retires the sequence. -/
def execSeqLeave (t : Nat) (c : Cmd) (sequence : Word) (s : State) : Out :=
  host s t c true (fun s => withSeq s c sequence (fun l q =>
    if q.st == .ended then done s c stALREADY_DONE
    else setLoop s (modSeq l q.id (fun q => { q with leaves := q.leaves ++ [(c, now s)] }))))

/-- The code of a sequence state (R477). -/
def SeqState.code : SeqState → Nat
  | .waiting => 0
  | .running => 1
  | .paused => 2
  | .rebuilding => 2
  | .ended => 3

/-- SEQ_STATUS (R495): with window 0 no report is written. -/
def execSeqStatus (t : Nat) (c : Cmd) (sequence window : Word) (offset : DWord) (s : State) : Out :=
  host s t c true (fun s => withSeq s c sequence (fun l q =>
    let result := q.st.code + q.len * 4 + min 1023 q.held.length * 2 ^ 20 + q.generated % 2 ^ 32 * 2 ^ 32
    match l.actions.find? (fun a => a.sequence == q.id) with
    | some a => if window = 0 ∨ a.report = [] then done s c stOK result else writeReply s c window offset.toNat a.report result
    | none => done s c stOK result))

/-- SEQ_RECOMPUTE (R477, R486, R495): the sequence is paused, and action 5 rebuilds it. -/
def execSeqRecompute (t : Nat) (c : Cmd) (sequence : Word) (s : State) : Out :=
  host s t c true (fun s => withSeq s c sequence (fun l q =>
    if !q.entries.any (·.dropped) then done s c stALREADY_DONE
    else if q.st != .running then done s c stOK
    else done (setLoop (draftDone s q.inUse 16) { modSeq l q.id (fun q => { q with
      st := .paused, pausedAt := some l.order, nodes := [], fill := 0, inUse := none }) with order := l.order + 1 }) c stOK))

/-! Action bindings (R491, R495). -/

/-- What refuses an ACTION_BIND, or the MPC and STOP images. -/
def bindImages (s : State) (l : Loop) (a : ActionBinding) : Except Status (Bytes × Bytes) :=
  let p := partEntry s (bindPart s l a)
  let im := actionImage s a
  let stop := slotImage s (remapped s a.stopEngine) a.stopSlot
  let sl := (slotAt s a.plateSlot).getD []
  if (spOf l.program (cfEntries l.cfg) 7).isEmpty then .error stBAD_DESCRIPTOR
  else if (slotAt s a.plateSlot).isNone || slClass sl != 2 || slUse sl != 1 then .error stBAD_DESCRIPTOR
  else if !([a.engine, a.stopEngine].all (fun e => e == 0xF || peHasEngine p e)) then .error stNO_RESOURCE
  else if im.isEmpty || imKind im != 3 || stop.isEmpty || imKind stop != 2 || imStopKnots stop == 0 then .error stBAD_DESCRIPTOR
  else .ok (im, stop)

/-- The largest result of the two problems (R247). -/
def bindResultBytes (im stop : Bytes) : Nat :=
  let params := { defaultParams im with emitPlan := true }
  alignUp (max (resultSize im [] params (defaultItems im))
    (resultSize stop (ofWords [0, 0, 0, 16]) (defaultParams stop) (defaultItems stop))) 4096

/-- ACTION_BIND (R491, R495): three chunk-set buffers in the share of the partition whose engines read them, that of the Plate slot
(DEDUCED, log entry 147), and the firmware's own area. -/
def execActionBind (t : Nat) (c : Cmd) (sequence : Word) (engine : BitVec 4) (slot : BitVec 3) (stopEngine : BitVec 4)
    (stopSlot : BitVec 3) (limitSet : BitVec 4) (chunkCount : BitVec 7) (chunkExtra : BitVec 6) (plateSlot : BitVec 12)
    (s : State) : Out :=
  host s t c (okActionBind engine stopEngine chunkCount chunkExtra) (fun s => withSeq s c sequence (fun l q =>
    let a : ActionBinding := { sequence := q.id, session := q.session, engine := engine.toNat, slot := slot.toNat,
                               stopEngine := stopEngine.toNat, stopSlot := stopSlot.toNat, limitSet := limitSet.toNat,
                               chunkCount := chunkCount.toNat, chunkExtra := chunkExtra.toNat, plateSlot := plateSlot.toNat,
                               published := none, age := 0, nextChunk := 0, prev := none, sets := 0, area := 0, resultBytes := 0,
                               batch := 0, batchSet := 0, report := [] }
    if q.st == .ended then done s c stNO_RESOURCE
    else match bindImages s l a, findSession s l.session with
      | .error st, _ => done s c st
      | .ok _, none => done s c stNO_RESOURCE
      | .ok (im, stop), some x =>
        let e := partEntry s (bindPart s l a)
        let lo := peFirstSlice e * sliceBytes
        let n := bindResultBytes im stop
        match serveAlloc s x (12 * a.chunkCount * chunkElems im a.chunkExtra) lo (lo + peSliceCount e * sliceBytes) with
        | none => done s c stNO_RESOURCE
        | some (s1, sets) =>
          match serveAlloc s1 x (areaBytes n) lpddrBase (lpddrBase + lpddrBytes) with
          | none => done s c stNO_RESOURCE
          | some (s2, area) =>
            let b := { a with sets := sets, area := area, resultBytes := n }
            done (setLoop s2 { l with actions := l.actions.filter (fun y => y.sequence != q.id) ++ [b] }) c stOK))

/-! Boundaries. -/

/-- A loop ends (R496): its pool and its bindings' buffers go. -/
def dropLoop (s : State) (l : Loop) : State :=
  let mine := [l.headers, l.records, l.tokens, l.payloads, l.cands, l.arrays] ++ l.actions.flatMap (fun a => [a.sets, a.area])
  { s with
    loops := s.loops.filter (fun x => x.part != l.part),
    cmds := { s.cmds with allocs := s.cmds.allocs.filter (fun a => !(a.session == some l.session && mine.contains a.addr)) } }

/-- STEP_BOUNDARY (R485): between two steps of the loop. After SERVE_STOP every sequence ends here, and the loop with them. -/
def execStepBoundary (t : Nat) (part : Nat) (s : State) : Out :=
  event s t (fun s => match findLoop s part with
    | none => s
    | some l =>
      if stepBusy s l then s
      else match l.stopping with
        | none => let x := boundary s l; setLoop x.1 x.2
        | some c =>
          let x := boundaryFirst (s, l)
          done (dropLoop x.1 x.2) c stOK (l.seqs.filter Sequence.live).length)

end Sys2Proof.Machine
end

