-- ==== Sys2Proof/Machine/PhaseEvents.lean ====
section
/-!
DEFINITION. Machine/PhaseEvents.lean: the edges and stalls of the phase sources, and the encoder inputs (R33–R53,
R91, R703–R707).
-/
namespace Sys2Proof.Machine

/-! Edges (R33–R41). -/

/-- PHASE_EDGE (R33, R35, R41, R53): a qualifying edge of a source that counts edges, frames, lines, increments or
802.1AS time; the other types have events of their own. -/
def execPhaseEdge (t source : Nat) (s : State) : Out :=
  event s t (fun s => modPs s source (fun p =>
    match psType p.cfg with
    | 1 => countEdge (now s) p
    | 5 => edge (now s) (gptpRaw s p.cfg) p
    | 6 => edge (now s) (p.raw + 0x10000) p
    | 7 => edge (now s) (p.raw + 0x10000) p
    | 8 => countEdge (now s) p
    | _ => p))

/-- LIDAR_INDEX_PULSE (R40): at a raw count that is no multiple of counts_per_rev it is an index error. -/
def execLidarIndexPulse (t source : Nat) (s : State) : Out :=
  event s t (fun s => modPs s source (fun p =>
    if psType p.cfg = 8 ∧ p.raw.toNat / 65536 % max 1 (psParam p.cfg % 2 ^ 24) ≠ 0 then { p with indexErr := satInc p.indexErr }
    else p))

/-- PHASE_SOURCE_STALL (R49–R52): no edge for stall_periods × P ticks. A source that a SAFETY or HARD slot references is an
end-to-end fault and a safe-state trigger (R51, R577). -/
def execPhaseSourceStall (t source : Nat) (s : State) : Out :=
  event s t (fun s =>
    let p := getPs s source
    if psInterpValid p && !p.stalled && decide (psStallPeriods p.cfg * psPeriod p ≤ now s - p.stamp) then
      let s1 := modPs s source (fun p => { p with stalled := true, stallCount := satInc p.stallCount })
      let s2 := huskFault s1 (srcPs source) 6 source 8
      if sourceReferenced s2 source 2 then
        safeTrigger (huskRequest s2 0x0E (srcPs source) (leBytes 1 source ++ leBytes 1 4)) srcShell
      else s2
    else s)

/-! Encoder inputs (R91, R703–R707). -/

def getEncoder (s : State) (n : Nat) : Encoder := s.ports.encoders.getD n Encoder.reset
def modEncoder (s : State) (n : Nat) (f : Encoder → Encoder) : State :=
  { s with ports := { s.ports with encoders := s.ports.encoders.modify n f } }

/-- The place of a pair of levels in the sequence that counts up: A leads B (PRESUMED, log entry 24). -/
def quadPlace (a b : Bool) : Nat :=
  match a, b with
  | false, false => 0
  | true, false => 1
  | true, true => 2
  | false, true => 3

/-- The sources that follow an encoder input see an edge at tick `t` at its present position (R33, R38). -/
def encoderEdge (s : State) (n t : Nat) (ty : Nat) : State :=
  let raw := encoderPosition s n
  modSourcesOn s (0x10 + n) [ty] (fun p => let q := edge t raw p; { q with countValid := q.countValid || ty == 3 })

/-- QUAD_STATE_CHANGE (R33, R704): one level changed moves the count by one; both changed in one sample is a quad error. -/
def execQuadStateChange (t enc : Nat) (a b : Bool) (s : State) : Out :=
  event s t (fun s =>
    let e := getEncoder s enc
    let s1 := modEncoder s enc (fun e => { e with a := a, b := b })
    if e.mode ≠ 1 then s
    else match (quadPlace a b + 4 - quadPlace e.a e.b) % 4 with
      | 1 => encoderEdge (modEncoder s1 enc (fun e => { e with count := e.count + 1 })) enc (now s) 2
      | 3 => encoderEdge (modEncoder s1 enc (fun e => { e with count := e.count - 1 })) enc (now s) 2
      | 2 => modEncoder s1 enc (fun e => { e with quadErrors := satInc e.quadErrors })
      | _ => s1)

/-- ENC_INDEX_EDGE (R704): the Z input of a quadrature input latches its count. -/
def execEncIndexEdge (t enc : Nat) (s : State) : Out :=
  event s t (fun s => modEncoder s enc (fun e => if e.mode = 1 then { e with zLatch := e.count.signExtend 64 } else e))

/-- Length of a bit at the rate of a serial input, in ns (R705). -/
def bitNs (rate : BitVec 2) : Nat :=
  match rate.toNat with
  | 0 => 400
  | 1 => 200
  | 2 => 125
  | _ => 100

/-- The last tick at which the reply to a request sent at `g` may begin (R705, R707): 4 µs after its stop bit. -/
def replyLimit (rate : BitVec 2) (g : Nat) : Nat := g + 10 * bitNs rate + 4000

/-- Whether a serial reply is valid (R705, R707). -/
def replyValid (rate : BitVec 2) (g start : Nat) (data : BitVec 56) (stop : Bool) : Bool :=
  decide (start ≤ replyLimit rate g) && stop && !data.getLsbD 0
  && crc8 (leBytes 6 (data.toNat % 2 ^ 48)) == BitVec.ofNat 8 (data.toNat / 2 ^ 48)

/-- SERIAL_ENC_REPLY (R705–R707): a valid reply is an edge at the stamp of its request; an invalid one counts a serial
error. -/
def execSerialEncReply (t enc startAt : Nat) (data : BitVec 56) (stop : Bool) (s : State) : Out :=
  event s t (fun s =>
    let e := getEncoder s enc
    match e.mode.toNat, e.request with
    | 2, some g =>
      let s1 := modEncoder s enc (fun e => { e with request := none })
      if replyValid e.rate g startAt data stop then
        let n := e.posBits.toNat
        let pos := toSigned n (data.toNat / 256 % 2 ^ 40)
        encoderEdge (modEncoder s1 enc (fun e => { e with count := BitVec.ofInt 48 pos })) enc g 3
      else modEncoder s1 enc (fun e => { e with serialErrors := satInc e.serialErrors })
    | _, _ => s)

/-- SERIAL_REPLY_TIMEOUT (R707): no start bit within 4 µs of the request's stop bit. -/
def execSerialReplyTimeout (t enc : Nat) (s : State) : Out :=
  event s t (fun s =>
    let e := getEncoder s enc
    match e.request with
    | some g => if replyLimit e.rate g < now s then
        modEncoder s enc (fun e => { e with request := none, serialErrors := satInc e.serialErrors }) else s
    | none => s)

end Sys2Proof.Machine
end

