-- ==== Sys2Proof/Machine/ServoOps.lean ====
section
/-!
DEFINITION. Machine/ServoOps.lean: the rules that the servo commands and the events of the motion network share: fields of
the process image, faults and their escalation, the limits of a pair, moves, and the commands that wait for a read
instant (R22, R294–R300, R318–R331, R691–R693).
-/
namespace Sys2Proof.Machine

def modNet (s : State) (f : ServoNet → ServoNet) : State := { s with servo := { s.servo with net := f s.servo.net } }
def getPair (s : State) (p : Nat) : Pair := s.servo.pairs.getD p { retired := true, testing := false }
def modPair (s : State) (p : Nat) (f : Pair → Pair) : State :=
  { s with servo := { s.servo with pairs := s.servo.pairs.modify p f } }

def configured (c : Channel) : Bool := !c.cfg.isEmpty

/-! The network image (R691–R693). -/

def mnMode (b : Bytes) : Nat := fld (wordAt b 0) 23 22
def mnFast (b : Bytes) : Bool := wbit (wordAt b 0) 21
def mnNodes (b : Bytes) : Nat := fld (wordAt b 0) 15 8
def mnSafeties (b : Bytes) : Nat := fld (wordAt b 0) 7 0
def mnNode (b : Bytes) (i : Nat) : Bytes := slice b (32 + 24 * i) 24
def mnSafety (b : Bytes) (i : Nat) : Bytes := slice b (32 + 24 * mnNodes b + 16 * i) 16
def nodeOutAt (n : Bytes) : Nat := fld (wordAt n 2) 31 16
def nodeOutLen (n : Bytes) : Nat := fld (wordAt n 2) 15 0
def nodeInAt (n : Bytes) : Nat := fld (wordAt n 3) 31 16
def nodeInLen (n : Bytes) : Nat := fld (wordAt n 3) 15 0
/-- Forwarding delay of a node in ns. -/
def nodeDelay (n : Bytes) : Nat := fld (wordAt n 4) 11 0 * 10

/-- The nodes of a line: in DUAL mode port 0 carries the image's lower half and port 1 the upper (R691). -/
def lineNodes (b : Bytes) (line : Nat) : List Bytes :=
  let l := (List.range (mnNodes b)).map (mnNode b)
  if mnMode b ≠ 2 then (if line = 0 then l else [])
  else
    let upper := fun n => if nodeOutLen n = 0 then decide (2048 ≤ nodeInAt n) else decide (2048 ≤ nodeOutAt n)
    l.filter (fun n => upper n == (line == 1))

/-- The round trip of a line in ns (R693); B is taken as the line's output and input bytes (DEDUCED, log entry 31). -/
def lineTrip (b : Bytes) (line : Nat) : Nat :=
  let l := lineNodes b line
  let bytes := l.foldl (fun n x => n + nodeOutLen x + nodeInLen x) 0
  8 * (bytes + 50) * (if mnFast b then 1 else 10) + l.foldl (fun n x => n + nodeDelay x) 0

/-- Whether both lines of an image keep R693. -/
def tripFits (b : Bytes) (txShift rxBound : Nat) : Bool :=
  b.isEmpty || (List.range 2).all (fun l => decide (lineTrip b l + txShift ≤ rxBound))

/-! The process image (R325, R326). -/

/-- The fields of a configuration in the output image and in the input image: offset and bytes. -/
def outFields (c : List Word) : List (Nat × Nat) :=
  [(cfgOutOffset c, if cfgOutWide c then 4 else 2), (cfgCtrlOffset c, 2)]
    ++ (if cfgTffOffset c = 0xFFFF then [] else [(cfgTffOffset c, 4)])
def inFields (c : List Word) : List (Nat × Nat) := [(cfgStatusOffset c, 2), (cfgPosOffset c, 4)]

/-- Replace bytes of an image at an offset. -/
def putImage (img : Bytes) (o : Nat) (b : Bytes) : Bytes := img.take o ++ b ++ img.drop (o + b.length)

/-- The fields of a configuration in `dest` take what `src` holds there. -/
def copyFields (c : List Word) (src dest : Bytes) : Bytes :=
  (outFields c).foldl (fun img f => putImage img f.1 (slice src f.1 f.2)) dest

/-- Write a channel's outputs into an output image (R313). -/
def writeOutputs (cfg : List Word) (drive tff : Int) (enable : Bool) (img : Bytes) : Bytes :=
  let n := if cfgOutWide cfg then 4 else 2
  let i1 := putImage img (cfgOutOffset cfg) (leBytes n (wrapN (8 * n) drive))
  let i2 := putImage i1 (cfgCtrlOffset cfg) (leBytes 2 (if enable then cfgCtrlEnable cfg else cfgCtrlDisable cfg))
  if cfgTffOffset cfg = 0xFFFF then i2 else putImage i2 (cfgTffOffset cfg) (leBytes 4 (wrapN 32 tff))

/-- The status word of a channel in the last returned frame. -/
def statusWord (s : State) (cfg : List Word) : Nat := numAt s.servo.net.inImage (cfgStatusOffset cfg) 2

/-! Timing (R295, R297). -/

/-- The network timing in force: T_cyc and rx_bound. -/
def netTiming (s : State) : Nat × Nat := (s.servo.net.tCyc, s.servo.net.rxBound)

/-- Whether a channel samples at count `n` (R295). -/
def samplesAt (cfg : List Word) (n : Nat) : Bool := (n + 8 - cfgPhase cfg) % 2 ^ cfgDivLog2 cfg == 0

/-- R22 and R297 for the channels of one pair; without a motion cycle only R22 limits them. -/
def pairFits (timing : Nat × Nat) (cfgs : List (List Word)) : Bool :=
  decide (cfgs.length ≤ 32) && (timing.1 == 0 ||
    (List.range 8).all (fun k => decide (600 * (cfgs.filter (fun c => samplesAt c k)).length + 1000 + timing.2 ≤ timing.1)))

/-- The configurations of the channels on a pair, channel `but` apart. -/
def pairCfgs (s : State) (p but : Nat) : List (List Word) :=
  (List.range 96).filterMap (fun n =>
    let c := getChannel s n
    if configured c && c.pair == p && n != but then some c.cfg else none)

/-- Whether a pair takes channels (R330, R621). -/
def pairOpen (s : State) (p : Nat) : Bool :=
  decide (p < 4) && !(getPair s p).retired && !(getPair s p).testing
  && (match s.servo.drain with | some d => d.pair != p | none => true)

/-- Whether pair `p` has room for channel `n` with a configuration (R22, R297, R329). -/
def pairRoom (s : State) (p n : Nat) (cfg : List Word) : Bool :=
  pairOpen s p && pairFits (netTiming s) (cfg :: pairCfgs s p n)

/-! Moves (R329, R330). -/

/-- The channels configured on a pair, in ascending number. -/
def pairChannels (s : State) (p : Nat) : List Nat :=
  (List.range 96).filter (fun n => configured (getChannel s n) && (getChannel s n).pair == p)

/-- The lowest-numbered pair other than `p` that has room for channel `n`. -/
def moveTarget (s : State) (p n : Nat) : Option Nat :=
  (List.range 4).find? (fun q => q != p && pairRoom s q n (getChannel s n).cfg)

def moveChannel (s : State) (n q : Nat) : State := modChannel s n (fun c => { c with pair := q })

/-- Every channel of pair `p` moved in ascending number, or none when one of them has nowhere to go. -/
def moveAll (s : State) (p : Nat) : Option State :=
  (pairChannels s p).foldl (fun r n => match r with
    | none => none
    | some s => match moveTarget s p n with
      | none => none
      | some q => some (moveChannel s n q)) (some s)

/-! Drains (R169, R329, R621). -/

/-- A drain that ends completes its command; a pair that is not retired runs its self-test. -/
def finishDrain (s : State) (d : PairDrain) (st : Status) : State :=
  if st ≠ stOK then done s d.cmd st
  else done (modPair s d.pair (fun x => if d.retire then { x with retired := true } else if x.retired then x else { x with testing := true }))
    d.cmd stOK d.moved

/-- A drain begins, or waits for the one in progress: it is refused when the other pairs cannot take the pair's channels, and ends at
once when there are none. -/
def beginDrain (s : State) (d : PairDrain) : State :=
  if s.servo.drain.isSome then { s with servo := { s.servo with drainNext := s.servo.drainNext ++ [d] } }
  else
    let s1 := { s with servo := { s.servo with drain := some d } }
    if (moveAll s1 d.pair).isNone then finishDrain s d stNO_RESOURCE
    else if (pairChannels s1 d.pair).isEmpty then finishDrain s d stOK
    else s1

/-- The drain in progress has gone: those that wait begin, in order. -/
def nextDrains (s : State) : State :=
  s.servo.drainNext.foldl beginDrain { s with servo := { s.servo with drain := none, drainNext := [] } }

/-! Faults (R322, R327). -/

/-- A channel fault: its record, its reaction and its escalation (R322). -/
def channelFault (s : State) (n cause : Nat) (stop : Bool) (e : Int) : State :=
  let c := getChannel s n
  let src := srcPair c.pair
  let s1 := modChannel (huskFault s src 4 n cause (wrapN 64 e)) n (fun x => { reactChannel stop x with outside := x.outside })
  match fld (chanWord s n 0) 31 30 with
  | 1 => match chanGroup s n with
    | none => s1
    | some g => mapChannels s1 (fun i x =>
        if (getGroup s g).channels.contains i && i != n && (x.st == .tracking || x.st == .exceeded) then reactChannel stop x else x)
  | 2 => safeTrigger s1 src
  | _ => s1

/-- The reaction of fault_reaction (R325): STOP rather than HOLD. -/
def reactsStop (c : Channel) : Bool := cfgReactStop c.cfg

/-- Perform the fault that a sample has declared (R319, R321, R324). -/
def performFault (s : State) (n : Nat) : State :=
  let c := getChannel s n
  let s1 := modChannel s n (fun c => { c with faultDue := none })
  match c.faultDue with
  | none => s
  | some .following => channelFault s1 n 5 (reactsStop c) c.ePrev
  | some .enabling => channelFault s1 n 6 true 0
  | some .xcheck => channelFault s1 n 7 (reactsStop c) c.ePrev

/-! Commands that take effect at a read instant (R331). -/

/-- Whether a channel has read instants: the network runs, the channel is configured and its pair computes it. -/
def hasReads (s : State) (c : Channel) : Bool :=
  s.servo.net.tCyc != 0 && s.ports.mnet.running && configured c && !(getPair s c.pair).retired

/-- Whether field lists overlap. -/
def fieldsHit (a b : List (Nat × Nat)) : Bool := a.any (fun x => b.any (fun y => overlaps x.1 x.2 y.1 y.2))

/-- The ranges of a configuration descriptor by itself (R325). -/
def cfgRangesOk (s : State) (c : List Word) : Bool :=
  let w := wat c
  fld (w 0) 31 24 == 1 && (w 0 &&& (mask 15 8 ||| mask 3 0)) == 0 && decide (cfgOutMode c ≤ 2)
  && decide (cfgPhase c < 2 ^ cfgDivLog2 c)
  && (!cfgXcheckEn c || [2, 3].contains (psType (getPs s (cfgXcheckPs c)).cfg))
  && decide (cfgOutShift c ≤ 16) && (w 1 &&& mask 6 0) == 0
  && decide (cfgFbFrac c ≤ 16) && (w 7 &&& mask 26 0) == 0
  && w 12 == 0 && w 13 == 0 && w 14 == 0 && w 15 == 0
  && (outFields c ++ inFields c).all (fun f => decide (f.1 + f.2 ≤ 4096))

/-- What stops a channel's configuration at its effect (R22, R297, R316, R325, R331). -/
def configStatus (s : State) (n : Nat) (cfg block : List Word) (pair : Nat) : Option Status :=
  let clash := (List.range 96).any (fun i =>
    let x := getChannel s i
    i != n && configured x && x.st != .disabled
      && (fieldsHit (outFields cfg) (outFields x.cfg) || fieldsHit (inFields cfg) (inFields x.cfg)))
  if !cfgRangesOk s cfg || !blockRangesOk block || clash then some stBAD_DESCRIPTOR
  else if (getChannel s n).st != .disabled || !blockAllowed s n block then some stPROTECTION
  else if !pairRoom s pair n cfg then some stNO_RESOURCE
  else none

/-- The result of SERVO_STATUS (R331). -/
def statusResult (s : State) (n : Nat) : Nat :=
  let c := getChannel s n
  let st := match c.st with
    | .disabled => 0
    | .enabling => 1
    | .tracking => 2
    | .exceeded => 3
    | .hold => 4
    | .stop => 5
  let fault := configured c && statusFault c.cfg (statusWord s c.cfg)
  st + (if c.satPrev then 8 else 0) + (if c.planEnd then 16 else 0) + (if fault then 32 else 0) + c.pair * 64
    + min s.servo.net.missing 255 * 256 + c.jerkOverrides.toNat * 2 ^ 16
    + min (c.ePrev.natAbs / 65536) (2 ^ 32 - 1) * 2 ^ 32

/-- A channel enters a state: its entry actions follow at the next read instant (R318). -/
def enterState (s : State) (n : Nat) (st : ChanState) (hold : Bool) : State :=
  modChannel s n (fun c => { c with st := st, entryDue := true, fromHold := hold, faultDue := none })

/-- SERVO_CHANNEL_CONFIG takes effect (R315, R316, R325, R331). -/
def configChannel (s : State) (n : Nat) (c : Cmd) (cfg block : List Word) (pair : Nat) : State :=
  let inStop := match chanGroup s n with | some g => (getGroup s g).inStop | none => false
  refuseOr s c (configStatus s n cfg block pair) (done (modChannel s n (fun x => { Channel.reset with
    cfg := cfg, block := block, pair := pair, reqs := x.reqs, lastCount := x.lastCount,
    stopping := if inStop then .due else .off })) c stOK)

/-- SERVO_CLEAR_FAULT takes effect (R323). -/
def clearFault (s : State) (n : Nat) (c : Cmd) : State :=
  match (getChannel s n).st with
  | .hold => done (enterState s n .tracking true) c stOK
  | .stop =>
    if statusFault (getChannel s n).cfg (statusWord s (getChannel s n).cfg) then done s c stNO_RESOURCE
    else done (enterState s n .enabling false) c stOK
  | _ => done s c stOK

/-! Network configurations (R331). -/

/-- What stops a network configuration at its effect (R297, R331, R693): `off` says that every channel was DISABLED when the command
took effect on it. -/
def netStatus (s : State) (off : Bool) (x : NetConfig) : Option Status :=
  if !off then some stPROTECTION
  else if !(List.range 4).all (fun p => pairFits (x.tCyc, x.rxBound) (pairCfgs s p 96)) then some stNO_RESOURCE
  else if !tripFits s.ports.mnet.image x.txShift x.rxBound then some stNO_RESOURCE
  else none

/-- A network configuration takes effect and completes (R331). -/
def applyNet (s : State) (off : Bool) (x : NetConfig) : State :=
  refuseOr s x.cmd (netStatus s off x) (done (modNet s (fun n => { n with
    tCyc := x.tCyc, txShift := x.txShift, rxBound := x.rxBound, missLimit := x.missLimit })) x.cmd stOK)

/-- The channels that have no read instant and are not DISABLED. -/
def awakeUnread (s : State) : Bool := s.servo.channels.any (fun c => !hasReads s c && c.st != .disabled)

/-- Channel `n` comes to a network configuration at its read instant: it is DISABLED, or the configuration will be refused. The one
timing of the network changes when the last channel has been read (DESIGN CHOICE, log entry 122). -/
def readNet (s : State) (n : Nat) (k : CmdKey) : State :=
  match s.servo.net.nexts.find? (fun x => x.cmd.key == k) with
  | none => s
  | some x =>
    let y : NetConfig := { x with left := x.left.filter (fun i => i != n), off := x.off && (getChannel s n).st == .disabled }
    if y.left.isEmpty then
      applyNet (modNet s (fun w => { w with nexts := w.nexts.filter (fun x => x.cmd.key != k) })) (y.off && !awakeUnread s) y
    else modNet s (fun w => { w with nexts := w.nexts.map (fun x => if x.cmd.key = k then y else x) })

/-- SERVO_NET_CONFIG reaches the Shell: it waits for the read instant of every channel that has one (R331). -/
def netCommand (s : State) (x : NetConfig) : State :=
  let l := (List.range 96).filter (fun n => hasReads s (getChannel s n))
  if l.isEmpty then applyNet s (!awakeUnread s) x
  else modNet (mapChannels s (fun n c => if l.contains n then { c with reqs := c.reqs ++ [.net x.cmd] } else c))
    (fun w => { w with nexts := w.nexts ++ [{ x with left := l }] })

/-- The effect of a channel's command (R323, R325, R331, R332). -/
def applyReq (s : State) (n : Nat) (r : ChanReq) : State :=
  match r with
  | .config cmd cfg block pair => configChannel s n cmd cfg block pair
  | .enable cmd =>
    if configured (getChannel s n) && (getChannel s n).st == .disabled then done (enterState s n .enabling false) cmd stOK
    else done s cmd stPROTECTION
  | .disable cmd => if configured (getChannel s n) then done (enterState s n .disabled false) cmd stOK else done s cmd stOK
  | .clear cmd => clearFault s n cmd
  | .status cmd => done s cmd stOK (statusResult s n)
  | .net cmd => readNet s n cmd.key

/-- Every waiting command of a channel takes effect. -/
def flushReqs (s : State) (n : Nat) : State :=
  (getChannel s n).reqs.foldl (fun s r => applyReq s n r) (modChannel s n (fun c => { c with reqs := [] }))

/-- A channel's command: at its next read instant, or at once where it has none (R331). -/
def channelCommand (s : State) (n : Nat) (r : ChanReq) : State :=
  if hasReads s (getChannel s n) then modChannel s n (fun c => { c with reqs := c.reqs ++ [r] }) else applyReq s n r

/-- A channel that no pair computes any more, in whatever state: it enters STOP at once with idle outputs, and its waiting commands
act (R330). -/
def orphan (s : State) (n : Nat) : State :=
  let s1 := modChannel s n (fun c => { entryActions { c with st := .stop, entryDue := true } with lastCount := none })
  let cfg := (getChannel s1 n).cfg
  flushReqs (modNet s1 (fun x => { x with outImage := writeOutputs cfg 0 0 false x.outImage })) n

end Sys2Proof.Machine
end

