-- ==== Sys2Proof/Machine/GainsBasic.lean ====
section
/-!
DEFINITION. Machine/GainsBasic.lean: SERVO_GAINS_BASIC, the conversion of a physical record into a coefficient block
(R314). Rational parts are exact; π, the exponential, sine and cosine are held to 200 fractional bits before the one
rounding of each field.
-/
namespace Sys2Proof.Machine

/-- The exact value of a finite FP32 word. -/
def ratOf (w : Word) : Option Rat :=
  match rd32 w with
  | .fin n m e =>
    let v : Rat := if 0 ≤ e then ((m * 2 ^ e.toNat : Nat) : Rat) else mkRat m (2 ^ (-e).toNat)
    some (if n then -v else v)
  | _ => none

/-- The 21 values of a record, when all are finite. -/
def recordValues (b : Bytes) : Option (List Rat) :=
  (List.range 21).foldr (fun i acc => match ratOf (wordAt b i), acc with
    | some v, some l => some (v :: l)
    | _, _ => none) (some [])

/-- Round to nearest-even with `f` fractional bits. -/
def fixRat (v : Rat) (f : Nat) : Int := let x := v * (2 ^ f : Nat); divNearestEven x.num x.den

/-- A rational in fixed point with 200 fractional bits, rounded down. -/
def fxRat (v : Rat) : Int := v.num * (2 ^ fxBits : Nat) / v.den

/-- A fixed-point value as a rational. -/
def ratFx (v : Int) : Rat := mkRat v (2 ^ fxBits)

/-- z − z³/3 + z⁵/5 − … in fixed point: `k` terms, `p` the current signed odd power, `z2` the square. -/
def atanTerms : Nat → Int → Int → Nat → Int
  | 0, _, _, _ => 0
  | k + 1, p, z2, d => p / (d : Int) + atanTerms k (-(p * z2 / (2 ^ fxBits : Nat))) z2 (d + 2)

/-- The arctangent of 1/n. -/
def fxAtanInv (n : Nat) : Int :=
  let z : Int := ((2 ^ fxBits : Nat) : Int) / n
  atanTerms 90 z (z * z / (2 ^ fxBits : Nat)) 1

/-- π in fixed point. -/
def pi200 : Int := 16 * fxAtanInv 5 - 4 * fxAtanInv 239

/-- ln 10 in fixed point: 3·ln 2 + ln(5/4). -/
def fxLn10 : Int :=
  let z : Int := ((2 ^ fxBits : Nat) : Int) / 9
  3 * fxLn2 + 2 * atanhSeries 70 z (z * z / (2 ^ fxBits : Nat)) 1

/-- x^i/i! − x^(i+2)/(i+2)! + … in fixed point: the sine from i = 1, the cosine from i = 0. -/
def sineTerms : Nat → Int → Int → Nat → Int
  | 0, _, _, _ => 0
  | k + 1, term, x2, i =>
    term + sineTerms k (-(term * x2 / (2 ^ fxBits : Nat) / (((i + 1) * (i + 2) : Nat) : Int))) x2 (i + 2)

def fxSin (x : Int) : Int := sineTerms 60 x (x * x / (2 ^ fxBits : Nat)) 1
def fxCos (x : Int) : Int := sineTerms 60 (2 ^ fxBits : Nat) (x * x / (2 ^ fxBits : Nat)) 0

/-- The exponential of a fixed-point value, as a rational. -/
def expFx (x : Int) : Rat :=
  let k := x / fxLn2
  let y := expSeries 60 (2 ^ fxBits : Nat) (x - k * fxLn2) 1
  if 0 ≤ k then ratFx y * (2 ^ k.toNat : Nat) else ratFx y / (2 ^ (-k).toNat : Nat)

/-- 10^(−d/20). A depth beyond 4,000 dB counts as that much: no field tells the difference. -/
def gainOf (d : Rat) : Rat :=
  let x := if d < -4000 then (-4000 : Rat) else if 4000 < d then 4000 else d
  expFx (-(fxRat (x / 20) * fxLn10 / (2 ^ fxBits : Nat)))

/-- The five coefficients of a notch (R314), in Q2.30: none when f0 is not below 1 ÷ (2·Ts). -/
def notchOf (f0 width depth ts : Rat) : Option (List Int) :=
  if f0 < 0 ∨ 1 / (2 * ts) ≤ f0 then none
  else
    let w := 2 * pi200 * fxRat (f0 * ts) / (2 ^ fxBits : Nat)
    let al := ratFx (fxSin w) * width / (2 * f0)
    let g := gainOf depth
    let d := 1 + al
    if d = 0 then none
    else
      let b1 := -2 * ratFx (fxCos w) / d
      some ([(1 + al * g) / d, b1, (1 - al * g) / d, b1, (1 - al) / d].map (fun v => fixRat v 30))

/-- The notch that passes every value unchanged: b0 is 1.0. -/
def passNotch : List Int := [2 ^ 30, 0, 0, 0, 0]

/-- The notches of a record, each in its own place, up to the last that is on. Notch 0 that is off below notch 1 that is on passes its
input unchanged: R314 gives it no coefficients (DESIGN CHOICE, log entry 107). -/
def recordNotches (v : List Rat) (ts : Rat) : Option (List (List Int)) :=
  let at_ := fun i => v.getD i 0
  let notch := fun i => notchOf (at_ i) (at_ (i + 1)) (at_ (i + 2)) ts
  let n0 := if at_ 15 = 0 then some passNotch else notch 15
  if at_ 18 ≠ 0 then
    match n0, notch 18 with
    | some a, some b => some [a, b]
    | _, _ => none
  else if at_ 15 = 0 then some []
  else n0.map (fun a => [a])

/-- 1 − exp(−2π·f·Ts), 1 for a cutoff of 0 (R314). -/
def betaOf (f ts : Rat) : Option Rat :=
  if f = 0 then some 1
  else if f < 0 then none
  else if 1000 < f * ts then some 1
  else some (1 - expFx (-(2 * pi200 * fxRat (f * ts) / (2 ^ fxBits : Nat))))

/-- The largest kshift that keeps the three gains below 128 in magnitude. -/
def kshiftOf (gains : List Rat) : Option Nat :=
  (List.range 16).reverse.find? (fun k => gains.all (fun g => decide (max g (-g) * (2 ^ k : Nat) < 128)))

/-- Whether a value fits a signed field of `n` bits. -/
def fitsSigned (n : Nat) (v : Int) : Bool := decide (satSigned n v = v)

/-- A signed value as the words of a 64-bit field, and as one word. -/
def words64 (v : Int) : List Word := [BitVec.ofInt 32 v, BitVec.ofInt 32 (v / (2 ^ 32 : Nat))]

/-- The coefficient block of a record at sample period `ts` seconds (R314): none when a value lies outside its field. -/
def basicBlock (v : List Rat) (ts : Rat) : Option (List Word) :=
  let a := fun i => v.getD i 0
  let c := a 0
  if c = 0 ∨ ts ≤ 0 then none
  else
    let gains := [a 4 / c, a 5 * ts / c, a 6 / (c * ts)]
    match kshiftOf gains, betaOf (a 7) ts, recordNotches v ts with
    | some k, some beta, some notches =>
      let long := [fixRat (a 1 * c * ts) 32, fixRat (a 2 * c * ts * ts) 32, fixRat (a 3 * c * ts * ts * ts) 32,
                   fixRat (a 13 * c) 16]
      let short := gains.map (fun g => fixRat (g * (2 ^ k : Nat)) 24)
        ++ [fixRat beta 30, fixRat (a 8 / (c * ts)) 24, fixRat (a 9) 24, fixRat (-(a 10)) 16, fixRat (a 10) 16,
            fixRat (a 11) 16, fixRat (a 12) 16]
      let feTime := Rat.ceil (a 14 / ts)
      if !long.all (fitsSigned 64) || !short.all (fitsSigned 32) || !notches.all (fun n => n.all (fitsSigned 32))
          || feTime < 1 || 65535 < feTime then none
      else
        let w0 := 2 ^ 24 + (if a 3 = 0 then 0 else 2 ^ 15) + notches.length * 2 ^ 12 + k
        let l := fun i => words64 (long.getD i 0)
        let none5 : List Int := [0, 0, 0, 0, 0]
        some ([BitVec.ofNat 32 w0, 0] ++ l 0 ++ l 1 ++ l 2 ++ short.map (BitVec.ofInt 32) ++ l 3
          ++ [BitVec.ofInt 32 feTime, 0]
          ++ ((notches.getD 0 none5) ++ (notches.getD 1 none5)).map (BitVec.ofInt 32))
    | _, _, _ => none

/-- The sample period of a channel in seconds (R295). -/
def samplePeriod (s : State) (n : Nat) : Rat :=
  mkRat (s.servo.net.tCyc * 2 ^ cfgDivLog2 (getChannel s n).cfg) 1000000000

/-- The etch of SERVO_GAINS_BASIC: one SERVO_GAIN_SET whose payload the firmware holds, and so protects no range of
device memory. -/
def gainEtch (n : Nat) (block : Bytes) (commitPoint : PhaseValue) : EtchHeader × List EtchAction :=
  ({ count := 1, kind := 0, tag := 0, husk := false, notify := false, commitPoint := commitPoint, armDeadline := pvZero,
     fallbackId := 0 },
   [{ typ := 7, cls := 0x12, index := n, item := 0, argLo := 0, argHi := 0, width := 0, length := 0, crc := crc32c block }])

/-- SERVO_GAINS_BASIC (R314, R331): the block is staged and armed as by ETCH_STAGE_ARM; its arm instant is
ETCH_ARM_INSTANT. A channel without a sample period is refused with PROTECTION (DESIGN CHOICE, log entry 32). -/
def execServoGainsBasic (t : Nat) (c : Cmd) (channel : BitVec 7) (window : Word) (offset : DWord) (commitPoint : PhaseValue)
    (s : State) : Out :=
  host s t c (okChannel channel && pvOk commitPoint) (fun s =>
    let n := channel.toNat
    match readWindow s c window offset.toNat 84 with
    | .error st => done s c st
    | .ok b =>
      if (getChannel s n).cfg.isEmpty || s.servo.net.tCyc == 0 then done s c stPROTECTION
      else match (recordValues b).bind (fun v => basicBlock v (samplePeriod s n)) with
        | none => done s c stBAD_DESCRIPTOR
        | some ws =>
          let block := ofWords ws
          let d := gainEtch n block commitPoint
          if !blockRangesOk ws || !stageOk s d.1 d.2 then done s c stBAD_DESCRIPTOR
          else match stageEtch s (sessionOf s c) (fnOf s c) (some c.key) d.1 d.2 with
            | .error st => done s c st
            | .ok (id, s1) => match findEtch s1 id with
              | none => done s1 c stINTERNAL
              | some e => match armRowsOf s1 (partOf s1 c) e (.ok [block]) with
                | .error st => done (releaseEtch s1 id) c st
                | .ok bs =>
                  let a : Arming := { etch := e.id, cmd := c, staged := true, batch := none, payloads := bs, records := [] }
                  { s1 with etch := { s1.etch with arming := s1.etch.arming ++ [a] } })

end Sys2Proof.Machine
end

