-- ==== Sys2Proof/Machine/TracerCalc.lean ====
section
/-!
DEFINITION. Machine/TracerCalc.lean: the Tracer's check of a plan, in its order (R554, R558–R562).
-/
namespace Sys2Proof.Machine

/-! Kinematics (R556, R560), in fixed point with 200 fractional bits: its own error is far below one µm. -/

structure Vec where
  x : Int
  y : Int
  z : Int
  deriving DecidableEq, Repr

/-- Rows of a rotation and a translation in µm. -/
structure Pose where
  a : Vec
  b : Vec
  c : Vec
  t : Vec
  deriving DecidableEq, Repr

/-- 1 in fixed point, and a product. -/
def fxOne : Int := (2 ^ fxBits : Nat)
def fxMul (a b : Int) : Int := a * b / fxOne

def Vec.add (u v : Vec) : Vec := ⟨u.x + v.x, u.y + v.y, u.z + v.z⟩
def Vec.dot (u v : Vec) : Int := (u.x * v.x + u.y * v.y + u.z * v.z) / fxOne
def Vec.scale (k : Int) (v : Vec) : Vec := ⟨fxMul k v.x, fxMul k v.y, fxMul k v.z⟩

def Pose.base : Pose := ⟨⟨fxOne, 0, 0⟩, ⟨0, fxOne, 0⟩, ⟨0, 0, fxOne⟩, ⟨0, 0, 0⟩⟩
/-- The rotation of a pose applied to a vector. -/
def Pose.turn (p : Pose) (v : Vec) : Vec := ⟨p.a.dot v, p.b.dot v, p.c.dot v⟩
/-- A point of the pose's frame, in the base frame. -/
def Pose.apply (p : Pose) (v : Vec) : Vec := p.t.add (p.turn v)
/-- A pose followed by a rotation (rows) and a translation in its frame. -/
def Pose.comp (p q : Pose) : Pose :=
  let col := fun (f : Vec → Int) => p.turn ⟨f q.a, f q.b, f q.c⟩
  let cx := col Vec.x
  let cy := col Vec.y
  let cz := col Vec.z
  ⟨⟨cx.x, cy.x, cz.x⟩, ⟨cx.y, cy.y, cz.y⟩, ⟨cx.z, cy.z, cz.z⟩, p.apply q.t⟩

/-- The rotation of a quaternion. -/
def quatPose (w x y z : Int) (t : Vec) : Pose :=
  let m := fun (a b : Int) => 2 * fxMul a b
  ⟨⟨fxOne - (m y y + m z z), m x y - m w z, m x z + m w y⟩, ⟨m x y + m w z, fxOne - (m x x + m z z), m y z - m w x⟩,
   ⟨m x z - m w y, m y z + m w x, fxOne - (m x x + m y y)⟩, t⟩

/-- The rotation about an axis by an angle in radians. -/
def turnPose (u : Vec) (angle : Int) : Pose :=
  let r := angle % (2 * pi200)
  let y := if pi200 < r then r - 2 * pi200 else r
  let c := fxCos y
  let s := fxSin y
  let k := fxOne - c
  let m := fun (a b : Int) => fxMul (fxMul a b) k
  let n := fun (a : Int) => fxMul a s
  ⟨⟨c + m u.x u.x, m u.x u.y - n u.z, m u.x u.z + n u.y⟩, ⟨m u.y u.x + n u.z, c + m u.y u.y, m u.y u.z - n u.x⟩,
   ⟨m u.z u.x - n u.y, m u.z u.y + n u.x, c + m u.z u.z⟩, ⟨0, 0, 0⟩⟩

/-- A signed word with `f` fractional bits, in fixed point. -/
def fxWord (w : Word) (f : Nat) : Int := w.toInt * (2 ^ (fxBits - f) : Nat)

/-- Three words from word `i` as a vector. -/
def vecAt (b : Bytes) (i f : Nat) : Vec := ⟨fxWord (wordAt b i) f, fxWord (wordAt b (i + 1)) f, fxWord (wordAt b (i + 2)) f⟩

/-- The joint of a body at a position of its channel (R556). -/
def jointPose (x : Bytes) (pos : Int) : Pose :=
  let w := wordAt x 0
  let v := (pos - toSigned 64 (numAt x 8 8)) * (wordAt x 1).toInt * (2 ^ (fxBits - fld w 5 0) : Nat)
  match fld w 15 8 with
  | 1 => turnPose (vecAt x 4 30) v
  | 2 => { Pose.base with t := (vecAt x 4 30).scale v }
  | _ => Pose.base

/-- The poses of the bodies of a limit set, each after its parent, with the number of bodies of its chain. -/
def bodyPoses (ls : Bytes) (pos : Nat → Int) : List (Pose × Nat) :=
  (List.range (lsBodies ls)).foldl (fun acc i =>
    let x := lsBody ls i
    let w := wordAt x 0
    let parent := acc.getD (fld w 31 24) (Pose.base, 0)
    let place := quatPose (fxWord (wordAt x 10) 30) (fxWord (wordAt x 11) 30) (fxWord (wordAt x 12) 30) (fxWord (wordAt x 13) 30)
      (vecAt x 7 0)
    acc ++ [((parent.1.comp place).comp (jointPose x (pos (fld w 23 16))), parent.2 + 1)]) []

/-- Centres of the control points in whole µm, within 2 µm for each body of the chain (R560): what the Tracer's own
rounding makes of them within that bound is a free value. -/
def centres (ls : Bytes) (chans : List Nat) (positions : List Int) : List (List Int) :=
  let pos := fun c => match findIdx (· == c) chans with
    | some i => positions.getD i 0
    | none => Config.unplanned ls c
  let poses := bodyPoses ls pos
  (List.range (lsPoints ls)).map (fun i =>
    let x := lsPoint ls i
    let p := poses.getD (fld (wordAt x 0) 31 24) (Pose.base, 0)
    let v := p.1.apply (vecAt x 1 0)
    let bound : Int := 2 * p.2
    ([v.x, v.y, v.z].zip (List.range 3)).map (fun a => divNearestEven a.1 (2 ^ fxBits)
      + clampI (-bound) bound (Config.kinematicError ls positions i a.2)))

/-! Separation (R561). -/

/-- The squared distance of two points. -/
def sqDist (p q : List Int) : Nat := (p.zip q).foldl (fun n a => n + ((a.1 - a.2) * (a.1 - a.2)).toNat) 0

/-- √(num/den) rounded up. -/
def ceilSqrt (num den : Nat) : Nat :=
  let m := isqrt (num / den)
  if m * m * den < num then m + 1 else m

/-- A quotient rounded up. -/
def upDiv (a : Int) (b : Nat) : Int := -((-a) / (b : Int))

/-- What a control point must keep away from: an object of a frame in use with its capture time, or a stream's
worst-case zone; and Z_d of its stream. -/
inductive Obstacle where
  | object (o : Keepout) (capture : Int) (zd : Nat)
  | zone (lo hi : List Int) (zd : Nat)
  deriving DecidableEq, Repr

/-- The obstacles of a limit set at the start of a check (R562): a frame whose arrival is ordered before the start and
that is not older than stale_us is in use, otherwise the stream's zone stands. -/
def obstacles (s : State) (ls : Bytes) : List Obstacle :=
  (List.range (lsStreams ls)).flatMap (fun i =>
    let x := lsStream ls i
    let zd := (wordAt x 1).toNat
    let corner := fun (k : Nat) => (List.range 3).map (fun a => (wordAt x (k + a)).toInt)
    let zone := [Obstacle.zone (((corner 4).zip (corner 7)).map (fun c => min c.1 c.2))
      (((corner 4).zip (corner 7)).map (fun c => max c.1 c.2)) zd]
    match (getStream s (fld (wordAt x 0) 5 0)).newest.find? (fun f => decide (f.arrival < now s)) with
    | none => zone
    | some f =>
      if (now s : Int) - f.capture ≤ (wordAt x 2).toNat * 1000 then
        f.objects.map (fun o => Obstacle.object o f.capture zd)
      else zone)

/-- The plan and the timing that a separation check works on: S_r and S_s come from the centres of every knot. -/
structure Motion where
  ls : Bytes
  knots : Nat
  delta : Nat
  origin : Int
  centres : List (List (List Int))
  deriving DecidableEq, Repr

def Motion.centre (m : Motion) (k i : Nat) : List Int := (m.centres.getD k []).getD i []

/-- The square of the longer of the steps to the neighbours of knot `k` that exist. -/
def Motion.step2 (m : Motion) (i k : Nat) : Nat :=
  max (if 0 < k then sqDist (m.centre k i) (m.centre (k - 1) i) else 0)
    (if k + 1 < m.knots then sqDist (m.centre k i) (m.centre (k + 1) i) else 0)

/-- S_r + S_s + C + Z_r of a control point at a knot (R561). -/
def Motion.reach (m : Motion) (i k : Nat) : Int :=
  let tr := lsReact m.ls * 1000
  let ts := lsStop m.ls * 1000
  let far := min (k + (ts + 2 * m.delta - 1) / (2 * m.delta)) (m.knots - 1)
  let top := ((List.range (far + 1 - k)).map (fun j => m.step2 i (k + j))).foldl max 0
  ((ceilSqrt (m.step2 i k * tr * tr) (m.delta * m.delta) + ceilSqrt (top * ts * ts) (4 * m.delta * m.delta)
    + lsC m.ls + lsZr m.ls : Nat) : Int)

/-- Whether a pair of control point and obstacle fails at a knot, and its reason (R558, R561). -/
def Motion.fails (m : Motion) (i k : Nat) (reach : Int) (o : Obstacle) : Option Nat :=
  let p := m.centre k i
  let rho : Int := fld (wordAt (lsPoint m.ls i) 0) 23 0
  let stop : Int := (lsReact m.ls + lsStop m.ls) * 1000
  match o with
  | .object o cap zd =>
    let sh := upDiv (lsVh m.ls * (m.origin + k * m.delta - cap + stop)) 1000000
    let d : Int := (isqrt (sqDist p [o.x, o.y, o.z]) : Int) - rho - o.r
    if d < sh + reach + zd then some 0x0A else none
  | .zone lo hi zd =>
    let near := (p.zip (lo.zip hi)).map (fun a => clampI a.2.1 a.2.2 a.1)
    let sh := upDiv (lsVh m.ls * stop) 1000000
    let n := sqDist p near
    let d : Int := if n = 0 then 0 else (isqrt n : Int) - rho
    if d < sh + reach + zd then some 0x0B else none

/-! The check (R558). -/

def reqLimitSet (b : Bytes) : Nat := fld (wordAt b 0) 23 20
def reqPlanLength (b : Bytes) : Nat := (wordAt b 1).toNat
def reqKnots (b : Bytes) : Nat := fld (wordAt b 2) 31 16
def reqPoints (b : Bytes) : Nat := fld (wordAt b 2) 15 8
/-- Bytes of a request (R554). -/
def reqBytes (b : Bytes) : Nat := 128 + reqPlanLength b + 12 * reqKnots b * reqPoints b
def reqResult (b : Bytes) : Bytes := slice b 64 64
def reqPlan (b : Bytes) : Bytes := slice b 128 (reqPlanLength b)
/-- Table coordinate `a` of control point `i` at knot `k`. -/
def reqCentre (b : Bytes) (k i : Nat) : List Int :=
  let o := 128 + reqPlanLength b + 12 * (k * reqPoints b + i)
  (List.range 3).map (fun a => toSigned 32 (numAt b (o + 4 * a) 4))

/-- The layout of the request's header and of the result header in it (R244, R554). -/
def reqLayoutOk (b : Bytes) : Bool :=
  let h := reqResult b
  fld (wordAt b 0) 31 24 == 1 && fld (wordAt b 0) 19 0 == 0 && fld (wordAt b 2) 7 0 == 0
  && (List.range 13).all (fun i => wordAt b (3 + i) == 0)
  && fld (wordAt h 0) 11 4 == 0 && fld (wordAt h 1) 31 24 == 0 && b.length == reqBytes b

/-- The channel entry of a channel in a limit set. -/
def limitEntry (ls : Bytes) (c : Nat) : Option Bytes :=
  ((List.range (lsChannels ls)).map (lsChan ls)).find? (fun x => fld (wordAt x 0) 31 24 == c)

/-- The least knot, and in it the least place of the plan's channel list, at which a test fails. -/
def firstBad (knots n : Nat) (bad : Nat → Nat → Bool) : Option (Nat × Nat) :=
  (List.range knots).findSome? (fun k => ((List.range n).find? (bad k)).map (fun i => (k, i)))

/-- The reference position of a channel at the plan's origin count (R559): none where it has no measured position. -/
def referencePos (s : State) (g c O : Nat) : Option Int :=
  let x := getGroup s g
  let at_ := fun (b : Bytes) => (findIdx (· == c) (planChans b)).map (fun i => (planAt b i s.servo.net.tCyc O).1)
  let y := if (getChannel s c).cfg.isEmpty then none else some (getChannel s c).y
  let planned := match x.plan with
    | some p => match at_ p.plan with | some r => some r | none => y
    | none => y
  match x.inStop && x.plan.isSome, s.servo.stopTraj with
  | true, some b => match at_ b with | some r => some r | none => planned
  | _, _ => planned

/-- The first failing check: its reason, the knot, and the channel or control point (R558). -/
def firstFailure (s : State) (b : Bytes) : Option (Nat × Nat × Nat) :=
  let plan := reqPlan b
  let ls := (s.safety.limits.getD (reqLimitSet b) none).getD []
  let h := reqResult b
  let chans := planChans plan
  let n := chans.length
  let delta := planSpacing plan * s.servo.net.tCyc
  if !reqLayoutOk b || !planLayoutOk plan || !pvOk (planOriginPv plan) || ls.isEmpty || reqKnots b != planKnots plan
      || reqPoints b != lsPoints ls || chans.any (fun c => (limitEntry ls c).isNone) || delta == 0
      || decide (lsStop ls * 1000 < 2 * (planKnots plan - 1) * delta) then some (0x01, 0, 0)
  else
    let v := fld (wordAt h 0) 31 16
    let entry := fun i => (limitEntry ls (chans.getD i 0)).getD []
    let K := min (lsKnots ls) (planKnots plan)
    let named := fun (reason : Nat) (x : Option (Nat × Nat)) => x.map (fun y => (reason, y.1, chans.getD y.2 0))
    if fld (wordAt h 0) 15 12 != 3 || v == 0 || (v != lsVersionA ls && v != lsVersionB ls) || wordAt h 11 != crc32c plan then
      some (0x02, 0, 0)
    else if !wbit (wordAt h 0) 0 || (lsDegraded ls % 2 == 1 && fld (wordAt h 4) 15 0 != 0)
        || (lsDegraded ls / 2 % 2 == 1 && fld (wordAt h 3) 15 0 != 0)
        || (lsDegraded ls / 4 % 2 == 1 && fld (wordAt h 4) 31 16 != 0) then some (0x03, 0, 0)
    else if (lsKkt ls).toInt < (wordAt h 6).toInt then some (0x04, 0, 0)
    else
      named 0x05 (firstBad K n (fun k i => decide (knotPos plan k i < toSigned 64 (numAt (entry i) 8 8))
        || decide (toSigned 64 (numAt (entry i) 16 8) < knotPos plan k i)))
      <|> named 0x06 (firstBad K n (fun k i => decide ((wordAt (entry i) 6).toNat * 65536 < (knotVel plan k i).natAbs)))
      <|> named 0x07 (firstBad K n (fun k i => decide ((wordAt (entry i) 7).toNat < (knotTau plan k i).natAbs)))
      <|> named 0x08 (firstBad 1 n (fun _ i =>
        match referencePos s (planGroup plan) (chans.getD i 0) (planOrigin plan) with
        | none => true
        | some r => decide ((wordAt (entry i) 1).toNat * 65536 < (knotPos plan 0 i - r).natAbs)))
      <|> (let m : Motion :=
            { ls := ls, knots := planKnots plan, delta := delta,
              origin := s.servo.net.sync0
                + toSigned 48 ((planOrigin plan + 2 ^ 48 - s.servo.net.count % 2 ^ 48) % 2 ^ 48) * s.servo.net.tCyc,
              centres := (List.range (planKnots plan)).map (fun k =>
                centres ls chans ((List.range n).map (knotPos plan k))) }
          let fk := (firstBad K (lsPoints ls) (fun k i =>
            decide (lsFkTol ls * lsFkTol ls < sqDist (m.centre k i) (reqCentre b k i)))).map (fun y => (0x09, y.1, y.2))
          let obs := obstacles s ls
          fk <|> (List.range K).findSome? (fun k => (List.range (lsPoints ls)).findSome? (fun i =>
            let reach := m.reach i k
            (obs.findSome? (m.fails i k reach)).map (fun r => (r, k, i)))))

/-- What a check finds when it starts now. -/
def checkVerdict (s : State) (b : Bytes) : Verdict :=
  let plan := reqPlan b
  let f := if s.safety.tracerFailed then some ((Config.failedTracerReason s.free).toNat, 0, 0) else firstFailure s b
  let r := f.getD (0, 0, 0)
  { accepted := f.isNone, reason := r.1, knot := r.2.1 % 256, index := r.2.2 % 256,
    group := if planLayoutOk plan && decide (planGroup plan ≤ 15) then some (planGroup plan) else none,
    feasible := wbit (wordAt (reqResult b) 0) 0, crc := wordAt (reqResult b) 11, limitSet := reqLimitSet b,
    origin := planOriginPv plan }

end Sys2Proof.Machine
end

