-- ==== Sys2Proof/Machine/Tracer.lean ====
section
/-!
DEFINITION. Machine/Tracer.lean: TRACER_CHECK and the Tracer's events (R552, R553, R558, R564, R571, R587, R591).
-/
namespace Sys2Proof.Machine

/-- The partition of a command, for its CHECK slots: the mailbox and the firmware have none. -/
def checkPart (s : State) (c : Cmd) : Nat :=
  match c.key.src with
  | .queue q => match findSq s q.toNat with | some x => x.part | none => 16
  | _ => 16

/-- TRACER_CHECK (R552–R554, R591): the request is copied now; the completion comes with the check's end. -/
def execTracerCheck (t : Nat) (c : Cmd) (window : Word) (offset : DWord) (s : State) : Out :=
  host s t c true (fun s =>
    match readWindow s c window offset.toNat 64 with
    | .error st => done s c st
    | .ok h => match readWindow s c window offset.toNat (reqBytes h) with
      | .error st => done s c st
      | .ok b => submitCheck s (.command c) (checkPart s c) b)

/-- Whether the check at the head of the queue may start (R553). -/
def checkMayStart (s : State) (r : CheckReq) : Bool :=
  match r.part with
  | none => true
  | some p => (getPart s p).check.isSome && !runsSince s p (getPart s p).checkSince

/-- TRACER_CHECK_BEGIN (R553, R559, R562). -/
def execTracerCheckBegin (t : Nat) (s : State) : Out :=
  event s t (fun s => match s.safety.check, s.safety.queue with
    | none, r :: rest =>
      if checkMayStart s r then
        { takeFree s with safety := { s.safety with
          queue := rest, check := some { req := r, start := now s, verdict := checkVerdict s r.request } } }
      else s
    | _, _ => s)

/-- An acceptance record enters the table of its group, which holds 4 (R564). -/
def recordAcceptance (s : State) (g : Nat) (v : Verdict) : State :=
  if pvReached s v.origin then s
  else
    let r : Acceptance := { group := g, crc := v.crc, limitSet := v.limitSet, stamp := now s, origin := v.origin }
    let mine := s.safety.acceptances.filter (fun a => a.group == g)
    let others := s.safety.acceptances.filter (fun a => a.group != g)
    { s with safety := { s.safety with acceptances := others ++ mine.drop (mine.length - 3) ++ [r] } }

/-- The payload of a TRACER_REJECT record (R611). -/
def rejectPayload (v : Verdict) : Bytes :=
  leBytes 1 v.reason ++ leBytes 1 v.limitSet ++ leBytes 1 (v.group.getD 0xFF) ++ leBytes 1 v.knot ++ leBytes 1 v.index
    ++ leBytes 3 0 ++ leBytes 4 v.crc.toNat

/-- A check ends with what it found: the counts, the group's frame and the acceptance table (R564, R570, R571, R589). -/
def noteVerdict (s : State) (v : Verdict) : State :=
  let s1 := { s with safety := { s.safety with checks := satInc s.safety.checks } }
  if v.accepted then
    match v.group with
    | none => s1
    | some g => recordAcceptance (modGroup s1 g (fun x => { x with sawAccept := true })) g v
  else
    let last := v.reason * 2 ^ 56 + v.limitSet * 2 ^ 52 + v.group.getD 15 * 2 ^ 48 + v.knot * 2 ^ 40 + v.index * 2 ^ 32
      + now s % 2 ^ 32
    let s2 := { s1 with safety := { s1.safety with
      rejections := satInc s1.safety.rejections, lastReject := BitVec.ofNat 64 last } }
    match v.group with
    | none => s2
    | some g => modGroup s2 g (fun x => { x with
        sawReject := x.sawReject || v.feasible, firstReject := x.firstReject <|> some (rejectPayload v) })

/-- What a check finds when it ends: once the Tracer's own diagnostics have failed nothing is accepted (R31). -/
def failedVerdict (s : State) (v : Verdict) : Verdict :=
  if s.safety.tracerFailed && v.accepted then
    { v with accepted := false, reason := (Config.failedTracerReason s.free).toNat, knot := 0, index := 0 }
  else v

/-- The running check ends (R31, R553, R558, R591). -/
def endCheck (s : State) (r : CheckRun) (found : Verdict) : State :=
  let v := failedVerdict s found
  let s1 := noteVerdict { s with safety := { s.safety with check := none } } v
  match r.req.owner with
  | .candidate k i => batchAnswer s1 k i v.accepted
  | .command c =>
    done s1 c (if v.accepted then stOK else stTRACER_REJECT)
      ((if v.accepted then 1 else 0) + v.reason * 2 ^ 8 + v.knot * 2 ^ 16 + v.index * 2 ^ 24 + v.crc.toNat * 2 ^ 32)

/-- The verdict on a check that has outlived its CHECK slot: reason TIMEOUT (R553). -/
def timedOut (r : CheckRun) : Verdict := { r.verdict with accepted := false, reason := 0x0C, knot := 0, index := 0 }

/-- A check that has not ended when its CHECK slot ends is abandoned (R553). -/
def abandonCheck (s : State) (p : Nat) : State :=
  match s.safety.check with
  | none => s
  | some r =>
    if r.req.part = some p then
      endCheck s r (timedOut r)
    else s

/-- Whether the CHECK slot in which the running check began is open no more: a PLATE_SWAP has closed it. -/
def checkOutlived (s : State) (r : CheckRun) : Bool :=
  match r.req.part with
  | none => false
  | some p => (getPart s p).check.isNone || decide (r.start < (getPart s p).checkSince)

/-- TRACER_CHECK_END (R553, R558, R563). -/
def execTracerCheckEnd (t : Nat) (s : State) : Out :=
  event s t (fun s => match s.safety.check with
    | none => s
    | some r => if checkOutlived s r then endCheck s r (timedOut r) else endCheck s r r.verdict)

/-- The Tracer's own diagnostics have failed (R31, R550, R577). -/
def tracerFails (s : State) (cause : Nat) : State :=
  safeTrigger { huskFault s srcTracer 8 0 cause with safety := { s.safety with tracerFailed := true } } srcTracer

/-- TRACER_KNOWN_ANSWER_TEST (R577, R587): it runs outside CHECK slots and between checks. -/
def execTracerKnownAnswerTest (t : Nat) (failed : Bool) (s : State) : Out :=
  event s t (fun s =>
    if s.safety.check.isSome || s.field.parts.any (fun p => p.check.isSome) then s
    else
      let s1 := { s with safety := { s.safety with knownAnswer := true } }
      if failed then tracerFails s1 4 else s1)

/-- TRACER_LOCKSTEP_MISMATCH (R577). -/
def execTracerLockstepMismatch (t : Nat) (s : State) : Out := event s t (fun s => tracerFails s 1)

end Sys2Proof.Machine
end

