-- ==== Sys2Proof/Machine/Cancel.lean ====
section
/-!
DEFINITION. Machine/Cancel.lean: stopping a command wherever it waits or runs, for an abort, a deadline or a closing session;
closing a session (R121, R140, R152, R268–R274, R368, R417, R453, R496).
-/
namespace Sys2Proof.Machine

/-! One command, unit by unit (R121): it leaves its unit, posts no completion, and what it has not completed of its
destination is undefined. -/

def stopTransfer (s : State) (k : CmdKey) : State :=
  match s.cmds.transfers.find? (fun x => x.cmd.key == k) with
  | none => s
  | some x => dropTransfer (if x.cut.isSome then s else landPrefix s x (landedOf s x x.length) stOK) x

/-- A spilled or fenced route leaves; it is not the partition's running one. -/
def leaveAside (s : State) (r : RouteRun) : State :=
  admittedEnd (releasePins (spoilRoute s r) r) r.job.cmd.key

/-- The routes of a partition that `p` selects: waiting ones leave, running ones stop within 64 cycles (R368, R453). -/
def stopRoutes (s : State) (p : WaitingRoute → Bool) : State :=
  (List.range 16).foldl (fun s i =>
    let s1 := ((getPart s i).waiting.filter p).foldl (fun s w => admittedEnd (unqueueRoute s i w) w.cmd.key) s
    let s2 := match (getPart s1 i).run with
      | some r => if p r.job then afterRoute (leavePart (spoilRoute s1 r) i r) i else s1
      | none => s1
    let s3 := match (getPart s2 i).spilled with
      | some r => if p r.job then afterRoute (leaveAside (modPart s2 i (fun x => { x with spilled := none })) r) i else s2
      | none => s2
    match (getPart s3 i).fenced with
    | some r => if p r.job then leaveAside (modPart s3 i (fun x => { x with fenced := none })) r else s3
    | none => s3) s

/-- What a batch that stops has not completed is undefined (R121): its report entries, the results of the scenarios that have not
started, and that of a STOP solve to come. A running solve leaves its own result so. -/
def spoilBatch (s : State) (b : Batch) : State :=
  let n := b.scenarios.length
  let running := fun (o : SolveFor) => s.solver.engines.any (fun e => match e.run with | some r => r.job.owner == o | none => false)
  let todo := (List.range n).filterMap (fun i => match b.scenarios[i]? with
    | some x => if x.status.isNone && !running (.scenario b.cmd.key i) then some (x.result, x.capacity) else none
    | none => none)
  let stop := if b.fallback != 0 && (b.stage == .solving || b.stage == .stopSolve) && !running (.stop b.cmd.key)
    then [(b.stopResult, b.stopCapacity)] else []
  ((b.desc + 64 + 32 * n, 16 * n) :: (todo ++ stop)).foldl (fun s r => undefRange s r.1 r.2) s

/-- A solve, or a batch with its scenarios, its checks and the arm of its primary (R121, R275). -/
def stopSolver (s : State) (k : CmdKey) : State :=
  let s0 := match findBatch s k with | some b => spoilBatch s b | none => s
  let s1 := stopChecks (admittedEnd (stopSolves s0 (solveOf k)) k) (checkOf k)
  stopArming (dropBatch s1 k) (fun a => a.batch == some k)

def ChanReq.cmd (r : ChanReq) : Cmd :=
  match r with
  | .config c _ _ _ => c
  | .enable c => c
  | .disable c => c
  | .clear c => c
  | .status c => c
  | .net c => c

def stopServo (s : State) (k : CmdKey) : State :=
  let s1 := mapChannels s (fun _ c => { c with reqs := c.reqs.filter (fun r => r.cmd.key != k) })
  modNet s1 (fun n => { n with
    nexts := n.nexts.filter (fun x => x.cmd.key != k) })

def stopPeer (s : State) (k : CmdKey) : State :=
  match s.ports.peer.transfers.find? (fun x => x.cmd.key == k) with
  | none => s
  | some x =>
    let left := if x.write then [] else s.ports.peer.messages.filter (fun m => m.transfer == x.id)
    dropPeerTransfer (left.foldl (fun s m => undefRange s (x.local_ + m.offset) m.length) s) x.id

def stopCan (s : State) (k : CmdKey) : State :=
  { s with ports := { s.ports with can := s.ports.can.map (fun p => { p with queue := p.queue.filter (fun f => f.cmd.key != k) }) } }

/-- A command of the serving loop (R487, R496): a sequence that waits for admission ends at once, one that was admitted leaves
at the next boundary; a draft, a leave or a stop that waits for its boundary is withdrawn. -/
def stopServing (s : State) (k : CmdKey) : State :=
  let draft := fun (d : Option Draft) => match d with | some d => if d.cmd.key = k then none else some d | none => none
  let one := fun (q : Sequence) => { q with
    draft := draft q.draft, leaves := q.leaves.filter (fun c => c.1.key != k),
    leaver := if q.cmd.key = k ∧ q.live ∧ q.st ≠ .waiting then leaveWith q.leaver stOK else q.leaver }
  s.loops.foldl (fun s l =>
    let l1 := { l with
      seqs := l.seqs.map one,
      stopping := match l.stopping with | some c => if c.key = k then none else some c | none => none }
    let ids := (l1.seqs.filter (fun q => q.cmd.key == k && q.st == .waiting)).map (·.id)
    let x := ids.foldl (fun x id => retireSeq x id stDEADLINE_MISS) (s, l1)
    setLoop x.1 x.2) s

/-- Whether a DEFERRED completion of a command is due and not yet posted (R142, R146, R164). -/
def deferredWaits (k : CmdKey) (x : Completion) : Bool :=
  k.src == .queue x.sq && x.cmdId == k.id && !x.last && x.status == stDEFERRED

/-- An aborted command posts no completion: its DEFERRED does not either while it is not posted (R121, R164). -/
def dropDeferred (s : State) (k : CmdKey) : State :=
  { s with cmds := { s.cmds with cqs := s.cmds.cqs.map (fun q => { q with waiting := q.waiting.filter (fun x => !deferredWaits k x) }) } }

/-- An update command leaves whatever it waits for or runs in (R121, R152, R164); a unit that is on its way to a spare arrives there,
and no completion follows (log entry 26). -/
def leaveUpdate (s : State) (k : CmdKey) : State :=
  let other := fun (o : Option Cmd) => match o with | some c => if c.key = k then none else some c | none => none
  let retrains := match s.ports.retrain with | some r => r.1.key == k | none => false
  { s with
    boot := { s.boot with
      writes := s.boot.writes.filter (fun w => w.cmd.key != k), swap := other s.boot.swap, shellSwap := other s.boot.shellSwap },
    field := { s.field with
      parts := s.field.parts.map (fun p => { p with remap := p.remap.filter (fun r => r.2.key != k) }),
      map := s.field.map.map (fun m => match m with | .pend n x c => .pend n x (other c) | y => y) },
    solver := { s.solver with engines := s.solver.engines.map (fun e => { e with
      swapping := e.swapping.map (fun x => (x.1, other x.2)) }) },
    servo := { s.servo with
      drain := match s.servo.drain with | some d => if d.cmd.key = k then none else some d | none => none,
      drainNext := s.servo.drainNext.filter (fun d => d.cmd.key != k) },
    ports := { s.ports with
      retrain := if retrains then none else s.ports.retrain,
      retrainNext := s.ports.retrainNext.filter (fun r => r.1.key != k),
      lpddr := if retrains then s.ports.lpddr.map (fun x => { x with retraining := none }) else s.ports.lpddr } }

/-- An update command stops: the drains and retrainings that waited for it begin. -/
def stopUpdate (s : State) (k : CmdKey) : State :=
  let s1 := leaveUpdate s k
  nextRetrains (if s1.servo.drain.isNone then nextDrains s1 else s1)

/-- The hash requests of a command, and the completion that waits for an imprint of it (R638–R641). -/
def stopHashing (s : State) (k : CmdKey) : State :=
  let s1 := dropImprints s k
  { s1 with imprints := { s1.imprints with queue := s1.imprints.queue.filterMap (fun j => match j with
    | .weight c a => if c.key = k then none else some (.weight c a)
    | .imprint x w n => some (.imprint (if x.owner = k then { x with held := none } else x) w n)
    | j => some j) } }

/-- A command stops wherever it is. -/
def stopWork (s : State) (k : CmdKey) : State :=
  let s1 := stopSolver (stopRoutes (stopTransfer (dropImprints s k) k) (fun w => w.cmd.key == k)) k
  let s2 := stopHashing (stopServing (stopCan (stopPeer (stopServo (stopUpdate s1 k) k) k) k) k) k
  let s3 := stopArming s2 (fun a => a.batch.isNone && a.cmd.key == k)
  let s4 := mapSessions s3 (fun x => { x with requests := x.requests.filter (fun c => c.key != k) })
  { s4 with etch := { s4.etch with aborts := s4.etch.aborts.filter (fun a => a.cmd.key != k) } }

/-- A command is aborted: it is outstanding no longer, and posts no completion (R121, R141). -/
def stopCommand (s : State) (k : CmdKey) : State := stopWork (dropDeferred (dropOut s k) k) k

/-! A deadline (R140, R268–R274, R368, R369, R496). -/

/-- A route whose deadline arrives before it starts (R369). -/
def missWaitingRoute (s : State) (p : Nat) (w : WaitingRoute) : State :=
  let s1 := admittedEnd (unqueueRoute s p w) w.cmd.key
  let s2 := if w.cls = 2 then
      huskMiss s1 (match w.cmd.deadline with | some d => pvSrc d | none => srcCp) 3 w.sq w.cmd.key.id 0 0 else s1
  missDeadline s2 w.cmd

/-- A spilled or fenced route whose deadline arrives. -/
def missAside (s : State) (p : Nat) (r : RouteRun) : State :=
  let run := (getPart s p).run
  let s1 := modPart s p (fun x => { x with
    spilled := if x.spilled = some r then none else x.spilled, fenced := if x.fenced = some r then none else x.fenced })
  afterRoute (modPart (stopRoute s1 p { r with start := now s } stDEADLINE_MISS) p (fun x => { x with run := run })) p

/-- The routes of a command come to its deadline. -/
def missRoutes (s : State) (k : CmdKey) : State :=
  (List.range 16).foldl (fun s i =>
    let s1 := ((getPart s i).waiting.filter (fun w => w.cmd.key == k)).foldl (fun s w => missWaitingRoute s i w) s
    let s2 := match (getPart s1 i).run with
      | some r => if r.job.cmd.key = k then afterRoute (stopRoute s1 i r stDEADLINE_MISS) i else s1
      | none => s1
    (((getPart s2 i).spilled.toList ++ (getPart s2 i).fenced.toList).filter (fun r => r.job.cmd.key == k)).foldl
      (fun s r => missAside s i r) s2) s

/-- Whether a unit holds work of command `k` whose deadline has an end of its own: a solve, a batch, a route. -/
def timedWork (s : State) (k : CmdKey) : Bool :=
  (findBatch s k).isSome
  || s.solver.engines.any (fun e => (e.waiting.map (·.owner) ++ (e.run.toList.map (fun r => r.job.owner))).any (solveOf k))
  || s.field.parts.any (fun p => (p.waiting ++ (p.run.toList ++ p.spilled.toList ++ p.fenced.toList).map (·.job)).any (fun w => w.cmd.key == k))

/-- Whether command `k` is a SEQ_JOIN whose sequence has been admitted, which its deadline no longer ends (R496). -/
def admittedJoin (s : State) (k : CmdKey) : Bool :=
  s.loops.any (fun l => l.seqs.any (fun q => q.cmd.key == k && q.st != .waiting))

/-- The deadline of an outstanding command arrives (R140). -/
def deadlineMet (s : State) (o : Outstanding) : State :=
  let k := o.cmd.key
  if timedWork s k then missRoutes (missSolves s (solveOf k) (now s)) k
  else if admittedJoin s k then s
  else match s.cmds.transfers.find? (fun x => x.cmd.key == k) with
    | some x => missTransfer s x
    | none => missUnstarted (stopWork s k) o.cmd

/-! An uncorrectable error in what a command reads (R417). -/

/-- A SEQ_JOIN whose hashing or prompt has met an uncorrectable error (R496): while it waits it ends at once; once admitted, its
sequence leaves at the next boundary with that status. -/
def failJoin (s : State) (k : CmdKey) : State :=
  s.loops.foldl (fun s l =>
    let ids := (l.seqs.filter (fun q => q.cmd.key == k && q.live)).map (fun q => (q.id, q.st == .waiting))
    let x := ids.foldl (fun (x : Srv) i =>
      if i.2 then retireSeq x i.1 stUNCORRECTABLE
      else (x.1, modSeq x.2 i.1 (fun q => { q with leaver := leaveWith q.leaver stUNCORRECTABLE }))) (s, l)
    setLoop x.1 x.2) s

/-- Whether a command is the SEQ_JOIN of a sequence that has not ended. -/
def joinLive (s : State) (k : CmdKey) : Bool := s.loops.any (fun l => l.seqs.any (fun q => q.cmd.key == k && q.live))

/-- The command that has read it completes with UNCORRECTABLE. -/
def failRead (s : State) (k : CmdKey) : State :=
  match s.cmds.transfers.find? (fun x => x.cmd.key == k) with
  | some x => endEarly s x stUNCORRECTABLE x.length
  | none =>
    let runs := (List.range 9).filterMap (fun e => match (getEngine s e).run with
      | some r => if solveOf k r.job.owner then some (e, r) else none
      | none => none)
    let routes := (List.range 16).filterMap (fun p => match (getPart s p).run with
      | some r => if r.job.cmd.key = k then some (p, r) else none
      | none => none)
    match runs, routes with
    | (e, r) :: _, _ =>
      solveOver (abandonRun s e r (now s)) r.job 
        { status := stUNCORRECTABLE, warn := abandonWarn r (now s), stamp := now s, epoch := (getEngine s e).epoch, engine := some e }
    | [], (p, r) :: _ => afterRoute (stopRoute s p r stUNCORRECTABLE) p
    | [], [] => match findOut s k with
      | none => s
      | some o => if o.done then s else if joinLive s k then failJoin s k else done (stopWork s k) o.cmd stUNCORRECTABLE

/-! Closing a session (R152). -/

/-- Everything that runs for a session but names no command of its own: its serving loops with their routes and batches. -/
def stopLoops (s : State) (id : Word) : State :=
  let s1 := stopRoutes s (fun w => w.session == id)
  let s2 := (s1.solver.batches.filter (fun b => b.session == some id)).foldl (fun s b => stopSolver s b.cmd.key) s1
  (s2.loops.filter (fun l => l.session == id)).foldl dropLoop s2

/-- What else belongs to a session: its imprint configurations and hash requests, its peer windows, its loaded routes. -/
def dropObjects (s : State) (id : Word) : State :=
  let s1 := closePeerWindows s (fun w => w.session == id)
  { s1 with
    field := { s1.field with routes := s1.field.routes.filter (fun r => r.session != id) },
    imprints := { s1.imprints with
      configs := s1.imprints.configs.filter (fun c => c.session != id),
      weights := s1.imprints.weights.filter (fun w =>
        s1.cmds.allocs.any (fun a => a.addr == w.addr && a.session != some id)),
      queue := s1.imprints.queue.filter (fun j => match j with | .inputs w _ _ => w != id | _ => true) } }

/-- Steps 1 to 3 of R152 for a session, but for the close command `but` itself: how many etches pass to the function. -/
def closeWork (s : State) (id : Word) (but : Option CmdKey) : Nat × State :=
  let qs := (s.cmds.sqs.filter (fun q => q.session == id)).map (·.id)
  let still := fun (q : SubQueue) => if q.session = id then { q with error := true, bells := [] } else q
  let s1 := { s with
    cmds := { s.cmds with sqs := s.cmds.sqs.map still },
    hif := { s.hif with fifo := s.hif.fifo.filter (fun d => !qs.contains d.sq) } }
  let mine := fun (o : Outstanding) => (match o.cmd.key.src with | .queue q => qs.contains q.toNat | _ => false)
    && but != some o.cmd.key && !o.done
  let s2 := (s1.cmds.outstanding.filter mine).foldl (fun s o => stopCommand s o.cmd.key) s1
  closeEtches (dropObjects (stopLoops s2 id) id) (fun i => i == id)

/-- R152 for a session of a function that is reset or disabled: it posts nothing. -/
def closeSilently (s : State) (id : Word) : State := closeFinal (closeWork s id none).2 id

/-- Every session of a function closes (R152, R679). -/
def resetFunction (s : State) (fn : Nat) : State :=
  ((s.cmds.sessions.filter (fun x => x.fn == fn)).map (·.id)).foldl closeSilently s

/-- The host link is lost (R679, R740): every function is reset. -/
def loseLink (s : State) : State :=
  let s1 := (List.range 64).foldl resetFunction s
  { s1 with ports := { s1.ports with linkUp := false } }

end Sys2Proof.Machine
end

