-- ==== Sys2Proof/Machine/Abort.lean ====
section
/-!
DEFINITION. Machine/Abort.lean: aborts, deadlines, the deletion of queues, the closing of sessions, and the resets of functions
and of the host link (R116–R121, R140, R152, R163, R164, R416, R417, R679, R740, R755).
-/
namespace Sys2Proof.Machine

/-! Aborts (R116–R121, R164, R166, R755). -/

/-- Whether a command of family 0x0C has posted DEFERRED and can no longer be aborted (R164). -/
def pastAbort (s : State) (o : Outstanding) : Bool :=
  o.deferred && entryFamily o.entry == 0x0C && !s.cmds.cqs.any (fun q => q.waiting.any (deferredWaits o.cmd.key))

/-- Whether a command may be aborted now: what the abort completes with if not (R121, R164). -/
def abortRefusal (s : State) (k : CmdKey) : Option Status :=
  match findOut s k with
  | none => some stALREADY_DONE
  | some o => if o.done then some stALREADY_DONE else if pastAbort s o then some stPROTECTION else none

/-- Leave an abort to its abort instant (R116). -/
def waitAbort (s : State) (c : Cmd) (x : AbortTarget) : State :=
  { s with etch := { s.etch with aborts := s.etch.aborts ++ [{ cmd := c, target := x }] } }

/-- ABORT (R116, R121, R163, R164). -/
def execAbort (t : Nat) (c : Cmd) (sq : BitVec 18) (cmd : BitVec 16) (s : State) : Out :=
  host s t c true (fun s => match findSq s sq.toNat with
    | none => done s c stALREADY_DONE
    | some q =>
      if !ownsObject s c q.session q.fn then done s c stPROTECTION
      else match abortRefusal s ⟨.queue sq, cmd⟩ with
        | some st => done s c st
        | none => waitAbort s c (.command ⟨.queue sq, cmd⟩))

/-- What an abort of etch `e` completes with when it may not be aborted (R117, R119, R120, R755). -/
def etchAbortRefusal (s : State) (e : Etch) : Option Status :=
  match e.st with
  | .staged => none
  | .armed => if e.hdr.kind = 1 ∨ (e.hdr.kind = 2 ∧ !fallbackOpen s e) then some stPROTECTION else none
  | .replaced => some stPROTECTION
  | _ => some stALREADY_DONE

/-- ETCH_ABORT (R95, R116, R119, R166, R755): an etch that is not yet COMMITTED, EXPIRED or ABORTED is judged at the abort
instant. -/
def execEtchAbort (t : Nat) (c : Cmd) (etch : BitVec 16) (s : State) : Out :=
  host s t c true (fun s => match findEtch s etch.toNat with
    | none => done s c stALREADY_DONE
    | some e =>
      if !ownsEtch s c e then done s c stPROTECTION
      else if e.st = .committed ∨ e.st = .expired ∨ e.st = .aborted then done s c stALREADY_DONE
      else waitAbort s c (.etch e.id))

/-- An etch is aborted (R117, R118, R120): its fallback returns to ARMED, an arm of it that is under way fails, and its id and
actions are released. -/
def abortEtch (s : State) (e : Etch) : State :=
  let l := s.etch.arming.filter (fun a => a.etch == e.id)
  let s1 := { restoreFallback s e with etch := { (restoreFallback s e).etch with
    arming := s.etch.arming.filter (fun a => a.etch != e.id) } }
  l.foldl (fun s a => armFails s a stBAD_DESCRIPTOR) (releaseEtch s1 e.id)

/-- A deadline of a command that has arrived by this tick is ordered before an abort of it: its match carries a lower source number
(R70, R72, R121, R140). -/
def deadlineFirst (s : State) (k : CmdKey) : State :=
  match findOut s k with
  | none => s
  | some o => match o.cmd.deadline with
    | some d => if !o.done && deadlineArrived s d then deadlineMet s o else s
    | none => s

/-- ABORT_INSTANT (R116–R121): the abort reaches the committer, or the unit that runs the command. Every commit that has matched
by this tick is ordered before it, since a match carries a lower source number than any abort (R70, R72, R116). -/
def execAbortInstant (t : Nat) (cmd : CmdKey) (s : State) : Out :=
  event s t (fun s => match s.etch.aborts.find? (fun a => a.cmd.key == cmd) with
    | none => s
    | some a =>
      let s0 := match a.target with | .etch _ => commitDue s (fun _ => true) | .command k => deadlineFirst s k
      let s1 := { s0 with etch := { s0.etch with aborts := s0.etch.aborts.filter (fun b => b.cmd.key != cmd) } }
      match a.target with
      | .command k => match abortRefusal s1 k with
        | some st => done s1 a.cmd st
        | none => done (stopCommand s1 k) a.cmd stOK
      | .etch id => match findEtch s1 id with
        | none => done s1 a.cmd stALREADY_DONE
        | some e => match etchAbortRefusal s1 e with
          | some st => done s1 a.cmd st
          | none => done (abortEtch s1 e) a.cmd stOK)

/-- DEADLINE_MATCH (R140, R268, R368): the deadline of an outstanding command arrives. -/
def execDeadlineMatch (t : Nat) (cmd : CmdKey) (s : State) : Out :=
  event s t (fun s => match findOut s cmd with
    | none => s
    | some o => match o.cmd.deadline with
      | none => s
      | some v => if o.done || !deadlineArrived s v then s else deadlineMet s o)

/-! Queues and sessions (R152, R163, R164). -/

/-- DELETE_SQ (R163, R164): every other outstanding command of the queue is aborted. -/
def execDeleteSq (t : Nat) (c : Cmd) (sq : BitVec 18) (s : State) : Out :=
  host s t c true (fun s => match findSq s sq.toNat with
    | none => done s c stBAD_DESCRIPTOR
    | some q =>
      if !ownsObject s c q.session q.fn then done s c stPROTECTION
      else
        let mine := fun (o : Outstanding) => o.cmd.key.src == .queue sq && o.cmd.key != c.key && !o.done
        let s1 := (s.cmds.outstanding.filter mine).foldl (fun s o => stopCommand s o.cmd.key) s
        let s2 := done s1 c stOK
        { s2 with
          cmds := { s2.cmds with sqs := s2.cmds.sqs.filter (fun x => x.id != q.id) },
          hif := { s2.hif with fifo := s2.hif.fifo.filter (fun d => d.sq != q.id) },
          imprints := { s2.imprints with configs := s2.imprints.configs.filter (fun x => x.sq != q.id) } })

/-- CLOSE_SESSION (R152, R163): on a queue of the session itself, the session ends when the completion has been posted. -/
def execCloseSession (t : Nat) (c : Cmd) (session : Word) (s : State) : Out :=
  host s t c true (fun s =>
    if !mayName s c session then done s c stPROTECTION
    else
      let own := sessionOf s c == some session
      let r := closeWork s session (some c.key)
      if own && !c.quiet then
        let s1 := { r.2 with cmds := { r.2.cmds with closing := r.2.cmds.closing ++ [session] } }
        finish s1 c { status := stOK, result := BitVec.ofNat 64 r.1, urgent := true }
      else closeFinal (done r.2 c stOK r.1) session)

/-- FUNCTION_LEVEL_RESET (R152, R679). -/
def execFunctionLevelReset (t : Nat) (fn : Nat) (s : State) : Out := event s t (fun s => resetFunction s fn)

/-- VF_DISABLE (R152): function 0 is no VF. -/
def execVfDisable (t : Nat) (fn : Nat) (s : State) : Out := event s t (fun s => if fn = 0 then s else resetFunction s fn)

/-- HOST_LINK_LOSS (R679). -/
def execHostLinkLoss (t : Nat) (s : State) : Out := event s t loseLink

/-- PERST_ASSERT (R679, R740): the host port is reset, which is a loss of its link. -/
def execPerstAssert (t : Nat) (s : State) : Out := event s t loseLink

/-! Errors of device memory (R415–R417). -/

/-- LPDDR_BURST_REREAD_LIMIT (R31, R415–R417, R577): the third mismatch of a burst of activation-class LPDDR, whose two re-reads are
counted. A place of another protection, the shared buffer or LPDDR of another class, is not read again: there the row is the detected
error itself (DEDUCED, log entry 150). Either is an uncorrectable error; in data that a HARD or SAFETY slot uses it is a safe-state
trigger. -/
def execLpddrBurstRereadLimit (t : Nat) (addr : Nat) (cmd : CmdKey) (s : State) : Out :=
  event s t (fun s =>
    if hostBase ≤ addr ∨ (16 * sliceBytes ≤ addr ∧ addr < lpddrBase) then s
    else
      let ch := Config.lpddrChannel addr % 32
      let s1 := if burstRange s addr 1 then { s with ports := { s.ports with lpddr := s.ports.lpddr.modify ch (fun x => { x with
        rereads := satInc (satInc x.rereads) }) } } else s
      let source := if s.cmds.transfers.any (fun x => x.cmd.key == cmd) then srcDma else srcCp
      let s2 := failRead (noteUncorrectable s1 addr source) cmd
      if usedByHard s addr then safeTrigger s2 srcShell else s2)

end Sys2Proof.Machine
end

