-- ==== Sys2Proof/Machine/BootImage.lean ====
section
/-!
DEFINITION. Machine/BootImage.lean: the signed images of the boot flash, what makes boot code accept one, and what a pending
protection set must not exclude (R594–R596, R602–R605).
-/
namespace Sys2Proof.Machine

/-! The signed header (R594). -/

def biKind (b : Bytes) : Nat := (byteAt b 1).toNat
def biKey (b : Bytes) : Nat := (byteAt b 2).toNat
def biFormatMin (b : Bytes) : Nat := (byteAt b 3).toNat
def biVersion (b : Bytes) : Nat := numAt b 4 4
def biLength (b : Bytes) : Nat := numAt b 8 4
def biFormatMax (b : Bytes) : Nat := (byteAt b 12).toNat
def biDigest (b : Bytes) : Bytes := slice b 16 48
def biPublic (b : Bytes) : Bytes := slice b 64 97
def biSignature (b : Bytes) : Bytes := slice b 168 96
def biPayload (b : Bytes) : Bytes := b.drop 512

/-- Size of a protection image's payload (R594). -/
def protBytes : Nat := 17408

/-- The payload lengths that a kind accepts. -/
def biLengthOk (kind n : Nat) : Bool :=
  match kind with
  | 1 => decide (n ≤ 262144)
  | 2 => decide (n ≤ 1048576)
  | 3 => decide (n ≤ 3145728)
  | 4 => n == protBytes
  | _ => false

/-! The contents of a protection image (R599–R603). -/

/-- A word of a protection image's payload. -/
def ppWord (p : Bytes) (o : Nat) : Word := BitVec.ofNat 32 (numAt p o 4)

/-- The bits of word `w` of a function entry that R602 gives a field. -/
def ppFnMask (w : Nat) : Word :=
  match w with
  | 0 => 0xFC007FFF#32
  | 1 => 0x0003FFFF#32
  | 2 => 0x0007FFFF#32
  | 3 => 0xFFFFFFFF#32
  | 4 => 0xFFFF0FFF#32
  | 5 | 6 | 7 | 8 => 0xFFFFFFFF#32
  | _ => 0#32

/-- The bits of word `w` of a channel entry that R603 gives a field. -/
def ppChanMask (w : Nat) : Word :=
  if w = 0 then 0xC000FFFF#32 else if w = 5 ∨ 18 ≤ w then 0#32 else 0xFFFFFFFF#32

/-- The bits of the word at offset `o` of the BOOT_PROT_ block that a payload may set: those with a field in R599–R603; boot_lock
is written as 0, and offsets not listed are reserved. -/
def ppMask (o : Nat) : Word :=
  if o = 0 then 0x00FFFFFF#32
  else if o = 4 then 0xFFE0FF00#32
  else if o = 8 then 0xFFFFFFC0#32
  else if o = 0xC then 0xFFC0FF00#32
  else if o = 0x10 then 0xFFFFFF3F#32
  else if o = 0x14 then 0x001F00FE#32
  else if 0x20 ≤ o ∧ o < 0x30 then 0xFFFFFFFF#32
  else if 0x40 ≤ o ∧ o < 0x58 then 0xFFFFFFFF#32
  else if o = 0x58 then 0x0000001F#32
  else if 0x100 ≤ o ∧ o < 0x200 then 0xFFFFFFFF#32
  else if 0x200 ≤ o ∧ o < 0x240 then 0xF00001FF#32
  else if 0x1000 ≤ o ∧ o < 0x2000 then ppFnMask ((o - 0x1000) % 64 / 4)
  else if 0x2000 ≤ o ∧ o < protBytes then ppChanMask ((o - 0x2000) % 96 / 4)
  else 0#32

/-- The bits that a payload may set, byte for byte. -/
def ppMaskBytes : Bytes := (List.range (protBytes / 4)).flatMap (fun i => leBytes 4 (ppMask (4 * i)).toNat)

/-- Whether a value lies in a range that R599–R602 give a field. -/
def within (v lo hi : Nat) : Bool := decide (lo ≤ v) && decide (v ≤ hi)

/-- The encoded fields of the words before the function entries hold values that R599–R601 define. -/
def ppHeadOk (p : Bytes) : Bool :=
  let a := ppWord p 4
  let t := ppWord p 8
  let d := ppWord p 0xC
  fld (ppWord p 0) 23 16 == 1
  && fld a 31 30 != 3 && within (fld a 27 24) 1 15 && within (fld a 23 21) 1 4 && within (fld a 15 8) 40 250
  && within (fld t 31 22) 100 1000 && decide (fld t 21 13 ≤ 500) && within (fld t 12 6) 5 100
  && within (fld d 31 22) 10 1000 && decide (fld d 15 8 ≤ 128) && fld d 15 8 % 4 == 0

/-- The encoded fields of a function entry hold values that R602 defines: msix_count 0 stands in an entry with enable 0 alone
(DEDUCED: the reset entries are all zero, log entry 130). -/
def ppEntryOk (p : Bytes) (f : Nat) : Bool :=
  let w := fun (k : Nat) => ppWord p (0x1000 + 64 * f + 4 * k)
  decide (fld (w 0) 14 0 ≤ 16384) && decide (fld (w 2) 18 0 ≤ 262144) && decide (fld (w 3) 31 16 ≤ 65535)
  && decide (fld (w 4) 11 0 ≤ 2048) && (decide (0 < fld (w 4) 11 0) || !wbit (w 0) 31)

/-- Reserved bits 0 and defined values in every encoded field of a payload (R10, R11, R599–R603). -/
def ppFieldsOk (p : Bytes) : Bool :=
  (p.zip ppMaskBytes).all (fun x => x.1 &&& ~~~x.2 == 0)
  && ppHeadOk p && (List.range 64).all (ppEntryOk p)
  && (List.range 96).all (fun c => fld (ppWord p (0x2000 + 96 * c)) 31 30 != 3)

/-- No field of an image is reserved and non-zero, or holds a value that R594 or R599–R603 do not define (R10, R11). -/
def biFieldsOk (b : Bytes) : Bool :=
  byteAt b 0 == 1 && within (biKind b) 1 4 && decide (biKey b ≤ 3) && decide (biVersion b ≤ 63)
  && biLengthOk (biKind b) (biLength b) && (biKind b == 2 || (byteAt b 3 == 0 && byteAt b 12 == 0))
  && (slice b 13 3 ++ slice b 161 7 ++ slice b 264 248).all (· == 0)
  && (biKind b != 4 || ppFieldsOk (biPayload b))

/-! Acceptance (R595, R596, R602). -/

/-- The queue ranges and the msix_count that a payload gives function `f`: SQ base and count, CQ base and count. -/
def ppFn (p : Bytes) (f w : Nat) : Word := ppWord p (0x1000 + 64 * f + 4 * w)

/-- Whether the queue ranges of two functions overlap. -/
def ppHit (p : Bytes) (f g : Nat) : Bool :=
  overlaps (fld (ppFn p f 1) 17 0) (fld (ppFn p f 2) 18 0) (fld (ppFn p g 1) 17 0) (fld (ppFn p g 2) 18 0)
  || overlaps (fld (ppFn p f 3) 15 0) (fld (ppFn p f 3) 31 16) (fld (ppFn p g 3) 15 0) (fld (ppFn p g 3) 31 16)

/-- What makes boot code refuse a protection image by its contents (R602). -/
def ppOk (p : Bytes) : Bool :=
  (List.range 64).all (fun f => (List.range f).all (fun g => !ppHit p f g))
  && decide ((List.range 64).foldl (fun n f => n + fld (ppFn p f 4) 11 0) 0 ≤ 2048)
  && (List.range 63).all (fun i => !wbit (ppFn p (i + 1) 0) 27 && !wbit (ppFn p (i + 1) 0) 26)

/-- The key mask of the protection set for a kind (R599); every slot for the boot stage. -/
def keyMask (s : State) (kind : Nat) : Nat :=
  let w := protWord s 0x10
  match kind with
  | 2 => fld w 31 28
  | 3 => fld w 27 24
  | 4 => fld w 23 20
  | _ => 15

/-- Whether boot code accepts an image of a kind (R594, R595, R602). -/
def imageAccepted (s : State) (kind : Nat) (b : Bytes) : Bool :=
  let o := s.boot.otp
  biFieldsOk b && biKind b == kind && b.length == 512 + biLength b
  && sha384 (biPublic b) == o.keys.getD (biKey b) []
  && !o.revoked.getD (biKey b) true
  && (keyMask s kind).testBit (biKey b)
  && Config.ecdsaVerify (biPublic b) (b.take 168) (biSignature b)
  && sha384 (biPayload b) == biDigest b
  && decide (o.floors.getD (kind - 1) 0 ≤ biVersion b)
  && (kind != 4 || ppOk (biPayload b))

/-! Slots. -/

/-- The image of a kind in slot B, or A. -/
def bootSlot (s : State) (kind : Nat) (b : Bool) : Bytes :=
  let f := s.boot.flash
  match kind with
  | 2 => if b then f.shellB else f.shellA
  | 3 => if b then f.mainB else f.mainA
  | _ => if b then f.protB else f.protA

/-- The slot that the selector of a kind names: true is B. -/
def selector (s : State) (kind : Nat) : Bool :=
  let f := s.boot.flash
  match kind with
  | 2 => f.selShell
  | 3 => f.selMain
  | _ => f.selProt

def modFlash (s : State) (f : Flash → Flash) : State := { s with boot := { s.boot with flash := f s.boot.flash } }

/-- Write an image into a slot. -/
def setImage (s : State) (kind : Nat) (b : Bool) (x : Bytes) : State :=
  modFlash s (fun f =>
    match kind with
    | 2 => if b then { f with shellB := x } else { f with shellA := x }
    | 3 => if b then { f with mainB := x } else { f with mainA := x }
    | _ => if b then { f with protB := x } else { f with protA := x })

/-- Switch the selector of a kind to slot B, or A. -/
def setSelector (s : State) (kind : Nat) (b : Bool) : State :=
  modFlash s (fun f =>
    match kind with
    | 2 => { f with selShell := b }
    | 3 => { f with selMain := b }
    | _ => { f with selProt := b })

/-- Slot code of a slot: A is 0. -/
def slotCode (b : Bool) : Nat := if b then 1 else 0

/-- An FW_SWAP record (R611): 0 main or 1 Shell, the slots, whether it is a fallback, and the version of the new image. -/
def huskSwap (s : State) (shell : Nat) (from_ dest : Bool) (fallback : Nat) (image : Bytes) : State :=
  huskRequest s 0x0A srcShell (leBytes 1 shell ++ leBytes 1 (slotCode from_) ++ leBytes 1 (slotCode dest) ++ leBytes 1 fallback
    ++ leBytes 4 (biVersion image))

/-- The slot of a kind that boot code takes (R597): the selected one, or the other with its FW_SWAP record when the selected
fails; none when both fail. -/
def pickSlot (s : State) (kind shell : Nat) (ok : State → Bytes → Bool) : State × Option Bool :=
  let a := selector s kind
  if ok s (bootSlot s kind a) then (s, some a)
  else if ok s (bootSlot s kind (!a)) then (huskSwap s shell a (!a) 1 (bootSlot s kind (!a)), some (!a))
  else (s, none)

/-! The protection set (R597–R599). -/

/-- Boot code writes every byte of the BOOT_PROT_ block from a verified payload; boot_lock stands apart, and reserved bits take no
write (R9, R599). -/
def writeProt (s : State) (p : Bytes) : State :=
  { s with boot := { s.boot with prot := Memory.write [] 0 ((p.zip ppMaskBytes).map (fun x => x.1 &&& x.2)) } }

/-- prot_version (R599). -/
def protVersion (s : State) : Nat := fld (protWord s 0) 15 0

/-- Whether a Shell firmware image accepts the format of the protection set (R594, R597). -/
def formatOk (s : State) (b : Bytes) : Bool :=
  let f := fld (protWord s 0) 23 16
  decide (biFormatMin b ≤ f) && decide (f ≤ biFormatMax b)

/-- A Shell firmware image that boot code takes: accepted, and its range holds the set's format. -/
def shellOk (s : State) (b : Bytes) : Bool := imageAccepted s 2 b && formatOk s b

/-- The floors that the protection set names are raised (R596), kinds 0x1–0x3. -/
def raiseFloors (s : State) : State :=
  let w := protWord s 0x10
  let o := s.boot.otp
  let up := fun (i v : Nat) => max (o.floors.getD i 0) v
  { s with boot := { s.boot with otp := { o with floors :=
    [up 0 (fld w 5 0), up 1 (fld w 19 14), up 2 (fld w 13 8), o.floors.getD 3 0] } } }

/-! What a pending set would exclude (R605); each check reads the state with that set in force. -/

/-- An open session, with its queues, their partitions and vectors, and its allocations. -/
def sessionFits (s : State) (x : Session) : Bool :=
  let mine := (s.cmds.sessions.filter (fun y => y.fn == x.fn)).length
  let inRange := fun (base n i : Nat) => decide (base ≤ i) && decide (i < base + n)
  wbit (fnWord s x.fn 0) 31 && decide (mine ≤ fnSessionLimit s x.fn)
  && (s.cmds.sqs.filter (fun q => q.session == x.id)).all (fun q =>
      inRange (fnSqBase s x.fn) (fnSqCount s x.fn) q.id && fnPartition s x.fn q.part)
  && (s.cmds.cqs.filter (fun q => q.session == x.id)).all (fun q =>
      inRange (fnCqBase s x.fn) (fnCqCount s x.fn) q.id && decide (q.vector < fnMsix s x.fn))
  && (s.cmds.allocs.filter (fun a => a.session == some x.id)).all (fun a =>
      decide (fnMemBase s x.fn ≤ a.addr) && decide (a.addr + a.bytes ≤ fnMemLimit s x.fn))

/-- The coefficient blocks of the configured channels, those that wait for a read instant among them. -/
def blocksFit (s : State) : Bool :=
  (List.range 96).all (fun n =>
    let c := getChannel s n
    c.cfg.isEmpty || (blockAllowed s n c.block && (match c.nextBlock with | some b => blockAllowed s n b | none => true)))

/-- The limit sets in force and those of armed etches. -/
def limitsFit (s : State) : Bool :=
  s.safety.limits.all (fun l => match l with | some b => limitAllowed s b | none => true)
  && (s.etch.etches.filter (fun e => e.st == .armed || e.st == .replaced)).all (fun e =>
      (e.acts.zip e.payloads).all (fun p => p.1.cls != 0x13 || p.1.typ != 2 || limitAllowed s p.2))

/-- selftest_interval_ms and the partition grants of the running Plate; the default Plate needs no grant (R757). -/
def plateFits (s : State) : Bool :=
  s.plate.isDefault ||
  (decide (fld (wat s.plate.header 6) 31 16 ≤ protSelftestLimit s)
   && (List.range 16).all (fun n =>
     let e := partEntry s n
     let p := protWord s (0x200 + 4 * n)
     !peValid e || (wbit p 31 && decide (peSizeLog2 e ≤ fld p 30 28) && Nat.land (peEngines e) (fld p 8 0) == peEngines e)))

/-- Whether a pending protection image excludes nothing that runs (R605), with the Shell firmware image that is to run
under it. -/
def protFits (s : State) (image shell : Bytes) : Bool :=
  let t := writeProt s (biPayload image)
  t.cmds.sessions.all (sessionFits t) && blocksFit t && limitsFit t && plateFits t && formatOk t shell
  && formatOk t (bootSlot s 2 s.boot.shellB)

end Sys2Proof.Machine
end

