-- ==== Sys2Proof/Machine/Power.lean ====
section
/-!
DEFINITION. Machine/Power.lean: the commands of family 0x09, the temperature sensors and the ends of power transitions
(R647–R675).
-/
namespace Sys2Proof.Machine

/-! Registers (R672–R674). -/

/-- PWR_STATE. -/
def pwrState (s : State) : Word :=
  let p := s.power
  let bit := fun (b : Bool) (i : Nat) => if b then 2 ^ i else 0
  BitVec.ofNat 32 (bit p.wakeRefused 8 + bit p.thermalTrip 7 + bit p.transition.isSome 6 + p.state)

/-- Two bits for each unit of a class, unit 0 lowest. -/
def packUnits : List (BitVec 2) → Nat
  | [] => 0
  | v :: r => v.toNat + 4 * packUnits r

/-- PWR_LPDDR. -/
def pwrLpddr (s : State) : Nat := packUnits s.power.banks + (if s.power.selfRefresh then 2 ^ 16 else 0)

/-- The hottest of a list of readings, the first of equals, with its place. -/
def hottest (l : List Int) : Nat × Int :=
  (List.range l.length).foldl (fun m i => if m.2 < l.getD i 0 then (i, l.getD i 0) else m) (0, l.headD 0)

/-- The hottest main-die sensor. -/
def hotMain (s : State) : Nat × Int := hottest (s.power.readings.take 8)

/-- PWR_TEMP. -/
def pwrTemp (s : State) : Nat :=
  let h := hottest s.power.readings
  s.power.warn.toNat * 2 ^ 16 + h.1 * 2 ^ 12 + wrapN 12 (clampI (-2047) 2047 h.2)

/-- PWR_STATE to PWR_TEMP in offset order (R675). -/
def pwrBytes (s : State) : Bytes :=
  leBytes 4 (pwrState s).toNat ++ leBytes 4 0 ++ leBytes 8 (packUnits s.power.sectors) ++ leBytes 4 (packUnits s.power.engines)
    ++ leBytes 4 (packUnits s.power.slices) ++ leBytes 4 (pwrLpddr s) ++ leBytes 4 0 ++ leBytes 4 (pwrTemp s)

/-! Commands (R675). -/

/-- Whether every channel is DISABLED or in STOP (R666, R667). -/
def channelsQuiet (s : State) : Bool := s.servo.channels.all (fun c => c.st == .disabled || c.st == .stop)

/-- Whether an ARMED etch holds an object of an engine that STANDBY or SHELL_ONLY takes from ON (R110). -/
def engineHeld (s : State) : Bool :=
  (List.range 9).any (fun n => s.power.engines.getD n 0 == 2 && heldByArmed s (0x20000 + n) (fun _ => true))

/-- What refuses a profile (R110, R653, R654, R666, R667). -/
def profileStatus (s : State) (v : Nat) : Option Status :=
  if v ≤ 2 then (if !channelsQuiet s then some stPROTECTION else if engineHeld s then some stNO_RESOURCE else none)
  else if lowersClock s v && !(clockBound s).isEmpty then some stPROTECTION
  else if !profileFits v (countOn (sectorsNow s)) (countOn (enginesNow s)) (reservedGbs s) then some stNO_RESOURCE
  else none

/-- POWER_PROFILE (R648, R653, R654, R666, R667, R675): it completes when the change is accepted. -/
def execPowerProfile (t : Nat) (c : Cmd) (state : BitVec 4) (s : State) : Out :=
  host s t c (okProfile state) (fun s =>
    let v := state.toNat
    if v = s.power.state then done s c stOK v
    else if s.power.transition.isSome then done s c stNO_RESOURCE
    else match profileStatus s v with
      | some st => done s c st
      | none => startProfile (done s c stOK v) v)

/-- Whether a unit switched ON would exceed the cap of the profile in force (R650). -/
def overCap (s : State) (u : Nat) : Bool :=
  let one := if unitState s u = 2 then 0 else 1
  match unitClass u with
  | 1 => decide (profileSectors s.power.profile < countOn (sectorsNow s) + one)
  | 2 => decide (profileEngines s.power.profile < countOn (enginesNow s) + one)
  | _ => false

/-- What refuses a POWER_UNIT (R110, R650, R657–R659). -/
def powerUnitStatus (s : State) (u v : Nat) : Option Status :=
  if unitClass u = 0 then some stBAD_DESCRIPTOR
  else if isSpare s u then some stPROTECTION
  else if v = 2 then (if overCap s u then some stNO_RESOURCE else none)
  else if heldByArmed s u (fun _ => true) then some stNO_RESOURCE
  else powerDownStatus s u (fun _ => false)

/-- POWER_UNIT (R655–R660, R675). -/
def execPowerUnit (t : Nat) (c : Cmd) (unit : BitVec 20) (state : BitVec 2) (s : State) : Out :=
  host s t c (okPowerUnit unit state) (fun s => match powerUnitStatus s unit.toNat state.toNat with
    | some st => done s c st
    | none =>
      let s1 := startUnit s unit.toNat state srcCp
      done s1 c stOK (unitState s1 unit.toNat).toNat)

/-- POWER_STATUS (R672, R675). -/
def execPowerStatus (t : Nat) (c : Cmd) (window : Word) (offset : DWord) (s : State) : Out :=
  host s t c true (fun s => writeReply s c window offset.toNat (pwrBytes s) (pwrState s).toNat)

/-! Temperature (R669–R671). -/

/-- The THERMAL event when the hottest main-die sensor first exceeds the threshold, and again 5 °C below it (R669). -/
def thermalWarn (s : State) : State :=
  let h := (hotMain s).2
  let w := s.power.warn.toInt
  if !s.power.warned && decide (w < h) then
    raiseEvent { s with power := { s.power with warned := true } } evTHERMAL (wrapN 16 h)
  else if s.power.warned && decide (h ≤ w - 80) then
    raiseEvent { s with power := { s.power with warned := false } } evTHERMAL (wrapN 16 h)
  else s

/-- THERMAL_SET (R669, R675). -/
def execThermalSet (t : Nat) (c : Cmd) (threshold : BitVec 16) (s : State) : Out :=
  host s t c (okThreshold threshold) (fun s => thermalWarn (done { s with power := { s.power with warn := threshold } } c stOK))

/-- A THERMAL_TRIP record (R611). -/
def huskTrip (s : State) (sensor : Nat) (tj : Int) : State :=
  huskRequest s 0x08 srcShell (leBytes 2 (wrapN 16 tj) ++ leBytes 1 sensor)

/-- THERMAL_SAMPLE (R669–R671): 2,000 is 125 °C. -/
def execThermalSample (t : Nat) (readings : List Int) (s : State) : Out :=
  event s t (fun s =>
    let s1 := { s with power := { s.power with readings := (List.range 9).map (fun i => readings.getD i (s.power.readings.getD i 0)) } }
    let s2 := thermalWarn s1
    let h := hotMain s2
    let s3 := if s2.power.mainPwrEn && decide (2000 ≤ h.2) then
        let s := supplyLost (huskTrip s2 h.1 h.2)
        { s with power := { s.power with thermalTrip := true } }
      else s2
    let shell := s3.power.readings.getD 8 0
    if 2000 ≤ shell ∧ !s3.safety.shellFault then shellFaultPath (huskTrip s3 8 shell) else s3)

/-! Transitions. -/

/-- UNIT_DRAIN_END (R662, R663): no accepted request remains at the port. -/
def execUnitDrainEnd (t unit : Nat) (s : State) : Out :=
  event s t (fun s => match s.power.drains.find? (fun d => d.unit == unit) with
    | some d => endDrain s d
    | none => s)

/-- POWER_TRANSITION_COMPLETE (R648, R656, R666, R667): a sector or engine at its command boundary, or the device. -/
def execPowerTransitionComplete (t unit : Nat) (s : State) : Out :=
  event s t (fun s =>
    if unit = 0 then
      match s.power.transition with
      | none => s
      | some v =>
        if v = 1 then huskPower (mainLost s false) srcCp s.power.state 1 0
        else if v = 2 then (if standbyReady s then endProfile s 2 else s)
        else if s.power.state = 1 && !s.hif.fwReady then s
        else endProfile s v
    else match s.power.moves.find? (fun m => m.1 == unit) with
      | some m => if unitIdle s unit then standbySlices (enterUnit s unit m.2) else s
      | none => s)

/-- MAIN_ON (R668): accepted in SHELL_ONLY with every main-die sensor at 115 °C or below at its last sample. -/
def execMainOn (t : Nat) (value : Word) (s : State) : Out :=
  event s t (fun s0 =>
    let s := i3cSelect s0 2 0x40
    let p := s.power
    if fld value 7 0 ≠ 0x4D then s
    else if p.state ≠ 1 ∨ 1840 < (hotMain s).2 then { s with power := { p with wakeRefused := true } }
    else mainPowerOn { s with power := { p with wakeRefused := false, thermalTrip := false } })

end Sys2Proof.Machine
end

