-- ==== Sys2Proof/Machine/SafetyEvents.lean ====
section
/-!
DEFINITION. Machine/SafetyEvents.lean: the commands of family 0x0A but TRACER_CHECK, and the events of the stop, STO,
brake and E-stop logic and of the monitors (R550, R570–R591).
-/
namespace Sys2Proof.Machine

/-! Commands (R591). -/

/-- SAFETY_STATUS (R589–R591). -/
def execSafetyStatus (t : Nat) (c : Cmd) (window : Word) (offset : DWord) (s : State) : Out :=
  host s t c true (fun s => writeReply s c window offset.toNat (trcBytes s) (trcStatus s).toNat)

/-- SAFE_STATE_REQUEST (R577, R591): it completes with the seq of the trigger's record. -/
def execSafeStateRequest (t : Nat) (c : Cmd) (confirm : Bool) (s : State) : Out :=
  host s t c (okSafeState confirm) (fun s => safeTrigger (done s c stOK (nextSeq s).toNat) srcShell)

/-- Whether SAFETY_RESET may release STO (R586). -/
def resetAllowed (s : State) : Bool :=
  let x := s.safety
  (match x.closedSince with | some t => decide (t + 100000000 ≤ now s) | none => false)
  && !x.estopFault && !x.outputFault && !x.shellFault && x.safe.isNone

/-- SAFETY_RESET (R586): the STO outputs first, the brake outputs brake_delay_ms later. -/
def execSafetyReset (t : Nat) (c : Cmd) (s : State) : Out :=
  host s t c true (fun s =>
    if !resetAllowed s then done s c stNO_RESOURCE
    else if !stoAsserted s then done s c stOK
    else done { s with safety := { s.safety with
      stoA := !s.ports.jtag, stoB := !s.ports.jtag, stoRequest := false, stoHeld := false, brakeDelay := .release,
      brakeDelayAt := now s + protBrakeDelay s } } c stOK)

/-! The control processor's heartbeat (R550, R577). -/

/-- CP_HEARTBEAT (R550). -/
def execCpHeartbeat (t : Nat) (s : State) : Out :=
  event s t (fun s => { s with safety := { s.safety with heartbeat := now s } })

/-- HEARTBEAT_TIMEOUT (R577). -/
def execHeartbeatTimeout (t : Nat) (s : State) : Out :=
  event s t (fun s =>
    if mainRuns s && decide (s.safety.heartbeat + protHeartbeat s ≤ now s) then
      safeTrigger (huskFault s srcShell 7 0 2) srcShell
    else s)

/-! The restart window, STO and the brakes (R580–R586). -/

/-- RESTART_WINDOW_EXPIRY (R580): STO follows when a group that held a live channel is still in stop mode. -/
def execRestartWindowExpiry (t : Nat) (s : State) : Out :=
  event s t (fun s => match s.safety.windowFrom with
    | none => s
    | some t0 =>
      if now s < t0 + protRestartWindow s then s
      else
        let s1 := { s with safety := { s.safety with windowFrom := none } }
        if s.servo.groups.any (fun g => g.live && g.inStop) then stoLater s1 .restart t0 else s1)

/-- STO_DEADLINE_EXPIRY (R580, R581, R584, R588): 300 ms have passed since a cause for which STO has not been asserted yet. -/
def execStoDeadlineExpiry (t : Nat) (s : State) : Out :=
  event s t (fun s => if s.safety.stoDue.any (fun d => decide (d.2 + 300000000 ≤ now s)) then assertSto s else s)

/-- BRAKE_DELAY_EXPIRY (R582, R586). -/
def execBrakeDelayExpiry (t : Nat) (s : State) : Out :=
  event s t (fun s =>
    if now s < s.safety.brakeDelayAt then s
    else match s.safety.brakeDelay with
      | .idle => s
      | .sto => stoDown s
      | .release => { s with safety := { s.safety with
          brakeA := !s.ports.jtag, brakeB := !s.ports.jtag, brakeDelay := .idle } })

/-! Held plans and disagreements (R572, R573). -/

/-- HELD_LIMIT_REACHED (R573). -/
def execHeldLimitReached (t group : Nat) (s : State) : Out :=
  event s t (fun s =>
    if (getGroup s group).held.toNat < protHeldLimit s ∨ protHeldLimit s = 0 then s
    else huskFault (enterStop s group) srcShell 0x0D group 0x0B)

/-- DISAGREE_LIMIT_REACHED (R572, R577). -/
def execDisagreeLimitReached (t group : Nat) (s : State) : Out :=
  event s t (fun s =>
    if windowCount (getGroup s group) < protDisagreeK s ∨ protDisagreeK s = 0 then s else safeTrigger s srcTracer)

/-! E-stop (R583, R584). -/

/-- Since when a condition has held, given whether it holds now. -/
def since (t : Nat) (holds : Bool) (from_ : Option Nat) : Option Nat :=
  if holds then some (from_.getD t) else none

/-- ESTOP_SAMPLE (R583): an input that reads high is closed again. -/
def execEstopSample (t : Nat) (a b : Bool) (s : State) : Out :=
  event s t (fun s =>
    let x := s.safety
    let n := now s
    { s with safety := { x with
      lowA := since n (!a) x.lowA, lowB := since n (!b) x.lowB, differ := since n (a != b) x.differ,
      closedSince := since n (a && b) x.closedSince, openA := x.openA && !a, openB := x.openB && !b } })

/-- Whether an input has read low for 1 ms. -/
def lowLong (s : State) (low : Option Nat) : Bool :=
  match low with | some t => decide (t + 1000000 ≤ now s) | none => false

/-- ESTOP_OPEN (R583, R584). -/
def execEstopOpen (t : Nat) (s : State) : Out :=
  event s t (fun s =>
    let x := s.safety
    let s1 := { s with safety := { x with openA := x.openA || lowLong s x.lowA, openB := x.openB || lowLong s x.lowB } }
    if estopActive s || !estopActive s1 then s1
    else if protEstopCategory s = 0 then assertSto s1
    else stoLater (allStop s1) .estop (now s1))

/-- ESTOP_DISCREPANCY_TIMEOUT (R583). -/
def execEstopDiscrepancyTimeout (t : Nat) (s : State) : Out :=
  event s t (fun s => match s.safety.differ with
    | none => s
    | some t0 =>
      if now s ≤ t0 + protEstopDiscrepancy s ∨ s.safety.estopFault then s
      else assertSto (huskFault { s with safety := { s.safety with estopFault := true } } srcShell 0x0B 0 0x0C))

/-! The outputs (R585). -/

/-- STO_TEST_PULSE (R585): an output that is high goes low for 250 µs. -/
def execStoTestPulse (t : Nat) (chanB : Bool) (s : State) : Out :=
  event s t (fun s =>
    let x := s.safety
    if (if chanB then x.stoB || x.brakeB else x.stoA || x.brakeA) then
      { s with safety := { x with pulse := some (chanB, now s) } }
    else s)

/-- OUTPUT_READBACK_FAULT (R585): every STO and brake output goes low at once, and the fault latches. -/
def execOutputReadbackFault (t : Nat) (s : State) : Out :=
  event s t (fun s =>
    if s.safety.outputFault then s
    else huskFault (stoDown { s with safety := { s.safety with outputFault := true } }) srcShell 0x0B 0 0x0C)

/-! Monitors (R550, R577, R581, R735). -/

/-- A fault of the Shell itself: its record, unless the path is latched, and the Shell fault path. -/
def shellFails (s : State) (cause : Nat) : State :=
  if s.safety.shellFault then s else shellFaultPath (huskFault s srcShell 9 0 cause)

/-- SHELL_CLOCK_FAULT (R550, R581). -/
def execShellClockFault (t : Nat) (s : State) : Out := event s t (fun s => shellFails s 0x0D)

/-- SAFETY_PROCESSOR_LOCKSTEP_MISMATCH (R550, R581). -/
def execSafetyProcessorLockstepMismatch (t : Nat) (s : State) : Out := event s t (fun s => shellFails s 0x01)

/-- MAIN_CLOCK_FAULT (R550, R577). -/
def execMainClockFault (t : Nat) (s : State) : Out :=
  event s t (fun s => if mainRuns s then safeTrigger (huskFault s srcShell 7 0 0x0D) srcShell else s)

/-- MAIN_SUPPLY_FAULT (R577, R735): the device is SHELL_ONLY. -/
def execMainSupplyFault (t : Nat) (s : State) : Out := event s t supplyLost

end Sys2Proof.Machine
end

