-- ==== Sys2Proof/Machine/Boot.lean ====
section
/-!
DEFINITION. Machine/Boot.lean: the boot flow from the release of the Shell's reset to fw_ready, the reset of the main domain
and its end, the main supplies, and JTAG (R577–R581, R593–R598, R606, R620–R622, R701, R702, R732–R740).
-/
namespace Sys2Proof.Machine

/-! Steps 1–4 of R597. -/

/-- What a Shell start keeps: the boot flash, the OTP memory, what the MRAM holds, host memory, the pins, and the model's own
fields. A pair that was retired must pass its self-test (R621). -/
def shellReset (s : State) (cause : Nat) : State :=
  let h := s.husk
  { State.reset with
    cmds := { Cmds.reset with generations := s.cmds.generations },
    mem := { Mem.reset with host := s.mem.host },
    servo := { Servo.reset with pairs := s.servo.pairs.map (fun p => { retired := false, testing := p.retired || p.testing }) },
    boot := { Boot.reset with otp := s.boot.otp, flash := s.boot.flash, cause := cause, step := 1 },
    husk := { Husk.blank with mram := h.mram, next := h.next, bootCount := satInc h.bootCount, newest := h.newest,
                              lostBefore := h.lostBefore, failLoss := h.failLoss, mirrorNext := h.mirrorNext },
    ports := { Ports.reset with peer := { Peer.reset with number := s.ports.peer.number } },
    out := s.out, free := s.free, pending := s.pending }

/-- A BOOT record (R611). -/
def huskBoot (s : State) : State :=
  let f := s.boot.flash
  huskRequest s 0x01 srcShell (leBytes 1 (slotCode f.selMain + slotCode s.boot.shellB * 4)
    ++ leBytes 1 (biVersion (bootSlot s 2 s.boot.shellB)) ++ leBytes 1 (biVersion (bootSlot s 3 f.selMain)) ++ [0]
    ++ leBytes 2 (protVersion s) ++ [0, 0] ++ leBytes 1 s.boot.cause ++ [0, 0, 0] ++ leBytes 4 s.husk.failLoss)

def bootStops (s : State) : State := { s with boot := { s.boot with failed := true } }

/-- Step 3 has found the protection set's image: boot code holds it and writes the block from it (R597, R599). -/
def protStarts (s : State) (image : Bytes) : State := writeProt { s with boot := { s.boot with held := image } } image

/-- Step 3 has found the Shell firmware (R597). -/
def shellStarts (s : State) (slot : Bool) : State :=
  huskBoot (raiseFloors { s with boot := { s.boot with shellB := slot, step := 3 } })

/-- Step 3 once the Shell firmware's slot is chosen, if one is (R597). -/
def shellPicked (p : State × Option Bool) : State :=
  match p with
  | (s, none) => bootStops s
  | (s, some slot) => shellStarts s slot

/-- Step 3 once the protection set's slot is chosen, if one is: the Shell firmware follows (R596, R597). -/
def protPicked (p : State × Option Bool) : State :=
  match p with
  | (s, none) => bootStops s
  | (s, some slot) => shellPicked (pickSlot (protStarts s (biPayload (bootSlot s 4 slot))) 2 1 shellOk)

/-- Step 3: the protection set, then the Shell firmware (R596, R597). -/
def bootStage3 (s : State) : State := protPicked (pickSlot s 4 1 (fun s b => imageAccepted s 4 b))

/-- The Shell starts (R597 steps 1–4, R648, R739): SHELL_ONLY, then MAIN_PWR_EN. -/
def shellStart (s : State) (cause : Nat) : State :=
  let s1 := shellReset s cause
  if imageAccepted s1 1 s1.boot.flash.stage0 || imageAccepted s1 1 s1.boot.flash.stage1 then
    let s2 := bootStage3 { s1 with boot := { s1.boot with step := 2 } }
    if s2.boot.failed then s2
    else huskPower (mainPowerOn { s2 with boot := { s2.boot with step := 4 } }) srcShell 0 1 0
  else bootStops s1

/-- SHELL_POWER_UP (R597, R608). -/
def execShellPowerUp (t : Nat) (s : State) : Out := event s t (fun s => shellStart s 0)

/-- SHELL_PORST_N_PULSE (R739). -/
def execShellPorstNPulse (t : Nat) (s : State) : Out := event s t (fun s => shellStart s 2)

/-- I3C_TARGET_RESET (R701): accepted while STO is asserted and every channel is DISABLED or in STOP. -/
def execI3cTargetReset (t : Nat) (s : State) : Out :=
  event s t (fun s =>
    if s.safety.stoHeld && channelsQuiet s then shellStart { s with ports := { s.ports with i3c := none } } 1 else s)

/-! The main supplies (R733–R735). -/

/-- MAIN_SUPPLY_VALID (R733). -/
def execMainSupplyValid (t : Nat) (s : State) : Out :=
  event s t (fun s =>
    if s.power.mainPwrEn then { s with
      power := { s.power with mainValid := true }, hif := { s.hif with shellOnly := false } }
    else s)

/-- MAIN_SUPPLY_UP_TIMEOUT (R733): the device stays in SHELL_ONLY. -/
def execMainSupplyUpTimeout (t : Nat) (s : State) : Out :=
  event s t (fun s =>
    if s.power.mainPwrEn && !s.power.mainValid then
      huskFault { s with power := { s.power with mainPwrEn := false, transition := none, vddMain := 0 } } srcShell 9 0 0x0D
    else s)

/-- POWER_FAIL_DETECT (R614, R735): the POWER record goes ahead of the 15 oldest waiting ones, the Husk takes no further
request, and the Shell takes its fault path and drops MAIN_PWR_EN. -/
def execPowerFailDetect (t : Nat) (s : State) : Out :=
  event s t (fun s =>
    let h := s.husk
    if h.powerFail.isSome then s
    else
      let n := h.queue.length
      let r : HuskReq := { typ := 9, source := srcShell, stamp := now s,
                           payload := leBytes 1 s.power.state ++ [0, 1, 0] ++ leBytes 2 n }
      let s1 := { s with husk := { h with
        queue := r :: h.queue.take 15, powerFail := some (1 + min 15 n), failLoss := n - 15,
        lost := BitVec.ofNat 8 (min 255 (h.lost.toNat + (n - 15))) } }
      let s2 := shellFaultPath (emit s1 (.ibi 0x02))
      if s2.power.mainPwrEn then mainLost s2 true else s2)

/-! Step 6 of R597 and steps 6 and 7 of R578: the boot stage at a main-domain reset. -/

/-- BOOT_LOCK clears, the protection set is re-written from the held image, or from the pending one at a protection reboot, and
BOOT_LOCK is set (R597, R598, R606). -/
def relock (s : State) : State :=
  let pendingProt := match s.boot.reboot with | some r => r.prot | none => false
  let s1 :=
    if pendingProt then
      let b := !s.boot.flash.selProt
      let image := biPayload (bootSlot s 4 b)
      setSelector (writeProt { s with boot := { s.boot with held := image, protLoaded := false } } image) 4 b
    else writeProt s s.boot.held
  { s1 with boot := { s1.boot with lock := true } }

/-- The Shell restarts into the new firmware image, or back into the old one when that fails its start-up checks (R620). -/
def swapShell (s : State) : State :=
  match s.boot.reboot with
  | none => s
  | some r =>
    if !r.shell then s
    else
      let old := s.boot.shellB
      let image := bootSlot s 2 (!old)
      let s1 := { s with boot := { s.boot with shellLoaded := false } }
      if shellOk s1 image && Config.startsUp image then
        huskSwap (setSelector { s1 with boot := { s1.boot with shellB := !old } } 2 (!old)) 1 old (!old) 0 image
      else
        huskSwap { s1 with boot := { s1.boot with reboot := some { r with failed := true } } } 1 (!old) old 1 (bootSlot s 2 old)

/-- The phase sources after a main-domain reset, the encoder inputs' counts with them (R62). -/
def resetSources (s : State) : State :=
  let s1 := { s with ports := { s.ports with encoders := s.ports.encoders.map (fun (e : Encoder) => if e.mode = 1 then { e with count := 0 } else e) } }
  { s1 with phase := { s1.phase with gtc := s1.phase.shadow, sources := s1.phase.sources.map (fun p =>
      let q := resetSource s1 p
      if psType p.cfg = 2 then { q with raw := encoderPosition s1 (psInput p.cfg - 0x10) } else q) } }

/-- The main firmware that boot code takes, if any (R597). -/
def pickMain (s : State) : State × Option Bool := pickSlot s 3 0 (fun s b => imageAccepted s 3 b)

/-- Both main-firmware slots fail: the main domain stays in reset. -/
def mainStays (s : State) : State := huskFault s srcShell 7 0 4

/-! Step 7 of R597: the device boots into ACTIVE_FULL (R647). -/

/-- One entry of the repair table (R622). -/
def applyRepair (s : State) (r : Nat × Nat × Nat) : State :=
  if r.1 = 1 then
    let s1 := { s with field := { s.field with map := s.field.map.map (fun m =>
      if m = SectorSlot.phys r.2.1 then SectorSlot.phys r.2.2 else m) } }
    { s1 with field := { s1.field with sectors := s1.field.sectors.modify r.2.1 (fun x => { x with fenced := true }) } }
  else if r.1 = 2 then
    let e := s.solver.engines.modify r.2.1 (fun x => { x with mode := .failed })
    { s with solver := { s.solver with
      engines := e.modify r.2.2 (fun x => { x with mode := .active }),
      remap := (s.solver.remap.map (fun p => if p.2 = r.2.1 then (p.1, r.2.2) else p)) ++ [(r.2.1, r.2.2)] } }
  else s

/-- The spares that stand by: class and number. -/
def idleSpares (s : State) : List (Nat × Nat) :=
  ((List.range 18).filter (sectorLeft s)).map (fun n => (1, n))
  ++ ((List.range 9).filter (fun n => (getEngine s n).mode == .spare)).map (fun n => (2, n))

/-- The spares run their self-tests, and one that fails is marked failed in the repair table (R622, log
entry 159). -/
def testSpares (s : State) : State :=
  let marked := s.boot.flash.badSpares
  let bad := (idleSpares s).filter (fun u => !marked.contains u && !Config.spareSound u.1 u.2 s.husk.bootCount.toNat)
  let s1 := modFlash s (fun f => { f with badSpares := marked ++ bad })
  { s1 with solver := { s1.solver with engines := (List.range s1.solver.engines.length).map (fun n =>
    let e := getEngine s1 n
    if e.mode == .spare && (marked ++ bad).contains (2, n) then { e with mode := .failed } else e) } }

/-- Every active unit is ON, the device is in its Full profile, and the default Plate runs (R622, R647, R757). -/
def bootUnits (s : State) : State :=
  let s1 := testSpares (s.boot.flash.repair.foldl applyRepair s)
  { s1 with
    plate := { Plate.reset with intervalStart := now s },
    phase := { s1.phase with sources := List.replicate 8 PhaseSource.off },
    power := { s1.power with
      sectors := (List.range 18).map (fun i => if s1.field.map.contains (.phys i) then 2 else 0),
      engines := (List.range 9).map (fun i => if (s1.solver.engines.getD i (Engine.reset .spare)).mode = .active then 2 else 0),
      slices := List.replicate 16 2, banks := List.replicate 8 2, profile := 5 } }

/-- The main firmware that step 6 chose starts (R597): the main GTC takes the shadow GTC's value (R61). -/
def mainStarts (s : State) (slot : Bool) : State :=
  { s with
    boot := { s.boot with step := 7 },
    phase := { s.phase with gtc := s.phase.shadow },
    hif := { s.hif with fwSlotB := slot },
    safety := { s.safety with heartbeat := s.phase.shadow } }

/-- The boot of the main domain once its slot is chosen, if one is (R597). -/
def mainPicked (p : State × Option Bool) : State :=
  match p with
  | (s, none) => mainStays s
  | (s, some slot) => finishRestart (mainStarts (bootUnits (raiseFloors s)) slot)

/-- The boot of the main domain after its supplies became valid. -/
def bootMain (s : State) : State := mainPicked (pickMain (relock s))

/-! Steps 7–9 of R578. -/

/-- Whether a command is an ASYNC_EVENT_REQUEST that stays outstanding (R158): one that its session holds, or that has been fetched
and is yet to be carried out. -/
def waitsForEvent (o : Outstanding) : Bool := entryOpcode o.entry == 0x0002

/-- Every command outstanding at the trigger completes with INTERNAL and result 1 (R158), but for the SHELL_FW_SWAP that the
restart carries out. -/
def failOutstanding (s : State) : State :=
  (s.cmds.outstanding.filter (fun o => !o.done && !waitsForEvent o
    && (match s.boot.reboot with | some r => r.cmd.key != o.cmd.key | none => true))).foldl
    (fun s o => done s o.cmd stINTERNAL 1) s

/-- The main domain's reset is released on its firmware slot (R578). -/
def mainReleased (s : State) (slot : Bool) : State :=
  { s with
    hif := { s.hif with fwSlotB := slot },
    safety := { s.safety with heartbeat := now s, safe := s.safety.safe.map (fun x => { x with released := true }) } }

/-- The restart is over at once, unless a safe state is in progress whose first plan the firmware's plan cycles bring (R579). -/
def restartOver (s : State) : State :=
  if s.safety.safe.isSome && s.loops.any (fun l => !l.actions.isEmpty) then s else finishRestart s

/-- The restart of the main domain once its slot is chosen, if one is (R578). -/
def restartPicked (p : State × Option Bool) : State :=
  match p with
  | (s, none) => mainStays s
  | (s, some slot) => restartOver (mainReleased (failOutstanding (resetSources (raiseFloors s))) slot)

/-- The restart of the main domain (R578). -/
def restartMain (s : State) : State := restartPicked (pickMain (swapShell (relock s)))

/-- MAIN_DOMAIN_RESET_RELEASE (R61, R62, R597, R598, R578): not while the Shell fault path is latched (R581) or JTAG holds the
main domain in reset (R702). -/
def execMainDomainResetRelease (t : Nat) (s : State) : Out :=
  event s t (fun s =>
    let inReset := match s.safety.safe with | some x => !x.released | none => true
    if s.safety.shellFault || s.ports.jtag || !s.power.mainValid || s.hif.fwReady then s
    else if s.power.state = 1 then (if 4 ≤ s.boot.step then bootMain s else s)
    else if inReset then restartMain s
    else s)

/-! JTAG (R702). -/

/-- JTAG_INSTRUCTION_LOAD (R702): any instruction but the three that leave the device alone holds the outputs low and the main
domain in reset. -/
def execJtagInstructionLoad (t : Nat) (instr : BitVec 8) (s : State) : Out :=
  event s t (fun s =>
    if Config.jtagQuiet instr || s.ports.jtag then s
    else
      let s1 := mainDown (discardMain s).2
      { s1 with
        ports := { s1.ports with jtag := true },
        safety := { s1.safety with stoA := false, stoB := false, brakeA := false, brakeB := false, pulse := none } })

/-- JTAG_TRST (R702): the outputs follow the Shell again. -/
def execJtagTrst (t : Nat) (s : State) : Out :=
  event s t (fun s =>
    if !s.ports.jtag then s
    else
      let on := !s.safety.stoHeld
      let brakes := on && s.safety.brakeDelay == .idle
      { s with
        ports := { s.ports with jtag := false },
        safety := { s.safety with stoA := on, stoB := on, brakeA := brakes, brakeB := brakes } })

/-- PERST_RELEASE (R738, R740): the host link comes up. -/
def execPerstRelease (t : Nat) (s : State) : Out :=
  event s t (fun s => if s.hif.shellOnly then s else { s with ports := { s.ports with linkUp := true } })

/-- VHUSK_CHARGED (R617, R737). -/
def execVhuskCharged (t : Nat) (s : State) : Out :=
  event s t (fun s => { s with husk := { s.husk with holdupOk := true } })

/-- SHELL_MEMORY_SCRUB (R550, R611): an uncorrectable error is recorded and takes the Shell fault path. -/
def execShellMemoryScrub (t : Nat) (uncorrectable : Bool) (s : State) : Out :=
  event s t (fun s =>
    if uncorrectable then shellFaultPath (huskRequest s 0x07 srcShell (leBytes 1 6)) else s)

end Sys2Proof.Machine
end

