-- ==== Sys2Proof/Machine/HuskOps.lean ====
section
/-!
DEFINITION. Machine/HuskOps.lean: the Husk's records, its mirror and its registers, and the commands of family 0x0B
(R607–R617, R700).
-/
namespace Sys2Proof.Machine

/-- The 64 bytes of a record (R608, R609). -/
def huskRecord (h : Husk) (r : HuskReq) : Bytes :=
  let body := leBytes 4 h.next.toNat ++ leBytes 4 (r.typ * 2 ^ 24 + 2 ^ 20 + r.source % 2 ^ 20) ++ leBytes 8 r.stamp
    ++ leBytes 4 (h.bootCount.toNat * 2 ^ 16 + h.lostBefore.toNat) ++ slice r.payload 0 36
  body ++ leBytes 4 (~~~h.next).toNat ++ leBytes 4 (crc32c body).toNat

/-- Types whose record raises an in-band interrupt (R700): SAFE_STATE, FAULT, THERMAL_TRIP and POWER. -/
def interrupts (typ : Nat) : Bool := [2, 3, 8, 9].contains typ

/-- HUSK_RECORD_WRITE (R609, R610, R614): the oldest waiting record becomes durable. -/
def execHuskRecordWrite (t : Nat) (s : State) : Out :=
  event s t (fun s =>
    let h := s.husk
    match h.queue with
    | [] => s
    | r :: rest =>
      if h.powerFail = some 0 then s
      else
        let slot := h.next.toNat % 65536
        let mirrored := protMirrorMib s != 0
        let s1 := { s with husk := { h with
          mram := h.mram.filter (fun x => x.1 != slot) ++ [(slot, huskRecord h r)], newest := h.next, next := h.next + 1,
          queue := rest, lostBefore := 0, powerFail := h.powerFail.map (fun n => n - 1),
          mirrorNext := if mirrored then h.mirrorNext else h.next + 1,
          uncopied := if mirrored then h.uncopied ++ [now s] else [] } }
        if interrupts r.typ then emit s1 (.ibi 0x01) else s1)

/-- The valid record with a seq, when the MRAM still holds it (R609). -/
def findRecord (s : State) (seq : Word) : Option Bytes :=
  match s.husk.mram.find? (fun x => x.1 == seq.toNat % 65536) with
  | some x => if wordAt x.2 0 == seq then some x.2 else none
  | none => none

/-- HUSK_MIRROR_COPY (R615): the next durable record goes to its place in the circular region of the boot flash; the records that
became durable since the Shell's start are the last of those that wait. -/
def execHuskMirrorCopy (t : Nat) (s : State) : Out :=
  event s t (fun s =>
    let h := s.husk
    let n := protMirrorMib s * 16384
    if n = 0 ∨ h.powerFail.isSome ∨ h.mirrorNext = h.next then s
    else
      let at_ := h.mirrorNext.toNat % n
      let s1 : State := match findRecord s h.mirrorNext with
        | some b => modFlash s (fun f => { f with mirror := f.mirror.filter (fun (x : Nat × Bytes) => x.1 != at_) ++ [(at_, b)] })
        | none => s
      let waited := decide ((h.next - h.mirrorNext).toNat ≤ h.uncopied.length)
      { s1 with husk := { h with mirrorNext := h.mirrorNext + 1, uncopied := if waited then h.uncopied.drop 1 else h.uncopied } })

/-- HSK_RD_SEQ_WRITE (R616, R699). -/
def execHskRdSeqWrite (t : Nat) (value : Word) (s : State) : Out :=
  event s t (fun s => i3cSelect { s with husk := { s.husk with rdSeq := value } } 1 0x0C)

/-! Registers (R616, R617). -/

/-- mirror_ok: the mirror is enabled, and no record has waited longer than 100 ms. -/
def mirrorOk (s : State) : Bool :=
  protMirrorMib s != 0 && (s.husk.powerFail.isSome || s.husk.uncopied.all (fun w => decide (now s ≤ w + 100000000)))

/-- HSK_STATUS. -/
def hskStatus (s : State) : Word :=
  let h := s.husk
  let bit := fun (b : Bool) (i : Nat) => if b then 2 ^ i else 0
  BitVec.ofNat 32 (min 255 h.queue.length * 2 ^ 24 + h.lost.toNat * 2 ^ 16 + bit (mirrorOk s) 7 + bit h.holdupOk 6
    + bit h.powerFail.isSome 5 + bit s.boot.failed 4)

/-- The 64 bytes that a seq reads as: all ones when the MRAM holds no valid record of it. -/
def huskSeqBytes (s : State) (seq : Word) : Bytes := (findRecord s seq).getD (List.replicate 64 0xFF)

/-- HSK_OLDEST: the seq of the oldest valid record, the one furthest below the next. -/
def hskOldest (s : State) : Word :=
  (s.husk.mram.map (fun x => wordAt x.2 0)).foldl (fun a b =>
    if (s.husk.next - a).toNat < (s.husk.next - b).toNat then b else a) s.husk.newest

/-- The HSK block from 0x00 to 0x7F. -/
def hskBytes (s : State) : Bytes :=
  leBytes 4 (hskStatus s).toNat ++ leBytes 4 s.husk.newest.toNat ++ leBytes 4 (hskOldest s).toNat ++ leBytes 4 s.husk.rdSeq.toNat
    ++ List.replicate 48 0 ++ huskSeqBytes s s.husk.rdSeq

/-! Family 0x0B (R617). -/

/-- HUSK_STATUS. -/
def execHuskStatus (t : Nat) (c : Cmd) (s : State) : Out :=
  host s t c true (fun s => done s c stOK ((hskStatus s).toNat + s.husk.newest.toNat * 2 ^ 32))

/-- HUSK_READ. -/
def execHuskRead (t : Nat) (c : Cmd) (first : Word) (count : BitVec 17) (window : Word) (offset : DWord) (s : State) : Out :=
  host s t c (okHuskRead count) (fun s =>
    writeReply s c window offset.toNat
      ((List.range count.toNat).flatMap (fun i => huskSeqBytes s (first + BitVec.ofNat 32 i))) count.toNat)

/-- The BOOT_PROT_ block as it reads: boot_lock in its place (R599). -/
def protImage (s : State) : Bytes :=
  let b := Memory.read s.boot.prot 0 protBytes
  b.take 3 ++ [if s.boot.lock then byteAt b 3 ||| 0x80 else byteAt b 3] ++ b.drop 4

/-- PROT_READ: PF only. -/
def execProtRead (t : Nat) (c : Cmd) (window : Word) (offset : DWord) (s : State) : Out :=
  host s t c true (fun s =>
    if fnOf s c ≠ 0 then done s c stPROTECTION else writeReply s c window offset.toNat (protImage s) protBytes)

end Sys2Proof.Machine
end

