-- ==== Sys2Proof/Machine/Imprint.lean ====
section
/-!
DEFINITION. Machine/Imprint.lean: the commands of family 0x0D and the hash engine (R637–R645).
-/
namespace Sys2Proof.Machine

/-! Commands (R643). -/

/-- IMPRINT_CONFIG (R637). -/
def execImprintConfig (t : Nat) (c : Cmd) (sq : BitVec 18) (window : Word) (offset : DWord) (entries : BitVec 16) (enable : Bool)
    (s : State) : Out :=
  host s t c (okImprint entries enable) (fun s => match findSq s sq.toNat with
    | none => done s c stBAD_DESCRIPTOR
    | some q =>
      if !ownsObject s c q.session q.fn then done s c stPROTECTION
      else
        let rest := s.imprints.configs.filter (fun x => x.sq != q.id)
        if !enable then done { s with imprints := { s.imprints with configs := rest } } c stOK
        else orFail s c (windowKey s c window offset.toNat (96 * entries.toNat) true) (fun _ =>
          let before := (s.cmds.outstanding.filter (fun o => o.cmd.key.src == .queue sq)).map (fun o => o.cmd.key)
          done { s with imprints := { s.imprints with configs := rest ++
            [{ sq := q.id, session := q.session, window := window.toNat, offset := offset.toNat, entries := entries.toNat,
               next := 0, before := before }] } } c stOK))

/-- WEIGHT_DIGEST (R639, R640): DEFERRED, then the digest's first 8 bytes once the hash engine has it. -/
def execWeightDigest (t : Nat) (c : Cmd) (addr : DWord) (s : State) : Out :=
  host s t c true (fun s => match s.cmds.allocs.find? (fun a => a.addr == addr.toNat) with
    | none => done s c stBAD_DESCRIPTOR
    | some a =>
      let mine := match a.session with | some id => ownsObject s c id a.fn | none => false
      if !mine || a.cls != 1 then done s c stPROTECTION
      else
        let s1 := deferCmd s c
        { s1 with imprints := { s1.imprints with queue := s1.imprints.queue ++ [.weight c a.addr] } })

/-- What IMPRINT_COMPARE finds in two imprints (R644). -/
def compareImprints (a b : Bytes) : Nat :=
  let differs := fun (o n : Nat) => slice a o n != slice b o n
  let bad := fun (x : Bytes) => wordAt x 23 != crc32c (slice x 0 92)
  let bit := fun (v : Bool) (i : Nat) => if v then 2 ^ i else 0
  bit (differs 16 16) 0 + bit (differs 32 16) 1 + bit (differs 48 16) 2 + bit (differs 64 16) 3
    + bit (differs 1 1 || (byteAt a 2 ^^^ byteAt b 2).getLsbD 0) 4 + bit (bad a || bad b) 5 + (crc32c (slice a 0 92)).toNat * 2 ^ 32

/-- IMPRINT_COMPARE (R643, R644). -/
def execImprintCompare (t : Nat) (c : Cmd) (window : Word) (offsetA offsetB : DWord) (s : State) : Out :=
  host s t c true (fun s =>
    orFail s c (readWindow s c window offsetA.toNat 96) (fun a =>
      orFail s c (readWindow s c window offsetB.toNat 96) (fun b => done s c stOK (compareImprints a b))))

/-- The engine and the slot that a state command names (R290, R643). -/
def stateSlot (s : State) (c : Cmd) (engine : BitVec 4) (slot : BitVec 3) : Option (Nat × Slot × Image) :=
  let e := namedEngine s c engine
  let x := getSlot s e slot.toNat
  if !engineServes s e then none
  else match x.active with
    | some i => some (e, x, i)
    | none => none

/-- SOLVE_STATE_READ (R643): the state that the last completed solve left. -/
def execSolveStateRead (t : Nat) (c : Cmd) (engine : BitVec 4) (slot : BitVec 3) (window : Word) (offset : DWord) (s : State) : Out :=
  host s t c (okEngine engine) (fun s => match stateSlot s c engine slot with
    | none => done s c stNO_RESOURCE
    | some (_, x, i) =>
      let n := imPersistent i.bytes
      writeReply s c window offset.toNat
        (leBytes 4 i.version.toNat ++ leBytes 4 n ++ List.replicate 8 0 ++ persistentBytes i.bytes x.items x.persistent x.seeds)
        (16 + n))

/-- Whether an engine is granted to a partition with HARD or SAFETY work (R645). -/
def engineHard (s : State) (e : Nat) : Bool :=
  (List.range 16).any (fun p => peValid (partEntry s p) && partHard s p
    && (List.range 9).any (fun n => peHasEngine (partEntry s p) n && remapped s n == e))

/-- The slot with a state block's contents. -/
def Slot.restore (x : Slot) (image b : Bytes) : Slot :=
  { x with
    items := x.items.map (fun i => { i with vals := (List.range i.vals.length).map (Config.stateItem image b i.id) }),
    persistent := Config.statePersistent image b, seeds := Config.stateSeeds image b }

/-- A slot takes a state: a solve of it that runs now leaves that state as it is (R645, log entry 156). -/
def writeState (s : State) (e slot : Nat) (image b : Bytes) : State :=
  modEngine (modSlot s e slot (fun y => y.restore image b)) e (fun x => { x with
    run := x.run.map (fun r => if r.job.slot = slot then { r with rewritten := true } else r) })

/-- SOLVE_STATE_WRITE (R643, R645): the version is compared before the rest of the block is read. -/
def execSolveStateWrite (t : Nat) (c : Cmd) (engine : BitVec 4) (slot : BitVec 3) (window : Word) (offset : DWord) (s : State) : Out :=
  host s t c (okEngine engine) (fun s => match stateSlot s c engine slot with
    | none => done s c stNO_RESOURCE
    | some (e, _, i) =>
      if engineHard s e then done s c stPROTECTION
      else orFail s c (readWindow s c window offset.toNat 16) (fun h =>
        if fld (wordAt h 0) 31 16 ≠ 0 ∨ wordAt h 2 ≠ 0 ∨ wordAt h 3 ≠ 0 then done s c stBAD_DESCRIPTOR
        else if fld (wordAt h 0) 15 0 ≠ i.version.toNat then done s c stSTRUCT_MISMATCH
        else if (wordAt h 1).toNat ≠ imPersistent i.bytes then done s c stBAD_DESCRIPTOR
        else orFail s c (readWindow s c window offset.toNat (16 + imPersistent i.bytes)) (fun b =>
          done (writeState s e slot.toNat i.bytes (b.drop 16)) c stOK)))

/-! The hash engine (R638–R642). -/

/-- Its time, at 40 bytes a ns, is charged to the session that asked (R532, R642). -/
def chargeHash (s : State) (session : Word) (bytes : Nat) : State :=
  charge s (some session) (fun n => { n with hashNs := min (n.hashNs + (bytes + 39) / 40) (2 ^ 64 - 1) })

/-- Write an imprint to its slot of the queue's ring (R634, R637), when the ring's window still takes it. -/
def writeImprint (s : State) (x : ImprintJob) : State :=
  match s.imprints.configs.find? (fun c => c.sq == x.sq) with
  | none => s
  | some c =>
    let tag := x.tag.getD c.next
    let body := x.body ++ leBytes 4 tag.toNat
    let b := body ++ leBytes 4 (crc32c body).toNat
    let count := fun (y : ImprintConfig) => if y.sq == x.sq && x.tag.isNone then { y with next := y.next + 1 } else y
    let s1 : State := { s with imprints := { s.imprints with configs := s.imprints.configs.map count } }
    match s1.cmds.windows.find? (fun w => w.id == c.window && w.session == c.session) with
    | none => s1
    | some w =>
      let o := c.offset + tag.toNat % max 1 c.entries * 96
      let k := if w.host then hostKey w.fn (w.base + o) else w.base + o
      match accessStatus s1 k 96 true with
      | some _ => s1
      | none => putKey s1 k b

/-- A WEIGHT_DIGEST ends (R639, R640). -/
def endWeight (s : State) (c : Cmd) (addr : Nat) : State :=
  match s.cmds.allocs.find? (fun a => a.addr == addr) with
  | none => done s c stBAD_DESCRIPTOR
  | some a =>
    match accessStatus s a.addr a.bytes false with
    | some st => done s c st
    | none =>
      let d := digest [s.mem.dev.read a.addr a.bytes]
      let s1 := chargeHash s (a.session.getD 0) a.bytes
      let l := s1.imprints.weights.filter (fun w => w.addr != addr)
      done { s1 with imprints := { s1.imprints with weights := l ++ [{ addr := addr, digest := d }] } } c stOK (numAt d 0 8)

/-- HASH_ENGINE_COMPLETE (R638–R642): the oldest request is done. Where it is an imprint, IMPRINT_WRITE ends it. -/
def execHashEngineComplete (t : Nat) (s : State) : Out :=
  event s t (fun s => match s.imprints.queue with
    | .inputs session _ n :: rest => chargeHash { s with imprints := { s.imprints with queue := rest } } session n
    | .weight c a :: rest => endWeight { s with imprints := { s.imprints with queue := rest } } c a
    | _ => s)

/-- IMPRINT_WRITE (R638, R641): the imprint at the head of the hash engine's queue is written, and the completion that waited
for it may be posted. -/
def execImprintWrite (t : Nat) (s : State) : Out :=
  event s t (fun s => match s.imprints.queue with
    | .imprint x session n :: rest =>
      let s1 := chargeHash (writeImprint { s with imprints := { s.imprints with queue := rest } } x) session n
      match x.held with
      | some y => enqueue s1 y.sq y
      | none => s1
    | _ => s)

end Sys2Proof.Machine
end

