-- ==== Sys2Proof/Machine/Ingress.lean ====
section
/-!
DEFINITION. Machine/Ingress.lean: the ingress streams: their descriptors, the ingress seal and its checks, reassembly, the
rings, the copies that the Tracer uses, and the clocks and gates of the MACs (R562, R566–R569, R682–R690, R750).
-/
namespace Sys2Proof.Machine

def modStream (s : State) (n : Nat) (f : Stream → Stream) : State :=
  { s with ports := { s.ports with streams := s.ports.streams.modify n f } }

/-! Stream descriptors (R676, R682). -/

def sdPort (d : List Word) : Nat := fld (wat d 0) 19 16
def sdVc (d : List Word) : Nat := fld (wat d 0) 15 12
def sdType (d : List Word) : Nat := fld (wat d 0) 11 6
def sdUdp (d : List Word) : Nat := fld (wat d 1) 31 16
/-- max_latency_us in GTC ticks. -/
def sdLatency (d : List Word) : Nat := (wat d 2).toNat * 1000
def sdBytes (d : List Word) : Nat := (wat d 3).toNat
def sdRing (d : List Word) : Nat := dat d 4
def sdSlots (d : List Word) : Nat := fld (wat d 6) 15 0
/-- The size of a ring slot (R683). -/
def sdSlotBytes (d : List Word) : Nat := 64 + alignUp (sdBytes d) 64

/-- The image data types of CSI-2 that the device supports (R676). -/
def csiImageType (n : Nat) : Bool :=
  n == 0x1E || n == 0x24 || (decide (0x2A ≤ n) && decide (n ≤ 0x2E)) || (decide (0x30 ≤ n) && decide (n ≤ 0x37))

/-- The layout and ranges of a descriptor (R682); a descriptor of kind 0 needs no more than its format and its reserved
fields. -/
def streamOk (d : List Word) : Bool :=
  fld (wat d 0) 31 24 == 1 && fld (wat d 0) 4 0 == 0 && fld (wat d 1) 15 0 == 0 && fld (wat d 6) 31 16 == 0
  && (match sdKind d with
      | 0 => true
      | 1 => decide (sdPort d ≤ 7) && csiImageType (sdType d) && sdUdp d == 0 && wat d 7 == 0
      | 2 => decide (sdPort d ≤ 3) && sdVc d == 0 && sdType d == 0
      | _ => false)
  && (sdKind d == 0 || (decide (1 ≤ (wat d 2).toNat) && decide ((wat d 2).toNat ≤ 1000000) && decide (64 ≤ sdBytes d)
      && decide (sdBytes d ≤ 16777215) && decide (2 ≤ sdSlots d) && decide (lpddrBase ≤ sdRing d)))

/-- INGRESS_CONFIG (R682, R721): kind or port change only through kind 0. -/
def execIngressConfig (t : Nat) (c : Cmd) (stream : BitVec 6) (window : Word) (offset : DWord) (s : State) : Out :=
  host s t c true (fun s => orFail s c (readWindow s c window offset.toNat 32) (fun b =>
    let d := toWords 8 b
    let old := (getStream s stream.toNat).desc
    if !streamOk d then done s c stBAD_DESCRIPTOR
    else if sdKind old ≠ 0 ∧ sdKind d ≠ 0 ∧ (sdKind d ≠ sdKind old ∨ sdPort d ≠ sdPort old) then done s c stPROTECTION
    else if sdKind d ≠ 0 ∧ !inEnvelope s (sessionOf s c) (sdRing d) (sdSlots d * sdSlotBytes d) then done s c stPROTECTION
    else done (modStream s stream.toNat (fun x => { x with
      desc := d, number := 0, counter := none, assembly := none, newest := [] })) c stOK))

/-! The seal (R566–R568). -/

def slId (b : Bytes) : Nat := fld (wordAt b 0) 5 0
def slPhaseForm (b : Bytes) : Bool := wbit (wordAt b 0) 23
def slSource (b : Bytes) : Nat := fld (wordAt b 0) 22 20
def slCounter (b : Bytes) : Word := wordAt b 1
def slCapture (b : Bytes) : Nat := dwordAt b 2
def slLength (b : Bytes) : Nat := fld (wordAt b 4) 23 0

/-- Checks 1 and 2 of R568 on a frame of stream `n`. -/
def sealIntact (n : Nat) (b payload : Bytes) : Bool :=
  b.length == 32 && (crc16 (b.take 28)).toNat == fld (wordAt b 7) 15 0 && fld (wordAt b 0) 31 24 == 1 && slId b == n
  && slLength b == payload.length && crc32c payload == wordAt b 5

/-- The GTC of a capture (R567); none on a source with count_valid 0. -/
def captureTime (s : State) (b : Bytes) : Option Int :=
  if !slPhaseForm b then some (slCapture b)
  else
    let p := getPs s (slSource b)
    if !p.countValid then none
    else
      let q := psCalibrate p.cfg p.raw.toNat
      some ((p.stamp : Int) + -(toSigned 64 ((q + 2 ^ 64 - slCapture b) % 2 ^ 64) * psPeriod p) / 65536)

/-- The keep-out objects of a payload, when it keeps the layout (R562). -/
def keepouts (b : Bytes) : Option (List Keepout) :=
  let n := (wordAt b 0).toNat
  if 256 < n ∨ b.length ≠ 16 + 16 * n ∨ wordAt b 1 ≠ 0 ∨ wordAt b 2 ≠ 0 ∨ wordAt b 3 ≠ 0 then none
  else
    let object := fun (i : Nat) =>
      let w := fun (k : Nat) => wordAt b (4 + 4 * i + k)
      ({ x := (w 0).toInt, y := (w 1).toInt, z := (w 2).toInt, r := (w 3).toNat } : Keepout)
    some ((List.range n).map object)

/-- Whether a limit set in force names a stream (R569, R687). -/
def namedStream (s : State) (n : Nat) : Bool :=
  s.safety.limits.any (fun l => match l with
    | some b => (List.range (lsStreams b)).any (fun i => fld (wordAt (lsStream b i) 0) 5 0 == n)
    | none => false)

/-- An outcome of R568 (R569, R589, R720): 1 CORRUPT, 2 STALE, 3 FRAME_LOSS. On a named stream it counts in TRC_E2E, and at
most every 100 ms it is recorded with the outcomes since the last record. -/
def streamOutcome (s : State) (n cause : Nat) : State :=
  let s1 := modStream s n (fun x => match cause with
    | 1 => { x with corrupt := satInc x.corrupt }
    | 2 => { x with stale := satInc x.stale }
    | _ => { x with loss := satInc x.loss })
  if !namedStream s1 n then s1
  else
    let s2 := { s1 with safety := (if cause = 3 then { s1.safety with e2eLoss := satInc s1.safety.e2eLoss }
                                   else { s1.safety with e2eBad := satInc s1.safety.e2eBad }) }
    let x := getStream s2 n
    match x.recorded with
    | some g =>
      if now s2 < g + 100000000 then modStream s2 n (fun x => { x with outcomes := x.outcomes + 1 })
      else huskRequest (modStream s2 n (fun x => { x with recorded := some (now s2), outcomes := 0 })) 0x0E (srcStream n)
        (leBytes 1 n ++ leBytes 1 cause ++ leBytes 2 0 ++ leBytes 4 (x.outcomes + 1))
    | none => huskRequest (modStream s2 n (fun x => { x with recorded := some (now s2), outcomes := 0 })) 0x0E (srcStream n)
        (leBytes 1 n ++ leBytes 1 cause ++ leBytes 2 0 ++ leBytes 4 (x.outcomes + 1))

/-- A frame goes to its slot of the ring, its header after its payload (R683). -/
def storeFrame (s : State) (n : Nat) (header payload : Bytes) (outcome : Nat) : State :=
  let x := getStream s n
  let a := sdRing x.desc + x.number % max 1 (sdSlots x.desc) * sdSlotBytes x.desc
  let h := header ++ leBytes 8 (now s) ++ leBytes 4 payload.length ++ leBytes 4 outcome ++ leBytes 8 x.number ++ leBytes 8 0
  let s1 := portWrite (portWrite s (srcStream n) (a + 64) payload) (srcStream n) a h
  modStream s1 n (fun x => { x with number := x.number + 1 })

/-- The Shell's copy of a frame of a named stream: a payload that breaks the layout is CORRUPT (R562, R687). -/
def copyFrame (s : State) (n : Nat) (payload : Bytes) (capture : Int) : State :=
  if !namedStream s n then s
  else match keepouts payload with
    | none => streamOutcome s n 1
    | some l =>
      let f : SealFrame := { objects := l, capture := capture, arrival := now s }
      modStream s n (fun x => { x with newest := f :: (x.newest.filter (fun g => decide (g.arrival < now s))).take 1 })

/-- Checks 3 and 4 of R568 on an intact frame, and what becomes of it: nothing is left of a discarded frame but its outcome. -/
def takeSealed (s : State) (n : Nat) (b payload : Bytes) : State :=
  let x := getStream s n
  let g := match x.counter with | none => 1 | some k => (slCounter b - k).toNat
  if g = 0 ∨ 2 ^ 31 < g then streamOutcome s n 1
  else
    let s1 := if 2 ≤ g then streamOutcome s n 3 else s
    match captureTime s1 b with
    | none => streamOutcome s1 n 2
    | some cap =>
      let a := (now s1 : Int) - cap
      if a < -2000 ∨ (sdLatency x.desc : Int) < a then streamOutcome s1 n 2
      else
        let s2 := modStream s1 n (fun x => { x with counter := some (slCounter b) })
        copyFrame (storeFrame s2 n b payload (if 2 ≤ g then 3 else 0)) n payload cap

/-- A whole frame of stream `n` has arrived (R568, R683, R687, R688); `lead` holds the bytes where its seal stands, none where
the frame has no place for one (R684). -/
def takeFrame (s : State) (n : Nat) (lead : Option Bytes) (payload : Bytes) : State :=
  let d := (getStream s n).desc
  let s1 := modStream s n (fun x => { x with frames := satInc x.frames })
  if !sdSealed d then
    (if sdBytes d < payload.length then streamOutcome s1 n 1 else storeFrame s1 n (List.replicate 32 0) payload 0)
  else match lead with
    | none => streamOutcome s1 n 1
    | some b =>
      if !sealIntact n b payload || decide (sdBytes d < payload.length)
          || (namedStream s1 n && decide (4112 < payload.length)) then streamOutcome s1 n 1
      else takeSealed s1 n b payload

/-! CSI-2 (R684). -/

/-- CSI2_FRAME_END (R684): the frame of every stream on the virtual channel. -/
def execCsi2FrameEnd (t : Nat) (port vc : Nat) (packets : List (Nat × Bytes)) (s : State) : Out :=
  event s t (fun s =>
    if !mainRuns s then s
    else (List.range 64).foldl (fun s n =>
      let d := (getStream s n).desc
      if sdKind d ≠ 1 ∨ sdPort d ≠ port ∨ sdVc d ≠ vc then s
      else
        let lead := (packets.find? (fun p => p.1 == 0x12)).map (fun p => p.2.take 32)
        takeFrame s n lead ((packets.filter (fun p => p.1 == sdType d)).flatMap (·.2))) s)

/-! Ethernet (R685, R686). -/

/-- A frame that reassembly gives up is CORRUPT; the rest of it is dropped until the next fragment 0 (R686). -/
def breakFrame (s : State) (n low : Nat) : State :=
  streamOutcome (modStream s n (fun x => { x with frames := satInc x.frames, assembly := some ⟨low, 0, 0, []⟩ })) n 1

/-- The last fragment of a frame has arrived. -/
def endFrame (s : State) (n : Nat) (data : Bytes) : State :=
  let s1 := modStream s n (fun x => { x with assembly := none })
  if sdSealed (getStream s n).desc then
    takeFrame s1 n (if data.length < 32 then none else some (data.take 32)) (data.drop 32)
  else takeFrame s1 n none data

/-- Fragment 0 starts a frame. -/
def beginFrame (s : State) (n low : Nat) (last : Bool) (data : Bytes) : State :=
  if last then endFrame s n data
  else modStream s n (fun x => { x with assembly := some ⟨low, 1, now s, data⟩ })

/-- A fragment of stream `n` (R686). -/
def takeFragment (s : State) (n low index : Nat) (last : Bool) (data : Bytes) : State :=
  match (getStream s n).assembly with
  | none => if index = 0 then beginFrame s n low last data else breakFrame s n low
  | some a =>
    if a.next = 0 then
      (if index = 0 then beginFrame s n low last data else if a.low = low then s else breakFrame s n low)
    else if index = 0 then beginFrame (breakFrame s n low) n low last data
    else if index ≠ a.next ∨ low ≠ a.low then breakFrame s n low
    else if !last then modStream s n (fun x => { x with assembly := some { a with next := a.next + 1, data := a.data ++ data } })
    else if a.first + sdLatency (getStream s n).desc < now s then breakFrame s n low
    else endFrame s n (a.data ++ data)

/-- ETH_FRAGMENT (R685, R686): a fragment of no stream of this MAC and port, or of another version, is none of the ingress
unit's. -/
def execEthFragment (t : Nat) (mac : Nat) (udp : BitVec 16) (data : Bytes) (s : State) : Out :=
  event s t (fun s =>
    let n := fld (wordAt data 0) 23 18
    let d := (getStream s n).desc
    if !mainRuns s || decide (data.length < 16) || fld (wordAt data 0) 31 24 != 1 || sdKind d != 2 || sdPort d != mac
        || sdUdp d != udp.toNat then s
    else takeFragment s n (fld (wordAt data 1) 31 16) (fld (wordAt data 0) 15 0) (wbit (wordAt data 1) 15) (data.drop 16))

/-! The MACs (R35, R689, R690, R750). -/

def modMac (s : State) (m : Nat) (f : Mac → Mac) : State :=
  { s with ports := { s.ports with macs := s.ports.macs.modify m f } }

/-- GPTP_MESSAGE_RX (R35, R62, R690): the MAC's 802.1AS time at this tick. A GPTP source whose count was not valid takes its
count from it once the MAC is synchronised. -/
def execGptpMessageRx (t : Nat) (mac : Nat) (time : Nat) (synced : Bool) (s : State) : Out :=
  event s t (fun s =>
    let s1 := modMac s mac (fun m => { m with time := time, at_ := now s, synced := synced })
    if synced then modSourcesOn s1 (0x30 + mac) [5] (fun p =>
      if p.countValid then p else { p with raw := gptpRaw s1 p.cfg, countValid := true })
    else s1)

/-- cycle_ns and the entry count of a gate control list (R689). -/
def gateCycle (b : Bytes) : Nat := (wordAt b 2).toNat
def gateCount (b : Bytes) : Nat := (wordAt b 3).toNat
/-- The interval of entry `i`. -/
def gateInterval (b : Bytes) (i : Nat) : Nat := (wordAt b (5 + 2 * i)).toNat

/-- GATE_CONTROL_INTERVAL_END (R689, R750): the next entry's gates take effect; the last entry holds until the cycle ends, and
a longer list is cut there. -/
def execGateControlIntervalEnd (t : Nat) (mac : Nat) (s : State) : Out :=
  event s t (fun s => modMac s mac (fun m =>
    if m.gates.isEmpty then m
    else
      let e := m.elapsed + gateInterval m.gates m.entry
      if m.entry + 1 < gateCount m.gates ∧ e < gateCycle m.gates then { m with entry := m.entry + 1, elapsed := e }
      else { m with entry := 0, elapsed := 0 }))

end Sys2Proof.Machine
end

