-- ==== Sys2Proof/Machine/Servo.lean ====
section
/-!
DEFINITION. Machine/Servo.lean: the commands of family 0x05 but SERVO_GAINS_BASIC, and the events of the motion network,
the channels and the pairs (R294–R332, R691–R696).
-/
namespace Sys2Proof.Machine

/-! Commands (R331). -/

/-- The ranges of SERVO_NET_CONFIG (R295, R300, R328). -/
def netRangesOk (tCyc txShift rxBound missLimit : Nat) : Bool :=
  inRange 31250 4000000 tCyc && decide (2000 ≤ txShift) && decide (txShift + 2000 ≤ rxBound)
  && decide (rxBound + 2000 ≤ tCyc) && inRange 1 8 missLimit

/-- SERVO_NET_CONFIG (R295, R300, R331). -/
def execServoNetConfig (t : Nat) (c : Cmd) (tCyc txShift rxBound : Word) (missLimit : BitVec 4) (s : State) : Out :=
  host s t c (netRangesOk tCyc.toNat txShift.toNat rxBound.toNat missLimit.toNat) (fun s =>
    netCommand s { cmd := c, tCyc := tCyc.toNat, txShift := txShift.toNat, rxBound := rxBound.toNat,
                   missLimit := missLimit.toNat, left := [], off := true })

/-- SERVO_CHANNEL_CONFIG (R315, R316, R325, R331): both blocks are read when the command runs. -/
def execServoChannelConfig (t : Nat) (c : Cmd) (channel : BitVec 7) (pair : BitVec 2) (cfgWindow : Word) (cfgOffset : DWord)
    (blkWindow : Word) (blkOffset : DWord) (s : State) : Out :=
  host s t c (okChannel channel) (fun s =>
    match readWindow s c cfgWindow cfgOffset.toNat 64 with
    | .error st => done s c st
    | .ok a => match readWindow s c blkWindow blkOffset.toNat 128 with
      | .error st => done s c st
      | .ok b => channelCommand s channel.toNat (.config c (toWords 16 a) (toWords 32 b) pair.toNat))

/-- SERVO_ENABLE (R318, R331). -/
def execServoEnable (t : Nat) (c : Cmd) (channel : BitVec 7) (s : State) : Out :=
  host s t c (okChannel channel) (fun s => channelCommand s channel.toNat (.enable c))

/-- SERVO_DISABLE (R318, R331, R332). -/
def execServoDisable (t : Nat) (c : Cmd) (channel : BitVec 7) (s : State) : Out :=
  host s t c (okChannel channel) (fun s => channelCommand s channel.toNat (.disable c))

/-- SERVO_CLEAR_FAULT (R323, R331). -/
def execServoClearFault (t : Nat) (c : Cmd) (channel : BitVec 7) (s : State) : Out :=
  host s t c (okChannel channel) (fun s => channelCommand s channel.toNat (.clear c))

/-- SERVO_STATUS (R331). -/
def execServoStatus (t : Nat) (c : Cmd) (channel : BitVec 7) (s : State) : Out :=
  host s t c (okChannel channel) (fun s => channelCommand s channel.toNat (.status c))

/-! The motion cycle (R298). -/

/-- At SYNC0 a serial encoder input sends its request, or counts towards it (R706). -/
def encoderSync (s : State) (n : Nat) : State :=
  let e := getEncoder s n
  if e.mode ≠ 2 then s
  else if e.syncs + 1 < 2 ^ e.triggerLog2.toNat then modEncoder s n (fun e => { e with syncs := e.syncs + 1 })
  else emit (modEncoder s n (fun e => { e with syncs := 0, request := some (now s) })) (.encoder n 0xA1)

/-- MOTION_CYCLE_SYNC0 (R298, R33, R706): the count advances, which is an edge of every MOTION_CYCLE source. -/
def execMotionCycleSync0 (t : Nat) (s : State) : Out :=
  event s t (fun s =>
    if s.servo.net.tCyc = 0 then s
    else
      let s1 := modNet s (fun n => { n with count := (n.count + 1) % 2 ^ 48, sync0 := now s, sent := false, returned := false })
      let s2 := { s1 with servo := { s1.servo with snaps := [] } }
      let raw : BitVec 64 := BitVec.ofNat 64 (s2.servo.net.count * 65536)
      (List.range 16).foldl encoderSync (modSourcesOn s2 0x40 [4] (edge (now s2) raw)))

/-- MNET_FRAME_TRANSMIT (R298): the frame carries the outputs evaluated up to the last cycle. -/
def execMnetFrameTransmit (t : Nat) (s : State) : Out :=
  event s t (fun s =>
    let n := s.servo.net
    if n.tCyc = 0 ∨ !s.ports.mnet.running ∨ n.sent ∨ n.returned then s
    else emit (modNet s (fun n => { n with sent := true, sentImage := n.outImage })) (.frame n.outImage))

/-- A channel takes its feedback from the returned frame (R326). -/
def takeFeedback (img : Bytes) (c : Channel) : Channel :=
  if !configured c then c
  else
    let raw : Word := BitVec.ofNat 32 (numAt img (cfgPosOffset c.cfg) 4)
    let scale : Int := (2 ^ (16 - cfgFbFrac c.cfg) : Nat)
    match c.rawLast with
    | none => { c with rawLast := some raw, y := satSigned 64 (raw.toInt * scale + cfgFbOffset c.cfg) }
    | some p => { c with rawLast := some raw, y := satSigned 64 (c.y + (raw - p).toInt * scale) }

/-- Count a missing cycle, a break or the like of a line (R720). -/
def countLine (l : List (BitVec 32)) (line : Nat) : List (BitVec 32) := l.modify line satInc

/-- MNET_FRAME_RETURN (R298, R326, R328, R694): a frame whose check sequence or working counter is wrong is missing. -/
def execMnetFrameReturn (t : Nat) (input : Bytes) (workingCounter : BitVec 16) (lineBreak badFcs : Bool) (s : State) : Out :=
  event s t (fun s =>
    let n := s.servo.net
    if !n.sent || n.returned then s
    else
      let s1 := if lineBreak then
          { s with ports := { s.ports with mnet := { s.ports.mnet with breaks := countLine s.ports.mnet.breaks 0 } } }
        else s
      if badFcs || workingCounter != Config.workingCounter s.ports.mnet.image then s1
      else
        let img := slice input 0 4096
        mapChannels (modNet s1 (fun n => { n with returned := true, inImage := img, missing := 0, missHandled := false }))
          (fun _ c => takeFeedback img c))

/-- MNET_RX_BOUND_EXPIRY (R328, R720): a cycle whose frame has not returned is missing. -/
def execMnetRxBoundExpiry (t : Nat) (s : State) : Out :=
  event s t (fun s =>
    let n := s.servo.net
    if !n.sent || n.returned then s
    else
      let l := countLine s.ports.mnet.missing 0
      let s1 := modNet s (fun n => { n with missing := n.missing + 1, sent := false })
      { s1 with ports := { s1.ports with mnet := { s1.ports.mnet with
        missing := if mnMode s.ports.mnet.image = 2 then countLine l 1 else l } } })

/-- MISS_LIMIT_REACHED (R328): every channel that is not DISABLED enters STOP. -/
def execMissLimitReached (t : Nat) (s : State) : Out :=
  event s t (fun s =>
    let n := s.servo.net
    if n.missLimit = 0 ∨ n.missing < n.missLimit ∨ n.missHandled then s
    else
      let s1 := mapChannels (modNet s (fun n => { n with missHandled := true })) (fun _ c => stopChannel c)
      huskRequest s1 0x0E srcShell (leBytes 1 0 ++ leBytes 1 5 ++ leBytes 2 0 ++ leBytes 4 n.missing))

/-! Samples (R299–R327). -/

/-- What a channel's sample reads at its read instant (R299, R304, R324). -/
def sampleInput (s : State) (n : Nat) (c : Channel) : SampleIn :=
  let g := match chanGroup s n with | some g => getGroup s g | none => Group.reset
  let ps := cfgXcheckPs c.cfg
  let source := getPs s ps
  { count := s.servo.net.count, tCyc := s.servo.net.tCyc, status := statusWord s c.cfg, inStop := g.inStop,
    plan := g.plan.map (·.plan), traj := s.servo.stopTraj,
    xpos := if cfgXcheckEn c.cfg && source.countValid && !source.stalled && mainRuns s then
        some (toSigned 64 (phaseAt s ps)) else none,
    channel := n }

/-- Whether a channel has still to sample in this cycle: its pair computes it, this cycle's frame has returned, and it has not yet
sampled at this count (R295, R328, R330). -/
def samplesNow (s : State) (c : Channel) : Bool :=
  let n := s.servo.net
  configured c && n.returned && !(getPair s c.pair).retired && samplesAt c.cfg n.count && c.lastCount != some n.count

/-- Whether it is a channel's turn: a pair evaluates its channels in ascending number (R298). -/
def sampleTurn (s : State) (n : Nat) : Bool :=
  samplesNow s (getChannel s n) &&
  (List.range n).all (fun i => !((getChannel s i).pair == (getChannel s n).pair && samplesNow s (getChannel s i)))

/-- The etches keyed to a count of the motion-cycle source, fraction 0, that has come, have committed before a sample (R30, R299). -/
def commitCycle (s : State) : State :=
  commitDue s (fun e => let v := e.hdr.commitPoint
    !pvIsGtc v && psType (matchSource s (pvSource v)).cfg == 4 && pvPhase v % 65536 == 0)

/-- SERVO_SAMPLE (R30, R299, R303, R313, R317, R327, R331), with which a stop may have come to rest (R580, R584). -/
def execServoSample (t channel : Nat) (s : State) : Out :=
  event s t (fun s0 =>
    if !sampleTurn s0 channel then s0
    else
      let s := commitCycle s0
      let s1 := modChannel (performFault s channel) channel (fun c => { entryActions (takeBlock c) with outside := none })
      let s2 := flushReqs s1 channel
      let c := getChannel s2 channel
      let r := sampleChannel (sampleInput s2 channel c) c
      let s3 := modChannel s2 channel (fun _ => if r.driveFault then { r.chan with faultDue := none } else r.chan)
      let s4 := modNet { s3 with servo := { s3.servo with snaps := s3.servo.snaps ++ [(channel, c)] } } (fun n => { n with
        outImage := writeOutputs c.cfg r.drive r.tffOut r.enable n.outImage })
      stoAtRest (if r.driveFault then channelFault s4 channel 6 true r.err
        else if r.holdStop then channelFault s4 channel 5 true r.err
        else s4))

/-- The fault that a channel's last sample declared, when it is of this kind. -/
def faultEvent (t channel : Nat) (kind : ChanFault) (s : State) : Out :=
  event s t (fun s => if (getChannel s channel).faultDue = some kind then performFault s channel else s)

/-- FOLLOWING_ERROR_FAULT (R319, R322). -/
def execFollowingErrorFault (t channel : Nat) (s : State) : Out := faultEvent t channel .following s

/-- ENABLING_TIMEOUT (R321, R322). -/
def execEnablingTimeout (t channel : Nat) (s : State) : Out := faultEvent t channel .enabling s

/-- XCHECK_FAULT (R322, R324). -/
def execXcheckFault (t channel : Nat) (s : State) : Out := faultEvent t channel .xcheck s

/-! Pairs (R329, R330, R621). -/

/-- A channel whose sample of this cycle is discarded: the state of its read instant, with what has reached it since from outside its
sample (R330). -/
def discardSample (count : Nat) (snap : Option Channel) (c : Channel) : Channel :=
  match snap with
  | none => { c with lastCount := some count }
  | some x =>
    { x with
      lastCount := some count, nextBlock := c.nextBlock, reqs := c.reqs, planEnd := x.planEnd && c.planEnd,
      st := c.outside.getD x.st, entryDue := c.outside.isSome || x.entryDue, outside := c.outside,
      stopping := if c.stopping == .due || c.stopping == .off then c.stopping else x.stopping }

/-- The channels of a pair keep the outputs and states of the start of the cycle (R330). -/
def discardPair (s : State) (p : Nat) : State :=
  (pairChannels s p).foldl (fun s n =>
    let snap := (s.servo.snaps.find? (fun x => x.1 == n)).map (·.2)
    let s1 := modChannel s n (discardSample s.servo.net.count snap)
    let cfg := (getChannel s n).cfg
    modNet s1 (fun x => if snap.isSome then { x with outImage := copyFields cfg x.sentImage x.outImage } else x)) s

/-- A drain of a pair ends (R169, R621). -/
def endPairDrain (s : State) (st : Status) : State :=
  match s.servo.drain with
  | none => s
  | some d =>
    nextDrains (finishDrain { s with servo := { s.servo with drain := none } } d st)

/-- PAIR_LOCKSTEP_MISMATCH (R330). -/
def execPairLockstepMismatch (t pair : Nat) (s : State) : Out :=
  event s t (fun s =>
    if (getPair s pair).retired then s
    else
      let s1 := modPair (discardPair (huskFault s (srcPair pair) 3 pair 1) pair) pair (fun x => { x with retired := true })
      let l := pairChannels s1 pair
      let mine := match s1.servo.drain with | some d => d.pair == pair | none => false
      match moveAll s1 pair with
      | some s2 =>
        if mine then endPairDrain { s2 with servo := { s2.servo with drain := s2.servo.drain.map (fun d =>
          { d with moved := d.moved + l.length }) } } stOK else s2
      | none =>
        let s2 := l.foldl orphan s1
        if mine then endPairDrain s2 stNO_RESOURCE else s2)

/-- CHANNEL_MOVE (R329): the next channel of the pair that is being drained moves, and the last ends the drain; with no pair left
that has room for it the drain ends with NO_RESOURCE (R169). -/
def execChannelMove (t channel pair : Nat) (s : State) : Out :=
  event s t (fun s =>
    match s.servo.drain with
    | none => s
    | some d =>
      if (pairChannels s d.pair).isEmpty then endPairDrain s stOK
      else if (pairChannels s d.pair).head? = some channel ∧ moveTarget s d.pair channel = none then endPairDrain s stNO_RESOURCE
      else if (pairChannels s d.pair).head? = some channel ∧ moveTarget s d.pair channel = some pair then
        let s1 := moveChannel { s with servo := { s.servo with drain := some { d with moved := d.moved + 1 } } } channel pair
        if (pairChannels s1 d.pair).isEmpty then endPairDrain s1 stOK else s1
      else s)

/-- PAIR_SELFTEST_END (R621): the pair is available again, or stays out of use when its test failed. -/
def execPairSelftestEnd (t pair : Nat) (failed : Bool) (s : State) : Out :=
  event s t (fun s =>
    if !(getPair s pair).testing then s
    else if failed then
      huskFault (modPair s pair (fun x => { x with testing := false, retired := true })) (srcPair pair) 3 pair 4
    else modPair s pair (fun x => { x with testing := false }))

/-! Safety connections (R695, R696). -/

/-- SAFETY_CONNECTION_FAULT (R692, R696): every channel of the node stops. -/
def execSafetyConnectionFault (t connection : Nat) (s : State) : Out :=
  event s t (fun s =>
    let b := s.ports.mnet.image
    if !s.ports.mnet.running || decide (mnSafeties b ≤ connection) then s
    else
      let node := fld (wordAt (mnSafety b connection) 0) 31 24
      let x := mnNode b node
      let line := if mnMode b = 2 ∧ 2048 ≤ nodeOutAt x then 1 else 0
      let s1 := mapChannels s (fun _ c =>
        if configured c && decide (nodeOutAt x ≤ cfgOutOffset c.cfg) && decide (cfgOutOffset c.cfg < nodeOutAt x + nodeOutLen x)
        then stopChannel c else c)
      let m := s1.ports.mnet
      huskRequest { s1 with ports := { s1.ports with mnet := { m with
          failures := countLine m.failures line,
          faulted := if m.faulted.contains connection then m.faulted else m.faulted ++ [connection] } } }
        0x0E srcShell (leBytes 1 node ++ leBytes 1 5))

end Sys2Proof.Machine
end

