-- ==== Sys2Proof/Machine/Interfaces.lean ====
section
/-!
DEFINITION. Machine/Interfaces.lean: IF_STATUS, and the configuration of the encoder inputs and of the motion network
(R691–R693, R704, R720, R721).
-/
namespace Sys2Proof.Machine

/-! IF_STATUS (R720). -/

def lpddrEntry (x : LpddrChannel) : Bytes :=
  leBytes 4 x.corrected.toNat ++ leBytes 4 x.rereads.toNat ++ leBytes 4 x.uncorrectable.toNat
    ++ leBytes 2 x.retrains.toNat ++ leBytes 2 x.drift.toNat

def peerEntry (x : PeerPort) : Bytes :=
  leBytes 4 x.replays.toNat ++ leBytes 4 x.resends.toNat ++ leBytes 4 x.discarded.toNat
    ++ leBytes 4 ((if x.up then 1 else 0) + x.neighbour.toNat * 2 + x.unreachable.toNat * 2 ^ 16)

def streamEntry (x : Stream) : Bytes :=
  leBytes 4 x.frames.toNat ++ leBytes 4 x.corrupt.toNat ++ leBytes 4 x.stale.toNat ++ leBytes 4 x.loss.toNat

def encoderEntry (x : Encoder) : Bytes :=
  leBytes 4 x.quadErrors.toNat ++ leBytes 4 x.serialErrors.toNat ++ leBytes 8 x.zLatch.toNat

def lineEntry (x : Mnet) (i : Nat) : Bytes :=
  leBytes 4 (x.missing.getD i 0).toNat ++ leBytes 4 (x.breaks.getD i 0).toNat ++ leBytes 4 (x.failures.getD i 0).toNat
    ++ leBytes 4 0

def canEntry (x : CanPort) : Bytes :=
  leBytes 4 x.received.toNat ++ leBytes 4 x.sent.toNat ++ leBytes 4 x.errors.toNat ++ leBytes 4 x.busOffs.toNat

/-- The section that a selector names (R720). -/
def ifSection (s : State) (selector : Nat) : Bytes :=
  match selector with
  | 0 => s.ports.lpddr.flatMap lpddrEntry
  | 1 => s.ports.peer.ports.flatMap peerEntry
  | 2 => s.ports.streams.flatMap streamEntry
  | 3 => s.ports.encoders.flatMap encoderEntry
  | _ => (List.range 2).flatMap (lineEntry s.ports.mnet) ++ s.ports.can.flatMap canEntry

/-- IF_STATUS (R720, R721). -/
def execIfStatus (t : Nat) (c : Cmd) (selector window : Word) (offset : DWord) (s : State) : Out :=
  host s t c (okIfStatus selector) (fun s =>
    let b := ifSection s selector.toNat
    writeReply s c window offset.toNat b b.length)

/-! Encoder inputs (R704–R706, R721). -/

/-- ENC_CONFIG (R704, R721): not while a phase source uses the input; a channel uses it through its phase source (R324). -/
def execEncConfig (t : Nat) (c : Cmd) (input : BitVec 4) (mode rate : BitVec 2) (posBits : BitVec 6) (triggerLog2 : BitVec 2)
    (s : State) : Out :=
  host s t c (okEncConfig mode posBits) (fun s =>
    if s.phase.sources.any (fun p => (psType p.cfg == 2 || psType p.cfg == 3) && psInput p.cfg == 0x10 + input.toNat) then
      done s c stPROTECTION
    else done (modEncoder s input.toNat (fun e => { e with
      mode := mode, rate := rate, posBits := posBits, triggerLog2 := triggerLog2,
      count := if mode = e.mode then e.count else 0, syncs := 0, request := none })) c stOK)

/-! The motion network (R691–R693). -/

/-- Bytes of a safety frame that carries 2 bytes of safe data (PRESUMED, log entry 60). -/
def safetyFrameBytes : Nat := 7

/-- The layout of one node entry (R691). -/
def nodeOk (n : Bytes) : Bool :=
  fld (wordAt n 4) 31 12 == 0 && wordAt n 5 == 0 && decide (nodeOutAt n + nodeOutLen n ≤ 4096)
  && decide (nodeInAt n + nodeInLen n ≤ 4096)

/-- The layout of one safety-connection entry, its frames inside its node's ranges (R692). -/
def safetyOk (b x : Bytes) : Bool :=
  let n := fld (wordAt x 0) 31 24
  let node := mnNode b n
  let out := fld (wordAt x 1) 31 16
  let inp := fld (wordAt x 1) 15 0
  decide (n < mnNodes b) && fld (wordAt x 0) 23 16 == 0 && decide (1 ≤ fld (wordAt x 0) 15 0)
  && fld (wordAt x 2) 31 24 == 0 && inRange 2 100 (fld (wordAt x 2) 23 16) && fld (wordAt x 2) 15 0 == 0 && wordAt x 3 == 0
  && decide (nodeOutAt node ≤ out) && decide (out + safetyFrameBytes ≤ nodeOutAt node + nodeOutLen node)
  && decide (nodeInAt node ≤ inp) && decide (inp + safetyFrameBytes ≤ nodeInAt node + nodeInLen node)

/-- The layout of a network image (R691, R692). -/
def netImageOk (b : Bytes) : Bool :=
  let w := wordAt b 0
  let safeties := (List.range (mnSafeties b)).map (mnSafety b)
  fld w 31 24 == 1 && decide (mnMode b ≤ 2) && fld w 20 16 == 0 && inRange 1 200 (mnNodes b) && decide (mnSafeties b ≤ 96)
  && (List.range 7).all (fun i => wordAt b (1 + i) == 0)
  && b.length == 32 + 24 * mnNodes b + 16 * mnSafeties b
  && (List.range (mnNodes b)).all (fun i => nodeOk (mnNode b i))
  && safeties.all (safetyOk b) && !hasRepeat (safeties.map (fun x => fld (wordAt x 0) 31 24))

/-- The identities that the entries of an image expect (R691). -/
def netIdentities (b : Bytes) : List (Word × Word) :=
  (List.range (mnNodes b)).map (fun i => (wordAt (mnNode b i) 0, wordAt (mnNode b i) 1))

/-- Put a network image in force, or stop the network with an empty one; commands that waited for the old network's cycle
take effect. -/
def startNet (s : State) (b : Bytes) : State :=
  let s1 := { s with ports := { s.ports with mnet := { s.ports.mnet with image := b, running := !b.isEmpty, faulted := [] } } }
  if b.isEmpty then (List.range 96).foldl flushReqs s1 else s1

/-- MNET_CONFIG (R691–R693, R721). -/
def execMnetConfig (t : Nat) (c : Cmd) (window : Word) (offset : DWord) (length : Word) (found : List (Word × Word))
    (s : State) : Out :=
  host s t c true (fun s => orFail s c (unlisted (readWindow s c window offset.toNat length.toNat)) (fun b =>
    if s.servo.channels.any (fun x => x.st != .disabled) then done s c stPROTECTION
    else if !netImageOk b then done s c stBAD_DESCRIPTOR
    else if s.servo.net.tCyc ≠ 0 ∧ !tripFits b s.servo.net.txShift s.servo.net.rxBound then done s c stNO_RESOURCE
    else if found ≠ netIdentities b then done (startNet s []) c stBAD_DESCRIPTOR
    else done (startNet s b) c stOK (mnNodes b)))

end Sys2Proof.Machine
end

