-- ==== Sys2Proof/Machine/Peer.lean ====
section
/-!
DEFINITION. Machine/Peer.lean: the commands of the peer link, its messages and its timers (R708–R717, R721).
-/
namespace Sys2Proof.Machine

/-! Commands (R721). -/

/-- PEER_STATUS. -/
def execPeerStatus (t : Nat) (c : Cmd) (s : State) : Out :=
  host s t c true (fun s =>
    let mask := (devicesPresent s).foldl (fun n d => n + 2 ^ d) 0
    let up := fun (p : Nat) => if (getPort s p).up then 2 ^ p else 0
    done s c stOK (ownNumber s + (devicesPresent s).headD 0 * 4 + mask * 16 + (up 0 + up 1) * 256
      + (if s.sync.locked then 1024 else 0)))

/-- PEER_WINDOW_OPEN (R712): a range of a local window, which must be device memory. -/
def execPeerWindowOpen (t : Nat) (c : Cmd) (window : Word) (offset length : DWord) (devices : BitVec 4)
    (writable readable : Bool) (s : State) : Out :=
  host s t c true (fun s => orFail s c (unlisted (windowKey s c window offset.toNat length.toNat writable)) (fun k =>
    match findWindow s window with
    | none => done s c stWINDOW_CLOSED
    | some x =>
      if x.host then done s c stPROTECTION
      else match pickFree 1 65535 (Config.handOut s.free) (s.ports.peer.windows.map (·.id)) with
        | none => done s c stNO_RESOURCE
        | some id =>
          let w : PeerWindow := { id := id, session := x.session, base := k, length := length.toNat, devices := devices,
                                  writable := writable, readable := readable }
          done (modPeer (takeFree s) (fun p => { p with windows := p.windows ++ [w], closed := p.closed.filter (· != id) }))
            c stOK id))

/-- PEER_WINDOW_CLOSE (R713). -/
def execPeerWindowClose (t : Nat) (c : Cmd) (window : BitVec 16) (s : State) : Out :=
  host s t c true (fun s => match s.ports.peer.windows.find? (fun w => w.id == window.toNat) with
    | none => done s c stBAD_DESCRIPTOR
    | some w =>
      let fn := match findSession s w.session with | some x => x.fn | none => 0
      if !ownsObject s c w.session fn then done s c stPROTECTION
      else done (closePeerWindows s (fun x => x.id == w.id)) c stOK)

/-- PEER_WRITE (R714). -/
def execPeerWrite (t : Nat) (c : Cmd) (device : BitVec 2) (peerWindow : BitVec 16) (remoteOffset : DWord) (window : Word)
    (localOffset length : DWord) (s : State) : Out :=
  host s t c true (fun s =>
    startPeer s c true device.toNat peerWindow.toNat remoteOffset.toNat window localOffset.toNat length.toNat)

/-- PEER_READ (R714). -/
def execPeerRead (t : Nat) (c : Cmd) (device : BitVec 2) (peerWindow : BitVec 16) (remoteOffset : DWord) (window : Word)
    (localOffset length : DWord) (s : State) : Out :=
  host s t c true (fun s =>
    startPeer s c false device.toNat peerWindow.toNat remoteOffset.toNat window localOffset.toNat length.toNat)

/-! Messages. -/

/-- The answer to a WRITE or a READ_REQ: type 0x02 or 0x04, with the request's window, transfer and offset. -/
def answerTo (h : List Word) (type : Nat) (st : Status) (b : Bytes) : Message :=
  { type := type, dst := pmSrc h, window := pmWindow h, transfer := pmTransfer h, offset := pmOffset h, status := st, payload := b }

/-- PEER_WRITE_RX (R712, R713, R716, R661): a message taken before is answered with its status and not applied again. -/
def execPeerWriteRx (t : Nat) (port : Nat) (header : List Word) (payload : Bytes) (s : State) : Out :=
  event s t (fun s => receive s port header payload 1 (fun s =>
    let d := pmSrc header
    match keptStatus s d (pmSeq header) with
    | some st => sendMessage s (answerTo header 2 st [])
    | none =>
      match peerRange s t d (pmWindow header) (pmOffset header) payload.length true with
      | .ok k => sendMessage (keepStatus (putKey s k payload) d (pmSeq header) stOK) (answerTo header 2 stOK [])
      | .error st =>
        let s1 := match s.ports.peer.windows.find? (fun w => w.id == pmWindow header) with
          | some w => if st = stBANK_OFF then noteDiscard s (w.base + pmOffset header) payload.length (srcPeer d) else s
          | none => s
        sendMessage (keepStatus s1 d (pmSeq header) st) (answerTo header 2 st [])))

/-- PEER_ACK_RX (R714). -/
def execPeerAckRx (t : Nat) (port : Nat) (header : List Word) (s : State) : Out :=
  event s t (fun s => receive s port header [] 2 (fun s => match awaited s header true with
    | none => s
    | some r => answered s r.2 (pmStatus header)))

/-- PEER_READ_REQ_RX (R712, R713, R716): the payload holds the number of bytes asked for; a request already taken is answered
with its kept status, and with the bytes that the range holds now. -/
def execPeerReadReqRx (t : Nat) (port : Nat) (header : List Word) (payload : Bytes) (s : State) : Out :=
  event s t (fun s => receive s port header payload 3 (fun s =>
    let d := pmSrc header
    let n := numAt payload 0 4
    let range := if 4096 < n then .error stPROTECTION else peerRange s t d (pmWindow header) (pmOffset header) n false
    match keptStatus s d (pmSeq header), range with
    | some st, .ok k => sendMessage s (answerTo header 4 st (if st = stOK then readKey s.mem k n else []))
    | some st, .error _ =>
      if st = stOK ∧ n ≤ 4096 then
        sendMessage (takeFree s) (answerTo header 4 st ((List.range n).map (Config.undefByte s.free)))
      else sendMessage s (answerTo header 4 st [])
    | none, .ok k => sendMessage (keepStatus s d (pmSeq header) stOK) (answerTo header 4 stOK (readKey s.mem k n))
    | none, .error st => sendMessage (keepStatus s d (pmSeq header) st) (answerTo header 4 st [])))

/-- PEER_READ_DATA_RX (R714): the bytes go to the local window, when that is still open. -/
def execPeerReadDataRx (t : Nat) (port : Nat) (header : List Word) (payload : Bytes) (s : State) : Out :=
  event s t (fun s => receive s port header payload 4 (fun s => match awaited s header false with
    | none => s
    | some r =>
      if pmStatus header ≠ stOK then answered s r.2 (pmStatus header)
      else if payload.length ≠ r.2.length then s
      else if !s.cmds.windows.any (fun w => w.id == r.1.window) then answered s r.2 stWINDOW_CLOSED
      else match accessStatus s (r.1.local_ + r.2.offset) r.2.length true with
        | some st => answered (noteDiscard s (r.1.local_ + r.2.offset) r.2.length srcDma) r.2 st
        | none => answered (putKey s (r.1.local_ + r.2.offset) payload) r.2 stOK))

/-- PEER_HELLO_RX (R709). -/
def execPeerHelloRx (t : Nat) (port : Nat) (header : List Word) (s : State) : Out :=
  event s t (fun s => receive s port header [] 7 (fun s => s))

/-- PEER_EVENT_RX (R711): the firmware's own coordination; it lands in no window of a host. -/
def execPeerEventRx (t : Nat) (port : Nat) (header : List Word) (payload : Bytes) (s : State) : Out :=
  event s t (fun s => receive s port header payload 8 (fun s => s))

/-- The header of a forwarded message (R711, R718): one hop more, and in the SYNC types the time that it stayed here. -/
def forwardHeader (h : List Word) (stay : Nat) : List Word :=
  let hop : Word := BitVec.ofNat 32 ((wat h 0).toNat / 2 ^ 20 * 2 ^ 20 + (pmHops h + 1) % 4 * 2 ^ 18 + fld (wat h 0) 17 0)
  let o := if pmType h = 5 ∨ pmType h = 6 then pmOffset h + stay else pmOffset h
  sealHeader [hop, wat h 1, wat h 2, BitVec.ofNat 32 o, BitVec.ofNat 32 (o / 2 ^ 32), wat h 5, wat h 6]

/-- PEER_MESSAGE_FORWARD (R711, R718): a whole message for another device leaves at the other port. -/
def execPeerMessageForward (t : Nat) (port : Nat) (header : List Word) (payload : Bytes) (depart : Nat) (s : State) : Out :=
  event s t (fun s =>
    let s1 := receive s port header payload 0 (fun s => s)
    if !mainRuns s || !intact header payload || decide (pmType header < 1) || decide (8 < pmType header)
        || pmDst header == ownNumber s then s1
    else sendAt s1 (1 - port) (forwardHeader header (depart - now s)) payload)

/-! Timers (R709, R715–R717). -/

/-- The device at the other end of a port: the neighbour that has been heard there, else the next or the previous number
(R708). -/
def portDevice (s : State) (p : Nat) : Nat :=
  if (getPort s p).up then (getPort s p).neighbour.toNat
  else
    let n := max 2 (ringSize s 0)
    if p = 0 then (ownNumber s + 1) % n else (ownNumber s + n - 1) % n

/-- PEER_HELLO_TIMER (R709): a port that has been idle for 10 µs sends a HELLO. -/
def execPeerHelloTimer (t : Nat) (port : Nat) (s : State) : Out :=
  event s t (fun s =>
    if !mainRuns s || decide (now s < (getPort s port).lastSent + 10000) then s
    else
      let x := nextHeader s { type := 7, dst := portDevice s port }
      sendAt x.2 port x.1 [])

/-- PEER_CONNECTION_TIMEOUT (R709): no flit for 100 µs. An open exchange was begun on the old path, so it measures nothing and
the next one measures the new path (DEDUCED, log entry 153). -/
def execPeerConnectionTimeout (t : Nat) (port : Nat) (s : State) : Out :=
  event s t (fun s =>
    let x := getPort s port
    if !x.up || decide (now s < x.lastFlit + 100000) then s
    else
      let s1 := modPort { s with sync := { s.sync with request := none } } port (fun x => { x with up := false })
      if (getPort s1 (1 - port)).up then s1 else setRole (modPeer s1 (fun x => { x with present := 0 })))

/-- PEER_FLIT_REPLAY (R715): it is counted and changes no message. -/
def execPeerFlitReplay (t : Nat) (port : Nat) (s : State) : Out :=
  event s t (fun s => modPort s port (fun x => { x with replays := satInc x.replays }))

/-- The transfer of a message whose third resend had no answer (R717). -/
def unreachable (s : State) (m : PeerMessage) : State :=
  let p := routePort s m.device
  let s1 := if s.ports.peer.lost.contains m.device then s
    else huskFault (modPort (modPeer s (fun x => { x with lost := x.lost ++ [m.device] })) p
      (fun x => { x with unreachable := satInc x.unreachable })) srcCp 0x0A m.device 2
  match s1.ports.peer.transfers.find? (fun x => x.id == m.transfer) with
  | none => dropPeerTransfer s1 m.transfer
  | some x => done (dropPeerTransfer s1 x.id) x.cmd stINTERNAL 8

/-- PEER_RESEND_TIMEOUT (R716, R717): the message is sent again with its seq, up to three times. -/
def execPeerResendTimeout (t : Nat) (device : Nat) (seq : Word) (s : State) : Out :=
  event s t (fun s => match s.ports.peer.messages.find? (fun m => m.device == device && m.seq == seq) with
    | none => s
    | some m =>
      if m.resends < 3 then
        let p := routePort s device
        let s1 := modPeer s (fun x => { x with messages := x.messages.map (fun y =>
          if y.device == device && y.seq == seq then { y with resends := y.resends + 1 } else y) })
        sendAt (modPort s1 p (fun x => { x with resends := satInc x.resends })) p m.header m.payload
      else unreachable s m)

end Sys2Proof.Machine
end

