-- ==== Sys2Proof/Machine/Plate.lean ====
section
/-!
DEFINITION. Machine/Plate.lean: the commands of family 0x03, the slots of the running Plate and the self-test quanta
(R508–R521, R541, R544–R548, R588).
-/
namespace Sys2Proof.Machine

/-! Plates (R508–R511, R548). -/

/-- PLATE_LOAD (R508–R510, R548): the firmware keeps the copy; its handle is the copy's device address. -/
def execPlateLoad (t : Nat) (c : Cmd) (window : Word) (offset : DWord) (length : Word) (s : State) : Out :=
  host s t c true (fun s => orFail s c (readWindow s c window offset.toNat length.toNat) (fun b =>
    if !plateOk (profileGbs s.power.profile) b then done s c stBAD_DESCRIPTOR
    else if !plateAllowed s b then done s c stPROTECTION
    else match chooseSpot s lpddrBase (lpddrBase + lpddrBytes) b.length 64 (heldRanges s) with
      | none => done s c stNO_RESOURCE
      | some h =>
        let s1 := takeFree s
        done { s1 with plate := { s1.plate with loaded := s1.plate.loaded ++ [(h, b)] } } c stOK h))

/-- Whether an etch that is being armed, or is armed, names a Plate (R515, R548). -/
def plateNamed (s : State) (h : Nat) : Bool :=
  s.etch.etches.any (fun e => (e.st == .armed || e.st == .replaced || s.etch.arming.any (fun a => a.etch == e.id))
    && e.acts.any (fun x => x.typ == 4 && actValue x == h))

/-- PLATE_UNLOAD (R548). -/
def execPlateUnload (t : Nat) (c : Cmd) (handle : DWord) (s : State) : Out :=
  host s t c true (fun s =>
    let h := handle.toNat
    if !s.plate.loaded.any (fun l => l.1 == h) then done s c stBAD_DESCRIPTOR
    else if s.plate.handle == some h || plateNamed s h then done s c stPROTECTION
    else done { s with plate := { s.plate with loaded := s.plate.loaded.filter (fun l => l.1 != h) } } c stOK)

/-- The first count of the major source that is a multiple of major_len and lies at least 2 counts ahead (R511). -/
def startCount (s : State) (b : Bytes) : Nat :=
  let n := phaseAt s (plMajor b) / 65536 + 2
  let len := plMajorLen b
  if len = 0 then n else (n + len - 1) / len * len % 2 ^ 48

/-- Apply the image's phase-source blocks whose type is not OFF (R511). -/
def applySources (s : State) (b : Bytes) : State :=
  (List.range 8).foldl (fun s n => if psType (plSource b n) = 0 then s else applyBlock s n (plSource b n)) s

/-- count_valid of a source once the image's block of it is applied (R511). -/
def startValid (s : State) (b : Bytes) (n : Nat) : Bool :=
  if psType (plSource b n) = 0 then (getPs s n).countValid else countValidAfter s n (plSource b n)

/-- PLATE_START (R511, R515, R548). -/
def execPlateStart (t : Nat) (c : Cmd) (handle : DWord) (s : State) : Out :=
  host s t c true (fun s =>
    if !s.plate.isDefault then done s c stPROTECTION
    else match s.plate.loaded.find? (fun l => l.1 == handle.toNat) with
      | none => done s c stBAD_DESCRIPTOR
      | some (h, b) =>
        match plateResources s b (List.range 16) (startValid s b) with
        | some st => done s c st
        | none =>
          let s1 := applySources s b
          let n := startCount s1 b
          let s2 := swapCommit { s1 with plate := { s1.plate with minPeriods := (List.range 8).map (plMinPeriod b) } }
            (List.range 16) b h n
          done s2 c stOK n)

/-- PLATE_STATUS (R548). -/
def execPlateStatus (t : Nat) (c : Cmd) (s : State) : Out :=
  host s t c true (fun s => done s c stOK
    (fld (wat s.plate.header 0) 15 0 + s.plate.overruns.toNat * 2 ^ 16 + s.plate.cycles.toNat * 2 ^ 32))

/-- SQ_MIGRATE (R541, R548). -/
def execSqMigrate (t : Nat) (c : Cmd) (sq : BitVec 18) (part : BitVec 4) (s : State) : Out :=
  host s t c true (fun s => match findSq s sq.toNat with
    | none => done s c stBAD_DESCRIPTOR
    | some x =>
      let serving := s.loops.any (fun l => l.cmd.key.src == .queue sq)
      if !ownsObject s c x.session x.fn || serving || !fnPartition s x.fn part.toNat then done s c stPROTECTION
      else if !partAccepts s part.toNat x.cls then done s c stNO_RESOURCE
      else
        let s1 := moveQueue s x.id part.toNat (some t)
        done s1 c stOK (getPart s1 part.toNat).epoch.toNat)

/-! Slots (R512, R518, R521). -/

/-- Whether the running Plate's first major cycle has begun (R511, R512). -/
def cyclesRun (s : State) : Bool :=
  !s.plate.isDefault && majorLen s != 0 &&
  reached (phaseAt s (plateMajor s.plate.header)) (s.plate.origin % 2 ^ 48 * 65536) false

/-- A slot whose start an earlier slot's command delays (R521): counted, and recorded when it is HARD or SAFETY. -/
def delaySlot (s : State) (w : List Word) : State :=
  let p := slPart w
  let s1 := modPart { s with plate := { s.plate with overruns := satInc s.plate.overruns } } p
    (fun x => { x with overruns := satInc x.overruns })
  if 2 ≤ slClass w then huskFault s1 srcCp 0x0C p 0x0A else s1

/-- Whether a command of an earlier slot than the open one, if any, still runs in a partition (R521). -/
def overrunning (s : State) (p : Nat) : Bool :=
  runsSince s p (if (getPart s p).slot.isNone then now s + 1 else (getPart s p).since)

/-- SLOT_START (R492, R518, R521): the start offset of a slot matches, and the plan cycle of an action binding starts. -/
def execSlotStart (t slot : Nat) (s : State) : Out :=
  event s t (fun s => match slotAt s slot with
    | none => s
    | some w =>
      let p := slPart w
      if !cyclesRun s || decide (majorPhase s < slStart w) || decide (slEnd w ≤ majorPhase s) then s
      else
        let s1 := if overrunning s p then delaySlot s w else s
        if slUse w = 3 then modPart s1 p (fun x => { x with check := some slot, checkSince := now s })
        else actionSlot (modPart s1 p (fun x => { x with slot := some slot, since := now s })) slot)

/-- SLOT_END (R518): the end offset of the open slot matches. -/
def execSlotEnd (t slot : Nat) (s : State) : Out :=
  event s t (fun s => match slotAt s slot with
    | none => s
    | some w =>
      let p := slPart w
      if decide (slStart w ≤ majorPhase s) && decide (majorPhase s < slEnd w) then s
      else
        let s1 := modPart s p (fun x => { x with
          slot := if x.slot = some slot then none else x.slot, check := if x.check = some slot then none else x.check })
        if (getPart s p).check = some slot then abandonCheck s1 p else s1)

/-! Self-test quanta (R544–R547). -/

/-- Quanta of a unit in each interval, and the length of one in ns (R544): classes 0 sector, 1 engine, 2 slice. -/
def quantaDue (cls : Nat) : Nat := match cls with | 0 => 4 | 1 => 3 | _ => 2
def quantumNs (cls : Nat) : Nat := match cls with | 0 => 50000 | 1 => 40000 | _ => 20000

def getTest (s : State) (cls unit : Nat) : UnitTest :=
  (match cls with | 0 => s.plate.sectorTests | 1 => s.plate.engineTests | _ => s.plate.sliceTests).getD unit UnitTest.zero

def modTest (s : State) (cls unit : Nat) (f : UnitTest → UnitTest) : State :=
  { s with plate :=
    match cls with
    | 0 => { s.plate with sectorTests := s.plate.sectorTests.modify unit f }
    | 1 => { s.plate with engineTests := s.plate.engineTests.modify unit f }
    | _ => { s.plate with sliceTests := s.plate.sliceTests.modify unit f } }

/-- SELFTEST_STATUS (R548). -/
def execSelftestStatus (t : Nat) (c : Cmd) (cls : BitVec 2) (unit : BitVec 5) (s : State) : Out :=
  host s t c (okSelftest cls unit) (fun s =>
    let x := getTest s cls.toNat unit.toNat
    done s c stOK (min x.run 255 + quantaDue cls.toNat * 2 ^ 8 + x.overdue.toNat * 2 ^ 16 + x.failed.toNat * 2 ^ 32))

/-- The unit code of a tested unit, and its unit class in Husk records (R612). -/
def testUnit (cls unit : Nat) : Nat := (cls + 1) * 65536 + unit
def testClass (cls : Nat) : Nat := match cls with | 0 => 0x01 | 1 => 0x02 | _ => 0x05

/-- Whether a unit is idle: its engine, or the sectors and engines of its partition. -/
def testIdle (s : State) (cls unit : Nat) : Bool :=
  match cls with
  | 1 => (getEngine s unit).run.isNone
  | _ => match partHolding s (testUnit cls unit) with
    | none => true
    | some p => (getPart s p).run.isNone && (cls != 2 || !runsSince s p (now s + 1))

/-- Whether a unit's quanta are counted: not fenced or retired, and ON unless it is a spare. -/
def testCounts (s : State) (cls unit : Nat) : Bool :=
  let u := testUnit cls unit
  (match cls with
   | 0 => !(getSector s unit).fenced
   | 1 => (getEngine s unit).mode == .active || (getEngine s unit).mode == .spare
   | _ => !s.power.fenced.getD unit false)
  && (unitState s u == 2 || isSpare s u)

/-- Phase, 48.16, to the next start of a slot that `p` selects, from now on in the cycle. -/
def nextStart (s : State) (p : List Word → Bool) : Option Nat :=
  let len := majorLen s * 65536
  match ((plateSlots s).filter p).map (fun w => (slStart w + len - majorPhase s % len) % len) with
  | [] => none
  | d :: ds => some (ds.foldl min d)

/-- Whether a quantum may start on a unit now: the unit's quanta are counted, and its partition allows it (R544, R545). -/
def quantumAllowed (s : State) (cls unit : Nat) : Bool :=
  let fits := fun (d : Option Nat) => match d with | some d => endsBefore s (quantumNs cls) d | none => true
  testCounts s cls unit &&
  (if isSpare s (testUnit cls unit) then true
   else match partHolding s (testUnit cls unit) with
     | none => true
     | some p =>
       match peMode (partEntry s p) with
       | 0 =>
         (match openSlot s p with
          | some w => slUse w == 4 && fits (some (slotLeft s w))
          | none => fits (nextStart s (fun w => slPart w == p && slUse w != 3)))
         && fits (nextStart s (fun w => slPart w == p && decide (2 ≤ slClass w)))
         && testIdle s cls unit
       | 1 => testIdle s cls unit && !hardWaits s p
       | _ => testIdle s cls unit)

/-- SELFTEST_QUANTUM_START (R544, R545). -/
def execSelftestQuantumStart (t cls unit : Nat) (s : State) : Out :=
  event s t (fun s =>
    let x := getTest s cls unit
    if x.running || decide (quantaDue cls ≤ x.run) || !quantumAllowed s cls unit then s
    else modTest s cls unit (fun x => { x with running := true }))

/-- A SELFTEST record (R611): 1 overdue, 2 failed. -/
def huskSelftest (s : State) (source cls unit code : Nat) : State :=
  huskRequest s 0x0C source (leBytes 1 cls ++ leBytes 1 unit ++ leBytes 1 code)

/-- A failed quantum (R547). -/
def quantumFailed (s : State) (cls unit : Nat) : State :=
  match cls with
  | 0 => faultSector (huskSelftest s (srcSector unit) 0x01 unit 2) unit 0x04 none
  | 1 => engineFaulted (huskSelftest s (srcEngine unit) 0x02 unit 2) unit 0x04
  | _ => fenceSlice (huskSelftest s srcCp 0x05 unit 2) unit 0x04

/-- SELFTEST_QUANTUM_END (R544, R547). -/
def execSelftestQuantumEnd (t cls unit : Nat) (failed : Bool) (s : State) : Out :=
  event s t (fun s =>
    if !(getTest s cls unit).running then s
    else
      let s1 := modTest s cls unit (fun x => { x with
        running := false, run := x.run + 1, failed := if failed then satInc x.failed else x.failed })
      if failed then quantumFailed s1 cls unit else s1)

/-- The reaction to SELFTEST_OVERDUE (R588): `hard` tells whether the unit is the Tracer or belongs to a partition with
a HARD or SAFETY slot. -/
def overdueReaction (s : State) (hard : Bool) : State :=
  match protSelftestReaction s with
  | 1 => if hard then safeTrigger s srcShell else s
  | 2 => stoLater (allStop s) .selftest (now s)
  | _ => s

/-- Whether a unit's partition has a HARD or SAFETY slot (R588). -/
def unitHard (s : State) (u : Nat) : Bool :=
  match partHolding s u with
  | some p => (match s.plate.parts[p]? with | some x => hasHardSlot x.slots | none => false)
  | none => false

/-- The units whose quanta are not all run when the interval ends. -/
def overdueUnits (s : State) : List (Nat × Nat) :=
  ([(0, 18), (1, 9), (2, 16)]).flatMap (fun k => ((List.range k.2).filter (fun i =>
    testCounts s k.1 i && decide ((getTest s k.1 i).run < quantaDue k.1))).map (fun i => (k.1, i)))

/-- selftest_interval_ms in force (R757): the protection set's limit when that is lower under the default Plate. -/
def selftestMs (s : State) : Nat :=
  let n := fld (wat s.plate.header 6) 31 16
  if s.plate.isDefault then min n (protSelftestLimit s) else n

/-- A new interval begins: no quantum has run in it. -/
def freshInterval (s : State) : State :=
  let zero := fun (x : UnitTest) => { x with run := 0 }
  { s with
    plate := { s.plate with
      sectorTests := s.plate.sectorTests.map zero, engineTests := s.plate.engineTests.map zero,
      sliceTests := s.plate.sliceTests.map zero, intervalStart := now s },
    power := { s.power with sliceErrors := List.replicate 16 0 },
    safety := { s.safety with knownAnswer := false } }

/-- DIAGNOSTIC_INTERVAL_END (R544, R546, R587, R588, R623). -/
def execDiagnosticIntervalEnd (t : Nat) (s : State) : Out :=
  event s t (fun s =>
    if now s < s.plate.intervalStart + selftestMs s * 1000000 ∨ !s.hif.fwReady then s
    else
      let late := overdueUnits s
      let hard := late.any (fun x => unitHard s (testUnit x.1 x.2))
      let s1 := late.foldl (fun s x => huskSelftest (modTest s x.1 x.2 (fun y => { y with overdue := satInc y.overdue }))
        srcCp (testClass x.1) x.2 1) s
      let tracer := !s1.safety.knownAnswer
      let s2 := if tracer then huskSelftest s1 srcTracer 0x08 0 1 else s1
      let s3 := freshInterval s2
      if late.isEmpty && !tracer then s3 else overdueReaction s3 (hard || tracer))

end Sys2Proof.Machine
end

