-- ==== Sys2Proof/Machine/Sessions.lean ====
section
/-!
DEFINITION. Machine/Sessions.lean: the admin commands and the commands that open sessions and create queues (R150, R151,
R154, R156, R162–R164, R532, R539).
-/
namespace Sys2Proof.Machine

/-! Admin (R162). -/

/-- The result of IDENTIFY (R162). -/
def identifyResult (s : State) (fn selector : Nat) : Nat :=
  match selector with
  | 0 => 3 + 2 * 2 ^ 8 + 0xB0 * 2 ^ 16
  | 1 => Config.deviceSerial.toNat
  | 2 => fnSqBase s fn + fnSqCount s fn * 2 ^ 18
  | _ => fnCqBase s fn + fnCqCount s fn * 2 ^ 16 + fnMsix s fn * 2 ^ 32 + fnSessionLimit s fn * 2 ^ 44

/-- IDENTIFY (R162). -/
def execIdentify (t : Nat) (c : Cmd) (selector : Word) (s : State) : Out :=
  host s t c (okIdentify selector) (fun s => done s c stOK (identifyResult s (fnOf s c) selector.toNat))

/-- Profile code of GET_HEALTH (R162, R647): 1 Lean, 2 Balanced, 3 Full, 0 in no profile. -/
def healthProfile (state : Nat) : Nat := if 3 ≤ state then state - 2 else 0
/-- Device-state code of GET_HEALTH: 1 SHELL_ONLY, 2 STANDBY, 3 ACTIVE. -/
def healthState (state : Nat) : Nat := min state 3

/-- GET_HEALTH (R162). -/
def execGetHealth (t : Nat) (c : Cmd) (s : State) : Out :=
  host s t c true (fun s => done s c stOK
    (wrapN 16 (hotMain s).2 + healthProfile s.power.state * 2 ^ 16 + healthState s.power.state * 2 ^ 20))

/-- ASYNC_EVENT_REQUEST (R156, R158, R162): a waiting event completes it at once, but for the time of a restart, whose own events
come first. -/
def execAsyncEventRequest (t : Nat) (c : Cmd) (session : Word) (s : State) : Out :=
  host s t c true (fun s =>
    if !mayName s c session then done s c stPROTECTION
    else match findSession s session with
      | none => done s c stPROTECTION
      | some x =>
        match (if s.hif.fwReady then x.events else []) with
        | e :: rest =>
          let s1 := modSession s session (fun x => { x with events := rest, discarded := 0 })
          finish s1 c { status := stOK, result := e.result, kind := 3, tag := e.code, epoch := x.discarded, stamp := e.stamp }
        | [] =>
          if 8 ≤ x.requests.length then done s c stNO_RESOURCE
          else modSession s session (fun x => { x with requests := x.requests ++ [c] }))

/-! Sessions (R150, R151, R163). -/

/-- The share weight that a field names: 0 is the basic default (R163). -/
def shareWeight (w : BitVec 16) : BitVec 16 := if w = 0 then 100 else w

/-- The generation of the next session in a slot (R151). -/
def nextGeneration (s : State) (slot : Nat) : BitVec 16 :=
  match s.cmds.generations.find? (fun g => g.1 == slot) with
  | some g => g.2 + 1
  | none => Config.firstGeneration slot

/-- OPEN_SESSION (R150, R151, R163). -/
def execOpenSession (t : Nat) (c : Cmd) (share maxSq maxCq : BitVec 16) (quota : DWord) (s : State) : Out :=
  host s t c true (fun s =>
    let fn := fnOf s c
    let mine := (s.cmds.sessions.filter (fun x => x.fn == fn)).length
    if decide (16384 ≤ s.cmds.sessions.length) || decide (fnSessionLimit s fn ≤ mine) then done s c stNO_RESOURCE
    else match pickFree 0 65536 (Config.handOut s.free) (s.cmds.sessions.map (fun x => x.id.toNat % 65536)) with
      | none => done s c stNO_RESOURCE
      | some slot =>
        let g := nextGeneration s slot
        let id := BitVec.ofNat 32 (g.toNat * 2 ^ 16 + slot)
        let x : Session := { id := id, fn := fn, share := shareWeight share, maxSq := maxSq, maxCq := maxCq, quota := quota,
                             requests := [], events := [], discarded := 0, vtime := 0, counters := Counters.zero }
        let s1 := takeFree s
        done { s1 with cmds := { s1.cmds with
          sessions := s1.cmds.sessions ++ [x],
          generations := s1.cmds.generations.filter (fun y => y.1 != slot) ++ [(slot, g)] } } c stOK id.toNat)

/-- SET_SHARE (R163, R531). -/
def execSetShare (t : Nat) (c : Cmd) (session : Word) (share : BitVec 16) (s : State) : Out :=
  host s t c true (fun s =>
    if mayName s c session then done (modSession s session (fun x => { x with share := shareWeight share })) c stOK
    else done s c stPROTECTION)

/-- The virtual time in whole ns, truncated (R532; DEDUCED, log entry 28). -/
def wholeNs (v : Rat) : Nat := v.floor.toNat

/-- The 128 bytes of GET_COUNTERS (R532). -/
def counterBytes (s : State) (x : Session) : Bytes :=
  let n := x.counters
  let big := fun (v : Nat) => leBytes 8 (min v (2 ^ 64 - 1))
  big n.queueWait ++ big n.queueWaitMax ++ big n.started ++ big n.fieldSectorNs ++ big n.solverEngineNs ++ big n.dmaNs
    ++ big n.hashNs ++ leBytes 4 n.preemptions.toNat ++ leBytes 4 n.hardWaits.toNat ++ leBytes 4 n.staleEpoch.toNat
    ++ leBytes 4 n.deadlineMisses.toNat ++ leBytes 4 n.admissionRefusals.toNat ++ leBytes 4 0
    ++ big (wholeNs x.vtime) ++ big (now s) ++ List.replicate 32 0

/-- GET_COUNTERS (R163, R532). -/
def execGetCounters (t : Nat) (c : Cmd) (session window : Word) (offset : DWord) (s : State) : Out :=
  host s t c true (fun s =>
    if !mayName s c session then done s c stPROTECTION
    else match findSession s session with
      | none => done s c stPROTECTION
      | some x => writeReply s c window offset.toNat (counterBytes s x) 128)

/-! Queues (R154, R163, R539, R752). -/

/-- Whether a ring may lie where it is asked for: device memory inside the session's envelope (R752). -/
def ringAllowed (s : State) (session : Word) (inDevice : Bool) (ring n : Nat) : Bool :=
  !inDevice || inEnvelope s (some session) ring n

/-- What refuses a CREATE_CQ, or its id. -/
def cqPlace (s : State) (c : Cmd) (session : Word) (ring depth vector : Nat) (inDevice : Bool) : Except Status (Session × Nat) :=
  match findSession s session with
  | none => .error stPROTECTION
  | some x =>
    if !mayName s c session || decide (fnMsix s x.fn ≤ vector) || !ringAllowed s session inDevice ring (32 * depth) then
      .error stPROTECTION
    else if x.maxCq != 0 && decide (x.maxCq.toNat ≤ (s.cmds.cqs.filter (fun q => q.session == session)).length) then
      .error stNO_RESOURCE
    else match pickFree (fnCqBase s x.fn) (fnCqCount s x.fn) (Config.handOut s.free) (s.cmds.cqs.map (·.id)) with
      | none => .error stNO_RESOURCE
      | some q => .ok (x, q)

/-- CREATE_CQ (R154, R163). -/
def execCreateCq (t : Nat) (c : Cmd) (session : Word) (ring : DWord) (depth : BitVec 17) (inDevice : Bool)
    (vector : BitVec 11) (coalCount : BitVec 8) (coalTime : BitVec 10) (s : State) : Out :=
  host s t c (okCreateCq ring depth coalCount) (fun s =>
    orFail s c (cqPlace s c session ring.toNat depth.toNat vector.toNat inDevice) (fun r =>
      let q : ComQueue := { id := r.2, session := session, fn := r.1.fn, ring := ring.toNat, inDevice := inDevice,
                            depth := depth.toNat, vector := vector.toNat, coalCount := coalCount.toNat,
                            coalTime := coalTime.toNat, tail := 0, head := 0, pass := true, waiting := [],
                            unsignalled := 0, firstAt := none }
      let s1 := takeFree s
      done { s1 with cmds := { s1.cmds with cqs := s1.cmds.cqs ++ [q] } } c stOK r.2))

/-- DELETE_CQ (R163). -/
def execDeleteCq (t : Nat) (c : Cmd) (cq : BitVec 16) (s : State) : Out :=
  host s t c true (fun s => match findCq s cq.toNat with
    | none => done s c stBAD_DESCRIPTOR
    | some x =>
      if !ownsObject s c x.session x.fn then done s c stPROTECTION
      else if s.cmds.sqs.any (fun q => q.cq == x.id) then done s c stBAD_DESCRIPTOR
      else done { s with cmds := { s.cmds with cqs := s.cmds.cqs.filter (fun q => q.id != x.id) } } c stOK)

/-- The partition of a new queue (R498, R539, R602). -/
def sqPartition (s : State) (x : Session) (part cls : Nat) : Except Status Nat :=
  if part = 0xFF then
    match choosePart s x.fn x.id cls with
    | some p => .ok p
    | none => .error stNO_RESOURCE
  else if !fnPartition s x.fn part then .error stPROTECTION
  else if partAccepts s part cls then .ok part
  else .error stBAD_DESCRIPTOR

/-- The id of a new queue (R125, R163, R753). -/
def sqId (s : State) (fn : Nat) (anyId : Bool) (wanted : Nat) : Except Status Nat :=
  if anyId then
    match pickFree (fnSqBase s fn) (fnSqCount s fn) (Config.handOut s.free) (s.cmds.sqs.map (·.id)) with
    | some q => .ok q
    | none => .error stNO_RESOURCE
  else if !sqInRange s fn wanted then .error stPROTECTION
  else if (findSq s wanted).isSome then .error stNO_RESOURCE
  else .ok wanted

/-- What refuses a CREATE_SQ, or its session, id and partition. -/
def sqPlace (s : State) (c : Cmd) (session : Word) (ring depth cq wanted part cls : Nat) (anyId inDevice : Bool) :
    Except Status (Session × Nat × Nat) :=
  match findSession s session with
  | none => .error stPROTECTION
  | some x =>
    if !mayName s c session then .error stPROTECTION
    else match findCq s cq with
      | none => .error stBAD_DESCRIPTOR
      | some y =>
        if y.session != session || !ringAllowed s session inDevice ring (64 * depth) then .error stPROTECTION
        else match sqPartition s x part cls with
          | .error st => .error st
          | .ok p =>
            if x.maxSq != 0 && decide (x.maxSq.toNat ≤ (s.cmds.sqs.filter (fun q => q.session == session)).length) then
              .error stNO_RESOURCE
            else match sqId s x.fn anyId wanted with
              | .error st => .error st
              | .ok q => .ok (x, q, p)

/-- CREATE_SQ (R163, R539, R753). -/
def execCreateSq (t : Nat) (c : Cmd) (session : Word) (ring : DWord) (depth : BitVec 17) (anyId inDevice : Bool)
    (cq : BitVec 16) (wanted : BitVec 18) (part : BitVec 8) (cls : BitVec 2) (s : State) : Out :=
  host s t c (okCreateSq ring depth part cls) (fun s =>
    orFail s c (sqPlace s c session ring.toNat depth.toNat cq.toNat wanted.toNat part.toNat cls.toNat anyId inDevice) (fun r =>
      let q : SubQueue := { id := r.2.1, session := session, fn := r.1.fn, ring := ring.toNat, inDevice := inDevice,
                            depth := depth.toNat, cq := cq.toNat, part := r.2.2, cls := cls.toNat, tail := 0, head := 0,
                            error := false, bells := [], placed := part == 0xFF }
      let s1 := takeFree s
      done { s1 with cmds := { s1.cmds with sqs := s1.cmds.sqs ++ [q] } } c stOK r.2.1))

end Sys2Proof.Machine
end

