-- ==== Sys2Proof/Machine/SyncExchange.lean ====
section
/-!
DEFINITION. Machine/SyncExchange.lean: the timing exchanges of a follower with its master, and the gain and loss of
cross-device lock (R57, R73–R78, R718).
-/
namespace Sys2Proof.Machine

/-! The exchange (R74, R718). -/

/-- SYNC_EXCHANGE_TIMER (R74, R718 step 1): a follower asks the master, with its departure stamp. -/
def execSyncExchangeTimer (t : Nat) (s : State) : Out :=
  event s t (fun s =>
    if !mainRuns s || s.sync.role != 2 then s
    else
      let d := s.sync.masterPeer.toNat
      let seq := s.ports.peer.seqs.getD d 0
      sendMessage { s with sync := { s.sync with request := some (seq.toNat, now s) } }
        { type := 5, dst := d, payload := leBytes 8 (now s) })

/-- SYNC_REQ_RX (R718 step 2): the master answers with the request's stamp, its own two and the request's residence sum. -/
def execSyncReqRx (t : Nat) (port : Nat) (header : List Word) (payload : Bytes) (depart : Nat) (s : State) : Out :=
  event s t (fun s => receive s port header payload 5 (fun s =>
    if s.sync.role ≠ 1 then s
    else sendMessage s { type := 6, dst := pmSrc header,
                         payload := leBytes 8 (numAt payload 0 8) ++ leBytes 8 (now s) ++ leBytes 8 depart ++ leBytes 8 (pmOffset header) }))

/-- The offset of a follower (R718), rounded down: positive when the master is ahead. -/
def syncOffset (t1 t2 t3 t4 aq as_ : Nat) : Int :=
  (((t2 : Int) - t1 - aq) - ((t4 : Int) - t3 - as_)) / 2

/-- Whether the deadline of a command is disarmed although it is outstanding: its solve is in its write-out (R270), or its
sequence has been admitted (R496). -/
def deadlineOff (s : State) (k : CmdKey) : Bool :=
  s.solver.engines.any (fun e => match e.run with
    | some r => r.writing && (match r.job.owner with | .command c => c.key == k | _ => false)
    | none => false)
  || s.loops.any (fun l => l.seqs.any (fun q => q.cmd.key == k && q.st != .waiting))

/-- The deadlines that are armed: those of outstanding commands, of the firmware's batches, and of the solves that wait or run
and are not in their write-out, but for those that have arrived. -/
def armedDeadlines (s : State) : List PhaseValue :=
  ((s.cmds.outstanding.filter (fun o => !o.done && !deadlineOff s o.cmd.key)).filterMap (fun o => o.cmd.deadline)
  ++ s.solver.batches.filterMap (fun b => b.cmd.deadline)
  ++ s.solver.engines.flatMap (fun e => e.waiting.filterMap (fun w => w.deadline)
    ++ (match e.run with | some r => if r.writing then [] else r.job.deadline.toList | none => []))).filter (fun d => !deadlineArrived s d)

/-- The targets of an etch that are armed: the commit point of an armed etch, and the arm_deadline that a fallback still waits
for (R114). -/
def etchTargets (e : Etch) : List PhaseValue :=
  (if e.st = .armed then [e.hdr.commitPoint] else [])
  ++ (if e.hdr.kind = 1 ∧ !e.deadlinePassed ∧ (e.st = .armed ∨ e.st = .replaced) then [e.hdr.armDeadline] else [])

/-- Whether a GTC-form target is armed here (R76). -/
def gtcArmed (s : State) : Bool :=
  (s.etch.etches.flatMap etchTargets ++ armedDeadlines s
    ++ s.ports.can.flatMap (fun p => p.queue.filterMap (fun f => f.point))).any pvIsGtc

/-- The removal of the offset of first lock (R75–R77): a follower behind steps both GTCs, one ahead holds them, one more than
1 s ahead records it; nothing while a GTC-form target is armed. The record of R77, like that of R78, names the Shell as its source,
the master's device number as its unit and the offset as its detail, which the rules leave open (DESIGN CHOICE, log entry 113). -/
def firstLock (s : State) (offset : Int) : State :=
  if gtcArmed s then s
  else if offset < -1000000000 then
    (if s.sync.leadFault then s
     else huskFault { s with sync := { s.sync with leadFault := true } } srcShell 0x0A s.sync.masterPeer.toNat 9 (wrapN 64 offset))
  else
    let s1 := { s with sync := { s.sync with stepped := true, good := 0 } }
    if 0 < offset then
      { s1 with phase := { s1.phase with gtc := s1.phase.gtc + offset.toNat, shadow := s1.phase.shadow + offset.toNat } }
    else { s1 with phase := { s1.phase with hold := some s1.phase.gtc } }

/-- A measured offset (R57, R73, R75, R78): its saturated value, the runs of exchanges within and beyond 8 ns, and the rate, which
is held after a loss of lock. -/
def measured (s : State) (offset : Int) : State :=
  let near := decide (-8 ≤ offset) && decide (offset ≤ 8)
  let cap := fun (n m : Nat) => min (n + 1) m
  { s with sync := { s.sync with
    request := none,
    offset := BitVec.ofInt 16 (clampI (-32767) 32767 offset),
    good := if near then BitVec.ofNat 5 (cap s.sync.good.toNat 16) else 0,
    bad := if near then 0 else BitVec.ofNat 3 (cap s.sync.bad.toNat 4),
    ratePpb := if s.sync.rateHeld then s.sync.ratePpb else clampI (-200000) 200000 (Config.steer offset s.sync.ratePpb) } }

/-- SYNC_RESP_RX (R718 step 3): the master's answer to the request that is open. -/
def execSyncRespRx (t : Nat) (port : Nat) (header : List Word) (payload : Bytes) (s : State) : Out :=
  event s t (fun s => receive s port header payload 6 (fun s =>
    match s.sync.request with
    | none => s
    | some r =>
      if s.sync.role ≠ 2 ∨ pmSrc header ≠ s.sync.masterPeer.toNat ∨ payload.length ≠ 32 ∨ numAt payload 0 8 ≠ r.2 then s
      else
        let o := syncOffset r.2 (numAt payload 8 8) (numAt payload 16 8) (now s) (numAt payload 24 8) (pmOffset header)
        let s1 := measured s o
        if !s1.sync.everLocked && !s1.sync.stepped && !s1.sync.leadFault && (decide (o < -8) || decide (8 < o)) then firstLock s1 o else s1))

/-! Lock (R73–R78). -/

/-- SYNC_LOCK_ACQUIRED (R73, R75–R77): 16 consecutive exchanges within 8 ns, and no lead beyond 1 s recorded since the Shell's
reset. At first lock an offset that has not been removed is removed now, or the follower stays unlocked. With no offset to remove,
R76 refuses nothing, and the follower locks whatever is armed (DESIGN CHOICE, log entry 114). -/
def execSyncLockAcquired (t : Nat) (s : State) : Out :=
  event s t (fun s =>
    if s.sync.role ≠ 2 ∨ s.sync.locked ∨ s.sync.leadFault ∨ s.sync.good.toNat < 16 then s
    else
      let lock := fun (s : State) => { s with sync := { s.sync with locked := true, everLocked := true, bad := 0, rateHeld := false } }
      if s.sync.everLocked ∨ s.sync.stepped ∨ s.sync.offset = 0 then lock s
      else if gtcArmed s then s
      else lock { firstLock s s.sync.offset.toInt with sync := { s.sync with stepped := true } })

/-- SYNC_LOCK_LOST (R78): 4 consecutive exchanges beyond 8 ns; the last rate is held until lock is regained or the master changes
(log entry 118). -/
def execSyncLockLost (t : Nat) (s : State) : Out :=
  event s t (fun s =>
    if s.sync.locked ∧ 4 ≤ s.sync.bad.toNat then
      let s1 := { s with sync := { s.sync with locked := false, good := 0, rateHeld := true } }
      raiseEvent (huskFault s1 srcShell 0x0A s.sync.masterPeer.toNat 9 s.sync.offset.toNat) evSYNC_LOST s.sync.offset.toNat
    else s)

/-- GTC_HOLD_END (R75): the master's time has reached the held GTCs, which count again. -/
def execGtcHoldEnd (t : Nat) (s : State) : Out :=
  .next (match s.phase.hold with
    | some _ => advance { s with phase := { s.phase with hold := none } } t
    | none => advance s t)

end Sys2Proof.Machine
end

