-- ==== Sys2Proof/Machine/Update.lean ====
section
/-!
DEFINITION. Machine/Update.lean: the commands of family 0x0C and the Plate boundary at which swaps take effect (R160, R169,
R285, R375, R512, R604–R606, R618–R622, R680).
-/
namespace Sys2Proof.Machine

/-- A command of family 0x0C (R169): refused without update permission; otherwise DEFERRED is posted and `body` goes on to
the final completion. -/
def update (s : State) (t : Nat) (c : Cmd) (ok : Bool) (body : State → State) : Out :=
  host s t c ok (fun s => if fnUpdate s (fnOf s c) then body (deferCmd s c) else done s c stPROTECTION)

/-! Images (R595, R604, R619). -/

/-- Whether a swap of a kind of firmware is under way, in which its slots must stand. -/
def swapping (s : State) (kind : Nat) : Bool :=
  if kind = 3 then s.boot.swap.isSome || s.boot.takeover.isSome else s.boot.shellSwap.isSome || s.boot.reboot.isSome

/-- Write an accepted image into the slot of its kind that the selector does not name. A reserved field that is not 0, or a field's
undefined value, answers BAD_DESCRIPTOR (R10, R11); any other image that boot code refuses answers PROTECTION (R595, R602). While a swap needs that slot as it stands the
load is refused with PROTECTION: R169 lists no other status (DESIGN CHOICE, log entry 125; so is a second swap). -/
def loadImage (s : State) (c : Cmd) (kind : Nat) (b : Bytes) : State :=
  if !biFieldsOk b then done s c stBAD_DESCRIPTOR
  else if !imageAccepted s kind b then done s c stPROTECTION
  else if swapping s kind then done s c stPROTECTION
  else { s with boot := { s.boot with writes := s.boot.writes ++
    [{ cmd := c, kind := kind, slotB := !(if kind = 2 then s.boot.shellB else selector s kind), image := b }] } }

/-- FW_LOAD (R169, R619). -/
def execFwLoad (t : Nat) (c : Cmd) (window : Word) (offset : DWord) (length : Word) (s : State) : Out :=
  update s t c true (fun s => orFail s c (unlisted (readWindow s c window offset.toNat length.toNat)) (fun b => loadImage s c 3 b))

/-- SHELL_FW_LOAD (R169, R604): Shell firmware, or a protection image. -/
def execShellFwLoad (t : Nat) (c : Cmd) (window : Word) (offset : DWord) (length : Word) (s : State) : Out :=
  update s t c true (fun s => orFail s c (unlisted (readWindow s c window offset.toNat length.toNat)) (fun b =>
    loadImage s c (if biKind b = 4 then 4 else 2) b))

/-- BOOT_FLASH_WRITE_DONE (R604, R619): the image stands in its slot; the result is the slot, or 2 for a protection image. -/
def execBootFlashWriteDone (t : Nat) (s : State) : Out :=
  event s t (fun s => match s.boot.writes with
    | [] => s
    | w :: rest =>
      let s1 := setImage { s with boot := { s.boot with writes := rest } } w.kind w.slotB w.image
      let s2 := { s1 with boot := { s1.boot with
        shellLoaded := s1.boot.shellLoaded || w.kind == 2, protLoaded := s1.boot.protLoaded || w.kind == 4 } }
      done s2 w.cmd stOK (if w.kind = 4 then 2 else slotCode w.slotB))

/-! Main firmware (R619). -/

/-- FW_SWAP (R169, R619): at the next Plate boundary. -/
def execFwSwap (t : Nat) (c : Cmd) (s : State) : Out :=
  update s t c true (fun s =>
    if swapping s 3 then done s c stPROTECTION
    else if !imageAccepted s 3 (bootSlot s 3 (!s.boot.flash.selMain)) then done s c stPROTECTION
    else { s with boot := { s.boot with swap := some c } })

/-- FIRMWARE_SWAP_TAKEOVER (R160, R619): the new image takes over. -/
def takeOver (s : State) : State :=
  match s.boot.swap with
  | none => s
  | some c => { s with
      boot := { s.boot with swap := none, takeover := some { cmd := c, at_ := now s } },
      hif := { s.hif with swapInProgress := true, fwSlotB := !s.boot.flash.selMain } }

/-- FW_SWAP_CONFIRM (R619): the new image has run for 10 ms with its heartbeat. -/
def execFwSwapConfirm (t : Nat) (s : State) : Out :=
  event s t (fun s => match s.boot.takeover with
    | none => s
    | some x =>
      if now s < x.at_ + 10000000 ∨ s.safety.heartbeat + protHeartbeat s ≤ now s then s
      else
        let new := s.hif.fwSlotB
        let s1 := setSelector { s with
          boot := { s.boot with takeover := none }, hif := { s.hif with swapInProgress := false } } 3 new
        let s2 := huskSwap s1 0 (!new) new 0 (bootSlot s1 3 new)
        done (raiseEvent s2 evFW_SWAPPED (slotCode new)) x.cmd stOK (slotCode new))

/-! Shell firmware and the protection set (R604–R606, R620). -/

/-- What the next SHELL_FW_SWAP changes: the protection set, the Shell firmware. -/
def swapChanges (s : State) : Bool × Bool := (s.boot.protLoaded, s.boot.shellLoaded || !s.boot.protLoaded)

/-- Whether a SHELL_FW_SWAP may go on (R169, R605). -/
def shellSwapOk (s : State) : Bool :=
  let p := swapChanges s
  let old := s.boot.shellB
  let image := bootSlot s 2 (if p.2 then !old else old)
  (!p.2 || imageAccepted s 2 image)
  && (if p.1 then protFits s (bootSlot s 4 (!s.boot.flash.selProt)) image else formatOk s image)

/-- SHELL_FW_SWAP (R169, R604, R605): at the next Plate boundary. -/
def execShellFwSwap (t : Nat) (c : Cmd) (s : State) : Out :=
  update s t c true (fun s =>
    if swapping s 2 then done s c stPROTECTION
    else if !shellSwapOk s then done s c stPROTECTION
    else { s with boot := { s.boot with shellSwap := some c } })

/-- A PROTECTION_REBOOT record (R611). -/
def huskReboot (s : State) : State :=
  let image := bootSlot s 4 (!s.boot.flash.selProt)
  huskRequest s 0x0D srcShell (leBytes 2 (protVersion s) ++ leBytes 2 (fld (ppWord (biPayload image) 0) 15 0)
    ++ (biDigest image).take 16)

/-- The trigger at a Plate boundary that carries out a SHELL_FW_SWAP (R604–R606, R620); while a safe state is in progress it
waits. -/
def rebootNow (s : State) : State :=
  match s.boot.shellSwap with
  | none => s
  | some c =>
    if s.safety.safe.isSome || s.safety.shellFault then s
    else
      let s1 := { s with boot := { s.boot with shellSwap := none } }
      if !shellSwapOk s then done s1 c stPROTECTION
      else
        let p := swapChanges s
        let s2 := { s1 with boot := { s1.boot with reboot := some { cmd := c, prot := p.1, shell := p.2, failed := false } } }
        enterSafe s2 srcShell (if p.1 then fun s _ => huskReboot s else huskSafeState srcShell)

/-- PLATE_BOUNDARY (R512): the start of a major cycle, or each 1,000,000 ticks of the default Plate. -/
def execPlateBoundary (t : Nat) (s : State) : Out :=
  event s t (fun s =>
    if s.plate.isDefault then
      if now s < s.plate.origin + 1000000 then s
      else
        let o := s.plate.origin + (now s - s.plate.origin) / 1000000 * 1000000
        rebootNow (takeOver { s with plate := { s.plate with origin := o } })
    else if !cyclesRun s then s
    else
      let count := phaseAt s (plateMajor s.plate.header) / 65536
      let k := (count + 2 ^ 48 - s.plate.origin % 2 ^ 48) % 2 ^ 48 / majorLen s
      rebootNow (takeOver { s with plate := { s.plate with cycles := BitVec.ofNat 32 (min k (2 ^ 32 - 1)) } }))

/-! Spares (R169, R284–R292, R374, R375, R621). -/

/-- SECTOR_REMAP (R169, R375) of a physical sector: it waits for the running route of the sector's partition. -/
def execSectorRemap (t : Nat) (c : Cmd) (sector : BitVec 5) (s : State) : Out :=
  update s t c (okRemap sector) (fun s => startRemap s sector.toNat c)

/-- ENGINE_SWAP (R169, R285–R290). -/
def execEngineSwap (t : Nat) (c : Cmd) (engine : BitVec 4) (s : State) : Out :=
  update s t c (okEngine engine) (fun s =>
    let e := namedEngine s c engine
    match spareEngine s with
    | none => done s c stNO_RESOURCE
    | some sp =>
      if (getEngine s e).mode != .active then done s c stNO_RESOURCE
      else swapEngine (fenceEngine s e) e sp (some c))

/-- SERVO_PAIR_DRAIN (R169, R329, R621): its channels move one by one; it is refused when the other pairs cannot take them. One that
comes while another pair is being drained waits for it (DESIGN CHOICE, log entry 138). -/
def execServoPairDrain (t : Nat) (c : Cmd) (pair : BitVec 2) (retire : Bool) (s : State) : Out :=
  update s t c true (fun s =>
    beginDrain s { cmd := c, pair := pair.toNat, retire := retire, moved := 0 })

/-- SPARE_STATUS (R169): posted at once, without DEFERRED. -/
def execSpareStatus (t : Nat) (c : Cmd) (s : State) : Out :=
  host s t c true (fun s =>
    if !fnUpdate s (fnOf s c) then done s c stPROTECTION
    else
      let left := (List.range 18).filter (sectorLeft s)
      let pairs := (s.servo.pairs.filter (fun p => p.retired)).length
      done s c stOK (left.length + (if (spareEngine s).isSome then 4 else 0) + pairs * 16))

/-! LPDDR training (R618, R680, R681). -/

/-- LPDDR_RETRAIN (R169, R618): one channel at a time. -/
def execLpddrRetrain (t : Nat) (c : Cmd) (channels : Word) (s : State) : Out :=
  update s t c true (fun s =>
    nextRetrains (beginRetrain s c ((List.range 32).filter (fun n => wbit channels n))))

/-- LPDDR_REFRESH (R618, R680): inside its window the channel that is being retrained takes one step. -/
def execLpddrRefresh (t channel : Nat) (s : State) : Out :=
  event s t (fun s =>
    let s1 := modLpddr s channel (fun x => { x with refreshes := x.refreshes + 1 })
    match s1.ports.retrain with
    | some (c, trained, n :: left) =>
      if n ≠ channel then s1
      else match (s1.ports.lpddr.getD n LpddrChannel.reset).retraining with
        | some (k + 2) => modLpddr s1 n (fun x => { x with retraining := some (k + 1) })
        | _ => nextRetrain (modLpddr s1 n (fun x => { x with retraining := none, retrains := satInc x.retrains })) c (trained + 1) left
    | _ => s1)

end Sys2Proof.Machine
end

