-- ==== Sys2Proof/Machine/Dispatch.lean ====
section
/-!
DEFINITION. Machine/Dispatch.lean: one arm per command, each one call of its meaning.
-/
namespace Sys2Proof.Machine
open Sys2Proof

def exec (i : Instr) (s : State) : Host.Outcome State Fault Refusal :=
  match i with
  | .identify t c selector => Sys2Proof.Machine.execIdentify t c selector s
  | .getHealth t c => Sys2Proof.Machine.execGetHealth t c s
  | .asyncEventRequest t c session => Sys2Proof.Machine.execAsyncEventRequest t c session s
  | .openSession t c share maxSq maxCq quota => Sys2Proof.Machine.execOpenSession t c share maxSq maxCq quota s
  | .closeSession t c session => Sys2Proof.Machine.execCloseSession t c session s
  | .setShare t c session share => Sys2Proof.Machine.execSetShare t c session share s
  | .getCounters t c session window offset => Sys2Proof.Machine.execGetCounters t c session window offset s
  | .createCq t c session ring depth inDevice vector coalCount coalTime => Sys2Proof.Machine.execCreateCq t c session ring depth inDevice vector coalCount coalTime s
  | .deleteCq t c cq => Sys2Proof.Machine.execDeleteCq t c cq s
  | .createSq t c session ring depth anyId inDevice cq wanted part cls => Sys2Proof.Machine.execCreateSq t c session ring depth anyId inDevice cq wanted part cls s
  | .deleteSq t c sq => Sys2Proof.Machine.execDeleteSq t c sq s
  | .abort t c sq cmd => Sys2Proof.Machine.execAbort t c sq cmd s
  | .etchStage t c window offset => Sys2Proof.Machine.execEtchStage t c window offset s
  | .etchArm t c etch => Sys2Proof.Machine.execEtchArm t c etch s
  | .etchStageArm t c window offset => Sys2Proof.Machine.execEtchStageArm t c window offset s
  | .etchAbort t c etch => Sys2Proof.Machine.execEtchAbort t c etch s
  | .etchQuery t c etch => Sys2Proof.Machine.execEtchQuery t c etch s
  | .etchArmInstant t etch => Sys2Proof.Machine.execEtchArmInstant t etch s
  | .abortInstant t cmd => Sys2Proof.Machine.execAbortInstant t cmd s
  | .etchCommit t point => Sys2Proof.Machine.execEtchCommit t point s
  | .fallbackArmDeadline t etch => Sys2Proof.Machine.execFallbackArmDeadline t etch s
  | .deadlineMatch t cmd => Sys2Proof.Machine.execDeadlineMatch t cmd s
  | .phaseEdge t source => Sys2Proof.Machine.execPhaseEdge t source s
  | .lidarIndexPulse t source => Sys2Proof.Machine.execLidarIndexPulse t source s
  | .quadStateChange t enc a b => Sys2Proof.Machine.execQuadStateChange t enc a b s
  | .encIndexEdge t enc => Sys2Proof.Machine.execEncIndexEdge t enc s
  | .serialEncReply t enc startAt data stop => Sys2Proof.Machine.execSerialEncReply t enc startAt data stop s
  | .serialReplyTimeout t enc => Sys2Proof.Machine.execSerialReplyTimeout t enc s
  | .phaseSourceStall t source => Sys2Proof.Machine.execPhaseSourceStall t source s
  | .motionCycleSync0 t => Sys2Proof.Machine.execMotionCycleSync0 t s
  | .mnetFrameTransmit t => Sys2Proof.Machine.execMnetFrameTransmit t s
  | .mnetFrameReturn t input workingCounter lineBreak badFcs => Sys2Proof.Machine.execMnetFrameReturn t input workingCounter lineBreak badFcs s
  | .mnetRxBoundExpiry t => Sys2Proof.Machine.execMnetRxBoundExpiry t s
  | .missLimitReached t => Sys2Proof.Machine.execMissLimitReached t s
  | .servoSample t channel => Sys2Proof.Machine.execServoSample t channel s
  | .followingErrorFault t channel => Sys2Proof.Machine.execFollowingErrorFault t channel s
  | .enablingTimeout t channel => Sys2Proof.Machine.execEnablingTimeout t channel s
  | .xcheckFault t channel => Sys2Proof.Machine.execXcheckFault t channel s
  | .pairLockstepMismatch t pair => Sys2Proof.Machine.execPairLockstepMismatch t pair s
  | .channelMove t channel pair => Sys2Proof.Machine.execChannelMove t channel pair s
  | .safetyConnectionFault t connection => Sys2Proof.Machine.execSafetyConnectionFault t connection s
  | .hifDoorbell t fn value => Sys2Proof.Machine.execHifDoorbell t fn value s
  | .hifCqHead t fn value => Sys2Proof.Machine.execHifCqHead t fn value s
  | .mailboxDoorbell t fn entry => Sys2Proof.Machine.execMailboxDoorbell t fn entry s
  | .bar0BadAccess t fn write offset size => Sys2Proof.Machine.execBar0BadAccess t fn write offset size s
  | .bar2Access t fn write offset size data => Sys2Proof.Machine.execBar2Access t fn write offset size data s
  | .registerWriteIgnored t fn offset value => Sys2Proof.Machine.execRegisterWriteIgnored t fn offset value s
  | .sqEntryFetch t sq => Sys2Proof.Machine.execSqEntryFetch t sq s
  | .completionPost t cq => Sys2Proof.Machine.execCompletionPost t cq s
  | .cqCoalesceTimer t cq => Sys2Proof.Machine.execCqCoalesceTimer t cq s
  | .memAlloc t c session bytes cls alignLog2 => Sys2Proof.Machine.execMemAlloc t c session bytes cls alignLog2 s
  | .memFree t c addr => Sys2Proof.Machine.execMemFree t c addr s
  | .windowOpen t c base length host bar2 writable => Sys2Proof.Machine.execWindowOpen t c base length host bar2 writable s
  | .windowClose t c window => Sys2Proof.Machine.execWindowClose t c window s
  | .dmaCopy t c src dst srcOff dstOff length qos => Sys2Proof.Machine.execDmaCopy t c src dst srcOff dstOff length qos s
  | .dmaFill t c window offset length pattern => Sys2Proof.Machine.execDmaFill t c window offset length pattern s
  | .dmaCrc t c window offset length => Sys2Proof.Machine.execDmaCrc t c window offset length s
  | .dmaTransferComplete t cmd outcome => Sys2Proof.Machine.execDmaTransferComplete t cmd outcome s
  | .plateLoad t c window offset length => Sys2Proof.Machine.execPlateLoad t c window offset length s
  | .plateUnload t c handle => Sys2Proof.Machine.execPlateUnload t c handle s
  | .plateStart t c handle => Sys2Proof.Machine.execPlateStart t c handle s
  | .plateStatus t c => Sys2Proof.Machine.execPlateStatus t c s
  | .sqMigrate t c sq part => Sys2Proof.Machine.execSqMigrate t c sq part s
  | .selftestStatus t c cls unit => Sys2Proof.Machine.execSelftestStatus t c cls unit s
  | .plateBoundary t => Sys2Proof.Machine.execPlateBoundary t s
  | .slotStart t slot => Sys2Proof.Machine.execSlotStart t slot s
  | .slotEnd t slot => Sys2Proof.Machine.execSlotEnd t slot s
  | .structLoad t c engine window offset length => Sys2Proof.Machine.execStructLoad t c engine window offset length s
  | .structUnload t c engine version => Sys2Proof.Machine.execStructUnload t c engine version s
  | .structQuery t c engine slot => Sys2Proof.Machine.execStructQuery t c engine slot s
  | .solve t c engine slot deltaWindow deltaOffset resultWindow resultOffset capacity => Sys2Proof.Machine.execSolve t c engine slot deltaWindow deltaOffset resultWindow resultOffset capacity s
  | .scenarioBatch t c window offset => Sys2Proof.Machine.execScenarioBatch t c window offset s
  | .solveDiagRead t c engine slot window offset capacity => Sys2Proof.Machine.execSolveDiagRead t c engine slot window offset capacity s
  | .engineStatus t c engine => Sys2Proof.Machine.execEngineStatus t c engine s
  | .solveStart t engine imageError => Sys2Proof.Machine.execSolveStart t engine imageError s
  | .solveWriteoutStart t engine => Sys2Proof.Machine.execSolveWriteoutStart t engine s
  | .solveComplete t engine => Sys2Proof.Machine.execSolveComplete t engine s
  | .engineOverrun t engine => Sys2Proof.Machine.execEngineOverrun t engine s
  | .engineFault t engine => Sys2Proof.Machine.execEngineFault t engine s
  | .spareEngineReady t => Sys2Proof.Machine.execSpareEngineReady t s
  | .tracerCheckBegin t => Sys2Proof.Machine.execTracerCheckBegin t s
  | .tracerCheckEnd t => Sys2Proof.Machine.execTracerCheckEnd t s
  | .tracerCheck t c window offset => Sys2Proof.Machine.execTracerCheck t c window offset s
  | .tracerKnownAnswerTest t failed => Sys2Proof.Machine.execTracerKnownAnswerTest t failed s
  | .servoNetConfig t c tCyc txShift rxBound missLimit => Sys2Proof.Machine.execServoNetConfig t c tCyc txShift rxBound missLimit s
  | .servoChannelConfig t c channel pair cfgWindow cfgOffset blkWindow blkOffset => Sys2Proof.Machine.execServoChannelConfig t c channel pair cfgWindow cfgOffset blkWindow blkOffset s
  | .servoEnable t c channel => Sys2Proof.Machine.execServoEnable t c channel s
  | .servoDisable t c channel => Sys2Proof.Machine.execServoDisable t c channel s
  | .servoClearFault t c channel => Sys2Proof.Machine.execServoClearFault t c channel s
  | .servoStatus t c channel => Sys2Proof.Machine.execServoStatus t c channel s
  | .servoGainsBasic t c channel window offset commitPoint => Sys2Proof.Machine.execServoGainsBasic t c channel window offset commitPoint s
  | .routeLoad t c window offset length => Sys2Proof.Machine.execRouteLoad t c window offset length s
  | .routeUnload t c handle => Sys2Proof.Machine.execRouteUnload t c handle s
  | .routeRun t c handle window offset => Sys2Proof.Machine.execRouteRun t c handle window offset s
  | .sectorMap t c sector => Sys2Proof.Machine.execSectorMap t c sector s
  | .fieldOp t c window offset => Sys2Proof.Machine.execFieldOp t c window offset s
  | .routeStart t part cmd => Sys2Proof.Machine.execRouteStart t part cmd s
  | .routeComplete t part => Sys2Proof.Machine.execRouteComplete t part s
  | .routeStallTimeout t part => Sys2Proof.Machine.execRouteStallTimeout t part s
  | .tilePublish t part sector queue => Sys2Proof.Machine.execTilePublish t part sector queue s
  | .tileRelease t part sector queue => Sys2Proof.Machine.execTileRelease t part sector queue s
  | .slotDetection t part sector queue kind => Sys2Proof.Machine.execSlotDetection t part sector queue kind s
  | .stepRerunLimitReached t part sector queue => Sys2Proof.Machine.execStepRerunLimitReached t part sector queue s
  | .sectorHeartbeatTimeout t sector => Sys2Proof.Machine.execSectorHeartbeatTimeout t sector s
  | .sectorFault t sector => Sys2Proof.Machine.execSectorFault t sector s
  | .spareSectorReady t logical => Sys2Proof.Machine.execSpareSectorReady t logical s
  | .spillOut t part => Sys2Proof.Machine.execSpillOut t part s
  | .spillRestore t part => Sys2Proof.Machine.execSpillRestore t part s
  | .serveConfig t c window offset => Sys2Proof.Machine.execServeConfig t c window offset s
  | .serveStop t c => Sys2Proof.Machine.execServeStop t c s
  | .serveStatus t c => Sys2Proof.Machine.execServeStatus t c s
  | .seqJoin t c window promptOffset promptTokens maxNew wait outWindow outOffset => Sys2Proof.Machine.execSeqJoin t c window promptOffset promptTokens maxNew wait outWindow outOffset s
  | .seqDraft t c sequence nodes length parents tokens => Sys2Proof.Machine.execSeqDraft t c sequence nodes length parents tokens s
  | .seqLeave t c sequence => Sys2Proof.Machine.execSeqLeave t c sequence s
  | .seqStatus t c sequence window offset => Sys2Proof.Machine.execSeqStatus t c sequence window offset s
  | .seqRecompute t c sequence => Sys2Proof.Machine.execSeqRecompute t c sequence s
  | .actionBind t c sequence engine slot stopEngine stopSlot limitSet chunkCount chunkExtra plateSlot => Sys2Proof.Machine.execActionBind t c sequence engine slot stopEngine stopSlot limitSet chunkCount chunkExtra plateSlot s
  | .stepBoundary t part => Sys2Proof.Machine.execStepBoundary t part s
  | .powerProfile t c state => Sys2Proof.Machine.execPowerProfile t c state s
  | .powerUnit t c unit state => Sys2Proof.Machine.execPowerUnit t c unit state s
  | .powerStatus t c window offset => Sys2Proof.Machine.execPowerStatus t c window offset s
  | .thermalSet t c threshold => Sys2Proof.Machine.execThermalSet t c threshold s
  | .unitDrainEnd t unit => Sys2Proof.Machine.execUnitDrainEnd t unit s
  | .powerTransitionComplete t unit => Sys2Proof.Machine.execPowerTransitionComplete t unit s
  | .thermalSample t readings => Sys2Proof.Machine.execThermalSample t readings s
  | .mainOn t value => Sys2Proof.Machine.execMainOn t value s
  | .safetyStatus t c window offset => Sys2Proof.Machine.execSafetyStatus t c window offset s
  | .safeStateRequest t c confirm => Sys2Proof.Machine.execSafeStateRequest t c confirm s
  | .safetyReset t c => Sys2Proof.Machine.execSafetyReset t c s
  | .cpHeartbeat t => Sys2Proof.Machine.execCpHeartbeat t s
  | .heartbeatTimeout t => Sys2Proof.Machine.execHeartbeatTimeout t s
  | .mainDomainResetRelease t => Sys2Proof.Machine.execMainDomainResetRelease t s
  | .restartWindowExpiry t => Sys2Proof.Machine.execRestartWindowExpiry t s
  | .stoDeadlineExpiry t => Sys2Proof.Machine.execStoDeadlineExpiry t s
  | .brakeDelayExpiry t => Sys2Proof.Machine.execBrakeDelayExpiry t s
  | .heldLimitReached t group => Sys2Proof.Machine.execHeldLimitReached t group s
  | .disagreeLimitReached t group => Sys2Proof.Machine.execDisagreeLimitReached t group s
  | .estopSample t a b => Sys2Proof.Machine.execEstopSample t a b s
  | .estopOpen t => Sys2Proof.Machine.execEstopOpen t s
  | .estopDiscrepancyTimeout t => Sys2Proof.Machine.execEstopDiscrepancyTimeout t s
  | .stoTestPulse t chanB => Sys2Proof.Machine.execStoTestPulse t chanB s
  | .outputReadbackFault t => Sys2Proof.Machine.execOutputReadbackFault t s
  | .shellClockFault t => Sys2Proof.Machine.execShellClockFault t s
  | .mainClockFault t => Sys2Proof.Machine.execMainClockFault t s
  | .mainSupplyFault t => Sys2Proof.Machine.execMainSupplyFault t s
  | .powerFailDetect t => Sys2Proof.Machine.execPowerFailDetect t s
  | .shellPowerUp t => Sys2Proof.Machine.execShellPowerUp t s
  | .shellPorstNPulse t => Sys2Proof.Machine.execShellPorstNPulse t s
  | .mainSupplyValid t => Sys2Proof.Machine.execMainSupplyValid t s
  | .mainSupplyUpTimeout t => Sys2Proof.Machine.execMainSupplyUpTimeout t s
  | .perstAssert t => Sys2Proof.Machine.execPerstAssert t s
  | .hostLinkLoss t => Sys2Proof.Machine.execHostLinkLoss t s
  | .functionLevelReset t fn => Sys2Proof.Machine.execFunctionLevelReset t fn s
  | .vfDisable t fn => Sys2Proof.Machine.execVfDisable t fn s
  | .jtagInstructionLoad t instr => Sys2Proof.Machine.execJtagInstructionLoad t instr s
  | .jtagTrst t => Sys2Proof.Machine.execJtagTrst t s
  | .huskRecordWrite t => Sys2Proof.Machine.execHuskRecordWrite t s
  | .huskMirrorCopy t => Sys2Proof.Machine.execHuskMirrorCopy t s
  | .hskRdSeqWrite t value => Sys2Proof.Machine.execHskRdSeqWrite t value s
  | .i3cTargetReset t => Sys2Proof.Machine.execI3cTargetReset t s
  | .huskStatus t c => Sys2Proof.Machine.execHuskStatus t c s
  | .huskRead t c first count window offset => Sys2Proof.Machine.execHuskRead t c first count window offset s
  | .protRead t c window offset => Sys2Proof.Machine.execProtRead t c window offset s
  | .fwLoad t c window offset length => Sys2Proof.Machine.execFwLoad t c window offset length s
  | .fwSwap t c => Sys2Proof.Machine.execFwSwap t c s
  | .fwSwapConfirm t => Sys2Proof.Machine.execFwSwapConfirm t s
  | .shellFwLoad t c window offset length => Sys2Proof.Machine.execShellFwLoad t c window offset length s
  | .shellFwSwap t c => Sys2Proof.Machine.execShellFwSwap t c s
  | .sectorRemap t c sector => Sys2Proof.Machine.execSectorRemap t c sector s
  | .engineSwap t c engine => Sys2Proof.Machine.execEngineSwap t c engine s
  | .servoPairDrain t c pair retire => Sys2Proof.Machine.execServoPairDrain t c pair retire s
  | .pairSelftestEnd t pair failed => Sys2Proof.Machine.execPairSelftestEnd t pair failed s
  | .lpddrRetrain t c channels => Sys2Proof.Machine.execLpddrRetrain t c channels s
  | .spareStatus t c => Sys2Proof.Machine.execSpareStatus t c s
  | .selftestQuantumStart t cls unit => Sys2Proof.Machine.execSelftestQuantumStart t cls unit s
  | .selftestQuantumEnd t cls unit failed => Sys2Proof.Machine.execSelftestQuantumEnd t cls unit failed s
  | .diagnosticIntervalEnd t => Sys2Proof.Machine.execDiagnosticIntervalEnd t s
  | .sliceFence t slice => Sys2Proof.Machine.execSliceFence t slice s
  | .sharedBufferScrub t slice => Sys2Proof.Machine.execSharedBufferScrub t slice s
  | .shellMemoryScrub t uncorrectable => Sys2Proof.Machine.execShellMemoryScrub t uncorrectable s
  | .lpddrRefresh t channel => Sys2Proof.Machine.execLpddrRefresh t channel s
  | .lpddrBurstRereadLimit t addr cmd => Sys2Proof.Machine.execLpddrBurstRereadLimit t addr cmd s
  | .lpddrDriftMeasure t channel drift => Sys2Proof.Machine.execLpddrDriftMeasure t channel drift s
  | .imprintConfig t c sq window offset entries enable => Sys2Proof.Machine.execImprintConfig t c sq window offset entries enable s
  | .weightDigest t c addr => Sys2Proof.Machine.execWeightDigest t c addr s
  | .imprintCompare t c window offsetA offsetB => Sys2Proof.Machine.execImprintCompare t c window offsetA offsetB s
  | .solveStateRead t c engine slot window offset => Sys2Proof.Machine.execSolveStateRead t c engine slot window offset s
  | .solveStateWrite t c engine slot window offset => Sys2Proof.Machine.execSolveStateWrite t c engine slot window offset s
  | .imprintWrite t => Sys2Proof.Machine.execImprintWrite t s
  | .peerStatus t c => Sys2Proof.Machine.execPeerStatus t c s
  | .peerWindowOpen t c window offset length devices writable readable => Sys2Proof.Machine.execPeerWindowOpen t c window offset length devices writable readable s
  | .peerWindowClose t c window => Sys2Proof.Machine.execPeerWindowClose t c window s
  | .peerWrite t c device peerWindow remoteOffset window localOffset length => Sys2Proof.Machine.execPeerWrite t c device peerWindow remoteOffset window localOffset length s
  | .peerRead t c device peerWindow remoteOffset window localOffset length => Sys2Proof.Machine.execPeerRead t c device peerWindow remoteOffset window localOffset length s
  | .ifStatus t c selector window offset => Sys2Proof.Machine.execIfStatus t c selector window offset s
  | .ingressConfig t c stream window offset => Sys2Proof.Machine.execIngressConfig t c stream window offset s
  | .encConfig t c input mode rate posBits triggerLog2 => Sys2Proof.Machine.execEncConfig t c input mode rate posBits triggerLog2 s
  | .mnetConfig t c window offset length found => Sys2Proof.Machine.execMnetConfig t c window offset length found s
  | .canConfig t c port window offset => Sys2Proof.Machine.execCanConfig t c port window offset s
  | .canSend t c port ident extended fd brs length data point => Sys2Proof.Machine.execCanSend t c port ident extended fd brs length data point s
  | .canSendMatch t cmd => Sys2Proof.Machine.execCanSendMatch t cmd s
  | .canFrameRx t port ident extended fd brs data => Sys2Proof.Machine.execCanFrameRx t port ident extended fd brs data s
  | .canBusOff t port => Sys2Proof.Machine.execCanBusOff t port s
  | .canBusOffRecovery t port => Sys2Proof.Machine.execCanBusOffRecovery t port s
  | .csi2FrameEnd t port vc packets => Sys2Proof.Machine.execCsi2FrameEnd t port vc packets s
  | .ethFragment t mac udp data => Sys2Proof.Machine.execEthFragment t mac udp data s
  | .peerWriteRx t port header payload => Sys2Proof.Machine.execPeerWriteRx t port header payload s
  | .peerAckRx t port header => Sys2Proof.Machine.execPeerAckRx t port header s
  | .peerReadReqRx t port header payload => Sys2Proof.Machine.execPeerReadReqRx t port header payload s
  | .peerReadDataRx t port header payload => Sys2Proof.Machine.execPeerReadDataRx t port header payload s
  | .syncReqRx t port header payload depart => Sys2Proof.Machine.execSyncReqRx t port header payload depart s
  | .syncRespRx t port header payload => Sys2Proof.Machine.execSyncRespRx t port header payload s
  | .syncLockAcquired t => Sys2Proof.Machine.execSyncLockAcquired t s
  | .syncLockLost t => Sys2Proof.Machine.execSyncLockLost t s
  | .gtcHoldEnd t => Sys2Proof.Machine.execGtcHoldEnd t s
  | .syncExchangeTimer t => Sys2Proof.Machine.execSyncExchangeTimer t s
  | .peerHelloRx t port header => Sys2Proof.Machine.execPeerHelloRx t port header s
  | .peerEventRx t port header payload => Sys2Proof.Machine.execPeerEventRx t port header payload s
  | .peerMessageForward t port header payload depart => Sys2Proof.Machine.execPeerMessageForward t port header payload depart s
  | .peerHelloTimer t port => Sys2Proof.Machine.execPeerHelloTimer t port s
  | .peerConnectionTimeout t port => Sys2Proof.Machine.execPeerConnectionTimeout t port s
  | .peerFlitReplay t port => Sys2Proof.Machine.execPeerFlitReplay t port s
  | .peerResendTimeout t device seq => Sys2Proof.Machine.execPeerResendTimeout t device seq s
  | .tracerLockstepMismatch t => Sys2Proof.Machine.execTracerLockstepMismatch t s
  | .safetyProcessorLockstepMismatch t => Sys2Proof.Machine.execSafetyProcessorLockstepMismatch t s
  | .gptpMessageRx t mac time synced => Sys2Proof.Machine.execGptpMessageRx t mac time synced s
  | .gateControlIntervalEnd t mac => Sys2Proof.Machine.execGateControlIntervalEnd t mac s
  | .hostDmaCompletionTimeout t cmd => Sys2Proof.Machine.execHostDmaCompletionTimeout t cmd s
  | .perstRelease t => Sys2Proof.Machine.execPerstRelease t s
  | .hashEngineComplete t => Sys2Proof.Machine.execHashEngineComplete t s
  | .bootFlashWriteDone t => Sys2Proof.Machine.execBootFlashWriteDone t s
  | .canFrameSent t port => Sys2Proof.Machine.execCanFrameSent t port s
  | .vhuskCharged t => Sys2Proof.Machine.execVhuskCharged t s
  | .msixVectorControlWrite t fn vector masked => Sys2Proof.Machine.execMsixVectorControlWrite t fn vector masked s

end Sys2Proof.Machine
end

