-- ==== Sys2Proof/Machine/Encode.lean ====
section
/-!
DEFINITION. Machine/Encode.lean: the submission entry that spells a command, written from the same tables as the decoder of
Machine/Operands.lean (R139 and the command tables of the chapters).
-/
namespace Sys2Proof.Machine

/-- A parameter word from its fields, each already at its place. -/
def packed (n : Nat) : Word := BitVec.ofNat 32 n
/-- The two words of a 64-bit parameter, low word first (R161). -/
def loWord (d : DWord) : Word := packed (d.toNat % 2 ^ 32)
def hiWord (d : DWord) : Word := packed (d.toNat / 2 ^ 32)

/-- An entry of 16 words: opcode and id, flags, deadline, parameters, and 0 in every other word (R10, R139). -/
def entry (c : Cmd) (opcode : Nat) (params : List Word) : Option (List Word) :=
  let d := c.deadline.getD ⟨0, 0, 0⟩
  let head : List Word := [packed (opcode * 2 ^ 16 + c.key.id.toNat),
    packed (c.quiet.toNat * 2 ^ 30 + c.expert.toNat * 2 ^ 29 + c.deadline.isSome.toNat * 2 ^ 28), d.w0, d.w1, d.w2]
  some (head ++ params ++ List.replicate (11 - params.length) 0)

/-- The entry of a command; none for an event, which no entry spells. -/
def encodeEntry (i : Instr) : Option (List Word) :=
  match i with
  | .identify _ c selector => entry c 0x0000 [selector]
  | .getHealth _ c => entry c 0x0001 []
  | .asyncEventRequest _ c session => entry c 0x0002 [session]
  | .openSession _ c share maxSq maxCq quota =>
      entry c 0x0100 [packed (share.toNat), packed (maxSq.toNat + maxCq.toNat * 2 ^ 16), loWord quota, hiWord quota]
  | .closeSession _ c session => entry c 0x0101 [session]
  | .setShare _ c session share => entry c 0x0102 [session, packed (share.toNat)]
  | .getCounters _ c session window offset => entry c 0x0103 [session, window, loWord offset, hiWord offset]
  | .createCq _ c session ring depth inDevice vector coalCount coalTime =>
      entry c 0x0110 [session, loWord ring, hiWord ring, packed (depth.toNat + inDevice.toNat * 2 ^ 31), packed
        (vector.toNat + coalCount.toNat * 2 ^ 16), packed (coalTime.toNat)]
  | .deleteCq _ c cq => entry c 0x0111 [packed (cq.toNat)]
  | .createSq _ c session ring depth anyId inDevice cq wanted part cls =>
      entry c 0x0112 [session, loWord ring, hiWord ring, packed (depth.toNat + anyId.toNat * 2 ^ 30 + inDevice.toNat * 2
        ^ 31), packed (cq.toNat), packed (wanted.toNat), packed (part.toNat + cls.toNat * 2 ^ 8)]
  | .deleteSq _ c sq => entry c 0x0113 [packed (sq.toNat)]
  | .abort _ c sq cmd => entry c 0x0114 [packed (sq.toNat), packed (cmd.toNat)]
  | .etchStage _ c window offset => entry c 0x0200 [window, loWord offset, hiWord offset]
  | .etchArm _ c etch => entry c 0x0201 [packed (etch.toNat)]
  | .etchStageArm _ c window offset => entry c 0x0202 [window, loWord offset, hiWord offset]
  | .etchAbort _ c etch => entry c 0x0203 [packed (etch.toNat)]
  | .etchQuery _ c etch => entry c 0x0204 [packed (etch.toNat)]
  | .memAlloc _ c session bytes cls alignLog2 =>
      entry c 0x0800 [session, loWord bytes, hiWord bytes, packed (cls.toNat + alignLog2.toNat * 2 ^ 8)]
  | .memFree _ c addr => entry c 0x0801 [loWord addr, hiWord addr]
  | .windowOpen _ c base length host bar2 writable =>
      entry c 0x0802 [loWord base, hiWord base, loWord length, hiWord length, packed (host.toNat + bar2.toNat * 2 ^ 1 +
        writable.toNat * 2 ^ 2)]
  | .windowClose _ c window => entry c 0x0803 [window]
  | .dmaCopy _ c src dst srcOff dstOff length qos =>
      entry c 0x0810 [src, dst, loWord srcOff, hiWord srcOff, loWord dstOff, hiWord dstOff, loWord length, hiWord
        length, packed (qos.toNat)]
  | .dmaFill _ c window offset length pattern =>
      entry c 0x0811 [window, loWord offset, hiWord offset, loWord length, hiWord length, pattern]
  | .dmaCrc _ c window offset length => entry c 0x0812 [window, loWord offset, hiWord offset, loWord length, hiWord length]
  | .plateLoad _ c window offset length => entry c 0x0300 [window, loWord offset, hiWord offset, length]
  | .plateUnload _ c handle => entry c 0x0301 [loWord handle, hiWord handle]
  | .plateStart _ c handle => entry c 0x0302 [loWord handle, hiWord handle]
  | .plateStatus _ c => entry c 0x0303 []
  | .sqMigrate _ c sq part => entry c 0x0310 [packed (sq.toNat), packed (part.toNat)]
  | .selftestStatus _ c cls unit => entry c 0x0320 [packed (cls.toNat + unit.toNat * 2 ^ 8)]
  | .structLoad _ c engine window offset length =>
      entry c 0x0400 [packed (engine.toNat), window, loWord offset, hiWord offset, length]
  | .structUnload _ c engine version => entry c 0x0401 [packed (engine.toNat), packed (version.toNat)]
  | .structQuery _ c engine slot => entry c 0x0402 [packed (engine.toNat + slot.toNat * 2 ^ 4)]
  | .solve _ c engine slot deltaWindow deltaOffset resultWindow resultOffset capacity =>
      entry c 0x0403 [packed (engine.toNat + slot.toNat * 2 ^ 4), deltaWindow, loWord deltaOffset, hiWord deltaOffset,
        resultWindow, loWord resultOffset, hiWord resultOffset, packed (capacity.toNat)]
  | .scenarioBatch _ c window offset => entry c 0x0410 [window, loWord offset, hiWord offset]
  | .solveDiagRead _ c engine slot window offset capacity =>
      entry c 0x0411 [packed (engine.toNat + slot.toNat * 2 ^ 4), window, loWord offset, hiWord offset, packed (capacity.toNat)]
  | .engineStatus _ c engine => entry c 0x0412 [packed (engine.toNat)]
  | .tracerCheck _ c window offset => entry c 0x0A01 [window, loWord offset, hiWord offset]
  | .servoNetConfig _ c tCyc txShift rxBound missLimit => entry c 0x0500 [tCyc, txShift, rxBound, packed (missLimit.toNat)]
  | .servoChannelConfig _ c channel pair cfgWindow cfgOffset blkWindow blkOffset =>
      entry c 0x0501 [packed (channel.toNat + pair.toNat * 2 ^ 8), cfgWindow, loWord cfgOffset, hiWord cfgOffset,
        blkWindow, loWord blkOffset, hiWord blkOffset]
  | .servoEnable _ c channel => entry c 0x0502 [packed (channel.toNat)]
  | .servoDisable _ c channel => entry c 0x0503 [packed (channel.toNat)]
  | .servoClearFault _ c channel => entry c 0x0504 [packed (channel.toNat)]
  | .servoStatus _ c channel => entry c 0x0505 [packed (channel.toNat)]
  | .servoGainsBasic _ c channel window offset commitPoint =>
      entry c 0x0506 [packed (channel.toNat), window, loWord offset, hiWord offset, commitPoint.w0, commitPoint.w1,
        commitPoint.w2]
  | .routeLoad _ c window offset length => entry c 0x0600 [window, loWord offset, hiWord offset, length]
  | .routeUnload _ c handle => entry c 0x0601 [packed (handle.toNat)]
  | .routeRun _ c handle window offset => entry c 0x0602 [packed (handle.toNat), window, loWord offset, hiWord offset]
  | .sectorMap _ c sector => entry c 0x0603 [packed (sector.toNat)]
  | .fieldOp _ c window offset => entry c 0x0610 [window, loWord offset, hiWord offset]
  | .serveConfig _ c window offset => entry c 0x0700 [window, loWord offset, hiWord offset]
  | .serveStop _ c => entry c 0x0701 []
  | .serveStatus _ c => entry c 0x0702 []
  | .seqJoin _ c window promptOffset promptTokens maxNew wait outWindow outOffset =>
      entry c 0x0710 [window, loWord promptOffset, hiWord promptOffset, packed (promptTokens.toNat), packed
        (maxNew.toNat + wait.toNat * 2 ^ 16), outWindow, loWord outOffset, hiWord outOffset]
  | .seqDraft _ c sequence nodes length parents tokens =>
      entry c 0x0711 [sequence, packed (nodes.toNat + length.toNat * 2 ^ 14), parents, (wat tokens 0), (wat tokens 1),
        (wat tokens 2), (wat tokens 3), (wat tokens 4), (wat tokens 5), (wat tokens 6)]
  | .seqLeave _ c sequence => entry c 0x0712 [sequence]
  | .seqStatus _ c sequence window offset => entry c 0x0713 [sequence, window, loWord offset, hiWord offset]
  | .seqRecompute _ c sequence => entry c 0x0714 [sequence]
  | .actionBind _ c sequence engine slot stopEngine stopSlot limitSet chunkCount chunkExtra plateSlot =>
      entry c 0x0720 [sequence, packed (engine.toNat + slot.toNat * 2 ^ 4 + stopEngine.toNat * 2 ^ 8 + stopSlot.toNat *
        2 ^ 12 + limitSet.toNat * 2 ^ 16), packed (chunkCount.toNat + chunkExtra.toNat * 2 ^ 8), packed
        (plateSlot.toNat)]
  | .powerProfile _ c state => entry c 0x0900 [packed (state.toNat)]
  | .powerUnit _ c unit state => entry c 0x0901 [packed (unit.toNat), packed (state.toNat)]
  | .powerStatus _ c window offset => entry c 0x0902 [window, loWord offset, hiWord offset]
  | .thermalSet _ c threshold => entry c 0x0903 [packed (threshold.toNat)]
  | .safetyStatus _ c window offset => entry c 0x0A00 [window, loWord offset, hiWord offset]
  | .safeStateRequest _ c confirm => entry c 0x0A02 [packed (confirm.toNat)]
  | .safetyReset _ c => entry c 0x0A03 []
  | .huskStatus _ c => entry c 0x0B00 []
  | .huskRead _ c first count window offset =>
      entry c 0x0B01 [first, packed (count.toNat), window, loWord offset, hiWord offset]
  | .protRead _ c window offset => entry c 0x0B02 [window, loWord offset, hiWord offset]
  | .fwLoad _ c window offset length => entry c 0x0C00 [window, loWord offset, hiWord offset, length]
  | .fwSwap _ c => entry c 0x0C01 []
  | .shellFwLoad _ c window offset length => entry c 0x0C02 [window, loWord offset, hiWord offset, length]
  | .shellFwSwap _ c => entry c 0x0C03 []
  | .sectorRemap _ c sector => entry c 0x0C10 [packed (sector.toNat)]
  | .engineSwap _ c engine => entry c 0x0C11 [packed (engine.toNat)]
  | .servoPairDrain _ c pair retire => entry c 0x0C12 [packed (pair.toNat + retire.toNat * 2 ^ 8)]
  | .lpddrRetrain _ c channels => entry c 0x0C13 [channels]
  | .spareStatus _ c => entry c 0x0C14 []
  | .imprintConfig _ c sq window offset entries enable =>
      entry c 0x0D00 [packed (sq.toNat), window, loWord offset, hiWord offset, packed (entries.toNat + enable.toNat * 2 ^ 16)]
  | .weightDigest _ c addr => entry c 0x0D01 [loWord addr, hiWord addr]
  | .imprintCompare _ c window offsetA offsetB =>
      entry c 0x0D02 [window, loWord offsetA, hiWord offsetA, loWord offsetB, hiWord offsetB]
  | .solveStateRead _ c engine slot window offset =>
      entry c 0x0D03 [packed (engine.toNat + slot.toNat * 2 ^ 4), window, loWord offset, hiWord offset]
  | .solveStateWrite _ c engine slot window offset =>
      entry c 0x0D04 [packed (engine.toNat + slot.toNat * 2 ^ 4), window, loWord offset, hiWord offset]
  | .peerStatus _ c => entry c 0x0E00 []
  | .peerWindowOpen _ c window offset length devices writable readable =>
      entry c 0x0E01 [window, loWord offset, hiWord offset, loWord length, hiWord length, packed (devices.toNat +
        writable.toNat * 2 ^ 4 + readable.toNat * 2 ^ 5)]
  | .peerWindowClose _ c window => entry c 0x0E02 [packed (window.toNat)]
  | .peerWrite _ c device peerWindow remoteOffset window localOffset length =>
      entry c 0x0E03 [packed (device.toNat), packed (peerWindow.toNat), loWord remoteOffset, hiWord remoteOffset,
        window, loWord localOffset, hiWord localOffset, loWord length, hiWord length]
  | .peerRead _ c device peerWindow remoteOffset window localOffset length =>
      entry c 0x0E04 [packed (device.toNat), packed (peerWindow.toNat), loWord remoteOffset, hiWord remoteOffset,
        window, loWord localOffset, hiWord localOffset, loWord length, hiWord length]
  | .ifStatus _ c selector window offset => entry c 0x0E10 [selector, window, loWord offset, hiWord offset]
  | .ingressConfig _ c stream window offset => entry c 0x0E20 [packed (stream.toNat), window, loWord offset, hiWord offset]
  | .encConfig _ c input mode rate posBits triggerLog2 =>
      entry c 0x0E21 [packed (input.toNat), packed (mode.toNat + rate.toNat * 2 ^ 2 + posBits.toNat * 2 ^ 4 +
        triggerLog2.toNat * 2 ^ 10)]
  | .mnetConfig _ c window offset length _ => entry c 0x0E22 [window, loWord offset, hiWord offset, length]
  | .canConfig _ c port window offset => entry c 0x0E30 [packed (port.toNat), window, loWord offset, hiWord offset]
  | .canSend _ c port ident extended fd brs length data point =>
      entry c 0x0E31 [packed (port.toNat), packed (ident.toNat + extended.toNat * 2 ^ 29 + fd.toNat * 2 ^ 30 + brs.toNat
        * 2 ^ 31), packed (length.toNat), loWord data, hiWord data, point.w0, point.w1, point.w2]
  | .etchArmInstant _ _ => none
  | .abortInstant _ _ => none
  | .etchCommit _ _ => none
  | .fallbackArmDeadline _ _ => none
  | .deadlineMatch _ _ => none
  | .phaseEdge _ _ => none
  | .lidarIndexPulse _ _ => none
  | .quadStateChange _ _ _ _ => none
  | .encIndexEdge _ _ => none
  | .serialEncReply _ _ _ _ _ => none
  | .serialReplyTimeout _ _ => none
  | .phaseSourceStall _ _ => none
  | .motionCycleSync0 _ => none
  | .mnetFrameTransmit _ => none
  | .mnetFrameReturn _ _ _ _ _ => none
  | .mnetRxBoundExpiry _ => none
  | .missLimitReached _ => none
  | .servoSample _ _ => none
  | .followingErrorFault _ _ => none
  | .enablingTimeout _ _ => none
  | .xcheckFault _ _ => none
  | .pairLockstepMismatch _ _ => none
  | .channelMove _ _ _ => none
  | .safetyConnectionFault _ _ => none
  | .hifDoorbell _ _ _ => none
  | .hifCqHead _ _ _ => none
  | .mailboxDoorbell _ _ _ => none
  | .bar0BadAccess _ _ _ _ _ => none
  | .bar2Access _ _ _ _ _ _ => none
  | .registerWriteIgnored _ _ _ _ => none
  | .sqEntryFetch _ _ => none
  | .completionPost _ _ => none
  | .cqCoalesceTimer _ _ => none
  | .dmaTransferComplete _ _ _ => none
  | .plateBoundary _ => none
  | .slotStart _ _ => none
  | .slotEnd _ _ => none
  | .solveStart _ _ _ => none
  | .solveWriteoutStart _ _ => none
  | .solveComplete _ _ => none
  | .engineOverrun _ _ => none
  | .engineFault _ _ => none
  | .spareEngineReady _ => none
  | .tracerCheckBegin _ => none
  | .tracerCheckEnd _ => none
  | .tracerKnownAnswerTest _ _ => none
  | .routeStart _ _ _ => none
  | .routeComplete _ _ => none
  | .routeStallTimeout _ _ => none
  | .tilePublish _ _ _ _ => none
  | .tileRelease _ _ _ _ => none
  | .slotDetection _ _ _ _ _ => none
  | .stepRerunLimitReached _ _ _ _ => none
  | .sectorHeartbeatTimeout _ _ => none
  | .sectorFault _ _ => none
  | .spareSectorReady _ _ => none
  | .spillOut _ _ => none
  | .spillRestore _ _ => none
  | .stepBoundary _ _ => none
  | .unitDrainEnd _ _ => none
  | .powerTransitionComplete _ _ => none
  | .thermalSample _ _ => none
  | .mainOn _ _ => none
  | .cpHeartbeat _ => none
  | .heartbeatTimeout _ => none
  | .mainDomainResetRelease _ => none
  | .restartWindowExpiry _ => none
  | .stoDeadlineExpiry _ => none
  | .brakeDelayExpiry _ => none
  | .heldLimitReached _ _ => none
  | .disagreeLimitReached _ _ => none
  | .estopSample _ _ _ => none
  | .estopOpen _ => none
  | .estopDiscrepancyTimeout _ => none
  | .stoTestPulse _ _ => none
  | .outputReadbackFault _ => none
  | .shellClockFault _ => none
  | .mainClockFault _ => none
  | .mainSupplyFault _ => none
  | .powerFailDetect _ => none
  | .shellPowerUp _ => none
  | .shellPorstNPulse _ => none
  | .mainSupplyValid _ => none
  | .mainSupplyUpTimeout _ => none
  | .perstAssert _ => none
  | .hostLinkLoss _ => none
  | .functionLevelReset _ _ => none
  | .vfDisable _ _ => none
  | .jtagInstructionLoad _ _ => none
  | .jtagTrst _ => none
  | .huskRecordWrite _ => none
  | .huskMirrorCopy _ => none
  | .hskRdSeqWrite _ _ => none
  | .i3cTargetReset _ => none
  | .fwSwapConfirm _ => none
  | .pairSelftestEnd _ _ _ => none
  | .selftestQuantumStart _ _ _ => none
  | .selftestQuantumEnd _ _ _ _ => none
  | .diagnosticIntervalEnd _ => none
  | .sliceFence _ _ => none
  | .sharedBufferScrub _ _ => none
  | .shellMemoryScrub _ _ => none
  | .lpddrRefresh _ _ => none
  | .lpddrBurstRereadLimit _ _ _ => none
  | .lpddrDriftMeasure _ _ _ => none
  | .imprintWrite _ => none
  | .canSendMatch _ _ => none
  | .canFrameRx _ _ _ _ _ _ _ => none
  | .canBusOff _ _ => none
  | .canBusOffRecovery _ _ => none
  | .csi2FrameEnd _ _ _ _ => none
  | .ethFragment _ _ _ _ => none
  | .peerWriteRx _ _ _ _ => none
  | .peerAckRx _ _ _ => none
  | .peerReadReqRx _ _ _ _ => none
  | .peerReadDataRx _ _ _ _ => none
  | .syncReqRx _ _ _ _ _ => none
  | .syncRespRx _ _ _ _ => none
  | .syncLockAcquired _ => none
  | .syncLockLost _ => none
  | .gtcHoldEnd _ => none
  | .syncExchangeTimer _ => none
  | .peerHelloRx _ _ _ => none
  | .peerEventRx _ _ _ _ => none
  | .peerMessageForward _ _ _ _ _ => none
  | .peerHelloTimer _ _ => none
  | .peerConnectionTimeout _ _ => none
  | .peerFlitReplay _ _ => none
  | .peerResendTimeout _ _ _ => none
  | .tracerLockstepMismatch _ => none
  | .safetyProcessorLockstepMismatch _ => none
  | .gptpMessageRx _ _ _ _ => none
  | .gateControlIntervalEnd _ _ => none
  | .hostDmaCompletionTimeout _ _ => none
  | .perstRelease _ => none
  | .hashEngineComplete _ => none
  | .bootFlashWriteDone _ => none
  | .canFrameSent _ _ => none
  | .vhuskCharged _ => none
  | .msixVectorControlWrite _ _ _ _ => none

/-- The tick of a command or an event. -/
def stampOf (i : Instr) : Nat :=
  match i with
  | .identify t _ _ => t
  | .getHealth t _ => t
  | .asyncEventRequest t _ _ => t
  | .openSession t _ _ _ _ _ => t
  | .closeSession t _ _ => t
  | .setShare t _ _ _ => t
  | .getCounters t _ _ _ _ => t
  | .createCq t _ _ _ _ _ _ _ _ => t
  | .deleteCq t _ _ => t
  | .createSq t _ _ _ _ _ _ _ _ _ _ => t
  | .deleteSq t _ _ => t
  | .abort t _ _ _ => t
  | .etchStage t _ _ _ => t
  | .etchArm t _ _ => t
  | .etchStageArm t _ _ _ => t
  | .etchAbort t _ _ => t
  | .etchQuery t _ _ => t
  | .etchArmInstant t _ => t
  | .abortInstant t _ => t
  | .etchCommit t _ => t
  | .fallbackArmDeadline t _ => t
  | .deadlineMatch t _ => t
  | .phaseEdge t _ => t
  | .lidarIndexPulse t _ => t
  | .quadStateChange t _ _ _ => t
  | .encIndexEdge t _ => t
  | .serialEncReply t _ _ _ _ => t
  | .serialReplyTimeout t _ => t
  | .phaseSourceStall t _ => t
  | .motionCycleSync0 t => t
  | .mnetFrameTransmit t => t
  | .mnetFrameReturn t _ _ _ _ => t
  | .mnetRxBoundExpiry t => t
  | .missLimitReached t => t
  | .servoSample t _ => t
  | .followingErrorFault t _ => t
  | .enablingTimeout t _ => t
  | .xcheckFault t _ => t
  | .pairLockstepMismatch t _ => t
  | .channelMove t _ _ => t
  | .safetyConnectionFault t _ => t
  | .hifDoorbell t _ _ => t
  | .hifCqHead t _ _ => t
  | .mailboxDoorbell t _ _ => t
  | .bar0BadAccess t _ _ _ _ => t
  | .bar2Access t _ _ _ _ _ => t
  | .registerWriteIgnored t _ _ _ => t
  | .sqEntryFetch t _ => t
  | .completionPost t _ => t
  | .cqCoalesceTimer t _ => t
  | .memAlloc t _ _ _ _ _ => t
  | .memFree t _ _ => t
  | .windowOpen t _ _ _ _ _ _ => t
  | .windowClose t _ _ => t
  | .dmaCopy t _ _ _ _ _ _ _ => t
  | .dmaFill t _ _ _ _ _ => t
  | .dmaCrc t _ _ _ _ => t
  | .dmaTransferComplete t _ _ => t
  | .plateLoad t _ _ _ _ => t
  | .plateUnload t _ _ => t
  | .plateStart t _ _ => t
  | .plateStatus t _ => t
  | .sqMigrate t _ _ _ => t
  | .selftestStatus t _ _ _ => t
  | .plateBoundary t => t
  | .slotStart t _ => t
  | .slotEnd t _ => t
  | .structLoad t _ _ _ _ _ => t
  | .structUnload t _ _ _ => t
  | .structQuery t _ _ _ => t
  | .solve t _ _ _ _ _ _ _ _ => t
  | .scenarioBatch t _ _ _ => t
  | .solveDiagRead t _ _ _ _ _ _ => t
  | .engineStatus t _ _ => t
  | .solveStart t _ _ => t
  | .solveWriteoutStart t _ => t
  | .solveComplete t _ => t
  | .engineOverrun t _ => t
  | .engineFault t _ => t
  | .spareEngineReady t => t
  | .tracerCheckBegin t => t
  | .tracerCheckEnd t => t
  | .tracerCheck t _ _ _ => t
  | .tracerKnownAnswerTest t _ => t
  | .servoNetConfig t _ _ _ _ _ => t
  | .servoChannelConfig t _ _ _ _ _ _ _ => t
  | .servoEnable t _ _ => t
  | .servoDisable t _ _ => t
  | .servoClearFault t _ _ => t
  | .servoStatus t _ _ => t
  | .servoGainsBasic t _ _ _ _ _ => t
  | .routeLoad t _ _ _ _ => t
  | .routeUnload t _ _ => t
  | .routeRun t _ _ _ _ => t
  | .sectorMap t _ _ => t
  | .fieldOp t _ _ _ => t
  | .routeStart t _ _ => t
  | .routeComplete t _ => t
  | .routeStallTimeout t _ => t
  | .tilePublish t _ _ _ => t
  | .tileRelease t _ _ _ => t
  | .slotDetection t _ _ _ _ => t
  | .stepRerunLimitReached t _ _ _ => t
  | .sectorHeartbeatTimeout t _ => t
  | .sectorFault t _ => t
  | .spareSectorReady t _ => t
  | .spillOut t _ => t
  | .spillRestore t _ => t
  | .serveConfig t _ _ _ => t
  | .serveStop t _ => t
  | .serveStatus t _ => t
  | .seqJoin t _ _ _ _ _ _ _ _ => t
  | .seqDraft t _ _ _ _ _ _ => t
  | .seqLeave t _ _ => t
  | .seqStatus t _ _ _ _ => t
  | .seqRecompute t _ _ => t
  | .actionBind t _ _ _ _ _ _ _ _ _ _ => t
  | .stepBoundary t _ => t
  | .powerProfile t _ _ => t
  | .powerUnit t _ _ _ => t
  | .powerStatus t _ _ _ => t
  | .thermalSet t _ _ => t
  | .unitDrainEnd t _ => t
  | .powerTransitionComplete t _ => t
  | .thermalSample t _ => t
  | .mainOn t _ => t
  | .safetyStatus t _ _ _ => t
  | .safeStateRequest t _ _ => t
  | .safetyReset t _ => t
  | .cpHeartbeat t => t
  | .heartbeatTimeout t => t
  | .mainDomainResetRelease t => t
  | .restartWindowExpiry t => t
  | .stoDeadlineExpiry t => t
  | .brakeDelayExpiry t => t
  | .heldLimitReached t _ => t
  | .disagreeLimitReached t _ => t
  | .estopSample t _ _ => t
  | .estopOpen t => t
  | .estopDiscrepancyTimeout t => t
  | .stoTestPulse t _ => t
  | .outputReadbackFault t => t
  | .shellClockFault t => t
  | .mainClockFault t => t
  | .mainSupplyFault t => t
  | .powerFailDetect t => t
  | .shellPowerUp t => t
  | .shellPorstNPulse t => t
  | .mainSupplyValid t => t
  | .mainSupplyUpTimeout t => t
  | .perstAssert t => t
  | .hostLinkLoss t => t
  | .functionLevelReset t _ => t
  | .vfDisable t _ => t
  | .jtagInstructionLoad t _ => t
  | .jtagTrst t => t
  | .huskRecordWrite t => t
  | .huskMirrorCopy t => t
  | .hskRdSeqWrite t _ => t
  | .i3cTargetReset t => t
  | .huskStatus t _ => t
  | .huskRead t _ _ _ _ _ => t
  | .protRead t _ _ _ => t
  | .fwLoad t _ _ _ _ => t
  | .fwSwap t _ => t
  | .fwSwapConfirm t => t
  | .shellFwLoad t _ _ _ _ => t
  | .shellFwSwap t _ => t
  | .sectorRemap t _ _ => t
  | .engineSwap t _ _ => t
  | .servoPairDrain t _ _ _ => t
  | .pairSelftestEnd t _ _ => t
  | .lpddrRetrain t _ _ => t
  | .spareStatus t _ => t
  | .selftestQuantumStart t _ _ => t
  | .selftestQuantumEnd t _ _ _ => t
  | .diagnosticIntervalEnd t => t
  | .sliceFence t _ => t
  | .sharedBufferScrub t _ => t
  | .shellMemoryScrub t _ => t
  | .lpddrRefresh t _ => t
  | .lpddrBurstRereadLimit t _ _ => t
  | .lpddrDriftMeasure t _ _ => t
  | .imprintConfig t _ _ _ _ _ _ => t
  | .weightDigest t _ _ => t
  | .imprintCompare t _ _ _ _ => t
  | .solveStateRead t _ _ _ _ _ => t
  | .solveStateWrite t _ _ _ _ _ => t
  | .imprintWrite t => t
  | .peerStatus t _ => t
  | .peerWindowOpen t _ _ _ _ _ _ _ => t
  | .peerWindowClose t _ _ => t
  | .peerWrite t _ _ _ _ _ _ _ => t
  | .peerRead t _ _ _ _ _ _ _ => t
  | .ifStatus t _ _ _ _ => t
  | .ingressConfig t _ _ _ _ => t
  | .encConfig t _ _ _ _ _ _ => t
  | .mnetConfig t _ _ _ _ _ => t
  | .canConfig t _ _ _ _ => t
  | .canSend t _ _ _ _ _ _ _ _ _ => t
  | .canSendMatch t _ => t
  | .canFrameRx t _ _ _ _ _ _ => t
  | .canBusOff t _ => t
  | .canBusOffRecovery t _ => t
  | .csi2FrameEnd t _ _ _ => t
  | .ethFragment t _ _ _ => t
  | .peerWriteRx t _ _ _ => t
  | .peerAckRx t _ _ => t
  | .peerReadReqRx t _ _ _ => t
  | .peerReadDataRx t _ _ _ => t
  | .syncReqRx t _ _ _ _ => t
  | .syncRespRx t _ _ _ => t
  | .syncLockAcquired t => t
  | .syncLockLost t => t
  | .gtcHoldEnd t => t
  | .syncExchangeTimer t => t
  | .peerHelloRx t _ _ => t
  | .peerEventRx t _ _ _ => t
  | .peerMessageForward t _ _ _ _ => t
  | .peerHelloTimer t _ => t
  | .peerConnectionTimeout t _ => t
  | .peerFlitReplay t _ => t
  | .peerResendTimeout t _ _ => t
  | .tracerLockstepMismatch t => t
  | .safetyProcessorLockstepMismatch t => t
  | .gptpMessageRx t _ _ _ => t
  | .gateControlIntervalEnd t _ => t
  | .hostDmaCompletionTimeout t _ => t
  | .perstRelease t => t
  | .hashEngineComplete t => t
  | .bootFlashWriteDone t => t
  | .canFrameSent t _ => t
  | .vhuskCharged t => t
  | .msixVectorControlWrite t _ _ _ => t

/-- The framing of a command; none for an event. -/
def cmdOf (i : Instr) : Option Cmd :=
  match i with
  | .identify _ c _ => some c
  | .getHealth _ c => some c
  | .asyncEventRequest _ c _ => some c
  | .openSession _ c _ _ _ _ => some c
  | .closeSession _ c _ => some c
  | .setShare _ c _ _ => some c
  | .getCounters _ c _ _ _ => some c
  | .createCq _ c _ _ _ _ _ _ _ => some c
  | .deleteCq _ c _ => some c
  | .createSq _ c _ _ _ _ _ _ _ _ _ => some c
  | .deleteSq _ c _ => some c
  | .abort _ c _ _ => some c
  | .etchStage _ c _ _ => some c
  | .etchArm _ c _ => some c
  | .etchStageArm _ c _ _ => some c
  | .etchAbort _ c _ => some c
  | .etchQuery _ c _ => some c
  | .etchArmInstant _ _ => none
  | .abortInstant _ _ => none
  | .etchCommit _ _ => none
  | .fallbackArmDeadline _ _ => none
  | .deadlineMatch _ _ => none
  | .phaseEdge _ _ => none
  | .lidarIndexPulse _ _ => none
  | .quadStateChange _ _ _ _ => none
  | .encIndexEdge _ _ => none
  | .serialEncReply _ _ _ _ _ => none
  | .serialReplyTimeout _ _ => none
  | .phaseSourceStall _ _ => none
  | .motionCycleSync0 _ => none
  | .mnetFrameTransmit _ => none
  | .mnetFrameReturn _ _ _ _ _ => none
  | .mnetRxBoundExpiry _ => none
  | .missLimitReached _ => none
  | .servoSample _ _ => none
  | .followingErrorFault _ _ => none
  | .enablingTimeout _ _ => none
  | .xcheckFault _ _ => none
  | .pairLockstepMismatch _ _ => none
  | .channelMove _ _ _ => none
  | .safetyConnectionFault _ _ => none
  | .hifDoorbell _ _ _ => none
  | .hifCqHead _ _ _ => none
  | .mailboxDoorbell _ _ _ => none
  | .bar0BadAccess _ _ _ _ _ => none
  | .bar2Access _ _ _ _ _ _ => none
  | .registerWriteIgnored _ _ _ _ => none
  | .sqEntryFetch _ _ => none
  | .completionPost _ _ => none
  | .cqCoalesceTimer _ _ => none
  | .memAlloc _ c _ _ _ _ => some c
  | .memFree _ c _ => some c
  | .windowOpen _ c _ _ _ _ _ => some c
  | .windowClose _ c _ => some c
  | .dmaCopy _ c _ _ _ _ _ _ => some c
  | .dmaFill _ c _ _ _ _ => some c
  | .dmaCrc _ c _ _ _ => some c
  | .dmaTransferComplete _ _ _ => none
  | .plateLoad _ c _ _ _ => some c
  | .plateUnload _ c _ => some c
  | .plateStart _ c _ => some c
  | .plateStatus _ c => some c
  | .sqMigrate _ c _ _ => some c
  | .selftestStatus _ c _ _ => some c
  | .plateBoundary _ => none
  | .slotStart _ _ => none
  | .slotEnd _ _ => none
  | .structLoad _ c _ _ _ _ => some c
  | .structUnload _ c _ _ => some c
  | .structQuery _ c _ _ => some c
  | .solve _ c _ _ _ _ _ _ _ => some c
  | .scenarioBatch _ c _ _ => some c
  | .solveDiagRead _ c _ _ _ _ _ => some c
  | .engineStatus _ c _ => some c
  | .solveStart _ _ _ => none
  | .solveWriteoutStart _ _ => none
  | .solveComplete _ _ => none
  | .engineOverrun _ _ => none
  | .engineFault _ _ => none
  | .spareEngineReady _ => none
  | .tracerCheckBegin _ => none
  | .tracerCheckEnd _ => none
  | .tracerCheck _ c _ _ => some c
  | .tracerKnownAnswerTest _ _ => none
  | .servoNetConfig _ c _ _ _ _ => some c
  | .servoChannelConfig _ c _ _ _ _ _ _ => some c
  | .servoEnable _ c _ => some c
  | .servoDisable _ c _ => some c
  | .servoClearFault _ c _ => some c
  | .servoStatus _ c _ => some c
  | .servoGainsBasic _ c _ _ _ _ => some c
  | .routeLoad _ c _ _ _ => some c
  | .routeUnload _ c _ => some c
  | .routeRun _ c _ _ _ => some c
  | .sectorMap _ c _ => some c
  | .fieldOp _ c _ _ => some c
  | .routeStart _ _ _ => none
  | .routeComplete _ _ => none
  | .routeStallTimeout _ _ => none
  | .tilePublish _ _ _ _ => none
  | .tileRelease _ _ _ _ => none
  | .slotDetection _ _ _ _ _ => none
  | .stepRerunLimitReached _ _ _ _ => none
  | .sectorHeartbeatTimeout _ _ => none
  | .sectorFault _ _ => none
  | .spareSectorReady _ _ => none
  | .spillOut _ _ => none
  | .spillRestore _ _ => none
  | .serveConfig _ c _ _ => some c
  | .serveStop _ c => some c
  | .serveStatus _ c => some c
  | .seqJoin _ c _ _ _ _ _ _ _ => some c
  | .seqDraft _ c _ _ _ _ _ => some c
  | .seqLeave _ c _ => some c
  | .seqStatus _ c _ _ _ => some c
  | .seqRecompute _ c _ => some c
  | .actionBind _ c _ _ _ _ _ _ _ _ _ => some c
  | .stepBoundary _ _ => none
  | .powerProfile _ c _ => some c
  | .powerUnit _ c _ _ => some c
  | .powerStatus _ c _ _ => some c
  | .thermalSet _ c _ => some c
  | .unitDrainEnd _ _ => none
  | .powerTransitionComplete _ _ => none
  | .thermalSample _ _ => none
  | .mainOn _ _ => none
  | .safetyStatus _ c _ _ => some c
  | .safeStateRequest _ c _ => some c
  | .safetyReset _ c => some c
  | .cpHeartbeat _ => none
  | .heartbeatTimeout _ => none
  | .mainDomainResetRelease _ => none
  | .restartWindowExpiry _ => none
  | .stoDeadlineExpiry _ => none
  | .brakeDelayExpiry _ => none
  | .heldLimitReached _ _ => none
  | .disagreeLimitReached _ _ => none
  | .estopSample _ _ _ => none
  | .estopOpen _ => none
  | .estopDiscrepancyTimeout _ => none
  | .stoTestPulse _ _ => none
  | .outputReadbackFault _ => none
  | .shellClockFault _ => none
  | .mainClockFault _ => none
  | .mainSupplyFault _ => none
  | .powerFailDetect _ => none
  | .shellPowerUp _ => none
  | .shellPorstNPulse _ => none
  | .mainSupplyValid _ => none
  | .mainSupplyUpTimeout _ => none
  | .perstAssert _ => none
  | .hostLinkLoss _ => none
  | .functionLevelReset _ _ => none
  | .vfDisable _ _ => none
  | .jtagInstructionLoad _ _ => none
  | .jtagTrst _ => none
  | .huskRecordWrite _ => none
  | .huskMirrorCopy _ => none
  | .hskRdSeqWrite _ _ => none
  | .i3cTargetReset _ => none
  | .huskStatus _ c => some c
  | .huskRead _ c _ _ _ _ => some c
  | .protRead _ c _ _ => some c
  | .fwLoad _ c _ _ _ => some c
  | .fwSwap _ c => some c
  | .fwSwapConfirm _ => none
  | .shellFwLoad _ c _ _ _ => some c
  | .shellFwSwap _ c => some c
  | .sectorRemap _ c _ => some c
  | .engineSwap _ c _ => some c
  | .servoPairDrain _ c _ _ => some c
  | .pairSelftestEnd _ _ _ => none
  | .lpddrRetrain _ c _ => some c
  | .spareStatus _ c => some c
  | .selftestQuantumStart _ _ _ => none
  | .selftestQuantumEnd _ _ _ _ => none
  | .diagnosticIntervalEnd _ => none
  | .sliceFence _ _ => none
  | .sharedBufferScrub _ _ => none
  | .shellMemoryScrub _ _ => none
  | .lpddrRefresh _ _ => none
  | .lpddrBurstRereadLimit _ _ _ => none
  | .lpddrDriftMeasure _ _ _ => none
  | .imprintConfig _ c _ _ _ _ _ => some c
  | .weightDigest _ c _ => some c
  | .imprintCompare _ c _ _ _ => some c
  | .solveStateRead _ c _ _ _ _ => some c
  | .solveStateWrite _ c _ _ _ _ => some c
  | .imprintWrite _ => none
  | .peerStatus _ c => some c
  | .peerWindowOpen _ c _ _ _ _ _ _ => some c
  | .peerWindowClose _ c _ => some c
  | .peerWrite _ c _ _ _ _ _ _ => some c
  | .peerRead _ c _ _ _ _ _ _ => some c
  | .ifStatus _ c _ _ _ => some c
  | .ingressConfig _ c _ _ _ => some c
  | .encConfig _ c _ _ _ _ _ => some c
  | .mnetConfig _ c _ _ _ _ => some c
  | .canConfig _ c _ _ _ => some c
  | .canSend _ c _ _ _ _ _ _ _ _ => some c
  | .canSendMatch _ _ => none
  | .canFrameRx _ _ _ _ _ _ _ => none
  | .canBusOff _ _ => none
  | .canBusOffRecovery _ _ => none
  | .csi2FrameEnd _ _ _ _ => none
  | .ethFragment _ _ _ _ => none
  | .peerWriteRx _ _ _ _ => none
  | .peerAckRx _ _ _ => none
  | .peerReadReqRx _ _ _ _ => none
  | .peerReadDataRx _ _ _ _ => none
  | .syncReqRx _ _ _ _ _ => none
  | .syncRespRx _ _ _ _ => none
  | .syncLockAcquired _ => none
  | .syncLockLost _ => none
  | .gtcHoldEnd _ => none
  | .syncExchangeTimer _ => none
  | .peerHelloRx _ _ _ => none
  | .peerEventRx _ _ _ _ => none
  | .peerMessageForward _ _ _ _ _ => none
  | .peerHelloTimer _ _ => none
  | .peerConnectionTimeout _ _ => none
  | .peerFlitReplay _ _ => none
  | .peerResendTimeout _ _ _ => none
  | .tracerLockstepMismatch _ => none
  | .safetyProcessorLockstepMismatch _ => none
  | .gptpMessageRx _ _ _ _ => none
  | .gateControlIntervalEnd _ _ => none
  | .hostDmaCompletionTimeout _ _ => none
  | .perstRelease _ => none
  | .hashEngineComplete _ => none
  | .bootFlashWriteDone _ => none
  | .canFrameSent _ _ => none
  | .vhuskCharged _ => none
  | .msixVectorControlWrite _ _ _ _ => none

/-- The commands that an entry can spell whole: a SEQ_DRAFT has seven token words, and the devices that an MNET_CONFIG finds
on the network are no part of its entry (R692). -/
def Spelled (i : Instr) : Prop :=
  match i with
  | .seqDraft _ _ _ _ _ _ tokens => tokens.length = 7
  | .mnetConfig _ _ _ _ _ found => found = []
  | _ => True

end Sys2Proof.Machine
end

