-- ==== Sys2Proof/Machine/Registers.lean ====
section
/-!
DEFINITION. Machine/Registers.lean: what the registers of each block read as, through BAR0 and over I3C. A read is no
command of the table; what it leaves in State (an upper word latched, the shadow GTC sampled) is written down here.
-/
namespace Sys2Proof.Machine

/-! The blocks, each a list of offsets and bytes in little-endian order (R15); every other byte of a block reads as 0. -/

abbrev RegBlock := List (Nat × Bytes)

/-- One byte of a block. -/
def regByte (b : RegBlock) (off : Nat) : Byte :=
  match b.find? (fun e => decide (e.1 ≤ off) && decide (off < e.1 + e.2.length)) with
  | some e => byteAt e.2 (off - e.1)
  | none => 0

def boolBit (b : Bool) (i : Nat) : Nat := if b then 2 ^ i else 0

/-- HIF_STATUS of a function (R130). -/
def hifStatus (s : State) (fn : Nat) : Word :=
  let h := s.hif
  BitVec.ofNat 32 (boolBit h.safeState 7 + boolBit h.shellOnly 6 + boolBit h.fwSlotB 4 + boolBit h.swapInProgress 3
    + boolBit (fnEnabled s fn) 1 + boolBit h.fwReady 0)

/-- What the configuration space of a function reports of its identity (R677), lowest byte first: the Vendor ID, the Device ID, and
at 0x09 the class code of a processing accelerator. -/
def pciIdentity (fn : Nat) : RegBlock :=
  [(0x00, leBytes 2 Config.pciVendor.toNat), (0x02, leBytes 2 (if fn = 0 then 0x0016 else 0x0017)), (0x09, leBytes 3 0x120000)]

/-- HIF_ID of a function (R129). -/
def hifId (fn : Nat) : Word := BitVec.ofNat 32 (0x0116B000 + fn % 256)

/-- HIF_MBX_STATUS of a function (R133). -/
def mbxStatus (s : State) (fn : Nat) : Word :=
  let f := s.hif.funcs.getD fn Func.reset
  BitVec.ofNat 32 (boolBit f.overrun 2 + boolBit f.respValid 1 + boolBit f.busy 0)

/-- The HIF registers and the admin mailbox of a function, at BAR0 offsets; its write-only registers read 0 (R16, R129). -/
def hifBlock (s : State) (fn : Nat) : RegBlock :=
  let f := s.hif.funcs.getD fn Func.reset
  [(0x0, leBytes 4 (hifId fn).toNat), (0x4, leBytes 4 (hifStatus s fn).toNat), (0x10, leBytes 4 f.dbReject.toNat),
   (0x14, leBytes 4 f.dbLost.toNat), (0x18, leBytes 4 f.barReject.toNat), (0x2000, ofWords f.mbxCmd), (0x2040, ofWords f.mbxResp),
   (0x2084, leBytes 4 (mbxStatus s fn).toNat)]

/-- PHU_SYNC_STATUS (R57). -/
def syncStatus (s : State) : Word :=
  let y := s.sync
  BitVec.ofNat 32 (boolBit y.locked 31 + y.role.toNat * 2 ^ 28 + y.masterPeer.toNat * 2 ^ 26 + y.offset.toNat)

/-- The registers of source `n` (R54). -/
def psBlock (s : State) (n : Nat) : RegBlock :=
  let p := getPs s n
  [(0x40 * n, leBytes 4 (psStatus p).toNat), (0x40 * n + 0x08, leBytes 8 (phaseAt s n)), (0x40 * n + 0x10, leBytes 8 p.stamp),
   (0x40 * n + 0x18, leBytes 8 (psPeriod p % 2 ^ 40)), (0x40 * n + 0x20, ofWords p.cfg)]

/-- The PHU registers (R54). -/
def phuBlock (s : State) : RegBlock :=
  (List.range 8).flatMap (psBlock s) ++
  [(0x200, leBytes 8 s.phase.gtc), (0x208, leBytes 8 s.phase.shadowRead), (0x210, leBytes 4 (syncStatus s).toNat)]

/-- The ETC registers (R123, R124). -/
def etcBlock (s : State) : RegBlock :=
  [(0x0, leBytes 4 (etcStatus s).toNat), (0x4, leBytes 4 (s.etch.conflicts.toNat * 2 ^ 16 + s.etch.expired.toNat)),
   (0x8, leBytes 4 s.etch.fallbacks.toNat), (0x10, leBytes 8 s.etch.lastCommit)]

/-- The PWR registers; PWR_WAKE is write-only (R672). -/
def pwrBlock (s : State) : RegBlock := [(0x0, pwrBytes s ++ List.replicate 0x20 0)]

/-- The entry of a vector in the MSI-X table: address, data, and its mask in bit 0 of the vector control (R126, R155). -/
def msixEntryOf (s : State) (fn v : Nat) : MsixEntry :=
  match s.hif.msix.find? (fun e => e.fn == fn && e.vector == v) with
  | some e => e
  | none => { fn := fn, vector := v, addr := 0, data := 0, masked := true, pend := false }

def msixBytes (s : State) (fn v : Nat) : Bytes :=
  let e := msixEntryOf s fn v
  leBytes 8 e.addr.toNat ++ leBytes 4 e.data.toNat ++ leBytes 4 (boolBit e.masked 0)

/-- Eight pending bits, vectors 8 · `i` and up. -/
def pendByte (s : State) (fn i : Nat) : Byte :=
  BitVec.ofNat 8 ((List.range 8).foldl (fun n k => n + boolBit (msixEntryOf s fn (8 * i + k)).pend k) 0)

/-- One byte of BAR0 as a function sees it (R126): reserved offsets read 0, and the PWR block reads 0 on a VF. -/
def bar0Byte (s : State) (fn off : Nat) : Byte :=
  match off / 0x1000 with
  | 0x00 => regByte (hifBlock s fn) off
  | 0x02 => regByte (hifBlock s fn) off
  | 0x10 => regByte (phuBlock s) (off - 0x10000)
  | 0x11 => regByte (etcBlock s) (off - 0x11000)
  | 0x12 => if fn = 0 then regByte (pwrBlock s) (off - 0x12000) else 0
  | 0x28 => if off < 0x28100 then pendByte s fn (off - 0x28000) else 0
  | p => if 0x20 ≤ p ∧ p < 0x28 then byteAt (msixBytes s fn ((off - 0x20000) / 16)) (off % 16) else 0

/-- A number of bytes of BAR0, lowest first. -/
def bar0Bytes (s : State) (fn off n : Nat) : Bytes := (List.range n).map (fun i => bar0Byte s fn (off + i))

/-- The BAR0 offset of the lower word of a 64-bit register read under R55: the PHU's, ETC_LAST_COMMIT and PWR_SECTOR. -/
def wideReg (off : Nat) : Bool :=
  if 0x10000 ≤ off ∧ off < 0x10200 then (off % 0x40 == 0x08 || off % 0x40 == 0x10 || off % 0x40 == 0x18)
  else off == 0x10200 || off == 0x10208 || off == 0x11010 || off == 0x12008

/-- A read of BAR0 by a function (R54, R55, R127): the state after it, and the value; none is Unsupported Request. A 32-bit
read of a lower word latches the upper word, and a read of PHU_GTC samples PHU_GTC_SHADOW. Each function has its own latch of a
register, which stands until that function reads the lower word again; an upper word whose lower word it never read is the live
value: R55 says neither (DESIGN CHOICE, log entry 111). -/
def bar0Read (s : State) (fn off size : Nat) : State × Option DWord :=
  if (size ≠ 4 ∧ size ≠ 8) ∨ off % size ≠ 0 ∨ 0x80000 ≤ off then (s, none)
  else
    let s1 := if off = 0x10200 then { s with phase := { s.phase with shadowRead := s.phase.shadow } } else s
    if size = 8 then (s1, some (BitVec.ofNat 64 (numAt (bar0Bytes s1 fn off 8) 0 8)))
    else if wideReg off then
      let upper : Nat × Nat × Word := (fn, off + 4, BitVec.ofNat 32 (numAt (bar0Bytes s1 fn (off + 4) 4) 0 4))
      ({ s1 with hif := { s1.hif with
          latches := upper :: s1.hif.latches.filter (fun (x : Nat × Nat × Word) => !(x.1 == fn && x.2.1 == off + 4)) } },
       some (BitVec.ofNat 64 (numAt (bar0Bytes s1 fn off 4) 0 4)))
    else match s1.hif.latches.find? (fun (x : Nat × Nat × Word) => x.1 == fn && x.2.1 == off) with
      | some x => (s1, some (x.2.2.setWidth 64))
      | none => (s1, some (BitVec.ofNat 64 (numAt (bar0Bytes s1 fn off 4) 0 4)))

/-! The scratchpad block of a physical sector (R402–R407). -/

/-- SPD_CR_BASE, SPD_CR_GEOM and SPD_CR_PTR of a region. -/
def regionBytes (r : Region) : Bytes :=
  leBytes 4 (boolBit r.enable 31 + boolBit r.weight 30 + r.base % 2 ^ 18)
    ++ leBytes 4 (if r.enable then (r.slots - 1) % 2 ^ 12 * 2 ^ 20 + (r.words - 1) % 2 ^ 16 else 0)
    ++ leBytes 8 (r.head % 2 ^ 12 * 2 ^ 32 + r.tail % 2 ^ 12 * 2 ^ 16 + (r.tags.filter (fun g => wbit g 31)).length)

/-- The SPD registers of physical sector `n`. -/
def spdBlock (s : State) (n : Nat) : RegBlock :=
  let x := s.field.sectors.getD n Sector.reset
  [(0x0, leBytes 4 (x.rtPorts.toNat * 2 ^ 16 + x.mode.toNat)), (0x8, leBytes 8 (x.losses.toNat * 2 ^ 32 + x.waits.toNat)),
   (0x10, leBytes 4 (x.tagParity.toNat * 2 ^ 24 + x.weightDetect.toNat * 2 ^ 16 + x.parityDetect.toNat * 2 ^ 8 + x.corrected.toNat)),
   (0x100, slice x.slotMap 0 512), (0x400, x.regions.flatMap regionBytes)]

/-- Whether a 64-bit register of the block has its lower word at `off` (R402). -/
def spdWide (off : Nat) : Bool := off == 0x8 || (decide (0x400 ≤ off) && decide (off < 0x600) && off % 16 == 8)

/-- A read of a sector's SPD block by the control processor (R55, R402): the state after it, and the value. A 32-bit read of a lower word
latches the upper one, as in BAR0. -/
def spdRead (s : State) (n off size : Nat) : State × Option DWord :=
  if (size ≠ 4 ∧ size ≠ 8) ∨ off % size ≠ 0 ∨ 0x600 ≤ off then (s, none)
  else
    let at_ := fun (o k : Nat) => numAt ((List.range k).map (fun i => regByte (spdBlock s n) (o + i))) 0 k
    if size = 8 then (s, some (BitVec.ofNat 64 (at_ off 8)))
    else if spdWide off then
      (modSector s n (fun c => { c with
        latches := (off + 4, BitVec.ofNat 32 (at_ (off + 4) 4)) :: c.latches.filter (fun (x : Nat × Word) => x.1 != off + 4) }),
       some (BitVec.ofNat 64 (at_ off 4)))
    else match (getSector s n).latches.find? (fun (x : Nat × Word) => x.1 == off) with
      | some x => (s, some (x.2.setWidth 64))
      | none => (s, some (BitVec.ofNat 64 (at_ off 4)))

/-! The I3C target (R616, R699). -/

/-- One byte of a block over I3C; a byte outside a block reads 0xFF. -/
def i3cByte (s : State) (block off : Nat) : Byte :=
  match block with
  | 1 => if off < 0x80 then byteAt (hskBytes s) off else 0xFF
  | 2 => if off < 0x44 then regByte (pwrBlock s) off else 0xFF
  | 3 => if off < 0x24 then byteAt (trcBytes s) off else 0xFF
  | 4 => if off < protBytes then byteAt (protImage s) off else 0xFF
  | _ => 0xFF

/-- A private read of `n` bytes, at most 512, from where the last private write left the target. -/
def i3cRead (s : State) (n : Nat) : Bytes :=
  match s.ports.i3c with
  | none => List.replicate (min n 512) 0xFF
  | some (b, o) => (List.range (min n 512)).map (fun i => i3cByte s b (o + i))

end Sys2Proof.Machine
end

