-- ==== Sys2Proof/Safety.lean ====
section
/-!
DEFINITION. Safety.lean: the terms in which statements speak: the canonical form of the memories, the torque interlock, and
the state in which a command's own effect begins.
-/
namespace Sys2Proof

/-- Device memory, host memory and the protection set are in canonical form. -/
def Machine.State.MemoryOk (s : Machine.State) : Prop :=
  Machine.Memory.wf s.mem.dev = true ∧ Machine.Memory.wf s.mem.host = true ∧ Machine.Memory.wf s.boot.prot = true

/-- While STO is held, both STO and both brake outputs are low, and no brake delay runs (R582, R586). -/
def Machine.State.StoOk (s : Machine.State) : Prop :=
  s.safety.stoHeld = true → s.safety.stoA = false ∧ s.safety.stoB = false ∧ s.safety.brakeA = false ∧ s.safety.brakeB = false
    ∧ s.safety.brakeDelay = .idle

/-- The state in which command `c`, executed at tick `t`, begins: the clock has reached the tick, and the command counts as
started (R121, R532). -/
def Machine.began (s : Machine.State) (t : Nat) (c : Cmd) : Machine.State :=
  Machine.markStarted (Machine.advance s t) c.key

end Sys2Proof
end

