-- ==== Sys2Proof/Certificates/Slice0/Obligations.lean ====
section
/-!
DEFINITION. Certificates/Slice0/Obligations.lean: the statements for the provers. Commands are stated in the state in which they
begin (`began`: the clock has reached the tick, the command counts as started), events in the state that the clock has reached
(`advance`). An equation of the next state is also the frame: what it does not write is as it was.
-/
open Sys2Proof Sys2Proof.Machine

/-- One step runs the command at the front of the queue with the queue's rest left waiting, and an empty queue lets one GTC tick
pass: both GTCs move on by 1 ns, or stand still during the hold of first lock (R58, R75), and nothing else changes. That a
tick is what an empty queue does is the model's own choice (log entry 2). -/
def Obligations.StepRunsFrontCommand : Prop :=
  (∀ (s : State) (c : Instr), step { s with pending := c :: s.pending } = exec c s)
  ∧ (∀ s : State, s.pending = [] → s.phase.hold = none →
      step s = .next { s with phase := { s.phase with
        gtc := s.phase.gtc + 1, shadow := max s.phase.shadow (s.phase.gtc + 1) } })
  ∧ (∀ s : State, s.pending = [] → s.phase.hold ≠ none → step s = .next s)

/-- The state after Shell power-on reset: SHELL_ONLY with the main domain unpowered (R673), both STO and both brake outputs low
with STO held (R582, R729), no open session, queue, etch, route, loop or loaded Plate, every Husk and Tracer counter 0, boot
not failed, every byte of memory in canonical form and nothing waiting; the protection set holds the reset values of R599 and
R600: selftest_reaction 1, estop_category 1, sto_mode 1, held_limit 8, disagree_k 2, restart_window_ms 0x3C. What unlisted
memory reads as is the model's own choice (log entry 3). -/
def Obligations.ResetState : Prop :=
  State.reset.power.state = 1 ∧ State.reset.hif.shellOnly = true ∧ State.reset.hif.fwReady = false
  ∧ State.reset.power.mainPwrEn = false ∧ State.reset.power.mainValid = false
  ∧ State.reset.safety.stoA = false ∧ State.reset.safety.stoB = false ∧ State.reset.safety.brakeA = false
  ∧ State.reset.safety.brakeB = false ∧ State.reset.safety.stoHeld = true ∧ State.reset.safety.safe = none
  ∧ State.reset.safety.checks = 0 ∧ State.reset.safety.rejections = 0 ∧ State.reset.safety.disagreements = 0
  ∧ State.reset.cmds.sessions = [] ∧ State.reset.cmds.sqs = [] ∧ State.reset.cmds.cqs = []
  ∧ State.reset.cmds.outstanding = [] ∧ State.reset.etch.etches = [] ∧ State.reset.loops = []
  ∧ State.reset.phase.gtc = 0 ∧ State.reset.phase.hold = none ∧ State.reset.pending = []
  ∧ protSelftestReaction State.reset = 1 ∧ protEstopCategory State.reset = 1 ∧ protStoMode State.reset = 1
  ∧ protHeldLimit State.reset = 8 ∧ protDisagreeK State.reset = 2 ∧ protRestartWindow State.reset = 60000000
  ∧ State.reset.MemoryOk ∧ State.reset.StoOk

/-- Decoding inverts encoding (R139, R161–R169 and the command tables of the other chapters): the entry that spells a command,
submitted by the command's own source at its own tick, decodes to that command, with every operand, deadline and flag as it
was. -/
def Obligations.EntryRoundTrip : Prop :=
  ∀ (i : Instr) (c : Cmd) (ws : List Word), cmdOf i = some c → Spelled i → encodeEntry i = some ws →
    decodeEntry (stampOf i) c.key.src ws = some i

/-- What every step keeps, from every state in which it holds and not only from reset: the canonical form of device memory, host
memory and the protection set (R15, log entry 3), and, while STO is held, both STO and both brake outputs low with no brake
delay running (R582, R586). -/
def Obligations.StepKeepsInvariants : Prop :=
  ∀ s s' : State, step s = .next s' → (s.MemoryOk → s'.MemoryOk) ∧ (s.StoOk → s'.StoOk)

/-- STO is released by SAFETY_RESET alone, and only when all of R586 holds: both E-stop inputs have read closed for at least 100
ms, no fault of R583 or R585 is latched, no Shell fault path is, and no safe state is in progress. Whatever else the device is
commanded to do or whatever reaches it, held STO stays held. -/
def Obligations.OnlySafetyResetReleasesSto : Prop :=
  ∀ (i : Instr) (s s' : State), exec i s = .next s' → s.safety.stoHeld = true → s'.safety.stoHeld = false →
    ∃ t c u, i = .safetyReset t c ∧ s.safety.closedSince = some u ∧ u + 100000000 ≤ (advance s t).phase.gtc
      ∧ s.safety.estopFault = false ∧ s.safety.outputFault = false ∧ s.safety.shellFault = false ∧ s.safety.safe = none

/-- Every command and every event answers a next state, whatever the state and the operands, and none touches the commands that
wait behind it: the queue is taken from its front alone. -/
def Obligations.EveryCommandCompletes : Prop :=
  ∀ (i : Instr) (s : State), ∃ s', exec i s = .next s' ∧ s'.pending = s.pending

/-- Neither GTC ever steps backward (R59): in every step but a Shell start (power-up, PORST_N, an accepted I3C target reset), from
every state in which the main GTC is not ahead of the shadow GTC, both move on or stand still, and the main GTC is not ahead
afterwards either (R58). -/
def Obligations.GtcsNeverStepBackward : Prop :=
  ∀ (i : Instr) (s s' : State), exec i s = .next s' →
    (∀ t, i ≠ .shellPowerUp t) → (∀ t, i ≠ .shellPorstNPulse t) → (∀ t, i ≠ .i3cTargetReset t) →
    s.phase.gtc ≤ s.phase.shadow →
    s.phase.gtc ≤ s'.phase.gtc ∧ s.phase.shadow ≤ s'.phase.shadow ∧ s'.phase.gtc ≤ s'.phase.shadow

/-- Only boot code writes the protection set (R16, R599): a byte of the BOOT_PROT_ block changes in a Shell start (power-up,
PORST_N, an accepted I3C target reset) or a release of the main domain's reset alone, and no command of a host changes one. -/
def Obligations.OnlyBootCodeWritesProtection : Prop :=
  (∀ (i : Instr) (s s' : State), exec i s = .next s' → s'.boot.prot ≠ s.boot.prot →
    ∃ t, i = .shellPowerUp t ∨ i = .shellPorstNPulse t ∨ i = .i3cTargetReset t ∨ i = .mainDomainResetRelease t)
  ∧ (∀ (i : Instr) (c : Cmd) (s s' : State), cmdOf i = some c → exec i s = .next s' → s'.boot.prot = s.boot.prot)

/-- An operand whose field holds a value that the manual does not define completes its command with BAD_DESCRIPTOR and has no
other effect, whichever of the commands it is (R10, R11): the state is the one that the clock has reached, with that
completion. -/
def Obligations.UndefinedOperandsRefused : Prop :=
  ∀ (i : Instr) (c : Cmd) (s : State), cmdOf i = some c → operandsOk i = false →
    exec i s = .next (done (advance s (stampOf i)) c stBAD_DESCRIPTOR)

/-- Where a command's completion goes, for every command (R139, R141, R142, R144, R146, R147). The firmware's own commands and a
command that is not outstanding post nothing. A mailbox command's response words hold status, id, stamp and result with kind,
sq_id and sq_head 0 and phase tag 1, resp_valid is set and busy clear, and the command is outstanding no longer. On a queue,
an OK completion with quiet set ends the command in silence; any other waits at the end of its completion queue, with kind 2
after DEFERRED, and leaves the command done. Everything else is as it was. -/
def Obligations.CompletionsGoToTheirQueue : Prop :=
  (∀ s c r, c.key.src = .firmware → finish s c r = s)
  ∧ (∀ s c r, isOpen s c.key = false → finish s c r = s)
  ∧ (∀ s c r f, c.key.src = .mailbox f → isOpen s c.key = true → f < s.hif.funcs.length →
    ∃ u x, finish s c r = { s with
        hif := { s.hif with funcs := u },
        cmds := { s.cmds with outstanding := s.cmds.outstanding.filter (fun o => o.cmd.key != c.key) } }
      ∧ u.length = s.hif.funcs.length ∧ (∀ g, g ≠ f → u[g]? = s.hif.funcs[g]?)
      ∧ u[f]? = some x ∧ x.respValid = true ∧ x.busy = false ∧ x.mbxResp.length = 8
      ∧ fld (wat x.mbxResp 0) 31 31 = 1 ∧ fld (wat x.mbxResp 0) 30 24 = 0 ∧ fld (wat x.mbxResp 0) 23 16 = r.status.toNat
      ∧ fld (wat x.mbxResp 0) 15 0 = c.key.id.toNat ∧ wat x.mbxResp 1 = 0 ∧ fld (wat x.mbxResp 2) 15 0 = 0
      ∧ fld (wat x.mbxResp 2) 31 16 = r.warn.toNat ∧ dat x.mbxResp 5 = r.result.toNat)
  ∧ (∀ s c r q, c.key.src = .queue q → isOpen s c.key = true → c.quiet = true → r.status = stOK →
    finish s c r = { s with cmds := { s.cmds with
      outstanding := s.cmds.outstanding.filter (fun o => o.cmd.key != c.key) } })
  ∧ (∀ s c r q o sq, c.key.src = .queue q → findOut s c.key = some o → o.done = false →
    (c.quiet = true → r.status ≠ stOK) → imprintWaits s c.key = false → findSq s q.toNat = some sq →
    ∃ x, finish s c r = { s with cmds := { s.cmds with
        cqs := s.cmds.cqs.map (fun y => if y.id == sq.cq then { y with waiting := y.waiting ++ [x] } else y),
        outstanding := s.cmds.outstanding.map (fun y => if y.cmd.key == c.key then { y with done := r.last } else y) } }
      ∧ x.cmdId = c.key.id ∧ x.sq = q ∧ x.status = r.status ∧ x.result = r.result ∧ x.warn = r.warn ∧ x.tag = r.tag
      ∧ x.kind = (if o.deferred = true ∧ r.kind = 0 then 2 else r.kind)
      ∧ x.stamp = (if r.stamp = 0 then s.phase.gtc else r.stamp))

/-- Counts wrap modulo 2^48: raw phases and calibrated phases lie below 2^64, and the edge after the last count starts at 0 (R39).
A target lies ahead of the phase in the increasing direction when the difference modulo 2^64 is less than 2^63: a phase-form
target is reached exactly when the source runs and the phase equals it or lies ahead of it in its direction, so one ahead of
the phase by 1 to 2^63 − 1 is not reached. The phase of a match is the source's as the tick begins it, before a calibration of
that tick, and that of the last edge for a fraction of 0 (R46, R67); of a target that is already passed, the phase now. -/
def Obligations.PhaseOrderWraps : Prop :=
  (∀ (p : PhaseSource) (t : Nat), psRaw p t < 2 ^ 64 ∧ psPhase p t < 2 ^ 64)
  ∧ (∀ (t : Nat) (p : PhaseSource), psDivider p.cfg ≤ p.divPos.toNat →
      (countEdge t p).raw.toNat / 65536 = (p.raw.toNat / 65536 + 1) % 2 ^ 48)
  ∧ (∀ (s : State) (v : PhaseValue) (p : PhaseSource) (q : Nat), pvIsGtc v = false → p = matchSource s (pvSource v) →
      q = matchPhase p (now s) (pvPhase v) →
      (pvDecreasing v = false → (pvReached s v = true ↔ psType p.cfg ≠ 0 ∧ ((q : Int) - pvPhase v) % 2 ^ 64 < 2 ^ 63))
      ∧ (pvDecreasing v = true → (pvReached s v = true ↔ psType p.cfg ≠ 0 ∧ ((pvPhase v : Int) - q) % 2 ^ 64 < 2 ^ 63)))
  ∧ (∀ (s : State) (v : PhaseValue), pvIsGtc v = false →
      (pvDecreasing v = false → (pvPassed s v = true ↔ psType (getPs s (pvSource v)).cfg ≠ 0
        ∧ ((phaseAt s (pvSource v) : Int) - pvPhase v) % 2 ^ 64 < 2 ^ 63))
      ∧ (pvDecreasing v = true → (pvPassed s v = true ↔ psType (getPs s (pvSource v)).cfg ≠ 0
        ∧ ((pvPhase v : Int) - phaseAt s (pvSource v)) % 2 ^ 64 < 2 ^ 63)))
  ∧ (∀ (s : State) (v : PhaseValue) (q : Nat), pvIsGtc v = false → pvDecreasing v = false →
      q = matchPhase (matchSource s (pvSource v)) (now s) (pvPhase v) →
      ((pvPhase v : Int) - q) % 2 ^ 64 < 2 ^ 63 → pvPhase v ≠ q → pvReached s v = false)
  ∧ (∀ (d p : PhaseValue), pvIsGtc p = false → pvDecreasing p = false →
      (pvBefore d p = true ↔ ((pvPhase p : Int) - pvPhase d) % 2 ^ 64 < 2 ^ 63 ∧ pvPhase p ≠ pvPhase d))

/-- interp_valid is set only after 2^interp_log2 + 1 edges since the source was enabled, and while it is 0 the raw fraction is 0
and the raw phase that of the last edge (R43). -/
def Obligations.FractionNeedsEdges : Prop :=
  (∀ p : PhaseSource, psInterpValid p = true → psType p.cfg ≠ 0 ∧ 2 ^ psInterpLog2 p.cfg + 1 ≤ p.edges.toNat)
  ∧ (∀ (p : PhaseSource) (t : Nat), psInterpValid p = false → psInterp p t = 0 ∧ psRaw p t = p.raw.toNat)
  ∧ (∀ t raw (p : PhaseSource), p.edges.toNat < 2 ^ psInterpLog2 p.cfg → psInterpLog2 p.cfg ≤ 3 →
      psInterpValid (edge t raw p) = false)

/-- Interpolation at GTC tick t after the last edge stamp G: on a source that interpolates, whose count last moved up, the raw
fraction is min(0xFFFF, ⌊(t − G) × 65,536 ÷ P⌋) with P the mean of the last 2^interp_log2 intervals, truncated, and the raw
count stays at the last edge's count (R41, R42). -/
def Obligations.FractionFollowsPeriod : Prop :=
  ∀ (p : PhaseSource) (t : Nat), psInterpValid p = true → psType p.cfg ≠ 2 → psType p.cfg ≠ 3 → p.down = false →
    2 ^ psInterpLog2 p.cfg ≤ p.intervals.length → psPeriod p ≠ 0 → p.raw.toNat % 65536 = 0 →
    psPeriod p = (p.intervals.take (2 ^ psInterpLog2 p.cfg)).sum / 2 ^ psInterpLog2 p.cfg
    ∧ psRaw p t / 65536 = p.raw.toNat / 65536
    ∧ psRaw p t % 65536 = min 0xFFFF ((t - p.stamp) * 65536 / psPeriod p)

/-- Writing an accumulator with fraction width fs into a word of format fd (R204): with fs ≤ fd the shift is exact; otherwise the
result before saturation is the nearest integer to acc ÷ 2^(fs − fd), the even one of two. A result outside −2^31 to 2^31 − 1
is replaced by the nearer limit and sets SAT, any other sets no flag. -/
def Obligations.AccumulatorWriteOut : Prop :=
  (∀ acc fs fd : Int, fs ≤ fd → shiftRound acc (fs - fd) = acc * 2 ^ (fd - fs).toNat)
  ∧ (∀ acc fs fd : Int, fd < fs →
      2 * (shiftRound acc (fs - fd) * 2 ^ (fs - fd).toNat - acc).natAbs ≤ 2 ^ (fs - fd).toNat
      ∧ (2 * (shiftRound acc (fs - fd) * 2 ^ (fs - fd).toNat - acc).natAbs = 2 ^ (fs - fd).toNat →
          shiftRound acc (fs - fd) % 2 = 0))
  ∧ (∀ acc fs fd : Int, shiftRound acc (fs - fd) < -2 ^ 31 → writeOut acc fs fd = ⟨-2 ^ 31, 1⟩)
  ∧ (∀ acc fs fd : Int, 2 ^ 31 - 1 < shiftRound acc (fs - fd) → writeOut acc fs fd = ⟨2 ^ 31 - 1, 1⟩)
  ∧ (∀ acc fs fd : Int, -2 ^ 31 ≤ shiftRound acc (fs - fd) → shiftRound acc (fs - fd) ≤ 2 ^ 31 - 1 →
      writeOut acc fs fd = ⟨shiftRound acc (fs - fd), 0⟩)

/-- MAP max and min return the canonical NaN if either operand is NaN, and order −0 below +0 (R192): of two operands that are not
NaN each returns one, max none that lies below the other and min none that lies above it. -/
def Obligations.MaxAndMinOrder : Prop :=
  (∀ a b : Word, (isNan32 a = true ∨ isNan32 b = true) → fmax a b = 0x7FC00000 ∧ fmin a b = 0x7FC00000)
  ∧ (fmax 0x80000000 0 = 0 ∧ fmax 0 0x80000000 = 0 ∧ fmin 0x80000000 0 = 0x80000000 ∧ fmin 0 0x80000000 = 0x80000000)
  ∧ (∀ a b : Word, isNan32 a = false → isNan32 b = false →
      (fmax a b = a ∨ fmax a b = b) ∧ (fmin a b = a ∨ fmin a b = b)
      ∧ sortKeyFP32 a ≤ sortKeyFP32 (fmax a b) ∧ sortKeyFP32 b ≤ sortKeyFP32 (fmax a b)
      ∧ sortKeyFP32 (fmin a b) ≤ sortKeyFP32 a ∧ sortKeyFP32 (fmin a b) ≤ sortKeyFP32 b)

/-- SORT orders FP32 keys as −infinity < negative finite < −0 < +0 < positive finite < +infinity < NaN (R177): the order of the
keys is that of the values, zeros by their sign. Every NaN key sorts after +infinity, equal keys and NaN keys keep their input
order among themselves, and the result holds the keys and payloads it was given, none altered. -/
def Obligations.SortOrdersKeys : Prop :=
  (∀ a b : Word, isNan32 a = false → isNan32 b = false → ltFp (rd32 a) (rd32 b) = true → sortKeyFP32 a < sortKeyFP32 b)
  ∧ (sortKeyFP32 0xFF800000 < sortKeyFP32 0xFF7FFFFF ∧ sortKeyFP32 0x80000001 < sortKeyFP32 0x80000000
      ∧ sortKeyFP32 0x80000000 < sortKeyFP32 0 ∧ sortKeyFP32 0 < sortKeyFP32 1
      ∧ sortKeyFP32 0x7F7FFFFF < sortKeyFP32 0x7F800000)
  ∧ (∀ a b : Word, isNan32 a = true → isNan32 b = false → sortKeyFP32 b < sortKeyFP32 a)
  ∧ (∀ a b : Word, isNan32 a = true → isNan32 b = true → sortKeyFP32 a = sortKeyFP32 b)
  ∧ (∀ l : List Keyed, (sortKeys 1 false l).Perm l
      ∧ (sortKeys 1 false l).Pairwise (fun a b => sortKeyFP32 a.1 ≤ sortKeyFP32 b.1)
      ∧ ∀ k : Nat, (sortKeys 1 false l).filter (fun x => sortKeyFP32 x.1 == k) = l.filter (fun x => sortKeyFP32 x.1 == k))

/-- The admin commands of R162 complete: IDENTIFY with the version, the serial, the queue ranges or the limits of the protection
set, GET_HEALTH with temperature, profile and device state, and ASYNC_EVENT_REQUEST, which takes, while the firmware is ready,
the oldest waiting event with kind 0x3, or stays outstanding while fewer than 8 are (R156). -/
def Obligations.AdminCommandsComplete : Prop :=
  (∀ t c s v, began s t c = v → exec (.identify t c 0) s = .next (done v c stOK (3 + 2 * 2 ^ 8 + 0xB0 * 2 ^ 16)))
  ∧ (∀ t c s v, began s t c = v → exec (.identify t c 1) s = .next (done v c stOK Config.deviceSerial.toNat))
  ∧ (∀ t c s v, began s t c = v → exec (.identify t c 2) s =
      .next (done v c stOK (fnSqBase v (fnOf v c) + fnSqCount v (fnOf v c) * 2 ^ 18)))
  ∧ (∀ t c s v, began s t c = v → exec (.identify t c 3) s =
      .next (done v c stOK (fnCqBase v (fnOf v c) + fnCqCount v (fnOf v c) * 2 ^ 16 + fnMsix v (fnOf v c) * 2 ^ 32
        + fnSessionLimit v (fnOf v c) * 2 ^ 44)))
  ∧ (∀ t c s v, began s t c = v → exec (.getHealth t c) s = .next (done v c stOK
      (wrapN 16 (hotMain v).2 + (if v.power.state < 3 then v.power.state * 2 ^ 20
        else (v.power.state - 2) * 2 ^ 16 + 3 * 2 ^ 20))))
  ∧ (∀ t c id s v x, began s t c = v → mayName v c id = true → findSession v id = some x → x.events = [] →
      x.requests.length < 8 →
      exec (.asyncEventRequest t c id) s = .next (modSession v id (fun x => { x with requests := x.requests ++ [c] })))
  ∧ (∀ t c id s v x e rest, began s t c = v → mayName v c id = true → findSession v id = some x → x.events = e :: rest →
    v.hif.fwReady = true →
      exec (.asyncEventRequest t c id) s = .next (finish (modSession v id (fun x => { x with events := rest, discarded := 0 })) c
        { status := stOK, result := e.result, kind := 3, tag := e.code, epoch := x.discarded, stamp := e.stamp }))

/-- The session commands of R163. SET_SHARE gives the session its weight, 0 being the default 100. GET_COUNTERS writes the 128
bytes of R532 and reports their number. OPEN_SESSION, within the limits of R150, adds a session under the next generation of a
free slot (R151) and reports its id. CLOSE_SESSION through the mailbox stops the session's work and reports how many etches
pass to the function (R152); no session of that id is left. -/
def Obligations.SessionCommandsComplete : Prop :=
  (∀ t c id w s v, began s t c = v → mayName v c id = true →
    exec (.setShare t c id w) s =
      .next (done (modSession v id (fun x => { x with share := if w = 0 then 100 else w })) c stOK))
  ∧ (∀ t c id win off s v x s1, began s t c = v → mayName v c id = true → findSession v id = some x →
    writeWindow v c win off.toNat (counterBytes v x) = .ok s1 →
    exec (.getCounters t c id win off) s = .next (done s1 c stOK 128))
  ∧ (∀ t c w sq cq quota s v slot, began s t c = v → v.cmds.sessions.length < 16384 →
    (v.cmds.sessions.filter (fun x => x.fn == fnOf v c)).length < fnSessionLimit v (fnOf v c) →
    pickFree 0 65536 (Config.handOut v.free) (v.cmds.sessions.map (fun x => x.id.toNat % 65536)) = some slot →
    ∃ u, exec (.openSession t c w sq cq quota) s = .next (done u c stOK ((nextGeneration v slot).toNat * 2 ^ 16 + slot))
      ∧ u = { v with
          free := v.free + 1,
          cmds := { v.cmds with
            sessions := v.cmds.sessions ++ [{
              id := BitVec.ofNat 32 ((nextGeneration v slot).toNat * 2 ^ 16 + slot), fn := fnOf v c,
              share := if w = 0 then 100 else w, maxSq := sq, maxCq := cq, quota := quota, requests := [], events := [],
              discarded := 0, vtime := 0, counters := Counters.zero }],
            generations := v.cmds.generations.filter (fun y => y.1 != slot) ++ [(slot, nextGeneration v slot)] } })
  ∧ (∀ t c id s v f, began s t c = v → c.key.src = .mailbox f → mayName v c id = true →
    ∃ u, exec (.closeSession t c id) s = .next u
      ∧ u = closeFinal (done (closeWork v id (some c.key)).2 c stOK (closeWork v id (some c.key)).1) id
      ∧ findSession u id = none)

/-- The queue commands. CREATE_CQ with a depth of 2 to 65,536, a ring aligned to 4 KiB and a coal_count that is not 0, when
cqPlace refuses it nothing, adds an empty completion queue with the operands' session, ring, depth, vector and coalescing
under the id that cqPlace gives, and completes OK with that id. CREATE_SQ with such a depth and ring, a partition of 0 to 15
or 0xFF and a class other than 3, when sqPlace refuses it nothing, adds an empty submission queue likewise and completes OK
with its id. DELETE_CQ of an own completion queue that no submission queue uses removes it and completes OK. DELETE_SQ of an
own submission queue aborts every other command of the queue that is outstanding and not done, completes OK, and leaves
neither the queue, nor a doorbell of it in the FIFO, nor an imprint configuration of it. ABORT of a command of an own queue
that nothing refuses (abortRefusal) joins the aborts that wait for their instant; one that is refused completes with that
status, which is ALREADY_DONE for a target that is not outstanding; and one that names no queue completes with ALREADY_DONE.
After R116, R121, R163, R164. -/
def Obligations.QueueCommandsComplete : Prop :=
  (∀ t c id ring depth dev vec n us s v x q, began s t c = v → 2 ≤ depth.toNat → depth.toNat ≤ 65536 → ring.toNat % 4096 = 0 →
    n ≠ 0 → cqPlace v c id ring.toNat depth.toNat vec.toNat dev = .ok (x, q) →
    exec (.createCq t c id ring depth dev vec n us) s = .next (done { v with
      free := v.free + 1,
      cmds := { v.cmds with cqs := v.cmds.cqs ++ [{
        id := q, session := id, fn := x.fn, ring := ring.toNat, inDevice := dev, depth := depth.toNat, vector := vec.toNat,
        coalCount := n.toNat, coalTime := us.toNat, tail := 0, head := 0, pass := true, waiting := [], unsignalled := 0,
        firstAt := none }] } } c stOK q))
  ∧ (∀ t c id ring depth anyId dev cq want part cls s v x q p, began s t c = v → 2 ≤ depth.toNat → depth.toNat ≤ 65536 →
    ring.toNat % 4096 = 0 → (part.toNat < 16 ∨ part = 0xFF) → cls ≠ 3 →
    sqPlace v c id ring.toNat depth.toNat cq.toNat want.toNat part.toNat cls.toNat anyId dev = .ok (x, q, p) →
    exec (.createSq t c id ring depth anyId dev cq want part cls) s = .next (done { v with
      free := v.free + 1,
      cmds := { v.cmds with sqs := v.cmds.sqs ++ [{
        id := q, session := id, fn := x.fn, ring := ring.toNat, inDevice := dev, depth := depth.toNat, cq := cq.toNat, part := p,
        cls := cls.toNat, tail := 0, head := 0, error := false, bells := [], placed := part == 0xFF }] } } c stOK q))
  ∧ (∀ t c cq s v x, began s t c = v → findCq v cq.toNat = some x → ownsObject v c x.session x.fn = true →
    v.cmds.sqs.any (fun q => q.cq == x.id) = false →
    exec (.deleteCq t c cq) s =
      .next (done { v with cmds := { v.cmds with cqs := v.cmds.cqs.filter (fun q => q.id != x.id) } } c stOK))
  ∧ (∀ t c sq s v q u, began s t c = v → findSq v sq.toNat = some q → ownsObject v c q.session q.fn = true →
    u = done ((v.cmds.outstanding.filter (fun o => o.cmd.key.src == .queue sq && o.cmd.key != c.key && !o.done)).foldl
      (fun x o => stopCommand x o.cmd.key) v) c stOK →
    exec (.deleteSq t c sq) s = .next { u with
      cmds := { u.cmds with sqs := u.cmds.sqs.filter (fun x => x.id != q.id) },
      hif := { u.hif with fifo := u.hif.fifo.filter (fun d => d.sq != q.id) },
      imprints := { u.imprints with configs := u.imprints.configs.filter (fun x => x.sq != q.id) } })
  ∧ (∀ t c sq id s v q, began s t c = v → findSq v sq.toNat = some q → ownsObject v c q.session q.fn = true →
    abortRefusal v ⟨.queue sq, id⟩ = none →
    exec (.abort t c sq id) s = .next { v with etch := { v.etch with
      aborts := v.etch.aborts ++ [{ cmd := c, target := .command ⟨.queue sq, id⟩ }] } })
  ∧ (∀ t c sq id s v q st, began s t c = v → findSq v sq.toNat = some q → ownsObject v c q.session q.fn = true →
    abortRefusal v ⟨.queue sq, id⟩ = some st →
    exec (.abort t c sq id) s = .next (done v c st) ∧ (findOut v ⟨.queue sq, id⟩ = none → st = stALREADY_DONE))
  ∧ (∀ t c sq id s v, began s t c = v → findSq v sq.toNat = none →
    exec (.abort t c sq id) s = .next (done v c stALREADY_DONE))

/-- A doorbell, while the firmware is ready, of an enabled function for a queue of its own in its range that is not in ERROR, with
a tail below the queue's depth: a tail that is the queue's own changes nothing; one that passes the free entries is counted as
rejected and puts the queue in ERROR; one that does not moves the queue's tail and joins the FIFO with the doorbell's GTC as
its stamp, when fewer than 4,096 doorbells wait; when 4,096 or more wait, it is lost (loseDoorbell). A head write of an
enabled function for a completion queue of its own in its range, with a head below the depth that frees no more entries than
are posted, moves the head of that queue. A mailbox doorbell of an enabled function, while the firmware is ready: HIF_MBX_CMD
holds the 16 words written; while a command executes, overrun is set and nothing else changes; when none executes and the
entry passes the checks of entryStatus, busy is set, overrun and resp_valid are cleared, and the command is outstanding with
the GTC as its stamp, in place of any of the same key. After R131, R132, R134, R135, R136, R147, R149, R751, R754. -/
def Obligations.DoorbellsMoveQueues : Prop :=
  ((∀ t fn value s v x, advance s t = v → v.hif.fwReady = true → findSq v (nfld value.toNat 17 0) = some x →
     fnEnabled v fn = true → sqInRange v fn (nfld value.toNat 17 0) = true → x.fn = fn → x.error = false →
     nfld value.toNat 47 32 < x.depth →
     (nfld value.toNat 47 32 = x.tail → x.tail < x.depth → exec (.hifDoorbell t fn value) s = .next v)
     ∧ (let n := (nfld value.toNat 47 32 + x.depth - x.tail) % x.depth
        let used := (x.tail + x.depth - x.head) % x.depth
        (n ≠ 0 → x.depth - 1 - used < n →
          exec (.hifDoorbell t fn value) s = .next (queueError (rejectDoorbell v fn) x.id))
        ∧ (n ≠ 0 → n ≤ x.depth - 1 - used → v.hif.fifo.length < 4096 →
          exec (.hifDoorbell t fn value) s = .next { modSq v x.id (fun y => { y with tail := nfld value.toNat 47 32 }) with
            hif := { v.hif with
              fifo := v.hif.fifo ++ [{ sq := x.id, tail := nfld value.toNat 47 32, stamp := v.phase.gtc }] } })
        ∧ (n ≠ 0 → n ≤ x.depth - 1 - used → 4096 ≤ v.hif.fifo.length →
          exec (.hifDoorbell t fn value) s = .next (loseDoorbell v fn))))
   ∧ (∀ t fn value s v x, advance s t = v → v.hif.shellOnly = false → findCq v (nfld value.toNat 15 0) = some x →
     fnEnabled v fn = true → cqInRange v fn (nfld value.toNat 15 0) = true → x.fn = fn → nfld value.toNat 47 32 < x.depth →
     (nfld value.toNat 47 32 + x.depth - x.head) % x.depth ≤ (x.tail + x.depth - x.head) % x.depth →
     exec (.hifCqHead t fn value) s =
       .next (modCq v (nfld value.toNat 15 0) (fun y => { y with head := nfld value.toNat 47 32 }))))
  ∧ ((∀ t fn entry s v, advance s t = v → v.hif.shellOnly = false → v.hif.fwReady = true → fnEnabled v fn = true →
      fn < v.hif.funcs.length → (v.hif.funcs.getD fn Func.reset).busy = true →
      exec (.mailboxDoorbell t fn entry) s = .next (modFunc (modFunc v fn (fun f => { f with
        mbxCmd := (List.range 16).map (wat entry) })) fn (fun f => { f with overrun := true })))
    ∧ (∀ t fn entry s v ws u, advance s t = v → v.hif.shellOnly = false → v.hif.fwReady = true → fnEnabled v fn = true →
      fn < v.hif.funcs.length → (v.hif.funcs.getD fn Func.reset).busy = false → ws = (List.range 16).map (wat entry) →
      u = { modFunc v fn (fun f => { f with mbxCmd := ws, busy := true, overrun := false, respValid := false }) with
            cmds := { v.cmds with outstanding :=
              v.cmds.outstanding.filter (fun o => o.cmd.key != (entryCmd (.mailbox fn) ws).key) ++
                [{ cmd := entryCmd (.mailbox fn) ws, session := 0, entry := ws, stamp := v.phase.gtc, started := false,
                   deferred := false, done := false }] } } →
      entryStatus u (.mailbox fn) fn 0 ws = none →
      exec (.mailboxDoorbell t fn entry) s = .next u))

/-- Accesses that a function makes while the main domain is powered. A read of BAR0 that bar0Accepts refuses completes with
Unsupported Request and changes nothing else; such a write changes HIF_BAR_REJECT alone. In BAR2, a read inside a window that
maps it returns the bytes of memory behind it, and a write inside a writable one writes them there, where accessStatus finds
nothing against the access; outside every window a read returns all ones, and a write is counted in HIF_BAR_REJECT. A write to
a read-only register changes nothing. A write that unmasks a vector of the function whose message is pending sends the message
with the entry's address and data and clears its pending bit; a write that masks one sends nothing. After R9, R16, R126, R127,
R128, R155. -/
def Obligations.BarAccessesAnswer : Prop :=
  (∀ t fn off size s v, advance s t = v → v.hif.shellOnly = false → bar0Accepts false off size = false →
    exec (.bar0BadAccess t fn false off size) s = .next { v with out := v.out ++ [.unsupported fn] })
  ∧ (∀ t fn off size s v, advance s t = v → v.hif.shellOnly = false → bar0Accepts true off size = false →
    exec (.bar0BadAccess t fn true off size) s = .next (modFunc v fn (fun f => { f with barReject := satInc f.barReject })))
  ∧ (∀ t fn off size data s v w o, advance s t = v → v.hif.shellOnly = false → bar2Window v fn off size = some w →
    w.bar2 = some o → accessStatus v (w.base + (off - o)) size false = none →
    exec (.bar2Access t fn false off size data) s =
      .next { v with out := v.out ++ [.readData fn (readKey v.mem (w.base + (off - o)) size)] })
  ∧ (∀ t fn off size data s v w o, advance s t = v → v.hif.shellOnly = false → bar2Window v fn off size = some w →
    w.bar2 = some o → w.writable = true → accessStatus v (w.base + (off - o)) size true = none →
    exec (.bar2Access t fn true off size data) s = .next (putKey v (w.base + (off - o)) (slice data 0 size)))
  ∧ (∀ t fn off size data s v, advance s t = v → v.hif.shellOnly = false → bar2Window v fn off size = none →
    exec (.bar2Access t fn false off size data) s = .next { v with out := v.out ++ [.readData fn (List.replicate size 0xFF)] })
  ∧ (∀ t fn off size data s v, advance s t = v → v.hif.shellOnly = false → bar2Window v fn off size = none →
    exec (.bar2Access t fn true off size data) s =
      .next (modFunc v fn (fun f => { f with barReject := satInc f.barReject })))
  ∧ (∀ t fn off value s, exec (.registerWriteIgnored t fn off value) s = .next (advance s t))
  ∧ (∀ t fn vector s v e, advance s t = v → v.hif.shellOnly = false → vector < fnMsix v fn →
    v.hif.msix.find? (fun e => e.fn == fn && e.vector == vector) = some e → e.pend = true →
    ∃ u, exec (.msixVectorControlWrite t fn vector false) s = .next u
      ∧ u.out = v.out ++ [.msix fn vector (msixEntryOf u fn vector).addr (msixEntryOf u fn vector).data]
      ∧ (msixEntryOf u fn vector).masked = false
      ∧ (msixEntryOf u fn vector).pend = false)
  ∧ (∀ t fn vector s v, advance s t = v → v.hif.shellOnly = false → vector < fnMsix v fn →
    ∃ u, exec (.msixVectorControlWrite t fn vector true) s = .next u
      ∧ u.out = v.out ∧ (msixEntryOf u fn vector).masked = true)

/-- SQ_ENTRY_FETCH, while the firmware is ready, of a queue with an accepted doorbell whose next entry may be fetched (mayFetch):
the head moves on by one slot, the doorbell is used up when the head reaches its tail, and an entry whose command_id no
outstanding command of the queue holds and that passes the checks of entryStatus is outstanding from then, with its doorbell's
stamp. COMPLETION_POST of a queue with a waiting completion and a free entry, while the firmware is ready: the completion is
written (writeCompletion) and what it ends follows (afterPost); its eight words with the queue's phase tag stand at the
queue's tail in the ring. A CQ_COALESCE_TIMER that is due raises the queue's vector, and nothing of it is unsignalled any
more. After R137, R139, R141, R142, R143, R144, R155, R754. -/
def Obligations.EntriesFetchedCompletionsPosted : Prop :=
  (∀ t sq s v x b rest ws u, advance s t = v → v.hif.fwReady = true → findSq (drainFifo v) sq.toNat = some x →
     x.bells = b :: rest → ws = toWords 16 (readKey v.mem (ringKey x.inDevice x.fn (x.ring + 64 * x.head)) 64) →
     mayFetch (drainFifo v) x ws = true →
     u = modSq (drainFifo v) x.id (fun y => { y with
       head := (x.head + 1) % x.depth, bells := if (x.head + 1) % x.depth = b.1 then rest else x.bells }) →
     (∀ o, o = ({ cmd := entryCmd (.queue (BitVec.ofNat 18 x.id)) ws, session := x.session, entry := ws, stamp := b.2,
                  started := false, deferred := false, done := false } : Outstanding) →
       findOut u o.cmd.key = none →
       entryStatus { u with cmds := { u.cmds with outstanding := u.cmds.outstanding ++ [o] } } o.cmd.key.src x.fn x.part ws = none →
       exec (.sqEntryFetch t sq) s = .next { u with cmds := { u.cmds with outstanding := u.cmds.outstanding ++ [o] } }))
  ∧ ((∀ t cq s v x e rest, advance s t = v → findCq v cq.toNat = some x → x.waiting = e :: rest → v.hif.fwReady = true →
      (x.tail + x.depth - x.head) % x.depth < x.depth - 1 →
      exec (.completionPost t cq) s = .next (afterPost (writeCompletion v x e) x e)
      ∧ (writeCompletion v x e).mem = writeKey v.mem (ringKey x.inDevice x.fn (x.ring + 32 * x.tail))
          (ofWords (completionWords x.pass (match findSq v e.sq.toNat with | some q => q.head | none => 0) e)))
    ∧ (∀ t cq s v x f, advance s t = v → findCq v cq.toNat = some x → x.firstAt = some f →
      f + 1000 * x.coalTime ≤ v.phase.gtc →
      exec (.cqCoalesceTimer t cq) s =
        .next (raiseVector (modCq v x.id (fun y => { y with unsignalled := 0, firstAt := none })) x.fn x.vector)))

/-- The etch commands of R166. ETCH_STAGE of a descriptor that keeps R85–R93 inside the limit of R99 puts its etch in the table,
STAGED, under a free id that it reports. ETCH_ARM and ETCH_STAGE_ARM of an etch that passes rows 1 to 10 of R96 leave it to
its arm instant with the payloads as they read then. ETCH_ABORT of a STAGED, ARMED or REPLACED etch waits for its abort
instant (R116), and one that names no etch completes with ALREADY_DONE (R755). ETCH_QUERY reports state and stamp. -/
def Obligations.EtchCommandsComplete : Prop :=
  (∀ t c w off s v h acts id, began s t c = v → readDescriptor v c w off.toNat = .ok (h, acts) →
    stagedActions v + acts.length ≤ 32768 → newEtchId v = some id →
    exec (.etchStage t c w off) s = .next (done { v with
      free := v.free + 1,
      etch := { v.etch with etches := v.etch.etches ++ [{
        id := id, session := sessionOf v c, fn := fnOf v c, hdr := h, acts := acts, payloads := [], st := .staged,
        changed := v.phase.gtc, armInstant := 0, armCmd := none, stageCmd := some c.key, records := [],
        deadlinePassed := false }] } } c stOK id))
  ∧ (∀ t c id s v e bs, began s t c = v → findEtch v id.toNat = some e → ownsEtch v c e = true → e.st = .staged →
    armRows v (partOf v c) e = .ok bs →
    exec (.etchArm t c id) s = .next { v with etch := { v.etch with arming := v.etch.arming ++ [{
      etch := e.id, cmd := c, staged := false, batch := none, payloads := bs, records := planRecords v e.acts bs }] } })
  ∧ (∀ t c w off s v id u e bs, began s t c = v → stageFrom v c w off.toNat = .ok (id, u) → findEtch u id = some e →
    armRows u (partOf u c) e = .ok bs →
    exec (.etchStageArm t c w off) s = .next { u with etch := { u.etch with arming := u.etch.arming ++ [{
      etch := e.id, cmd := c, staged := true, batch := none, payloads := bs, records := planRecords u e.acts bs }] } })
  ∧ (∀ t c id s v e, began s t c = v → findEtch v id.toNat = some e → ownsEtch v c e = true →
    (e.st = .staged ∨ e.st = .armed ∨ e.st = .replaced) →
    exec (.etchAbort t c id) s = .next { v with etch := { v.etch with
      aborts := v.etch.aborts ++ [{ cmd := c, target := .etch e.id }] } })
  ∧ (∀ t c id s v, began s t c = v → findEtch v id.toNat = none →
    exec (.etchAbort t c id) s = .next (done v c stALREADY_DONE))
  ∧ (∀ t c id s v e, began s t c = v → findEtch v id.toNat = some e → ownsEtch v c e = true →
    exec (.etchQuery t c id) s = .next (done v c stOK
      ((match e.st with | .staged => 0 | .armed => 1 | .committed => 2 | .expired => 3 | .aborted => 4 | .replaced => 5)
        + e.changed % 2 ^ 32 * 2 ^ 32)))

/-- The instants of an etch. At its arm instant a STAGED etch that rows 11 to 14 of R96 let pass is ARMED, whoever armed it, and
the arming command completes OK (R97): its point is not reached, no other armed etch writes one of its objects at the same
point, and a primary's fallback is ARMED with its deadline still to come. An abort is ordered after every commit whose point
has matched (R116); it takes a STAGED etch, an ARMED normal one, or an ARMED primary whose fallback is still open out of the
table and completes OK (R117, R120), and with ALREADY_DONE where the etch has gone; an abort of a command, after its deadline
where that has arrived, stops that command (R121). ETCH_COMMIT commits nothing before the point matches; then the etches keyed
to it commit, with those ordered before them (R100, R104): where that is one etch, it commits with every action's effect. The
arm_deadline of a fallback that is ARMED or REPLACED is recorded on it (R114). The deadline of an outstanding command ends its
route or solve, cuts its transfer, or completes the command that no unit has taken with DEADLINE_MISS; an admitted sequence is
not timed (R140). What a normal etch's commit writes beside its actions' effects: ETC_LAST_COMMIT takes the GTC, and the etch
is COMMITTED when it notifies, or released at once when it does not (R95, R115, R123). For an etch of one POWER_STATE action
whose etch neither notifies nor writes a Husk record, the whole commit is that action's effect, the stamp and the release. -/
def Obligations.EtchInstantsTakeEffect : Prop :=
  ((∀ t id s v a e u, advance s t = v → v.etch.arming.find? (fun a => a.etch == id) = some a →
     u = { v with etch := { v.etch with
       arming := v.etch.arming.filter (fun b => b.cmd.key != a.cmd.key || b.etch != id) } } →
     findEtch u id = some e → e.st = .staged →
     (e.hdr.kind = 2 → ∃ f, findEtch u e.hdr.fallbackId = some f ∧ f.st = .armed ∧ f.deadlinePassed = false
       ∧ deadlineArrived u f.hdr.armDeadline = false) →
     pvPassed u e.hdr.commitPoint = false → pvReached u e.hdr.commitPoint = false →
     (∀ x ∈ u.etch.etches, x.id ≠ e.id → x.st = .armed → x.hdr.commitPoint = e.hdr.commitPoint →
       ¬(e.hdr.kind = 2 ∧ x.id = e.hdr.fallbackId) → ∀ p ∈ e.acts, ∀ q ∈ x.acts, actObject p ≠ actObject q) →
     exec (.etchArmInstant t id) s = .next (armOver
         (armEtch u e (if a.batch.isSome then none else some a.cmd.key) a.payloads a.records) a stOK none)
     ∧ (a.batch = none → exec (.etchArmInstant t id) s = .next (finish
         (armEtch u e (some a.cmd.key) a.payloads a.records) a.cmd
         { status := stOK, stamp := v.phase.gtc, result := if a.staged = true then BitVec.ofNat 64 a.etch else 0 })))
   ∧ (∀ t k s v a id w u, advance s t = v → v.etch.aborts.find? (fun a => a.cmd.key == k) = some a → a.target = .etch id →
     w = commitDue v (fun _ => true) →
     u = { w with etch := { w.etch with aborts := w.etch.aborts.filter (fun b => b.cmd.key != k) } } →
     (findEtch u id = none → exec (.abortInstant t k) s = .next (done u a.cmd stALREADY_DONE))
     ∧ (∀ e, findEtch u id = some e →
       (e.st = .staged ∨ (e.st = .armed ∧ e.hdr.kind = 0) ∨ (e.st = .armed ∧ e.hdr.kind = 2 ∧ fallbackOpen u e = true) →
         exec (.abortInstant t k) s = .next (done (abortEtch u e) a.cmd stOK))
       ∧ (e.st = .committed ∨ e.st = .expired → exec (.abortInstant t k) s = .next (done u a.cmd stALREADY_DONE))))
   ∧ (∀ t k s v a q w u, advance s t = v → v.etch.aborts.find? (fun a => a.cmd.key == k) = some a → a.target = .command q →
     w = deadlineFirst v q →
     u = { w with etch := { w.etch with aborts := w.etch.aborts.filter (fun b => b.cmd.key != k) } } → abortRefusal u q = none →
     exec (.abortInstant t k) s = .next (done (stopCommand u q) a.cmd stOK))
   ∧ (∀ t point s v, advance s t = v →
     (pvReached v point = false → exec (.etchCommit t point) s = .next v)
     ∧ (pvReached v point = true → exec (.etchCommit t point) s = .next (commitAt v point)))
   ∧ (∀ t point s v e, advance s t = v → pvReached v point = true →
     v.etch.etches.filter (fun e => e.st == .armed && pvReached v e.hdr.commitPoint
       && !matchBefore point e.hdr.commitPoint) = [e] → findEtch v e.id = some e →
     exec (.etchCommit t point) s = .next (commitEtch v e))
   ∧ (∀ t id s v e, advance s t = v → findEtch v id = some e → e.hdr.kind = 1 → e.deadlinePassed = false →
     (e.st = .armed ∨ e.st = .replaced) → deadlineArrived v e.hdr.armDeadline = true →
     exec (.fallbackArmDeadline t id) s = .next (deadlineMatched v e)
     ∧ (e.st = .armed → e.acts.all (fun x => x.cls != 0x10) = true → v.solver.batches = [] →
       exec (.fallbackArmDeadline t id) s = .next (modEtch v e.id (fun x => { x with deadlinePassed := true }))))
   ∧ (∀ t k s v o d, advance s t = v → findOut v k = some o → o.cmd.deadline = some d → o.done = false → deadlineArrived v d = true →
     (timedWork v o.cmd.key = true →
       exec (.deadlineMatch t k) s = .next (missRoutes (missSolves v (solveOf o.cmd.key) (now v)) o.cmd.key))
     ∧ (timedWork v o.cmd.key = false → admittedJoin v o.cmd.key = true → exec (.deadlineMatch t k) s = .next v)
     ∧ (timedWork v o.cmd.key = false → admittedJoin v o.cmd.key = false →
       v.cmds.transfers.find? (fun x => x.cmd.key == o.cmd.key) = none →
       exec (.deadlineMatch t k) s = .next (missUnstarted (stopWork v o.cmd.key) o.cmd))
     ∧ (∀ x, timedWork v o.cmd.key = false → admittedJoin v o.cmd.key = false →
       v.cmds.transfers.find? (fun x => x.cmd.key == o.cmd.key) = some x → x.cut = none →
       exec (.deadlineMatch t k) s = .next (endEarly
         (charge v (sessionOf v x.cmd) (fun n => { n with deadlineMisses := satInc n.deadlineMisses })) x stDEADLINE_MISS x.length))))
  ∧ (∀ (v : State) (e : Etch) (x : EtchAction) (b : Bytes), e.hdr.kind = 0 → e.hdr.husk = false → e.hdr.notify = false →
      e.acts = [x] → e.payloads = [b] → x.typ = 5 →
      ∃ w, w = applyAction v e (pvSrc e.hdr.commitPoint) x b ∧
        commitEtch v e = releaseEtch (setEtch { w with etch := { w.etch with lastCommit := v.phase.gtc } } e.id .committed) e.id)

/-- Edges of the phase sources (R33, R41, R53). On an EXT_TRIGGER or LIDAR_AZ source the edge that completes the divider moves the
count up by one and takes its stamp; the edges before it only move the divider. A frame or line edge moves the count by one. A
GPTP edge takes the raw value of the 802.1AS time. An index pulse away from a multiple of counts_per_rev counts an index error
(R40). A source without an edge for stall_periods × P is stalled, counted and recorded (R49), and a safe-state trigger only
when a SAFETY or HARD slot references it (R51); one that is not due, or of no type that the event belongs to, changes nothing.
The stamp, period and direction that an edge leaves (R36, R41, R49, R56): the stamp is the arrival less edge_delay_ns, the
interval since the edge before is the newest of at most eight, direction is 1 exactly when the count of a QUAD or SERIAL_ENC
source came out below the edge before, and 0 before a second edge and for every other type, and stalled is clear. -/
def Obligations.PhaseEdgesMoveSources : Prop :=
  ((∀ t n s v p, advance s t = v → v.phase.sources[n]? = some p → (psType p.cfg = 1 ∨ psType p.cfg = 8) →
     (p.divPos.toNat < psDivider p.cfg →
       exec (.phaseEdge t n) s = .next (modPs v n (fun p => { p with divPos := p.divPos + 1 })))
     ∧ (psDivider p.cfg ≤ p.divPos.toNat →
       exec (.phaseEdge t n) s = .next (modPs v n (fun p => { edge v.phase.gtc (p.raw + 0x10000) p with divPos := 0 }))))
   ∧ (∀ t n s v p, advance s t = v → v.phase.sources[n]? = some p → (psType p.cfg = 6 ∨ psType p.cfg = 7) →
     exec (.phaseEdge t n) s = .next (modPs v n (fun p => edge v.phase.gtc (p.raw + 0x10000) p)))
   ∧ (∀ t n s v p, advance s t = v → v.phase.sources[n]? = some p → psType p.cfg = 5 →
     exec (.phaseEdge t n) s = .next (modPs v n (fun p => edge v.phase.gtc (gptpRaw v p.cfg) p)))
   ∧ (∀ t n s v p, advance s t = v → v.phase.sources[n]? = some p → psType p.cfg = 8 →
     p.raw.toNat / 65536 % max 1 (psParam p.cfg % 2 ^ 24) ≠ 0 →
     exec (.lidarIndexPulse t n) s = .next (modPs v n (fun p => { p with indexErr := satInc p.indexErr })))
   ∧ (∀ t n s v p, advance s t = v → v.phase.sources[n]? = some p → psInterpValid p = true → p.stalled = false →
     psStallPeriods p.cfg * psPeriod p ≤ v.phase.gtc - p.stamp → sourceReferenced v n 2 = false →
     exec (.phaseSourceStall t n) s = .next (huskFault
       (modPs v n (fun p => { p with stalled := true, stallCount := satInc p.stallCount })) (srcPs n) 6 n 8))
   ∧ (∀ t n s v p u, advance s t = v → v.phase.sources[n]? = some p → psInterpValid p = true → p.stalled = false →
     psStallPeriods p.cfg * psPeriod p ≤ v.phase.gtc - p.stamp → sourceReferenced v n 2 = true →
     u = huskFault (modPs v n (fun p => { p with stalled := true, stallCount := satInc p.stallCount })) (srcPs n) 6 n 8 →
     exec (.phaseSourceStall t n) s = .next (safeTrigger (huskRequest u 0x0E (srcPs n) (leBytes 1 n ++ leBytes 1 4)) srcShell))
   ∧ (∀ t n s v p, advance s t = v → v.phase.sources[n]? = some p →
     psInterpValid p = false ∨ p.stalled = true ∨ v.phase.gtc - p.stamp < psStallPeriods p.cfg * psPeriod p →
     exec (.phaseSourceStall t n) s = .next v)
   ∧ (∀ t n s v p, advance s t = v → v.phase.sources[n]? = some p →
     psType p.cfg ≠ 8 ∨ p.raw.toNat / 65536 % max 1 (psParam p.cfg % 2 ^ 24) = 0 → exec (.lidarIndexPulse t n) s = .next v)
   ∧ (∀ t n s v p, advance s t = v → v.phase.sources[n]? = some p →
     (psType p.cfg = 0 ∨ psType p.cfg = 2 ∨ psType p.cfg = 3 ∨ psType p.cfg = 4) → exec (.phaseEdge t n) s = .next v))
  ∧ (∀ (t : Nat) (raw : BitVec 64) (p : PhaseSource),
      (edge t raw p).raw = raw
      ∧ (edge t raw p).stamp = ((t : Int) - psEdgeDelay p.cfg).toNat
      ∧ (edge t raw p).stalled = false
      ∧ (edge t raw p).intervals.length ≤ max 8 p.intervals.length
      ∧ (p.edges ≠ 0 → (edge t raw p).intervals =
          ((((((t : Int) - psEdgeDelay p.cfg).toNat : Int) - p.stamp).toNat) :: p.intervals).take 8)
      ∧ (p.edges = 0 → (edge t raw p).intervals = p.intervals)
      ∧ (p.seen = true → psType p.cfg = 2 ∨ psType p.cfg = 3 → ((edge t raw p).down = true ↔ (raw - p.raw).msb = true))
      ∧ (p.seen = false ∨ (psType p.cfg ≠ 2 ∧ psType p.cfg ≠ 3) → (edge t raw p).down = false)
      ∧ (edge t raw p).cfg = p.cfg ∧ (edge t raw p).stallCount = p.stallCount ∧ (edge t raw p).indexErr = p.indexErr
      ∧ (edge t raw p).countValid = p.countValid)

/-- The encoder inputs (R704–R707). On a quadrature input a change of one level moves the count by one, up or down as the levels
follow each other, with an edge of the sources on it; both levels changed in one sample is a quad error and moves nothing; an
index edge latches the count. On a serial input a valid reply to the request that waits gives the position and an edge stamped
with the request; a bad one, or none in time, counts a serial error. -/
def Obligations.EncoderInputsCount : Prop :=
  (∀ t n a b s v e, advance s t = v → v.ports.encoders[n]? = some e → e.mode = 1 →
    ((quadPlace a b + 4 - quadPlace e.a e.b) % 4 = 1 → exec (.quadStateChange t n a b) s = .next (encoderEdge
      (modEncoder (modEncoder v n (fun e => { e with a := a, b := b })) n (fun e => { e with count := e.count + 1 })) n v.phase.gtc 2))
    ∧ ((quadPlace a b + 4 - quadPlace e.a e.b) % 4 = 3 → exec (.quadStateChange t n a b) s = .next (encoderEdge
      (modEncoder (modEncoder v n (fun e => { e with a := a, b := b })) n (fun e => { e with count := e.count - 1 })) n v.phase.gtc 2))
    ∧ (a ≠ e.a → b ≠ e.b → exec (.quadStateChange t n a b) s = .next
      (modEncoder (modEncoder v n (fun e => { e with a := a, b := b })) n (fun e => { e with quadErrors := satInc e.quadErrors }))))
  ∧ (∀ t n s v, advance s t = v → exec (.encIndexEdge t n) s = .next
      (modEncoder v n (fun e => if e.mode = 1 then { e with zLatch := e.count.signExtend 64 } else e)))
  ∧ (∀ t n at_ data stop s v e g, advance s t = v → v.ports.encoders[n]? = some e → e.mode = 2 → e.request = some g →
    (replyValid e.rate g at_ data stop = true → exec (.serialEncReply t n at_ data stop) s = .next (encoderEdge
      (modEncoder (modEncoder v n (fun e => { e with request := none })) n (fun x => { x with
        count := BitVec.ofInt 48 (toSigned e.posBits.toNat (data.toNat / 256 % 2 ^ 40)) })) n g 3))
    ∧ (replyValid e.rate g at_ data stop = false → exec (.serialEncReply t n at_ data stop) s = .next
      (modEncoder (modEncoder v n (fun e => { e with request := none })) n (fun x => { x with
        serialErrors := satInc x.serialErrors }))))
  ∧ (∀ t n s v e g, advance s t = v → v.ports.encoders[n]? = some e → e.request = some g → replyLimit e.rate g < v.phase.gtc →
    exec (.serialReplyTimeout t n) s = .next (modEncoder v n (fun e => { e with
      request := none, serialErrors := satInc e.serialErrors })))

/-- The motion cycle of a running network (R298, R326, R328, R694). SYNC0 advances the count modulo 2^48, starts a new cycle and
is an edge of every MOTION_CYCLE source; serial encoder inputs then ask for their positions (R706). The frame carries the
output image once in a cycle. A frame that returns whole is the cycle's: its input image is kept, the missing-cycle run ends,
and every configured channel takes its feedback. At rx_bound a frame that has not returned counts a missing cycle; at
miss_limit of them every channel that is not DISABLED enters STOP, with its END_TO_END record. The feedback of R326 and the
stop of R328, as a channel takes them: the first frame of a configured channel gives the position from the drive's, scaled and
offset; each later one adds the scaled difference of the drive's position modulo 2^32; and a channel that is not DISABLED goes
to STOP, with its entry actions due, where a DISABLED one stays as it is. -/
def Obligations.MotionCycleRuns : Prop :=
  ((∀ t s v u, advance s t = v → v.servo.net.tCyc ≠ 0 →
     u = modSourcesOn
       { v with servo := { v.servo with
           snaps := [],
           net := { v.servo.net with
             count := (v.servo.net.count + 1) % 2 ^ 48, sync0 := v.phase.gtc, sent := false, returned := false } } }
       0x40 [4] (edge v.phase.gtc (BitVec.ofNat 64 ((v.servo.net.count + 1) % 2 ^ 48 * 65536))) →
     exec (.motionCycleSync0 t) s = .next ((List.range 16).foldl encoderSync u)
     ∧ (v.ports.encoders.length = 16 → v.ports.encoders.all (fun e => e.mode != 2) = true →
       exec (.motionCycleSync0 t) s = .next u))
   ∧ (∀ t s v, advance s t = v → v.servo.net.tCyc ≠ 0 → v.ports.mnet.running = true → v.servo.net.sent = false →
     v.servo.net.returned = false →
     exec (.mnetFrameTransmit t) s = .next { v with
       servo := { v.servo with net := { v.servo.net with sent := true, sentImage := v.servo.net.outImage } },
       out := v.out ++ [.frame v.servo.net.outImage] })
   ∧ (∀ t input wc s v, advance s t = v → v.servo.net.sent = true → v.servo.net.returned = false →
     wc = Config.workingCounter v.ports.mnet.image →
     exec (.mnetFrameReturn t input wc false false) s = .next (mapChannels
       { v with servo := { v.servo with net := { v.servo.net with
           returned := true, inImage := slice input 0 4096, missing := 0, missHandled := false } } }
       (fun _ c => takeFeedback (slice input 0 4096) c)))
   ∧ (∀ t s v l, advance s t = v → v.servo.net.sent = true → v.servo.net.returned = false →
     l = v.ports.mnet.missing.modify 0 satInc →
     exec (.mnetRxBoundExpiry t) s = .next { v with
       servo := { v.servo with net := { v.servo.net with missing := v.servo.net.missing + 1, sent := false } },
       ports := { v.ports with mnet := { v.ports.mnet with
         missing := if mnMode v.ports.mnet.image = 2 then l.modify 1 satInc else l } } })
   ∧ (∀ t s v, advance s t = v → v.servo.net.missLimit ≠ 0 → v.servo.net.missLimit ≤ v.servo.net.missing →
     v.servo.net.missHandled = false →
     exec (.missLimitReached t) s = .next (huskRequest (mapChannels
         { v with servo := { v.servo with net := { v.servo.net with missHandled := true } } } (fun _ c => stopChannel c))
       0x0E srcShell (leBytes 1 0 ++ leBytes 1 5 ++ leBytes 2 0 ++ leBytes 4 v.servo.net.missing))))
  ∧ ((∀ img c, c.cfg ≠ [] → c.rawLast = none →
      (takeFeedback img c).y = satSigned 64 ((BitVec.ofNat 32 (numAt img (cfgPosOffset c.cfg) 4)).toInt
        * (2 ^ (16 - cfgFbFrac c.cfg) : Nat) + cfgFbOffset c.cfg))
    ∧ (∀ img c p, c.cfg ≠ [] → c.rawLast = some p →
      (takeFeedback img c).y = satSigned 64 (c.y + (BitVec.ofNat 32 (numAt img (cfgPosOffset c.cfg) 4) - p).toInt
        * (2 ^ (16 - cfgFbFrac c.cfg) : Nat)))
    ∧ (∀ img c, (takeFeedback img c).st = c.st ∧ (takeFeedback img c).cfg = c.cfg)
    ∧ (∀ c, c.cfg ≠ [] → c.st ≠ .disabled → c.st ≠ .stop → (stopChannel c).st = .stop ∧ (stopChannel c).entryDue = true)
    ∧ (∀ c, c.st = .disabled → stopChannel c = c))

/-- Events of channels and pairs. SERVO_SAMPLE of a channel whose turn it is not changes nothing. SERVO_SAMPLE of a channel whose
turn it is and of which no fault waits to be performed, when, after the etches that are due have committed (commitCycle) and
the channel has taken its block and its entry actions, no command waits and the run of its loop (sampleChannel) finds neither
a drive fault nor a hold stop: the channel holds what the loop computed, its state before the loop is kept as a snapshot, and
its outputs stand in the next frame; an STO that waits for the stops follows where they have come to rest (stoAtRest).
FOLLOWING_ERROR_FAULT, ENABLING_TIMEOUT and XCHECK_FAULT of a channel of which that fault waits take it from waiting and
perform it (channelFault) with cause 5, 6 and 7. PAIR_LOCKSTEP_MISMATCH of a pair that is not retired, while no drain is in
progress, adds a FAULT record, discards the pair's samples of the cycle and retires it; its channels move where moveAll finds
a pair for every one, and otherwise each is left without a pair (orphan). CHANNEL_MOVE of a drain's next channel, to the pair
that moveTarget gives, binds the channel to it and counts it, and ends the drain with OK once no channel is left.
SAFETY_CONNECTION_FAULT of a configured connection of a running network that is not faulted yet stops every configured channel
whose output offset lies in the outputs of the connection's node, counts a failure of that node's line, adds the connection to
the faulted ones, and sends the Husk a record of type 0x0E with the node and 5. After R298, R299, R303, R319, R321, R322,
R324, R329, R330, R692, R696. -/
def Obligations.ServoEventsAct : Prop :=
  (∀ t n s v, advance s t = v → sampleTurn v n = false → exec (.servoSample t n) s = .next v)
  ∧ (∀ t n s v w x c r, advance s t = v → sampleTurn v n = true → w = commitCycle v → n < w.servo.channels.length →
    (getChannel w n).faultDue = none → x = modChannel w n (fun c => { entryActions (takeBlock c) with outside := none }) → getChannel x n = c →
    c.reqs = [] → r = sampleChannel (sampleInput x n c) c → r.driveFault = false → r.holdStop = false →
    exec (.servoSample t n) s = .next (stoAtRest { x with servo := { x.servo with
      channels := x.servo.channels.set n r.chan,
      snaps := x.servo.snaps ++ [(n, c)],
      net := { x.servo.net with outImage := writeOutputs c.cfg r.drive r.tffOut r.enable x.servo.net.outImage } } }))
  ∧ (∀ t n s v, advance s t = v → (getChannel v n).faultDue = some .following →
    exec (.followingErrorFault t n) s = .next (channelFault (modChannel v n (fun c => { c with faultDue := none })) n 5
      (reactsStop (getChannel v n)) (getChannel v n).ePrev))
  ∧ (∀ t n s v, advance s t = v → (getChannel v n).faultDue = some .enabling →
    exec (.enablingTimeout t n) s = .next (channelFault (modChannel v n (fun c => { c with faultDue := none })) n 6 true 0))
  ∧ (∀ t n s v, advance s t = v → (getChannel v n).faultDue = some .xcheck →
    exec (.xcheckFault t n) s = .next (channelFault (modChannel v n (fun c => { c with faultDue := none })) n 7
      (reactsStop (getChannel v n)) (getChannel v n).ePrev))
  ∧ (∀ t p s v w, advance s t = v → (getPair v p).retired = false → v.servo.drain = none →
    moveAll (modPair (discardPair (huskFault v (srcPair p) 3 p 1) p) p (fun x => { x with retired := true })) p = some w →
    exec (.pairLockstepMismatch t p) s = .next w)
  ∧ (∀ t p s v w, advance s t = v → (getPair v p).retired = false → v.servo.drain = none →
    w = modPair (discardPair (huskFault v (srcPair p) 3 p 1) p) p (fun x => { x with retired := true }) → moveAll w p = none →
    exec (.pairLockstepMismatch t p) s = .next ((pairChannels w p).foldl orphan w))
  ∧ (∀ t n q s v d u, advance s t = v → v.servo.drain = some d → (pairChannels v d.pair).head? = some n →
    moveTarget v d.pair n = some q →
    u = modChannel { v with servo := { v.servo with drain := some { d with moved := d.moved + 1 } } } n
      (fun c => { c with pair := q }) →
    exec (.channelMove t n q) s = .next (if (pairChannels u d.pair).isEmpty = true then endPairDrain u stOK else u))
  ∧ (∀ t i s v w node x, advance s t = v → v.ports.mnet.running = true → i < mnSafeties v.ports.mnet.image →
    v.ports.mnet.faulted.contains i = false → node = fld (wordAt (mnSafety v.ports.mnet.image i) 0) 31 24 →
    x = mnNode v.ports.mnet.image node →
    w = mapChannels v (fun _ c =>
      if configured c && decide (nodeOutAt x ≤ cfgOutOffset c.cfg) && decide (cfgOutOffset c.cfg < nodeOutAt x + nodeOutLen x)
      then stopChannel c else c) →
    exec (.safetyConnectionFault t i) s = .next (huskRequest { w with ports := { w.ports with mnet := { w.ports.mnet with
      failures := countLine w.ports.mnet.failures (if mnMode v.ports.mnet.image = 2 ∧ 2048 ≤ nodeOutAt x then 1 else 0),
      faulted := w.ports.mnet.faulted ++ [i] } } } 0x0E srcShell (leBytes 1 node ++ leBytes 1 5)))

/-- The servo commands. SERVO_NET_CONFIG with T_cyc of 31,250 to 4,000,000 ns, tx_shift of 2,000 ns or more, rx_bound 2,000 ns or
more after it and as far before T_cyc, and miss_limit 1 to 8: when no channel has read instants, none that the sleeping
network left unread (awakeUnread) and netStatus finds nothing against it, it puts its four values in force and completes OK;
when some have, it waits at each of them. SERVO_CHANNEL_CONFIG of a channel with no read instants, whose two blocks can be
read and pass configStatus, gives the channel its configuration, its block and its pair and every other variable its value at
reset but for its waiting commands, its last count and a stop that its group is in, and completes OK. Of a channel with no
read instants, SERVO_ENABLE takes a configured DISABLED one to ENABLING, SERVO_DISABLE a configured one to DISABLED and
SERVO_CLEAR_FAULT one in HOLD to TRACKING, each with its entry actions due and no fault waiting, and completes OK;
SERVO_STATUS completes OK with the channel's status. Of a channel that has read instants, each of these four commands waits at
the channel. SERVO_GAINS_BASIC of a configured channel, with a commit point that has the form of a phase value, a record that
can be read and T_cyc not 0: a record from which no block follows (recordValues, basicBlock) completes with BAD_DESCRIPTOR;
one from which a block within its ranges follows, when staging and arming its etch are refused nothing, leaves the etch staged
and arming with that block as its payload. After R295, R314, R315, R316, R318, R323, R325, R331. -/
def Obligations.ServoCommandsComplete : Prop :=
  (∀ t c a b d m s v x, began s t c = v → 31250 ≤ a.toNat → a.toNat ≤ 4000000 → 2000 ≤ b.toNat → b.toNat + 2000 ≤ d.toNat →
    d.toNat + 2000 ≤ a.toNat → 1 ≤ m.toNat → m.toNat ≤ 8 →
    x = ({ cmd := c, tCyc := a.toNat, txShift := b.toNat, rxBound := d.toNat, missLimit := m.toNat, left := [], off := true }
      : NetConfig) →
    ((∀ n < 96, hasReads v (getChannel v n) = false) → awakeUnread v = false → netStatus v true x = none →
      exec (.servoNetConfig t c a b d m) s = .next (done { v with servo := { v.servo with net := { v.servo.net with
        tCyc := a.toNat, txShift := b.toNat, rxBound := d.toNat, missLimit := m.toNat } } } c stOK))
    ∧ (∀ l, l = (List.range 96).filter (fun n => hasReads v (getChannel v n)) → l ≠ [] →
      exec (.servoNetConfig t c a b d m) s = .next (modNet
        (mapChannels v (fun n y => if l.contains n then { y with reqs := y.reqs ++ [.net c] } else y))
        (fun w => { w with nexts := w.nexts ++ [{ x with left := l }] }))))
  ∧ (∀ t c n p cw co bw bo s v a b, began s t c = v → n.toNat < 96 → readWindow v c cw co.toNat 64 = .ok a →
    readWindow v c bw bo.toNat 128 = .ok b → hasReads v (getChannel v n.toNat) = false →
    configStatus v n.toNat (toWords 16 a) (toWords 32 b) p.toNat = none →
    exec (.servoChannelConfig t c n p cw co bw bo) s = .next (done (modChannel v n.toNat (fun x => { Channel.reset with
      cfg := toWords 16 a, block := toWords 32 b, pair := p.toNat, reqs := x.reqs, lastCount := x.lastCount,
      stopping := if (match chanGroup v n.toNat with | some g => (getGroup v g).inStop | none => false) then .due else .off }))
      c stOK))
  ∧ (∀ t c n s v, began s t c = v → n.toNat < 96 → hasReads v (getChannel v n.toNat) = false →
    configured (getChannel v n.toNat) = true → (getChannel v n.toNat).st = .disabled →
    exec (.servoEnable t c n) s = .next (done (modChannel v n.toNat (fun x => { x with
      st := .enabling, entryDue := true, fromHold := false, faultDue := none })) c stOK))
  ∧ (∀ t c n s v, began s t c = v → n.toNat < 96 → hasReads v (getChannel v n.toNat) = false →
    configured (getChannel v n.toNat) = true →
    exec (.servoDisable t c n) s = .next (done (modChannel v n.toNat (fun x => { x with
      st := .disabled, entryDue := true, fromHold := false, faultDue := none })) c stOK))
  ∧ (∀ t c n s v, began s t c = v → n.toNat < 96 → hasReads v (getChannel v n.toNat) = false →
    (getChannel v n.toNat).st = .hold →
    exec (.servoClearFault t c n) s = .next (done (modChannel v n.toNat (fun x => { x with
      st := .tracking, entryDue := true, fromHold := true, faultDue := none })) c stOK))
  ∧ (∀ t c n s v, began s t c = v → n.toNat < 96 → hasReads v (getChannel v n.toNat) = false →
    exec (.servoStatus t c n) s = .next (done v c stOK (statusResult v n.toNat)))
  ∧ (∀ t c n s v, began s t c = v → n.toNat < 96 → hasReads v (getChannel v n.toNat) = true →
    exec (.servoStatus t c n) s = .next (modChannel v n.toNat (fun x => { x with reqs := x.reqs ++ [.status c] }))
    ∧ exec (.servoEnable t c n) s = .next (modChannel v n.toNat (fun x => { x with reqs := x.reqs ++ [.enable c] }))
    ∧ exec (.servoDisable t c n) s = .next (modChannel v n.toNat (fun x => { x with reqs := x.reqs ++ [.disable c] }))
    ∧ exec (.servoClearFault t c n) s = .next (modChannel v n.toNat (fun x => { x with reqs := x.reqs ++ [.clear c] })))
  ∧ (∀ t c n w o p s v b, began s t c = v → n.toNat < 96 → pvOk p = true → readWindow v c w o.toNat 84 = .ok b →
    (getChannel v n.toNat).cfg.isEmpty = false → v.servo.net.tCyc ≠ 0 →
    ((recordValues b).bind (fun x => basicBlock x (samplePeriod v n.toNat)) = none →
      exec (.servoGainsBasic t c n w o p) s = .next (done v c stBAD_DESCRIPTOR))
    ∧ (∀ ws id u e bs, (recordValues b).bind (fun x => basicBlock x (samplePeriod v n.toNat)) = some ws →
      blockRangesOk ws = true →
      stageOk v (gainEtch n.toNat (ofWords ws) p).1 (gainEtch n.toNat (ofWords ws) p).2 = true →
      stageEtch v (sessionOf v c) (fnOf v c) (some c.key) (gainEtch n.toNat (ofWords ws) p).1
        (gainEtch n.toNat (ofWords ws) p).2 = .ok (id, u) →
      findEtch u id = some e → armRowsOf u (partOf u c) e (.ok [ofWords ws]) = .ok bs →
      exec (.servoGainsBasic t c n w o p) s = .next { u with etch := { u.etch with arming := u.etch.arming ++
        [{ etch := e.id, cmd := c, staged := true, batch := none, payloads := bs, records := [] }] } }))

/-- The memory commands. MEM_ALLOC of 1 byte or more, of a class up to 3 and an alignment of 2^12 to 2^30, for a session that the
command may name and within its quota, when placeAlloc finds a place, allocates the place to the session and completes OK with
its address. MEM_FREE of the address of an allocation of the command's own of which no byte is in use closes the peer windows
over it, cuts the transfers that write it with WINDOW_CLOSED, drops the allocation, the device windows over it and its weight
digests, and completes OK. WINDOW_OPEN of a range that windowPlace grants, with a free id, opens the window and completes OK
with the id and, above it, the number of its BAR2 page. WINDOW_CLOSE of a window of the command's own that holds no ring in
use cuts the transfers whose destination it is with WINDOW_CLOSED, drops the window and completes OK. After R98, R128, R153,
R165, R752, R753. -/
def Obligations.MemoryCommandsComplete : Prop :=
  (∀ t c id bytes cls al s v x a, began s t c = v → bytes ≠ 0 → cls.toNat ≤ 3 → 12 ≤ al.toNat → al.toNat ≤ 30 →
    findSession v id = some x → mayName v c id = true → sessionBytes v id + bytes.toNat ≤ x.quota.toNat →
    placeAlloc v x bytes.toNat cls.toNat (2 ^ al.toNat) = some a →
    exec (.memAlloc t c id bytes cls al) s = .next (done { v with
      free := v.free + 1,
      cmds := { v.cmds with allocs := v.cmds.allocs ++ [{
        addr := a, bytes := bytes.toNat, cls := cls.toNat, session := some id, fn := x.fn }] } } c stOK a))
  ∧ (∀ t c addr s v a id u, began s t c = v → v.cmds.allocs.find? (fun a => a.addr == addr.toNat) = some a →
    a.session = some id → ownsObject v c id a.fn = true → rangeInUse v a.addr a.bytes = false →
    u = cutTransfers (closePeerWindows v (fun w => overlaps w.base w.length a.addr a.bytes)) stWINDOW_CLOSED
      (fun x => writesRange x a.addr a.bytes) →
    exec (.memFree t c addr) s = .next (done { u with
      cmds := { u.cmds with
        allocs := u.cmds.allocs.filter (fun x => x.addr != a.addr),
        windows := u.cmds.windows.filter (fun w => w.host || !overlaps w.base w.length a.addr a.bytes) },
      imprints := { u.imprints with weights := u.imprints.weights.filter (fun w => w.addr != a.addr) } } c stOK))
  ∧ (∀ t c base len isHost bar2 wr s v x o id, began s t c = v → (sessionOf v c).bind (findSession v) = some x →
    windowPlace v x base.toNat len.toNat isHost bar2 = .ok o →
    pickFree 0 (2 ^ 32) (Config.handOut v.free) (v.cmds.windows.map (·.id)) = some id →
    exec (.windowOpen t c base len isHost bar2 wr) s = .next (done { v with
      free := v.free + 1,
      cmds := { v.cmds with windows := v.cmds.windows ++ [{
        id := id, session := x.id, fn := x.fn, host := isHost, base := base.toNat, length := len.toNat, bar2 := o,
        writable := wr }] } } c stOK (id + o.getD 0 / 4096 * 2 ^ 32)))
  ∧ (∀ t c w s v x u, began s t c = v → findWindow v w = some x → ownsObject v c x.session x.fn = true →
    ringsInUse v (ringKey (!x.host) x.fn x.base) x.length = false →
    u = cutTransfers v stWINDOW_CLOSED (fun y => match transferDst y with | some d => d.1 == x.id | none => false) →
    exec (.windowClose t c w) s =
      .next (done { u with cmds := { u.cmds with windows := u.cmds.windows.filter (fun y => y.id != x.id) } } c stOK))

/-- DMA. DMA_COPY with a QoS class that is not 3 and that qosAllowed allows, DMA_FILL and DMA_CRC, whose ranges lie in windows of
the command's own and pass endStatus, are transfers in progress from then on; the write that a copy or a fill is to make
clears the registration of a weight allocation that it overlaps. DMA_TRANSFER_COMPLETE of a transfer that has a channel and is
not cut, whose deadline has not arrived and that no close of the same stamp goes before: a copy, when accessStatus finds
nothing against the write, leaves the source's bytes at the destination and completes OK with the length; a fill likewise
leaves the repeated pattern and completes OK with the length; a CRC completes OK with the CRC-32C of its bytes and writes
none. A copy and a CRC with a source on the device count the bursts that were read again (countRereads).
HOST_DMA_COMPLETION_TIMEOUT of a transfer with the host that has a channel, is not cut and began 50 ms ago or more: what
landed of it stands (landPrefix), and it completes with INTERNAL and detail 7. After R20, R71, R153, R165, R416, R678. -/
def Obligations.TransfersMoveBytes : Prop :=
  (∀ t c a b ao bo n q s v k d x, began s t c = v → q ≠ 3 → qosAllowed v c q.toNat = true →
    windowKey v c a ao.toNat n.toNat false = .ok k → windowKey v c b bo.toNat n.toNat true = .ok d →
    endStatus v c k n.toNat false = none → endStatus v c d n.toNat true = none →
    x = ({ cmd := c, kind := .copy k b.toNat d, length := n.toNat, start := v.phase.gtc, cut := none } : Transfer) →
    exec (.dmaCopy t c a b ao bo n q) s = .next { clearWeights v d n.toNat with cmds := { v.cmds with transfers := v.cmds.transfers ++ [x] } })
  ∧ (∀ t c b bo n p s v d x, began s t c = v → windowKey v c b bo.toNat n.toNat true = .ok d →
    endStatus v c d n.toNat true = none →
    x = ({ cmd := c, kind := .fill b.toNat d p, length := n.toNat, start := v.phase.gtc, cut := none } : Transfer) →
    exec (.dmaFill t c b bo n p) s = .next { clearWeights v d n.toNat with cmds := { v.cmds with transfers := v.cmds.transfers ++ [x] } })
  ∧ (∀ t c a ao n s v k x, began s t c = v → windowKey v c a ao.toNat n.toNat false = .ok k →
    endStatus v c k n.toNat false = none →
    x = ({ cmd := c, kind := .crc k, length := n.toNat, start := v.phase.gtc, cut := none } : Transfer) →
    exec (.dmaCrc t c a ao n) s = .next { v with cmds := { v.cmds with transfers := v.cmds.transfers ++ [x] } })
  ∧ (∀ t k s v x a w d u, advance s t = v → v.cmds.transfers.find? (fun x => x.cmd.key == k && (x.cut.isSome || hasChannel v x)) = some x →
    x.cut = none → transferLate v x = false → closedAtStamp v t x = false →
    x.kind = .copy a w d → u = (if a < hostBase then countRereads v [(a, x.length)] else v) → accessStatus u d x.length true = none →
    exec (.dmaTransferComplete t k .done) s =
      .next (done (dropTransfer (putKey u d (readKey v.mem a x.length)) x) x.cmd stOK x.length))
  ∧ (∀ t k s v x p w d, advance s t = v → v.cmds.transfers.find? (fun x => x.cmd.key == k && (x.cut.isSome || hasChannel v x)) = some x →
    x.cut = none → transferLate v x = false → closedAtStamp v t x = false →
    x.kind = .fill w d p → accessStatus v d x.length true = none →
    exec (.dmaTransferComplete t k .done) s = .next (done (dropTransfer (putKey v d
      ((List.range x.length).map (fun i => BitVec.ofNat 8 (p.toNat / 256 ^ (i % 4))))) x) x.cmd stOK x.length))
  ∧ (∀ t k s v x a u, advance s t = v → v.cmds.transfers.find? (fun x => x.cmd.key == k && (x.cut.isSome || hasChannel v x)) = some x →
    x.cut = none → transferLate v x = false → closedAtStamp v t x = false →
    x.kind = .crc a → u = (if a < hostBase then countRereads v [(a, x.length)] else v) →
    exec (.dmaTransferComplete t k .done) s =
      .next (done (dropTransfer u x) x.cmd stOK (crc32c (readKey v.mem a x.length)).toNat))
  ∧ (∀ t k s v x, advance s t = v → v.cmds.transfers.find? (fun x => x.cmd.key == k) = some x → x.cut = none →
    hasChannel v x = true → transferHost x = true → x.start + 50000000 ≤ v.phase.gtc →
    exec (.hostDmaCompletionTimeout t k) s =
      .next (done (dropTransfer (landPrefix v x (landedOf v x x.length) stINTERNAL) x) x.cmd stINTERNAL 7))

/-- Bytes written at a key of canonical memories, below the host's keys or among them, read back as written. A byte of device or
host memory outside the bytes written reads as before. A write through a window that succeeds writes its bytes at the key that
the window gives, and changes neither the commands, nor the interface, nor the safety state, nor the phase sources. -/
def Obligations.WritesReachOnlyTheirBytes : Prop :=
  (∀ (m : Mem) (k : Nat) (b : Bytes), Memory.wf m.dev = true → Memory.wf m.host = true →
    (k + b.length ≤ hostBase ∨ hostBase ≤ k) → readKey (writeKey m k b) k b.length = b)
  ∧ (∀ (m : Mem) (k j : Nat) (b : Bytes), (k + b.length ≤ hostBase ∨ hostBase ≤ k) → (j < k ∨ k + b.length ≤ j) →
    readKey (writeKey m k b) j 1 = readKey m j 1)
  ∧ (∀ (s : State) (c : Cmd) (w : Word) (o : Nat) (b : Bytes) (u : State), writeWindow s c w o b = .ok u →
    ∃ k, windowKey s c w o b.length true = .ok k ∧ u.mem = writeKey s.mem k b ∧ u.cmds = s.cmds ∧ u.hif = s.hif
      ∧ u.safety = s.safety ∧ u.phase = s.phase)

/-- The Plate commands. PLATE_LOAD of an image that can be read, keeps the form and the bandwidth of plateOk at the profile in
force and is allowed by the protection set (plateAllowed), when LPDDR has a free place of its length, keeps the image under
the place's address and completes OK with that handle. PLATE_UNLOAD of a loaded image that neither runs nor is named by an
etch drops it and completes OK. PLATE_START, while the default Plate runs, of a loaded image against which plateResources
finds nothing applies its sources, takes its minimum periods, puts all of its entries in force (swapCommit) at the count that
startCount gives, and completes OK with that count. PLATE_STATUS completes OK with the Plate's tag, its overruns and its
cycles. SQ_MIGRATE of an own queue that serves no loop, to a partition that its function may use and that accepts its class,
moves the queue (moveQueue) and completes OK with the epoch of that partition. SELFTEST_STATUS of a sector up to 17, an engine
up to 8 or a bank up to 15 completes OK with the quanta that ran, those due, those overdue and those failed. After R508, R511,
R513, R541, R548. -/
def Obligations.PlateCommandsComplete : Prop :=
  (∀ t c w off len s v b h, began s t c = v → readWindow v c w off.toNat len.toNat = .ok b → plateOk (profileGbs v.power.profile) b = true →
    plateAllowed v b = true → chooseSpot v lpddrBase (lpddrBase + lpddrBytes) b.length 64 (heldRanges v) = some h →
    exec (.plateLoad t c w off len) s = .next (done { v with
      free := v.free + 1, plate := { v.plate with loaded := v.plate.loaded ++ [(h, b)] } } c stOK h))
  ∧ (∀ t c h s v, began s t c = v → v.plate.loaded.any (fun l => l.1 == h.toNat) = true → v.plate.handle ≠ some h.toNat →
    plateNamed v h.toNat = false →
    exec (.plateUnload t c h) s = .next (done { v with
      plate := { v.plate with loaded := v.plate.loaded.filter (fun l => l.1 != h.toNat) } } c stOK))
  ∧ (∀ t c h s v k b, began s t c = v → v.plate.isDefault = true →
    v.plate.loaded.find? (fun l => l.1 == h.toNat) = some (k, b) →
    plateResources v b (List.range 16) (startValid v b) = none →
    exec (.plateStart t c h) s = .next (done (swapCommit
        { applySources v b with plate := { (applySources v b).plate with minPeriods := (List.range 8).map (plMinPeriod b) } }
        (List.range 16) b k (startCount (applySources v b) b))
      c stOK (startCount (applySources v b) b)))
  ∧ (∀ t c s v, began s t c = v → exec (.plateStatus t c) s = .next (done v c stOK
      (fld (wat v.plate.header 0) 15 0 + v.plate.overruns.toNat * 2 ^ 16 + v.plate.cycles.toNat * 2 ^ 32)))
  ∧ (∀ t c q p s v x, began s t c = v → findSq v q.toNat = some x → ownsObject v c x.session x.fn = true →
    v.loops.any (fun l => l.cmd.key.src == .queue q) = false → fnPartition v x.fn p.toNat = true →
    partAccepts v p.toNat x.cls = true →
    exec (.sqMigrate t c q p) s = .next (done (moveQueue v x.id p.toNat (some t)) c stOK
      (getPart (moveQueue v x.id p.toNat (some t)) p.toNat).epoch.toNat))
  ∧ (∀ t c cls unit s v, began s t c = v → ((cls = 0 ∧ unit.toNat ≤ 17) ∨ (cls = 1 ∧ unit.toNat ≤ 8) ∨ (cls = 2 ∧ unit.toNat ≤ 15)) →
    exec (.selftestStatus t c cls unit) s = .next (done v c stOK
      (min (getTest v cls.toNat unit.toNat).run 255 + (4 - cls.toNat) * 2 ^ 8
        + (getTest v cls.toNat unit.toNat).overdue.toNat * 2 ^ 16 + (getTest v cls.toNat unit.toNat).failed.toNat * 2 ^ 32)))

/-- PLATE_BOUNDARY with no firmware swap waiting: under the default Plate it moves the origin on by whole 1,000,000 ticks once
that many have passed and changes nothing before; under another Plate whose cycles run, it sets the cycle count alone.
SLOT_START of a slot whose offsets hold the phase, in a partition where no command of an earlier slot still runs: a CHECK slot
(use 3) is the partition's check slot from now on, and any other is its slot from now on, and its plan cycle starts
(actionSlot). SLOT_END of a slot whose offsets no longer hold the phase and which is no open check slot closes it.
SELFTEST_QUANTUM_START of a unit that runs none, has some left to run and may run one (quantumAllowed) marks it as running.
SELFTEST_QUANTUM_END of one that runs counts it as run; after a failure it counts the failure as well and has its consequences
(quantumFailed). DIAGNOSTIC_INTERVAL_END of an interval that has passed, while the firmware is ready, with no unit overdue and
the known-answer test made, starts a fresh interval (freshInterval). After R512, R518, R521, R757. -/
def Obligations.SlotsOpenAndClose : Prop :=
  ((∀ t s v, advance s t = v → v.plate.isDefault = true → v.plate.origin + 1000000 ≤ v.phase.gtc → v.boot.swap = none →
     v.boot.shellSwap = none →
     exec (.plateBoundary t) s = .next { v with plate := { v.plate with
       origin := v.plate.origin + (v.phase.gtc - v.plate.origin) / 1000000 * 1000000 } })
   ∧ (∀ t s v, advance s t = v → v.plate.isDefault = true → v.phase.gtc < v.plate.origin + 1000000 →
     exec (.plateBoundary t) s = .next v)
   ∧ (∀ t s v k, advance s t = v → v.plate.isDefault = false → cyclesRun v = true → v.boot.swap = none → v.boot.shellSwap = none →
     k = (phaseAt v (plateMajor v.plate.header) / 65536 + 2 ^ 48 - v.plate.origin % 2 ^ 48) % 2 ^ 48 / majorLen v →
     exec (.plateBoundary t) s = .next { v with plate := { v.plate with cycles := BitVec.ofNat 32 (min k (2 ^ 32 - 1)) } })
   ∧ (∀ t n s v w, advance s t = v → slotAt v n = some w → cyclesRun v = true → slStart w ≤ majorPhase v → majorPhase v < slEnd w →
     overrunning v (slPart w) = false → slUse w = 3 →
     exec (.slotStart t n) s = .next (modPart v (slPart w) (fun x => { x with check := some n, checkSince := v.phase.gtc })))
   ∧ (∀ t n s v w, advance s t = v → slotAt v n = some w → cyclesRun v = true → slStart w ≤ majorPhase v → majorPhase v < slEnd w →
     overrunning v (slPart w) = false → slUse w ≠ 3 →
     exec (.slotStart t n) s =
       .next (actionSlot (modPart v (slPart w) (fun x => { x with slot := some n, since := v.phase.gtc })) n))
   ∧ (∀ t n s v w, advance s t = v → slotAt v n = some w → ¬ (slStart w ≤ majorPhase v ∧ majorPhase v < slEnd w) →
     (getPart v (slPart w)).check ≠ some n →
     exec (.slotEnd t n) s = .next (modPart v (slPart w) (fun x => { x with
       slot := if x.slot = some n then none else x.slot, check := if x.check = some n then none else x.check }))))
  ∧ ((∀ t cls unit s v, advance s t = v → (getTest v cls unit).running = false → (getTest v cls unit).run < quantaDue cls →
      quantumAllowed v cls unit = true →
      exec (.selftestQuantumStart t cls unit) s = .next (modTest v cls unit (fun x => { x with running := true })))
    ∧ (∀ t cls unit s v, advance s t = v → (getTest v cls unit).running = true →
      exec (.selftestQuantumEnd t cls unit false) s =
        .next (modTest v cls unit (fun x => { x with running := false, run := x.run + 1 })))
    ∧ (∀ t cls unit s v, advance s t = v → (getTest v cls unit).running = true →
      exec (.selftestQuantumEnd t cls unit true) s = .next (quantumFailed
        (modTest v cls unit (fun x => { x with running := false, run := x.run + 1, failed := satInc x.failed })) cls unit))
    ∧ (∀ t s v, advance s t = v → v.plate.intervalStart + selftestMs v * 1000000 ≤ v.phase.gtc → v.hif.fwReady = true →
      overdueUnits v = [] → v.safety.knownAnswer = true →
      exec (.diagnosticIntervalEnd t) s = .next (freshInterval v)))

/-- The structure commands, for an engine up to 8. On an engine that can carry them out (commandEngine), STRUCT_LOAD of an image
that can be read, has the form of imageOk and for which loadVersion gives a version, whose slot's standby image, if any, is
not held, and with which the engine's images take no more than 4 MiB of store and 2 MiB of work memory, makes it the slot's
standby image and completes OK with the version and the KiB of store left; STRUCT_UNLOAD of a standby image that is not held
drops it, and of an active image without a standby, while the engine neither runs nor waits and the image is not held, empties
the slot, and completes OK. On an engine that can be queried (queriedEngine), STRUCT_QUERY of a slot with both images
completes OK with both versions and the free memories; ENGINE_STATUS completes OK with the epoch, the mode, the occupied slots
and the solves; SOLVE_DIAG_READ of a slot with a copy that the capacity takes writes it and completes OK with its length.
STRUCT_QUERY and ENGINE_STATUS of an engine that cannot be queried, and STRUCT_LOAD on one that cannot carry it out, complete
with NO_RESOURCE. After R227, R228, R229, R253, R254, R273, R290, R291, R292. -/
def Obligations.StructureCommandsComplete : Prop :=
  (∀ t c eng w off len s v e b ver im l, began s t c = v → eng.toNat ≤ 8 → commandEngine v c eng = some e →
    readWindow v c w off.toNat len.toNat = .ok b → imageOk b = true → loadVersion v c e b = .ok ver →
    (∀ old, (getSlot v e (verSlot ver)).standby = some old → imageHeld v e old.version = false) →
    im = ({ bytes := b, version := ver, usable := true, session := sessionOf v c } : Image) →
    l = im :: (match (getSlot v e (verSlot ver)).standby with
      | some old => ((getEngine v e).slots.flatMap Slot.images).erase old
      | none => (getEngine v e).slots.flatMap Slot.images) →
    storeUsed l ≤ 4194304 → workUsed l ≤ 2097152 →
    exec (.structLoad t c eng w off len) s = .next (done (modSlot v e (verSlot ver) (fun y => { y with standby := some im })) c stOK
      (ver.toNat + (4194304 - storeUsed l) / 1024 * 2 ^ 32)))
  ∧ (∀ t c eng ver s v e, began s t c = v → eng.toNat ≤ 8 → commandEngine v c eng = some e →
    (getSlot v e (verSlot ver)).standby.map (·.version) = some ver → imageHeld v e ver = false →
    exec (.structUnload t c eng ver) s = .next (done (modSlot v e (verSlot ver) (fun y => { y with standby := none })) c stOK))
  ∧ (∀ t c eng ver s v e, began s t c = v → eng.toNat ≤ 8 → commandEngine v c eng = some e →
    (getSlot v e (verSlot ver)).standby = none → (getSlot v e (verSlot ver)).active.map (·.version) = some ver →
    (getEngine v e).waiting = [] → (getEngine v e).run = none → imageHeld v e ver = false →
    exec (.structUnload t c eng ver) s = .next (done (modSlot v e (verSlot ver) (fun _ => Slot.empty)) c stOK))
  ∧ (∀ t c eng slot s v e a b, began s t c = v → eng.toNat ≤ 8 → queriedEngine v c eng = some e →
    (getSlot v e slot.toNat).active = some a → (getSlot v e slot.toNat).standby = some b →
    exec (.structQuery t c eng slot) s = .next (done v c stOK (a.version.toNat + b.version.toNat * 2 ^ 16
      + workFree (getEngine v e).images * 2 ^ 32 + storeFree (getEngine v e).images * 2 ^ 48)))
  ∧ (∀ t c eng s v e, began s t c = v → eng.toNat ≤ 8 → queriedEngine v c eng = some e →
    exec (.engineStatus t c eng) s = .next (done v c stOK ((getEngine v e).epoch.toNat
      + engineModeCode (getEngine v e).mode * 2 ^ 16
      + (List.range 8).foldl (fun n i => if ((getEngine v e).slots.getD i Slot.empty).images.isEmpty then n else n + 2 ^ i) 0 * 2 ^ 24
      + (getEngine v e).solves.toNat * 2 ^ 32)))
  ∧ (∀ t c eng slot w off cap s v e b u, began s t c = v → eng.toNat ≤ 8 → queriedEngine v c eng = some e →
    (getSlot v e slot.toNat).diag = some b → b.length ≤ cap.toNat → writeWindow v c w off.toNat b = .ok u →
    exec (.solveDiagRead t c eng slot w off cap) s = .next (done u c stOK b.length))
  ∧ (∀ t c eng s v slot, began s t c = v → eng.toNat ≤ 8 → queriedEngine v c eng = none →
    exec (.structQuery t c eng slot) s = .next (done v c stNO_RESOURCE)
    ∧ exec (.engineStatus t c eng) s = .next (done v c stNO_RESOURCE))
  ∧ (∀ t c eng w off len s v, began s t c = v → eng.toNat ≤ 8 → commandEngine v c eng = none →
    exec (.structLoad t c eng w off len) s = .next (done v c stNO_RESOURCE))

/-- A solve from submission to result. SOLVE on an engine up to 8 of the partition that can carry it out, with an active image,
both windows resolved and the result on the device where there is a deadline, when admitHard admits it with its bound, waits
on the engine (placeSolve). SCENARIO_BATCH of a descriptor that can be read and keeps batchHeaderOk, whose scenarios pass
batchScenarios and which admitHard admits with the batch's bound, is placed with its scenarios on their engines (placeBatch).
SOLVE_START of the engine's next solve, with a usable active image, whose run passes solveRun gives the engine that run
(takeSolve). SOLVE_WRITEOUT_START on an active engine, of a run whose deadline has not arrived, marks its write-out as begun.
SOLVE_COMPLETE on an active engine of a run of its epoch: before its write-out has begun nothing changes; after that, with the
result window still open and nothing against the write, the result stands at its place, the slot keeps the items, the
persistent values and the seeds, unless SOLVE_STATE_WRITE has written its state meanwhile (the model's reading of R645, log
entry 156), the solve is counted and its imprint entry made, and its outcome is handed on (solveOver), DEGRADED or OK; on an
engine that is not active, the completion is discarded as stale. A pivot of magnitude below tau is replaced by tau with its
sign, and 0 by tau. Its reciprocal is a divide on path 0, and on path 1 wherever its seed's error exceeds 2^-8. After R234,
R247, R255, R257, R261, R262, R264, R270, R275, R276, R288. -/
def Obligations.SolvesRun : Prop :=
  (∀ t c eng slot dw doff rw roff cap s v e im dk rk w n u, advance s t = v → eng.toNat ≤ 8 →
    peHasEngine (partEntry v (partOf v c)) eng.toNat = true → commandEngine v c eng = some e →
    (getSlot v e slot.toNat).active = some im → packetKey v c dw doff.toNat = .ok dk →
    windowKey v c rw roff.toNat cap.toNat true = .ok rk → c.deadline.isSome = false ∨ rk < hostBase →
    w = ({
      owner := .command c, session := sessionOf v c, slot := slot.toNat, delta := dk, built := [], result := rk,
      resultWindow := some rw.toNat, capacity := cap.toNat, deadline := c.deadline, basic := !c.expert, epoch := 0,
      part := partOf v c, cls := classOf v c, sq := match c.key.src with | .queue q => q.toNat | _ => 0 } : WaitingSolve) →
    n = (match packetOf v w with | .ok b => solveBound v im.bytes b | .error _ => 0) →
    admitHard v c (partOf v c) (classOf v c) n = .ok u →
    exec (.solve t c eng slot dw doff rw roff cap) s = .next (placeSolve u e w))
  ∧ (∀ t c w off s v h key b q xs u, advance s t = v → readWindow v c w off.toNat 64 = .ok h → batchHeaderOk h = true →
    windowKey v c w off.toNat (64 + 48 * fld (wordAt h 0) 6 0) true = .ok key →
    b = readKey v.mem key (64 + 48 * fld (wordAt h 0) 6 0) → q = (match c.key.src with | .queue q => q.toNat | _ => 0) →
    batchScenarios v c (sessionOf v c) (partOf v c) q b (fld (wordAt h 0) 6 0) = .ok xs →
    admitHard v c (partOf v c) (classOf v c) (batchBound v c (sessionOf v c) (partOf v c) (classOf v c) q xs) = .ok u →
    exec (.scenarioBatch t c w off) s =
      .next (placeBatch u (batchOf v c (sessionOf v c) (partOf v c) (classOf v c) q key b xs)))
  ∧ (∀ t e s v w im run, advance s t = v → nextSolve v e = some w → (getSlot v e w.slot).active = some im → im.usable = true →
    solveRun v w (getSlot v e w.slot) im = .ok run →
    exec (.solveStart t e false) s = .next (takeSolve v e w run))
  ∧ (∀ t e s v r, advance s t = v → (getEngine v e).run = some r → (getEngine v e).mode = .active →
    (∀ d, r.job.deadline = some d → deadlineArrived v d = false) →
    exec (.solveWriteoutStart t e) s = .next (modEngine v e (fun x => { x with run := some { r with writing := true } })))
  ∧ (∀ t e s v r rep inp z u, advance s t = v → (getEngine v e).run = some r → (getEngine v e).mode = .active →
    r.job.epoch = (getEngine v e).epoch → r.writing = true → rep = solveResult r (getEngine v e).epoch (now v) →
    (∀ w, r.job.resultWindow = some w → v.cmds.windows.any (fun x => x.id == w) = true) →
    z = countRereads v (r.guards.map (fun g => (g.lo, g.hi - g.lo))) →
    u = chargeRun (modEngine z e (fun x => { x with run := none, solves := satInc x.solves })) r →
    accessStatus z r.job.result rep.bytes.length true = none → inp = SolveInput.ofRun r →
    exec (.solveComplete t e) s = .next (solveOver
      (endSolveImprint (modSlot (putKey u r.job.result rep.bytes) e r.job.slot (fun x => if r.rewritten then x else { x with
          items := itemsAfter r, persistent := keptWords inp, seeds := (engineDone inp).seeds }))
        r (getEngine v e).epoch (now v) rep.degraded
        (some (solveResultItem rep.bytes (if rep.plan then some rep.planOffset else none))))
      r.job
      { status := if rep.degraded then stDEGRADED else stOK, warn := rep.warn, iterations := r.params.iterations,
        feasible := rep.feasible, degraded := rep.degraded, plan := rep.plan, planCrc := rep.planCrc,
        planAddr := r.job.result + rep.planOffset, planLen := rep.planLength, stamp := now v, epoch := (getEngine v e).epoch,
        engine := some e }))
  ∧ (∀ t e s v r, advance s t = v → (getEngine v e).run = some r → (getEngine v e).mode ≠ .active →
    exec (.solveComplete t e) s = .next (discardStale v r.job.session))
  ∧ (∀ t e s v r, advance s t = v → (getEngine v e).run = some r → (getEngine v e).mode = .active →
    r.job.epoch = (getEngine v e).epoch → r.writing = false → exec (.solveComplete t e) s = .next v)
  ∧ (∀ tau p : Int, 0 < tau →
    (p = 0 → pivotUsed tau p = tau) ∧ (0 < p → p < tau → pivotUsed tau p = tau) ∧ (p < 0 → -tau < p → pivotUsed tau p = -tau)
    ∧ (tau ≤ p ∨ p ≤ -tau → pivotUsed tau p = p))
  ∧ (∀ inp seeds index p fa F fe, imPath inp.image = 0 →
    pivotReciprocal inp seeds index p fa F fe = solverDiv (2 ^ fa : Nat) p F)
  ∧ (∀ inp seeds index p fa F fe x, imPath inp.image = 1 → seeds.find? (fun y => y.1 == index) = some (index, x) →
    2 ^ (fa + F) < ((2 ^ (fa + F) : Nat) - p * x.toInt : Int).natAbs * 256 →
    pivotReciprocal inp seeds index p fa F fe = solverDiv (2 ^ fa : Nat) p F)

/-- Engine faults and the spare. ENGINE_OVERRUN of an active engine whose run has not begun its write-out 2,048 cycles after its
bound, and ENGINE_FAULT of an active engine, write a FAULT record with cause 2 and 3 and fence the engine; with a spare engine
its work is handed to it (swapEngine); with none the engine is retired and every solve that waits on it without a deadline
ends with INTERNAL (failWaiting). ENGINE_OVERRUN before that, or of a run whose write-out has begun, or without a run, and
ENGINE_FAULT of an engine that is not active, change nothing. SPARE_ENGINE_READY makes the spare that is being swapped in
active and ON, sends the Husk the SPARE_REMAP record, raises SPARE_USED, notes the repair, and completes with OK the command
that asked for the swap, if one did; with no swap under way it changes nothing. After R258, R259, R260, R284, R285, R287,
R291. -/
def Obligations.EngineFaultsHandOver : Prop :=
  (∀ t e s v r f sp, advance s t = v → (getEngine v e).run = some r → r.writing = false → (getEngine v e).mode = .active →
    r.start + runBound v r + cyclesNs v 2048 ≤ v.phase.gtc → f = fenceEngine (huskFault v (srcEngine e) 2 e 2) e → spareEngine f = some sp →
    exec (.engineOverrun t e) s = .next (swapEngine f e sp none))
  ∧ (∀ t e s v r f, advance s t = v → (getEngine v e).run = some r → r.writing = false → (getEngine v e).mode = .active →
    r.start + runBound v r + cyclesNs v 2048 ≤ v.phase.gtc → f = fenceEngine (huskFault v (srcEngine e) 2 e 2) e →
    spareEngine f = none →
    exec (.engineOverrun t e) s = .next (failWaiting (modEngine f e (fun x => { x with mode := .retired })) e))
  ∧ (∀ t e s v r, advance s t = v → (getEngine v e).run = some r →
    r.writing = true ∨ v.phase.gtc < r.start + runBound v r + cyclesNs v 2048 → exec (.engineOverrun t e) s = .next v)
  ∧ (∀ t e s v f sp, advance s t = v → (getEngine v e).mode = .active →
    f = fenceEngine (huskFault v (srcEngine e) 2 e 3) e → spareEngine f = some sp →
    exec (.engineFault t e) s = .next (swapEngine f e sp none))
  ∧ (∀ t e s v f, advance s t = v → (getEngine v e).mode = .active →
    f = fenceEngine (huskFault v (srcEngine e) 2 e 3) e → spareEngine f = none →
    exec (.engineFault t e) s = .next (failWaiting (modEngine f e (fun x => { x with mode := .retired })) e))
  ∧ (∀ t s v sp e u, advance s t = v →
    (List.range 9).find? (fun n => (getEngine v n).swapping.isSome) = some sp → (getEngine v sp).swapping = some (e, none) →
    u = modEngine v sp (fun x => { x with mode := .active, swapping := none }) →
    exec (.spareEngineReady t) s = .next (repairEntry (raiseEvent (huskRequest
        { u with power := { u.power with engines := u.power.engines.set sp 2 } } 0x0B srcCp
        (leBytes 1 2 ++ leBytes 1 e ++ leBytes 1 sp ++ [0] ++ leBytes 2 (getEngine v sp).epoch.toNat))
      evSPARE_USED (2 + e * 2 ^ 8 + sp * 2 ^ 16)) 2 e sp))
  ∧ (∀ t s v sp e c u, advance s t = v →
    (List.range 9).find? (fun n => (getEngine v n).swapping.isSome) = some sp → (getEngine v sp).swapping = some (e, some c) →
    u = modEngine v sp (fun x => { x with mode := .active, swapping := none }) →
    exec (.spareEngineReady t) s = .next (done (repairEntry (raiseEvent (huskRequest
        { u with power := { u.power with engines := u.power.engines.set sp 2 } } 0x0B srcCp
        (leBytes 1 2 ++ leBytes 1 e ++ leBytes 1 sp ++ [0] ++ leBytes 2 (getEngine v sp).epoch.toNat))
      evSPARE_USED (2 + e * 2 ^ 8 + sp * 2 ^ 16)) 2 e sp) c stOK (sp + (getEngine v sp).epoch.toNat * 2 ^ 16)))
  ∧ (∀ t s v, advance s t = v → (∀ n, n < 9 → (getEngine v n).swapping = none) → exec (.spareEngineReady t) s = .next v)
  ∧ (∀ t e s v, advance s t = v → (getEngine v e).mode ≠ .active → exec (.engineFault t e) s = .next v)
  ∧ (∀ t e s v, advance s t = v → (getEngine v e).run = none → exec (.engineOverrun t e) s = .next v)

/-- The Tracer. TRACER_CHECK of a request that can be read lets the copy wait, for its partition's CHECK slot where that has one.
TRACER_CHECK_BEGIN, when no check runs and the request at the head may start, takes it and runs its check. TRACER_CHECK_END of
a command's check whose CHECK slot is still open, or that needs none, while the Tracer has not failed, notes the verdict
(noteVerdict) and completes the command with OK or TRACER_REJECT and the verdict's reason, knot, index and CRC, and of a
batch's candidate hands the answer to the batch; a command's check whose CHECK slot a PLATE_SWAP has closed ends with
TRACER_REJECT and reason TIMEOUT; after the Tracer has failed, a command's check completes with TRACER_REJECT, whatever was
found, under the verdict that failedVerdict gives. TRACER_KNOWN_ANSWER_TEST between checks and outside CHECK slots is noted.
One that fails, and TRACER_LOCKSTEP_MISMATCH, write a FAULT record, mark the Tracer as failed and trigger the safe state.
After R31, R552, R553, R558, R577, R587, R591. -/
def Obligations.TracerChecksRun : Prop :=
  (∀ t c w off s v h b, began s t c = v → readWindow v c w off.toNat 64 = .ok h → readWindow v c w off.toNat (reqBytes h) = .ok b →
    exec (.tracerCheck t c w off) s = .next { v with safety := { v.safety with queue := v.safety.queue ++ [{
      owner := .command c, request := b,
      part := if hasCheckSlot v (checkPart v c) then some (checkPart v c) else none }] } })
  ∧ (∀ t s v r rest, advance s t = v → v.safety.check = none → v.safety.queue = r :: rest → checkMayStart v r = true →
    exec (.tracerCheckBegin t) s = .next { v with
      free := v.free + 1,
      safety := { v.safety with
        queue := rest, check := some { req := r, start := v.phase.gtc, verdict := checkVerdict v r.request } } })
  ∧ (∀ t s v r c, advance s t = v → v.safety.check = some r → checkOutlived v r = false → r.req.owner = .command c → r.verdict.accepted = true →
    v.safety.tracerFailed = false →
    exec (.tracerCheckEnd t) s = .next (done (noteVerdict { v with safety := { v.safety with check := none } } r.verdict) c stOK
      (1 + r.verdict.reason * 2 ^ 8 + r.verdict.knot * 2 ^ 16 + r.verdict.index * 2 ^ 24 + r.verdict.crc.toNat * 2 ^ 32)))
  ∧ (∀ t s v r c, advance s t = v → v.safety.check = some r → checkOutlived v r = false → r.req.owner = .command c → r.verdict.accepted = false →
    exec (.tracerCheckEnd t) s = .next (done (noteVerdict { v with safety := { v.safety with check := none } } r.verdict) c
      stTRACER_REJECT
      (r.verdict.reason * 2 ^ 8 + r.verdict.knot * 2 ^ 16 + r.verdict.index * 2 ^ 24 + r.verdict.crc.toNat * 2 ^ 32)))
  ∧ (∀ t s v r k i, advance s t = v → v.safety.check = some r → checkOutlived v r = false → r.req.owner = .candidate k i →
    v.safety.tracerFailed = false →
    exec (.tracerCheckEnd t) s = .next (batchAnswer
      (noteVerdict { v with safety := { v.safety with check := none } } r.verdict) k i r.verdict.accepted))
  ∧ (∀ t s v r c x, advance s t = v → v.safety.check = some r → checkOutlived v r = false → r.req.owner = .command c → v.safety.tracerFailed = true →
    x = failedVerdict v r.verdict →
    exec (.tracerCheckEnd t) s = .next (done (noteVerdict { v with safety := { v.safety with check := none } } x) c stTRACER_REJECT
      (x.reason * 2 ^ 8 + x.knot * 2 ^ 16 + x.index * 2 ^ 24 + x.crc.toNat * 2 ^ 32)))
  ∧ (∀ t s v r c, advance s t = v → v.safety.check = some r → checkOutlived v r = true → r.req.owner = .command c →
    v.safety.tracerFailed = false →
    exec (.tracerCheckEnd t) s = .next (done (noteVerdict { v with safety := { v.safety with check := none } } (timedOut r)) c
      stTRACER_REJECT ((timedOut r).reason * 2 ^ 8 + (timedOut r).crc.toNat * 2 ^ 32)))
  ∧ (∀ t s v, advance s t = v → v.safety.check = none → v.field.parts.any (fun p => p.check.isSome) = false →
    exec (.tracerKnownAnswerTest t false) s = .next { v with safety := { v.safety with knownAnswer := true } })
  ∧ (∀ t s v, advance s t = v → v.safety.check = none → v.field.parts.any (fun p => p.check.isSome) = false →
    exec (.tracerKnownAnswerTest t true) s = .next (safeTrigger { huskFault { v with
      safety := { v.safety with knownAnswer := true } } srcTracer 8 0 4 with
        safety := { v.safety with knownAnswer := true, tracerFailed := true } } srcTracer))
  ∧ (∀ t s v, advance s t = v →
    exec (.tracerLockstepMismatch t) s = .next (safeTrigger { huskFault v srcTracer 8 0 1 with
      safety := { v.safety with tracerFailed := true } } srcTracer))

/-- The Field commands. ROUTE_LOAD of a program of at most 65,536 bytes that can be read and keeps routeOk, of a session with
fewer than 256 routes and with a free handle, keeps it for the session and completes OK with the handle. ROUTE_UNLOAD of an
own route that is not in use drops it and completes OK. ROUTE_RUN of an own route whose bindings can be read and pass
bindStatus, and FIELD_OP of a block that can be read, keeps fieldOpOk and reaches nothing outside the session's envelope, when
admitHard admits it with its bound, waits for its partition with what it was submitted with; a HARD command that finds a
lower-class route running there counts a wait of its session; a FIELD_OP's shape is noted as the session's latest. SECTOR_MAP
of a logical sector of a partition that a physical one serves completes OK with that sector and the partition's epoch. After
R335, R363, R364, R378, R379, R380. -/
def Obligations.FieldCommandsComplete : Prop :=
  (∀ t c w off len s v b h, began s t c = v → readWindow v c w off.toNat len.toNat = .ok b → b.length ≤ 65536 → routeOk b = true →
    (v.field.routes.filter (fun r => r.session == ownerOf v c)).length < 256 →
    pickFree 1 4095 (Config.handOut v.free) (v.field.routes.map (·.handle)) = some h →
    exec (.routeLoad t c w off len) s = .next (done { v with
      free := v.free + 1,
      field := { v.field with routes := v.field.routes ++ [{ handle := h, session := ownerOf v c, program := b }] } } c stOK h))
  ∧ (∀ t c h s v r, began s t c = v → h ≠ 0 → findRoute v c h.toNat = some r → routeInUse v h.toNat = false →
    exec (.routeUnload t c h) s = .next (done { v with
      field := { v.field with routes := v.field.routes.filter (fun r => r.handle != h.toNat) } } c stOK))
  ∧ (∀ t c h w off s v r b x u, advance s t = v → h ≠ 0 → findRoute v c h.toNat = some r →
    readWindow v c w off.toNat (32 * rpOperands r.program) = .ok b →
    x = { routeFor v c with handle := r.handle, program := r.program, binds := (List.range (rpOperands r.program)).map (bindingAt b) } →
    bindStatus v c x b = none → admitHard v c x.part x.cls (routeBound v x) = .ok u →
    exec (.routeRun t c h w off) s = .next (modPart (if hardBlocked u x.part x.cls then
        charge (levelShare u x.part (some x.session)) (some x.session) (fun n => { n with hardWaits := satInc n.hardWaits })
      else levelShare u x.part (some x.session)) x.part (fun p => { p with waiting := p.waiting ++ [x] })))
  ∧ (∀ t c w off s v b x y u, advance s t = v → readWindow v c w off.toNat 64 = .ok b → fieldOpOk b = true →
    x = buildRoute v { routeFor v c with op := b } →
    (routeReads v.mem x ++ routeWrites x).any (fun r => !inEnvelope v (sessionOf v c) r.1 r.2) = false →
    y = noteShape v x.session (foShape b) → admitHard y x.cmd x.part x.cls (routeBound y x) = .ok u →
    exec (.fieldOp t c w off) s = .next (modPart (if hardBlocked u x.part x.cls then
        charge (levelShare u x.part (some x.session)) (some x.session) (fun n => { n with hardWaits := satInc n.hardWaits })
      else levelShare u x.part (some x.session)) x.part (fun p => { p with waiting := p.waiting ++ [x] })))
  ∧ (∀ t c n s v k p, began s t c = v → v.field.map[n.toNat]? = some (.phys k) → partOfLogical v n.toNat = some p →
    exec (.sectorMap t c n) s = .next (done v c stOK (k + (getPart v p).epoch.toNat * 2 ^ 16)))

/-- Routes and the slots of their streams. ROUTE_START of the command whose route is the partition's next begins it (beginRoute),
where startStatus finds nothing against it. ROUTE_COMPLETE of a running route whose deadline has not arrived ends it with what
it still has to write (finishRoute); one whose deadline has arrived stops with DEADLINE_MISS. ROUTE_STALL_TIMEOUT of a route
that is stalled fails it with INTERNAL and detail 4. After each of these ends the partition goes on (afterRoute). TILE_PUBLISH
of the next tile of a queue's stream that can be published (nextTile) puts it into its slot, with its flags and index faults
counted, and changes nothing where none can. TILE_RELEASE of the tile at a queue's head, read in full: while an output slot
written from it is unread, only its count of detections is cleared; after that, it passes the head and its slot is released,
where a sink reads the queue once that has written what it writes (consumeTile). SLOT_DETECTION of a corrected bit counts it
alone; a CRC, weight or parity detection in a slot that can be regenerated is counted in the sector and on the tile, and as a
rerun unless two went before it on that tile. STEP_RERUN_LIMIT_REACHED of a queue with a tile of three detections or more
fences the sector with cause 14 and ends its route with STEP_RERUN_LIMIT (faultSector). After R336, R346, R357, R367, R368,
R370, R396, R397, R400, R404, R410, R411, R412, R413. -/
def Obligations.RoutesMoveTilesAndEnd : Prop :=
  ((∀ t p k s v w, advance s t = v → nextRoute v p = some w → w.cmd.key = k → startStatus v (buildRoute v w) = none →
     exec (.routeStart t p k) s = .next (beginRoute v p w false []))
   ∧ (∀ t p s v r, advance s t = v → (getPart v p).run = some r → (∀ d, r.job.cmd.deadline = some d → deadlineArrived v d = false) →
     exec (.routeComplete t p) s = .next (afterRoute (finishRoute v p r) p))
   ∧ (∀ t p s v r d, advance s t = v → (getPart v p).run = some r → r.job.cmd.deadline = some d → deadlineArrived v d = true →
     exec (.routeComplete t p) s = .next (afterRoute (stopRoute v p r stDEADLINE_MISS) p))
   ∧ (∀ t p s v r, advance s t = v → (getPart v p).run = some r → stalled v p r = true →
     exec (.routeStallTimeout t p) s = .next (afterRoute (failRoute v p r 4) p)))
  ∧ ((∀ t p i q s v r y st x, advance s t = v → (getPart v p).run = some r → getQueue r i q = some y →
      nextTile v p i r y = some (st, x) →
      exec (.tilePublish t p i q) s = .next (publishSlot
        (passSides (setFlags (setRun v p (withTile v i r y st x)) p i x.flags) p r i st y.tiles.length) p i q r.job.program x
        (y.tiles.length + 1 == ((runStreams v p r).get i q).length)))
    ∧ (∀ t p i q s v r y, advance s t = v → (getPart v p).run = some r → getQueue r i q = some y → nextTile v p i r y = none →
      exec (.tilePublish t p i q) s = .next v)
    ∧ (∀ t p i q s v r y x st h, advance s t = v → (getPart v p).run = some r → getQueue r i q = some y →
      y.tiles[y.released]? = some x → consumerOf r.job.program q = some st → h = readHead v p i q r.job.program x →
      (outputsRead r i st y.released = false →
        exec (.tileRelease t p i q) s = .next (setRun h.1 p (modQueue r i q (fun y => y.clear y.released))))
      ∧ (outputsRead r i st y.released = true → sinkOf r.job q = none →
        exec (.tileRelease t p i q) s =
          .next (releaseSlot (setRun h.1 p (passHead h.1 r i q y.released)) p i q r y.released))
      ∧ (∀ sk ts w r1, outputsRead r i st y.released = true → sinkOf r.job q = some sk →
        sinkTiles sk r i y.released h.2 = some ts → consumeTile h.1 p r i sk y.released ts.1 ts.2 = .ok (w, r1) →
        exec (.tileRelease t p i q) s =
          .next (releaseSlot (setRun w p (passHead w r1 i q y.released)) p i q r1 y.released)))
    ∧ (∀ t p i q s v n, advance s t = v → physAt v p i = some n →
      exec (.slotDetection t p i q .corrected) s = .next (modSector v n (fun x => { x with corrected := satInc x.corrected })))
    ∧ (∀ t p i q s v n k r y u r1, advance s t = v → physAt v p i = some n → k = .crc ∨ k = .weight ∨ k = .parity →
      u = countDetect v n k → (getPart u p).run = some r → cannotRegenerate u.mem r q = false → getQueue r i q = some y →
      r1 = modQueue r i q (fun y' => y'.detect (detectedTile y k)) →
      exec (.slotDetection t p i q k) s =
        .next (setRun u p (if 2 ≤ y.count (detectedTile y k) then r1 else { r1 with reruns := satInc r1.reruns })))
    ∧ (∀ t p i q s v r y n, advance s t = v → (getPart v p).run = some r → getQueue r i q = some y → physAt v p i = some n →
      y.detections.any (fun e => decide (3 ≤ e.2)) = true → (getSector v n).fenced = false →
      exec (.stepRerunLimitReached t p i q) s = .next (faultSector v n 0x0E (some stSTEP_RERUN_LIMIT))))

/-- Sectors and spills. SECTOR_HEARTBEAT_TIMEOUT of a sector that is not fenced and serves no partition, and SECTOR_FAULT of one
whose partition runs no route, fence it, write its FAULT record with cause 2 and 4 and remap its logical number (remapSector),
the latter under the partition's next epoch; of a fenced sector both change nothing. SPARE_SECTOR_READY of a logical sector
whose spare powers up gives it the spare, ON, raises SPARE_USED, notes the repair, sends the Husk the SPARE_REMAP record,
completes with OK the command that asked for it, if one did, and lets the partition's fenced route run again (rerunFenced).
SPILL_OUT in a STATIC_WCET partition that may spill, of a running route below HARD while a HARD command waits and nothing is
spilled, charges its time and the preemption, takes it out of the sectors, their state saved, and notes from when on and for
which session the spill takes time (spillSession; the model's reading of R533, log entry 154). SPILL_RESTORE, with no route
running, no HARD command waiting, no spare awaited and no sector absent, charges the time of the restore (chargeSpill), puts
that state back and lets the route run on. The banks of a sector. Round robin grants no port only where none of the 15 asks;
where it grants one, that port asks, no port from the pointer round the ring up to it does, and the pointer moves past it.
SLOTTED grants a port exactly where it owns the frame cycle's entry and asks, whatever other ports ask for, and the pointer
stays. MIXED grants a real-time owner that asks, and otherwise the ports that are not real-time by round robin. At most 16
requests of a port issue in a cycle, to different banks. After R370, R371, R372, R374, R382, R384, R386, R387, R388, R389,
R401, R534, R536. -/
def Obligations.SectorsFailAndSpill : Prop :=
  ((∀ t n s v u l, advance s t = v → (getSector v n).fenced = false →
     u = huskFault (modSector v n (fun x => { x with fenced := true })) (srcSector n) 1 n 2 → logicalOf u n = some l →
     partOfLogical u l = none → exec (.sectorHeartbeatTimeout t n) s = .next (remapSector u l n none))
   ∧ (∀ t n s v u l p, advance s t = v → (getSector v n).fenced = false →
     u = huskFault (modSector v n (fun x => { x with fenced := true })) (srcSector n) 1 n 4 → logicalOf u n = some l →
     partOfLogical u l = some p → (getPart (bumpEpoch u p) p).run = none →
     exec (.sectorFault t n) s = .next (remapSector (bumpEpoch u p) l n none))
   ∧ (∀ t n s v, advance s t = v → (getSector v n).fenced = true →
     exec (.sectorHeartbeatTimeout t n) s = .next v ∧ exec (.sectorFault t n) s = .next v)
   ∧ (∀ t l s v n f c u w x e, advance s t = v → v.field.map[l]? = some (.pend n f c) →
     u = enterUnit { v with field := { v.field with map := v.field.map.set l (.phys n) } } (0x10000 + n) 2 →
     e = (match partOfLogical u l with | some p => (getPart u p).epoch.toNat | none => 0) →
     w = huskRequest (repairEntry (raiseEvent u evSPARE_USED (1 + f * 2 ^ 8 + n * 2 ^ 16)) 1 f n) 0x0B srcCp
       (leBytes 1 1 ++ leBytes 1 f ++ leBytes 1 n ++ [0] ++ leBytes 2 e) →
     x = (match c with | some c => done w c stOK n | none => w) →
     exec (.spareSectorReady t l) s = .next (match partOfLogical u l with | some p => rerunFenced x p | none => x))
   ∧ (∀ t p s v r, advance s t = v → (getPart v p).run = some r → peMode (partEntry v p) = 1 → peSpill (partEntry v p) = true →
     r.job.cls < 2 → (getPart v p).spilled = none → hardWaits v p = true →
     exec (.spillOut t p) s = .next (modPart
       (charge (chargeTime v (some r.job.session) (peSize (partEntry v p) * (now v - r.start)) 0) (some r.job.session)
         (fun n => { n with preemptions := satInc n.preemptions }))
       p (fun x => { x with
         run := none, spilled := some (saveSectors v p r),
         spill := (spillSession v p).map (fun i => { session := i, since := v.phase.gtc, out := true }) })))
   ∧ (∀ t p s v r, advance s t = v → (getPart v p).spilled = some r → (getPart v p).run = none → hardWaits v p = false →
     sparePending v p = false → (partPhys v p).any (·.isNone) = false →
     exec (.spillRestore t p) s = .next (modPart (restoreSectors (chargeSpill v p) p r) p (fun x => { x with
       run := some { r with start := v.phase.gtc, epoch := x.epoch, saved := [],
                            queues := r.queues.map (fun y => { y with moved := now v - y.moved }) }, spilled := none, spill := none }))))
  ∧ ((∀ (ptr : Nat) (who : Nat → Bool), (ringGrant ptr who).1 = none → ∀ p < 15, who p = false)
    ∧ (∀ (ptr p : Nat) (who : Nat → Bool), (ringGrant ptr who).1 = some p →
      p < 15 ∧ who p = true ∧ (ringGrant ptr who).2 = (p + 1) % 15
      ∧ (∃ i < 15, p = (ptr + i) % 15 ∧ ∀ j < i, who ((ptr + j) % 15) = false))
    ∧ (∀ (rt wants : Nat → Bool) (owner ptr p : Nat),
      ((bankGrant 1 rt owner ptr wants).1 = some p ↔ owner = p ∧ p < 15 ∧ wants p = true)
      ∧ (bankGrant 1 rt owner ptr wants).2 = ptr)
    ∧ (∀ (rt wants others : Nat → Bool) (owner ptr : Nat), wants owner = others owner →
      bankGrant 1 rt owner ptr wants = bankGrant 1 rt owner ptr others)
    ∧ (∀ (rt wants : Nat → Bool) (owner ptr : Nat),
      (owner < 15 → rt owner = true → wants owner = true → bankGrant 2 rt owner ptr wants = (some owner, ptr))
      ∧ (15 ≤ owner ∨ rt owner = false ∨ wants owner = false →
        bankGrant 2 rt owner ptr wants = ringGrant ptr (fun p => wants p && !rt p)))
    ∧ (∀ l : List ScratchReq, (issued l).length ≤ 16 ∧ ((issued l).map (fun r => bankOf r.group)).Nodup))

/-- The serving commands. SERVE_CONFIG in a partition without a loop, of a configuration that can be read and keeps cfOk, whose
step program lies in the session's envelope, can be read and passes programStatus, which has at most 2^24 − 1 pages and whose
pool serveAllocs places, makes the partition's loop (freshLoop) with its page headers and records cleared and page 0's header
written, brings its session to its share where the loop holds the partition as one job (levelJob), and completes OK with the
number of records. SERVE_STOP of the session's own loop that is not being stopped marks it to end at its next boundary.
SERVE_STATUS completes OK with the free records and the numbers of running, waiting and paused sequences, those being rebuilt
counted as paused. STEP_BOUNDARY, with no route of a step waiting or running, does the boundary's actions (boundary); of a
loop that SERVE_STOP ends, it does those of boundaryFirst, drops the loop with its pool and completes that command OK with the
number of sequences that were live. After R472, R473, R474, R475, R485, R495, R496. -/
def Obligations.ServingCommandsComplete : Prop :=
  (∀ t c w off s v x cfg b l u as y, began s t c = v → (sessionOf v c).bind (findSession v) = some x →
    readWindow v c w off.toNat 128 = .ok cfg → cfOk v.ports.peer.number.toNat cfg = true → hasLoop v (partOf v c) = false →
    inEnvelope v (some x.id) (cfProgram cfg) (16 * cfEntries cfg) = true →
    accessStatus v (cfProgram cfg) (16 * cfEntries cfg) false = none → b = readKey v.mem (cfProgram cfg) (16 * cfEntries cfg) →
    programStatus v x.id cfg b = none → cfRecords cfg * cfPages cfg ≤ 0xFFFFFF →
    serveAllocs x (poolSizes cfg) v = some (u, as) → l = freshLoop (partOf v c) x.id c cfg b as →
    y = levelJob (writeHeader (onDev u (fun m => (m.clear l.headers ((poolSizes cfg).getD 0 0)).clear l.records
      ((poolSizes cfg).getD 1 0))) l 0 0 0) (partOf v c) x.id →
    exec (.serveConfig t c w off) s = .next (done { y with loops := y.loops ++ [l] } c stOK (cfRecords cfg)))
  ∧ (∀ t c s v l, began s t c = v → findLoop v (partOf v c) = some l → sessionOf v c = some l.session → l.stopping = none →
    exec (.serveStop t c) s = .next (setLoop v { l with stopping := some c }))
  ∧ (∀ t c s v l, began s t c = v → findLoop v (partOf v c) = some l →
    exec (.serveStatus t c) s = .next (done v c stOK ((freeRecords v l).length + countSt l .running * 2 ^ 24
      + countSt l .waiting * 2 ^ 36 + (countSt l .paused + countSt l .rebuilding) * 2 ^ 48)))
  ∧ (∀ t p s v l, advance s t = v → findLoop v p = some l → stepBusy v l = false → l.stopping = none →
    exec (.stepBoundary t p) s = .next (setLoop (boundary v l).1 (boundary v l).2))
  ∧ (∀ t p s v l c x, advance s t = v → findLoop v p = some l → stepBusy v l = false → l.stopping = some c →
    x = boundaryFirst (v, l) →
    exec (.stepBoundary t p) s = .next (done (dropLoop x.1 x.2) c stOK (l.seqs.filter Sequence.live).length))

/-- The sequence commands. SEQ_JOIN of 1 token or more and fewer than the position limit, to the partition's loop that is not
being stopped, with a prompt that can be read, an output window that can be written, and a free slot and id, adds a waiting
sequence with its prompt and charges the session its hashing time. SEQ_DRAFT of an own running sequence, whose nodes keep
draftOk, takes the place of its draft, and an unused earlier draft completes (draftDone). SEQ_LEAVE of an own sequence that
has not ended waits for the boundary with its stamp. SEQ_STATUS of an own sequence with window 0 completes OK with its state,
its length, its held pages and the tokens generated. SEQ_RECOMPUTE of an own running sequence with a dropped page pauses it,
drops its step and the draft in use, and completes OK. ACTION_BIND to an own sequence that has not ended, with operands in
range, images and a slot that bindImages accepts, and room for its chunk sets and its result area, replaces the sequence's
binding by one with those two places and completes OK. After R477, R481, R482, R486, R487, R489, R491, R495. -/
def Obligations.SequenceCommandsComplete : Prop :=
  (∀ t c w off n maxNew wait ow oo s v l b k session slot id q, began s t c = v → n ≠ 0 → findLoop v (partOf v c) = some l →
    n.toNat < positionLimit → readWindow v c w off.toNat (4 * n.toNat) = .ok b → windowKey v c ow oo.toNat 4 true = .ok k →
    sessionOf v c = some session →
    pickFree 0 (cfSequences l.cfg) (Config.handOut v.free) ((l.seqs.filter Sequence.live).map (·.slot)) = some slot →
    pickFree 0 (2 ^ 32) (Config.handOut v.free) (v.loops.flatMap (fun l => l.seqs.map (·.id))) = some id → l.stopping = none →
    q = ({
      id := id, session := session, cmd := c, st := .waiting, slot := slot, len := 0, promptLen := n.toNat, target := n.toNat,
      tokens := toWords n.toNat b, entries := [], nodes := [], fill := 0, draft := none, inUse := none, leaves := [], leaver := none,
      maxNew := maxNew.toNat, wait := wait, outWindow := ow.toNat, outOffset := oo.toNat, generated := 0, joined := v.phase.gtc,
      admitted := none, pausedAt := none, seenBoundary := false } : Sequence) →
    exec (.seqJoin t c w off n maxNew wait ow oo) s = .next (setLoop
      (hashTime { v with free := v.free + 1 } session (256 * (n.toNat / 256))) { l with seqs := l.seqs ++ [q] }))
  ∧ (∀ t c q n len parents tokens s v l x, began s t c = v → findSeq v q.toNat = some (l, x) →
    ownsObject v c x.session (match findSession v x.session with | some y => y.fn | none => 0) = true → x.st = .running →
    draftOk (draftNodes n.toNat parents tokens) = true →
    exec (.seqDraft t c q n len parents tokens) s = .next (setLoop (draftDone v x.draft 16) (modSeq l x.id (fun q => { q with
      draft := some { cmd := c, length := len.toNat, nodes := draftNodes n.toNat parents tokens, stamp := v.phase.gtc } }))))
  ∧ (∀ t c q s v l x, began s t c = v → findSeq v q.toNat = some (l, x) →
    ownsObject v c x.session (match findSession v x.session with | some y => y.fn | none => 0) = true → x.st ≠ .ended →
    exec (.seqLeave t c q) s = .next (setLoop v (modSeq l x.id (fun y => { y with leaves := y.leaves ++ [(c, v.phase.gtc)] }))))
  ∧ (∀ t c q off s v l x, began s t c = v → findSeq v q.toNat = some (l, x) →
    ownsObject v c x.session (match findSession v x.session with | some y => y.fn | none => 0) = true →
    exec (.seqStatus t c q 0 off) s = .next (done v c stOK (x.st.code + x.len * 4 + min 1023 x.held.length * 2 ^ 20
      + x.generated % 2 ^ 32 * 2 ^ 32)))
  ∧ (∀ t c q s v l x, began s t c = v → findSeq v q.toNat = some (l, x) →
    ownsObject v c x.session (match findSession v x.session with | some y => y.fn | none => 0) = true →
    x.entries.any (·.dropped) = true → x.st = .running →
    exec (.seqRecompute t c q) s = .next (done (setLoop (draftDone v x.inUse 16) { modSeq l x.id (fun q => { q with
      st := .paused, pausedAt := some l.order, nodes := [], fill := 0, inUse := none }) with order := l.order + 1 }) c stOK))
  ∧ (∀ t c q e sl se ss ls cc ce ps s v l x a im st y pe u1 k1 u2 k2, began s t c = v → okActionBind e se cc ce = true →
    findSeq v q.toNat = some (l, x) →
    ownsObject v c x.session (match findSession v x.session with | some y => y.fn | none => 0) = true → x.st ≠ .ended →
    a = ({
      sequence := x.id, session := x.session, engine := e.toNat, slot := sl.toNat, stopEngine := se.toNat, stopSlot := ss.toNat,
      limitSet := ls.toNat, chunkCount := cc.toNat, chunkExtra := ce.toNat, plateSlot := ps.toNat, published := none, age := 0,
      nextChunk := 0, prev := none, sets := 0, area := 0, resultBytes := 0, batch := 0, batchSet := 0, report := [] } : ActionBinding) →
    bindImages v l a = .ok (im, st) → findSession v l.session = some y →
    pe = partEntry v (bindPart v l a) →
    serveAlloc v y (12 * cc.toNat * chunkElems im ce.toNat) (peFirstSlice pe * sliceBytes)
      (peFirstSlice pe * sliceBytes + peSliceCount pe * sliceBytes) = some (u1, k1) →
    serveAlloc u1 y (areaBytes (bindResultBytes im st)) lpddrBase (lpddrBase + lpddrBytes) = some (u2, k2) →
    exec (.actionBind t c q e sl se ss ls cc ce ps) s = .next (done (setLoop u2 { l with
      actions := l.actions.filter (fun y => y.sequence != x.id)
        ++ [{ a with sets := k1, area := k2, resultBytes := bindResultBytes im st }] }) c stOK))

/-- The power commands. POWER_PROFILE to the state in force completes OK with it; to another, with a transition under way, it
completes with NO_RESOURCE, and otherwise, where profileStatus finds nothing against it, completes OK with the state and
starts the change (startProfile). POWER_UNIT with an operand in range that powerUnitStatus does not refuse starts its unit and
completes OK with the unit's state. POWER_STATUS with a window that takes the registers writes them and completes OK with
PWR_STATE. THERMAL_SET of a threshold in range, while no warning stands and the hottest reading does not exceed it, sets it
and completes OK, and the readings are compared with it (thermalWarn). What changes a power state. UNIT_DRAIN_END of a drain
ends it (endDrain). POWER_TRANSITION_COMPLETE of an idle unit that moves gives it the state it moves to (enterUnit), and a
slice waiting for standby with it; of the device, it enters STANDBY once every unit is down, and another profile from 3 on
unless the device is in SHELL_ONLY (endProfile), and SHELL_ONLY takes the main domain away with a POWER record. THERMAL_SAMPLE
of nine readings all below their limits, while no warning stands, replaces the readings alone. MAIN_ON is an I3C write of
register 0x40: with 0x4D in SHELL_ONLY at 115 °C or below it powers the main domain up, at a set point of 550 to 800 mV asked
for where the supply lies lower; with 0x4D in another state the wake is refused; with any other value nothing else happens.
After R648, R655, R656, R662, R663, R666, R667, R668, R669, R675. -/
def Obligations.PowerCommandsAndEventsAct : Prop :=
  ((∀ t c n s v, began s t c = v → okProfile n = true → n.toNat = v.power.state →
     exec (.powerProfile t c n) s = .next (done v c stOK n.toNat))
   ∧ (∀ t c n s v, began s t c = v → okProfile n = true → n.toNat ≠ v.power.state → v.power.transition = none →
     profileStatus v n.toNat = none →
     exec (.powerProfile t c n) s = .next (startProfile (done v c stOK n.toNat) n.toNat))
   ∧ (∀ t c n s v, began s t c = v → okProfile n = true → n.toNat ≠ v.power.state → v.power.transition ≠ none →
     exec (.powerProfile t c n) s = .next (done v c stNO_RESOURCE))
   ∧ (∀ t c u n s v y, began s t c = v → okPowerUnit u n = true → powerUnitStatus v u.toNat n.toNat = none →
     y = startUnit v u.toNat n.toNat srcCp →
     exec (.powerUnit t c u n) s = .next (done y c stOK (unitState y u.toNat).toNat))
   ∧ (∀ t c w off s v u, began s t c = v → writeWindow v c w off.toNat (pwrBytes v) = .ok u →
     exec (.powerStatus t c w off) s = .next (done u c stOK (pwrState v).toNat))
   ∧ (∀ t c n s v, began s t c = v → okThreshold n = true → v.power.warned = false → (hotMain v).2 ≤ n.toInt →
     exec (.thermalSet t c n) s = .next (thermalWarn (done { v with power := { v.power with warn := n } } c stOK))))
  ∧ ((∀ t u s v d, advance s t = v → v.power.drains.find? (fun d => d.unit == u) = some d →
      exec (.unitDrainEnd t u) s = .next (endDrain v d))
    ∧ (∀ t u s v m, advance s t = v → u ≠ 0 → v.power.moves.find? (fun m => m.1 == u) = some m → unitIdle v u = true →
      exec (.powerTransitionComplete t u) s = .next (standbySlices (enterUnit v u m.2)))
    ∧ (∀ t s v, advance s t = v → v.power.transition = some 2 → standbyReady v = true →
      exec (.powerTransitionComplete t 0) s = .next (endProfile v 2))
    ∧ (∀ t s v n, advance s t = v → v.power.transition = some n → 3 ≤ n → v.power.state ≠ 1 →
      exec (.powerTransitionComplete t 0) s = .next (endProfile v n))
    ∧ (∀ t s v, advance s t = v → v.power.transition = some 1 →
      exec (.powerTransitionComplete t 0) s = .next (huskPower (mainLost v false) srcCp v.power.state 1 0))
    ∧ (∀ t l s v u, advance s t = v → l.length = 9 → u = { v with power := { v.power with readings := l } } →
      (hotMain u).2 ≤ u.power.warn.toInt → v.power.warned = false → (hotMain u).2 < 2000 → l.getD 8 0 < 2000 →
      exec (.thermalSample t l) s = .next u)
    ∧ (∀ t x s v u, advance s t = v → fld x 7 0 = 0x4D → v.power.state = 1 → (hotMain v).2 ≤ 1840 →
      u = { v with
        ports := { v.ports with i3c := some (2, 0x40) },
        power := { v.power with wakeRefused := false, thermalTrip := false, mainPwrEn := true, transition := some 5 } } →
      exec (.mainOn t x) s = .next (if v.power.vddMain < vddSetPoint 5 then
          { u with power := { u.power with vddMain := vddSetPoint 5 }, out := u.out ++ [.avs (vddSetPoint 5)] }
        else u)
      ∧ 550 ≤ vddSetPoint 5 ∧ vddSetPoint 5 ≤ 800)
    ∧ (∀ t x s v, advance s t = v → fld x 7 0 = 0x4D → v.power.state ≠ 1 →
      exec (.mainOn t x) s = .next { v with
        ports := { v.ports with i3c := some (2, 0x40) }, power := { v.power with wakeRefused := true } })
    ∧ (∀ t x s v, advance s t = v → fld x 7 0 ≠ 0x4D →
      exec (.mainOn t x) s = .next { v with ports := { v.ports with i3c := some (2, 0x40) } }))

/-- The safety commands. SAFETY_STATUS with a window that takes the Tracer's registers writes them and completes OK with
TRC_STATUS. SAFE_STATE_REQUEST with confirm completes OK with the sequence number of the next record and triggers the safe
state; without confirm it completes with BAD_DESCRIPTOR. SAFETY_RESET, 100 ms or more after both E-stop inputs closed, with no
E-stop, output or Shell fault latched and no safe state in progress, raises both STO outputs unless JTAG holds them, withdraws
the request and starts the brakes' delay, and completes OK; without those conditions, but for the 100 ms, it completes with
NO_RESOURCE, and where reset is allowed and STO is not asserted it completes OK and changes nothing else. The heartbeat and
the restart. CP_HEARTBEAT notes its instant. HEARTBEAT_TIMEOUT, heartbeat_us or more after the last, while the main domain
runs, writes a FAULT record and triggers the safe state, and earlier changes nothing. MAIN_DOMAIN_RESET_RELEASE, with the main
supplies valid, no Shell fault, JTAG quiet and the firmware not ready: in SHELL_ONLY after boot step 4 it boots the main
domain (bootMain), and otherwise, while no safe state has released it, restarts it (restartMain); with a Shell fault, with
JTAG or without the supplies it changes nothing. RESTART_WINDOW_EXPIRY of a window that has passed closes it, and asserts STO
later (stoLater) where a live group still stands in stop mode. After R550, R577, R578, R580, R586, R591. -/
def Obligations.SafetyCommandsAndHeartbeat : Prop :=
  ((∀ t c w off s v u, began s t c = v → writeWindow v c w off.toNat (trcBytes v) = .ok u →
     exec (.safetyStatus t c w off) s = .next (done u c stOK (trcStatus v).toNat))
   ∧ (∀ t c s v, began s t c = v →
     exec (.safeStateRequest t c true) s = .next (safeTrigger (done v c stOK (nextSeq v).toNat) srcShell))
   ∧ (∀ t c s v, advance s t = v → exec (.safeStateRequest t c false) s = .next (done v c stBAD_DESCRIPTOR))
   ∧ (∀ t c s v n, began s t c = v → v.safety.closedSince = some n → n + 100000000 ≤ v.phase.gtc → v.safety.estopFault = false →
     v.safety.outputFault = false → v.safety.shellFault = false → v.safety.safe = none → stoAsserted v = true →
     exec (.safetyReset t c) s = .next (done { v with safety := { v.safety with
       stoA := !v.ports.jtag, stoB := !v.ports.jtag, stoRequest := false, stoHeld := false, brakeDelay := .release,
       brakeDelayAt := v.phase.gtc + protBrakeDelay v } } c stOK))
   ∧ (∀ t c s v, began s t c = v → v.safety.closedSince = none ∨ v.safety.estopFault = true ∨ v.safety.outputFault = true
       ∨ v.safety.shellFault = true ∨ v.safety.safe ≠ none →
     exec (.safetyReset t c) s = .next (done v c stNO_RESOURCE))
   ∧ (∀ t c s v, began s t c = v → resetAllowed v = true → stoAsserted v = false →
     exec (.safetyReset t c) s = .next (done v c stOK)))
  ∧ ((∀ t s v, advance s t = v →
      exec (.cpHeartbeat t) s = .next { v with safety := { v.safety with heartbeat := v.phase.gtc } })
    ∧ (∀ t s v, advance s t = v → mainRuns v = true → v.safety.heartbeat + protHeartbeat v ≤ v.phase.gtc →
      exec (.heartbeatTimeout t) s = .next (safeTrigger (huskFault v srcShell 7 0 2) srcShell))
    ∧ (∀ t s v, advance s t = v → v.phase.gtc < v.safety.heartbeat + protHeartbeat v → exec (.heartbeatTimeout t) s = .next v)
    ∧ (∀ t s v, advance s t = v → v.safety.shellFault = false → v.ports.jtag = false → v.power.mainValid = true →
      v.hif.fwReady = false → v.power.state = 1 → 4 ≤ v.boot.step → exec (.mainDomainResetRelease t) s = .next (bootMain v))
    ∧ (∀ t s v, advance s t = v → v.safety.shellFault = false → v.ports.jtag = false → v.power.mainValid = true →
      v.hif.fwReady = false → v.power.state ≠ 1 → (∀ x, v.safety.safe = some x → x.released = false) →
      exec (.mainDomainResetRelease t) s = .next (restartMain v))
    ∧ (∀ t s v, advance s t = v → v.safety.shellFault = true ∨ v.ports.jtag = true ∨ v.power.mainValid = false →
      exec (.mainDomainResetRelease t) s = .next v)
    ∧ (∀ t s v n, advance s t = v → v.safety.windowFrom = some n → n + protRestartWindow v ≤ v.phase.gtc →
      v.servo.groups.any (fun g => g.live && g.inStop) = true →
      exec (.restartWindowExpiry t) s = .next (stoLater { v with safety := { v.safety with windowFrom := none } } .restart n))
    ∧ (∀ t s v n, advance s t = v → v.safety.windowFrom = some n → n + protRestartWindow v ≤ v.phase.gtc →
      v.servo.groups.any (fun g => g.live && g.inStop) = false →
      exec (.restartWindowExpiry t) s = .next { v with safety := { v.safety with windowFrom := none } }))

/-- STO and the brakes. STO_DEADLINE_EXPIRY 300 ms or more after a cause that waits, with STO not held yet and no brake delay
before it, in sto_mode 0 drops all four outputs with the request, and puts every channel that is not DISABLED in STOP; in
another mode it drops the brake outputs and starts the brake delay; before 300 ms have passed since any it changes nothing.
BRAKE_DELAY_EXPIRY, once the delay has passed, drops the outputs with the same effect on the channels where STO follows, and
raises the brake outputs, unless JTAG holds them, where they are released; earlier it changes nothing. HELD_LIMIT_REACHED of a
group with held_limit held plans or more puts the group in stop mode with a FAULT record, and DISAGREE_LIMIT_REACHED of one
with disagree_k disagreements or more in its window triggers the safe state; below the limit, or with a limit of 0, both
change nothing. After R572, R573, R577, R580, R582, R586. -/
def Obligations.StoAndBrakesFollow : Prop :=
  (∀ t s v, advance s t = v → v.safety.stoDue.any (fun d => decide (d.2 + 300000000 ≤ v.phase.gtc)) = true → v.safety.stoHeld = false → v.safety.brakeDelay ≠ .sto → protStoMode v = 0 →
    exec (.stoDeadlineExpiry t) s = .next (mapChannels { v with safety := { v.safety with
      stoA := false, stoB := false, brakeA := false, brakeB := false, stoRequest := true, stoHeld := true, stoDue := [],
      brakeDelay := .idle, pulse := none } } (fun _ c =>
      if c.st = .disabled then c else { c with st := .stop, entryDue := true, outside := some .stop })))
  ∧ (∀ t s v, advance s t = v → v.safety.stoDue.any (fun d => decide (d.2 + 300000000 ≤ v.phase.gtc)) = true → v.safety.stoHeld = false → v.safety.brakeDelay ≠ .sto → protStoMode v ≠ 0 →
    exec (.stoDeadlineExpiry t) s = .next { v with safety := { v.safety with
      brakeA := false, brakeB := false, stoDue := [], brakeDelay := .sto, brakeDelayAt := v.phase.gtc + protBrakeDelay v } })
  ∧ (∀ t s v, advance s t = v → v.safety.stoDue.any (fun d => decide (d.2 + 300000000 ≤ v.phase.gtc)) = false → exec (.stoDeadlineExpiry t) s = .next v)
  ∧ (∀ t s v, advance s t = v → v.safety.brakeDelayAt ≤ v.phase.gtc → v.safety.brakeDelay = .sto →
    exec (.brakeDelayExpiry t) s = .next (mapChannels { v with safety := { v.safety with
      stoA := false, stoB := false, brakeA := false, brakeB := false, stoRequest := true, stoHeld := true, stoDue := [],
      brakeDelay := .idle, pulse := none } } (fun _ c =>
      if c.st = .disabled then c else { c with st := .stop, entryDue := true, outside := some .stop })))
  ∧ (∀ t s v, advance s t = v → v.safety.brakeDelayAt ≤ v.phase.gtc → v.safety.brakeDelay = .release →
    exec (.brakeDelayExpiry t) s = .next { v with safety := { v.safety with
      brakeA := !v.ports.jtag, brakeB := !v.ports.jtag, brakeDelay := .idle } })
  ∧ (∀ t s v, advance s t = v → v.phase.gtc < v.safety.brakeDelayAt → exec (.brakeDelayExpiry t) s = .next v)
  ∧ (∀ t g s v, advance s t = v → protHeldLimit v ≠ 0 → protHeldLimit v ≤ (getGroup v g).held.toNat →
    exec (.heldLimitReached t g) s = .next (huskFault (enterStop v g) srcShell 0x0D g 0x0B))
  ∧ (∀ t g s v, advance s t = v → protHeldLimit v = 0 ∨ (getGroup v g).held.toNat < protHeldLimit v →
    exec (.heldLimitReached t g) s = .next v)
  ∧ (∀ t g s v, advance s t = v → protDisagreeK v ≠ 0 → protDisagreeK v ≤ windowCount (getGroup v g) →
    exec (.disagreeLimitReached t g) s = .next (safeTrigger v srcTracer))
  ∧ (∀ t g s v, advance s t = v → protDisagreeK v = 0 ∨ windowCount (getGroup v g) < protDisagreeK v →
    exec (.disagreeLimitReached t g) s = .next v)

/-- The E-stop inputs and the outputs. ESTOP_SAMPLE keeps since when each input has been low, both have differed and both have
been high, and an input that reads high is open no longer. ESTOP_OPEN, with no input open yet, of one input that has been low
for 1 ms while the other is not low opens it; in category 0 that asserts STO, and in category 1 it stops every group with STO
to follow (stoLater). ESTOP_DISCREPANCY_TIMEOUT of inputs that have differed for longer than the limit latches the fault,
writes a FAULT record and asserts STO; of inputs that do not differ it changes nothing. STO_TEST_PULSE of a channel with a
high output notes the pulse and its instant. OUTPUT_READBACK_FAULT, not latched before, is latched, drops every output
(stoDown) and is recorded. After R583, R584, R585. -/
def Obligations.EstopAndOutputsAct : Prop :=
  (∀ t a b s v, advance s t = v →
    exec (.estopSample t a b) s = .next { v with safety := { v.safety with
        lowA := if a then none else some (v.safety.lowA.getD v.phase.gtc),
        lowB := if b then none else some (v.safety.lowB.getD v.phase.gtc),
        differ := if a = b then none else some (v.safety.differ.getD v.phase.gtc),
        closedSince := if a && b then some (v.safety.closedSince.getD v.phase.gtc) else none,
        openA := v.safety.openA && !a, openB := v.safety.openB && !b } })
  ∧ (∀ t s v n, advance s t = v → v.safety.openA = false → v.safety.openB = false → v.safety.lowA = some n →
    n + 1000000 ≤ v.phase.gtc → v.safety.lowB = none → protEstopCategory v = 0 →
    exec (.estopOpen t) s = .next (assertSto { v with safety := { v.safety with openA := true, openB := false } }))
  ∧ (∀ t s v n, advance s t = v → v.safety.openA = false → v.safety.openB = false → v.safety.lowB = some n →
    n + 1000000 ≤ v.phase.gtc → v.safety.lowA = none → protEstopCategory v = 1 →
    exec (.estopOpen t) s =
      .next (stoLater (allStop { v with safety := { v.safety with openA := false, openB := true } }) .estop v.phase.gtc))
  ∧ (∀ t s v n, advance s t = v → v.safety.differ = some n → n + protEstopDiscrepancy v < v.phase.gtc → v.safety.estopFault = false →
    exec (.estopDiscrepancyTimeout t) s =
      .next (assertSto (huskFault { v with safety := { v.safety with estopFault := true } } srcShell 0x0B 0 0x0C)))
  ∧ (∀ t s v, advance s t = v → v.safety.differ = none → exec (.estopDiscrepancyTimeout t) s = .next v)
  ∧ (∀ t b s v, advance s t = v → (if b then v.safety.stoB || v.safety.brakeB else v.safety.stoA || v.safety.brakeA) = true →
    exec (.stoTestPulse t b) s = .next { v with safety := { v.safety with pulse := some (b, v.phase.gtc) } })
  ∧ (∀ t s v, advance s t = v → v.safety.outputFault = false →
    exec (.outputReadbackFault t) s =
      .next (huskFault (stoDown { v with safety := { v.safety with outputFault := true } }) srcShell 0x0B 0 0x0C))

/-- The monitors. A fault of the Shell's clock, of its processor's lockstep or of its memory, while none is latched, is recorded
and takes the Shell fault path (shellFaultPath); once one is latched, the first two change nothing, as an error-free scrub
always does. MAIN_CLOCK_FAULT writes a FAULT record and triggers the safe state while the main domain runs, and otherwise
changes nothing. MAIN_SUPPLY_FAULT of an ACTIVE or STANDBY device triggers it and takes the main domain away (mainLost), and
of one whose MAIN_PWR_EN is low changes nothing. POWER_FAIL_DETECT, when power has not failed before, with MAIN_PWR_EN low and
a Shell fault latched, puts its POWER record ahead of the 15 oldest waiting ones, counts the others as lost and asks for an
in-band interrupt; after a first one it changes nothing. After R550, R577, R581, R614, R735. -/
def Obligations.MonitorsReact : Prop :=
  (∀ t s v, advance s t = v → v.safety.shellFault = false →
    exec (.shellClockFault t) s = .next (shellFaultPath (huskFault v srcShell 9 0 0x0D))
    ∧ exec (.safetyProcessorLockstepMismatch t) s = .next (shellFaultPath (huskFault v srcShell 9 0 1))
    ∧ exec (.shellMemoryScrub t true) s = .next (shellFaultPath (huskRequest v 7 srcShell (leBytes 1 6))))
  ∧ (∀ t s v, advance s t = v → v.safety.shellFault = true →
    exec (.shellClockFault t) s = .next v ∧ exec (.safetyProcessorLockstepMismatch t) s = .next v)
  ∧ (∀ t s v, advance s t = v → exec (.shellMemoryScrub t false) s = .next v)
  ∧ (∀ t s v, advance s t = v → mainRuns v = true →
    exec (.mainClockFault t) s = .next (safeTrigger (huskFault v srcShell 7 0 0x0D) srcShell))
  ∧ (∀ t s v, advance s t = v → mainRuns v = false → exec (.mainClockFault t) s = .next v)
  ∧ (∀ t s v, advance s t = v → 2 ≤ v.power.state →
    exec (.mainSupplyFault t) s = .next (mainLost (safeTrigger v srcShell) true))
  ∧ (∀ t s v, advance s t = v → v.power.state < 2 → v.power.mainPwrEn = false → exec (.mainSupplyFault t) s = .next v)
  ∧ (∀ t s v h, advance s t = v → v.husk.powerFail = none → v.power.mainPwrEn = false → v.safety.shellFault = true →
    h = v.husk.queue.length →
    exec (.powerFailDetect t) s = .next { v with
      husk := { v.husk with
        queue := { typ := 9, source := srcShell, stamp := v.phase.gtc,
                   payload := leBytes 1 v.power.state ++ [0, 1, 0] ++ leBytes 2 h } :: v.husk.queue.take 15,
        powerFail := some (1 + min 15 h), failLoss := h - 15, lost := BitVec.ofNat 8 (min 255 (v.husk.lost.toNat + (h - 15))) },
      out := v.out ++ [.ibi 2] })
  ∧ (∀ t s v, advance s t = v → v.husk.powerFail ≠ none → exec (.powerFailDetect t) s = .next v)

/-- Boot, supplies and JTAG. SHELL_POWER_UP and a PORST_N pulse start the Shell (shellStart), as an I3C target reset does while
STO is held and every channel is DISABLED or in STOP; while STO is not held that reset changes nothing. MAIN_SUPPLY_VALID
while MAIN_PWR_EN is up notes the supplies and ends shell_only. MAIN_SUPPLY_UP_TIMEOUT of supplies that are not valid writes a
FAULT record and drops MAIN_PWR_EN. PERST_RELEASE with the main domain powered brings the link up. VHUSK_CHARGED notes the
reserve. JTAG_INSTRUCTION_LOAD of an instruction that is not quiet holds every output low and the main domain in reset, and
neither the Husk, nor what the device has sent, nor the waiting commands change; a quiet one changes nothing. JTAG_TRST under
JTAG, with no brake delay, gives the outputs back, high unless STO is held. Resets that the host side causes.
FUNCTION_LEVEL_RESET, and VF_DISABLE of a virtual function, close every session of the function silently; VF_DISABLE of
function 0 changes nothing. HOST_LINK_LOSS and PERST_ASSERT reset every function likewise, and the link is down; with no
session that is all they do. After R152, R597, R617, R679, R701, R702, R733, R737, R738, R739, R740. -/
def Obligations.BootSuppliesJtagAndResets : Prop :=
  ((∀ t s v, advance s t = v → exec (.shellPowerUp t) s = .next (shellStart v 0)
     ∧ exec (.shellPorstNPulse t) s = .next (shellStart v 2))
   ∧ (∀ t s v, advance s t = v → v.safety.stoHeld = true → v.servo.channels.all (fun c => c.st == .disabled || c.st == .stop) = true →
     exec (.i3cTargetReset t) s = .next (shellStart { v with ports := { v.ports with i3c := none } } 1))
   ∧ (∀ t s v, advance s t = v → v.safety.stoHeld = false → exec (.i3cTargetReset t) s = .next v)
   ∧ (∀ t s v, advance s t = v → v.power.mainPwrEn = true →
     exec (.mainSupplyValid t) s = .next { v with
       power := { v.power with mainValid := true }, hif := { v.hif with shellOnly := false } })
   ∧ (∀ t s v, advance s t = v → v.power.mainPwrEn = true → v.power.mainValid = false →
     exec (.mainSupplyUpTimeout t) s = .next (huskFault
       { v with power := { v.power with mainPwrEn := false, transition := none, vddMain := 0 } } srcShell 9 0 0x0D))
   ∧ (∀ t s v, advance s t = v → v.hif.shellOnly = false →
     exec (.perstRelease t) s = .next { v with ports := { v.ports with linkUp := true } })
   ∧ (∀ t s v, advance s t = v → exec (.vhuskCharged t) s = .next { v with husk := { v.husk with holdupOk := true } })
   ∧ (∀ t i s v, advance s t = v → Config.jtagQuiet i = false → v.ports.jtag = false →
     ∃ u, exec (.jtagInstructionLoad t i) s = .next u
       ∧ u = { mainDown (discardMain v).2 with
         ports := { (mainDown (discardMain v).2).ports with jtag := true },
         safety := { (mainDown (discardMain v).2).safety with
           stoA := false, stoB := false, brakeA := false, brakeB := false, pulse := none } }
       ∧ u.ports.jtag = true ∧ u.safety.stoA = false ∧ u.safety.stoB = false
       ∧ u.safety.brakeA = false ∧ u.safety.brakeB = false ∧ u.hif.fwReady = false ∧ u.hif.safeState = v.hif.safeState
       ∧ u.husk = v.husk ∧ u.out = v.out ∧ u.pending = v.pending)
   ∧ (∀ t i s v, advance s t = v → Config.jtagQuiet i = true → exec (.jtagInstructionLoad t i) s = .next v)
   ∧ (∀ t s v, advance s t = v → v.ports.jtag = true → v.safety.brakeDelay = .idle →
     exec (.jtagTrst t) s = .next { v with
       ports := { v.ports with jtag := false },
       safety := { v.safety with
         stoA := !v.safety.stoHeld, stoB := !v.safety.stoHeld, brakeA := !v.safety.stoHeld, brakeB := !v.safety.stoHeld } }))
  ∧ ((∀ t f s v, advance s t = v → exec (.functionLevelReset t f) s =
        .next (((v.cmds.sessions.filter (fun x => x.fn == f)).map (·.id)).foldl closeSilently v))
    ∧ (∀ t f s v, advance s t = v → f ≠ 0 → exec (.vfDisable t f) s =
        .next (((v.cmds.sessions.filter (fun x => x.fn == f)).map (·.id)).foldl closeSilently v))
    ∧ (∀ t s v, advance s t = v → exec (.vfDisable t 0) s = .next v)
    ∧ (∀ t s v, advance s t = v → v.cmds.sessions = [] →
      exec (.hostLinkLoss t) s = .next { v with ports := { v.ports with linkUp := false } }
      ∧ exec (.perstAssert t) s = .next { v with ports := { v.ports with linkUp := false } })
    ∧ (∀ t s v u, advance s t = v → u = (List.range 64).foldl resetFunction v →
      exec (.hostLinkLoss t) s = .next { u with ports := { u.ports with linkUp := false } }
      ∧ exec (.perstAssert t) s = .next { u with ports := { u.ports with linkUp := false } }))

/-- The Husk. HUSK_RECORD_WRITE, with a record waiting and power not out, makes the oldest one durable under the next sequence
number at its place of the MRAM, with no record lost before the next one; it is to be mirrored where the mirror has a size;
after a record of type 2, 3, 8 or 9 an in-band interrupt is asked for. With no record waiting, or with none left to write
after a power failure, nothing changes. HUSK_MIRROR_COPY, unless power has failed, of the next record that is not mirrored
puts it at its place in the mirror and goes on. A write of HSK_RD_SEQ takes the value. HUSK_STATUS completes OK with
HSK_STATUS and the newest sequence number. HUSK_READ of a count in range with a window that takes the records writes them and
completes OK with the count. PROT_READ of function 0 with a window that takes the protection set writes it and completes OK
with its length; of another function it completes with PROTECTION. After R609, R610, R614, R615, R616, R617. -/
def Obligations.HuskKeepsRecords : Prop :=
  (∀ t s v r rest u, advance s t = v → v.husk.queue = r :: rest → v.husk.powerFail ≠ some 0 →
    u = { v with husk := { v.husk with
      mram := v.husk.mram.filter (fun x => x.1 != v.husk.next.toNat % 65536) ++ [(v.husk.next.toNat % 65536, huskRecord v.husk r)],
      newest := v.husk.next, next := v.husk.next + 1, queue := rest, lostBefore := 0,
      powerFail := v.husk.powerFail.map (fun n => n - 1),
      mirrorNext := if protMirrorMib v = 0 then v.husk.next + 1 else v.husk.mirrorNext,
      uncopied := if protMirrorMib v = 0 then [] else v.husk.uncopied ++ [v.phase.gtc] } } →
    exec (.huskRecordWrite t) s = .next (if r.typ = 2 ∨ r.typ = 3 ∨ r.typ = 8 ∨ r.typ = 9 then emit u (.ibi 1) else u))
  ∧ (∀ t s v, advance s t = v → v.husk.queue = [] → exec (.huskRecordWrite t) s = .next v)
  ∧ (∀ t s v, advance s t = v → v.husk.powerFail = some 0 → exec (.huskRecordWrite t) s = .next v)
  ∧ (∀ t s v n b, advance s t = v → n = protMirrorMib v * 16384 → n ≠ 0 → v.husk.powerFail = none → v.husk.mirrorNext ≠ v.husk.next →
    findRecord v v.husk.mirrorNext = some b →
    exec (.huskMirrorCopy t) s = .next { v with
      boot := { v.boot with flash := { v.boot.flash with
        mirror := v.boot.flash.mirror.filter (fun x => x.1 != v.husk.mirrorNext.toNat % n) ++ [(v.husk.mirrorNext.toNat % n, b)] } },
      husk := { v.husk with
        mirrorNext := v.husk.mirrorNext + 1,
        uncopied := if (v.husk.next - v.husk.mirrorNext).toNat ≤ v.husk.uncopied.length then v.husk.uncopied.drop 1
          else v.husk.uncopied } })
  ∧ (∀ t x s v, advance s t = v → exec (.hskRdSeqWrite t x) s = .next { v with
      husk := { v.husk with rdSeq := x }, ports := { v.ports with i3c := some (1, 0x0C) } })
  ∧ (∀ t c s v, began s t c = v →
    exec (.huskStatus t c) s = .next (done v c stOK ((hskStatus v).toNat + v.husk.newest.toNat * 2 ^ 32)))
  ∧ (∀ t c first n w off s v u, began s t c = v → okHuskRead n = true →
    writeWindow v c w off.toNat ((List.range n.toNat).flatMap (fun i => huskSeqBytes v (first + BitVec.ofNat 32 i))) = .ok u →
    exec (.huskRead t c first n w off) s = .next (done u c stOK n.toNat))
  ∧ (∀ t c w off s v u, began s t c = v → fnOf v c = 0 → writeWindow v c w off.toNat (protImage v) = .ok u →
    exec (.protRead t c w off) s = .next (done u c stOK protBytes))
  ∧ (∀ t c w off s v, began s t c = v → fnOf v c ≠ 0 → exec (.protRead t c w off) s = .next (done v c stPROTECTION))

/-- The update commands, for a function with update permission, each posting DEFERRED first (deferCmd). FW_LOAD and SHELL_FW_LOAD
of an image that can be read and is accepted for its kind, with no swap of that kind under way, leave it to be written to the
slot that is not running. BOOT_FLASH_WRITE_DONE of firmware puts the oldest one into its slot and completes its command OK
with the slot's code. FW_SWAP and SHELL_FW_SWAP to an accepted image, with no swap of that kind under way, wait for the Plate
boundary. FW_SWAP_CONFIRM, 10 ms or more after the takeover with the heartbeat alive, makes the new slot permanent, records
the swap, raises FW_SWAPPED and completes the command OK with the slot's code. For a function without update permission the
four commands complete with PROTECTION. After R169, R604, R605, R619. -/
def Obligations.UpdatesComplete : Prop :=
  (∀ t c w off len s v u b, began s t c = v → fnUpdate v (fnOf v c) = true → u = deferCmd v c →
    readWindow u c w off.toNat len.toNat = .ok b → imageAccepted u 3 b = true → u.boot.swap = none → u.boot.takeover = none →
    exec (.fwLoad t c w off len) s = .next { u with boot := { u.boot with writes := u.boot.writes ++ [{
      cmd := c, kind := 3, slotB := !u.boot.flash.selMain, image := b }] } })
  ∧ (∀ t c w off len s v u b, began s t c = v → fnUpdate v (fnOf v c) = true → u = deferCmd v c →
    readWindow u c w off.toNat len.toNat = .ok b → biKind b ≠ 4 → imageAccepted u 2 b = true → u.boot.shellSwap = none →
    u.boot.reboot = none →
    exec (.shellFwLoad t c w off len) s = .next { u with boot := { u.boot with writes := u.boot.writes ++ [{
      cmd := c, kind := 2, slotB := !u.boot.shellB, image := b }] } })
  ∧ (∀ t c w off len s v, began s t c = v → fnUpdate v (fnOf v c) = false →
    exec (.fwLoad t c w off len) s = .next (done v c stPROTECTION)
    ∧ exec (.shellFwLoad t c w off len) s = .next (done v c stPROTECTION)
    ∧ exec (.fwSwap t c) s = .next (done v c stPROTECTION) ∧ exec (.shellFwSwap t c) s = .next (done v c stPROTECTION))
  ∧ (∀ t s v w rest u, advance s t = v → v.boot.writes = w :: rest → w.kind = 3 →
    u = setImage { v with boot := { v.boot with writes := rest } } 3 w.slotB w.image →
    exec (.bootFlashWriteDone t) s = .next (done u w.cmd stOK (slotCode w.slotB)))
  ∧ (∀ t c s v u, began s t c = v → fnUpdate v (fnOf v c) = true → u = deferCmd v c → u.boot.swap = none → u.boot.takeover = none →
    imageAccepted u 3 (bootSlot u 3 (!u.boot.flash.selMain)) = true →
    exec (.fwSwap t c) s = .next { u with boot := { u.boot with swap := some c } })
  ∧ (∀ t c s v u, began s t c = v → fnUpdate v (fnOf v c) = true → u = deferCmd v c → u.boot.shellSwap = none →
    u.boot.reboot = none → shellSwapOk u = true →
    exec (.shellFwSwap t c) s = .next { u with boot := { u.boot with shellSwap := some c } })
  ∧ (∀ t s v x u, advance s t = v → v.boot.takeover = some x → x.at_ + 10000000 ≤ v.phase.gtc →
    v.phase.gtc < v.safety.heartbeat + protHeartbeat v →
    u = setSelector { v with boot := { v.boot with takeover := none }, hif := { v.hif with swapInProgress := false } } 3 v.hif.fwSlotB →
    exec (.fwSwapConfirm t) s = .next (done (raiseEvent
        (huskSwap u 0 (!v.hif.fwSlotB) v.hif.fwSlotB 0 (bootSlot u 3 v.hif.fwSlotB)) evFW_SWAPPED (slotCode v.hif.fwSlotB))
      x.cmd stOK (slotCode v.hif.fwSlotB)))

/-- Spares and training, for a function with update permission; each command but SPARE_STATUS posts DEFERRED first (deferCmd).
SECTOR_REMAP of a sector of a partition, with a spare left: where the partition neither runs nor has spilled a route it is
remapped under the partition's next epoch, and where a route runs it waits. ENGINE_SWAP of an active engine with a spare
fences it and hands its work over (swapEngine). SERVO_PAIR_DRAIN of a pair with channels that is not retired, all of which
find another pair, with no drain in progress, is the drain in progress. SPARE_STATUS completes OK with the sectors left,
whether an engine is spare, and the retired pairs. LPDDR_RETRAIN of a mask with a channel, with no training under way, begins
to train the lowest one. PAIR_SELFTEST_END of a pair under test makes it available, or after a failure retires it with a FAULT
record. LPDDR_REFRESH counts on its channel, and takes one step of the training of the channel that is being trained, where
more than one is left. Memory events. SLICE_FENCE of a slice that is not fenced fences it with a FAULT record, of cause 3
after 4 uncorrectable errors and 4 before, and of a fenced one changes nothing. SHARED_BUFFER_SCRUB changes nothing.
LPDDR_DRIFT_MEASURE keeps the measurement of its channel. LPDDR_BURST_REREAD_LIMIT at a place of the shared buffer or of LPDDR
counts two re-reads on its channel where the place is read by bursts (burstRange), and an uncorrectable error, and its reader
ends (failRead); in memory that HARD work uses it triggers the safe state as well. After R31, R169, R284, R374, R375, R416,
R417, R418, R618, R621, R623, R680, R681. -/
def Obligations.SparesTrainingAndMemory : Prop :=
  ((∀ t c n s v u l p, began s t c = v → okRemap n = true → fnUpdate v (fnOf v c) = true → u = deferCmd v c →
     logicalOf u n.toNat = some l → spareSector u ≠ none → partOfLogical u l = some p → 
     ((getPart u p).run = none → (getPart u p).spilled = none → exec (.sectorRemap t c n) s = .next (remapSector (bumpEpoch u p) l n.toNat (some c)))
     ∧ (∀ r, (getPart u p).run = some r →
       exec (.sectorRemap t c n) s = .next (modPart u p (fun x => { x with remap := x.remap ++ [(n.toNat, c)] }))))
   ∧ (∀ t c e s v u k sp, began s t c = v → okEngine e = true → fnUpdate v (fnOf v c) = true → u = deferCmd v c →
     k = namedEngine u c e → spareEngine u = some sp → (getEngine u k).mode = .active →
     exec (.engineSwap t c e) s = .next (swapEngine (fenceEngine u k) k sp (some c)))
   ∧ (∀ t c p r s v u y, began s t c = v → fnUpdate v (fnOf v c) = true → u = deferCmd v c → u.servo.drain = none →
     (getPair u p.toNat).retired = false →
     y = { u with servo := { u.servo with drain := some { cmd := c, pair := p.toNat, retire := r, moved := 0 } } } →
     moveAll y p.toNat ≠ none → pairChannels y p.toNat ≠ [] →
     exec (.servoPairDrain t c p r) s = .next y)
   ∧ (∀ t p s v, advance s t = v → (getPair v p).testing = true →
     exec (.pairSelftestEnd t p false) s = .next (modPair v p (fun x => { x with testing := false }))
     ∧ exec (.pairSelftestEnd t p true) s =
       .next (huskFault (modPair v p (fun x => { x with testing := false, retired := true })) (srcPair p) 3 p 4))
   ∧ (∀ t c s v, began s t c = v → fnUpdate v (fnOf v c) = true →
     exec (.spareStatus t c) s = .next (done v c stOK (((List.range 18).filter (sectorLeft v)).length
       + (if (spareEngine v).isSome then 4 else 0) + (v.servo.pairs.filter (fun p => p.retired)).length * 16)))
   ∧ (∀ t c m s v u n left, began s t c = v → fnUpdate v (fnOf v c) = true → u = deferCmd v c → u.ports.retrain = none →
     (List.range 32).filter (fun n => wbit m n) = n :: left →
     exec (.lpddrRetrain t c m) s = .next (modLpddr
       { u with free := u.free + 1, ports := { u.ports with retrain := some (c, 0, n :: left) } } n
       (fun x => { x with retraining := some (max 1 (Config.retrainSteps u.free)) })))
   ∧ (∀ t n s v u, advance s t = v → v.ports.retrain = none → u = modLpddr v n (fun x => { x with refreshes := x.refreshes + 1 }) →
     exec (.lpddrRefresh t n) s = .next u)
   ∧ (∀ t n s v u c k left m, advance s t = v → u = modLpddr v n (fun x => { x with refreshes := x.refreshes + 1 }) →
     v.ports.retrain = some (c, k, n :: left) → (u.ports.lpddr.getD n LpddrChannel.reset).retraining = some (m + 2) →
     exec (.lpddrRefresh t n) s = .next (modLpddr u n (fun x => { x with retraining := some (m + 1) }))))
  ∧ ((∀ t n s v, advance s t = v → n < 16 → v.power.fenced.getD n false = false → 4 ≤ v.power.sliceErrors.getD n 0 →
      exec (.sliceFence t n) s = .next (huskFault { v with power := { v.power with fenced := v.power.fenced.set n true } } srcCp 5 n 3))
    ∧ (∀ t n s v, advance s t = v → n < 16 → v.power.fenced.getD n false = false → v.power.sliceErrors.getD n 0 < 4 →
      exec (.sliceFence t n) s = .next (huskFault { v with power := { v.power with fenced := v.power.fenced.set n true } } srcCp 5 n 4))
    ∧ (∀ t n s v, advance s t = v → v.power.fenced.getD n false = true → exec (.sliceFence t n) s = .next v)
    ∧ (∀ t n s v, advance s t = v → exec (.sharedBufferScrub t n) s = .next v)
    ∧ (∀ t n d s v, advance s t = v → exec (.lpddrDriftMeasure t n d) s = .next { v with
        ports := { v.ports with lpddr := v.ports.lpddr.modify n (fun x => { x with drift := d }) } })
    ∧ (∀ t a k s v u, advance s t = v → a < hostBase → (a < 16 * sliceBytes ∨ lpddrBase ≤ a) →
      u = (if burstRange v a 1 then { v with ports := { v.ports with
        lpddr := v.ports.lpddr.modify (Config.lpddrChannel a % 32) (fun x => { x with rereads := satInc (satInc x.rereads) }) } } else v) →
      (usedByHard v a = false → exec (.lpddrBurstRereadLimit t a k) s = .next (failRead (noteUncorrectable u a
        (if v.cmds.transfers.any (fun x => x.cmd.key == k) = true then srcDma else srcCp)) k))
      ∧ (usedByHard v a = true → exec (.lpddrBurstRereadLimit t a k) s = .next (safeTrigger (failRead (noteUncorrectable u a
        (if v.cmds.transfers.any (fun x => x.cmd.key == k) = true then srcDma else srcCp)) k) srcShell))))

/-- The imprint commands. IMPRINT_CONFIG of an own queue: with enable, entries other than 0 and a ring that can be written, its
configuration with that ring takes the place of any other, its commands outstanding before it exempt, and without enable it
has none; both complete OK. WEIGHT_DIGEST of an own weight allocation posts DEFERRED and waits for the hash engine.
IMPRINT_COMPARE of two entries that can be read completes OK with their differences. SOLVE_STATE_READ of a slot with state
(stateSlot), with a window that takes the block, writes it and completes OK with its length; SOLVE_STATE_WRITE of a block of
the same version and length without reserved bits, on an engine without HARD or SAFETY work, restores it and completes OK.
HASH_ENGINE_COMPLETE of inputs charges their bytes; of a weight digest whose allocation can be read, it charges them, keeps
the digest of the allocation and completes the command OK with its first 8 bytes. IMPRINT_WRITE of the imprint at the head
writes it, charges its bytes and lets the completion that it held follow. After R637, R638, R639, R640, R641, R643, R644,
R645. -/
def Obligations.ImprintsComplete : Prop :=
  (∀ t c q w off n s v x k, began s t c = v → n ≠ 0 → findSq v q.toNat = some x → ownsObject v c x.session x.fn = true →
    windowKey v c w off.toNat (96 * n.toNat) true = .ok k →
    exec (.imprintConfig t c q w off n true) s = .next (done { v with imprints := { v.imprints with
      configs := v.imprints.configs.filter (fun y => y.sq != x.id) ++ [{
        sq := x.id, session := x.session, window := w.toNat, offset := off.toNat, entries := n.toNat, next := 0,
        before := (v.cmds.outstanding.filter (fun o => o.cmd.key.src == .queue q)).map (fun o => o.cmd.key) }] } } c stOK))
  ∧ (∀ t c q w off n s v x, began s t c = v → findSq v q.toNat = some x → ownsObject v c x.session x.fn = true →
    exec (.imprintConfig t c q w off n false) s = .next (done { v with imprints := { v.imprints with
      configs := v.imprints.configs.filter (fun y => y.sq != x.id) } } c stOK))
  ∧ (∀ t c a s v x id u, began s t c = v → v.cmds.allocs.find? (fun y => y.addr == a.toNat) = some x → x.session = some id →
    ownsObject v c id x.fn = true → x.cls = 1 →
    u = deferCmd v c →
    exec (.weightDigest t c a) s = .next { u with imprints := { u.imprints with
      queue := u.imprints.queue ++ [.weight c x.addr] } })
  ∧ (∀ t c w oa ob s v a b, began s t c = v → readWindow v c w oa.toNat 96 = .ok a → readWindow v c w ob.toNat 96 = .ok b →
    exec (.imprintCompare t c w oa ob) s = .next (done v c stOK (compareImprints a b)))
  ∧ (∀ t c e n w off s v k x i u, began s t c = v → e.toNat ≤ 8 → stateSlot v c e n = some (k, x, i) →
    writeWindow v c w off.toNat (leBytes 4 i.version.toNat ++ leBytes 4 (imPersistent i.bytes) ++ List.replicate 8 0
      ++ persistentBytes i.bytes x.items x.persistent x.seeds) = .ok u →
    exec (.solveStateRead t c e n w off) s = .next (done u c stOK (16 + imPersistent i.bytes)))
  ∧ (∀ t c e n w off s v k x i h b, began s t c = v → e.toNat ≤ 8 → stateSlot v c e n = some (k, x, i) → engineHard v k = false →
    readWindow v c w off.toNat 16 = .ok h → fld (wordAt h 0) 31 16 = 0 → fld (wordAt h 0) 15 0 = i.version.toNat →
    (wordAt h 1).toNat = imPersistent i.bytes → wordAt h 2 = 0 → wordAt h 3 = 0 →
    readWindow v c w off.toNat (16 + imPersistent i.bytes) = .ok b →
    exec (.solveStateWrite t c e n w off) s =
      .next (done (writeState v k n.toNat i.bytes (b.drop 16)) c stOK))
  ∧ (∀ t s v session k n rest, advance s t = v → v.imprints.queue = .inputs session k n :: rest →
    exec (.hashEngineComplete t) s = .next (chargeHash { v with imprints := { v.imprints with queue := rest } } session n))
  ∧ (∀ t s v c a x rest u, advance s t = v → v.imprints.queue = .weight c a :: rest →
    u = chargeHash { v with imprints := { v.imprints with queue := rest } } (x.session.getD 0) x.bytes →
    v.cmds.allocs.find? (fun y => y.addr == a) = some x → accessStatus v x.addr x.bytes false = none →
    exec (.hashEngineComplete t) s = .next (done { u with imprints := { u.imprints with
      weights := u.imprints.weights.filter (fun w => w.addr != a) ++ [{ addr := a, digest := digest [v.mem.dev.read x.addr x.bytes] }] } }
      c stOK (numAt (digest [v.mem.dev.read x.addr x.bytes]) 0 8)))
  ∧ (∀ t s v x session n rest u, advance s t = v → v.imprints.queue = .imprint x session n :: rest →
    u = chargeHash (writeImprint { v with imprints := { v.imprints with queue := rest } } x) session n →
    exec (.imprintWrite t) s = .next (match x.held with | some y => enqueue u y.sq y | none => u))

/-- The peer commands. PEER_STATUS completes OK with the device's number, the first device present, the devices present, the ports
that are up and the lock. PEER_WINDOW_OPEN of a range of an own device window, with a free id, opens it for its devices and
completes OK with the id. PEER_WINDOW_CLOSE of an own one closes it (closePeerWindows) and completes OK. PEER_WRITE and
PEER_READ of 1 byte or more, of another device and a local range in an own window that the partition's slices serve and with
nothing against the access, begin a transfer and send its messages in the order of their offsets (sendPart); PEER_WRITE of no
bytes completes OK. After R712, R713, R714, R721. -/
def Obligations.PeerCommandsComplete : Prop :=
  (∀ t c s v, began s t c = v → exec (.peerStatus t c) s = .next (done v c stOK
      (ownNumber v + (devicesPresent v).headD 0 * 4 + (devicesPresent v).foldl (fun n d => n + 2 ^ d) 0 * 16
        + ((if (getPort v 0).up then 1 else 0) + (if (getPort v 1).up then 2 else 0)) * 256 + (if v.sync.locked then 1024 else 0))))
  ∧ (∀ t c w off len d wr rd s v k x id, began s t c = v → windowKey v c w off.toNat len.toNat wr = .ok k →
    findWindow v w = some x → x.host = false → pickFree 1 65535 (Config.handOut v.free) (v.ports.peer.windows.map (·.id)) = some id →
    exec (.peerWindowOpen t c w off len d wr rd) s = .next (done { v with
      free := v.free + 1,
      ports := { v.ports with peer := { v.ports.peer with
        windows := v.ports.peer.windows ++ [{
          id := id, session := x.session, base := k, length := len.toNat, devices := d, writable := wr, readable := rd }],
        closed := v.ports.peer.closed.filter (· != id) } } } c stOK id))
  ∧ (∀ t c w s v x, began s t c = v → v.ports.peer.windows.find? (fun y => y.id == w.toNat) = some x →
    ownsObject v c x.session (match findSession v x.session with | some y => y.fn | none => 0) = true →
    exec (.peerWindowClose t c w) s = .next (done (closePeerWindows v (fun y => y.id == x.id)) c stOK))
  ∧ (∀ t c d pw ro w lo len s v k x u, began s t c = v → d.toNat ≠ ownNumber v → windowKey v c w lo.toNat len.toNat false = .ok k →
    sliceServes v (partOf v c) k len.toNat = true → accessStatus v k len.toNat false = none → len ≠ 0 →
    x = ({
      cmd := c, write := true, window := w.toNat, local_ := k, length := len.toNat, id := v.ports.peer.nextTransfer,
      outcomes := [] } : PeerTransfer) →
    u = { v with ports := { v.ports with peer := { v.ports.peer with
      transfers := v.ports.peer.transfers ++ [x], nextTransfer := v.ports.peer.nextTransfer + 1 } } } →
    exec (.peerWrite t c d pw ro w lo len) s = .next ((List.range ((len.toNat + 4095) / 4096)).foldl (fun s i =>
      sendPart s x d.toNat pw.toNat ro.toNat (4096 * i) (min 4096 (len.toNat - 4096 * i))) u))
  ∧ (∀ t c d pw ro w lo len s v k x u, began s t c = v → d.toNat ≠ ownNumber v → windowKey v c w lo.toNat len.toNat true = .ok k →
    sliceServes v (partOf v c) k len.toNat = true → accessStatus v k len.toNat true = none → len ≠ 0 →
    x = ({
      cmd := c, write := false, window := w.toNat, local_ := k, length := len.toNat, id := v.ports.peer.nextTransfer,
      outcomes := [] } : PeerTransfer) →
    u = { v with ports := { v.ports with peer := { v.ports.peer with
      transfers := v.ports.peer.transfers ++ [x], nextTransfer := v.ports.peer.nextTransfer + 1 } } } →
    exec (.peerRead t c d pw ro w lo len) s = .next ((List.range ((len.toNat + 4095) / 4096)).foldl (fun s i =>
      sendPart s x d.toNat pw.toNat ro.toNat (4096 * i) (min 4096 (len.toNat - 4096 * i))) u))
  ∧ (∀ t c d pw ro w lo s v k, began s t c = v → d.toNat ≠ ownNumber v → windowKey v c w lo.toNat 0 false = .ok k →
    sliceServes v (partOf v c) k 0 = true → accessStatus v k 0 false = none →
    exec (.peerWrite t c d pw ro w lo 0) s = .next (done v c stOK))

/-- Messages that arrive with an intact header while the main domain runs, after the flit and the sender have been heard. A WRITE
to this device that has not been answered, whose range peerRange grants at its arrival, puts its bytes there, keeps its status
OK and answers with an ACK; one that was answered is answered again with the kept status alone. An ACK that is awaited answers
its message (answered) with its status. A READ_REQ of at most 4,096 bytes, not answered before, whose range peerRange grants,
keeps its status OK and is answered with the bytes. READ_DATA with status OK that is awaited and has the message's length,
with its window still open and nothing against the write, puts its bytes at their place and answers its message. HELLO and
EVENT do nothing more. A message for another device leaves at the other port with its residence time. A WRITE that is not
intact is only heard and counted as discarded, and one that arrives while the main domain does not run changes nothing. After
R709, R710, R711, R712, R713, R714, R715, R716, R718. -/
def Obligations.PeerMessagesAct : Prop :=
  (∀ t p h b s u v k, advance s t = u → mainRuns u = true → intact h b = true → pmType h = 1 → senderHeard (flitHeard u p) p h = v →
    pmDst h = ownNumber u → keptStatus v (pmSrc h) (pmSeq h) = none →
    peerRange v t (pmSrc h) (pmWindow h) (pmOffset h) b.length true = .ok k →
    exec (.peerWriteRx t p h b) s =
      .next (sendMessage (keepStatus (putKey v k b) (pmSrc h) (pmSeq h) stOK) (answerTo h 2 stOK [])))
  ∧ (∀ t p h b s u v st, advance s t = u → mainRuns u = true → intact h b = true → pmType h = 1 →
    senderHeard (flitHeard u p) p h = v → pmDst h = ownNumber u → keptStatus v (pmSrc h) (pmSeq h) = some st →
    exec (.peerWriteRx t p h b) s = .next (sendMessage v (answerTo h 2 st [])))
  ∧ (∀ t p h s u v x m, advance s t = u → mainRuns u = true → intact h [] = true → pmType h = 2 →
    senderHeard (flitHeard u p) p h = v → pmDst h = ownNumber u → awaited v h true = some (x, m) →
    exec (.peerAckRx t p h) s = .next (answered v m (pmStatus h)))
  ∧ (∀ t p h b s u v k, advance s t = u → mainRuns u = true → intact h b = true → pmType h = 3 →
    senderHeard (flitHeard u p) p h = v → pmDst h = ownNumber u → keptStatus v (pmSrc h) (pmSeq h) = none → numAt b 0 4 ≤ 4096 →
    peerRange v t (pmSrc h) (pmWindow h) (pmOffset h) (numAt b 0 4) false = .ok k →
    exec (.peerReadReqRx t p h b) s = .next (sendMessage (keepStatus v (pmSrc h) (pmSeq h) stOK)
      (answerTo h 4 stOK (readKey v.mem k (numAt b 0 4)))))
  ∧ (∀ t p h b s u v x m, advance s t = u → mainRuns u = true → intact h b = true → pmType h = 4 →
    senderHeard (flitHeard u p) p h = v → pmDst h = ownNumber u → awaited v h false = some (x, m) → pmStatus h = stOK →
    b.length = m.length → v.cmds.windows.any (fun w => w.id == x.window) = true →
    accessStatus v (x.local_ + m.offset) m.length true = none →
    exec (.peerReadDataRx t p h b) s = .next (answered (putKey v (x.local_ + m.offset) b) m stOK))
  ∧ (∀ t p h s u, advance s t = u → mainRuns u = true → intact h [] = true → pmType h = 7 →
    exec (.peerHelloRx t p h) s = .next (senderHeard (flitHeard u p) p h))
  ∧ (∀ t p h b s u, advance s t = u → mainRuns u = true → intact h b = true → pmType h = 8 →
    exec (.peerEventRx t p h b) s = .next (senderHeard (flitHeard u p) p h))
  ∧ (∀ t p h b d s u v, advance s t = u → mainRuns u = true → intact h b = true → 1 ≤ pmType h → pmType h ≤ 8 →
    senderHeard (flitHeard u p) p h = v → pmDst h ≠ ownNumber u →
    exec (.peerMessageForward t p h b d) s = .next (sendAt v (1 - p) (forwardHeader h (d - u.phase.gtc)) b))
  ∧ (∀ t p h b s u, advance s t = u → mainRuns u = true → intact h b = false →
    exec (.peerWriteRx t p h b) s =
      .next (modPort (flitHeard u p) p (fun x => { x with discarded := satInc x.discarded })))
  ∧ (∀ t p h b s u, advance s t = u → mainRuns u = false → exec (.peerWriteRx t p h b) s = .next u)

/-- The peer link's timers. PEER_HELLO_TIMER of a port that has sent nothing for 10 µs, while the main domain runs, sends a HELLO,
and earlier nothing. PEER_CONNECTION_TIMEOUT of a port that is up and has heard no flit for 100 µs takes it down and drops an
open exchange (the model's reading of R709, log entry 153); with the other port down as well no device is present and the
device has no role, unless it was its own master already. PEER_FLIT_REPLAY counts on its port. PEER_RESEND_TIMEOUT of a
message sent again fewer than three times counts and sends it again, and of one sent again three times, to a device already
recorded as lost, ends its transfer and completes that with INTERNAL and result 8. After R57, R709, R715, R716, R717. -/
def Obligations.PeerTimersAct : Prop :=
  (∀ t p s v h y, advance s t = v → mainRuns v = true → (getPort v p).lastSent + 10000 ≤ v.phase.gtc →
    nextHeader v { type := 7, dst := portDevice v p } = (h, y) → exec (.peerHelloTimer t p) s = .next (sendAt y p h []))
  ∧ (∀ t p s v, advance s t = v → v.phase.gtc < (getPort v p).lastSent + 10000 → exec (.peerHelloTimer t p) s = .next v)
  ∧ (∀ t p s v u, advance s t = v → (getPort v p).up = true → (getPort v p).lastFlit + 100000 ≤ v.phase.gtc →
    u = modPort { v with sync := { v.sync with request := none } } p (fun x => { x with up := false }) → (getPort u (1 - p)).up = true →
    exec (.peerConnectionTimeout t p) s = .next u)
  ∧ (∀ t p s v u, advance s t = v → (getPort v p).up = true → (getPort v p).lastFlit + 100000 ≤ v.phase.gtc →
    u = modPort { v with sync := { v.sync with request := none } } p (fun x => { x with up := false }) → (getPort u (1 - p)).up = false →
    exec (.peerConnectionTimeout t p) s = .next { u with
      ports := { u.ports with peer := { u.ports.peer with present := 0 } },
      sync := if u.sync.role = 0 ∧ u.sync.masterPeer = v.ports.peer.number then u.sync
          else { u.sync with
            role := 0, masterPeer := v.ports.peer.number, locked := false, good := 0, bad := 0, rateHeld := false, request := none } })
  ∧ (∀ t p s v, advance s t = v → exec (.peerFlitReplay t p) s = .next (modPort v p (fun x => { x with replays := satInc x.replays })))
  ∧ (∀ t d q s v m u, advance s t = v → v.ports.peer.messages.find? (fun m => m.device == d && m.seq == q) = some m → m.resends < 3 →
    u = modPeer v (fun x => { x with messages := x.messages.map (fun y =>
      if y.device == d && y.seq == q then { y with resends := y.resends + 1 } else y) }) →
    exec (.peerResendTimeout t d q) s = .next (sendAt (modPort u (routePort v d) (fun x => { x with resends := satInc x.resends }))
      (routePort v d) m.header m.payload))
  ∧ (∀ t d q s v m x, advance s t = v → v.ports.peer.messages.find? (fun m => m.device == d && m.seq == q) = some m → 3 ≤ m.resends →
    v.ports.peer.lost.contains m.device = true → v.ports.peer.transfers.find? (fun x => x.id == m.transfer) = some x →
    exec (.peerResendTimeout t d q) s = .next (done (dropPeerTransfer v x.id) x.cmd stINTERNAL 8))

/-- Cross-device time. SYNC_EXCHANGE_TIMER of a follower, while the main domain runs, notes its request and sends it to the
master. SYNC_REQ at a master is answered with the request's stamp, the arrival, its departure and the residence sum. SYNC_RESP
of 32 bytes from the master with the stamp of the open request, at a follower that has locked before, is measured by its
offset (measured). SYNC_LOCK_ACQUIRED of an unlocked follower with 16 good exchanges or more, no lead fault and an earlier
lock, locks it; without a follower's role, the 16 or soundness it changes nothing. SYNC_LOCK_LOST of a locked device with 4
bad exchanges or more ends the lock with a FAULT record and SYNC_LOST. GTC_HOLD_END ends the hold, and neither GTC lies before
its instant. After R57, R73, R74, R75, R78, R718. -/
def Obligations.CrossDeviceTime : Prop :=
  (∀ t s v, advance s t = v → mainRuns v = true → v.sync.role = 2 →
    exec (.syncExchangeTimer t) s = .next (sendMessage
      { v with sync := { v.sync with request := some ((v.ports.peer.seqs.getD v.sync.masterPeer.toNat 0).toNat, v.phase.gtc) } }
      { type := 5, dst := v.sync.masterPeer.toNat, payload := leBytes 8 v.phase.gtc }))
  ∧ (∀ t p h b d s u v, advance s t = u → mainRuns u = true → intact h b = true → pmType h = 5 → senderHeard (flitHeard u p) p h = v →
    pmDst h = ownNumber u → v.sync.role = 1 →
    exec (.syncReqRx t p h b d) s = .next (sendMessage v {
      type := 6, dst := pmSrc h,
      payload := leBytes 8 (numAt b 0 8) ++ leBytes 8 v.phase.gtc ++ leBytes 8 d ++ leBytes 8 (pmOffset h) }))
  ∧ (∀ t p h b s u v r, advance s t = u → mainRuns u = true → intact h b = true → pmType h = 6 → senderHeard (flitHeard u p) p h = v →
    pmDst h = ownNumber u → v.sync.request = some r → v.sync.role = 2 → pmSrc h = v.sync.masterPeer.toNat → b.length = 32 →
    numAt b 0 8 = r.2 → v.sync.everLocked = true →
    exec (.syncRespRx t p h b) s = .next (measured v
      ((((numAt b 8 8 : Int) - r.2 - numAt b 24 8) - ((v.phase.gtc : Int) - numAt b 16 8 - pmOffset h)) / 2)))
  ∧ (∀ t s v, advance s t = v → v.sync.role = 2 → v.sync.locked = false → v.sync.leadFault = false → 16 ≤ v.sync.good.toNat →
    v.sync.everLocked = true →
    exec (.syncLockAcquired t) s =
      .next { v with sync := { v.sync with locked := true, everLocked := true, bad := 0, rateHeld := false } })
  ∧ (∀ t s v, advance s t = v → v.sync.role ≠ 2 ∨ v.sync.good.toNat < 16 ∨ v.sync.leadFault = true →
    exec (.syncLockAcquired t) s = .next v)
  ∧ (∀ t s v, advance s t = v → v.sync.locked = true → 4 ≤ v.sync.bad.toNat →
    exec (.syncLockLost t) s = .next (raiseEvent
      (huskFault { v with sync := { v.sync with locked := false, good := 0, rateHeld := true } } srcShell 0x0A v.sync.masterPeer.toNat 9 v.sync.offset.toNat)
      evSYNC_LOST v.sync.offset.toNat))
  ∧ (∀ t s n, s.phase.hold = some n → exec (.gtcHoldEnd t) s = .next { s with phase := { s.phase with
      hold := none, gtc := max s.phase.gtc t, shadow := max s.phase.shadow t } })

/-- The interface commands. IF_STATUS of a selector in range, with a window that takes the section, writes it and completes OK
with its length. INGRESS_CONFIG of a descriptor that can be read and keeps streamOk, that changes neither kind nor port of a
stream in use, with a ring in the envelope unless it turns the stream off, starts the stream afresh and completes OK.
ENC_CONFIG with operands in range, of an input that no phase source uses, configures it, its count going on only in the same
mode, and completes OK; of one in use it completes with PROTECTION. MNET_CONFIG of a network image that can be read and keeps
netImageOk, with every channel DISABLED, a timing that it fits and the identities that it names found, starts the network with
no connection faulted and completes OK with its nodes. After R682, R691, R692, R693, R704, R720, R721. -/
def Obligations.InterfaceCommandsComplete : Prop :=
  (∀ t c sel w off s v u, began s t c = v → okIfStatus sel = true → writeWindow v c w off.toNat (ifSection v sel.toNat) = .ok u →
    exec (.ifStatus t c sel w off) s = .next (done u c stOK (ifSection v sel.toNat).length))
  ∧ (∀ t c n w off s v b, began s t c = v → readWindow v c w off.toNat 32 = .ok b → streamOk (toWords 8 b) = true →
    (sdKind (getStream v n.toNat).desc = 0 ∨ sdKind (toWords 8 b) = 0 ∨ (sdKind (toWords 8 b) = sdKind (getStream v n.toNat).desc
      ∧ sdPort (toWords 8 b) = sdPort (getStream v n.toNat).desc)) →
    (sdKind (toWords 8 b) = 0
      ∨ inEnvelope v (sessionOf v c) (sdRing (toWords 8 b)) (sdSlots (toWords 8 b) * sdSlotBytes (toWords 8 b)) = true) →
    exec (.ingressConfig t c n w off) s = .next (done (modStream v n.toNat (fun x => { x with
      desc := toWords 8 b, number := 0, counter := none, assembly := none, newest := [] })) c stOK))
  ∧ (∀ t c n mode rate pos trig s v, began s t c = v → okEncConfig mode pos = true →
    v.phase.sources.any (fun p => (psType p.cfg == 2 || psType p.cfg == 3) && psInput p.cfg == 0x10 + n.toNat) = false →
    exec (.encConfig t c n mode rate pos trig) s = .next (done (modEncoder v n.toNat (fun e => { e with
      mode := mode, rate := rate, posBits := pos, triggerLog2 := trig, count := if mode = e.mode then e.count else 0, syncs := 0,
      request := none })) c stOK))
  ∧ (∀ t c n mode rate pos trig s v, began s t c = v → okEncConfig mode pos = true →
    v.phase.sources.any (fun p => (psType p.cfg == 2 || psType p.cfg == 3) && psInput p.cfg == 0x10 + n.toNat) = true →
    exec (.encConfig t c n mode rate pos trig) s = .next (done v c stPROTECTION))
  ∧ (∀ t c w off len found s v b, began s t c = v → readWindow v c w off.toNat len.toNat = .ok b →
    v.servo.channels.all (fun x => x.st == .disabled) = true → netImageOk b = true →
    (v.servo.net.tCyc = 0 ∨ tripFits b v.servo.net.txShift v.servo.net.rxBound = true) → found = netIdentities b → b ≠ [] →
    exec (.mnetConfig t c w off len found) s = .next (done { v with ports := { v.ports with mnet := { v.ports.mnet with
      image := b, running := true, faulted := [] } } } c stOK (mnNodes b)))

/-- The CAN FD ports. CAN_CONFIG of a block that can be read and keeps canBlockOk, with at most 64 filters and a ring in the
envelope unless it turns the port off, puts it in force and completes OK. CAN_SEND with operands in range that canRefusal does
not refuse puts the frame, with its data as read now, at the end of the port's queue. CAN_SEND_MATCH makes every frame of the
command whose point is reached ready (readyFrame). CAN_FRAME_SENT of a running port that is neither listening nor off the bus,
and of a kind that the port may send, sends the first ready frame and completes its command OK with the GTC. CAN_FRAME_RX of a
frame that a running port accepts counts it and puts its record in the ring while the firmware is ready, and otherwise keeps
the record where fewer than 256 are kept. CAN_BUS_OFF of a running port that is on the bus takes it off and is counted;
CAN_BUS_OFF_RECOVERY ends that. After R697, R698, R721. -/
def Obligations.CanPortsWork : Prop :=
  (∀ t c n w off s v h b, began s t c = v → readWindow v c w off.toNat 32 = .ok h → cbFilters h ≤ 64 →
    readWindow v c w off.toNat (32 + 8 * cbFilters h) = .ok b → canBlockOk b = true →
    (cbEnable b = false ∨ inEnvelope v (sessionOf v c) (cbRing b) (80 * cbRecords b) = true) →
    exec (.canConfig t c n w off) s = .next (done (modCan v n.toNat (fun p => { p with
      block := b, index := 0, busOff := false })) c stOK))
  ∧ (∀ t c n ident ext fd brs len data point s v, began s t c = v → okCanSend ident ext fd brs len = true →
    canRefusal v c (getCan v n.toNat) fd data.toNat len.toNat point = none →
    exec (.canSend t c n ident ext fd brs len data point) s = .next (modCan v n.toNat (fun p => { p with
      queue := p.queue ++ [{
        cmd := c, ident := ident, extended := ext, fd := fd, brs := brs, data := readKey v.mem data.toNat len.toNat,
        point := if point = pvZero then none else some point }] })))
  ∧ (∀ t k s v, advance s t = v → exec (.canSendMatch t k) s = .next { v with ports := { v.ports with
      can := v.ports.can.map (fun p =>
        if p.queue.any (fun f => f.cmd.key == k && (match f.point with | some x => pvReached v x | none => false))
        then { p with queue := readyFrame k p.queue } else p) } })
  ∧ (∀ t n s v f u, advance s t = v → (getCan v n).queue.find? canReady = some f → canRuns (getCan v n) = true →
    cbListen (getCan v n).block = false → (getCan v n).busOff = false → (f.fd = false ∨ cbFd (getCan v n).block = true) →
    u = modCan v n (fun p => { p with queue := p.queue.filter (fun g => g.cmd.key != f.cmd.key), sent := satInc p.sent }) →
    exec (.canFrameSent t n) s = .next (done { u with out := u.out ++ [.can n f.ident f.extended f.fd f.brs f.data] } f.cmd stOK v.phase.gtc))
  ∧ (∀ t n ident ext fd brs data s v u, advance s t = v → canRuns (getCan v n) = true → (getCan v n).busOff = false →
    (fd = false ∨ cbFd (getCan v n).block = true) → canAccepts (getCan v n).block ident ext = true →
    u = modCan v n (fun p => { p with received := satInc p.received }) → v.hif.fwReady = true →
    exec (.canFrameRx t n ident ext fd brs data) s = .next (ringPut u n (canRecord v.phase.shadow ident ext fd brs data)))
  ∧ (∀ t n ident ext fd brs data s v u, advance s t = v → canRuns (getCan v n) = true → (getCan v n).busOff = false →
    (fd = false ∨ cbFd (getCan v n).block = true) → canAccepts (getCan v n).block ident ext = true →
    u = modCan v n (fun p => { p with received := satInc p.received }) → v.hif.fwReady = false →
    exec (.canFrameRx t n ident ext fd brs data) s = .next (modCan u n (fun p =>
      if p.kept.length < 256 then { p with kept := p.kept ++ [canRecord v.phase.shadow ident ext fd brs data] } else p)))
  ∧ (∀ t n s v, advance s t = v → exec (.canBusOff t n) s = .next (modCan v n (fun p =>
      if canRuns p ∧ !p.busOff then { p with busOff := true, busOffs := satInc p.busOffs } else p)))
  ∧ (∀ t n s v, advance s t = v → exec (.canBusOffRecovery t n) s = .next (modCan v n (fun p => { p with busOff := false })))

/-- The ingress ports. CSI2_FRAME_END, while the main domain runs, gives every stream of its port and virtual channel its frame
(takeFrame), and changes nothing with no such kind of stream. ETH_FRAGMENT of a stream's MAC and UDP port that is not the
last: number 0, with no frame begun, begins one; the next number of the same frame joins its data to it. GPTP_MESSAGE_RX gives
the MAC its time, and once it is synchronised the sources on it their count where they had none. GATE_CONTROL_INTERVAL_END
takes the list's next entry while the cycle has room for it, and otherwise its first. After R684, R685, R686, R687, R688,
R689, R690. -/
def Obligations.IngressEventsAct : Prop :=
  (∀ t p vc packets s v, advance s t = v → mainRuns v = true →
    (∀ n, n < 64 → sdKind (getStream v n).desc ≠ 1) → exec (.csi2FrameEnd t p vc packets) s = .next v)
  ∧ (∀ t p vc packets s v, advance s t = v → mainRuns v = true →
    exec (.csi2FrameEnd t p vc packets) s = .next ((List.range 64).foldl (fun s n =>
      if sdKind (getStream s n).desc = 1 ∧ sdPort (getStream s n).desc = p ∧ sdVc (getStream s n).desc = vc then
        takeFrame s n ((packets.find? (fun p => p.1 == 0x12)).map (fun p => p.2.take 32))
          ((packets.filter (fun q => q.1 == sdType (getStream s n).desc)).flatMap (·.2))
      else s) v))
  ∧ (∀ t mac udp data s v n, advance s t = v → mainRuns v = true → 16 ≤ data.length → fld (wordAt data 0) 31 24 = 1 →
    n = fld (wordAt data 0) 23 18 → sdKind (getStream v n).desc = 2 → sdPort (getStream v n).desc = mac →
    sdUdp (getStream v n).desc = udp.toNat → (getStream v n).assembly = none → fld (wordAt data 0) 15 0 = 0 →
    wbit (wordAt data 1) 15 = false →
    exec (.ethFragment t mac udp data) s = .next (modStream v n (fun x => { x with
      assembly := some ⟨fld (wordAt data 1) 31 16, 1, v.phase.gtc, data.drop 16⟩ })))
  ∧ (∀ t mac udp data s v n a, advance s t = v → mainRuns v = true → 16 ≤ data.length → fld (wordAt data 0) 31 24 = 1 →
    n = fld (wordAt data 0) 23 18 → sdKind (getStream v n).desc = 2 → sdPort (getStream v n).desc = mac →
    sdUdp (getStream v n).desc = udp.toNat → (getStream v n).assembly = some a → a.next ≠ 0 → fld (wordAt data 0) 15 0 = a.next →
    fld (wordAt data 1) 31 16 = a.low → wbit (wordAt data 1) 15 = false →
    exec (.ethFragment t mac udp data) s = .next (modStream v n (fun x => { x with
      assembly := some { a with next := a.next + 1, data := a.data ++ data.drop 16 } })))
  ∧ (∀ t mac x s v, advance s t = v → exec (.gptpMessageRx t mac x false) s =
      .next (modMac v mac (fun m => { m with time := x, at_ := v.phase.gtc, synced := false })))
  ∧ (∀ t mac x s v u, advance s t = v → u = modMac v mac (fun m => { m with time := x, at_ := v.phase.gtc, synced := true }) →
    exec (.gptpMessageRx t mac x true) s = .next (modSourcesOn u (0x30 + mac) [5] (fun p =>
      if p.countValid then p else { p with raw := gptpRaw u p.cfg, countValid := true })))
  ∧ (∀ t mac s v, advance s t = v → exec (.gateControlIntervalEnd t mac) s = .next (modMac v mac (fun m =>
      if m.gates.isEmpty then m
      else if m.entry + 1 < gateCount m.gates ∧ m.elapsed + gateInterval m.gates m.entry < gateCycle m.gates then
        { m with entry := m.entry + 1, elapsed := m.elapsed + gateInterval m.gates m.entry }
      else { m with entry := 0, elapsed := 0 })))
end

