-- ==== Sys2Proof/Laws/Memory.lean ====
section
/-!
SUPPORT. Laws/Memory.lean: the laws of the byte memories: every operation keeps the canonical form, a write is read back,
and a write leaves every other address alone.
-/
namespace Sys2Proof.Laws

open Sys2Proof.Machine

/-- Every listed address lies above `a`. -/
def Above (a : Nat) (m : Memory) : Prop := ∀ x ∈ m, a < x.1

theorem wf_cons_iff (k : Nat) (v : Byte) (r : Memory) :
    Memory.wf ((k, v) :: r) = true ↔ v ≠ emptyByte ∧ Above k r ∧ Memory.wf r = true := by
  induction r generalizing k v with
  | nil => simp [Memory.wf, Above]
  | cons y r ih =>
    obtain ⟨k', v'⟩ := y
    have h := ih k' v'
    rw [Memory.wf]
    simp only [Bool.and_eq_true, bne_iff_ne, ne_eq, decide_eq_true_eq, h, Above, List.mem_cons, forall_eq_or_imp]
    constructor
    · rintro ⟨⟨h1, h2⟩, h3, h4, h5⟩
      exact ⟨h1, ⟨h2, fun x hx => Nat.lt_trans h2 (h4 x hx)⟩, h3, h4, h5⟩
    · rintro ⟨h1, ⟨h2, _⟩, h3, h4, h5⟩
      exact ⟨⟨h1, h2⟩, h3, h4, h5⟩

theorem get_of_above {a : Nat} {m : Memory} (h : Above a m) {b : Nat} (hb : b ≤ a) : m.get b = emptyByte := by
  induction m with
  | nil => rfl
  | cons y r ih =>
    have h1 : a < y.1 := h y (by simp)
    rw [Memory.get, if_neg (by omega)]
    exact ih (fun x hx => h x (by simp [hx]))

theorem above_cons_op {b a : Nat} {v : Byte} {m : Memory} (hab : b < a) (h : Above b m) : Above b (Memory.cons a v m) := by
  unfold Memory.cons
  split
  · exact h
  · intro x hx
    rcases List.mem_cons.1 hx with rfl | hx
    · exact hab
    · exact h x hx

theorem above_put {b : Nat} (m : Memory) {a : Nat} {v : Byte} (hab : b < a) (h : Above b m) : Above b (m.put a v) := by
  induction m with
  | nil => exact above_cons_op hab h
  | cons y r ih =>
    obtain ⟨k, w⟩ := y
    have hr : Above b r := fun x hx => h x (by simp [hx])
    unfold Memory.put
    split
    · exact above_cons_op hab h
    · split
      · exact above_cons_op hab hr
      · intro x hx
        rcases List.mem_cons.1 hx with rfl | hx
        · exact h (k, w) (by simp)
        · exact ih hr x hx

/-- Writing a byte keeps the canonical form. -/
theorem wf_put (m : Memory) (a : Nat) (v : Byte) (h : Memory.wf m = true) : Memory.wf (m.put a v) = true := by
  have hc : ∀ r : Memory, Memory.wf r = true → Above a r → Memory.wf (Memory.cons a v r) = true := by
    intro r hr har
    unfold Memory.cons
    split
    · exact hr
    · exact (wf_cons_iff _ _ _).2 ⟨‹_›, har, hr⟩
  induction m with
  | nil => exact hc [] rfl (by simp [Above])
  | cons y r ih =>
    obtain ⟨k, w⟩ := y
    obtain ⟨h1, h2, h3⟩ := (wf_cons_iff _ _ _).1 h
    unfold Memory.put
    split
    · refine hc _ h ?_
      intro x hx
      rcases List.mem_cons.1 hx with rfl | hx
      · assumption
      · exact Nat.lt_trans ‹a < k› (h2 x hx)
    · split
      · subst k; exact hc _ h3 h2
      · exact (wf_cons_iff _ _ _).2 ⟨h1, above_put r (by omega) h2, ih h3⟩

/-- Writing a byte string keeps the canonical form. -/
theorem wf_write (m : Memory) (a : Nat) (b : Bytes) (h : Memory.wf m = true) : Memory.wf (m.write a b) = true := by
  induction b generalizing m a with
  | nil => exact h
  | cons x xs ih => exact ih _ _ (wf_put m a x h)

/-- A byte written reads back. -/
theorem get_put_self (m : Memory) (a : Nat) (v : Byte) (h : Memory.wf m = true) : (m.put a v).get a = v := by
  have hc : ∀ r : Memory, Above a r → (Memory.cons a v r).get a = v := by
    intro r hr
    unfold Memory.cons
    split
    · rw [get_of_above hr (Nat.le_refl a)]; exact (Eq.symm ‹_›)
    · simp [Memory.get]
  induction m with
  | nil => exact hc [] (by simp [Above])
  | cons y r ih =>
    obtain ⟨k, w⟩ := y
    obtain ⟨_, h2, h3⟩ := (wf_cons_iff _ _ _).1 h
    unfold Memory.put
    split
    · refine hc _ ?_
      intro x hx
      rcases List.mem_cons.1 hx with rfl | hx
      · assumption
      · exact Nat.lt_trans ‹a < k› (h2 x hx)
    · split
      · subst k; exact hc _ h2
      · rw [Memory.get, if_neg ‹_›]; exact ih h3

/-- A byte written leaves every other address as it was. -/
theorem get_put_other (m : Memory) (a b : Nat) (v : Byte) (h : b ≠ a) : (m.put a v).get b = m.get b := by
  have hc : ∀ r : Memory, (Memory.cons a v r).get b = r.get b := by
    intro r
    unfold Memory.cons
    split
    · rfl
    · rw [Memory.get, if_neg (fun e => h e.symm)]
  induction m with
  | nil => exact hc []
  | cons y r ih =>
    obtain ⟨k, w⟩ := y
    unfold Memory.put
    split
    · exact hc _
    · split
      · subst k; rw [hc, Memory.get, if_neg (fun e => h e.symm)]
      · simp only [Memory.get, ih]

theorem get_write_other (m : Memory) (a b : Nat) (l : Bytes) (h : b < a ∨ a + l.length ≤ b) :
    (m.write a l).get b = m.get b := by
  induction l generalizing m a with
  | nil => rfl
  | cons x xs ih =>
    simp only [List.length_cons] at h
    rw [Memory.write, ih _ _ (by omega), get_put_other _ _ _ _ (by omega)]

/-- A byte string written reads back. -/
theorem read_write (m : Memory) (a : Nat) (l : Bytes) (h : Memory.wf m = true) : (m.write a l).read a l.length = l := by
  induction l generalizing m a with
  | nil => rfl
  | cons x xs ih =>
    rw [Memory.write, List.length_cons, Memory.read, get_write_other _ _ _ _ (by omega), get_put_self _ _ _ h,
      ih _ _ (wf_put m a x h)]

/-- A write at a key keeps both memories canonical. -/
theorem wf_writeKey (m : Mem) (k : Nat) (b : Bytes) (hd : Memory.wf m.dev = true) (hh : Memory.wf m.host = true) :
    Memory.wf (writeKey m k b).dev = true ∧ Memory.wf (writeKey m k b).host = true := by
  unfold writeKey
  split
  · exact ⟨hd, wf_write _ _ _ hh⟩
  · exact ⟨wf_write _ _ _ hd, hh⟩

/-- A checked write keeps the memories canonical. -/
theorem putKey_memoryOk (s : State) (k : Nat) (b : Bytes) (h : s.MemoryOk) : (putKey s k b).MemoryOk := by
  obtain ⟨h1, h2, h3⟩ := h
  obtain ⟨h4, h5⟩ := wf_writeKey s.mem k b h1 h2
  refine ⟨h4, h5, ?_⟩
  unfold putKey clearWeights
  dsimp only
  split <;> exact h3

/-- The memories of the state after reset are canonical. -/
theorem reset_memoryOk : State.reset.MemoryOk := by
  refine ⟨by decide, by decide, by decide⟩

end Sys2Proof.Laws
end

