-- ==== Sys2Proof/Laws/Keeps.lean ====
section
/-!
SUPPORT. Laws/Keeps.lean: what every operation of the model keeps: the queue of waiting commands, the canonical form of the
memories, the outputs low while STO is held, and STO held until something releases it. The relation is stated once and composes.
-/
namespace Sys2Proof.Laws

open Sys2Proof.Machine

/-- The main GTC is not ahead of the shadow GTC, and neither steps backward (R58, R59). -/
structure Onward (p q : PhaseUnit) : Prop where
  order : p.gtc ≤ p.shadow → q.gtc ≤ q.shadow
  gtc : p.gtc ≤ p.shadow → p.gtc ≤ q.gtc
  shadow : p.gtc ≤ p.shadow → p.shadow ≤ q.shadow

theorem Onward.refl (p : PhaseUnit) : Onward p p := ⟨id, fun _ => Nat.le_refl _, fun _ => Nat.le_refl _⟩

theorem Onward.trans {p q r : PhaseUnit} (h : Onward p q) (k : Onward q r) : Onward p r :=
  ⟨fun o => k.order (h.order o), fun o => Nat.le_trans (h.gtc o) (k.gtc (h.order o)),
    fun o => Nat.le_trans (h.shadow o) (k.shadow (h.order o))⟩

/-- An update of the phase unit that is no matter of the clock. -/
structure SameClock (p q : PhaseUnit) : Prop where
  gtc : q.gtc = p.gtc
  shadow : q.shadow = p.shadow

theorem SameClock.onward {p q : PhaseUnit} (h : SameClock p q) : Onward p q :=
  ⟨fun o => by rw [h.gtc, h.shadow]; exact o, fun _ => Nat.le_of_eq h.gtc.symm, fun _ => Nat.le_of_eq h.shadow.symm⟩

/-- From `s` to `s'` the queue of waiting commands is the same, memories in canonical form stay so, the outputs stay low while STO
is held, and held STO stays held. With `b`, the GTCs also move on only: a Shell start is without. With `c`, the protection set is the
same: boot code is without. -/
structure Keeps (b c : Bool) (s s' : State) : Prop where
  pending : s'.pending = s.pending
  mem : s.MemoryOk → s'.MemoryOk
  sto : s.StoOk → s'.StoOk
  held : s.safety.stoHeld = true → s'.safety.stoHeld = true
  clock : b = true → Onward s.phase s'.phase
  prot : c = true → s'.boot.prot = s.boot.prot

theorem Keeps.refl {b c : Bool} (s : State) : Keeps b c s s := ⟨rfl, id, id, id, fun _ => Onward.refl _, fun _ => rfl⟩

theorem Keeps.trans {d e : Bool} {a b c : State} (h : Keeps d e a b) (k : Keeps d e b c) : Keeps d e a c :=
  ⟨k.pending.trans h.pending, k.mem ∘ h.mem, k.sto ∘ h.sto, k.held ∘ h.held, fun e => (h.clock e).trans (k.clock e),
    fun e => (k.prot e).trans (h.prot e)⟩

/-- What an update of the safety unit leaves alone, when it is no matter of STO. -/
structure SameSto (a b : Safety) : Prop where
  stoA : b.stoA = a.stoA
  stoB : b.stoB = a.stoB
  brakeA : b.brakeA = a.brakeA
  brakeB : b.brakeB = a.brakeB
  held : b.stoHeld = a.stoHeld
  delay : b.brakeDelay = a.brakeDelay

theorem SameSto.refl (a : Safety) : SameSto a a := ⟨rfl, rfl, rfl, rfl, rfl, rfl⟩

/-- The state `x` with everything replaced but its memories and its queue. -/
def rest (x : State) (phase : PhaseUnit) (sync : Sync) (etch : Committer) (hif : HostIf) (cmds : Cmds) (solver : Solver)
    (servo : Servo) (field : Field) (loops : List Loop) (plate : Plate) (safety : Safety) (boot : Boot) (husk : Husk)
    (imprints : Imprints) (power : Power) (ports : Ports) (out : List Output) (free : Nat) : State :=
  State.mk phase sync etch hif cmds x.mem solver servo field loops plate safety boot husk imprints power ports out free x.pending

theorem rest_eq (x : State) (phase sync etch hif cmds solver servo field loops plate safety boot husk imprints power ports out
    free) :
    State.mk phase sync etch hif cmds x.mem solver servo field loops plate safety boot husk imprints power ports out free x.pending
      = rest x phase sync etch hif cmds solver servo field loops plate safety boot husk imprints power ports out free := rfl

/-- An update that leaves the queue, the memories, the protection set and the STO outputs as they are. -/
theorem keeps_rest {b c : Bool} {s x : State} {phase : PhaseUnit} {sync etch hif cmds solver servo field loops plate husk imprints power ports out
    free} {boot : Boot} {safety : Safety} (h : Keeps b c s x) (hb : boot.prot = x.boot.prot) (hs : SameSto x.safety safety)
    (hc : SameClock x.phase phase) :
    Keeps b c s (rest x phase sync etch hif cmds solver servo field loops plate safety boot husk imprints power ports out free) := by
  refine h.trans ⟨rfl, ?_, ?_, ?_, fun _ => hc.onward, fun _ => hb⟩
  · rintro ⟨h1, h2, h3⟩; exact ⟨h1, h2, by rw [rest, hb]; exact h3⟩
  · intro h1 h2
    obtain ⟨a, b1, c1, d, e, f⟩ := hs
    have := h1 (e ▸ h2)
    exact ⟨a.trans this.1, b1.trans this.2.1, c1.trans this.2.2.1, d.trans this.2.2.2.1, f.trans this.2.2.2.2⟩
  · intro h1; exact hs.held.trans h1

/-- An update that sets the GTCs too. -/
theorem keeps_restOn {b c : Bool} {s x : State} {phase : PhaseUnit} {sync etch hif cmds solver servo field loops plate husk imprints
    power ports out free} {boot : Boot} {safety : Safety} (h : Keeps b c s x) (hb : boot.prot = x.boot.prot)
    (hs : SameSto x.safety safety) (hc : Onward x.phase phase) :
    Keeps b c s (rest x phase sync etch hif cmds solver servo field loops plate safety boot husk imprints power ports out free) := by
  have k : Keeps b c s (rest x x.phase sync etch hif cmds solver servo field loops plate safety boot husk imprints power ports out
    free) := keeps_rest h hb hs ⟨rfl, rfl⟩
  exact ⟨k.pending, k.mem, k.sto, k.held, fun e => (h.clock e).trans hc, k.prot⟩

/-- Both memories are in canonical form. -/
def MemOk (m : Mem) : Prop := Memory.wf m.dev = true ∧ Memory.wf m.host = true

/-- The state `x` with everything replaced but its queue. -/
def restMem (x : State) (phase : PhaseUnit) (sync : Sync) (etch : Committer) (hif : HostIf) (cmds : Cmds) (mem : Mem)
    (solver : Solver) (servo : Servo) (field : Field) (loops : List Loop) (plate : Plate) (safety : Safety) (boot : Boot)
    (husk : Husk) (imprints : Imprints) (power : Power) (ports : Ports) (out : List Output) (free : Nat) : State :=
  State.mk phase sync etch hif cmds mem solver servo field loops plate safety boot husk imprints power ports out free x.pending

theorem restMem_eq (x : State) (phase sync etch hif cmds mem solver servo field loops plate safety boot husk imprints power ports
    out free) :
    State.mk phase sync etch hif cmds mem solver servo field loops plate safety boot husk imprints power ports out free x.pending
      = restMem x phase sync etch hif cmds mem solver servo field loops plate safety boot husk imprints power ports out free := rfl

/-- An update that also changes memory, and keeps its form. -/
theorem keeps_restMem {b c : Bool} {s x : State} {phase : PhaseUnit} {sync etch hif cmds mem solver servo field loops plate husk imprints power ports out
    free} {boot : Boot} {safety : Safety} (h : Keeps b c s x) (hm : MemOk x.mem → MemOk mem) (hb : boot.prot = x.boot.prot)
    (hs : SameSto x.safety safety)
    (hc : SameClock x.phase phase) :
    Keeps b c s (restMem x phase sync etch hif cmds mem solver servo field loops plate safety boot husk imprints power ports out
      free) := by
  refine h.trans ⟨rfl, ?_, ?_, ?_, fun _ => hc.onward, fun _ => hb⟩
  · rintro ⟨h1, h2, h3⟩
    exact ⟨(hm ⟨h1, h2⟩).1, (hm ⟨h1, h2⟩).2, by rw [restMem, hb]; exact h3⟩
  · intro h1 h2
    obtain ⟨a, b1, c1, d, e, f⟩ := hs
    have := h1 (e ▸ h2)
    exact ⟨a.trans this.1, b1.trans this.2.1, c1.trans this.2.2.1, d.trans this.2.2.2.1, f.trans this.2.2.2.2⟩
  · intro h1; exact hs.held.trans h1

/-- Memories with the device memory replaced. -/
def memDev (m : Mem) (d : Memory) : Mem := ⟨d, m.host⟩

theorem memDev_eq (m : Mem) (d : Memory) : Mem.mk d m.host = memDev m d := rfl

theorem memOk_memDev {m : Mem} {d : Memory} (h : MemOk m) (hd : Memory.wf d = true) : MemOk (memDev m d) := ⟨hd, h.2⟩

theorem MemOk.dev {m : Mem} (h : MemOk m) : Memory.wf m.dev = true := h.1

theorem memOk_writeKey {m : Mem} {k : Nat} {b : Bytes} (h : MemOk m) : MemOk (writeKey m k b) := wf_writeKey m k b h.1 h.2

theorem wf_foldl {α : Type} (f : Memory → α → Memory) (l : List α) (hf : ∀ x a, Memory.wf x = true → Memory.wf (f x a) = true)
    {m : Memory} (h : Memory.wf m = true) : Memory.wf (l.foldl f m) = true := by
  induction l generalizing m with
  | nil => exact h
  | cons a l ih => exact ih (hf m a h)

theorem wf_foldl_snd {α β : Type} (f : β × Memory → α → β × Memory) (l : List α)
    (hf : ∀ x a, Memory.wf x.2 = true → Memory.wf (f x a).2 = true) {x : β × Memory} (h : Memory.wf x.2 = true) :
    Memory.wf (l.foldl f x).2 = true := by
  induction l generalizing x with
  | nil => exact h
  | cons a l ih => exact ih (hf x a h)

theorem memOk_foldl {α : Type} (f : Mem → α → Mem) (l : List α) (hf : ∀ x a, MemOk x → MemOk (f x a)) {m : Mem} (h : MemOk m) :
    MemOk (l.foldl f m) := by
  induction l generalizing m with
  | nil => exact h
  | cons a l ih => exact ih (hf m a h)

theorem memOk_foldFlagged {α : Type} (f : Mem → α → Flagged Mem) (l : List α) (hf : ∀ x a, MemOk x → MemOk (f x a).val) {m : Mem}
    (h : MemOk m) : MemOk (foldFlagged f m l).val := by
  induction l generalizing m with
  | nil => exact h
  | cons a l ih => exact ih (hf m a h)

/-- A memory without some of its entries is still canonical. -/
theorem wf_filter (p : Host.Cell → Bool) (m : Memory) (h : Memory.wf m = true) : Memory.wf (m.filter p) = true := by
  induction m with
  | nil => rfl
  | cons y r ih =>
    obtain ⟨k, v⟩ := y
    obtain ⟨h1, h2, h3⟩ := (wf_cons_iff _ _ _).1 h
    by_cases hp : p (k, v) = true
    · rw [List.filter_cons_of_pos hp]
      exact (wf_cons_iff _ _ _).2 ⟨h1, fun x hx => h2 x (List.mem_filter.1 hx).1, ih h3⟩
    · rw [List.filter_cons_of_neg hp]; exact ih h3

theorem wf_clear {m : Memory} {a n : Nat} (h : Memory.wf m = true) : Memory.wf (Memory.clear m a n) = true := wf_filter _ m h

theorem wf_write' {m : Memory} {a : Nat} {b : Bytes} (h : Memory.wf m = true) : Memory.wf (m.write a b) = true := wf_write m a b h

theorem wf_put' {m : Memory} {a : Nat} {v : Byte} (h : Memory.wf m = true) : Memory.wf (m.put a v) = true := wf_put m a v h

theorem memOk_pokeElem {m : Mem} {p f i : Nat} {v : Word} (h : MemOk m) : MemOk (pokeElem m p f i v) := by
  unfold pokeElem
  dsimp only
  split
  · exact ⟨wf_put' h.1, h.2⟩
  · exact ⟨wf_write' h.1, h.2⟩

theorem memOk_putElem {m : Mem} {d : Binding} {f r c : Nat} {w : Word} (h : MemOk m) : MemOk (putElem m d f r c w) := by
  unfold putElem
  dsimp only
  split
  · exact ⟨wf_put' (memOk_pokeElem h).1, (memOk_pokeElem h).2⟩
  · exact memOk_pokeElem h

theorem memOk_putWords {m : Mem} {a : Nat} {ws : List Word} (h : MemOk m) : MemOk (putWords m a ws) := ⟨wf_write' h.1, h.2⟩

theorem memOk_scatterRow {m : Mem} {d : Binding} {f op row : Nat} {ws : List Word} (h : MemOk m) :
    MemOk (scatterRow m d f op row ws).val := by
  unfold scatterRow
  exact memOk_foldFlagged _ _ (fun x a hx => ⟨wf_write' hx.1, hx.2⟩) h

theorem memOk_applyCopies {m : Mem} {d : Binding} {op width size : Nat} {copies : List (Nat × Nat × Word)} (h : MemOk m) :
    MemOk (applyCopies m d op width size copies).val := by
  unfold applyCopies
  exact memOk_foldFlagged _ _ (fun x a hx => memOk_foldFlagged _ _ (fun y b hy => ⟨wf_write' hy.1, hy.2⟩) hx) h

theorem memOk_copySlot {m : Mem} {b : Bytes} {src n a dst k c : Nat} (h : MemOk m) : MemOk (copySlot m b src n a dst k c) := by
  unfold copySlot
  exact memOk_foldl _ _ (fun _ _ h => memOk_foldl _ _ (fun _ _ h => memOk_foldl _ _ (fun _ _ h => memOk_pokeElem h) h) h) h

theorem memOk_storeCounts {m : Mem} {r : RouteRun} {x : Streams} {P : Nat} (h : MemOk m) : MemOk (storeCounts m r x P) := by
  unfold storeCounts
  refine memOk_foldl _ _ (fun _ _ h => ?_) h
  dsimp only
  split
  · exact memOk_putWords h
  · exact h

theorem memOk_applyItem {m : Mem} {r : RouteRun} {st : Station} {q : QueryTile} {k : Nat} {o : ItemOut} (h : MemOk m) :
    MemOk (applyItem m r st q k o) := by
  unfold applyItem
  exact memOk_foldl _ _ (fun _ _ h => memOk_pokeElem h) ⟨wf_foldl _ _ (fun _ _ h => wf_write' h) h.1, h.2⟩

theorem memOk_fieldOpRun {m : Mem} {b : Bytes} {P : Nat} {proof : Bool} {arrive : Nat} (h : MemOk m) :
    MemOk (fieldOpRun m b P proof arrive).mem := by
  unfold fieldOpRun
  dsimp only
  repeat' first
    | exact h
    | exact memOk_putWords h
    | exact memOk_foldFlagged _ _ (fun _ _ h => memOk_putElem h) h
    | exact memOk_foldFlagged _ _ (fun _ _ h => memOk_scatterRow h) h
    | exact memOk_applyCopies h
    | split

theorem keeps_ite {d e : Bool} {s a b : State} {p : Prop} [Decidable p] (ha : Keeps d e s a) (hb : Keeps d e s b) :
    Keeps d e s (if p then a else b) := by
  split
  · exact ha
  · exact hb

theorem keeps_foldl {b c : Bool} {α : Type} {s : State} (f : State → α → State) (l : List α) (hf : ∀ x a, Keeps b c s x → Keeps b c s (f x a))
    {x : State} (h : Keeps b c s x) : Keeps b c s (l.foldl f x) := by
  induction l generalizing x with
  | nil => exact h
  | cons a l ih => exact ih (hf x a h)

/-- A fold over a pair that begins with a state and something else. -/
theorem keeps_foldl_fst2 {b c : Bool} {α β γ : Type} {s : State} (f : (State × γ) × β → α → (State × γ) × β) (l : List α)
    (hf : ∀ x a, Keeps b c s x.1.1 → Keeps b c s (f x a).1.1) {x : (State × γ) × β} (h : Keeps b c s x.1.1) :
    Keeps b c s (l.foldl f x).1.1 := by
  induction l generalizing x with
  | nil => exact h
  | cons a l ih => exact ih (hf x a h)

/-- A fold over a state and something else. -/
theorem keeps_foldl_fst {b c : Bool} {α β : Type} {s : State} (f : State × β → α → State × β) (l : List α)
    (hf : ∀ x a, Keeps b c s x.1 → Keeps b c s (f x a).1) {x : State × β} (h : Keeps b c s x.1) : Keeps b c s (l.foldl f x).1 := by
  induction l generalizing x with
  | nil => exact h
  | cons a l ih => exact ih (hf x a h)

theorem clearWeights_mem (s : State) (k n : Nat) : (clearWeights s k n).mem = s.mem := by
  unfold clearWeights
  split <;> rfl

/-- Clearing registrations changes no memory. -/
theorem foldl_clear_mem {α : Type} (f g : α → Nat) (l : List α) (s : State) :
    (l.foldl (fun s x => clearWeights s (f x) (g x)) s).mem = s.mem := by
  induction l generalizing s with
  | nil => rfl
  | cons a l ih =>
    exact (ih _).trans (clearWeights_mem s (f a) (g a))

end Sys2Proof.Laws
end

