-- ==== Sys2Proof/Laws/Keeps1.lean ====
section
/-!
SUPPORT. Laws/Keeps1.lean: every operation of Machine/Ops.lean, Machine/Phase.lean, Machine/EtchTable.lean, Machine/Sched.lean,
Machine/Attention.lean, Machine/DmaOps.lean, Machine/ShellCheck.lean, Machine/PowerRules.lean, Machine/EtchArm.lean,
Machine/ImprintCore.lean, Machine/SolverOps.lean keeps what Laws/Keeps.lean says.
-/
namespace Sys2Proof.Laws

open Sys2Proof.Machine

/-! Machine/Ops.lean. -/

theorem keeps_advance {b0 d0 : Bool} {s0 s : State} {t : Nat} (h : Keeps b0 d0 s0 s) : Keeps b0 d0 s0 (advance s t) := by
  unfold advance
  split
  · exact h
  · refine h.trans ⟨rfl, id, id, id, fun _ => ⟨?_, ?_, ?_⟩, fun _ => rfl⟩ <;> intro o <;> dsimp only <;> omega

theorem keeps_takeFree {b0 d0 : Bool} {s0 : State} {s : State} (hs0 : Keeps b0 d0 s0 s) : Keeps b0 d0 s0 (takeFree s) := by
  unfold takeFree
  try dsimp only
  repeat' first
    | with_reducible assumption
    | (rw [rest_eq]; with_reducible refine keeps_rest ?_ rfl (SameSto.refl _) ⟨rfl, rfl⟩)

theorem keeps_mapSessions {b0 d0 : Bool} {s0 : State} {s : State} {f : Session → Session} (hs0 : Keeps b0 d0 s0 s) : Keeps b0
    d0 s0 (mapSessions s f) := by
  unfold mapSessions
  try dsimp only
  repeat' first
    | with_reducible assumption
    | (rw [rest_eq]; with_reducible refine keeps_rest ?_ rfl (SameSto.refl _) ⟨rfl, rfl⟩)

theorem keeps_modSession {b0 d0 : Bool} {s0 : State} {s : State} {id : Word} {f : Session → Session} (hs0 : Keeps b0 d0 s0 s) :
    Keeps b0 d0 s0 (modSession s id f) := by
  unfold modSession
  try dsimp only
  repeat' first
    | with_reducible assumption
    | with_reducible refine keeps_ite ?_ ?_
    | intro _
    | with_reducible apply keeps_mapSessions
    | split

theorem keeps_modSq {b0 d0 : Bool} {s0 : State} {s : State} {q : Nat} {f : SubQueue → SubQueue} (hs0 : Keeps b0 d0 s0 s) :
    Keeps b0 d0 s0 (modSq s q f) := by
  unfold modSq
  try dsimp only
  repeat' first
    | with_reducible assumption
    | with_reducible refine keeps_ite ?_ ?_
    | intro _
    | (rw [rest_eq]; with_reducible refine keeps_rest ?_ rfl (SameSto.refl _) ⟨rfl, rfl⟩)
    | split

theorem keeps_modCq {b0 d0 : Bool} {s0 : State} {s : State} {q : Nat} {f : ComQueue → ComQueue} (hs0 : Keeps b0 d0 s0 s) :
    Keeps b0 d0 s0 (modCq s q f) := by
  unfold modCq
  try dsimp only
  repeat' first
    | with_reducible assumption
    | with_reducible refine keeps_ite ?_ ?_
    | intro _
    | (rw [rest_eq]; with_reducible refine keeps_rest ?_ rfl (SameSto.refl _) ⟨rfl, rfl⟩)
    | split

theorem keeps_modOut {b0 d0 : Bool} {s0 : State} {s : State} {k : CmdKey} {f : Outstanding → Outstanding} (hs0 : Keeps b0 d0 s0
    s) : Keeps b0 d0 s0 (modOut s k f) := by
  unfold modOut
  try dsimp only
  repeat' first
    | with_reducible assumption
    | with_reducible refine keeps_ite ?_ ?_
    | intro _
    | (rw [rest_eq]; with_reducible refine keeps_rest ?_ rfl (SameSto.refl _) ⟨rfl, rfl⟩)
    | split

theorem keeps_dropOut {b0 d0 : Bool} {s0 : State} {s : State} {k : CmdKey} (hs0 : Keeps b0 d0 s0 s) : Keeps b0 d0 s0 (dropOut s
    k) := by
  unfold dropOut
  try dsimp only
  repeat' first
    | with_reducible assumption
    | intro _
    | (rw [rest_eq]; with_reducible refine keeps_rest ?_ rfl (SameSto.refl _) ⟨rfl, rfl⟩)

theorem keeps_modFunc {b0 d0 : Bool} {s0 : State} {s : State} {f : Nat} {g : Func → Func} (hs0 : Keeps b0 d0 s0 s) : Keeps b0
    d0 s0 (modFunc s f g) := by
  unfold modFunc
  try dsimp only
  repeat' first
    | with_reducible assumption
    | intro _
    | (rw [rest_eq]; with_reducible refine keeps_rest ?_ rfl (SameSto.refl _) ⟨rfl, rfl⟩)

theorem keeps_enqueue {b0 d0 : Bool} {s0 : State} {s : State} {q : BitVec 18} {x : Completion} (hs0 : Keeps b0 d0 s0 s) : Keeps
    b0 d0 s0 (enqueue s q x) := by
  unfold enqueue
  try dsimp only
  repeat' first
    | with_reducible assumption
    | intro _
    | with_reducible apply keeps_modCq
    | (rw [rest_eq]; with_reducible refine keeps_rest ?_ rfl (SameSto.refl _) ⟨rfl, rfl⟩)
    | split

theorem keeps_mailboxRespond {b0 d0 : Bool} {s0 : State} {s : State} {f : Nat} {k : CmdKey} {r : Reply} (hs0 : Keeps b0 d0 s0
    s) : Keeps b0 d0 s0 (mailboxRespond s f k r) := by
  unfold mailboxRespond
  try dsimp only
  repeat' first
    | with_reducible assumption
    | intro _
    | with_reducible apply keeps_modFunc
    | (rw [rest_eq]; with_reducible refine keeps_rest ?_ rfl (SameSto.refl _) ⟨rfl, rfl⟩)
    | dsimp only

theorem keeps_holdCompletion {b0 d0 : Bool} {s0 : State} {s : State} {k : CmdKey} {x : Completion} (hs0 : Keeps b0 d0 s0 s) :
    Keeps b0 d0 s0 (holdCompletion s k x) := by
  unfold holdCompletion
  try dsimp only
  repeat' first
    | with_reducible assumption
    | intro _
    | (rw [rest_eq]; with_reducible refine keeps_rest ?_ rfl (SameSto.refl _) ⟨rfl, rfl⟩)
    | split
    | dsimp only

theorem keeps_finish {b0 d0 : Bool} {s0 : State} {s : State} {c : Cmd} {r : Reply} (hs0 : Keeps b0 d0 s0 s) : Keeps b0 d0 s0
    (finish s c r) := by
  unfold finish
  try dsimp only
  repeat' first
    | with_reducible assumption
    | with_reducible refine keeps_ite ?_ ?_
    | intro _
    | with_reducible apply keeps_modOut
    | with_reducible apply keeps_dropOut
    | with_reducible apply keeps_enqueue
    | with_reducible apply keeps_mailboxRespond
    | with_reducible apply keeps_holdCompletion
    | with_reducible apply keeps_done
    | (rw [rest_eq]; with_reducible refine keeps_rest ?_ rfl (SameSto.refl _) ⟨rfl, rfl⟩)
    | split
    | dsimp only

theorem keeps_deferCmd {b0 d0 : Bool} {s0 : State} {s : State} {c : Cmd} (hs0 : Keeps b0 d0 s0 s) : Keeps b0 d0 s0 (deferCmd s
    c) := by
  unfold deferCmd
  try dsimp only
  repeat' first
    | with_reducible assumption
    | intro _
    | with_reducible apply keeps_modOut
    | with_reducible apply keeps_enqueue
    | (rw [rest_eq]; with_reducible refine keeps_rest ?_ rfl (SameSto.refl _) ⟨rfl, rfl⟩)
    | split

theorem keeps_done {b0 d0 : Bool} {s0 : State} {s : State} {c : Cmd} {st : Status} {result : Nat} (hs0 : Keeps b0 d0 s0 s) :
    Keeps b0 d0 s0 (done s c st result) := by
  unfold done
  try dsimp only
  repeat' first
    | with_reducible assumption
    | with_reducible apply keeps_finish

theorem keeps_orFail {α : Type} {b0 d0 : Bool} {s0 s : State} {c : Cmd} {x : Except Status α} {k : α → State} (h : Keeps b0 d0
    s0 s)
    (hk : ∀ a, x = .ok a → Keeps b0 d0 s0 (k a)) : Keeps b0 d0 s0 (orFail s c x k) := by
  unfold orFail
  split
  · exact keeps_done h
  · exact hk _ rfl

theorem keeps_refuseOr {b0 d0 : Bool} {s0 s k : State} {c : Cmd} {st : Option Status} (h : Keeps b0 d0 s0 s)
    (hk : Keeps b0 d0 s0 k) : Keeps b0 d0 s0 (refuseOr s c st k) := by
  unfold refuseOr
  split
  · exact keeps_done h
  · exact hk

theorem keeps_raiseVector {b0 d0 : Bool} {s0 : State} {s : State} {f : Nat} {v : Nat} (hs0 : Keeps b0 d0 s0 s) : Keeps b0 d0 s0
    (raiseVector s f v) := by
  unfold raiseVector
  try dsimp only
  repeat' first
    | with_reducible assumption
    | with_reducible refine keeps_ite ?_ ?_
    | intro _
    | (rw [rest_eq]; with_reducible refine keeps_rest ?_ rfl (SameSto.refl _) ⟨rfl, rfl⟩)
    | split

theorem keeps_deliverEvents {b0 d0 : Bool} {s0 s : State} {n : Nat} {id : Word} (h : Keeps b0 d0 s0 s) : Keeps b0 d0 s0
    (deliverEvents n s id) := by
  induction n generalizing s with
  | zero => exact h
  | succ n ih =>
    unfold deliverEvents
    split
    · exact h
    · split
      · exact ih (keeps_finish (keeps_modSession h))
      · exact h

theorem keeps_eventTo {b0 d0 : Bool} {s0 : State} {s : State} {code : BitVec 16} {result : DWord} {id : Word} (hs0 : Keeps b0
    d0 s0 s) : Keeps b0 d0 s0 (eventTo s code result id) := by
  unfold eventTo
  try dsimp only
  repeat' first
    | with_reducible assumption
    | with_reducible exact Keeps.refl _
    | with_reducible refine keeps_ite ?_ ?_
    | intro _
    | (with_reducible apply keeps_modSession)
    | (with_reducible apply keeps_deliverEvents)
    | (with_reducible apply keeps_foldl)
    | (with_reducible apply keeps_foldl_fst)
    | (rw [rest_eq]; with_reducible refine keeps_rest ?_ rfl (SameSto.refl _) ⟨rfl, rfl⟩)
    | (rw [rest_eq]; with_reducible refine keeps_rest ?_ rfl ⟨rfl, rfl, rfl, rfl, rfl, rfl⟩ ⟨rfl, rfl⟩)
    | (with_reducible apply keeps_foldl_fst2)
    | split
    | (dsimp only)

theorem keeps_raiseEvent {b0 d0 : Bool} {s0 : State} {s : State} {code : BitVec 16} {result : Nat} {p : Session → Bool} (hs0 :
    Keeps b0 d0 s0 s) : Keeps b0 d0 s0 (raiseEvent s code result p) := by
  unfold raiseEvent
  try dsimp only
  repeat' first
    | with_reducible assumption
    | intro _
    | with_reducible apply keeps_eventTo
    | with_reducible apply keeps_foldl

theorem keeps_huskRequest {b0 d0 : Bool} {s0 : State} {s : State} {typ : Nat} {source : Nat} {payload : Bytes} {stamp : Nat}
    (hs0 : Keeps b0 d0 s0 s) : Keeps b0 d0 s0 (huskRequest s typ source payload stamp) := by
  unfold huskRequest
  try dsimp only
  repeat' first
    | with_reducible assumption
    | with_reducible refine keeps_ite ?_ ?_
    | (rw [rest_eq]; with_reducible refine keeps_rest ?_ rfl (SameSto.refl _) ⟨rfl, rfl⟩)
    | split
    | dsimp only

theorem keeps_huskFault {b0 d0 : Bool} {s0 : State} {s : State} {source : Nat} {cls : Nat} {unit : Nat} {cause : Nat} {detail :
    Nat} (hs0 : Keeps b0 d0 s0 s) : Keeps b0 d0 s0 (huskFault s source cls unit cause detail) := by
  unfold huskFault
  try dsimp only
  repeat' first
    | with_reducible assumption
    | with_reducible apply keeps_huskRequest

theorem keeps_huskMiss {b0 d0 : Bool} {s0 : State} {s : State} {source : Nat} {kind : Nat} {sq : Nat} {id : BitVec 16} {missed
    : Nat} {lowest : Nat} (hs0 : Keeps b0 d0 s0 s) : Keeps b0 d0 s0 (huskMiss s source kind sq id missed lowest) := by
  unfold huskMiss
  try dsimp only
  repeat' first
    | with_reducible assumption
    | with_reducible apply keeps_huskRequest

theorem keeps_repairEntry {b0 d0 : Bool} {s0 : State} {s : State} {cls : Nat} {failed : Nat} {spare : Nat} (hs0 : Keeps b0 d0
    s0 s) : Keeps b0 d0 s0 (repairEntry s cls failed spare) := by
  unfold repairEntry
  try dsimp only
  repeat' first
    | with_reducible assumption
    | (rw [rest_eq]; with_reducible refine keeps_rest ?_ rfl (SameSto.refl _) ⟨rfl, rfl⟩)

theorem keeps_reshapeShares {b0 d0 : Bool} {s0 : State} {s : State} {s1 : State} (hs0 : Keeps b0 d0 s0 s1) : Keeps b0 d0 s0
    (reshapeShares s s1) := by
  unfold reshapeShares
  try dsimp only
  repeat' first
    | with_reducible assumption
    | with_reducible refine keeps_ite ?_ ?_
    | intro _
    | with_reducible apply keeps_foldl
    | with_reducible apply keeps_foldl_fst
    | (rw [rest_eq]; with_reducible refine keeps_rest ?_ rfl (SameSto.refl _) ⟨rfl, rfl⟩)
    | (rw [restMem_eq]; with_reducible refine keeps_restMem ?_ ?_ rfl (SameSto.refl _) ⟨rfl, rfl⟩)
    | (rw [memDev_eq]; with_reducible refine memOk_memDev ?_ ?_)
    | with_reducible apply memOk_foldl
    | with_reducible apply wf_foldl
    | with_reducible apply wf_foldl_snd
    | with_reducible apply wf_filter
    | with_reducible apply wf_put'
    | with_reducible apply MemOk.dev
    | split
    | dsimp only

theorem keeps_noteDiscard {b0 d0 : Bool} {s0 : State} {s : State} {k : Nat} {n : Nat} {source : Nat} (hs0 : Keeps b0 d0 s0 s) :
    Keeps b0 d0 s0 (noteDiscard s k n source) := by
  unfold noteDiscard
  try dsimp only
  repeat' first
    | with_reducible assumption
    | with_reducible refine keeps_ite ?_ ?_
    | intro _
    | (rw [rest_eq]; with_reducible refine keeps_rest ?_ rfl (SameSto.refl _) ⟨rfl, rfl⟩)
    | split
    | dsimp only

theorem keeps_clearWeights {b0 d0 : Bool} {s0 : State} {s : State} {k : Nat} {n : Nat} (hs0 : Keeps b0 d0 s0 s) : Keeps b0 d0
    s0 (clearWeights s k n) := by
  unfold clearWeights
  try dsimp only
  repeat' first
    | with_reducible assumption
    | with_reducible refine keeps_ite ?_ ?_
    | intro _
    | (rw [rest_eq]; with_reducible refine keeps_rest ?_ rfl (SameSto.refl _) ⟨rfl, rfl⟩)
    | split

theorem keeps_putKey {b0 d0 : Bool} {s0 s : State} {k : Nat} {b : Bytes} (h : Keeps b0 d0 s0 s) : Keeps b0 d0 s0 (putKey s k b)
    := by
  have e : (clearWeights s k b.length).mem = s.mem := by
    unfold clearWeights
    split <;> rfl
  unfold putKey
  rw [restMem_eq]
  refine keeps_restMem (keeps_clearWeights h) (fun hm => ?_) rfl (SameSto.refl _) ⟨rfl, rfl⟩
  rw [e] at hm
  exact memOk_writeKey hm

theorem keeps_writeWindow {b0 d0 : Bool} {s0 : State} {s : State} {c : Cmd} {w : Word} {offset : Nat} {b : Bytes} (hs0 : Keeps
    b0 d0 s0 s) {r0 : State} (e : writeWindow s c w offset b = .ok r0) : Keeps b0 d0 s0 r0 := by
  unfold writeWindow at e
  try dsimp only at e
  repeat' first
    | (split at e)
    | (cases e; done)
    | (cases e; dsimp only)
    | cases e
    | with_reducible assumption
    | with_reducible apply keeps_putKey
    | (rw [rest_eq]; with_reducible refine keeps_rest ?_ rfl (SameSto.refl _) ⟨rfl, rfl⟩)
    | split

theorem keeps_writeReply {b0 d0 : Bool} {s0 : State} {s : State} {c : Cmd} {w : Word} {offset : Nat} {b : Bytes} {result : Nat}
    (hs0 : Keeps b0 d0 s0 s) : Keeps b0 d0 s0 (writeReply s c w offset b result) := by
  unfold writeReply
  try dsimp only
  repeat' first
    | with_reducible assumption
    | with_reducible apply keeps_done
    | with_reducible refine keeps_writeWindow ?_ (by assumption)
    | (rw [rest_eq]; with_reducible refine keeps_rest ?_ rfl (SameSto.refl _) ⟨rfl, rfl⟩)
    | split

theorem keeps_charge {b0 d0 : Bool} {s0 : State} {s : State} {session : Option Word} {f : Counters → Counters} (hs0 : Keeps b0
    d0 s0 s) : Keeps b0 d0 s0 (charge s session f) := by
  unfold charge
  try dsimp only
  repeat' first
    | with_reducible assumption
    | intro _
    | with_reducible apply keeps_modSession
    | (rw [rest_eq]; with_reducible refine keeps_rest ?_ rfl (SameSto.refl _) ⟨rfl, rfl⟩)
    | split

theorem keeps_markStarted {b0 d0 : Bool} {s0 : State} {s : State} {k : CmdKey} (hs0 : Keeps b0 d0 s0 s) : Keeps b0 d0 s0
    (markStarted s k) := by
  unfold markStarted
  try dsimp only
  repeat' first
    | with_reducible assumption
    | with_reducible refine keeps_ite ?_ ?_
    | intro _
    | with_reducible apply keeps_modOut
    | with_reducible apply keeps_charge
    | (rw [rest_eq]; with_reducible refine keeps_rest ?_ rfl (SameSto.refl _) ⟨rfl, rfl⟩)
    | split
    | dsimp only

theorem keeps_missDeadline {b0 d0 : Bool} {s0 : State} {s : State} {c : Cmd} (hs0 : Keeps b0 d0 s0 s) : Keeps b0 d0 s0
    (missDeadline s c) := by
  unfold missDeadline
  try dsimp only
  repeat' first
    | with_reducible assumption
    | intro _
    | with_reducible apply keeps_done
    | with_reducible apply keeps_charge
    | (rw [rest_eq]; with_reducible refine keeps_rest ?_ rfl (SameSto.refl _) ⟨rfl, rfl⟩)

theorem keeps_refuseAdmission {b0 d0 : Bool} {s0 : State} {s : State} {c : Cmd} {st : Status} (hs0 : Keeps b0 d0 s0 s) : Keeps
    b0 d0 s0 (refuseAdmission s c st) := by
  unfold refuseAdmission
  try dsimp only
  repeat' first
    | with_reducible assumption
    | intro _
    | with_reducible apply keeps_done
    | with_reducible apply keeps_charge
    | (rw [rest_eq]; with_reducible refine keeps_rest ?_ rfl (SameSto.refl _) ⟨rfl, rfl⟩)

theorem keeps_host {b0 d0 : Bool} {s0 s : State} {t : Nat} {c : Cmd} {ok : Bool} {body : State → State} (h : Keeps b0 d0 s0 s)
    (hb : ∀ {x : State}, Keeps b0 d0 s0 x → Keeps b0 d0 s0 (body x)) {r : State} (e : host s t c ok body = .next r) : Keeps b0
        d0 s0 r := by
  cases e
  split
  · exact hb (keeps_markStarted (keeps_advance h))
  · exact keeps_done (keeps_advance h)

theorem keeps_hostWait {b0 d0 : Bool} {s0 s : State} {t : Nat} {c : Cmd} {ok : Bool} {body : State → State} (h : Keeps b0 d0 s0 s)
    (hb : ∀ {x : State}, Keeps b0 d0 s0 x → Keeps b0 d0 s0 (body x)) {r : State} (e : hostWait s t c ok body = .next r) : Keeps
        b0 d0 s0 r := by
  cases e
  split
  · exact hb (keeps_advance h)
  · exact keeps_done (keeps_advance h)

theorem keeps_event {b0 d0 : Bool} {s0 s : State} {t : Nat} {body : State → State} (h : Keeps b0 d0 s0 s)
    (hb : ∀ {x : State}, Keeps b0 d0 s0 x → Keeps b0 d0 s0 (body x)) {r : State} (e : event s t body = .next r) : Keeps b0 d0
        s0 r := by
  cases e; exact hb (keeps_advance h)

theorem keeps_emit {b0 d0 : Bool} {s0 : State} {s : State} {o : Output} (hs0 : Keeps b0 d0 s0 s) : Keeps b0 d0 s0 (emit s o) := by
  unfold emit
  try dsimp only
  repeat' first
    | with_reducible assumption
    | (rw [rest_eq]; with_reducible refine keeps_rest ?_ rfl (SameSto.refl _) ⟨rfl, rfl⟩)

theorem keeps_i3cSelect {b0 d0 : Bool} {s0 : State} {s : State} {block : Nat} {offset : Nat} (hs0 : Keeps b0 d0 s0 s) : Keeps
    b0 d0 s0 (i3cSelect s block offset) := by
  unfold i3cSelect
  try dsimp only
  repeat' first
    | with_reducible assumption
    | (rw [rest_eq]; with_reducible refine keeps_rest ?_ rfl (SameSto.refl _) ⟨rfl, rfl⟩)

/-! Machine/Phase.lean. -/

theorem keeps_setSources {b0 d0 : Bool} {s0 : State} {s : State} {l : List PhaseSource} (hs0 : Keeps b0 d0 s0 s) : Keeps b0 d0
    s0 (setSources s l) := by
  unfold setSources
  try dsimp only
  repeat' first
    | with_reducible assumption
    | (rw [rest_eq]; with_reducible refine keeps_rest ?_ rfl (SameSto.refl _) ⟨rfl, rfl⟩)

theorem keeps_modPs {b0 d0 : Bool} {s0 : State} {s : State} {n : Nat} {f : PhaseSource → PhaseSource} (hs0 : Keeps b0 d0 s0 s)
    : Keeps b0 d0 s0 (modPs s n f) := by
  unfold modPs
  try dsimp only
  repeat' first
    | with_reducible assumption
    | with_reducible apply keeps_setSources

theorem keeps_calibrate {b0 d0 : Bool} {s0 : State} {s : State} {n : Nat} {q : PhaseSource} (hs0 : Keeps b0 d0 s0 s) : Keeps b0
    d0 s0 (calibrate s n q) := by
  unfold calibrate
  try dsimp only
  repeat' first
    | with_reducible assumption
    | with_reducible refine keeps_ite ?_ ?_
    | intro _
    | (rw [rest_eq]; with_reducible refine keeps_rest ?_ rfl (SameSto.refl _) ⟨rfl, rfl⟩)
    | split
    | dsimp only

theorem keeps_modSourcesOn {b0 d0 : Bool} {s0 : State} {s : State} {inp : Nat} {types : List Nat} {f : PhaseSource →
    PhaseSource} (hs0 : Keeps b0 d0 s0 s) : Keeps b0 d0 s0 (modSourcesOn s inp types f) := by
  unfold modSourcesOn
  try dsimp only
  repeat' first
    | with_reducible assumption
    | with_reducible refine keeps_ite ?_ ?_
    | intro _
    | with_reducible apply keeps_setSources
    | split

theorem keeps_applyBlock {b0 d0 : Bool} {s0 : State} {s : State} {n : Nat} {c : List Word} (hs0 : Keeps b0 d0 s0 s) : Keeps b0
    d0 s0 (applyBlock s n c) := by
  unfold applyBlock
  try dsimp only
  repeat' first
    | with_reducible assumption
    | with_reducible refine keeps_ite ?_ ?_
    | with_reducible apply keeps_calibrate
    | (rw [rest_eq]; with_reducible refine keeps_rest ?_ rfl (SameSto.refl _) ⟨rfl, rfl⟩)
    | split
    | dsimp only

theorem keeps_moveEncoderSources {b0 d0 : Bool} {s0 : State} {s : State} {n : Nat} (hs0 : Keeps b0 d0 s0 s) : Keeps b0 d0 s0
    (moveEncoderSources s n) := by
  unfold moveEncoderSources
  try dsimp only
  repeat' first
    | with_reducible assumption
    | with_reducible refine keeps_ite ?_ ?_
    | intro _
    | with_reducible apply keeps_calibrate
    | with_reducible apply keeps_foldl
    | (rw [rest_eq]; with_reducible refine keeps_rest ?_ rfl (SameSto.refl _) ⟨rfl, rfl⟩)
    | split
    | dsimp only

/-! Machine/EtchTable.lean. -/

theorem keeps_modEngine {b0 d0 : Bool} {s0 : State} {s : State} {n : Nat} {f : Engine → Engine} (hs0 : Keeps b0 d0 s0 s) :
    Keeps b0 d0 s0 (modEngine s n f) := by
  unfold modEngine
  try dsimp only
  repeat' first
    | with_reducible assumption
    | (rw [rest_eq]; with_reducible refine keeps_rest ?_ rfl (SameSto.refl _) ⟨rfl, rfl⟩)

theorem keeps_modSlot {b0 d0 : Bool} {s0 : State} {s : State} {e : Nat} {n : Nat} {f : Slot → Slot} (hs0 : Keeps b0 d0 s0 s) :
    Keeps b0 d0 s0 (modSlot s e n f) := by
  unfold modSlot
  try dsimp only
  repeat' first
    | with_reducible assumption
    | intro _
    | with_reducible apply keeps_modEngine
    | (rw [rest_eq]; with_reducible refine keeps_rest ?_ rfl (SameSto.refl _) ⟨rfl, rfl⟩)

theorem keeps_modEtch {b0 d0 : Bool} {s0 : State} {s : State} {id : Nat} {f : Etch → Etch} (hs0 : Keeps b0 d0 s0 s) : Keeps b0
    d0 s0 (modEtch s id f) := by
  unfold modEtch
  try dsimp only
  repeat' first
    | with_reducible assumption
    | with_reducible refine keeps_ite ?_ ?_
    | intro _
    | (rw [rest_eq]; with_reducible refine keeps_rest ?_ rfl (SameSto.refl _) ⟨rfl, rfl⟩)
    | split

theorem keeps_setEtch {b0 d0 : Bool} {s0 : State} {s : State} {id : Nat} {p : EtchPhase} (hs0 : Keeps b0 d0 s0 s) : Keeps b0 d0
    s0 (setEtch s id p) := by
  unfold setEtch
  try dsimp only
  repeat' first
    | with_reducible assumption
    | intro _
    | with_reducible apply keeps_modEtch
    | (rw [rest_eq]; with_reducible refine keeps_rest ?_ rfl (SameSto.refl _) ⟨rfl, rfl⟩)

theorem keeps_freePassed {b0 d0 : Bool} {s0 : State} {s : State} (hs0 : Keeps b0 d0 s0 s) : Keeps b0 d0 s0 (freePassed s) := by
  unfold freePassed
  try dsimp only
  repeat' first
    | with_reducible assumption
    | intro _
    | (rw [rest_eq]; with_reducible refine keeps_rest ?_ rfl (SameSto.refl _) ⟨rfl, rfl⟩)
    | dsimp only

theorem keeps_releaseEtch {b0 d0 : Bool} {s0 : State} {s : State} {id : Nat} (hs0 : Keeps b0 d0 s0 s) : Keeps b0 d0 s0
    (releaseEtch s id) := by
  unfold releaseEtch
  try dsimp only
  repeat' first
    | with_reducible assumption
    | with_reducible refine keeps_ite ?_ ?_
    | intro _
    | with_reducible apply keeps_freePassed
    | (rw [rest_eq]; with_reducible refine keeps_rest ?_ rfl (SameSto.refl _) ⟨rfl, rfl⟩)
    | split

theorem keeps_stageEtch {b0 d0 : Bool} {s0 : State} {s : State} {session : Option Word} {fn : Nat} {k : Option CmdKey} {h :
    EtchHeader} {acts : List EtchAction} (hs0 : Keeps b0 d0 s0 s) {r0 : Nat × State} (e : stageEtch s session fn k h acts = .ok
        r0) : Keeps b0 d0 s0 r0.2 := by
  unfold stageEtch at e
  try dsimp only at e
  repeat' first
    | (split at e)
    | (cases e; done)
    | (cases e; dsimp only)
    | cases e
    | with_reducible assumption
    | with_reducible refine keeps_ite ?_ ?_
    | with_reducible apply keeps_takeFree
    | (rw [rest_eq]; with_reducible refine keeps_rest ?_ rfl (SameSto.refl _) ⟨rfl, rfl⟩)
    | split
    | dsimp only
theorem keeps_stageEtch_eq {b0 d0 : Bool} {s0 : State} {s : State} {session : Option Word} {fn : Nat} {k : Option CmdKey} {h :
    EtchHeader} {acts : List EtchAction} (hs0 : Keeps b0 d0 s0 s) {r0 : State} {y0 : Nat} (e : stageEtch s session fn k h acts
        = .ok (y0, r0)) : Keeps b0 d0 s0 r0 :=
  keeps_stageEtch hs0 e

theorem keeps_etchComplete {b0 d0 : Bool} {s0 : State} {s : State} {e : Etch} {st : Status} {stamp : Nat} (hs0 : Keeps b0 d0 s0
    s) : Keeps b0 d0 s0 (etchComplete s e st stamp) := by
  unfold etchComplete
  try dsimp only
  repeat' first
    | with_reducible assumption
    | with_reducible refine keeps_ite ?_ ?_
    | with_reducible apply keeps_releaseEtch
    | with_reducible apply keeps_enqueue
    | (rw [rest_eq]; with_reducible refine keeps_rest ?_ rfl (SameSto.refl _) ⟨rfl, rfl⟩)
    | split

theorem keeps_restoreFallback {b0 d0 : Bool} {s0 : State} {s : State} {e : Etch} (hs0 : Keeps b0 d0 s0 s) : Keeps b0 d0 s0
    (restoreFallback s e) := by
  unfold restoreFallback
  try dsimp only
  repeat' first
    | with_reducible assumption
    | with_reducible refine keeps_ite ?_ ?_
    | intro _
    | with_reducible apply keeps_modEtch
    | (rw [rest_eq]; with_reducible refine keeps_rest ?_ rfl (SameSto.refl _) ⟨rfl, rfl⟩)
    | split

theorem keeps_closeEtches {b0 d0 : Bool} {s0 : State} {s : State} {p : Word → Bool} (hs0 : Keeps b0 d0 s0 s) : Keeps b0 d0 s0
    (closeEtches s p).2 := by
  unfold closeEtches
  try dsimp only
  repeat' first
    | with_reducible assumption
    | with_reducible refine keeps_ite ?_ ?_
    | intro _
    | with_reducible apply keeps_releaseEtch
    | with_reducible apply keeps_restoreFallback
    | with_reducible apply keeps_foldl
    | with_reducible apply keeps_foldl_fst
    | (rw [rest_eq]; with_reducible refine keeps_rest ?_ rfl (SameSto.refl _) ⟨rfl, rfl⟩)
    | split
    | dsimp only
theorem keeps_closeEtches_eq {b0 d0 : Bool} {s0 : State} {s : State} {p : Word → Bool} (hs0 : Keeps b0 d0 s0 s) {r0 : State}
    {y0 : Nat} (e : closeEtches s p = (y0, r0)) : Keeps b0 d0 s0 r0 := by
  have k := keeps_closeEtches (s := s) (p := p) hs0
  rw [e] at k
  exact k

/-! Machine/Sched.lean. -/

theorem keeps_modPart {b0 d0 : Bool} {s0 : State} {s : State} {p : Nat} {f : Partition → Partition} (hs0 : Keeps b0 d0 s0 s) :
    Keeps b0 d0 s0 (modPart s p f) := by
  unfold modPart
  try dsimp only
  repeat' first
    | with_reducible assumption
    | (rw [rest_eq]; with_reducible refine keeps_rest ?_ rfl (SameSto.refl _) ⟨rfl, rfl⟩)

theorem keeps_admitHard {b0 d0 : Bool} {s0 : State} {s : State} {c : Cmd} {p : Nat} {cls : Nat} {bound : Nat} (hs0 : Keeps b0
    d0 s0 s) {r0 : State} (e : admitHard s c p cls bound = .ok r0) : Keeps b0 d0 s0 r0 := by
  unfold admitHard at e
  try dsimp only at e
  repeat' first
    | (split at e)
    | (cases e; done)
    | (cases e; dsimp only)
    | cases e
    | with_reducible assumption
    | with_reducible refine keeps_ite ?_ ?_
    | intro _
    | (rw [rest_eq]; with_reducible refine keeps_rest ?_ rfl (SameSto.refl _) ⟨rfl, rfl⟩)
    | split
    | dsimp only

theorem keeps_admittedStart {b0 d0 : Bool} {s0 : State} {s : State} {k : CmdKey} (hs0 : Keeps b0 d0 s0 s) : Keeps b0 d0 s0
    (admittedStart s k) := by
  unfold admittedStart
  try dsimp only
  repeat' first
    | with_reducible assumption
    | with_reducible refine keeps_ite ?_ ?_
    | intro _
    | (rw [rest_eq]; with_reducible refine keeps_rest ?_ rfl (SameSto.refl _) ⟨rfl, rfl⟩)
    | split

theorem keeps_admittedEnd {b0 d0 : Bool} {s0 : State} {s : State} {k : CmdKey} (hs0 : Keeps b0 d0 s0 s) : Keeps b0 d0 s0
    (admittedEnd s k) := by
  unfold admittedEnd
  try dsimp only
  repeat' first
    | with_reducible assumption
    | intro _
    | (rw [rest_eq]; with_reducible refine keeps_rest ?_ rfl (SameSto.refl _) ⟨rfl, rfl⟩)

theorem keeps_admitOr {b0 d0 : Bool} {s0 s : State} {c : Cmd} {p cls bound : Nat} {k : State → State} (h : Keeps b0 d0 s0 s)
    (hk : ∀ x, Keeps b0 d0 s0 x → Keeps b0 d0 s0 (k x)) : Keeps b0 d0 s0 (admitOr s c p cls bound k) := by
  unfold admitOr
  split
  · split
    · exact keeps_refuseAdmission h
    · exact keeps_done h
  · exact hk _ (keeps_admitHard h ‹_›)

theorem keeps_chargeTime {b0 d0 : Bool} {s0 : State} {s : State} {session : Option Word} {field : Nat} {solver : Nat} (hs0 :
    Keeps b0 d0 s0 s) : Keeps b0 d0 s0 (chargeTime s session field solver) := by
  unfold chargeTime
  try dsimp only
  repeat' first
    | with_reducible assumption
    | intro _
    | with_reducible apply keeps_modSession
    | (rw [rest_eq]; with_reducible refine keeps_rest ?_ rfl (SameSto.refl _) ⟨rfl, rfl⟩)
    | split

theorem keeps_levelShare {b0 d0 : Bool} {s0 : State} {s : State} {p : Nat} {session : Option Word} (hs0 : Keeps b0 d0 s0 s) :
    Keeps b0 d0 s0 (levelShare s p session) := by
  unfold levelShare
  try dsimp only
  repeat' first
    | with_reducible assumption
    | with_reducible refine keeps_ite ?_ ?_
    | intro _
    | with_reducible apply keeps_modSession
    | with_reducible apply keeps_foldl
    | (rw [rest_eq]; with_reducible refine keeps_rest ?_ rfl (SameSto.refl _) ⟨rfl, rfl⟩)
    | split
    | dsimp only

/-! Machine/Attention.lean. -/

theorem keeps_putWord {b0 d0 : Bool} {s0 : State} {s : State} {a : Nat} {i : Nat} {w : Word} (hs0 : Keeps b0 d0 s0 s) : Keeps
    b0 d0 s0 (putWord s a i w) := by
  unfold putWord
  try dsimp only
  repeat' first
    | with_reducible assumption
    | with_reducible exact Keeps.refl _
    | with_reducible refine keeps_ite ?_ ?_
    | intro _
    | (with_reducible apply keeps_foldl)
    | (with_reducible apply keeps_foldl_fst)
    | (rw [rest_eq]; with_reducible refine keeps_rest ?_ rfl (SameSto.refl _) ⟨rfl, rfl⟩)
    | (rw [rest_eq]; with_reducible refine keeps_rest ?_ rfl ⟨rfl, rfl, rfl, rfl, rfl, rfl⟩ ⟨rfl, rfl⟩)
    | (rw [restMem_eq]; with_reducible refine keeps_restMem ?_ ?_ rfl (SameSto.refl _) ⟨rfl, rfl⟩)
    | (rw [memDev_eq]; with_reducible refine memOk_memDev ?_ ?_)
    | (refine (foldl_clear_mem _ _ _ _ ▸ ‹MemOk (List.foldl _ _ _).mem› : MemOk _); done)
    | (rename_i hmf; rw [foldl_clear_mem] at hmf; exact hmf)
    | with_reducible apply memOk_writeKey
    | with_reducible apply memOk_pokeElem
    | with_reducible apply memOk_putElem
    | with_reducible apply memOk_copySlot
    | with_reducible apply memOk_foldl
    | with_reducible apply memOk_foldFlagged
    | with_reducible apply memOk_scatterRow
    | with_reducible apply memOk_storeCounts
    | with_reducible apply memOk_applyItem
    | with_reducible apply memOk_applyCopies
    | with_reducible apply memOk_fieldOpRun
    | with_reducible apply wf_clear
    | with_reducible apply wf_filter
    | with_reducible apply wf_write'
    | with_reducible apply wf_put'
    | with_reducible apply wf_foldl
    | with_reducible apply wf_foldl_snd
    | with_reducible apply MemOk.dev
    | (with_reducible apply keeps_foldl_fst2)
    | split
    | (dsimp only)

theorem keeps_setPageState {b0 d0 : Bool} {s0 : State} {s : State} {a : Nat} {v : Nat} (hs0 : Keeps b0 d0 s0 s) : Keeps b0 d0
    s0 (setPageState s a v) := by
  unfold setPageState
  try dsimp only
  repeat' first
    | with_reducible assumption
    | with_reducible apply keeps_putWord

theorem keeps_pinPage {b0 d0 : Bool} {s0 : State} {s : State} {a : Nat} (hs0 : Keeps b0 d0 s0 s) : Keeps b0 d0 s0 (pinPage s a)
    := by
  unfold pinPage
  try dsimp only
  repeat' first
    | with_reducible assumption
    | with_reducible apply keeps_putWord

theorem keeps_unpinPage {b0 d0 : Bool} {s0 : State} {s : State} {a : Nat} (hs0 : Keeps b0 d0 s0 s) : Keeps b0 d0 s0 (unpinPage
    s a) := by
  unfold unpinPage
  try dsimp only
  repeat' first
    | with_reducible assumption
    | with_reducible refine keeps_ite ?_ ?_
    | with_reducible apply keeps_putWord
    | with_reducible apply keeps_setPageState
    | split
    | dsimp only

/-! Machine/DmaOps.lean. -/

theorem keeps_undefRange {b0 d0 : Bool} {s0 : State} {s : State} {k : Nat} {n : Nat} (hs0 : Keeps b0 d0 s0 s) : Keeps b0 d0 s0
    (undefRange s k n) := by
  unfold undefRange
  try dsimp only
  repeat' first
    | with_reducible assumption
    | with_reducible refine keeps_ite ?_ ?_
    | intro _
    | with_reducible apply keeps_takeFree
    | with_reducible apply keeps_putKey
    | with_reducible apply keeps_foldl
    | split
    | dsimp only

theorem keeps_landPrefix {b0 d0 : Bool} {s0 : State} {s : State} {x : Transfer} {n : Nat} {st : Status} (hs0 : Keeps b0 d0 s0
    s) : Keeps b0 d0 s0 (landPrefix s x n st) := by
  unfold landPrefix
  try dsimp only
  repeat' first
    | with_reducible assumption
    | with_reducible refine keeps_ite ?_ ?_
    | with_reducible apply keeps_undefRange
    | with_reducible apply keeps_takeFree
    | with_reducible apply keeps_putKey
    | (rw [rest_eq]; with_reducible refine keeps_rest ?_ rfl (SameSto.refl _) ⟨rfl, rfl⟩)
    | split
    | dsimp only

theorem keeps_cutTransfers {b0 d0 : Bool} {s0 : State} {s : State} {st : Status} {p : Transfer → Bool} (hs0 : Keeps b0 d0 s0 s)
    : Keeps b0 d0 s0 (cutTransfers s st p) := by
  unfold cutTransfers
  try dsimp only
  repeat' first
    | with_reducible assumption
    | with_reducible refine keeps_ite ?_ ?_
    | intro _
    | with_reducible apply keeps_landPrefix
    | with_reducible apply keeps_foldl
    | (rw [rest_eq]; with_reducible refine keeps_rest ?_ rfl (SameSto.refl _) ⟨rfl, rfl⟩)
    | split
    | dsimp only

theorem keeps_cutForDrain {b0 d0 : Bool} {s0 : State} {s : State} {touches : Nat → Nat → Bool} {unit : Nat} (hs0 : Keeps b0 d0
    s0 s) : Keeps b0 d0 s0 (cutForDrain s touches unit) := by
  unfold cutForDrain
  try dsimp only
  repeat' first
    | with_reducible assumption
    | with_reducible refine keeps_ite ?_ ?_
    | intro _
    | with_reducible apply keeps_cutTransfers
    | (rw [rest_eq]; with_reducible refine keeps_rest ?_ rfl (SameSto.refl _) ⟨rfl, rfl⟩)
    | split
    | dsimp only

theorem keeps_dropTransfer {b0 d0 : Bool} {s0 : State} {s : State} {x : Transfer} (hs0 : Keeps b0 d0 s0 s) : Keeps b0 d0 s0
    (dropTransfer s x) := by
  unfold dropTransfer
  try dsimp only
  repeat' first
    | with_reducible assumption
    | with_reducible refine keeps_ite ?_ ?_
    | intro _
    | with_reducible apply keeps_charge
    | (rw [rest_eq]; with_reducible refine keeps_rest ?_ rfl (SameSto.refl _) ⟨rfl, rfl⟩)
    | split
    | dsimp only

theorem keeps_endEarly {b0 d0 : Bool} {s0 : State} {s : State} {x : Transfer} {st : Status} {most : Nat} (hs0 : Keeps b0 d0 s0
    s) : Keeps b0 d0 s0 (endEarly s x st most) := by
  unfold endEarly
  try dsimp only
  repeat' first
    | with_reducible assumption
    | with_reducible apply keeps_landPrefix
    | with_reducible apply keeps_dropTransfer
    | with_reducible apply keeps_done
    | dsimp only

theorem keeps_countRereads {b0 d0 : Bool} {s0 : State} {s : State} {l : List (Nat × Nat)} (hs0 : Keeps b0 d0 s0 s) : Keeps b0
    d0 s0 (countRereads s l) := by
  unfold countRereads
  try dsimp only
  repeat' first
    | with_reducible assumption
    | with_reducible refine keeps_ite ?_ ?_
    | intro _
    | with_reducible apply keeps_takeFree
    | with_reducible apply keeps_foldl
    | with_reducible apply keeps_foldl_fst
    | (rw [rest_eq]; with_reducible refine keeps_rest ?_ rfl (SameSto.refl _) ⟨rfl, rfl⟩)
    | split
    | dsimp only

theorem keeps_noteUncorrectable {b0 d0 : Bool} {s0 : State} {s : State} {k : Nat} {source : Nat} (hs0 : Keeps b0 d0 s0 s) :
    Keeps b0 d0 s0 (noteUncorrectable s k source) := by
  unfold noteUncorrectable
  try dsimp only
  repeat' first
    | with_reducible assumption
    | with_reducible refine keeps_ite ?_ ?_
    | intro _
    | with_reducible apply keeps_huskRequest
    | (rw [rest_eq]; with_reducible refine keeps_rest ?_ rfl (SameSto.refl _) ⟨rfl, rfl⟩)
    | split
    | dsimp only

theorem keeps_modLpddr {b0 d0 : Bool} {s0 : State} {s : State} {n : Nat} {f : LpddrChannel → LpddrChannel} (hs0 : Keeps b0 d0
    s0 s) : Keeps b0 d0 s0 (modLpddr s n f) := by
  unfold modLpddr
  try dsimp only
  repeat' first
    | with_reducible assumption
    | (rw [rest_eq]; with_reducible refine keeps_rest ?_ rfl (SameSto.refl _) ⟨rfl, rfl⟩)

theorem keeps_goRetrain {b0 d0 : Bool} {s0 : State} {s : State} {c : Cmd} {trained : Nat} {left : List Nat} (hs0 : Keeps b0 d0
    s0 s) : Keeps b0 d0 s0 (goRetrain s c trained left) := by
  unfold goRetrain
  try dsimp only
  repeat' first
    | with_reducible assumption
    | intro _
    | with_reducible apply keeps_modLpddr
    | with_reducible apply keeps_takeFree
    | with_reducible apply keeps_done
    | (rw [rest_eq]; with_reducible refine keeps_rest ?_ rfl (SameSto.refl _) ⟨rfl, rfl⟩)
    | split

theorem keeps_beginRetrain {b0 d0 : Bool} {s0 : State} {s : State} {c : Cmd} {left : List Nat} (hs0 : Keeps b0 d0 s0 s) : Keeps
    b0 d0 s0 (beginRetrain s c left) := by
  unfold beginRetrain
  try dsimp only
  repeat' first
    | with_reducible assumption
    | with_reducible refine keeps_ite ?_ ?_
    | with_reducible apply keeps_goRetrain
    | (rw [rest_eq]; with_reducible refine keeps_rest ?_ rfl (SameSto.refl _) ⟨rfl, rfl⟩)
    | split

theorem keeps_nextRetrains {b0 d0 : Bool} {s0 : State} {s : State} (hs0 : Keeps b0 d0 s0 s) : Keeps b0 d0 s0 (nextRetrains s)
    := by
  unfold nextRetrains
  try dsimp only
  repeat' first
    | with_reducible assumption
    | with_reducible refine keeps_ite ?_ ?_
    | intro _
    | with_reducible apply keeps_beginRetrain
    | with_reducible apply keeps_foldl
    | with_reducible apply keeps_foldl_fst
    | (rw [rest_eq]; with_reducible refine keeps_rest ?_ rfl (SameSto.refl _) ⟨rfl, rfl⟩)
    | split
    | dsimp only

theorem keeps_nextRetrain {b0 d0 : Bool} {s0 : State} {s : State} {c : Cmd} {trained : Nat} {left : List Nat} (hs0 : Keeps b0
    d0 s0 s) : Keeps b0 d0 s0 (nextRetrain s c trained left) := by
  unfold nextRetrain
  try dsimp only
  repeat' first
    | with_reducible assumption
    | with_reducible apply keeps_goRetrain
    | with_reducible apply keeps_nextRetrains

/-! Machine/ShellCheck.lean. -/

theorem keeps_modChannel {b0 d0 : Bool} {s0 : State} {s : State} {n : Nat} {f : Channel → Channel} (hs0 : Keeps b0 d0 s0 s) :
    Keeps b0 d0 s0 (modChannel s n f) := by
  unfold modChannel
  try dsimp only
  repeat' first
    | with_reducible assumption
    | (rw [rest_eq]; with_reducible refine keeps_rest ?_ rfl (SameSto.refl _) ⟨rfl, rfl⟩)

/-! Machine/PowerRules.lean. -/

theorem keeps_setUnit {b0 d0 : Bool} {s0 : State} {s : State} {u : Nat} {v : BitVec 2} (hs0 : Keeps b0 d0 s0 s) : Keeps b0 d0
    s0 (setUnit s u v) := by
  unfold setUnit
  try dsimp only
  repeat' first
    | with_reducible assumption
    | with_reducible refine keeps_ite ?_ ?_
    | intro _
    | (rw [rest_eq]; with_reducible refine keeps_rest ?_ rfl (SameSto.refl _) ⟨rfl, rfl⟩)
    | split
    | dsimp only

/-! Machine/EtchArm.lean. -/

theorem keeps_countReject {b0 d0 : Bool} {s0 : State} {s : State} {st : Status} (hs0 : Keeps b0 d0 s0 s) : Keeps b0 d0 s0
    (countReject s st) := by
  unfold countReject
  try dsimp only
  repeat' first
    | with_reducible assumption
    | with_reducible refine keeps_ite ?_ ?_
    | (rw [rest_eq]; with_reducible refine keeps_rest ?_ rfl (SameSto.refl _) ⟨rfl, rfl⟩)
    | split

theorem keeps_armEtch {b0 d0 : Bool} {s0 : State} {s : State} {e : Etch} {k : Option CmdKey} {payloads : List Bytes} {records :
    List (Nat × Nat)} (hs0 : Keeps b0 d0 s0 s) : Keeps b0 d0 s0 (armEtch s e k payloads records) := by
  unfold armEtch
  try dsimp only
  repeat' first
    | with_reducible assumption
    | with_reducible refine keeps_ite ?_ ?_
    | intro _
    | with_reducible apply keeps_modEtch
    | with_reducible apply keeps_setEtch
    | (rw [rest_eq]; with_reducible refine keeps_rest ?_ rfl (SameSto.refl _) ⟨rfl, rfl⟩)
    | split
    | dsimp only

/-! Machine/ImprintCore.lean. -/

theorem keeps_beginImprint {b0 d0 : Bool} {s0 : State} {s : State} {x : ImprintStart} {session : Word} {guards : List (Nat ×
    Nat)} {bytes : Nat} (hs0 : Keeps b0 d0 s0 s) : Keeps b0 d0 s0 (beginImprint s x session guards bytes) := by
  unfold beginImprint
  try dsimp only
  repeat' first
    | with_reducible assumption
    | intro _
    | (rw [rest_eq]; with_reducible refine keeps_rest ?_ rfl (SameSto.refl _) ⟨rfl, rfl⟩)

theorem keeps_endImprint {b0 d0 : Bool} {s0 : State} {s : State} {owner : CmdKey} {index : Nat} {session : Word} {epoch :
    BitVec 16} {stamp : Nat} {flags : Nat} {result : Option (List Bytes)} (hs0 : Keeps b0 d0 s0 s) : Keeps b0 d0 s0 (endImprint
        s owner index session epoch stamp flags result) := by
  unfold endImprint
  try dsimp only
  repeat' first
    | with_reducible assumption
    | intro _
    | (rw [rest_eq]; with_reducible refine keeps_rest ?_ rfl (SameSto.refl _) ⟨rfl, rfl⟩)
    | split
    | dsimp only

theorem keeps_dropImprints {b0 d0 : Bool} {s0 : State} {s : State} {k : CmdKey} (hs0 : Keeps b0 d0 s0 s) : Keeps b0 d0 s0
    (dropImprints s k) := by
  unfold dropImprints
  try dsimp only
  repeat' first
    | with_reducible assumption
    | intro _
    | (rw [rest_eq]; with_reducible refine keeps_rest ?_ rfl (SameSto.refl _) ⟨rfl, rfl⟩)

theorem keeps_beginSolveImprint {b0 d0 : Bool} {s0 : State} {s : State} {e : Nat} {r : Run} {before : List Item} {persistent :
    List Word} {seeds : List (Nat × Word)} {refs : List (Nat × Nat)} (hs0 : Keeps b0 d0 s0 s) : Keeps b0 d0 s0
        (beginSolveImprint s e r before persistent seeds refs) := by
  unfold beginSolveImprint
  try dsimp only
  repeat' first
    | with_reducible assumption
    | intro _
    | with_reducible apply keeps_beginImprint
    | (rw [rest_eq]; with_reducible refine keeps_rest ?_ rfl (SameSto.refl _) ⟨rfl, rfl⟩)
    | split
    | dsimp only

theorem keeps_endSolveImprint {b0 d0 : Bool} {s0 : State} {s : State} {r : Run} {epoch : BitVec 16} {stamp : Nat} {degraded :
    Bool} {result : Option Bytes} (hs0 : Keeps b0 d0 s0 s) : Keeps b0 d0 s0 (endSolveImprint s r epoch stamp degraded result)
        := by
  unfold endSolveImprint
  try dsimp only
  repeat' first
    | with_reducible assumption
    | intro _
    | with_reducible apply keeps_endImprint
    | (rw [rest_eq]; with_reducible refine keeps_rest ?_ rfl (SameSto.refl _) ⟨rfl, rfl⟩)
    | split

/-! Machine/SolverOps.lean. -/

theorem keeps_modBatch {b0 d0 : Bool} {s0 : State} {s : State} {k : CmdKey} {f : Batch → Batch} (hs0 : Keeps b0 d0 s0 s) :
    Keeps b0 d0 s0 (modBatch s k f) := by
  unfold modBatch
  try dsimp only
  repeat' first
    | with_reducible assumption
    | with_reducible refine keeps_ite ?_ ?_
    | intro _
    | (rw [rest_eq]; with_reducible refine keeps_rest ?_ rfl (SameSto.refl _) ⟨rfl, rfl⟩)
    | split

theorem keeps_dropBatch {b0 d0 : Bool} {s0 : State} {s : State} {k : CmdKey} (hs0 : Keeps b0 d0 s0 s) : Keeps b0 d0 s0
    (dropBatch s k) := by
  unfold dropBatch
  try dsimp only
  repeat' first
    | with_reducible assumption
    | intro _
    | (rw [rest_eq]; with_reducible refine keeps_rest ?_ rfl (SameSto.refl _) ⟨rfl, rfl⟩)

theorem keeps_placeSolve {b0 d0 : Bool} {s0 : State} {s : State} {e : Nat} {w : WaitingSolve} (hs0 : Keeps b0 d0 s0 s) : Keeps
    b0 d0 s0 (placeSolve s e w) := by
  unfold placeSolve
  try dsimp only
  repeat' first
    | with_reducible assumption
    | intro _
    | with_reducible apply keeps_modEngine
    | with_reducible apply keeps_levelShare
    | (rw [rest_eq]; with_reducible refine keeps_rest ?_ rfl (SameSto.refl _) ⟨rfl, rfl⟩)
    | dsimp only

theorem keeps_unqueueSolve {b0 d0 : Bool} {s0 : State} {s : State} {e : Nat} {w : WaitingSolve} (hs0 : Keeps b0 d0 s0 s) :
    Keeps b0 d0 s0 (unqueueSolve s e w) := by
  unfold unqueueSolve
  try dsimp only
  repeat' first
    | with_reducible assumption
    | intro _
    | with_reducible apply keeps_modEngine
    | (rw [rest_eq]; with_reducible refine keeps_rest ?_ rfl (SameSto.refl _) ⟨rfl, rfl⟩)

theorem keeps_submitCheck {b0 d0 : Bool} {s0 : State} {s : State} {owner : CheckFor} {p : Nat} {request : Bytes} (hs0 : Keeps
    b0 d0 s0 s) : Keeps b0 d0 s0 (submitCheck s owner p request) := by
  unfold submitCheck
  try dsimp only
  repeat' first
    | with_reducible assumption
    | with_reducible refine keeps_ite ?_ ?_
    | (rw [rest_eq]; with_reducible refine keeps_rest ?_ rfl (SameSto.refl _) ⟨rfl, rfl⟩)
    | (rw [rest_eq]; with_reducible refine keeps_rest ?_ rfl ⟨rfl, rfl, rfl, rfl, rfl, rfl⟩ ⟨rfl, rfl⟩)
    | split

theorem keeps_keepReport {b0 d0 : Bool} {s0 : State} {s : State} {b : Batch} {report : Bytes} (hs0 : Keeps b0 d0 s0 s) : Keeps
    b0 d0 s0 (keepReport s b report) := by
  unfold keepReport
  try dsimp only
  repeat' first
    | with_reducible assumption
    | with_reducible refine keeps_ite ?_ ?_
    | intro _
    | (rw [rest_eq]; with_reducible refine keeps_rest ?_ rfl (SameSto.refl _) ⟨rfl, rfl⟩)
    | split

theorem keeps_batchComplete {b0 d0 : Bool} {s0 : State} {s : State} {b : Batch} (hs0 : Keeps b0 d0 s0 s) : Keeps b0 d0 s0
    (batchComplete s b) := by
  unfold batchComplete
  try dsimp only
  repeat' first
    | with_reducible assumption
    | with_reducible refine keeps_ite ?_ ?_
    | intro _
    | with_reducible apply keeps_finish
    | with_reducible apply keeps_huskMiss
    | with_reducible apply keeps_putKey
    | with_reducible apply keeps_charge
    | with_reducible apply keeps_admittedEnd
    | with_reducible apply keeps_dropBatch
    | with_reducible apply keeps_keepReport
    | (rw [rest_eq]; with_reducible refine keeps_rest ?_ rfl (SameSto.refl _) ⟨rfl, rfl⟩)
    | split
    | dsimp only

theorem keeps_armPrimary {b0 d0 : Bool} {s0 : State} {s : State} {b : Batch} {x : Scenario} (hs0 : Keeps b0 d0 s0 s) : Keeps b0
    d0 s0 (armPrimary s b x) := by
  unfold armPrimary
  try dsimp only
  repeat' first
    | with_reducible assumption
    | intro _
    | with_reducible apply keeps_countReject
    | with_reducible apply keeps_releaseEtch
    | with_reducible refine keeps_stageEtch ?_ (by assumption)
    | with_reducible refine keeps_stageEtch_eq ?_ (by assumption)
    | with_reducible apply keeps_modBatch
    | (rw [rest_eq]; with_reducible refine keeps_rest ?_ rfl (SameSto.refl _) ⟨rfl, rfl⟩)
    | split
    | dsimp only

theorem keeps_batchAdvance {b0 d0 : Bool} {s0 : State} {s : State} {k : CmdKey} (hs0 : Keeps b0 d0 s0 s) : Keeps b0 d0 s0
    (batchAdvance s k) := by
  unfold batchAdvance
  try dsimp only
  repeat' first
    | with_reducible assumption
    | with_reducible refine keeps_ite ?_ ?_
    | intro _
    | with_reducible apply keeps_modBatch
    | with_reducible apply keeps_placeSolve
    | with_reducible apply keeps_submitCheck
    | with_reducible apply keeps_batchComplete
    | (rw [rest_eq]; with_reducible refine keeps_rest ?_ rfl (SameSto.refl _) ⟨rfl, rfl⟩)
    | split
    | dsimp only

theorem keeps_batchAnswer {b0 d0 : Bool} {s0 : State} {s : State} {k : CmdKey} {i : Nat} {accepted : Bool} (hs0 : Keeps b0 d0
    s0 s) : Keeps b0 d0 s0 (batchAnswer s k i accepted) := by
  unfold batchAnswer
  try dsimp only
  repeat' first
    | with_reducible assumption
    | with_reducible refine keeps_ite ?_ ?_
    | intro _
    | with_reducible apply keeps_modBatch
    | with_reducible apply keeps_batchAdvance
    | (rw [rest_eq]; with_reducible refine keeps_rest ?_ rfl (SameSto.refl _) ⟨rfl, rfl⟩)
    | split

theorem keeps_batchArmed {b0 d0 : Bool} {s0 : State} {s : State} {k : CmdKey} {st : Option Status} (hs0 : Keeps b0 d0 s0 s) :
    Keeps b0 d0 s0 (batchArmed s k st) := by
  unfold batchArmed
  try dsimp only
  repeat' first
    | with_reducible assumption
    | intro _
    | with_reducible apply keeps_modBatch
    | with_reducible apply keeps_batchAdvance
    | (rw [rest_eq]; with_reducible refine keeps_rest ?_ rfl (SameSto.refl _) ⟨rfl, rfl⟩)

theorem keeps_stopChecks {b0 d0 : Bool} {s0 : State} {s : State} {p : CheckFor → Bool} (hs0 : Keeps b0 d0 s0 s) : Keeps b0 d0
    s0 (stopChecks s p) := by
  unfold stopChecks
  try dsimp only
  repeat' first
    | with_reducible assumption
    | with_reducible refine keeps_ite ?_ ?_
    | intro _
    | (rw [rest_eq]; with_reducible refine keeps_rest ?_ rfl (SameSto.refl _) ⟨rfl, rfl⟩)
    | (rw [rest_eq]; with_reducible refine keeps_rest ?_ rfl ⟨rfl, rfl, rfl, rfl, rfl, rfl⟩ ⟨rfl, rfl⟩)
    | split

theorem keeps_stopArming {b0 d0 : Bool} {s0 : State} {s : State} {p : Arming → Bool} (hs0 : Keeps b0 d0 s0 s) : Keeps b0 d0 s0
    (stopArming s p) := by
  unfold stopArming
  try dsimp only
  repeat' first
    | with_reducible assumption
    | with_reducible refine keeps_ite ?_ ?_
    | intro _
    | with_reducible apply keeps_releaseEtch
    | with_reducible apply keeps_foldl
    | (rw [rest_eq]; with_reducible refine keeps_rest ?_ rfl (SameSto.refl _) ⟨rfl, rfl⟩)
    | split
    | dsimp only

theorem keeps_solveOver {b0 d0 : Bool} {s0 : State} {s : State} {w : WaitingSolve} {x : SolveEnd} (hs0 : Keeps b0 d0 s0 s) :
    Keeps b0 d0 s0 (solveOver s w x) := by
  unfold solveOver
  try dsimp only
  repeat' first
    | with_reducible assumption
    | with_reducible refine keeps_ite ?_ ?_
    | intro _
    | with_reducible apply keeps_finish
    | with_reducible apply keeps_huskMiss
    | with_reducible apply keeps_charge
    | with_reducible apply keeps_admittedEnd
    | with_reducible apply keeps_modBatch
    | with_reducible apply keeps_armPrimary
    | with_reducible apply keeps_batchAdvance
    | with_reducible apply keeps_batchArmed
    | (rw [rest_eq]; with_reducible refine keeps_rest ?_ rfl (SameSto.refl _) ⟨rfl, rfl⟩)
    | split
    | dsimp only

theorem keeps_refuseSolve {b0 d0 : Bool} {s0 : State} {s : State} {e : Nat} {w : WaitingSolve} {st : Status} (hs0 : Keeps b0 d0
    s0 s) : Keeps b0 d0 s0 (refuseSolve s e w st) := by
  unfold refuseSolve
  try dsimp only
  repeat' first
    | with_reducible assumption
    | with_reducible apply keeps_unqueueSolve
    | with_reducible apply keeps_solveOver

theorem keeps_markUnusable {b0 d0 : Bool} {s0 : State} {s : State} {e : Nat} {n : Nat} (hs0 : Keeps b0 d0 s0 s) : Keeps b0 d0
    s0 (markUnusable s e n) := by
  unfold markUnusable
  try dsimp only
  repeat' first
    | with_reducible assumption
    | intro _
    | with_reducible apply keeps_modSlot
    | with_reducible apply keeps_huskRequest
    | (rw [rest_eq]; with_reducible refine keeps_rest ?_ rfl (SameSto.refl _) ⟨rfl, rfl⟩)

theorem keeps_takeSolve {b0 d0 : Bool} {s0 : State} {s : State} {e : Nat} {w : WaitingSolve} {run : Run} (hs0 : Keeps b0 d0 s0
    s) : Keeps b0 d0 s0 (takeSolve s e w run) := by
  unfold takeSolve
  try dsimp only
  repeat' first
    | with_reducible assumption
    | with_reducible refine keeps_ite ?_ ?_
    | intro _
    | with_reducible apply keeps_modEngine
    | with_reducible apply keeps_beginSolveImprint
    | with_reducible apply keeps_markStarted
    | with_reducible apply keeps_admittedStart
    | with_reducible apply keeps_unqueueSolve
    | (rw [rest_eq]; with_reducible refine keeps_rest ?_ rfl (SameSto.refl _) ⟨rfl, rfl⟩)
    | split
    | dsimp only

theorem keeps_startSolve {b0 d0 : Bool} {s0 : State} {s : State} {e : Nat} {w : WaitingSolve} {imageError : Bool} (hs0 : Keeps
    b0 d0 s0 s) : Keeps b0 d0 s0 (startSolve s e w imageError) := by
  unfold startSolve
  try dsimp only
  repeat' first
    | with_reducible assumption
    | with_reducible refine keeps_ite ?_ ?_
    | with_reducible apply keeps_refuseSolve
    | with_reducible apply keeps_markUnusable
    | with_reducible apply keeps_takeSolve
    | (rw [rest_eq]; with_reducible refine keeps_rest ?_ rfl (SameSto.refl _) ⟨rfl, rfl⟩)
    | split
    | dsimp only

theorem keeps_chargeRun {b0 d0 : Bool} {s0 : State} {s : State} {r : Run} (hs0 : Keeps b0 d0 s0 s) : Keeps b0 d0 s0 (chargeRun
    s r) := by
  unfold chargeRun
  try dsimp only
  repeat' first
    | with_reducible assumption
    | with_reducible apply keeps_chargeTime

theorem keeps_abandonRun {b0 d0 : Bool} {s0 : State} {s : State} {e : Nat} {r : Run} {stamp : Nat} (hs0 : Keeps b0 d0 s0 s) :
    Keeps b0 d0 s0 (abandonRun s e r stamp) := by
  unfold abandonRun
  try dsimp only
  repeat' first
    | with_reducible assumption
    | intro _
    | with_reducible apply keeps_modEngine
    | with_reducible apply keeps_modSlot
    | with_reducible apply keeps_endSolveImprint
    | with_reducible apply keeps_chargeRun
    | (rw [rest_eq]; with_reducible refine keeps_rest ?_ rfl (SameSto.refl _) ⟨rfl, rfl⟩)
    | dsimp only

theorem keeps_discardStale {b0 d0 : Bool} {s0 : State} {s : State} {session : Option Word} (hs0 : Keeps b0 d0 s0 s) : Keeps b0
    d0 s0 (discardStale s session) := by
  unfold discardStale
  try dsimp only
  repeat' first
    | with_reducible assumption
    | intro _
    | with_reducible apply keeps_eventTo
    | with_reducible apply keeps_charge
    | (rw [rest_eq]; with_reducible refine keeps_rest ?_ rfl (SameSto.refl _) ⟨rfl, rfl⟩)
    | split
    | dsimp only

theorem keeps_completeSolve {b0 d0 : Bool} {s0 : State} {s : State} {e : Nat} {r : Run} (hs0 : Keeps b0 d0 s0 s) : Keeps b0 d0
    s0 (completeSolve s e r) := by
  unfold completeSolve
  try dsimp only
  repeat' first
    | with_reducible assumption
    | with_reducible refine keeps_ite ?_ ?_
    | intro _
    | with_reducible apply keeps_countRereads
    | with_reducible apply keeps_modEngine
    | with_reducible apply keeps_modSlot
    | with_reducible apply keeps_endSolveImprint
    | with_reducible apply keeps_putKey
    | with_reducible apply keeps_solveOver
    | with_reducible apply keeps_chargeRun
    | (rw [rest_eq]; with_reducible refine keeps_rest ?_ rfl (SameSto.refl _) ⟨rfl, rfl⟩)
    | split
    | dsimp only

theorem keeps_missSolves {b0 d0 : Bool} {s0 : State} {s : State} {p : SolveFor → Bool} {stamp : Nat} (hs0 : Keeps b0 d0 s0 s) :
    Keeps b0 d0 s0 (missSolves s p stamp) := by
  unfold missSolves
  try dsimp only
  repeat' first
    | with_reducible assumption
    | with_reducible refine keeps_ite ?_ ?_
    | intro _
    | with_reducible apply keeps_solveOver
    | with_reducible apply keeps_refuseSolve
    | with_reducible apply keeps_abandonRun
    | with_reducible apply keeps_foldl
    | (rw [rest_eq]; with_reducible refine keeps_rest ?_ rfl (SameSto.refl _) ⟨rfl, rfl⟩)
    | split
    | dsimp only

theorem keeps_undefResult {b0 d0 : Bool} {s0 : State} {s : State} {r : Run} (hs0 : Keeps b0 d0 s0 s) : Keeps b0 d0 s0
    (undefResult s r) := by
  unfold undefResult
  try dsimp only
  repeat' first
    | with_reducible assumption
    | with_reducible refine keeps_ite ?_ ?_
    | intro _
    | with_reducible apply keeps_undefRange
    | (rw [rest_eq]; with_reducible refine keeps_rest ?_ rfl (SameSto.refl _) ⟨rfl, rfl⟩)
    | split

theorem keeps_stopSolves {b0 d0 : Bool} {s0 : State} {s : State} {p : SolveFor → Bool} (hs0 : Keeps b0 d0 s0 s) : Keeps b0 d0
    s0 (stopSolves s p) := by
  unfold stopSolves
  try dsimp only
  repeat' first
    | with_reducible assumption
    | with_reducible refine keeps_ite ?_ ?_
    | intro _
    | with_reducible apply keeps_modEngine
    | with_reducible apply keeps_abandonRun
    | with_reducible apply keeps_undefResult
    | with_reducible apply keeps_foldl
    | (rw [rest_eq]; with_reducible refine keeps_rest ?_ rfl (SameSto.refl _) ⟨rfl, rfl⟩)
    | split
    | dsimp only

end Sys2Proof.Laws
end

