-- ==== Sys2Proof/Laws/Keeps2.lean ====
section
/-!
SUPPORT. Laws/Keeps2.lean: every operation of Machine/RouteOps.lean, Machine/ImprintRoute.lean, Machine/StepRoutes.lean,
Machine/Scratch.lean, Machine/FieldOps.lean, Machine/QueueOps.lean, Machine/Hif.lean, Machine/PowerOps.lean keeps what
Laws/Keeps.lean says.
-/
namespace Sys2Proof.Laws

open Sys2Proof.Machine

/-! Machine/RouteOps.lean. -/

theorem keeps_modSector {b0 d0 : Bool} {s0 : State} {s : State} {n : Nat} {f : Sector → Sector} (hs0 : Keeps b0 d0 s0 s) :
    Keeps b0 d0 s0 (modSector s n f) := by
  unfold modSector
  try dsimp only
  repeat' first
    | with_reducible assumption
    | (rw [rest_eq]; with_reducible refine keeps_rest ?_ rfl (SameSto.refl _) ⟨rfl, rfl⟩)

/-! Machine/ImprintRoute.lean. -/

theorem keeps_beginRouteImprint {b0 d0 : Bool} {s0 : State} {s : State} {r : RouteRun} {m : Mem} (hs0 : Keeps b0 d0 s0 s) :
    Keeps b0 d0 s0 (beginRouteImprint s r m) := by
  unfold beginRouteImprint
  try dsimp only
  repeat' first
    | with_reducible assumption
    | intro _
    | with_reducible apply keeps_beginImprint
    | (rw [rest_eq]; with_reducible refine keeps_rest ?_ rfl (SameSto.refl _) ⟨rfl, rfl⟩)
    | split
    | dsimp only

theorem keeps_endRouteImprint {b0 d0 : Bool} {s0 : State} {s : State} {r : RouteRun} {st : Status} {result : Nat} (hs0 : Keeps
    b0 d0 s0 s) : Keeps b0 d0 s0 (endRouteImprint s r st result) := by
  unfold endRouteImprint
  try dsimp only
  repeat' first
    | with_reducible assumption
    | with_reducible refine keeps_ite ?_ ?_
    | intro _
    | with_reducible apply keeps_endImprint
    | split
    | dsimp only

/-! Machine/StepRoutes.lean. -/

theorem keeps_publishSet {b0 d0 : Bool} {s0 : State} {s : State} {l : Loop} {w : WaitingRoute} {a : ActionBinding} (hs0 : Keeps
    b0 d0 s0 s) : Keeps b0 d0 s0 (publishSet s l w a).1 := by
  unfold publishSet
  try dsimp only
  repeat' first
    | with_reducible assumption
    | with_reducible refine keeps_ite ?_ ?_
    | intro _
    | with_reducible apply keeps_foldl
    | with_reducible apply keeps_foldl_fst
    | (rw [rest_eq]; with_reducible refine keeps_rest ?_ rfl (SameSto.refl _) ⟨rfl, rfl⟩)
    | (rw [restMem_eq]; with_reducible refine keeps_restMem ?_ ?_ rfl (SameSto.refl _) ⟨rfl, rfl⟩)
    | (rw [memDev_eq]; with_reducible refine memOk_memDev ?_ ?_)
    | with_reducible apply memOk_foldl
    | with_reducible apply wf_foldl
    | with_reducible apply wf_foldl_snd
    | with_reducible apply wf_write'
    | with_reducible apply MemOk.dev
    | split
    | dsimp only
theorem keeps_publishSet_eq {b0 d0 : Bool} {s0 : State} {s : State} {l : Loop} {w : WaitingRoute} {a : ActionBinding} (hs0 :
    Keeps b0 d0 s0 s) {r0 : State} {y0 : ActionBinding} (e : publishSet s l w a = (r0, y0)) : Keeps b0 d0 s0 r0 := by
  have k := keeps_publishSet (s := s) (l := l) (w := w) (a := a) hs0
  rw [e] at k
  exact k

theorem keeps_nextStepRoute {b0 d0 : Bool} {s0 : State} {s : State} {l : Loop} (hs0 : Keeps b0 d0 s0 s) : Keeps b0 d0 s0
    (nextStepRoute s l).1 := by
  unfold nextStepRoute
  try dsimp only
  repeat' first
    | with_reducible assumption
    | intro _
    | with_reducible apply keeps_modPart
    | (rw [rest_eq]; with_reducible refine keeps_rest ?_ rfl (SameSto.refl _) ⟨rfl, rfl⟩)
    | split
    | dsimp only
theorem keeps_nextStepRoute_eq {b0 d0 : Bool} {s0 : State} {s : State} {l : Loop} (hs0 : Keeps b0 d0 s0 s) {r0 : State} {y0 :
    Loop} (e : nextStepRoute s l = (r0, y0)) : Keeps b0 d0 s0 r0 := by
  have k := keeps_nextStepRoute (s := s) (l := l) hs0
  rw [e] at k
  exact k

theorem keeps_setLoop {b0 d0 : Bool} {s0 : State} {s : State} {l : Loop} (hs0 : Keeps b0 d0 s0 s) : Keeps b0 d0 s0 (setLoop s
    l) := by
  unfold setLoop
  try dsimp only
  repeat' first
    | with_reducible assumption
    | with_reducible refine keeps_ite ?_ ?_
    | intro _
    | (rw [rest_eq]; with_reducible refine keeps_rest ?_ rfl (SameSto.refl _) ⟨rfl, rfl⟩)
    | split

theorem keeps_loopRouteOver {b0 d0 : Bool} {s0 : State} {s : State} {p : Nat} {w : WaitingRoute} {st : Status} {warn : BitVec
    16} (hs0 : Keeps b0 d0 s0 s) : Keeps b0 d0 s0 (loopRouteOver s p w st warn) := by
  unfold loopRouteOver
  try dsimp only
  repeat' first
    | with_reducible assumption
    | with_reducible refine keeps_ite ?_ ?_
    | intro _
    | with_reducible apply keeps_publishSet
    | with_reducible refine keeps_publishSet_eq ?_ (by assumption)
    | with_reducible apply keeps_nextStepRoute
    | with_reducible refine keeps_nextStepRoute_eq ?_ (by assumption)
    | with_reducible apply keeps_setLoop
    | with_reducible apply keeps_foldl
    | with_reducible apply keeps_foldl_fst
    | (rw [rest_eq]; with_reducible refine keeps_rest ?_ rfl (SameSto.refl _) ⟨rfl, rfl⟩)
    | split
    | dsimp only

/-! Machine/Scratch.lean. -/

theorem keeps_readSlot {b0 d0 : Bool} {s0 : State} {s : State} {n : Nat} {port : Nat} {q : Nat} (hs0 : Keeps b0 d0 s0 s) :
    Keeps b0 d0 s0 (readSlot s n port q).1 := by
  unfold readSlot
  try dsimp only
  repeat' first
    | with_reducible assumption
    | intro _
    | with_reducible apply keeps_takeFree
    | with_reducible apply keeps_modSector
    | dsimp only
theorem keeps_readSlot_eq {b0 d0 : Bool} {s0 : State} {s : State} {n : Nat} {port : Nat} {q : Nat} (hs0 : Keeps b0 d0 s0 s) {r0
    : State} {y0 : List Word} (e : readSlot s n port q = (r0, y0)) : Keeps b0 d0 s0 r0 := by
  have k := keeps_readSlot (s := s) (n := n) (port := port) (q := q) hs0
  rw [e] at k
  exact k

/-! Machine/FieldOps.lean. -/

theorem keeps_unqueueRoute {b0 d0 : Bool} {s0 : State} {s : State} {p : Nat} {w : WaitingRoute} (hs0 : Keeps b0 d0 s0 s) :
    Keeps b0 d0 s0 (unqueueRoute s p w) := by
  unfold unqueueRoute
  try dsimp only
  repeat' first
    | with_reducible assumption
    | intro _
    | with_reducible apply keeps_modPart
    | (rw [rest_eq]; with_reducible refine keeps_rest ?_ rfl (SameSto.refl _) ⟨rfl, rfl⟩)

theorem keeps_releasePins {b0 d0 : Bool} {s0 : State} {s : State} {r : RouteRun} (hs0 : Keeps b0 d0 s0 s) : Keeps b0 d0 s0
    (releasePins s r) := by
  unfold releasePins
  try dsimp only
  repeat' first
    | with_reducible assumption
    | intro _
    | with_reducible apply keeps_unpinPage
    | with_reducible apply keeps_foldl

theorem keeps_chargeSpill {b0 d0 : Bool} {s0 : State} {s : State} {p : Nat} (hs0 : Keeps b0 d0 s0 s) : Keeps b0 d0 s0
    (chargeSpill s p) := by
  unfold chargeSpill
  try dsimp only
  repeat' first
    | with_reducible assumption
    | with_reducible apply keeps_chargeTime
    | (rw [rest_eq]; with_reducible refine keeps_rest ?_ rfl (SameSto.refl _) ⟨rfl, rfl⟩)
    | split

theorem keeps_spillEnds {b0 d0 : Bool} {s0 : State} {s : State} {p : Nat} (hs0 : Keeps b0 d0 s0 s) : Keeps b0 d0 s0 (spillEnds
    s p) := by
  unfold spillEnds
  try dsimp only
  repeat' first
    | with_reducible assumption
    | with_reducible refine keeps_ite ?_ ?_
    | intro _
    | with_reducible apply keeps_chargeSpill
    | with_reducible apply keeps_modPart
    | (rw [rest_eq]; with_reducible refine keeps_rest ?_ rfl (SameSto.refl _) ⟨rfl, rfl⟩)
    | split

theorem keeps_leavePart {b0 d0 : Bool} {s0 : State} {s : State} {p : Nat} {r : RouteRun} (hs0 : Keeps b0 d0 s0 s) : Keeps b0 d0
    s0 (leavePart s p r) := by
  unfold leavePart
  try dsimp only
  repeat' first
    | with_reducible assumption
    | intro _
    | with_reducible apply keeps_releasePins
    | with_reducible apply keeps_modPart
    | with_reducible apply keeps_admittedEnd
    | with_reducible apply keeps_chargeTime
    | (rw [rest_eq]; with_reducible refine keeps_rest ?_ rfl (SameSto.refl _) ⟨rfl, rfl⟩)
    | dsimp only

theorem keeps_spoilBut {b0 d0 : Bool} {s0 : State} {s : State} {own : List Guard} {l : List (Nat × Nat)} (hs0 : Keeps b0 d0 s0
    s) : Keeps b0 d0 s0 (spoilBut s own l) := by
  unfold spoilBut
  try dsimp only
  repeat' first
    | with_reducible assumption
    | with_reducible exact Keeps.refl _
    | with_reducible refine keeps_ite ?_ ?_
    | intro _
    | (with_reducible apply keeps_takeFree)
    | (with_reducible apply keeps_foldl)
    | (with_reducible apply keeps_foldl_fst)
    | (rw [rest_eq]; with_reducible refine keeps_rest ?_ rfl (SameSto.refl _) ⟨rfl, rfl⟩)
    | (rw [rest_eq]; with_reducible refine keeps_rest ?_ rfl ⟨rfl, rfl, rfl, rfl, rfl, rfl⟩ ⟨rfl, rfl⟩)
    | (rw [restMem_eq]; with_reducible refine keeps_restMem ?_ ?_ rfl (SameSto.refl _) ⟨rfl, rfl⟩)
    | (rw [memDev_eq]; with_reducible refine memOk_memDev ?_ ?_)
    | (refine (foldl_clear_mem _ _ _ _ ▸ ‹MemOk (List.foldl _ _ _).mem› : MemOk _); done)
    | (rename_i hmf; rw [foldl_clear_mem] at hmf; exact hmf)
    | with_reducible apply memOk_writeKey
    | with_reducible apply memOk_pokeElem
    | with_reducible apply memOk_putElem
    | with_reducible apply memOk_copySlot
    | with_reducible apply memOk_foldl
    | with_reducible apply memOk_foldFlagged
    | with_reducible apply memOk_scatterRow
    | with_reducible apply memOk_storeCounts
    | with_reducible apply memOk_applyItem
    | with_reducible apply memOk_applyCopies
    | with_reducible apply memOk_fieldOpRun
    | with_reducible apply wf_clear
    | with_reducible apply wf_filter
    | with_reducible apply wf_write'
    | with_reducible apply wf_put'
    | with_reducible apply wf_foldl
    | with_reducible apply wf_foldl_snd
    | with_reducible apply MemOk.dev
    | (with_reducible apply keeps_foldl_fst2)
    | split
    | (dsimp only)

theorem keeps_spoil {b0 d0 : Bool} {s0 : State} {s : State} {l : List (Nat × Nat)} (hs0 : Keeps b0 d0 s0 s) : Keeps b0 d0 s0
    (spoil s l) := by
  unfold spoil
  try dsimp only
  repeat' first
    | with_reducible assumption
    | with_reducible apply keeps_spoilBut

theorem keeps_setRun {b0 d0 : Bool} {s0 : State} {s : State} {p : Nat} {r : RouteRun} (hs0 : Keeps b0 d0 s0 s) : Keeps b0 d0 s0
    (setRun s p r) := by
  unfold setRun
  try dsimp only
  repeat' first
    | with_reducible assumption
    | intro _
    | with_reducible apply keeps_modPart
    | (rw [rest_eq]; with_reducible refine keeps_rest ?_ rfl (SameSto.refl _) ⟨rfl, rfl⟩)

theorem keeps_setFlags {b0 d0 : Bool} {s0 : State} {s : State} {p : Nat} {i : Nat} {f : Word} (hs0 : Keeps b0 d0 s0 s) : Keeps
    b0 d0 s0 (setFlags s p i f) := by
  unfold setFlags
  try dsimp only
  repeat' first
    | with_reducible assumption
    | intro _
    | with_reducible apply keeps_modSector
    | (rw [rest_eq]; with_reducible refine keeps_rest ?_ rfl (SameSto.refl _) ⟨rfl, rfl⟩)
    | split

theorem keeps_spoilRoute {b0 d0 : Bool} {s0 : State} {s : State} {r : RouteRun} (hs0 : Keeps b0 d0 s0 s) : Keeps b0 d0 s0
    (spoilRoute s r) := by
  unfold spoilRoute
  try dsimp only
  repeat' first
    | with_reducible assumption
    | with_reducible apply keeps_spoilBut

theorem keeps_combineRanges {b0 d0 : Bool} {s0 : State} {s : State} {l : Loop} {w : WaitingRoute} (hs0 : Keeps b0 d0 s0 s) :
    Keeps b0 d0 s0 (combineRanges s l w) := by
  unfold combineRanges
  try dsimp only
  repeat' first
    | with_reducible assumption
    | with_reducible refine keeps_ite ?_ ?_
    | intro _
    | with_reducible apply keeps_takeFree
    | with_reducible apply keeps_foldl
    | with_reducible apply keeps_foldl_fst
    | (rw [rest_eq]; with_reducible refine keeps_rest ?_ rfl (SameSto.refl _) ⟨rfl, rfl⟩)
    | (rw [restMem_eq]; with_reducible refine keeps_restMem ?_ ?_ rfl (SameSto.refl _) ⟨rfl, rfl⟩)
    | (rw [memDev_eq]; with_reducible refine memOk_memDev ?_ ?_)
    | with_reducible apply memOk_foldl
    | with_reducible apply wf_foldl
    | with_reducible apply wf_foldl_snd
    | with_reducible apply wf_filter
    | with_reducible apply wf_write'
    | with_reducible apply MemOk.dev
    | split
    | dsimp only

theorem keeps_endRoute {b0 d0 : Bool} {s0 : State} {s : State} {p : Nat} {r : RouteRun} {st : Status} {result : Nat} {warn :
    BitVec 16} (hs0 : Keeps b0 d0 s0 s) : Keeps b0 d0 s0 (endRoute s p r st result warn) := by
  unfold endRoute
  try dsimp only
  repeat' first
    | with_reducible assumption
    | with_reducible refine keeps_ite ?_ ?_
    | intro _
    | with_reducible apply keeps_leavePart
    | with_reducible apply keeps_combineRanges
    | with_reducible apply keeps_endRouteImprint
    | with_reducible apply keeps_finish
    | with_reducible apply keeps_huskMiss
    | with_reducible apply keeps_charge
    | with_reducible apply keeps_loopRouteOver
    | (rw [rest_eq]; with_reducible refine keeps_rest ?_ rfl (SameSto.refl _) ⟨rfl, rfl⟩)
    | split
    | dsimp only

theorem keeps_stopRoute {b0 d0 : Bool} {s0 : State} {s : State} {p : Nat} {r : RouteRun} {st : Status} (hs0 : Keeps b0 d0 s0 s)
    : Keeps b0 d0 s0 (stopRoute s p r st) := by
  unfold stopRoute
  try dsimp only
  repeat' first
    | with_reducible assumption
    | with_reducible apply keeps_spoilRoute
    | with_reducible apply keeps_endRoute

theorem keeps_failRoute {b0 d0 : Bool} {s0 : State} {s : State} {p : Nat} {r : RouteRun} {result : Nat} (hs0 : Keeps b0 d0 s0
    s) : Keeps b0 d0 s0 (failRoute s p r result) := by
  unfold failRoute
  try dsimp only
  repeat' first
    | with_reducible assumption
    | with_reducible apply keeps_spoilRoute
    | with_reducible apply keeps_endRoute

theorem keeps_fenceRoute {b0 d0 : Bool} {s0 : State} {s : State} {p : Nat} {r : RouteRun} (hs0 : Keeps b0 d0 s0 s) : Keeps b0
    d0 s0 (fenceRoute s p r) := by
  unfold fenceRoute
  try dsimp only
  repeat' first
    | with_reducible assumption
    | with_reducible apply keeps_spoilBut
    | with_reducible apply keeps_failRoute

theorem keeps_refuseRoute {b0 d0 : Bool} {s0 : State} {s : State} {p : Nat} {w : WaitingRoute} {st : Status} (hs0 : Keeps b0 d0
    s0 s) : Keeps b0 d0 s0 (refuseRoute s p w st) := by
  unfold refuseRoute
  try dsimp only
  repeat' first
    | with_reducible assumption
    | with_reducible refine keeps_ite ?_ ?_
    | with_reducible apply keeps_unqueueRoute
    | with_reducible apply keeps_finish
    | with_reducible apply keeps_admittedEnd
    | with_reducible apply keeps_loopRouteOver
    | split
    | dsimp only

theorem keeps_sendPages {b0 d0 : Bool} {s0 : State} {s : State} {p : Nat} {w : WaitingRoute} {st : Station} (hs0 : Keeps b0 d0
    s0 s) : Keeps b0 d0 s0 (sendPages s p w st) := by
  unfold sendPages
  try dsimp only
  repeat' first
    | with_reducible assumption
    | intro _
    | with_reducible apply keeps_takeFree
    | with_reducible apply keeps_modSector
    | with_reducible apply keeps_foldl
    | with_reducible apply keeps_foldl_fst
    | (rw [rest_eq]; with_reducible refine keeps_rest ?_ rfl (SameSto.refl _) ⟨rfl, rfl⟩)
    | split
    | dsimp only

theorem keeps_setSides {b0 d0 : Bool} {s0 : State} {s : State} {p : Nat} {w : WaitingRoute} (hs0 : Keeps b0 d0 s0 s) : Keeps b0
    d0 s0 (setSides s p w) := by
  unfold setSides
  try dsimp only
  repeat' first
    | with_reducible assumption
    | with_reducible refine keeps_ite ?_ ?_
    | intro _
    | with_reducible apply keeps_takeFree
    | with_reducible apply keeps_modSector
    | with_reducible apply keeps_foldl
    | with_reducible apply keeps_foldl_fst
    | (rw [rest_eq]; with_reducible refine keeps_rest ?_ rfl (SameSto.refl _) ⟨rfl, rfl⟩)
    | split
    | dsimp only

theorem keeps_noteBegun {b0 d0 : Bool} {s0 : State} {s : State} {w : WaitingRoute} (hs0 : Keeps b0 d0 s0 s) : Keeps b0 d0 s0
    (noteBegun s w) := by
  unfold noteBegun
  try dsimp only
  repeat' first
    | with_reducible assumption
    | with_reducible refine keeps_ite ?_ ?_
    | intro _
    | (rw [rest_eq]; with_reducible refine keeps_rest ?_ rfl (SameSto.refl _) ⟨rfl, rfl⟩)
    | split

theorem keeps_beginRoute {b0 d0 : Bool} {s0 : State} {s : State} {p : Nat} {w : WaitingRoute} {restarted : Bool} {pins : List
    Nat} (hs0 : Keeps b0 d0 s0 s) : Keeps b0 d0 s0 (beginRoute s p w restarted pins) := by
  unfold beginRoute
  try dsimp only
  repeat' first
    | with_reducible assumption
    | with_reducible refine keeps_ite ?_ ?_
    | intro _
    | with_reducible apply keeps_pinPage
    | with_reducible apply keeps_unpinPage
    | with_reducible apply keeps_unqueueRoute
    | with_reducible apply keeps_spillEnds
    | with_reducible apply keeps_refuseRoute
    | with_reducible apply keeps_sendPages
    | with_reducible apply keeps_setSides
    | with_reducible apply keeps_noteBegun
    | with_reducible apply keeps_beginRouteImprint
    | with_reducible apply keeps_markStarted
    | with_reducible apply keeps_modSector
    | with_reducible apply keeps_modPart
    | with_reducible apply keeps_admittedStart
    | with_reducible apply keeps_foldl
    | (rw [rest_eq]; with_reducible refine keeps_rest ?_ rfl (SameSto.refl _) ⟨rfl, rfl⟩)
    | split
    | dsimp only

theorem keeps_publishSlot {b0 d0 : Bool} {s0 : State} {s : State} {p : Nat} {i : Nat} {q : Nat} {b : Bytes} {t : Tile} {last :
    Bool} (hs0 : Keeps b0 d0 s0 s) : Keeps b0 d0 s0 (publishSlot s p i q b t last) := by
  unfold publishSlot
  try dsimp only
  repeat' first
    | with_reducible assumption
    | with_reducible refine keeps_ite ?_ ?_
    | intro _
    | with_reducible apply keeps_takeFree
    | with_reducible apply keeps_modSector
    | (rw [rest_eq]; with_reducible refine keeps_rest ?_ rfl (SameSto.refl _) ⟨rfl, rfl⟩)
    | split
    | dsimp only

theorem keeps_passSides {b0 d0 : Bool} {s0 : State} {s : State} {p : Nat} {r : RouteRun} {i : Nat} {st : Station} {k : Nat}
    (hs0 : Keeps b0 d0 s0 s) : Keeps b0 d0 s0 (passSides s p r i st k) := by
  unfold passSides
  try dsimp only
  repeat' first
    | with_reducible assumption
    | intro _
    | with_reducible apply keeps_modSector
    | with_reducible apply keeps_foldl
    | (rw [rest_eq]; with_reducible refine keeps_rest ?_ rfl (SameSto.refl _) ⟨rfl, rfl⟩)
    | split

theorem keeps_readHead {b0 d0 : Bool} {s0 : State} {s : State} {p : Nat} {i : Nat} {q : Nat} {b : Bytes} {t : Tile} (hs0 :
    Keeps b0 d0 s0 s) : Keeps b0 d0 s0 (readHead s p i q b t).1 := by
  unfold readHead
  try dsimp only
  repeat' first
    | with_reducible assumption
    | with_reducible refine keeps_ite ?_ ?_
    | with_reducible apply keeps_readSlot
    | with_reducible refine keeps_readSlot_eq ?_ (by assumption)
    | (rw [rest_eq]; with_reducible refine keeps_rest ?_ rfl (SameSto.refl _) ⟨rfl, rfl⟩)
    | split
    | dsimp only
theorem keeps_readHead_eq {b0 d0 : Bool} {s0 : State} {s : State} {p : Nat} {i : Nat} {q : Nat} {b : Bytes} {t : Tile} (hs0 :
    Keeps b0 d0 s0 s) {r0 : State} {y0 : Tile} (e : readHead s p i q b t = (r0, y0)) : Keeps b0 d0 s0 r0 := by
  have k := keeps_readHead (s := s) (p := p) (i := i) (q := q) (b := b) (t := t) hs0
  rw [e] at k
  exact k

theorem keeps_releaseSlot {b0 d0 : Bool} {s0 : State} {s : State} {p : Nat} {i : Nat} {q : Nat} {r : RouteRun} {k : Nat} (hs0 :
    Keeps b0 d0 s0 s) : Keeps b0 d0 s0 (releaseSlot s p i q r k) := by
  unfold releaseSlot
  try dsimp only
  repeat' first
    | with_reducible assumption
    | with_reducible refine keeps_ite ?_ ?_
    | intro _
    | with_reducible apply keeps_modSector
    | (rw [rest_eq]; with_reducible refine keeps_rest ?_ rfl (SameSto.refl _) ⟨rfl, rfl⟩)
    | split
    | dsimp only

theorem keeps_scatterInto {b0 d0 : Bool} {s0 : State} {s : State} {p : Nat} {r : RouteRun} {i : Nat} {st : Station} {rows :
    List (Nat × List Word)} (hs0 : Keeps b0 d0 s0 s) : Keeps b0 d0 s0 (scatterInto s p r i st rows).1 := by
  unfold scatterInto
  try dsimp only
  repeat' first
    | with_reducible assumption
    | with_reducible refine keeps_ite ?_ ?_
    | intro _
    | with_reducible apply keeps_setFlags
    | (rw [rest_eq]; with_reducible refine keeps_rest ?_ rfl (SameSto.refl _) ⟨rfl, rfl⟩)
    | (rw [restMem_eq]; with_reducible refine keeps_restMem ?_ ?_ rfl (SameSto.refl _) ⟨rfl, rfl⟩)
    | with_reducible apply memOk_scatterRow
    | with_reducible apply memOk_foldFlagged
    | with_reducible apply MemOk.dev
    | split
    | dsimp only
theorem keeps_scatterInto_eq {b0 d0 : Bool} {s0 : State} {s : State} {p : Nat} {r : RouteRun} {i : Nat} {st : Station} {rows :
    List (Nat × List Word)} (hs0 : Keeps b0 d0 s0 s) {r0 : State} {y0 : RouteRun} (e : scatterInto s p r i st rows = (r0, y0))
        : Keeps b0 d0 s0 r0 := by
  have k := keeps_scatterInto (s := s) (p := p) (r := r) (i := i) (st := st) (rows := rows) hs0
  rw [e] at k
  exact k

theorem keeps_consumeTile {b0 d0 : Bool} {s0 : State} {s : State} {p : Nat} {r : RouteRun} {i : Nat} {st : Station} {k : Nat}
    {x : Tile} {y : Tile} (hs0 : Keeps b0 d0 s0 s) {r0 : State × RouteRun} (e : consumeTile s p r i st k x y = .ok r0) : Keeps
        b0 d0 s0 r0.1 := by
  unfold consumeTile at e
  try dsimp only at e
  repeat' first
    | (split at e)
    | (cases e; done)
    | (cases e; dsimp only)
    | cases e
    | with_reducible assumption
    | intro _
    | with_reducible apply keeps_setFlags
    | with_reducible apply keeps_scatterInto
    | with_reducible refine keeps_scatterInto_eq ?_ (by assumption)
    | with_reducible apply keeps_clearWeights
    | with_reducible apply keeps_foldl
    | with_reducible apply keeps_foldl_fst
    | (rw [rest_eq]; with_reducible refine keeps_rest ?_ rfl (SameSto.refl _) ⟨rfl, rfl⟩)
    | (rw [restMem_eq]; with_reducible refine keeps_restMem ?_ ?_ rfl (SameSto.refl _) ⟨rfl, rfl⟩)
    | (rename_i hmf; rw [foldl_clear_mem] at hmf; exact hmf)
    | with_reducible apply memOk_putElem
    | with_reducible apply memOk_applyItem
    | with_reducible apply memOk_scatterRow
    | with_reducible apply memOk_foldl
    | with_reducible apply wf_foldl
    | with_reducible apply wf_foldl_snd
    | with_reducible apply wf_clear
    | with_reducible apply wf_filter
    | with_reducible apply MemOk.dev
    | split
    | dsimp only
theorem keeps_consumeTile_eq {b0 d0 : Bool} {s0 : State} {s : State} {p : Nat} {r : RouteRun} {i : Nat} {st : Station} {k :
    Nat} {x : Tile} {y : Tile} (hs0 : Keeps b0 d0 s0 s) {r0 : State} {y0 : RouteRun} (e : consumeTile s p r i st k x y = .ok
        (r0, y0)) : Keeps b0 d0 s0 r0 :=
  keeps_consumeTile hs0 e

theorem keeps_consumeRest {b0 d0 : Bool} {s0 : State} {p : Nat} {x : Streams} {f n : Nat} {todo : List (Nat × List (Station ×
    Nat))}
    {a : State × RouteRun} (h : Keeps b0 d0 s0 a.1) {r : State × RouteRun} (e : consumeRest p x f n todo a = .ok r) : Keeps b0
        d0 s0 r.1 := by
  induction f generalizing n todo a with
  | zero => cases e; exact h
  | succ f ih =>
    unfold consumeRest at e
    dsimp only at e
    split at e
    · cases e; exact h
    · cases e; exact h
    · split at e
      · exact ih h e
      · split at e
        · cases e
        · next e1 => exact ih (keeps_consumeTile h e1) e
theorem keeps_consumeRest_eq {b0 d0 : Bool} {s0 : State} {p : Nat} {x : Streams} {f n : Nat} {todo : List (Nat × List (Station
    × Nat))}
    {a : State × RouteRun} (h : Keeps b0 d0 s0 a.1) {r : State} {y : RouteRun} (e : consumeRest p x f n todo a = .ok (r, y)) :
        Keeps b0 d0 s0 r :=
  keeps_consumeRest h e

theorem keeps_secondPhase {b0 d0 : Bool} {s0 : State} {s : State} {p : Nat} {r : RouteRun} (hs0 : Keeps b0 d0 s0 s) : Keeps b0
    d0 s0 (secondPhase s p r) := by
  unfold secondPhase
  try dsimp only
  repeat' first
    | with_reducible assumption
    | intro _
    | with_reducible apply keeps_setFlags
    | with_reducible apply keeps_foldl
    | (rw [rest_eq]; with_reducible refine keeps_rest ?_ rfl (SameSto.refl _) ⟨rfl, rfl⟩)
    | (rw [restMem_eq]; with_reducible refine keeps_restMem ?_ ?_ rfl (SameSto.refl _) ⟨rfl, rfl⟩)
    | with_reducible apply memOk_applyCopies
    | with_reducible apply memOk_foldl
    | with_reducible apply wf_foldl
    | with_reducible apply wf_foldl_snd
    | with_reducible apply wf_filter
    | with_reducible apply MemOk.dev
    | dsimp only

theorem keeps_appendCounts {b0 d0 : Bool} {s0 : State} {s : State} {r : RouteRun} (hs0 : Keeps b0 d0 s0 s) : Keeps b0 d0 s0
    (appendCounts s r) := by
  unfold appendCounts
  try dsimp only
  repeat' first
    | with_reducible assumption
    | with_reducible refine keeps_ite ?_ ?_
    | intro _
    | with_reducible apply keeps_putWord
    | with_reducible apply keeps_foldl
    | (rw [rest_eq]; with_reducible refine keeps_rest ?_ rfl (SameSto.refl _) ⟨rfl, rfl⟩)
    | split
    | dsimp only

theorem keeps_finishRoute {b0 d0 : Bool} {s0 : State} {s : State} {p : Nat} {r : RouteRun} (hs0 : Keeps b0 d0 s0 s) : Keeps b0
    d0 s0 (finishRoute s p r) := by
  unfold finishRoute
  try dsimp only
  repeat' first
    | with_reducible assumption
    | with_reducible refine keeps_ite ?_ ?_
    | intro _
    | with_reducible apply keeps_countRereads
    | with_reducible apply keeps_setFlags
    | with_reducible apply keeps_endRoute
    | with_reducible apply keeps_stopRoute
    | with_reducible refine keeps_consumeRest ?_ (by assumption)
    | with_reducible refine keeps_consumeRest_eq ?_ (by assumption)
    | with_reducible apply keeps_secondPhase
    | with_reducible apply keeps_appendCounts
    | with_reducible apply keeps_takeFree
    | with_reducible apply keeps_clearWeights
    | with_reducible apply keeps_foldl
    | with_reducible apply keeps_foldl_fst
    | (rw [rest_eq]; with_reducible refine keeps_rest ?_ rfl (SameSto.refl _) ⟨rfl, rfl⟩)
    | (rw [restMem_eq]; with_reducible refine keeps_restMem ?_ ?_ rfl (SameSto.refl _) ⟨rfl, rfl⟩)
    | (rename_i hmf; rw [foldl_clear_mem] at hmf; exact hmf)
    | with_reducible apply memOk_storeCounts
    | with_reducible apply memOk_fieldOpRun
    | with_reducible apply memOk_foldl
    | with_reducible apply wf_foldl
    | with_reducible apply wf_foldl_snd
    | with_reducible apply wf_clear
    | with_reducible apply MemOk.dev
    | split
    | dsimp only

theorem keeps_requeueRoute {b0 d0 : Bool} {s0 : State} {s : State} {p : Nat} {r : RouteRun} (hs0 : Keeps b0 d0 s0 s) : Keeps b0
    d0 s0 (requeueRoute s p r) := by
  unfold requeueRoute
  try dsimp only
  repeat' first
    | with_reducible assumption
    | intro _
    | with_reducible apply keeps_leavePart
    | with_reducible apply keeps_modPart
    | (rw [rest_eq]; with_reducible refine keeps_rest ?_ rfl (SameSto.refl _) ⟨rfl, rfl⟩)
    | dsimp only

theorem keeps_migrateRun {b0 d0 : Bool} {s0 : State} {s : State} {p : Nat} {r : RouteRun} (hs0 : Keeps b0 d0 s0 s) : Keeps b0
    d0 s0 (migrateRun s p r) := by
  unfold migrateRun
  try dsimp only
  repeat' first
    | with_reducible assumption
    | with_reducible refine keeps_ite ?_ ?_
    | with_reducible apply keeps_failRoute
    | with_reducible apply keeps_requeueRoute
    | split

theorem keeps_bumpEpoch {b0 d0 : Bool} {s0 : State} {s : State} {p : Nat} (hs0 : Keeps b0 d0 s0 s) : Keeps b0 d0 s0 (bumpEpoch
    s p) := by
  unfold bumpEpoch
  try dsimp only
  repeat' first
    | with_reducible assumption
    | intro _
    | with_reducible apply keeps_modPart
    | (rw [rest_eq]; with_reducible refine keeps_rest ?_ rfl (SameSto.refl _) ⟨rfl, rfl⟩)

theorem keeps_remapSector {b0 d0 : Bool} {s0 : State} {s : State} {l : Nat} {phys : Nat} {c : Option Cmd} (hs0 : Keeps b0 d0 s0
    s) : Keeps b0 d0 s0 (remapSector s l phys c) := by
  unfold remapSector
  try dsimp only
  repeat' first
    | with_reducible assumption
    | intro _
    | (rw [rest_eq]; with_reducible refine keeps_rest ?_ rfl (SameSto.refl _) ⟨rfl, rfl⟩)
    | split
    | dsimp only

theorem keeps_startRemap {b0 d0 : Bool} {s0 : State} {s : State} {n : Nat} {c : Cmd} (hs0 : Keeps b0 d0 s0 s) : Keeps b0 d0 s0
    (startRemap s n c) := by
  unfold startRemap
  try dsimp only
  repeat' first
    | with_reducible assumption
    | with_reducible refine keeps_ite ?_ ?_
    | intro _
    | with_reducible apply keeps_bumpEpoch
    | with_reducible apply keeps_remapSector
    | with_reducible apply keeps_done
    | with_reducible apply keeps_modPart
    | (rw [rest_eq]; with_reducible refine keeps_rest ?_ rfl (SameSto.refl _) ⟨rfl, rfl⟩)
    | split

theorem keeps_afterRoute {b0 d0 : Bool} {s0 : State} {s : State} {p : Nat} (hs0 : Keeps b0 d0 s0 s) : Keeps b0 d0 s0
    (afterRoute s p) := by
  unfold afterRoute
  try dsimp only
  repeat' first
    | with_reducible assumption
    | with_reducible refine keeps_ite ?_ ?_
    | intro _
    | with_reducible apply keeps_startRemap
    | with_reducible apply keeps_modPart
    | with_reducible apply keeps_foldl
    | with_reducible apply keeps_foldl_fst
    | (rw [rest_eq]; with_reducible refine keeps_rest ?_ rfl (SameSto.refl _) ⟨rfl, rfl⟩)
    | split
    | dsimp only

theorem keeps_rerunFenced {b0 d0 : Bool} {s0 : State} {s : State} {p : Nat} (hs0 : Keeps b0 d0 s0 s) : Keeps b0 d0 s0
    (rerunFenced s p) := by
  unfold rerunFenced
  try dsimp only
  repeat' first
    | with_reducible assumption
    | with_reducible refine keeps_ite ?_ ?_
    | intro _
    | with_reducible apply keeps_stopRoute
    | with_reducible apply keeps_beginRoute
    | with_reducible apply keeps_modPart
    | (rw [rest_eq]; with_reducible refine keeps_rest ?_ rfl (SameSto.refl _) ⟨rfl, rfl⟩)
    | split
    | dsimp only

theorem keeps_faultSector {b0 d0 : Bool} {s0 : State} {s : State} {phys : Nat} {cause : Nat} {ended : Option Status} (hs0 :
    Keeps b0 d0 s0 s) : Keeps b0 d0 s0 (faultSector s phys cause ended) := by
  unfold faultSector
  try dsimp only
  repeat' first
    | with_reducible assumption
    | with_reducible refine keeps_ite ?_ ?_
    | intro _
    | with_reducible apply keeps_stopRoute
    | with_reducible apply keeps_fenceRoute
    | with_reducible apply keeps_bumpEpoch
    | with_reducible apply keeps_remapSector
    | with_reducible apply keeps_afterRoute
    | with_reducible apply keeps_rerunFenced
    | with_reducible apply keeps_huskFault
    | with_reducible apply keeps_modSector
    | with_reducible apply keeps_modPart
    | with_reducible apply keeps_chargeTime
    | (rw [rest_eq]; with_reducible refine keeps_rest ?_ rfl (SameSto.refl _) ⟨rfl, rfl⟩)
    | split
    | dsimp only

theorem keeps_routeUncorrectable {b0 d0 : Bool} {s0 : State} {s : State} {p : Nat} {i : Nat} {r : RouteRun} (hs0 : Keeps b0 d0
    s0 s) : Keeps b0 d0 s0 (routeUncorrectable s p i r) := by
  unfold routeUncorrectable
  try dsimp only
  repeat' first
    | with_reducible assumption
    | with_reducible apply keeps_stopRoute
    | with_reducible apply keeps_huskRequest
    | dsimp only

/-! Machine/QueueOps.lean. -/

theorem keeps_queueError {b0 d0 : Bool} {s0 : State} {s : State} {q : Nat} (hs0 : Keeps b0 d0 s0 s) : Keeps b0 d0 s0
    (queueError s q) := by
  unfold queueError
  try dsimp only
  repeat' first
    | with_reducible assumption
    | with_reducible refine keeps_ite ?_ ?_
    | intro _
    | with_reducible apply keeps_modSq
    | with_reducible apply keeps_eventTo
    | (rw [rest_eq]; with_reducible refine keeps_rest ?_ rfl (SameSto.refl _) ⟨rfl, rfl⟩)
    | split

theorem keeps_placeRoute {b0 d0 : Bool} {s0 : State} {s : State} {w : WaitingRoute} {p : Nat} (hs0 : Keeps b0 d0 s0 s) : Keeps
    b0 d0 s0 (placeRoute s w p) := by
  unfold placeRoute
  try dsimp only
  repeat' first
    | with_reducible assumption
    | with_reducible refine keeps_ite ?_ ?_
    | intro _
    | with_reducible apply keeps_done
    | with_reducible apply keeps_modPart
    | with_reducible apply keeps_admittedEnd
    | (rw [rest_eq]; with_reducible refine keeps_rest ?_ rfl (SameSto.refl _) ⟨rfl, rfl⟩)
    | split
    | dsimp only

theorem keeps_migrateRoute {b0 d0 : Bool} {s0 : State} {s : State} {old : Nat} {p : Nat} {r : RouteRun} (hs0 : Keeps b0 d0 s0
    s) : Keeps b0 d0 s0 (migrateRoute s old p r) := by
  unfold migrateRoute
  try dsimp only
  repeat' first
    | with_reducible assumption
    | with_reducible refine keeps_ite ?_ ?_
    | with_reducible apply keeps_leavePart
    | with_reducible apply keeps_failRoute
    | with_reducible apply keeps_placeRoute
    | split

theorem keeps_migrateAside {b0 d0 : Bool} {s0 : State} {s : State} {old : Nat} {p : Nat} {r : RouteRun} (hs0 : Keeps b0 d0 s0
    s) : Keeps b0 d0 s0 (migrateAside s old p r) := by
  unfold migrateAside
  try dsimp only
  repeat' first
    | with_reducible assumption
    | intro _
    | with_reducible apply keeps_afterRoute
    | with_reducible apply keeps_migrateRoute
    | with_reducible apply keeps_modPart
    | (rw [rest_eq]; with_reducible refine keeps_rest ?_ rfl (SameSto.refl _) ⟨rfl, rfl⟩)
    | dsimp only

theorem keeps_requeueSolve {b0 d0 : Bool} {s0 : State} {s : State} {e : Nat} {r : Run} (hs0 : Keeps b0 d0 s0 s) : Keeps b0 d0
    s0 (requeueSolve s e r) := by
  unfold requeueSolve
  try dsimp only
  repeat' first
    | with_reducible assumption
    | intro _
    | with_reducible apply keeps_modEngine
    | with_reducible apply keeps_chargeRun
    | (rw [rest_eq]; with_reducible refine keeps_rest ?_ rfl (SameSto.refl _) ⟨rfl, rfl⟩)
    | dsimp only

theorem keeps_moveSolves {b0 d0 : Bool} {s0 : State} {s : State} {q : Nat} {p : Nat} {t : Option Nat} (hs0 : Keeps b0 d0 s0 s)
    : Keeps b0 d0 s0 (moveSolves s q p t) := by
  unfold moveSolves
  try dsimp only
  repeat' first
    | with_reducible assumption
    | with_reducible refine keeps_ite ?_ ?_
    | intro _
    | with_reducible apply keeps_modEngine
    | with_reducible apply keeps_requeueSolve
    | with_reducible apply keeps_refuseSolve
    | with_reducible apply keeps_foldl
    | (rw [rest_eq]; with_reducible refine keeps_rest ?_ rfl (SameSto.refl _) ⟨rfl, rfl⟩)
    | split
    | dsimp only

theorem keeps_moveQueue {b0 d0 : Bool} {s0 : State} {s : State} {q : Nat} {p : Nat} {t : Option Nat} (hs0 : Keeps b0 d0 s0 s) :
    Keeps b0 d0 s0 (moveQueue s q p t) := by
  unfold moveQueue
  try dsimp only
  repeat' first
    | with_reducible assumption
    | with_reducible refine keeps_ite ?_ ?_
    | intro _
    | with_reducible apply keeps_bumpEpoch
    | with_reducible apply keeps_afterRoute
    | with_reducible apply keeps_modSq
    | with_reducible apply keeps_placeRoute
    | with_reducible apply keeps_migrateRoute
    | with_reducible apply keeps_migrateAside
    | with_reducible apply keeps_moveSolves
    | with_reducible apply keeps_modPart
    | with_reducible apply keeps_foldl
    | (rw [rest_eq]; with_reducible refine keeps_rest ?_ rfl (SameSto.refl _) ⟨rfl, rfl⟩)
    | split
    | dsimp only

theorem keeps_placeAgain {b0 d0 : Bool} {s0 : State} {s : State} {x : SubQueue} (hs0 : Keeps b0 d0 s0 s) : Keeps b0 d0 s0
    (placeAgain s x) := by
  unfold placeAgain
  try dsimp only
  repeat' first
    | with_reducible assumption
    | with_reducible refine keeps_ite ?_ ?_
    | with_reducible apply keeps_queueError
    | with_reducible apply keeps_moveQueue
    | (rw [rest_eq]; with_reducible refine keeps_rest ?_ rfl (SameSto.refl _) ⟨rfl, rfl⟩)
    | split

/-! Machine/Hif.lean. -/

theorem keeps_rejectDoorbell {b0 d0 : Bool} {s0 : State} {s : State} {fn : Nat} (hs0 : Keeps b0 d0 s0 s) : Keeps b0 d0 s0
    (rejectDoorbell s fn) := by
  unfold rejectDoorbell
  try dsimp only
  repeat' first
    | with_reducible assumption
    | intro _
    | with_reducible apply keeps_modFunc
    | (rw [rest_eq]; with_reducible refine keeps_rest ?_ rfl (SameSto.refl _) ⟨rfl, rfl⟩)

theorem keeps_rejectBar {b0 d0 : Bool} {s0 : State} {s : State} {fn : Nat} (hs0 : Keeps b0 d0 s0 s) : Keeps b0 d0 s0 (rejectBar
    s fn) := by
  unfold rejectBar
  try dsimp only
  repeat' first
    | with_reducible assumption
    | intro _
    | with_reducible apply keeps_modFunc
    | (rw [rest_eq]; with_reducible refine keeps_rest ?_ rfl (SameSto.refl _) ⟨rfl, rfl⟩)

theorem keeps_loseDoorbell {b0 d0 : Bool} {s0 : State} {s : State} {fn : Nat} (hs0 : Keeps b0 d0 s0 s) : Keeps b0 d0 s0
    (loseDoorbell s fn) := by
  unfold loseDoorbell
  try dsimp only
  repeat' first
    | with_reducible assumption
    | intro _
    | with_reducible apply keeps_modFunc
    | with_reducible apply keeps_raiseEvent
    | (rw [rest_eq]; with_reducible refine keeps_rest ?_ rfl (SameSto.refl _) ⟨rfl, rfl⟩)
    | dsimp only

theorem keeps_ringQueue {b0 d0 : Bool} {s0 : State} {s : State} {fn : Nat} {x : SubQueue} {tail : Nat} (hs0 : Keeps b0 d0 s0 s)
    : Keeps b0 d0 s0 (ringQueue s fn x tail) := by
  unfold ringQueue
  try dsimp only
  repeat' first
    | with_reducible assumption
    | with_reducible refine keeps_ite ?_ ?_
    | intro _
    | with_reducible apply keeps_rejectDoorbell
    | with_reducible apply keeps_loseDoorbell
    | with_reducible apply keeps_modSq
    | with_reducible apply keeps_queueError
    | (rw [rest_eq]; with_reducible refine keeps_rest ?_ rfl (SameSto.refl _) ⟨rfl, rfl⟩)
    | split
    | dsimp only

theorem keeps_execHifDoorbell {b0 d0 : Bool} {s0 : State} {t : Nat} {fn : Nat} {value : DWord} {s : State} (hs0 : Keeps b0 d0
    s0 s) {r0 : State} (e : execHifDoorbell t fn value s = .next r0) : Keeps b0 d0 s0 r0 := by
  unfold execHifDoorbell at e
  refine keeps_event hs0 ?_ e
  clear hs0 e r0
  try dsimp only
  repeat' first
    | with_reducible assumption
    | with_reducible refine keeps_ite ?_ ?_
    | intro _
    | with_reducible apply keeps_rejectDoorbell
    | with_reducible apply keeps_ringQueue
    | (rw [rest_eq]; with_reducible refine keeps_rest ?_ rfl (SameSto.refl _) ⟨rfl, rfl⟩)
    | split
    | dsimp only

theorem keeps_execHifCqHead {b0 d0 : Bool} {s0 : State} {t : Nat} {fn : Nat} {value : DWord} {s : State} (hs0 : Keeps b0 d0 s0
    s) {r0 : State} (e : execHifCqHead t fn value s = .next r0) : Keeps b0 d0 s0 r0 := by
  unfold execHifCqHead at e
  refine keeps_event hs0 ?_ e
  clear hs0 e r0
  try dsimp only
  repeat' first
    | with_reducible assumption
    | with_reducible refine keeps_ite ?_ ?_
    | intro _
    | with_reducible apply keeps_rejectDoorbell
    | with_reducible apply keeps_modCq
    | (rw [rest_eq]; with_reducible refine keeps_rest ?_ rfl (SameSto.refl _) ⟨rfl, rfl⟩)
    | split
    | dsimp only

theorem keeps_drainFifo {b0 d0 : Bool} {s0 : State} {s : State} (hs0 : Keeps b0 d0 s0 s) : Keeps b0 d0 s0 (drainFifo s) := by
  unfold drainFifo
  try dsimp only
  repeat' first
    | with_reducible assumption
    | intro _
    | with_reducible apply keeps_modSq
    | with_reducible apply keeps_foldl
    | (rw [rest_eq]; with_reducible refine keeps_rest ?_ rfl (SameSto.refl _) ⟨rfl, rfl⟩)
    | dsimp only

theorem keeps_missUnstarted {b0 d0 : Bool} {s0 : State} {s : State} {c : Cmd} (hs0 : Keeps b0 d0 s0 s) : Keeps b0 d0 s0
    (missUnstarted s c) := by
  unfold missUnstarted
  try dsimp only
  repeat' first
    | with_reducible assumption
    | with_reducible refine keeps_ite ?_ ?_
    | intro _
    | with_reducible apply keeps_huskMiss
    | with_reducible apply keeps_missDeadline
    | (rw [rest_eq]; with_reducible refine keeps_rest ?_ rfl (SameSto.refl _) ⟨rfl, rfl⟩)
    | split
    | dsimp only

theorem keeps_admitEntry {b0 d0 : Bool} {s0 : State} {s : State} {x : SubQueue} {ws : List Word} {stamp : Nat} (hs0 : Keeps b0
    d0 s0 s) : Keeps b0 d0 s0 (admitEntry s x ws stamp) := by
  unfold admitEntry
  try dsimp only
  repeat' first
    | with_reducible assumption
    | with_reducible refine keeps_ite ?_ ?_
    | with_reducible apply keeps_missUnstarted
    | with_reducible apply keeps_enqueue
    | with_reducible apply keeps_done
    | (rw [rest_eq]; with_reducible refine keeps_rest ?_ rfl (SameSto.refl _) ⟨rfl, rfl⟩)
    | split
    | dsimp only

theorem keeps_execSqEntryFetch {b0 d0 : Bool} {s0 : State} {t : Nat} {sq : BitVec 18} {s : State} (hs0 : Keeps b0 d0 s0 s) {r0
    : State} (e : execSqEntryFetch t sq s = .next r0) : Keeps b0 d0 s0 r0 := by
  unfold execSqEntryFetch at e
  refine keeps_event hs0 ?_ e
  clear hs0 e r0
  try dsimp only
  repeat' first
    | with_reducible assumption
    | with_reducible refine keeps_ite ?_ ?_
    | intro _
    | with_reducible apply keeps_drainFifo
    | with_reducible apply keeps_admitEntry
    | with_reducible apply keeps_modSq
    | (rw [rest_eq]; with_reducible refine keeps_rest ?_ rfl (SameSto.refl _) ⟨rfl, rfl⟩)
    | split
    | dsimp only

theorem keeps_signalCq {b0 d0 : Bool} {s0 : State} {s : State} {x : ComQueue} (hs0 : Keeps b0 d0 s0 s) : Keeps b0 d0 s0
    (signalCq s x) := by
  unfold signalCq
  try dsimp only
  repeat' first
    | with_reducible assumption
    | intro _
    | with_reducible apply keeps_modCq
    | with_reducible apply keeps_raiseVector
    | (rw [rest_eq]; with_reducible refine keeps_rest ?_ rfl (SameSto.refl _) ⟨rfl, rfl⟩)

theorem keeps_closeFinal {b0 d0 : Bool} {s0 : State} {s : State} {id : Word} (hs0 : Keeps b0 d0 s0 s) : Keeps b0 d0 s0
    (closeFinal s id) := by
  unfold closeFinal
  try dsimp only
  repeat' first
    | with_reducible assumption
    | with_reducible refine keeps_ite ?_ ?_
    | intro _
    | with_reducible apply keeps_freePassed
    | (rw [rest_eq]; with_reducible refine keeps_rest ?_ rfl (SameSto.refl _) ⟨rfl, rfl⟩)
    | split
    | dsimp only

theorem keeps_writeCompletion {b0 d0 : Bool} {s0 : State} {s : State} {x : ComQueue} {e : Completion} (hs0 : Keeps b0 d0 s0 s)
    : Keeps b0 d0 s0 (writeCompletion s x e) := by
  unfold writeCompletion
  try dsimp only
  repeat' first
    | with_reducible assumption
    | with_reducible refine keeps_ite ?_ ?_
    | intro _
    | with_reducible apply keeps_modCq
    | with_reducible apply keeps_putKey
    | (rw [rest_eq]; with_reducible refine keeps_rest ?_ rfl (SameSto.refl _) ⟨rfl, rfl⟩)
    | split
    | dsimp only

theorem keeps_afterPost {b0 d0 : Bool} {s0 : State} {s : State} {x : ComQueue} {e : Completion} (hs0 : Keeps b0 d0 s0 s) :
    Keeps b0 d0 s0 (afterPost s x e) := by
  unfold afterPost
  try dsimp only
  repeat' first
    | with_reducible assumption
    | with_reducible refine keeps_ite ?_ ?_
    | with_reducible apply keeps_releaseEtch
    | with_reducible apply keeps_signalCq
    | with_reducible apply keeps_closeFinal
    | with_reducible apply keeps_dropOut
    | (rw [rest_eq]; with_reducible refine keeps_rest ?_ rfl (SameSto.refl _) ⟨rfl, rfl⟩)
    | split
    | dsimp only

theorem keeps_execCompletionPost {b0 d0 : Bool} {s0 : State} {t : Nat} {cq : BitVec 16} {s : State} (hs0 : Keeps b0 d0 s0 s)
    {r0 : State} (e : execCompletionPost t cq s = .next r0) : Keeps b0 d0 s0 r0 := by
  unfold execCompletionPost at e
  refine keeps_event hs0 ?_ e
  clear hs0 e r0
  try dsimp only
  repeat' first
    | with_reducible assumption
    | with_reducible refine keeps_ite ?_ ?_
    | intro _
    | with_reducible apply keeps_writeCompletion
    | with_reducible apply keeps_afterPost
    | (rw [rest_eq]; with_reducible refine keeps_rest ?_ rfl (SameSto.refl _) ⟨rfl, rfl⟩)
    | split
    | dsimp only

theorem keeps_execCqCoalesceTimer {b0 d0 : Bool} {s0 : State} {t : Nat} {cq : BitVec 16} {s : State} (hs0 : Keeps b0 d0 s0 s)
    {r0 : State} (e : execCqCoalesceTimer t cq s = .next r0) : Keeps b0 d0 s0 r0 := by
  unfold execCqCoalesceTimer at e
  refine keeps_event hs0 ?_ e
  clear hs0 e r0
  try dsimp only
  repeat' first
    | with_reducible assumption
    | with_reducible refine keeps_ite ?_ ?_
    | intro _
    | with_reducible apply keeps_signalCq
    | (rw [rest_eq]; with_reducible refine keeps_rest ?_ rfl (SameSto.refl _) ⟨rfl, rfl⟩)
    | split

theorem keeps_execMailboxDoorbell {b0 d0 : Bool} {s0 : State} {t : Nat} {fn : Nat} {entry : List Word} {s : State} (hs0 : Keeps
    b0 d0 s0 s) {r0 : State} (e : execMailboxDoorbell t fn entry s = .next r0) : Keeps b0 d0 s0 r0 := by
  unfold execMailboxDoorbell at e
  refine keeps_event hs0 ?_ e
  clear hs0 e r0
  try dsimp only
  repeat' first
    | with_reducible assumption
    | with_reducible refine keeps_ite ?_ ?_
    | intro _
    | with_reducible apply keeps_modFunc
    | with_reducible apply keeps_done
    | (rw [rest_eq]; with_reducible refine keeps_rest ?_ rfl (SameSto.refl _) ⟨rfl, rfl⟩)
    | split
    | dsimp only

theorem keeps_execBar0BadAccess {b0 d0 : Bool} {s0 : State} {t : Nat} {fn : Nat} {write : Bool} {offset : Nat} {size : Nat} {s
    : State} (hs0 : Keeps b0 d0 s0 s) {r0 : State} (e : execBar0BadAccess t fn write offset size s = .next r0) : Keeps b0 d0 s0
        r0 := by
  unfold execBar0BadAccess at e
  refine keeps_event hs0 ?_ e
  clear hs0 e r0
  try dsimp only
  repeat' first
    | with_reducible assumption
    | with_reducible refine keeps_ite ?_ ?_
    | intro _
    | with_reducible apply keeps_rejectBar
    | with_reducible apply keeps_emit
    | split

theorem keeps_execBar2Access {b0 d0 : Bool} {s0 : State} {t : Nat} {fn : Nat} {write : Bool} {offset : Nat} {size : Nat} {data
    : Bytes} {s : State} (hs0 : Keeps b0 d0 s0 s) {r0 : State} (e : execBar2Access t fn write offset size data s = .next r0) :
        Keeps b0 d0 s0 r0 := by
  unfold execBar2Access at e
  refine keeps_event hs0 ?_ e
  clear hs0 e r0
  try dsimp only
  repeat' first
    | with_reducible assumption
    | with_reducible refine keeps_ite ?_ ?_
    | intro _
    | with_reducible apply keeps_rejectBar
    | with_reducible apply keeps_noteDiscard
    | with_reducible apply keeps_putKey
    | with_reducible apply keeps_emit
    | (rw [rest_eq]; with_reducible refine keeps_rest ?_ rfl (SameSto.refl _) ⟨rfl, rfl⟩)
    | split
    | dsimp only

theorem keeps_execRegisterWriteIgnored {b0 d0 : Bool} {s0 : State} {t : Nat} {fn offset : Nat} {value : DWord} {s : State}
    (h : Keeps b0 d0 s0 s) {r : State} (e : execRegisterWriteIgnored t fn offset value s = .next r) : Keeps b0 d0 s0 r := by
  cases e
  exact keeps_advance h

theorem keeps_execMsixVectorControlWrite {b0 d0 : Bool} {s0 : State} {t : Nat} {fn : Nat} {vector : Nat} {masked : Bool} {s :
    State} (hs0 : Keeps b0 d0 s0 s) {r0 : State} (e : execMsixVectorControlWrite t fn vector masked s = .next r0) : Keeps b0 d0
        s0 r0 := by
  unfold execMsixVectorControlWrite at e
  refine keeps_event hs0 ?_ e
  clear hs0 e r0
  try dsimp only
  repeat' first
    | with_reducible assumption
    | with_reducible refine keeps_ite ?_ ?_
    | intro _
    | with_reducible apply keeps_takeFree
    | with_reducible apply keeps_emit
    | (rw [rest_eq]; with_reducible refine keeps_rest ?_ rfl (SameSto.refl _) ⟨rfl, rfl⟩)
    | split
    | dsimp only

/-! Machine/PowerOps.lean. -/

theorem keeps_loseContents {b0 d0 : Bool} {s0 : State} {s : State} {u : Nat} (hs0 : Keeps b0 d0 s0 s) : Keeps b0 d0 s0
    (loseContents s u) := by
  unfold loseContents
  try dsimp only
  repeat' first
    | with_reducible assumption
    | intro _
    | (rw [rest_eq]; with_reducible refine keeps_rest ?_ rfl (SameSto.refl _) ⟨rfl, rfl⟩)
    | (rw [restMem_eq]; with_reducible refine keeps_restMem ?_ ?_ rfl (SameSto.refl _) ⟨rfl, rfl⟩)
    | (rw [memDev_eq]; with_reducible refine memOk_memDev ?_ ?_)
    | with_reducible apply wf_filter
    | with_reducible apply MemOk.dev
    | dsimp only

theorem keeps_startOne {b0 d0 : Bool} {s0 : State} {s : State} {u : Nat} {v : BitVec 2} {source : Nat} (hs0 : Keeps b0 d0 s0 s)
    : Keeps b0 d0 s0 (startOne s u v source) := by
  unfold startOne
  try dsimp only
  repeat' first
    | with_reducible assumption
    | with_reducible refine keeps_ite ?_ ?_
    | intro _
    | with_reducible apply keeps_cutForDrain
    | with_reducible apply keeps_setUnit
    | (rw [rest_eq]; with_reducible refine keeps_rest ?_ rfl (SameSto.refl _) ⟨rfl, rfl⟩)
    | split
    | dsimp only

theorem keeps_startUnit {b0 d0 : Bool} {s0 : State} {s : State} {u : Nat} {v : BitVec 2} {source : Nat} (hs0 : Keeps b0 d0 s0
    s) : Keeps b0 d0 s0 (startUnit s u v source) := by
  unfold startUnit
  try dsimp only
  repeat' first
    | with_reducible assumption
    | with_reducible refine keeps_ite ?_ ?_
    | intro _
    | with_reducible apply keeps_startOne
    | with_reducible apply keeps_foldl
    | split

theorem keeps_reloadEngine {b0 d0 : Bool} {s0 : State} {s : State} {e : Nat} (hs0 : Keeps b0 d0 s0 s) : Keeps b0 d0 s0
    (reloadEngine s e) := by
  unfold reloadEngine
  try dsimp only
  repeat' first
    | with_reducible assumption
    | intro _
    | with_reducible apply keeps_modEngine
    | (rw [rest_eq]; with_reducible refine keeps_rest ?_ rfl (SameSto.refl _) ⟨rfl, rfl⟩)
    | split

theorem keeps_enterUnit {b0 d0 : Bool} {s0 : State} {s : State} {u : Nat} {v : BitVec 2} (hs0 : Keeps b0 d0 s0 s) : Keeps b0 d0
    s0 (enterUnit s u v) := by
  unfold enterUnit
  try dsimp only
  repeat' first
    | with_reducible assumption
    | with_reducible refine keeps_ite ?_ ?_
    | intro _
    | with_reducible apply keeps_loseContents
    | with_reducible apply keeps_reloadEngine
    | with_reducible apply keeps_setUnit
    | (rw [rest_eq]; with_reducible refine keeps_rest ?_ rfl (SameSto.refl _) ⟨rfl, rfl⟩)
    | split
    | dsimp only

theorem keeps_huskPower {b0 d0 : Bool} {s0 : State} {s : State} {source : Nat} {from_ : Nat} {dest : Nat} {cause : Nat} (hs0 :
    Keeps b0 d0 s0 s) : Keeps b0 d0 s0 (huskPower s source from_ dest cause) := by
  unfold huskPower
  try dsimp only
  repeat' first
    | with_reducible assumption
    | with_reducible apply keeps_huskRequest

theorem keeps_endDrain {b0 d0 : Bool} {s0 : State} {s : State} {d : Drain} (hs0 : Keeps b0 d0 s0 s) : Keeps b0 d0 s0 (endDrain
    s d) := by
  unfold endDrain
  try dsimp only
  repeat' first
    | with_reducible assumption
    | with_reducible refine keeps_ite ?_ ?_
    | intro _
    | with_reducible apply keeps_enterUnit
    | with_reducible apply keeps_huskPower
    | (rw [rest_eq]; with_reducible refine keeps_rest ?_ rfl (SameSto.refl _) ⟨rfl, rfl⟩)
    | split
    | dsimp only

theorem keeps_setVdd {b0 d0 : Bool} {s0 : State} {s : State} {mv : Nat} (hs0 : Keeps b0 d0 s0 s) : Keeps b0 d0 s0 (setVdd s mv)
    := by
  unfold setVdd
  try dsimp only
  repeat' first
    | with_reducible assumption
    | with_reducible refine keeps_ite ?_ ?_
    | with_reducible apply keeps_emit
    | (rw [rest_eq]; with_reducible refine keeps_rest ?_ rfl (SameSto.refl _) ⟨rfl, rfl⟩)
    | split

theorem keeps_raiseVdd {b0 d0 : Bool} {s0 : State} {s : State} {v : Nat} (hs0 : Keeps b0 d0 s0 s) : Keeps b0 d0 s0 (raiseVdd s
    v) := by
  unfold raiseVdd
  try dsimp only
  repeat' first
    | with_reducible assumption
    | with_reducible refine keeps_ite ?_ ?_
    | with_reducible apply keeps_setVdd
    | split

theorem keeps_lowerVdd {b0 d0 : Bool} {s0 : State} {s : State} {v : Nat} (hs0 : Keeps b0 d0 s0 s) : Keeps b0 d0 s0 (lowerVdd s
    v) := by
  unfold lowerVdd
  try dsimp only
  repeat' first
    | with_reducible assumption
    | with_reducible refine keeps_ite ?_ ?_
    | with_reducible apply keeps_setVdd
    | split

theorem keeps_mainPowerOn {b0 d0 : Bool} {s0 : State} {s : State} (hs0 : Keeps b0 d0 s0 s) : Keeps b0 d0 s0 (mainPowerOn s) := by
  unfold mainPowerOn
  try dsimp only
  repeat' first
    | with_reducible assumption
    | with_reducible apply keeps_raiseVdd
    | (rw [rest_eq]; with_reducible refine keeps_rest ?_ rfl (SameSto.refl _) ⟨rfl, rfl⟩)

theorem keeps_startProfile {b0 d0 : Bool} {s0 : State} {s : State} {v : Nat} (hs0 : Keeps b0 d0 s0 s) : Keeps b0 d0 s0
    (startProfile s v) := by
  unfold startProfile
  try dsimp only
  repeat' first
    | with_reducible assumption
    | with_reducible refine keeps_ite ?_ ?_
    | intro _
    | with_reducible apply keeps_startUnit
    | with_reducible apply keeps_raiseVdd
    | with_reducible apply keeps_foldl
    | (rw [rest_eq]; with_reducible refine keeps_rest ?_ rfl (SameSto.refl _) ⟨rfl, rfl⟩)
    | split
    | dsimp only

theorem keeps_standbySlices {b0 d0 : Bool} {s0 : State} {s : State} (hs0 : Keeps b0 d0 s0 s) : Keeps b0 d0 s0 (standbySlices s)
    := by
  unfold standbySlices
  try dsimp only
  repeat' first
    | with_reducible assumption
    | with_reducible refine keeps_ite ?_ ?_
    | intro _
    | with_reducible apply keeps_startUnit
    | with_reducible apply keeps_foldl
    | split

theorem keeps_leaveSelfRefresh {b0 d0 : Bool} {s0 : State} {s : State} (hs0 : Keeps b0 d0 s0 s) : Keeps b0 d0 s0
    (leaveSelfRefresh s) := by
  unfold leaveSelfRefresh
  try dsimp only
  repeat' first
    | with_reducible assumption
    | with_reducible refine keeps_ite ?_ ?_
    | intro _
    | (rw [rest_eq]; with_reducible refine keeps_rest ?_ rfl (SameSto.refl _) ⟨rfl, rfl⟩)
    | split

theorem keeps_endProfile {b0 d0 : Bool} {s0 : State} {s : State} {v : Nat} (hs0 : Keeps b0 d0 s0 s) : Keeps b0 d0 s0
    (endProfile s v) := by
  unfold endProfile
  try dsimp only
  repeat' first
    | with_reducible assumption
    | with_reducible refine keeps_ite ?_ ?_
    | intro _
    | with_reducible apply keeps_reloadEngine
    | with_reducible apply keeps_huskPower
    | with_reducible apply keeps_lowerVdd
    | with_reducible apply keeps_leaveSelfRefresh
    | with_reducible apply keeps_setUnit
    | with_reducible apply keeps_foldl
    | with_reducible apply keeps_foldl_fst
    | (rw [rest_eq]; with_reducible refine keeps_rest ?_ rfl (SameSto.refl _) ⟨rfl, rfl⟩)
    | split
    | dsimp only

end Sys2Proof.Laws
end

