-- ==== Sys2Proof/Laws/Keeps3.lean ====
section
/-!
SUPPORT. Laws/Keeps3.lean: every operation of Machine/CanOps.lean, Machine/SafetyOps.lean, Machine/PeerOps.lean,
Machine/Dma.lean, Machine/Field.lean, Machine/ServeOps.lean keeps what Laws/Keeps.lean says.
-/
namespace Sys2Proof.Laws

open Sys2Proof.Machine

/-! Machine/CanOps.lean. -/

theorem keeps_modCan {b0 d0 : Bool} {s0 : State} {s : State} {n : Nat} {f : CanPort → CanPort} (hs0 : Keeps b0 d0 s0 s) : Keeps
    b0 d0 s0 (modCan s n f) := by
  unfold modCan
  try dsimp only
  repeat' first
    | with_reducible assumption
    | (rw [rest_eq]; with_reducible refine keeps_rest ?_ rfl (SameSto.refl _) ⟨rfl, rfl⟩)

theorem keeps_portWrite {b0 d0 : Bool} {s0 : State} {s : State} {src : Nat} {a : Nat} {b : Bytes} (hs0 : Keeps b0 d0 s0 s) :
    Keeps b0 d0 s0 (portWrite s src a b) := by
  unfold portWrite
  try dsimp only
  repeat' first
    | with_reducible assumption
    | with_reducible apply keeps_noteDiscard
    | with_reducible apply keeps_putKey
    | (rw [rest_eq]; with_reducible refine keeps_rest ?_ rfl (SameSto.refl _) ⟨rfl, rfl⟩)
    | split

theorem keeps_ringPut {b0 d0 : Bool} {s0 : State} {s : State} {n : Nat} {r : Bytes} (hs0 : Keeps b0 d0 s0 s) : Keeps b0 d0 s0
    (ringPut s n r) := by
  unfold ringPut
  try dsimp only
  repeat' first
    | with_reducible assumption
    | intro _
    | with_reducible apply keeps_modCan
    | with_reducible apply keeps_portWrite
    | (rw [rest_eq]; with_reducible refine keeps_rest ?_ rfl (SameSto.refl _) ⟨rfl, rfl⟩)
    | dsimp only

theorem keeps_keptOut {b0 d0 : Bool} {s0 : State} {s : State} (hs0 : Keeps b0 d0 s0 s) : Keeps b0 d0 s0 (keptOut s) := by
  unfold keptOut
  try dsimp only
  repeat' first
    | with_reducible assumption
    | intro _
    | with_reducible apply keeps_modCan
    | with_reducible apply keeps_ringPut
    | with_reducible apply keeps_foldl
    | (rw [rest_eq]; with_reducible refine keeps_rest ?_ rfl (SameSto.refl _) ⟨rfl, rfl⟩)
    | dsimp only

/-! Machine/SafetyOps.lean. -/

theorem keeps_modGroup {b0 d0 : Bool} {s0 : State} {s : State} {g : Nat} {f : Group → Group} (hs0 : Keeps b0 d0 s0 s) : Keeps
    b0 d0 s0 (modGroup s g f) := by
  unfold modGroup
  try dsimp only
  repeat' first
    | with_reducible assumption
    | (rw [rest_eq]; with_reducible refine keeps_rest ?_ rfl (SameSto.refl _) ⟨rfl, rfl⟩)

theorem keeps_mapChannels {b0 d0 : Bool} {s0 : State} {s : State} {f : Nat → Channel → Channel} (hs0 : Keeps b0 d0 s0 s) :
    Keeps b0 d0 s0 (mapChannels s f) := by
  unfold mapChannels
  try dsimp only
  repeat' first
    | with_reducible assumption
    | intro _
    | (rw [rest_eq]; with_reducible refine keeps_rest ?_ rfl (SameSto.refl _) ⟨rfl, rfl⟩)

theorem keeps_enterStop {b0 d0 : Bool} {s0 : State} {s : State} {g : Nat} (hs0 : Keeps b0 d0 s0 s) : Keeps b0 d0 s0 (enterStop
    s g) := by
  unfold enterStop
  try dsimp only
  repeat' first
    | with_reducible assumption
    | with_reducible refine keeps_ite ?_ ?_
    | intro _
    | with_reducible apply keeps_modGroup
    | with_reducible apply keeps_mapChannels
    | (rw [rest_eq]; with_reducible refine keeps_rest ?_ rfl (SameSto.refl _) ⟨rfl, rfl⟩)
    | split
    | dsimp only

theorem keeps_allStop {b0 d0 : Bool} {s0 : State} {s : State} (hs0 : Keeps b0 d0 s0 s) : Keeps b0 d0 s0 (allStop s) := by
  unfold allStop
  try dsimp only
  repeat' first
    | with_reducible assumption
    | intro _
    | with_reducible apply keeps_enterStop
    | with_reducible apply keeps_foldl

theorem keeps_leaveStop {b0 d0 : Bool} {s0 : State} {s : State} {g : Nat} (hs0 : Keeps b0 d0 s0 s) : Keeps b0 d0 s0 (leaveStop
    s g) := by
  unfold leaveStop
  try dsimp only
  repeat' first
    | with_reducible assumption
    | with_reducible refine keeps_ite ?_ ?_
    | intro _
    | with_reducible apply keeps_modGroup
    | with_reducible apply keeps_mapChannels
    | (rw [rest_eq]; with_reducible refine keeps_rest ?_ rfl (SameSto.refl _) ⟨rfl, rfl⟩)
    | split
    | dsimp only

theorem keeps_stoDown {b0 d0 : Bool} {s0 s : State} (h : Keeps b0 d0 s0 s) : Keeps b0 d0 s0 (stoDown s) := by
  unfold stoDown
  refine keeps_mapChannels (h.trans ⟨rfl, id, ?_, fun _ => rfl, fun _ => Onward.refl _, fun _ => rfl⟩)
  intro _ _
  exact ⟨rfl, rfl, rfl, rfl, rfl⟩

theorem keeps_assertSto {b0 d0 : Bool} {s0 s : State} (h : Keeps b0 d0 s0 s) : Keeps b0 d0 s0 (assertSto s) := by
  unfold assertSto
  split
  · rw [rest_eq]
    exact keeps_rest h rfl ⟨rfl, rfl, rfl, rfl, rfl, rfl⟩ ⟨rfl, rfl⟩
  · split
    · exact keeps_stoDown h
    · next hn _ =>
      refine h.trans ⟨rfl, id, ?_, id, fun _ => Onward.refl _, fun _ => rfl⟩
      intro _ hh
      have hh' : s.safety.stoHeld = true := hh
      simp [stoAsserted, hh'] at hn

theorem keeps_stoAtRest {b0 d0 : Bool} {s0 : State} {s : State} (hs0 : Keeps b0 d0 s0 s) : Keeps b0 d0 s0 (stoAtRest s) := by
  unfold stoAtRest
  try dsimp only
  repeat' first
    | with_reducible assumption
    | with_reducible refine keeps_ite ?_ ?_
    | intro _
    | with_reducible apply keeps_assertSto
    | split
    | dsimp only

theorem keeps_stoLater {b0 d0 : Bool} {s0 : State} {s : State} {cause : StoCause} {since : Nat} (hs0 : Keeps b0 d0 s0 s) :
    Keeps b0 d0 s0 (stoLater s cause since) := by
  unfold stoLater
  try dsimp only
  repeat' first
    | with_reducible assumption
    | with_reducible refine keeps_ite ?_ ?_
    | with_reducible apply keeps_stoAtRest
    | (rw [rest_eq]; with_reducible refine keeps_rest ?_ rfl (SameSto.refl _) ⟨rfl, rfl⟩)
    | (rw [rest_eq]; with_reducible refine keeps_rest ?_ rfl ⟨rfl, rfl, rfl, rfl, rfl, rfl⟩ ⟨rfl, rfl⟩)
    | split

theorem keeps_mainDown {b0 d0 : Bool} {s0 : State} {s : State} (hs0 : Keeps b0 d0 s0 s) : Keeps b0 d0 s0 (mainDown s) := by
  unfold mainDown
  try dsimp only
  repeat' first
    | with_reducible assumption
    | with_reducible refine keeps_ite ?_ ?_
    | intro _
    | with_reducible apply keeps_releasePins
    | with_reducible apply keeps_done
    | with_reducible apply keeps_reloadEngine
    | with_reducible apply keeps_foldl
    | (rw [rest_eq]; with_reducible refine keeps_rest ?_ rfl (SameSto.refl _) ⟨rfl, rfl⟩)
    | (rw [rest_eq]; with_reducible refine keeps_rest ?_ rfl ⟨rfl, rfl, rfl, rfl, rfl, rfl⟩ ⟨rfl, rfl⟩)
    | split
    | dsimp only

theorem keeps_discardMain {b0 d0 : Bool} {s0 : State} {s : State} (hs0 : Keeps b0 d0 s0 s) : Keeps b0 d0 s0 (discardMain s).2
    := by
  unfold discardMain
  try dsimp only
  repeat' first
    | with_reducible assumption
    | intro _
    | with_reducible apply keeps_releaseEtch
    | with_reducible apply keeps_restoreFallback
    | with_reducible apply keeps_foldl
    | with_reducible apply keeps_foldl_fst
    | dsimp only
theorem keeps_discardMain_eq {b0 d0 : Bool} {s0 : State} {s : State} (hs0 : Keeps b0 d0 s0 s) {r0 : State} {y0 : Nat} (e :
    discardMain s = (y0, r0)) : Keeps b0 d0 s0 r0 := by
  have k := keeps_discardMain (s := s) hs0
  rw [e] at k
  exact k

theorem keeps_markLive {b0 d0 : Bool} {s0 : State} {s : State} (hs0 : Keeps b0 d0 s0 s) : Keeps b0 d0 s0 (markLive s) := by
  unfold markLive
  try dsimp only
  repeat' first
    | with_reducible assumption
    | intro _
    | (rw [rest_eq]; with_reducible refine keeps_rest ?_ rfl (SameSto.refl _) ⟨rfl, rfl⟩)

theorem keeps_enterSafe {b0 d0 : Bool} {s0 s : State} {source : Nat} {record : State → Nat → State} (h : Keeps b0 d0 s0 s)
    (hr : ∀ x n, Keeps b0 d0 s0 x → Keeps b0 d0 s0 (record x n)) : Keeps b0 d0 s0 (enterSafe s source record) := by
  unfold enterSafe
  dsimp only
  rw [rest_eq]
  refine keeps_rest ?_ rfl ⟨rfl, rfl, rfl, rfl, rfl, rfl⟩ ⟨rfl, rfl⟩
  exact keeps_mainDown (hr _ _ (keeps_discardMain (keeps_allStop (keeps_markLive h))))

theorem keeps_huskSafeState {b0 d0 : Bool} {s0 : State} {source : Nat} {s : State} {n : Nat} (hs0 : Keeps b0 d0 s0 s) : Keeps
    b0 d0 s0 (huskSafeState source s n) := by
  unfold huskSafeState
  try dsimp only
  repeat' first
    | with_reducible assumption
    | with_reducible apply keeps_huskRequest

theorem keeps_safeTrigger {b0 d0 : Bool} {s0 : State} {s : State} {source : Nat} (hs0 : Keeps b0 d0 s0 s) : Keeps b0 d0 s0
    (safeTrigger s source) := by
  unfold safeTrigger
  try dsimp only
  repeat' first
    | with_reducible assumption
    | with_reducible refine keeps_ite ?_ ?_
    | with_reducible refine keeps_enterSafe ?_ ?_
    | with_reducible apply keeps_huskSafeState
    | split

theorem keeps_endReboot {b0 d0 : Bool} {s0 : State} {s : State} (hs0 : Keeps b0 d0 s0 s) : Keeps b0 d0 s0 (endReboot s) := by
  unfold endReboot
  try dsimp only
  repeat' first
    | with_reducible assumption
    | with_reducible refine keeps_ite ?_ ?_
    | with_reducible apply keeps_done
    | (rw [rest_eq]; with_reducible refine keeps_rest ?_ rfl (SameSto.refl _) ⟨rfl, rfl⟩)
    | split
    | dsimp only

theorem keeps_finishRestart {b0 d0 : Bool} {s0 : State} {s : State} (hs0 : Keeps b0 d0 s0 s) : Keeps b0 d0 s0 (finishRestart s)
    := by
  unfold finishRestart
  try dsimp only
  repeat' first
    | with_reducible assumption
    | intro _
    | with_reducible apply keeps_keptOut
    | with_reducible apply keeps_mapSessions
    | with_reducible apply keeps_deliverEvents
    | with_reducible apply keeps_endReboot
    | with_reducible apply keeps_foldl
    | (rw [rest_eq]; with_reducible refine keeps_rest ?_ rfl (SameSto.refl _) ⟨rfl, rfl⟩)
    | (rw [rest_eq]; with_reducible refine keeps_rest ?_ rfl ⟨rfl, rfl, rfl, rfl, rfl, rfl⟩ ⟨rfl, rfl⟩)
    | dsimp only

theorem keeps_mainLost {b0 d0 : Bool} {s0 s : State} {keepShell : Bool} (h : Keeps b0 d0 s0 s) : Keeps b0 d0 s0 (mainLost s
    keepShell) := by
  unfold mainLost
  rw [restMem_eq]
  refine keeps_restMem (keeps_mainDown h) (fun hm => ⟨rfl, hm.2⟩) ?_ (SameSto.refl _) ⟨rfl, rfl⟩
  rfl

theorem keeps_shellFaultPath {b0 d0 : Bool} {s0 s : State} (h : Keeps b0 d0 s0 s) : Keeps b0 d0 s0 (shellFaultPath s) := by
  unfold shellFaultPath
  split
  · exact h
  · have k := keeps_mainDown (keeps_discardMain (keeps_allStop (keeps_markLive h)))
    generalize mainDown (discardMain (allStop (markLive s))).2 = x at k
    refine keeps_stoLater ?_
    rw [rest_eq]
    exact keeps_rest k rfl ⟨rfl, rfl, rfl, rfl, rfl, rfl⟩ ⟨rfl, rfl⟩

theorem keeps_supplyLost {b0 d0 : Bool} {s0 : State} {s : State} (hs0 : Keeps b0 d0 s0 s) : Keeps b0 d0 s0 (supplyLost s) := by
  unfold supplyLost
  try dsimp only
  repeat' first
    | with_reducible assumption
    | with_reducible refine keeps_ite ?_ ?_
    | with_reducible apply keeps_safeTrigger
    | with_reducible apply keeps_mainLost
    | split

theorem keeps_uncorrectableAt {b0 d0 : Bool} {s0 : State} {s : State} {k : Nat} {source : Nat} (hs0 : Keeps b0 d0 s0 s) : Keeps
    b0 d0 s0 (uncorrectableAt s k source) := by
  unfold uncorrectableAt
  try dsimp only
  repeat' first
    | with_reducible assumption
    | with_reducible refine keeps_ite ?_ ?_
    | with_reducible apply keeps_noteUncorrectable
    | with_reducible apply keeps_safeTrigger
    | split
    | dsimp only

/-! Machine/PeerOps.lean. -/

theorem keeps_modPeer {b0 d0 : Bool} {s0 : State} {s : State} {f : Peer → Peer} (hs0 : Keeps b0 d0 s0 s) : Keeps b0 d0 s0
    (modPeer s f) := by
  unfold modPeer
  try dsimp only
  repeat' first
    | with_reducible assumption
    | (rw [rest_eq]; with_reducible refine keeps_rest ?_ rfl (SameSto.refl _) ⟨rfl, rfl⟩)

theorem keeps_modPort {b0 d0 : Bool} {s0 : State} {s : State} {p : Nat} {f : PeerPort → PeerPort} (hs0 : Keeps b0 d0 s0 s) :
    Keeps b0 d0 s0 (modPort s p f) := by
  unfold modPort
  try dsimp only
  repeat' first
    | with_reducible assumption
    | intro _
    | with_reducible apply keeps_modPeer
    | (rw [rest_eq]; with_reducible refine keeps_rest ?_ rfl (SameSto.refl _) ⟨rfl, rfl⟩)

theorem keeps_setRole {b0 d0 : Bool} {s0 : State} {s : State} (hs0 : Keeps b0 d0 s0 s) : Keeps b0 d0 s0 (setRole s) := by
  unfold setRole
  try dsimp only
  repeat' first
    | with_reducible assumption
    | with_reducible refine keeps_ite ?_ ?_
    | (rw [rest_eq]; with_reducible refine keeps_rest ?_ rfl (SameSto.refl _) ⟨rfl, rfl⟩)
    | split
    | dsimp only

theorem keeps_sendAt {b0 d0 : Bool} {s0 : State} {s : State} {p : Nat} {h : List Word} {b : Bytes} (hs0 : Keeps b0 d0 s0 s) :
    Keeps b0 d0 s0 (sendAt s p h b) := by
  unfold sendAt
  try dsimp only
  repeat' first
    | with_reducible assumption
    | intro _
    | with_reducible apply keeps_emit
    | with_reducible apply keeps_modPort
    | (rw [rest_eq]; with_reducible refine keeps_rest ?_ rfl (SameSto.refl _) ⟨rfl, rfl⟩)

theorem keeps_nextHeader {b0 d0 : Bool} {s0 : State} {s : State} {m : Message} (hs0 : Keeps b0 d0 s0 s) : Keeps b0 d0 s0
    (nextHeader s m).2 := by
  unfold nextHeader
  try dsimp only
  repeat' first
    | with_reducible assumption
    | intro _
    | with_reducible apply keeps_modPeer
    | (rw [rest_eq]; with_reducible refine keeps_rest ?_ rfl (SameSto.refl _) ⟨rfl, rfl⟩)
    | dsimp only
theorem keeps_nextHeader_eq {b0 d0 : Bool} {s0 : State} {s : State} {m : Message} (hs0 : Keeps b0 d0 s0 s) {r0 : State} {y0 :
    List Word} (e : nextHeader s m = (y0, r0)) : Keeps b0 d0 s0 r0 := by
  have k := keeps_nextHeader (s := s) (m := m) hs0
  rw [e] at k
  exact k

theorem keeps_sendMessage {b0 d0 : Bool} {s0 : State} {s : State} {m : Message} (hs0 : Keeps b0 d0 s0 s) : Keeps b0 d0 s0
    (sendMessage s m) := by
  unfold sendMessage
  try dsimp only
  repeat' first
    | with_reducible assumption
    | with_reducible apply keeps_sendAt
    | with_reducible apply keeps_nextHeader
    | with_reducible refine keeps_nextHeader_eq ?_ (by assumption)
    | dsimp only

theorem keeps_flitHeard {b0 d0 : Bool} {s0 : State} {s : State} {p : Nat} (hs0 : Keeps b0 d0 s0 s) : Keeps b0 d0 s0 (flitHeard
    s p) := by
  unfold flitHeard
  try dsimp only
  repeat' first
    | with_reducible assumption
    | intro _
    | with_reducible apply keeps_modPort
    | (rw [rest_eq]; with_reducible refine keeps_rest ?_ rfl (SameSto.refl _) ⟨rfl, rfl⟩)

theorem keeps_senderHeard {b0 d0 : Bool} {s0 : State} {s : State} {p : Nat} {h : List Word} (hs0 : Keeps b0 d0 s0 s) : Keeps b0
    d0 s0 (senderHeard s p h) := by
  unfold senderHeard
  try dsimp only
  repeat' first
    | with_reducible assumption
    | with_reducible refine keeps_ite ?_ ?_
    | intro _
    | with_reducible apply keeps_modPeer
    | with_reducible apply keeps_modPort
    | with_reducible apply keeps_setRole
    | (rw [rest_eq]; with_reducible refine keeps_rest ?_ rfl (SameSto.refl _) ⟨rfl, rfl⟩)
    | split
    | dsimp only

theorem keeps_receive {b0 d0 : Bool} {s0 s : State} {p : Nat} {h : List Word} {b : Bytes} {type : Nat} {body : State → State}
    (hs : Keeps b0 d0 s0 s)
    (hb : ∀ x, Keeps b0 d0 s0 x → Keeps b0 d0 s0 (body x)) : Keeps b0 d0 s0 (receive s p h b type body) := by
  unfold receive
  dsimp only
  repeat' first
    | assumption
    | (with_reducible apply keeps_modPort)
    | (with_reducible apply keeps_senderHeard)
    | (with_reducible apply keeps_flitHeard)
    | (with_reducible apply hb)
    | split

theorem keeps_closePeerWindows {b0 d0 : Bool} {s0 : State} {s : State} {p : PeerWindow → Bool} (hs0 : Keeps b0 d0 s0 s) : Keeps
    b0 d0 s0 (closePeerWindows s p) := by
  unfold closePeerWindows
  try dsimp only
  repeat' first
    | with_reducible assumption
    | intro _
    | with_reducible apply keeps_modPeer
    | (rw [rest_eq]; with_reducible refine keeps_rest ?_ rfl (SameSto.refl _) ⟨rfl, rfl⟩)

theorem keeps_keepStatus {b0 d0 : Bool} {s0 : State} {s : State} {d : Nat} {seq : Word} {st : Status} (hs0 : Keeps b0 d0 s0 s)
    : Keeps b0 d0 s0 (keepStatus s d seq st) := by
  unfold keepStatus
  try dsimp only
  repeat' first
    | with_reducible assumption
    | intro _
    | with_reducible apply keeps_modPeer
    | (rw [rest_eq]; with_reducible refine keeps_rest ?_ rfl (SameSto.refl _) ⟨rfl, rfl⟩)

theorem keeps_dropPeerTransfer {b0 d0 : Bool} {s0 : State} {s : State} {id : BitVec 16} (hs0 : Keeps b0 d0 s0 s) : Keeps b0 d0
    s0 (dropPeerTransfer s id) := by
  unfold dropPeerTransfer
  try dsimp only
  repeat' first
    | with_reducible assumption
    | intro _
    | with_reducible apply keeps_modPeer
    | (rw [rest_eq]; with_reducible refine keeps_rest ?_ rfl (SameSto.refl _) ⟨rfl, rfl⟩)

theorem keeps_answered {b0 d0 : Bool} {s0 : State} {s : State} {m : PeerMessage} {st : Status} (hs0 : Keeps b0 d0 s0 s) : Keeps
    b0 d0 s0 (answered s m st) := by
  unfold answered
  try dsimp only
  repeat' first
    | with_reducible assumption
    | with_reducible refine keeps_ite ?_ ?_
    | intro _
    | with_reducible apply keeps_done
    | with_reducible apply keeps_modPeer
    | with_reducible apply keeps_dropPeerTransfer
    | (rw [rest_eq]; with_reducible refine keeps_rest ?_ rfl (SameSto.refl _) ⟨rfl, rfl⟩)
    | split
    | dsimp only

theorem keeps_sendPart {b0 d0 : Bool} {s0 : State} {s : State} {x : PeerTransfer} {device : Nat} {window : Nat} {remote : Nat}
    {o : Nat} {n : Nat} (hs0 : Keeps b0 d0 s0 s) : Keeps b0 d0 s0 (sendPart s x device window remote o n) := by
  unfold sendPart
  try dsimp only
  repeat' first
    | with_reducible assumption
    | with_reducible refine keeps_ite ?_ ?_
    | intro _
    | with_reducible apply keeps_modPeer
    | with_reducible apply keeps_sendAt
    | with_reducible apply keeps_nextHeader
    | with_reducible refine keeps_nextHeader_eq ?_ (by assumption)
    | (rw [rest_eq]; with_reducible refine keeps_rest ?_ rfl (SameSto.refl _) ⟨rfl, rfl⟩)
    | split
    | dsimp only

theorem keeps_startPeer {b0 d0 : Bool} {s0 : State} {s : State} {c : Cmd} {write : Bool} {device : Nat} {window : Nat} {remote
    : Nat} {lw : Word} {lo : Nat} {length : Nat} (hs0 : Keeps b0 d0 s0 s) : Keeps b0 d0 s0 (startPeer s c write device window
        remote lw lo length) := by
  unfold startPeer
  try dsimp only
  repeat' first
    | with_reducible assumption
    | with_reducible refine keeps_ite ?_ ?_
    | intro _
    | with_reducible apply keeps_done
    | with_reducible refine keeps_orFail ?_ ?_
    | with_reducible apply keeps_modPeer
    | with_reducible apply keeps_sendPart
    | with_reducible apply keeps_foldl
    | (rw [rest_eq]; with_reducible refine keeps_rest ?_ rfl (SameSto.refl _) ⟨rfl, rfl⟩)
    | split
    | dsimp only

/-! Machine/Dma.lean. -/

theorem keeps_execMemAlloc {b0 d0 : Bool} {s0 : State} {t : Nat} {c : Cmd} {session : Word} {bytes : DWord} {cls : BitVec 4}
    {alignLog2 : BitVec 8} {s : State} (hs0 : Keeps b0 d0 s0 s) {r0 : State} (e : execMemAlloc t c session bytes cls alignLog2
        s = .next r0) : Keeps b0 d0 s0 r0 := by
  unfold execMemAlloc at e
  refine keeps_host hs0 ?_ e
  clear hs0 e r0
  try dsimp only
  repeat' first
    | with_reducible assumption
    | with_reducible refine keeps_ite ?_ ?_
    | intro _
    | with_reducible apply keeps_takeFree
    | with_reducible apply keeps_done
    | (rw [rest_eq]; with_reducible refine keeps_rest ?_ rfl (SameSto.refl _) ⟨rfl, rfl⟩)
    | split
    | dsimp only

theorem keeps_execMemFree {b0 d0 : Bool} {s0 : State} {t : Nat} {c : Cmd} {addr : DWord} {s : State} (hs0 : Keeps b0 d0 s0 s)
    {r0 : State} (e : execMemFree t c addr s = .next r0) : Keeps b0 d0 s0 r0 := by
  unfold execMemFree at e
  refine keeps_host hs0 ?_ e
  clear hs0 e r0
  try dsimp only
  repeat' first
    | with_reducible assumption
    | with_reducible refine keeps_ite ?_ ?_
    | intro _
    | with_reducible apply keeps_cutTransfers
    | with_reducible apply keeps_done
    | with_reducible apply keeps_closePeerWindows
    | (rw [rest_eq]; with_reducible refine keeps_rest ?_ rfl (SameSto.refl _) ⟨rfl, rfl⟩)
    | split
    | dsimp only

theorem keeps_execWindowOpen {b0 d0 : Bool} {s0 : State} {t : Nat} {c : Cmd} {base : DWord} {length : DWord} {isHost : Bool}
    {bar2 : Bool} {writable : Bool} {s : State} (hs0 : Keeps b0 d0 s0 s) {r0 : State} (e : execWindowOpen t c base length
        isHost bar2 writable s = .next r0) : Keeps b0 d0 s0 r0 := by
  unfold execWindowOpen at e
  refine keeps_host hs0 ?_ e
  clear hs0 e r0
  try dsimp only
  repeat' first
    | with_reducible assumption
    | intro _
    | with_reducible apply keeps_takeFree
    | with_reducible apply keeps_done
    | with_reducible refine keeps_orFail ?_ ?_
    | (rw [rest_eq]; with_reducible refine keeps_rest ?_ rfl (SameSto.refl _) ⟨rfl, rfl⟩)
    | split
    | dsimp only

theorem keeps_execWindowClose {b0 d0 : Bool} {s0 : State} {t : Nat} {c : Cmd} {window : Word} {s : State} (hs0 : Keeps b0 d0 s0
    s) {r0 : State} (e : execWindowClose t c window s = .next r0) : Keeps b0 d0 s0 r0 := by
  unfold execWindowClose at e
  refine keeps_host hs0 ?_ e
  clear hs0 e r0
  try dsimp only
  repeat' first
    | with_reducible assumption
    | with_reducible refine keeps_ite ?_ ?_
    | intro _
    | with_reducible apply keeps_cutTransfers
    | with_reducible apply keeps_done
    | (rw [rest_eq]; with_reducible refine keeps_rest ?_ rfl (SameSto.refl _) ⟨rfl, rfl⟩)
    | split
    | dsimp only

theorem keeps_startTransfer {b0 d0 : Bool} {s0 : State} {s : State} {c : Cmd} {kind : TransferKind} {length : Nat} (hs0 : Keeps
    b0 d0 s0 s) : Keeps b0 d0 s0 (startTransfer s c kind length) := by
  unfold startTransfer
  try dsimp only
  repeat' first
    | with_reducible assumption
    | with_reducible apply keeps_done
    | with_reducible apply keeps_clearWeights
    | (rw [rest_eq]; with_reducible refine keeps_rest ?_ rfl (SameSto.refl _) ⟨rfl, rfl⟩)
    | split
    | dsimp only

theorem keeps_execDmaCopy {b0 d0 : Bool} {s0 : State} {t : Nat} {c : Cmd} {src : Word} {dst : Word} {srcOff : DWord} {dstOff :
    DWord} {length : DWord} {qos : BitVec 2} {s : State} (hs0 : Keeps b0 d0 s0 s) {r0 : State} (e : execDmaCopy t c src dst
        srcOff dstOff length qos s = .next r0) : Keeps b0 d0 s0 r0 := by
  unfold execDmaCopy at e
  refine keeps_host hs0 ?_ e
  clear hs0 e r0
  try dsimp only
  repeat' first
    | with_reducible assumption
    | with_reducible refine keeps_ite ?_ ?_
    | intro _
    | with_reducible apply keeps_startTransfer
    | with_reducible apply keeps_done
    | with_reducible refine keeps_orFail ?_ ?_
    | split
    | dsimp only

theorem keeps_execDmaFill {b0 d0 : Bool} {s0 : State} {t : Nat} {c : Cmd} {window : Word} {offset : DWord} {length : DWord}
    {pattern : Word} {s : State} (hs0 : Keeps b0 d0 s0 s) {r0 : State} (e : execDmaFill t c window offset length pattern s =
        .next r0) : Keeps b0 d0 s0 r0 := by
  unfold execDmaFill at e
  refine keeps_host hs0 ?_ e
  clear hs0 e r0
  try dsimp only
  repeat' first
    | with_reducible assumption
    | intro _
    | with_reducible apply keeps_startTransfer
    | with_reducible refine keeps_orFail ?_ ?_

theorem keeps_execDmaCrc {b0 d0 : Bool} {s0 : State} {t : Nat} {c : Cmd} {window : Word} {offset : DWord} {length : DWord} {s :
    State} (hs0 : Keeps b0 d0 s0 s) {r0 : State} (e : execDmaCrc t c window offset length s = .next r0) : Keeps b0 d0 s0 r0 := by
  unfold execDmaCrc at e
  refine keeps_host hs0 ?_ e
  clear hs0 e r0
  try dsimp only
  repeat' first
    | with_reducible assumption
    | intro _
    | with_reducible apply keeps_startTransfer
    | with_reducible refine keeps_orFail ?_ ?_

theorem keeps_landAll {b0 d0 : Bool} {s0 : State} {s : State} {x : Transfer} (hs0 : Keeps b0 d0 s0 s) : Keeps b0 d0 s0 (landAll
    s x) := by
  unfold landAll
  try dsimp only
  repeat' first
    | with_reducible assumption
    | with_reducible apply keeps_dropTransfer
    | with_reducible apply keeps_endEarly
    | with_reducible apply keeps_done
    | with_reducible apply keeps_putKey
    | (rw [rest_eq]; with_reducible refine keeps_rest ?_ rfl (SameSto.refl _) ⟨rfl, rfl⟩)
    | split

theorem keeps_missTransfer {b0 d0 : Bool} {s0 : State} {s : State} {x : Transfer} (hs0 : Keeps b0 d0 s0 s) : Keeps b0 d0 s0
    (missTransfer s x) := by
  unfold missTransfer
  try dsimp only
  repeat' first
    | with_reducible assumption
    | with_reducible refine keeps_ite ?_ ?_
    | intro _
    | with_reducible apply keeps_endEarly
    | with_reducible apply keeps_charge
    | (rw [rest_eq]; with_reducible refine keeps_rest ?_ rfl (SameSto.refl _) ⟨rfl, rfl⟩)
    | split

theorem keeps_execDmaTransferComplete {b0 d0 : Bool} {s0 : State} {t : Nat} {cmd : CmdKey} {outcome : DmaEnd} {s : State} (hs0
    : Keeps b0 d0 s0 s) {r0 : State} (e : execDmaTransferComplete t cmd outcome s = .next r0) : Keeps b0 d0 s0 r0 := by
  unfold execDmaTransferComplete at e
  refine keeps_event hs0 ?_ e
  clear hs0 e r0
  try dsimp only
  repeat' first
    | with_reducible assumption
    | with_reducible refine keeps_ite ?_ ?_
    | intro _
    | with_reducible apply keeps_landAll
    | with_reducible apply keeps_missTransfer
    | with_reducible apply keeps_dropTransfer
    | with_reducible apply keeps_endEarly
    | with_reducible apply keeps_countRereads
    | with_reducible apply keeps_done
    | with_reducible apply keeps_uncorrectableAt
    | (rw [rest_eq]; with_reducible refine keeps_rest ?_ rfl (SameSto.refl _) ⟨rfl, rfl⟩)
    | split

theorem keeps_execHostDmaCompletionTimeout {b0 d0 : Bool} {s0 : State} {t : Nat} {cmd : CmdKey} {s : State} (hs0 : Keeps b0 d0
    s0 s) {r0 : State} (e : execHostDmaCompletionTimeout t cmd s = .next r0) : Keeps b0 d0 s0 r0 := by
  unfold execHostDmaCompletionTimeout at e
  refine keeps_event hs0 ?_ e
  clear hs0 e r0
  try dsimp only
  repeat' first
    | with_reducible assumption
    | with_reducible refine keeps_ite ?_ ?_
    | intro _
    | with_reducible apply keeps_landPrefix
    | with_reducible apply keeps_dropTransfer
    | with_reducible apply keeps_done
    | (rw [rest_eq]; with_reducible refine keeps_rest ?_ rfl (SameSto.refl _) ⟨rfl, rfl⟩)
    | split

theorem keeps_fenceSlice {b0 d0 : Bool} {s0 : State} {s : State} {i : Nat} {cause : Nat} (hs0 : Keeps b0 d0 s0 s) : Keeps b0 d0
    s0 (fenceSlice s i cause) := by
  unfold fenceSlice
  try dsimp only
  repeat' first
    | with_reducible assumption
    | with_reducible refine keeps_ite ?_ ?_
    | with_reducible apply keeps_huskFault
    | (rw [rest_eq]; with_reducible refine keeps_rest ?_ rfl (SameSto.refl _) ⟨rfl, rfl⟩)
    | split

theorem keeps_execSliceFence {b0 d0 : Bool} {s0 : State} {t : Nat} {slice : Nat} {s : State} (hs0 : Keeps b0 d0 s0 s) {r0 :
    State} (e : execSliceFence t slice s = .next r0) : Keeps b0 d0 s0 r0 := by
  unfold execSliceFence at e
  refine keeps_event hs0 ?_ e
  clear hs0 e r0
  try dsimp only
  repeat' first
    | with_reducible assumption
    | with_reducible refine keeps_ite ?_ ?_
    | intro _
    | with_reducible apply keeps_fenceSlice
    | split

theorem keeps_execSharedBufferScrub {b0 d0 : Bool} {s0 : State} {t : Nat} {_slice : Nat} {s : State} (hs0 : Keeps b0 d0 s0 s)
    {r0 : State} (e : execSharedBufferScrub t _slice s = .next r0) : Keeps b0 d0 s0 r0 := by
  unfold execSharedBufferScrub at e
  refine keeps_event hs0 ?_ e
  clear hs0 e r0
  try dsimp only
  repeat' first
    | with_reducible assumption
    | intro _

theorem keeps_execLpddrDriftMeasure {b0 d0 : Bool} {s0 : State} {t : Nat} {channel : Nat} {drift : BitVec 16} {s : State} (hs0
    : Keeps b0 d0 s0 s) {r0 : State} (e : execLpddrDriftMeasure t channel drift s = .next r0) : Keeps b0 d0 s0 r0 := by
  unfold execLpddrDriftMeasure at e
  refine keeps_event hs0 ?_ e
  clear hs0 e r0
  try dsimp only
  repeat' first
    | with_reducible assumption
    | intro _
    | (rw [rest_eq]; with_reducible refine keeps_rest ?_ rfl (SameSto.refl _) ⟨rfl, rfl⟩)

/-! Machine/Field.lean. -/

theorem keeps_execRouteLoad {b0 d0 : Bool} {s0 : State} {t : Nat} {c : Cmd} {window : Word} {offset : DWord} {length : Word} {s
    : State} (hs0 : Keeps b0 d0 s0 s) {r0 : State} (e : execRouteLoad t c window offset length s = .next r0) : Keeps b0 d0 s0
        r0 := by
  unfold execRouteLoad at e
  refine keeps_host hs0 ?_ e
  clear hs0 e r0
  try dsimp only
  repeat' first
    | with_reducible assumption
    | with_reducible refine keeps_ite ?_ ?_
    | intro _
    | with_reducible apply keeps_takeFree
    | with_reducible apply keeps_done
    | with_reducible refine keeps_orFail ?_ ?_
    | (rw [rest_eq]; with_reducible refine keeps_rest ?_ rfl (SameSto.refl _) ⟨rfl, rfl⟩)
    | split
    | dsimp only

theorem keeps_execRouteUnload {b0 d0 : Bool} {s0 : State} {t : Nat} {c : Cmd} {handle : BitVec 12} {s : State} (hs0 : Keeps b0
    d0 s0 s) {r0 : State} (e : execRouteUnload t c handle s = .next r0) : Keeps b0 d0 s0 r0 := by
  unfold execRouteUnload at e
  refine keeps_host hs0 ?_ e
  clear hs0 e r0
  try dsimp only
  repeat' first
    | with_reducible assumption
    | with_reducible refine keeps_ite ?_ ?_
    | intro _
    | with_reducible apply keeps_done
    | (rw [rest_eq]; with_reducible refine keeps_rest ?_ rfl (SameSto.refl _) ⟨rfl, rfl⟩)
    | split

theorem keeps_submitRoute {b0 d0 : Bool} {s0 : State} {s : State} {w : WaitingRoute} (hs0 : Keeps b0 d0 s0 s) : Keeps b0 d0 s0
    (submitRoute s w) := by
  unfold submitRoute
  try dsimp only
  repeat' first
    | with_reducible assumption
    | with_reducible refine keeps_ite ?_ ?_
    | intro _
    | with_reducible apply keeps_charge
    | with_reducible apply keeps_modPart
    | with_reducible refine keeps_admitOr ?_ ?_
    | with_reducible apply keeps_levelShare
    | (rw [rest_eq]; with_reducible refine keeps_rest ?_ rfl (SameSto.refl _) ⟨rfl, rfl⟩)
    | split
    | dsimp only

theorem keeps_execRouteRun {b0 d0 : Bool} {s0 : State} {t : Nat} {c : Cmd} {handle : BitVec 12} {window : Word} {offset :
    DWord} {s : State} (hs0 : Keeps b0 d0 s0 s) {r0 : State} (e : execRouteRun t c handle window offset s = .next r0) : Keeps
        b0 d0 s0 r0 := by
  unfold execRouteRun at e
  refine keeps_hostWait hs0 ?_ e
  clear hs0 e r0
  try dsimp only
  repeat' first
    | with_reducible assumption
    | intro _
    | with_reducible apply keeps_submitRoute
    | with_reducible apply keeps_done
    | with_reducible refine keeps_orFail ?_ ?_
    | (rw [rest_eq]; with_reducible refine keeps_rest ?_ rfl (SameSto.refl _) ⟨rfl, rfl⟩)
    | split
    | dsimp only

theorem keeps_noteShape {b0 d0 : Bool} {s0 : State} {s : State} {session : Word} {k : Bytes} (hs0 : Keeps b0 d0 s0 s) : Keeps
    b0 d0 s0 (noteShape s session k) := by
  unfold noteShape
  try dsimp only
  repeat' first
    | with_reducible assumption
    | intro _
    | (rw [rest_eq]; with_reducible refine keeps_rest ?_ rfl (SameSto.refl _) ⟨rfl, rfl⟩)
    | dsimp only

theorem keeps_execFieldOp {b0 d0 : Bool} {s0 : State} {t : Nat} {c : Cmd} {window : Word} {offset : DWord} {s : State} (hs0 :
    Keeps b0 d0 s0 s) {r0 : State} (e : execFieldOp t c window offset s = .next r0) : Keeps b0 d0 s0 r0 := by
  unfold execFieldOp at e
  refine keeps_hostWait hs0 ?_ e
  clear hs0 e r0
  try dsimp only
  repeat' first
    | with_reducible assumption
    | with_reducible refine keeps_ite ?_ ?_
    | intro _
    | with_reducible apply keeps_submitRoute
    | with_reducible apply keeps_noteShape
    | with_reducible apply keeps_done
    | with_reducible refine keeps_orFail ?_ ?_
    | (rw [rest_eq]; with_reducible refine keeps_rest ?_ rfl (SameSto.refl _) ⟨rfl, rfl⟩)
    | split
    | dsimp only

theorem keeps_execSectorMap {b0 d0 : Bool} {s0 : State} {t : Nat} {c : Cmd} {sector : BitVec 4} {s : State} (hs0 : Keeps b0 d0
    s0 s) {r0 : State} (e : execSectorMap t c sector s = .next r0) : Keeps b0 d0 s0 r0 := by
  unfold execSectorMap at e
  refine keeps_host hs0 ?_ e
  clear hs0 e r0
  try dsimp only
  repeat' first
    | with_reducible assumption
    | intro _
    | with_reducible apply keeps_done
    | (rw [rest_eq]; with_reducible refine keeps_rest ?_ rfl (SameSto.refl _) ⟨rfl, rfl⟩)
    | split
    | dsimp only

theorem keeps_withRun {b0 d0 : Bool} {s0 s : State} {p : Nat} {f : RouteRun → State} (h : Keeps b0 d0 s0 s) (hk : ∀ a, Keeps b0
    d0 s0 (f a)) :
    Keeps b0 d0 s0 (withRun s p f) := by
  unfold withRun
  split
  · exact hk _
  · exact h

theorem keeps_execRouteStart {b0 d0 : Bool} {s0 : State} {t : Nat} {part : Nat} {cmd : CmdKey} {s : State} (hs0 : Keeps b0 d0
    s0 s) {r0 : State} (e : execRouteStart t part cmd s = .next r0) : Keeps b0 d0 s0 r0 := by
  unfold execRouteStart at e
  refine keeps_event hs0 ?_ e
  clear hs0 e r0
  try dsimp only
  repeat' first
    | with_reducible assumption
    | with_reducible refine keeps_ite ?_ ?_
    | intro _
    | with_reducible apply keeps_beginRoute
    | (rw [rest_eq]; with_reducible refine keeps_rest ?_ rfl (SameSto.refl _) ⟨rfl, rfl⟩)
    | split

theorem keeps_execRouteComplete {b0 d0 : Bool} {s0 : State} {t : Nat} {part : Nat} {s : State} (hs0 : Keeps b0 d0 s0 s) {r0 :
    State} (e : execRouteComplete t part s = .next r0) : Keeps b0 d0 s0 r0 := by
  unfold execRouteComplete at e
  refine keeps_event hs0 ?_ e
  clear hs0 e r0
  try dsimp only
  repeat' first
    | with_reducible assumption
    | with_reducible refine keeps_ite ?_ ?_
    | intro _
    | with_reducible refine keeps_withRun ?_ ?_
    | with_reducible apply keeps_stopRoute
    | with_reducible apply keeps_finishRoute
    | with_reducible apply keeps_afterRoute
    | (rw [rest_eq]; with_reducible refine keeps_rest ?_ rfl (SameSto.refl _) ⟨rfl, rfl⟩)
    | split

theorem keeps_execRouteStallTimeout {b0 d0 : Bool} {s0 : State} {t : Nat} {part : Nat} {s : State} (hs0 : Keeps b0 d0 s0 s) {r0
    : State} (e : execRouteStallTimeout t part s = .next r0) : Keeps b0 d0 s0 r0 := by
  unfold execRouteStallTimeout at e
  refine keeps_event hs0 ?_ e
  clear hs0 e r0
  try dsimp only
  repeat' first
    | with_reducible assumption
    | with_reducible refine keeps_ite ?_ ?_
    | intro _
    | with_reducible refine keeps_withRun ?_ ?_
    | with_reducible apply keeps_failRoute
    | with_reducible apply keeps_afterRoute
    | split

theorem keeps_execTilePublish {b0 d0 : Bool} {s0 : State} {t : Nat} {part : Nat} {sector : Nat} {queue : Nat} {s : State} (hs0
    : Keeps b0 d0 s0 s) {r0 : State} (e : execTilePublish t part sector queue s = .next r0) : Keeps b0 d0 s0 r0 := by
  unfold execTilePublish at e
  refine keeps_event hs0 ?_ e
  clear hs0 e r0
  try dsimp only
  repeat' first
    | with_reducible assumption
    | intro _
    | with_reducible refine keeps_withRun ?_ ?_
    | with_reducible apply keeps_setRun
    | with_reducible apply keeps_setFlags
    | with_reducible apply keeps_publishSlot
    | with_reducible apply keeps_passSides
    | (rw [rest_eq]; with_reducible refine keeps_rest ?_ rfl (SameSto.refl _) ⟨rfl, rfl⟩)
    | split

theorem keeps_execTileRelease {b0 d0 : Bool} {s0 : State} {t : Nat} {part : Nat} {sector : Nat} {queue : Nat} {s : State} (hs0
    : Keeps b0 d0 s0 s) {r0 : State} (e : execTileRelease t part sector queue s = .next r0) : Keeps b0 d0 s0 r0 := by
  unfold execTileRelease at e
  refine keeps_event hs0 ?_ e
  clear hs0 e r0
  try dsimp only
  repeat' first
    | with_reducible assumption
    | with_reducible exact Keeps.refl _
    | with_reducible refine keeps_ite ?_ ?_
    | intro _
    | (with_reducible refine keeps_withRun ?_ ?_)
    | (with_reducible apply keeps_setRun)
    | (with_reducible apply keeps_stopRoute)
    | (with_reducible apply keeps_readHead)
    | (with_reducible refine keeps_readHead_eq ?_ (by assumption))
    | (with_reducible apply keeps_releaseSlot)
    | (with_reducible refine keeps_consumeTile ?_ (by assumption))
    | (with_reducible refine keeps_consumeTile_eq ?_ (by assumption))
    | (with_reducible apply keeps_afterRoute)
    | (with_reducible apply keeps_foldl)
    | (with_reducible apply keeps_foldl_fst)
    | (rw [rest_eq]; with_reducible refine keeps_rest ?_ rfl (SameSto.refl _) ⟨rfl, rfl⟩)
    | (rw [rest_eq]; with_reducible refine keeps_rest ?_ rfl ⟨rfl, rfl, rfl, rfl, rfl, rfl⟩ ⟨rfl, rfl⟩)
    | (with_reducible apply keeps_foldl_fst2)
    | split
    | (dsimp only)

theorem keeps_countDetect {b0 d0 : Bool} {s0 : State} {s : State} {phys : Nat} {k : DetectKind} (hs0 : Keeps b0 d0 s0 s) :
    Keeps b0 d0 s0 (countDetect s phys k) := by
  unfold countDetect
  try dsimp only
  repeat' first
    | with_reducible assumption
    | intro _
    | with_reducible apply keeps_modSector
    | (rw [rest_eq]; with_reducible refine keeps_rest ?_ rfl (SameSto.refl _) ⟨rfl, rfl⟩)
    | split

theorem keeps_execSlotDetection {b0 d0 : Bool} {s0 : State} {t : Nat} {part : Nat} {sector : Nat} {queue : Nat} {kind :
    DetectKind} {s : State} (hs0 : Keeps b0 d0 s0 s) {r0 : State} (e : execSlotDetection t part sector queue kind s = .next r0)
        : Keeps b0 d0 s0 r0 := by
  unfold execSlotDetection at e
  refine keeps_event hs0 ?_ e
  clear hs0 e r0
  try dsimp only
  repeat' first
    | with_reducible assumption
    | with_reducible refine keeps_ite ?_ ?_
    | intro _
    | with_reducible refine keeps_withRun ?_ ?_
    | with_reducible apply keeps_countDetect
    | with_reducible apply keeps_setRun
    | with_reducible apply keeps_afterRoute
    | with_reducible apply keeps_routeUncorrectable
    | (rw [rest_eq]; with_reducible refine keeps_rest ?_ rfl (SameSto.refl _) ⟨rfl, rfl⟩)
    | split
    | dsimp only

theorem keeps_execStepRerunLimitReached {b0 d0 : Bool} {s0 : State} {t : Nat} {part : Nat} {sector : Nat} {queue : Nat} {s :
    State} (hs0 : Keeps b0 d0 s0 s) {r0 : State} (e : execStepRerunLimitReached t part sector queue s = .next r0) : Keeps b0 d0
        s0 r0 := by
  unfold execStepRerunLimitReached at e
  refine keeps_event hs0 ?_ e
  clear hs0 e r0
  try dsimp only
  repeat' first
    | with_reducible assumption
    | with_reducible refine keeps_ite ?_ ?_
    | intro _
    | with_reducible refine keeps_withRun ?_ ?_
    | with_reducible apply keeps_faultSector
    | (rw [rest_eq]; with_reducible refine keeps_rest ?_ rfl (SameSto.refl _) ⟨rfl, rfl⟩)
    | split
    | dsimp only

theorem keeps_execSectorHeartbeatTimeout {b0 d0 : Bool} {s0 : State} {t : Nat} {sector : Nat} {s : State} (hs0 : Keeps b0 d0 s0
    s) {r0 : State} (e : execSectorHeartbeatTimeout t sector s = .next r0) : Keeps b0 d0 s0 r0 := by
  unfold execSectorHeartbeatTimeout at e
  refine keeps_event hs0 ?_ e
  clear hs0 e r0
  try dsimp only
  repeat' first
    | with_reducible assumption
    | intro _
    | with_reducible apply keeps_faultSector

theorem keeps_execSectorFault {b0 d0 : Bool} {s0 : State} {t : Nat} {sector : Nat} {s : State} (hs0 : Keeps b0 d0 s0 s) {r0 :
    State} (e : execSectorFault t sector s = .next r0) : Keeps b0 d0 s0 r0 := by
  unfold execSectorFault at e
  refine keeps_event hs0 ?_ e
  clear hs0 e r0
  try dsimp only
  repeat' first
    | with_reducible assumption
    | intro _
    | with_reducible apply keeps_faultSector

theorem keeps_execSpareSectorReady {b0 d0 : Bool} {s0 : State} {t : Nat} {logical : Nat} {s : State} (hs0 : Keeps b0 d0 s0 s)
    {r0 : State} (e : execSpareSectorReady t logical s = .next r0) : Keeps b0 d0 s0 r0 := by
  unfold execSpareSectorReady at e
  refine keeps_event hs0 ?_ e
  clear hs0 e r0
  try dsimp only
  repeat' first
    | with_reducible assumption
    | intro _
    | with_reducible apply keeps_rerunFenced
    | with_reducible apply keeps_done
    | with_reducible apply keeps_raiseEvent
    | with_reducible apply keeps_huskRequest
    | with_reducible apply keeps_repairEntry
    | with_reducible apply keeps_enterUnit
    | (rw [rest_eq]; with_reducible refine keeps_rest ?_ rfl (SameSto.refl _) ⟨rfl, rfl⟩)
    | split
    | dsimp only

theorem keeps_restoreSectors {b0 d0 : Bool} {s0 : State} {s : State} {p : Nat} {r : RouteRun} (hs0 : Keeps b0 d0 s0 s) : Keeps
    b0 d0 s0 (restoreSectors s p r) := by
  unfold restoreSectors
  try dsimp only
  repeat' first
    | with_reducible assumption
    | intro _
    | with_reducible apply keeps_modSector
    | with_reducible apply keeps_foldl
    | with_reducible apply keeps_foldl_fst
    | (rw [rest_eq]; with_reducible refine keeps_rest ?_ rfl (SameSto.refl _) ⟨rfl, rfl⟩)
    | split
    | dsimp only

theorem keeps_execSpillOut {b0 d0 : Bool} {s0 : State} {t : Nat} {part : Nat} {s : State} (hs0 : Keeps b0 d0 s0 s) {r0 : State}
    (e : execSpillOut t part s = .next r0) : Keeps b0 d0 s0 r0 := by
  unfold execSpillOut at e
  refine keeps_event hs0 ?_ e
  clear hs0 e r0
  try dsimp only
  repeat' first
    | with_reducible assumption
    | with_reducible refine keeps_ite ?_ ?_
    | intro _
    | with_reducible refine keeps_withRun ?_ ?_
    | with_reducible apply keeps_charge
    | with_reducible apply keeps_modPart
    | with_reducible apply keeps_chargeTime
    | (rw [rest_eq]; with_reducible refine keeps_rest ?_ rfl (SameSto.refl _) ⟨rfl, rfl⟩)
    | split
    | dsimp only

theorem keeps_execSpillRestore {b0 d0 : Bool} {s0 : State} {t : Nat} {part : Nat} {s : State} (hs0 : Keeps b0 d0 s0 s) {r0 :
    State} (e : execSpillRestore t part s = .next r0) : Keeps b0 d0 s0 r0 := by
  unfold execSpillRestore at e
  refine keeps_event hs0 ?_ e
  clear hs0 e r0
  try dsimp only
  repeat' first
    | with_reducible assumption
    | with_reducible refine keeps_ite ?_ ?_
    | intro _
    | with_reducible apply keeps_restoreSectors
    | with_reducible apply keeps_chargeSpill
    | with_reducible apply keeps_stopRoute
    | with_reducible apply keeps_afterRoute
    | with_reducible apply keeps_modPart
    | (rw [rest_eq]; with_reducible refine keeps_rest ?_ rfl (SameSto.refl _) ⟨rfl, rfl⟩)
    | split
    | dsimp only

/-! Machine/ServeOps.lean. -/

theorem keeps_onDev {b0 d0 : Bool} {s0 s : State} {f : Memory → Memory} (h : Keeps b0 d0 s0 s)
    (hf : Memory.wf s.mem.dev = true → Memory.wf (f s.mem.dev) = true) : Keeps b0 d0 s0 (onDev s f) := by
  unfold onDev
  rw [restMem_eq]
  exact keeps_restMem h (fun hm => ⟨hf hm.1, hm.2⟩) rfl (SameSto.refl _) ⟨rfl, rfl⟩

theorem keeps_setRecord {b0 d0 : Bool} {s0 : State} {s : State} {l : Loop} {i : Nat} {w : Nat} {pw : Nat} {v : Word} (hs0 :
    Keeps b0 d0 s0 s) : Keeps b0 d0 s0 (setRecord s l i w pw v) := by
  unfold setRecord
  try dsimp only
  repeat' first
    | with_reducible assumption
    | intro _
    | with_reducible apply keeps_putWord
    | with_reducible apply keeps_foldl

theorem keeps_writeHeader {b0 d0 : Bool} {s0 : State} {s : State} {l : Loop} {i : Nat} {state : Nat} {refs : Nat} (hs0 : Keeps
    b0 d0 s0 s) : Keeps b0 d0 s0 (writeHeader s l i state refs) := by
  unfold writeHeader
  try dsimp only
  repeat' first
    | with_reducible assumption
    | intro _
    | with_reducible refine keeps_onDev ?_ ?_
    | with_reducible apply keeps_foldl
    | with_reducible apply memOk_foldl
    | with_reducible apply wf_foldl
    | with_reducible apply wf_foldl_snd
    | with_reducible apply wf_write'
    | with_reducible apply MemOk.dev

theorem keeps_newRecord {b0 d0 : Bool} {s0 : State} {s : State} {l : Loop} {parent : Nat} (hs0 : Keeps b0 d0 s0 s) {r0 : State
    × Nat} (e : newRecord s l parent = some r0) : Keeps b0 d0 s0 r0.1 := by
  unfold newRecord at e
  try dsimp only at e
  repeat' first
    | (split at e)
    | (cases e; done)
    | (cases e; dsimp only)
    | cases e
    | with_reducible assumption
    | intro _
    | with_reducible apply keeps_takeFree
    | with_reducible refine keeps_onDev ?_ ?_
    | with_reducible apply keeps_writeHeader
    | (rw [rest_eq]; with_reducible refine keeps_rest ?_ rfl (SameSto.refl _) ⟨rfl, rfl⟩)
    | with_reducible apply wf_write'
    | with_reducible apply MemOk.dev
    | split
    | dsimp only
theorem keeps_newRecord_eq {b0 d0 : Bool} {s0 : State} {s : State} {l : Loop} {parent : Nat} (hs0 : Keeps b0 d0 s0 s) {r0 :
    State} {y0 : Nat} (e : newRecord s l parent = some (r0, y0)) : Keeps b0 d0 s0 r0 :=
  keeps_newRecord hs0 e

theorem keeps_addRef {b0 d0 : Bool} {s0 : State} {s : State} {l : Loop} {i : Nat} (hs0 : Keeps b0 d0 s0 s) : Keeps b0 d0 s0
    (addRef s l i) := by
  unfold addRef
  try dsimp only
  repeat' first
    | with_reducible assumption
    | with_reducible apply keeps_setRecord

theorem keeps_dropRef {b0 d0 : Bool} {s0 : State} {x : Srv} {i : Nat} (hs0 : Keeps b0 d0 s0 x.1) : Keeps b0 d0 s0 (dropRef x
    i).1 := by
  obtain ⟨xs, xl⟩ := x
  replace hs0 : Keeps b0 d0 s0 xs := hs0
  unfold dropRef
  try dsimp only
  repeat' first
    | with_reducible assumption
    | with_reducible refine keeps_ite ?_ ?_
    | intro _
    | with_reducible apply keeps_setPageState
    | with_reducible apply keeps_setRecord
    | with_reducible apply keeps_foldl
    | with_reducible apply keeps_foldl_fst
    | (rw [rest_eq]; with_reducible refine keeps_rest ?_ rfl (SameSto.refl _) ⟨rfl, rfl⟩)
    | split
    | dsimp only
theorem keeps_dropRef_eq {b0 d0 : Bool} {s0 : State} {x : Srv} {i : Nat} (hs0 : Keeps b0 d0 s0 x.1) {r0 : State} {y0 : Loop} (e
    : dropRef x i = (r0, y0)) : Keeps b0 d0 s0 r0 := by
  have k := keeps_dropRef (x := x) (i := i) hs0
  rw [e] at k
  exact k

theorem keeps_markHolds {b0 d0 : Bool} {s0 : State} {x : Srv} (hs0 : Keeps b0 d0 s0 x.1) : Keeps b0 d0 s0 (markHolds x).1 := by
  obtain ⟨xs, xl⟩ := x
  replace hs0 : Keeps b0 d0 s0 xs := hs0
  unfold markHolds
  try dsimp only
  repeat' first
    | with_reducible assumption
    | intro _
    | with_reducible apply keeps_putWord
    | with_reducible apply keeps_foldl
    | with_reducible apply keeps_foldl_fst
    | dsimp only
theorem keeps_markHolds_eq {b0 d0 : Bool} {s0 : State} {x : Srv} (hs0 : Keeps b0 d0 s0 x.1) {r0 : State} {y0 : Loop} (e :
    markHolds x = (r0, y0)) : Keeps b0 d0 s0 r0 := by
  have k := keeps_markHolds (x := x) hs0
  rw [e] at k
  exact k

theorem keeps_dropEntry {b0 d0 : Bool} {s0 : State} {x : Srv} {id : Nat} {i : Nat} (hs0 : Keeps b0 d0 s0 x.1) : Keeps b0 d0 s0
    (dropEntry x id i).1 := by
  obtain ⟨xs, xl⟩ := x
  replace hs0 : Keeps b0 d0 s0 xs := hs0
  unfold dropEntry
  try dsimp only
  repeat' first
    | with_reducible assumption
    | with_reducible refine keeps_ite ?_ ?_
    | intro _
    | with_reducible apply keeps_dropRef
    | with_reducible refine keeps_dropRef_eq ?_ (by assumption)
    | (rw [rest_eq]; with_reducible refine keeps_rest ?_ rfl (SameSto.refl _) ⟨rfl, rfl⟩)
    | split
    | dsimp only
theorem keeps_dropEntry_eq {b0 d0 : Bool} {s0 : State} {x : Srv} {id : Nat} {i : Nat} (hs0 : Keeps b0 d0 s0 x.1) {r0 : State}
    {y0 : Loop} (e : dropEntry x id i = (r0, y0)) : Keeps b0 d0 s0 r0 := by
  have k := keeps_dropEntry (x := x) (id := id) (i := i) hs0
  rw [e] at k
  exact k

theorem keeps_obtain_ {b0 d0 : Bool} {s0 : State} {x : Srv} {parent : Nat} (hs0 : Keeps b0 d0 s0 x.1) : Keeps b0 d0 s0 (obtain_
    x parent).1.1 := by
  obtain ⟨xs, xl⟩ := x
  replace hs0 : Keeps b0 d0 s0 xs := hs0
  unfold obtain_
  try dsimp only
  repeat' first
    | with_reducible assumption
    | with_reducible refine keeps_newRecord ?_ (by assumption)
    | with_reducible refine keeps_newRecord_eq ?_ (by assumption)
    | with_reducible apply keeps_dropEntry
    | with_reducible refine keeps_dropEntry_eq ?_ (by assumption)
    | (rw [rest_eq]; with_reducible refine keeps_rest ?_ rfl (SameSto.refl _) ⟨rfl, rfl⟩)
    | split
    | dsimp only
theorem keeps_obtain__eq {b0 d0 : Bool} {s0 : State} {x : Srv} {parent : Nat} (hs0 : Keeps b0 d0 s0 x.1) {r0 : State} {z0 :
    Loop} {y0 : Option Nat} (e : obtain_ x parent = ((r0, z0), y0)) : Keeps b0 d0 s0 r0 := by
  have k := keeps_obtain_ (x := x) (parent := parent) hs0
  rw [e] at k
  exact k
theorem keeps_obtain__eq1 {b0 d0 : Bool} {s0 : State} {x : Srv} {parent : Nat} (hs0 : Keeps b0 d0 s0 x.1) {r0 : Srv} {y0 :
    Option Nat} (e : obtain_ x parent = (r0, y0)) : Keeps b0 d0 s0 r0.1 := by
  have k := keeps_obtain_ (x := x) (parent := parent) hs0
  rw [e] at k
  exact k

theorem keeps_pauseSeq {b0 d0 : Bool} {s0 : State} {x : Srv} {id : Nat} (hs0 : Keeps b0 d0 s0 x.1) : Keeps b0 d0 s0 (pauseSeq x
    id).1 := by
  obtain ⟨xs, xl⟩ := x
  replace hs0 : Keeps b0 d0 s0 xs := hs0
  unfold pauseSeq
  try dsimp only
  repeat' first
    | with_reducible assumption
    | intro _
    | with_reducible apply keeps_dropEntry
    | with_reducible refine keeps_dropEntry_eq ?_ (by assumption)
    | with_reducible apply keeps_foldl
    | with_reducible apply keeps_foldl_fst
    | (rw [rest_eq]; with_reducible refine keeps_rest ?_ rfl (SameSto.refl _) ⟨rfl, rfl⟩)
    | split
    | dsimp only
theorem keeps_pauseSeq_eq {b0 d0 : Bool} {s0 : State} {x : Srv} {id : Nat} (hs0 : Keeps b0 d0 s0 x.1) {r0 : State} {y0 : Loop}
    (e : pauseSeq x id = (r0, y0)) : Keeps b0 d0 s0 r0 := by
  have k := keeps_pauseSeq (x := x) (id := id) hs0
  rw [e] at k
  exact k

theorem keeps_setParent {b0 d0 : Bool} {s0 : State} {s : State} {l : Loop} {q : Sequence} {b : Nat} {i : Nat} (hs0 : Keeps b0
    d0 s0 s) : Keeps b0 d0 s0 (setParent s l q b i) := by
  unfold setParent
  try dsimp only
  repeat' first
    | with_reducible assumption
    | with_reducible refine keeps_ite ?_ ?_
    | with_reducible apply keeps_putWord
    | (rw [rest_eq]; with_reducible refine keeps_rest ?_ rfl (SameSto.refl _) ⟨rfl, rfl⟩)
    | split

theorem keeps_copyRecord {b0 d0 : Bool} {s0 : State} {x : Srv} {id : Nat} {b : Nat} {i : Nat} (hs0 : Keeps b0 d0 s0 x.1) :
    Keeps b0 d0 s0 (copyRecord x id b i).1 := by
  obtain ⟨xs, xl⟩ := x
  replace hs0 : Keeps b0 d0 s0 xs := hs0
  unfold copyRecord
  try dsimp only
  repeat' first
    | with_reducible assumption
    | intro _
    | with_reducible apply keeps_putWord
    | with_reducible refine keeps_onDev ?_ ?_
    | with_reducible apply keeps_setRecord
    | with_reducible apply keeps_dropRef
    | with_reducible refine keeps_dropRef_eq ?_ (by assumption)
    | with_reducible apply keeps_setParent
    | with_reducible apply keeps_foldl
    | with_reducible apply keeps_foldl_fst
    | (rw [rest_eq]; with_reducible refine keeps_rest ?_ rfl (SameSto.refl _) ⟨rfl, rfl⟩)
    | (rw [restMem_eq]; with_reducible refine keeps_restMem ?_ ?_ rfl (SameSto.refl _) ⟨rfl, rfl⟩)
    | with_reducible apply memOk_copySlot
    | with_reducible apply memOk_foldl
    | with_reducible apply wf_foldl
    | with_reducible apply wf_foldl_snd
    | with_reducible apply wf_write'
    | with_reducible apply MemOk.dev
    | split
    | dsimp only
theorem keeps_copyRecord_eq {b0 d0 : Bool} {s0 : State} {x : Srv} {id : Nat} {b : Nat} {i : Nat} (hs0 : Keeps b0 d0 s0 x.1) {r0
    : State} {y0 : Loop} (e : copyRecord x id b i = (r0, y0)) : Keeps b0 d0 s0 r0 := by
  have k := keeps_copyRecord (x := x) (id := id) (b := b) (i := i) hs0
  rw [e] at k
  exact k

theorem keeps_makeWritable {b0 d0 : Bool} {s0 : State} {x : Srv} {id : Nat} {b : Nat} {t : Nat} (hs0 : Keeps b0 d0 s0 x.1) :
    Keeps b0 d0 s0 (makeWritable x id b t).1.1 := by
  obtain ⟨xs, xl⟩ := x
  replace hs0 : Keeps b0 d0 s0 xs := hs0
  unfold makeWritable
  try dsimp only
  repeat' first
    | with_reducible assumption
    | with_reducible refine keeps_ite ?_ ?_
    | with_reducible apply keeps_obtain_
    | with_reducible refine keeps_obtain__eq ?_ (by assumption)
    | with_reducible refine keeps_obtain__eq1 ?_ (by assumption)
    | with_reducible apply keeps_copyRecord
    | with_reducible refine keeps_copyRecord_eq ?_ (by assumption)
    | (rw [rest_eq]; with_reducible refine keeps_rest ?_ rfl (SameSto.refl _) ⟨rfl, rfl⟩)
    | split
    | dsimp only
theorem keeps_makeWritable_eq {b0 d0 : Bool} {s0 : State} {x : Srv} {id : Nat} {b : Nat} {t : Nat} (hs0 : Keeps b0 d0 s0 x.1)
    {r0 : State} {z0 : Loop} {y0 : Bool} (e : makeWritable x id b t = ((r0, z0), y0)) : Keeps b0 d0 s0 r0 := by
  have k := keeps_makeWritable (x := x) (id := id) (b := b) (t := t) hs0
  rw [e] at k
  exact k
theorem keeps_makeWritable_eq1 {b0 d0 : Bool} {s0 : State} {x : Srv} {id : Nat} {b : Nat} {t : Nat} (hs0 : Keeps b0 d0 s0 x.1)
    {r0 : Srv} {y0 : Bool} (e : makeWritable x id b t = (r0, y0)) : Keeps b0 d0 s0 r0.1 := by
  have k := keeps_makeWritable (x := x) (id := id) (b := b) (t := t) hs0
  rw [e] at k
  exact k

theorem keeps_setCount {b0 d0 : Bool} {s0 : State} {x : Srv} {id : Nat} {b : Nat} {n : Nat} (hs0 : Keeps b0 d0 s0 x.1) : Keeps
    b0 d0 s0 (setCount x id b n).1 := by
  obtain ⟨xs, xl⟩ := x
  replace hs0 : Keeps b0 d0 s0 xs := hs0
  unfold setCount
  try dsimp only
  repeat' first
    | with_reducible assumption
    | with_reducible refine keeps_ite ?_ ?_
    | intro _
    | with_reducible refine keeps_onDev ?_ ?_
    | (rw [rest_eq]; with_reducible refine keeps_rest ?_ rfl (SameSto.refl _) ⟨rfl, rfl⟩)
    | with_reducible apply wf_write'
    | with_reducible apply MemOk.dev
    | split
    | dsimp only
theorem keeps_setCount_eq {b0 d0 : Bool} {s0 : State} {x : Srv} {id : Nat} {b : Nat} {n : Nat} (hs0 : Keeps b0 d0 s0 x.1) {r0 :
    State} {y0 : Loop} (e : setCount x id b n = (r0, y0)) : Keeps b0 d0 s0 r0 := by
  have k := keeps_setCount (x := x) (id := id) (b := b) (n := n) hs0
  rw [e] at k
  exact k

theorem keeps_commitNode {b0 d0 : Bool} {s0 : State} {x : Srv} {id : Nat} {slot : Nat} {node : Nat} {pos : Nat} (hs0 : Keeps b0
    d0 s0 x.1) : Keeps b0 d0 s0 (commitNode x id slot node pos).1.1 := by
  obtain ⟨xs, xl⟩ := x
  replace hs0 : Keeps b0 d0 s0 xs := hs0
  unfold commitNode
  try dsimp only
  repeat' first
    | with_reducible assumption
    | with_reducible refine keeps_ite ?_ ?_
    | intro _
    | with_reducible apply keeps_putWord
    | with_reducible apply keeps_makeWritable
    | with_reducible refine keeps_makeWritable_eq ?_ (by assumption)
    | with_reducible refine keeps_makeWritable_eq1 ?_ (by assumption)
    | with_reducible apply keeps_setCount
    | with_reducible refine keeps_setCount_eq ?_ (by assumption)
    | with_reducible apply keeps_foldl
    | with_reducible apply keeps_foldl_fst
    | (rw [rest_eq]; with_reducible refine keeps_rest ?_ rfl (SameSto.refl _) ⟨rfl, rfl⟩)
    | (rw [restMem_eq]; with_reducible refine keeps_restMem ?_ ?_ rfl (SameSto.refl _) ⟨rfl, rfl⟩)
    | with_reducible apply memOk_copySlot
    | with_reducible apply memOk_foldl
    | with_reducible apply wf_foldl
    | with_reducible apply wf_foldl_snd
    | with_reducible apply MemOk.dev
    | split
    | dsimp only
theorem keeps_commitNode_eq {b0 d0 : Bool} {s0 : State} {x : Srv} {id : Nat} {slot : Nat} {node : Nat} {pos : Nat} (hs0 : Keeps
    b0 d0 s0 x.1) {r0 : State} {z0 : Loop} {y0 : Bool} (e : commitNode x id slot node pos = ((r0, z0), y0)) : Keeps b0 d0 s0 r0
        := by
  have k := keeps_commitNode (x := x) (id := id) (slot := slot) (node := node) (pos := pos) hs0
  rw [e] at k
  exact k
theorem keeps_commitNode_eq1 {b0 d0 : Bool} {s0 : State} {x : Srv} {id : Nat} {slot : Nat} {node : Nat} {pos : Nat} (hs0 :
    Keeps b0 d0 s0 x.1) {r0 : Srv} {y0 : Bool} (e : commitNode x id slot node pos = (r0, y0)) : Keeps b0 d0 s0 r0.1 := by
  have k := keeps_commitNode (x := x) (id := id) (slot := slot) (node := node) (pos := pos) hs0
  rw [e] at k
  exact k

theorem keeps_commitPath {b0 d0 : Bool} {s0 : State} {id slot : Nat} {l : List Nat} {pos : Nat} {x : Srv} (h : Keeps b0 d0 s0
    x.1) :
    Keeps b0 d0 s0 (commitPath id slot l pos x).1.1 := by
  induction l generalizing x pos with
  | nil => exact h
  | cons a l ih =>
    unfold commitPath
    split
    · next e => exact ih (keeps_commitNode_eq1 h e)
    · next e => exact keeps_commitNode_eq1 h e
theorem keeps_commitPath_eq1 {b0 d0 : Bool} {s0 : State} {id slot : Nat} {l : List Nat} {pos : Nat} {x : Srv} (h : Keeps b0 d0
    s0 x.1) {r : Srv} {y : Bool}
    (e : commitPath id slot l pos x = (r, y)) : Keeps b0 d0 s0 r.1 := by
  have k := keeps_commitPath (id := id) (slot := slot) (l := l) (pos := pos) h
  rw [e] at k
  exact k

theorem keeps_growTo {b0 d0 : Bool} {s0 : State} {id f n : Nat} {x : Srv} (h : Keeps b0 d0 s0 x.1) : Keeps b0 d0 s0 (growTo id
    f n x).1.1 := by
  induction f generalizing x with
  | zero => exact h
  | succ f ih =>
    unfold growTo
    split
    · exact h
    · split
      · exact ih h
      · split
        · next e => exact keeps_obtain__eq1 h e
        · next e => refine ih (keeps_markHolds ?_); have k := keeps_obtain__eq1 h e; exact k
theorem keeps_growTo_eq1 {b0 d0 : Bool} {s0 : State} {id f n : Nat} {x : Srv} (h : Keeps b0 d0 s0 x.1) {r : Srv} {y : Bool} (e
    : growTo id f n x = (r, y)) :
    Keeps b0 d0 s0 r.1 := by
  have k := keeps_growTo (id := id) (f := f) (n := n) h
  rw [e] at k
  exact k

theorem keeps_extendSeq {b0 d0 : Bool} {s0 : State} {x : Srv} {id : Nat} {path : List Nat} (h : Keeps b0 d0 s0 x.1) :
    Keeps b0 d0 s0 (extendSeq x id path).1 := by
  unfold extendSeq
  split
  · exact h
  · split
    · next e => exact keeps_pauseSeq (keeps_commitPath_eq1 h e)
    · next e =>
      have k := keeps_commitPath_eq1 h e
      split
      · exact k
      · dsimp only
        split
        · next e =>
          refine keeps_pauseSeq ?_
          split at e
          · exact keeps_makeWritable_eq1 k e
          · cases e
        · next z e =>
          have k2 : Keeps b0 d0 s0 z.1 := by
            split at e
            · exact keeps_makeWritable_eq1 k e
            · cases e; exact k
          split
          · next e => exact keeps_pauseSeq (keeps_growTo_eq1 k2 e)
          · next e => exact keeps_growTo_eq1 k2 e

theorem keeps_emitTokens {b0 d0 : Bool} {s0 : State} {s : State} {q : Sequence} {ts : List Word} (hs0 : Keeps b0 d0 s0 s) {r0 :
    State} (e : emitTokens s q ts = .ok r0) : Keeps b0 d0 s0 r0 := by
  unfold emitTokens at e
  try dsimp only at e
  repeat' first
    | (split at e)
    | (cases e; done)
    | (cases e; dsimp only)
    | cases e
    | with_reducible assumption
    | with_reducible refine keeps_ite ?_ ?_
    | with_reducible refine keeps_writeWindow ?_ (by assumption)
    | (rw [rest_eq]; with_reducible refine keeps_rest ?_ rfl (SameSto.refl _) ⟨rfl, rfl⟩)
    | split
    | dsimp only

theorem keeps_draftDone {b0 d0 : Bool} {s0 : State} {s : State} {d : Option Draft} {result : Nat} (hs0 : Keeps b0 d0 s0 s) :
    Keeps b0 d0 s0 (draftDone s d result) := by
  unfold draftDone
  try dsimp only
  repeat' first
    | with_reducible assumption
    | with_reducible apply keeps_done
    | (rw [rest_eq]; with_reducible refine keeps_rest ?_ rfl (SameSto.refl _) ⟨rfl, rfl⟩)
    | split

theorem keeps_readStep {b0 d0 : Bool} {s0 : State} {x : Srv} {q : Sequence} (hs0 : Keeps b0 d0 s0 x.1) : Keeps b0 d0 s0
    (readStep x q).1.1 := by
  obtain ⟨xs, xl⟩ := x
  replace hs0 : Keeps b0 d0 s0 xs := hs0
  unfold readStep
  try dsimp only
  repeat' first
    | with_reducible assumption
    | with_reducible refine keeps_ite ?_ ?_
    | intro _
    | with_reducible apply keeps_setCount
    | with_reducible refine keeps_setCount_eq ?_ (by assumption)
    | with_reducible refine keeps_emitTokens ?_ (by assumption)
    | with_reducible apply keeps_draftDone
    | (rw [rest_eq]; with_reducible refine keeps_rest ?_ rfl (SameSto.refl _) ⟨rfl, rfl⟩)
    | split
    | dsimp only
theorem keeps_readStep_eq {b0 d0 : Bool} {s0 : State} {x : Srv} {q : Sequence} (hs0 : Keeps b0 d0 s0 x.1) {r0 : State} {z0 :
    Loop} {y0 : List Nat} (e : readStep x q = ((r0, z0), y0)) : Keeps b0 d0 s0 r0 := by
  have k := keeps_readStep (x := x) (q := q) hs0
  rw [e] at k
  exact k
theorem keeps_readStep_eq1 {b0 d0 : Bool} {s0 : State} {x : Srv} {q : Sequence} (hs0 : Keeps b0 d0 s0 x.1) {r0 : Srv} {y0 :
    List Nat} (e : readStep x q = (r0, y0)) : Keeps b0 d0 s0 r0.1 := by
  have k := keeps_readStep (x := x) (q := q) hs0
  rw [e] at k
  exact k

theorem keeps_updateScores {b0 d0 : Bool} {s0 : State} {x : Srv} (hs0 : Keeps b0 d0 s0 x.1) : Keeps b0 d0 s0 (updateScores x).1
    := by
  obtain ⟨xs, xl⟩ := x
  replace hs0 : Keeps b0 d0 s0 xs := hs0
  unfold updateScores
  try dsimp only
  repeat' first
    | with_reducible assumption
    | intro _
    | with_reducible apply keeps_setRecord
    | with_reducible apply keeps_foldl
    | with_reducible apply keeps_foldl_fst
    | split
    | dsimp only
theorem keeps_updateScores_eq {b0 d0 : Bool} {s0 : State} {x : Srv} (hs0 : Keeps b0 d0 s0 x.1) {r0 : State} {y0 : Loop} (e :
    updateScores x = (r0, y0)) : Keeps b0 d0 s0 r0 := by
  have k := keeps_updateScores (x := x) hs0
  rw [e] at k
  exact k

theorem keeps_retireSeq {b0 d0 : Bool} {s0 : State} {x : Srv} {id : Nat} {st : Status} (hs0 : Keeps b0 d0 s0 x.1) : Keeps b0 d0
    s0 (retireSeq x id st).1 := by
  obtain ⟨xs, xl⟩ := x
  replace hs0 : Keeps b0 d0 s0 xs := hs0
  unfold retireSeq
  try dsimp only
  repeat' first
    | with_reducible assumption
    | intro _
    | with_reducible apply keeps_done
    | with_reducible apply keeps_dropRef
    | with_reducible refine keeps_dropRef_eq ?_ (by assumption)
    | with_reducible apply keeps_draftDone
    | with_reducible apply keeps_foldl
    | with_reducible apply keeps_foldl_fst
    | (rw [rest_eq]; with_reducible refine keeps_rest ?_ rfl (SameSto.refl _) ⟨rfl, rfl⟩)
    | split
    | dsimp only
theorem keeps_retireSeq_eq {b0 d0 : Bool} {s0 : State} {x : Srv} {id : Nat} {st : Status} (hs0 : Keeps b0 d0 s0 x.1) {r0 :
    State} {y0 : Loop} (e : retireSeq x id st = (r0, y0)) : Keeps b0 d0 s0 r0 := by
  have k := keeps_retireSeq (x := x) (id := id) (st := st) hs0
  rw [e] at k
  exact k

theorem keeps_retireLeavers {b0 d0 : Bool} {s0 : State} {x : Srv} (hs0 : Keeps b0 d0 s0 x.1) : Keeps b0 d0 s0 (retireLeavers
    x).1 := by
  obtain ⟨xs, xl⟩ := x
  replace hs0 : Keeps b0 d0 s0 xs := hs0
  unfold retireLeavers
  try dsimp only
  repeat' first
    | with_reducible assumption
    | intro _
    | with_reducible apply keeps_retireSeq
    | with_reducible refine keeps_retireSeq_eq ?_ (by assumption)
    | with_reducible apply keeps_foldl
    | with_reducible apply keeps_foldl_fst
    | (rw [rest_eq]; with_reducible refine keeps_rest ?_ rfl (SameSto.refl _) ⟨rfl, rfl⟩)
    | split
    | dsimp only
theorem keeps_retireLeavers_eq {b0 d0 : Bool} {s0 : State} {x : Srv} (hs0 : Keeps b0 d0 s0 x.1) {r0 : State} {y0 : Loop} (e :
    retireLeavers x = (r0, y0)) : Keeps b0 d0 s0 r0 := by
  have k := keeps_retireLeavers (x := x) hs0
  rw [e] at k
  exact k

theorem keeps_freshEntries {b0 d0 : Bool} {s0 : State} {id n : Nat} {x : Srv} (h : Keeps b0 d0 s0 x.1) : Keeps b0 d0 s0
    (freshEntries id n x).1 := by
  induction n generalizing x with
  | zero => exact h
  | succ n ih =>
    unfold freshEntries
    split
    · exact h
    · split
      · exact ih h
      · split
        · exact h
        · exact ih (keeps_newRecord h ‹_›)

theorem keeps_admitSeq {b0 d0 : Bool} {s0 : State} {x : Srv} {id : Nat} (hs0 : Keeps b0 d0 s0 x.1) : Keeps b0 d0 s0 (admitSeq x
    id).1.1 := by
  obtain ⟨xs, xl⟩ := x
  replace hs0 : Keeps b0 d0 s0 xs := hs0
  unfold admitSeq
  try dsimp only
  repeat' first
    | with_reducible assumption
    | with_reducible refine keeps_ite ?_ ?_
    | intro _
    | with_reducible apply keeps_addRef
    | with_reducible apply keeps_freshEntries
    | with_reducible apply keeps_foldl
    | with_reducible apply keeps_foldl_fst
    | (rw [rest_eq]; with_reducible refine keeps_rest ?_ rfl (SameSto.refl _) ⟨rfl, rfl⟩)
    | split
    | dsimp only
theorem keeps_admitSeq_eq {b0 d0 : Bool} {s0 : State} {x : Srv} {id : Nat} (hs0 : Keeps b0 d0 s0 x.1) {r0 : State} {z0 : Loop}
    {y0 : Bool} (e : admitSeq x id = ((r0, z0), y0)) : Keeps b0 d0 s0 r0 := by
  have k := keeps_admitSeq (x := x) (id := id) hs0
  rw [e] at k
  exact k
theorem keeps_admitSeq_eq1 {b0 d0 : Bool} {s0 : State} {x : Srv} {id : Nat} (hs0 : Keeps b0 d0 s0 x.1) {r0 : Srv} {y0 : Bool}
    (e : admitSeq x id = (r0, y0)) : Keeps b0 d0 s0 r0.1 := by
  have k := keeps_admitSeq (x := x) (id := id) hs0
  rw [e] at k
  exact k

theorem keeps_resumeSeq {b0 d0 : Bool} {s0 : State} {x : Srv} {id : Nat} (hs0 : Keeps b0 d0 s0 x.1) : Keeps b0 d0 s0 (resumeSeq
    x id).1.1 := by
  obtain ⟨xs, xl⟩ := x
  replace hs0 : Keeps b0 d0 s0 xs := hs0
  unfold resumeSeq
  try dsimp only
  repeat' first
    | with_reducible assumption
    | with_reducible refine keeps_ite ?_ ?_
    | intro _
    | with_reducible apply keeps_dropRef
    | with_reducible refine keeps_dropRef_eq ?_ (by assumption)
    | with_reducible apply keeps_freshEntries
    | with_reducible apply keeps_foldl
    | with_reducible apply keeps_foldl_fst
    | (rw [rest_eq]; with_reducible refine keeps_rest ?_ rfl (SameSto.refl _) ⟨rfl, rfl⟩)
    | split
    | dsimp only
theorem keeps_resumeSeq_eq {b0 d0 : Bool} {s0 : State} {x : Srv} {id : Nat} (hs0 : Keeps b0 d0 s0 x.1) {r0 : State} {z0 : Loop}
    {y0 : Bool} (e : resumeSeq x id = ((r0, z0), y0)) : Keeps b0 d0 s0 r0 := by
  have k := keeps_resumeSeq (x := x) (id := id) hs0
  rw [e] at k
  exact k
theorem keeps_resumeSeq_eq1 {b0 d0 : Bool} {s0 : State} {x : Srv} {id : Nat} (hs0 : Keeps b0 d0 s0 x.1) {r0 : Srv} {y0 : Bool}
    (e : resumeSeq x id = (r0, y0)) : Keeps b0 d0 s0 r0.1 := by
  have k := keeps_resumeSeq (x := x) (id := id) hs0
  rw [e] at k
  exact k

theorem keeps_enterAll {b0 d0 : Bool} {s0 : State} {l : List (Nat × Bool)} {x : Srv} (h : Keeps b0 d0 s0 x.1) : Keeps b0 d0 s0
    (enterAll l x).1 := by
  induction l generalizing x with
  | nil => exact h
  | cons a l ih =>
    obtain ⟨id, resume⟩ := a
    unfold enterAll
    have k : Keeps b0 d0 s0 (if resume = true then resumeSeq x id else admitSeq x id).1.1 := by
      split
      · exact keeps_resumeSeq h
      · exact keeps_admitSeq h
    split
    · next e => rw [e] at k; exact ih k
    · next e => rw [e] at k; exact k

theorem keeps_dropJoiners {b0 d0 : Bool} {s0 : State} {x : Srv} {ids : List Nat} (hs0 : Keeps b0 d0 s0 x.1) : Keeps b0 d0 s0
    (dropJoiners x ids).1 := by
  obtain ⟨xs, xl⟩ := x
  replace hs0 : Keeps b0 d0 s0 xs := hs0
  unfold dropJoiners
  try dsimp only
  repeat' first
    | with_reducible assumption
    | with_reducible refine keeps_ite ?_ ?_
    | intro _
    | with_reducible apply keeps_charge
    | with_reducible apply keeps_retireSeq
    | with_reducible refine keeps_retireSeq_eq ?_ (by assumption)
    | with_reducible apply keeps_foldl
    | with_reducible apply keeps_foldl_fst
    | (rw [rest_eq]; with_reducible refine keeps_rest ?_ rfl (SameSto.refl _) ⟨rfl, rfl⟩)
    | split
    | dsimp only
theorem keeps_dropJoiners_eq {b0 d0 : Bool} {s0 : State} {x : Srv} {ids : List Nat} (hs0 : Keeps b0 d0 s0 x.1) {r0 : State} {y0
    : Loop} (e : dropJoiners x ids = (r0, y0)) : Keeps b0 d0 s0 r0 := by
  have k := keeps_dropJoiners (x := x) (ids := ids) hs0
  rw [e] at k
  exact k

theorem keeps_movePage {b0 d0 : Bool} {s0 : State} {s : State} {l : Loop} {i : Nat} {k : Nat} {dest : Nat} {shared : Bool} (hs0
    : Keeps b0 d0 s0 s) : Keeps b0 d0 s0 (movePage s l i k dest shared) := by
  unfold movePage
  try dsimp only
  repeat' first
    | with_reducible assumption
    | with_reducible refine keeps_ite ?_ ?_
    | intro _
    | with_reducible refine keeps_onDev ?_ ?_
    | with_reducible apply wf_write'
    | with_reducible apply MemOk.dev
    | split
    | dsimp only

theorem keeps_promotePage {b0 d0 : Bool} {s0 : State} {l : Loop} {s : State} {i : Nat} {k : Nat} (hs0 : Keeps b0 d0 s0 s) :
    Keeps b0 d0 s0 (promotePage l s i k) := by
  unfold promotePage
  try dsimp only
  repeat' first
    | with_reducible assumption
    | with_reducible refine keeps_ite ?_ ?_
    | with_reducible apply keeps_takeFree
    | with_reducible apply keeps_movePage
    | (rw [rest_eq]; with_reducible refine keeps_rest ?_ rfl (SameSto.refl _) ⟨rfl, rfl⟩)
    | split
    | dsimp only

theorem keeps_retreatPages {b0 d0 : Bool} {s0 : State} {s : State} {l : Loop} (hs0 : Keeps b0 d0 s0 s) : Keeps b0 d0 s0
    (retreatPages s l) := by
  unfold retreatPages
  try dsimp only
  repeat' first
    | with_reducible assumption
    | with_reducible refine keeps_ite ?_ ?_
    | intro _
    | with_reducible apply keeps_movePage
    | with_reducible apply keeps_foldl
    | split
    | dsimp only

theorem keeps_moveTiers {b0 d0 : Bool} {s0 : State} {x : Srv} (hs0 : Keeps b0 d0 s0 x.1) : Keeps b0 d0 s0 (moveTiers x).1 := by
  obtain ⟨xs, xl⟩ := x
  replace hs0 : Keeps b0 d0 s0 xs := hs0
  unfold moveTiers
  try dsimp only
  repeat' first
    | with_reducible assumption
    | intro _
    | with_reducible apply keeps_promotePage
    | with_reducible apply keeps_retreatPages
    | with_reducible apply keeps_foldl
    | with_reducible apply keeps_foldl_fst
    | dsimp only
theorem keeps_moveTiers_eq {b0 d0 : Bool} {s0 : State} {x : Srv} (hs0 : Keeps b0 d0 s0 x.1) {r0 : State} {y0 : Loop} (e :
    moveTiers x = (r0, y0)) : Keeps b0 d0 s0 r0 := by
  have k := keeps_moveTiers (x := x) hs0
  rw [e] at k
  exact k

theorem keeps_hashTime {b0 d0 : Bool} {s0 : State} {s : State} {session : Word} {n : Nat} (hs0 : Keeps b0 d0 s0 s) : Keeps b0
    d0 s0 (hashTime s session n) := by
  unfold hashTime
  try dsimp only
  repeat' first
    | with_reducible assumption
    | intro _
    | with_reducible apply keeps_charge
    | (rw [rest_eq]; with_reducible refine keeps_rest ?_ rfl (SameSto.refl _) ⟨rfl, rfl⟩)

theorem keeps_indexEntry {b0 d0 : Bool} {s0 : State} {x : Srv} {q : Sequence} {b : Nat} (hs0 : Keeps b0 d0 s0 x.1) : Keeps b0
    d0 s0 (indexEntry x q b).1 := by
  obtain ⟨xs, xl⟩ := x
  replace hs0 : Keeps b0 d0 s0 xs := hs0
  unfold indexEntry
  try dsimp only
  repeat' first
    | with_reducible assumption
    | with_reducible refine keeps_ite ?_ ?_
    | intro _
    | with_reducible apply keeps_putWord
    | with_reducible refine keeps_onDev ?_ ?_
    | with_reducible apply keeps_hashTime
    | with_reducible apply keeps_foldl
    | with_reducible apply keeps_foldl_fst
    | (rw [rest_eq]; with_reducible refine keeps_rest ?_ rfl (SameSto.refl _) ⟨rfl, rfl⟩)
    | with_reducible apply memOk_foldl
    | with_reducible apply wf_foldl
    | with_reducible apply wf_foldl_snd
    | with_reducible apply wf_filter
    | with_reducible apply wf_write'
    | with_reducible apply MemOk.dev
    | split
    | dsimp only
theorem keeps_indexEntry_eq {b0 d0 : Bool} {s0 : State} {x : Srv} {q : Sequence} {b : Nat} (hs0 : Keeps b0 d0 s0 x.1) {r0 :
    State} {y0 : Loop} (e : indexEntry x q b = (r0, y0)) : Keeps b0 d0 s0 r0 := by
  have k := keeps_indexEntry (x := x) (q := q) (b := b) hs0
  rw [e] at k
  exact k

theorem keeps_onEntries {b0 d0 : Bool} {s0 : State} {f : Srv → Sequence → Nat → Srv} {x : Srv} (hf : ∀ y q b, Keeps b0 d0 s0
    y.1 → Keeps b0 d0 s0 (f y q b).1)
    (h : Keeps b0 d0 s0 x.1) : Keeps b0 d0 s0 (onEntries f x).1 := by
  unfold onEntries
  exact keeps_foldl_fst _ _ (fun _ _ h => keeps_foldl_fst _ _ (fun _ _ h => hf _ _ _ h) h) h

theorem keeps_planRows {b0 d0 : Bool} {s0 : State} {x : Srv} {q : Sequence} (hs0 : Keeps b0 d0 s0 x.1) : Keeps b0 d0 s0
    (planRows x q).1 := by
  obtain ⟨xs, xl⟩ := x
  replace hs0 : Keeps b0 d0 s0 xs := hs0
  unfold planRows
  try dsimp only
  repeat' first
    | with_reducible assumption
    | with_reducible refine keeps_ite ?_ ?_
    | intro _
    | with_reducible apply keeps_draftDone
    | (rw [rest_eq]; with_reducible refine keeps_rest ?_ rfl (SameSto.refl _) ⟨rfl, rfl⟩)
    | split
    | dsimp only
theorem keeps_planRows_eq {b0 d0 : Bool} {s0 : State} {x : Srv} {q : Sequence} (hs0 : Keeps b0 d0 s0 x.1) {r0 : State} {y0 :
    Loop} (e : planRows x q = (r0, y0)) : Keeps b0 d0 s0 r0 := by
  have k := keeps_planRows (x := x) (q := q) hs0
  rw [e] at k
  exact k

theorem keeps_startStep {b0 d0 : Bool} {s0 : State} {x : Srv} (hs0 : Keeps b0 d0 s0 x.1) : Keeps b0 d0 s0 (startStep x).1 := by
  obtain ⟨xs, xl⟩ := x
  replace hs0 : Keeps b0 d0 s0 xs := hs0
  unfold startStep
  try dsimp only
  repeat' first
    | with_reducible assumption
    | with_reducible refine keeps_ite ?_ ?_
    | intro _
    | with_reducible apply keeps_spoil
    | with_reducible apply keeps_levelShare
    | with_reducible refine keeps_onDev ?_ ?_
    | with_reducible apply keeps_nextStepRoute
    | with_reducible refine keeps_nextStepRoute_eq ?_ (by assumption)
    | with_reducible apply keeps_foldl
    | with_reducible apply keeps_foldl_fst
    | (rw [rest_eq]; with_reducible refine keeps_rest ?_ rfl (SameSto.refl _) ⟨rfl, rfl⟩)
    | with_reducible apply memOk_foldl
    | with_reducible apply wf_foldl
    | with_reducible apply wf_foldl_snd
    | with_reducible apply wf_clear
    | with_reducible apply wf_filter
    | with_reducible apply wf_write'
    | with_reducible apply MemOk.dev
    | split
    | dsimp only
theorem keeps_startStep_eq {b0 d0 : Bool} {s0 : State} {x : Srv} (hs0 : Keeps b0 d0 s0 x.1) {r0 : State} {y0 : Loop} (e :
    startStep x = (r0, y0)) : Keeps b0 d0 s0 r0 := by
  have k := keeps_startStep (x := x) hs0
  rw [e] at k
  exact k

theorem keeps_boundaryFirst {b0 d0 : Bool} {s0 : State} {x0 : Srv} (hs0 : Keeps b0 d0 s0 x0.1) : Keeps b0 d0 s0 (boundaryFirst
    x0).1 := by
  obtain ⟨xs, xl⟩ := x0
  replace hs0 : Keeps b0 d0 s0 xs := hs0
  unfold boundaryFirst
  try dsimp only
  repeat' first
    | with_reducible assumption
    | with_reducible refine keeps_ite ?_ ?_
    | intro _
    | with_reducible apply keeps_markHolds
    | with_reducible refine keeps_markHolds_eq ?_ (by assumption)
    | with_reducible apply keeps_extendSeq
    | with_reducible apply keeps_draftDone
    | with_reducible apply keeps_readStep
    | with_reducible refine keeps_readStep_eq ?_ (by assumption)
    | with_reducible refine keeps_readStep_eq1 ?_ (by assumption)
    | with_reducible apply keeps_updateScores
    | with_reducible refine keeps_updateScores_eq ?_ (by assumption)
    | with_reducible apply keeps_retireLeavers
    | with_reducible refine keeps_retireLeavers_eq ?_ (by assumption)
    | with_reducible apply keeps_foldl
    | with_reducible apply keeps_foldl_fst
    | with_reducible apply keeps_foldl_fst2
    | (rw [rest_eq]; with_reducible refine keeps_rest ?_ rfl (SameSto.refl _) ⟨rfl, rfl⟩)
    | split
    | dsimp only
theorem keeps_boundaryFirst_eq {b0 d0 : Bool} {s0 : State} {x0 : Srv} (hs0 : Keeps b0 d0 s0 x0.1) {r0 : State} {y0 : Loop} (e :
    boundaryFirst x0 = (r0, y0)) : Keeps b0 d0 s0 r0 := by
  have k := keeps_boundaryFirst (x0 := x0) hs0
  rw [e] at k
  exact k

theorem keeps_boundary {b0 d0 : Bool} {s0 : State} {s : State} {l : Loop} (hs0 : Keeps b0 d0 s0 s) : Keeps b0 d0 s0 (boundary s
    l).1 := by
  unfold boundary
  try dsimp only
  repeat' first
    | with_reducible assumption
    | intro _
    | with_reducible apply keeps_markHolds
    | with_reducible refine keeps_markHolds_eq ?_ (by assumption)
    | with_reducible apply keeps_enterAll
    | with_reducible apply keeps_dropJoiners
    | with_reducible refine keeps_dropJoiners_eq ?_ (by assumption)
    | with_reducible apply keeps_moveTiers
    | with_reducible refine keeps_moveTiers_eq ?_ (by assumption)
    | with_reducible apply keeps_indexEntry
    | with_reducible refine keeps_indexEntry_eq ?_ (by assumption)
    | with_reducible refine keeps_onEntries ?_ ?_
    | with_reducible apply keeps_planRows
    | with_reducible refine keeps_planRows_eq ?_ (by assumption)
    | with_reducible apply keeps_startStep
    | with_reducible refine keeps_startStep_eq ?_ (by assumption)
    | with_reducible apply keeps_boundaryFirst
    | with_reducible refine keeps_boundaryFirst_eq ?_ (by assumption)
    | with_reducible apply keeps_foldl
    | with_reducible apply keeps_foldl_fst
    | with_reducible apply keeps_foldl_fst2
    | (rw [rest_eq]; with_reducible refine keeps_rest ?_ rfl (SameSto.refl _) ⟨rfl, rfl⟩)
    | dsimp only
theorem keeps_boundary_eq {b0 d0 : Bool} {s0 : State} {s : State} {l : Loop} (hs0 : Keeps b0 d0 s0 s) {r0 : State} {y0 : Loop}
    (e : boundary s l = (r0, y0)) : Keeps b0 d0 s0 r0 := by
  have k := keeps_boundary (s := s) (l := l) hs0
  rw [e] at k
  exact k

end Sys2Proof.Laws
end

