-- ==== Sys2Proof/Laws/Keeps4.lean ====
section
/-!
SUPPORT. Laws/Keeps4.lean: every operation of Machine/Solver.lean, Machine/ServeAction.lean, Machine/Serve.lean,
Machine/EtchCommit.lean, Machine/Etch.lean, Machine/GainsBasic.lean keeps what Laws/Keeps.lean says.
-/
namespace Sys2Proof.Laws

open Sys2Proof.Machine

/-! Machine/Solver.lean. -/

theorem keeps_execStructLoad {b0 d0 : Bool} {s0 : State} {t : Nat} {c : Cmd} {engine : BitVec 4} {window : Word} {offset :
    DWord} {length : Word} {s : State} (hs0 : Keeps b0 d0 s0 s) {r0 : State} (e : execStructLoad t c engine window offset
        length s = .next r0) : Keeps b0 d0 s0 r0 := by
  unfold execStructLoad at e
  refine keeps_host hs0 ?_ e
  clear hs0 e r0
  try dsimp only
  repeat' first
    | with_reducible assumption
    | with_reducible refine keeps_ite ?_ ?_
    | intro _
    | with_reducible apply keeps_modSlot
    | with_reducible apply keeps_done
    | with_reducible refine keeps_orFail ?_ ?_
    | (rw [rest_eq]; with_reducible refine keeps_rest ?_ rfl (SameSto.refl _) ⟨rfl, rfl⟩)
    | split
    | dsimp only

theorem keeps_execStructUnload {b0 d0 : Bool} {s0 : State} {t : Nat} {c : Cmd} {engine : BitVec 4} {version : BitVec 16} {s :
    State} (hs0 : Keeps b0 d0 s0 s) {r0 : State} (e : execStructUnload t c engine version s = .next r0) : Keeps b0 d0 s0 r0 := by
  unfold execStructUnload at e
  refine keeps_host hs0 ?_ e
  clear hs0 e r0
  try dsimp only
  repeat' first
    | with_reducible assumption
    | with_reducible refine keeps_ite ?_ ?_
    | intro _
    | with_reducible apply keeps_modSlot
    | with_reducible apply keeps_done
    | (rw [rest_eq]; with_reducible refine keeps_rest ?_ rfl (SameSto.refl _) ⟨rfl, rfl⟩)
    | split
    | dsimp only

theorem keeps_execStructQuery {b0 d0 : Bool} {s0 : State} {t : Nat} {c : Cmd} {engine : BitVec 4} {slot : BitVec 3} {s : State}
    (hs0 : Keeps b0 d0 s0 s) {r0 : State} (e : execStructQuery t c engine slot s = .next r0) : Keeps b0 d0 s0 r0 := by
  unfold execStructQuery at e
  refine keeps_host hs0 ?_ e
  clear hs0 e r0
  try dsimp only
  repeat' first
    | with_reducible assumption
    | intro _
    | with_reducible apply keeps_done
    | (rw [rest_eq]; with_reducible refine keeps_rest ?_ rfl (SameSto.refl _) ⟨rfl, rfl⟩)
    | split
    | dsimp only

theorem keeps_execSolve {b0 d0 : Bool} {s0 : State} {t : Nat} {c : Cmd} {engine : BitVec 4} {slot : BitVec 3} {deltaWindow :
    Word} {deltaOffset : DWord} {resultWindow : Word} {resultOffset : DWord} {capacity : BitVec 24} {s : State} (hs0 : Keeps b0
        d0 s0 s) {r0 : State} (e : execSolve t c engine slot deltaWindow deltaOffset resultWindow resultOffset capacity s =
            .next r0) : Keeps b0 d0 s0 r0 := by
  unfold execSolve at e
  refine keeps_hostWait hs0 ?_ e
  clear hs0 e r0
  try dsimp only
  repeat' first
    | with_reducible assumption
    | with_reducible refine keeps_ite ?_ ?_
    | intro _
    | with_reducible apply keeps_done
    | with_reducible refine keeps_orFail ?_ ?_
    | with_reducible refine keeps_admitOr ?_ ?_
    | with_reducible apply keeps_placeSolve
    | (rw [rest_eq]; with_reducible refine keeps_rest ?_ rfl (SameSto.refl _) ⟨rfl, rfl⟩)
    | split
    | dsimp only

theorem keeps_placeBatch {b0 d0 : Bool} {s0 : State} {s : State} {b : Batch} (hs0 : Keeps b0 d0 s0 s) : Keeps b0 d0 s0
    (placeBatch s b) := by
  unfold placeBatch
  try dsimp only
  repeat' first
    | with_reducible assumption
    | intro _
    | with_reducible apply keeps_placeSolve
    | with_reducible apply keeps_foldl
    | (rw [rest_eq]; with_reducible refine keeps_rest ?_ rfl (SameSto.refl _) ⟨rfl, rfl⟩)
    | split

theorem keeps_submitBatch {b0 d0 : Bool} {s0 : State} {s : State} {c : Cmd} {session : Option Word} {p : Nat} {cls : Nat} {sq :
    Nat} {key : Nat} {n : Nat} (hs0 : Keeps b0 d0 s0 s) : Keeps b0 d0 s0 (submitBatch s c session p cls sq key n) := by
  unfold submitBatch
  try dsimp only
  repeat' first
    | with_reducible assumption
    | with_reducible exact Keeps.refl _
    | with_reducible refine keeps_ite ?_ ?_
    | intro _
    | (with_reducible apply keeps_done)
    | (with_reducible apply keeps_refuseAdmission)
    | (with_reducible refine keeps_admitOr ?_ ?_)
    | (with_reducible apply keeps_placeBatch)
    | (with_reducible apply keeps_foldl)
    | (with_reducible apply keeps_foldl_fst)
    | (rw [rest_eq]; with_reducible refine keeps_rest ?_ rfl (SameSto.refl _) ⟨rfl, rfl⟩)
    | (rw [rest_eq]; with_reducible refine keeps_rest ?_ rfl ⟨rfl, rfl, rfl, rfl, rfl, rfl⟩ ⟨rfl, rfl⟩)
    | (with_reducible apply keeps_foldl_fst2)
    | split
    | (dsimp only)

theorem keeps_execScenarioBatch {b0 d0 : Bool} {s0 : State} {t : Nat} {c : Cmd} {window : Word} {offset : DWord} {s : State}
    (hs0 : Keeps b0 d0 s0 s) {r0 : State} (e : execScenarioBatch t c window offset s = .next r0) : Keeps b0 d0 s0 r0 := by
  unfold execScenarioBatch at e
  refine keeps_hostWait hs0 ?_ e
  clear hs0 e r0
  try dsimp only
  repeat' first
    | with_reducible assumption
    | with_reducible refine keeps_ite ?_ ?_
    | intro _
    | with_reducible apply keeps_done
    | with_reducible refine keeps_orFail ?_ ?_
    | with_reducible apply keeps_submitBatch
    | (rw [rest_eq]; with_reducible refine keeps_rest ?_ rfl (SameSto.refl _) ⟨rfl, rfl⟩)
    | split
    | dsimp only

theorem keeps_execSolveDiagRead {b0 d0 : Bool} {s0 : State} {t : Nat} {c : Cmd} {engine : BitVec 4} {slot : BitVec 3} {window :
    Word} {offset : DWord} {capacity : BitVec 24} {s : State} (hs0 : Keeps b0 d0 s0 s) {r0 : State} (e : execSolveDiagRead t c
        engine slot window offset capacity s = .next r0) : Keeps b0 d0 s0 r0 := by
  unfold execSolveDiagRead at e
  refine keeps_host hs0 ?_ e
  clear hs0 e r0
  try dsimp only
  repeat' first
    | with_reducible assumption
    | with_reducible refine keeps_ite ?_ ?_
    | intro _
    | with_reducible apply keeps_done
    | with_reducible apply keeps_writeReply
    | (rw [rest_eq]; with_reducible refine keeps_rest ?_ rfl (SameSto.refl _) ⟨rfl, rfl⟩)
    | split

theorem keeps_execEngineStatus {b0 d0 : Bool} {s0 : State} {t : Nat} {c : Cmd} {engine : BitVec 4} {s : State} (hs0 : Keeps b0
    d0 s0 s) {r0 : State} (e : execEngineStatus t c engine s = .next r0) : Keeps b0 d0 s0 r0 := by
  unfold execEngineStatus at e
  refine keeps_host hs0 ?_ e
  clear hs0 e r0
  try dsimp only
  repeat' first
    | with_reducible assumption
    | with_reducible refine keeps_ite ?_ ?_
    | intro _
    | with_reducible apply keeps_done
    | with_reducible apply keeps_foldl
    | (rw [rest_eq]; with_reducible refine keeps_rest ?_ rfl (SameSto.refl _) ⟨rfl, rfl⟩)
    | split
    | dsimp only

theorem keeps_execSolveStart {b0 d0 : Bool} {s0 : State} {t : Nat} {engine : Nat} {imageError : Bool} {s : State} (hs0 : Keeps
    b0 d0 s0 s) {r0 : State} (e : execSolveStart t engine imageError s = .next r0) : Keeps b0 d0 s0 r0 := by
  unfold execSolveStart at e
  refine keeps_event hs0 ?_ e
  clear hs0 e r0
  try dsimp only
  repeat' first
    | with_reducible assumption
    | with_reducible refine keeps_ite ?_ ?_
    | intro _
    | with_reducible apply keeps_safeTrigger
    | with_reducible apply keeps_startSolve
    | (rw [rest_eq]; with_reducible refine keeps_rest ?_ rfl (SameSto.refl _) ⟨rfl, rfl⟩)
    | split
    | dsimp only

theorem keeps_execSolveWriteoutStart {b0 d0 : Bool} {s0 : State} {t : Nat} {engine : Nat} {s : State} (hs0 : Keeps b0 d0 s0 s)
    {r0 : State} (e : execSolveWriteoutStart t engine s = .next r0) : Keeps b0 d0 s0 r0 := by
  unfold execSolveWriteoutStart at e
  refine keeps_event hs0 ?_ e
  clear hs0 e r0
  try dsimp only
  repeat' first
    | with_reducible assumption
    | with_reducible refine keeps_ite ?_ ?_
    | intro _
    | with_reducible apply keeps_modEngine
    | with_reducible apply keeps_missSolves
    | (rw [rest_eq]; with_reducible refine keeps_rest ?_ rfl (SameSto.refl _) ⟨rfl, rfl⟩)
    | split

theorem keeps_execSolveComplete {b0 d0 : Bool} {s0 : State} {t : Nat} {engine : Nat} {s : State} (hs0 : Keeps b0 d0 s0 s) {r0 :
    State} (e : execSolveComplete t engine s = .next r0) : Keeps b0 d0 s0 r0 := by
  unfold execSolveComplete at e
  refine keeps_event hs0 ?_ e
  clear hs0 e r0
  try dsimp only
  repeat' first
    | with_reducible assumption
    | with_reducible refine keeps_ite ?_ ?_
    | intro _
    | with_reducible apply keeps_discardStale
    | with_reducible apply keeps_completeSolve
    | (rw [rest_eq]; with_reducible refine keeps_rest ?_ rfl (SameSto.refl _) ⟨rfl, rfl⟩)
    | split
    | dsimp only

theorem keeps_abortEngineEtches {b0 d0 : Bool} {s0 : State} {s : State} {e : Nat} (hs0 : Keeps b0 d0 s0 s) : Keeps b0 d0 s0
    (abortEngineEtches s e) := by
  unfold abortEngineEtches
  try dsimp only
  repeat' first
    | with_reducible assumption
    | intro _
    | with_reducible apply keeps_setEtch
    | with_reducible apply keeps_etchComplete
    | with_reducible apply keeps_restoreFallback
    | with_reducible apply keeps_foldl
    | dsimp only

theorem keeps_missStale {b0 d0 : Bool} {s0 : State} {s : State} {o : Outstanding} {d : PhaseValue} {sq : Nat} (hs0 : Keeps b0
    d0 s0 s) : Keeps b0 d0 s0 (missStale s o d sq) := by
  unfold missStale
  try dsimp only
  repeat' first
    | with_reducible assumption
    | with_reducible refine keeps_ite ?_ ?_
    | with_reducible apply keeps_huskMiss
    | with_reducible apply keeps_missDeadline
    | split
    | dsimp only

theorem keeps_dropStale {b0 d0 : Bool} {s0 : State} {s : State} {e : Nat} (hs0 : Keeps b0 d0 s0 s) : Keeps b0 d0 s0 (dropStale
    s e) := by
  unfold dropStale
  try dsimp only
  repeat' first
    | with_reducible assumption
    | with_reducible refine keeps_ite ?_ ?_
    | intro _
    | with_reducible apply keeps_modOut
    | with_reducible apply keeps_done
    | with_reducible apply keeps_missStale
    | with_reducible apply keeps_discardStale
    | with_reducible apply keeps_foldl
    | (rw [rest_eq]; with_reducible refine keeps_rest ?_ rfl (SameSto.refl _) ⟨rfl, rfl⟩)
    | split
    | dsimp only

theorem keeps_dropStaleBatch {b0 d0 : Bool} {s0 : State} {s : State} {e : Nat} {k : CmdKey} (hs0 : Keeps b0 d0 s0 s) : Keeps b0
    d0 s0 (dropStaleBatch s e k) := by
  unfold dropStaleBatch
  try dsimp only
  repeat' first
    | with_reducible assumption
    | with_reducible refine keeps_ite ?_ ?_
    | intro _
    | with_reducible apply keeps_modBatch
    | with_reducible apply keeps_batchAdvance
    | with_reducible apply keeps_batchArmed
    | with_reducible apply keeps_stopChecks
    | with_reducible apply keeps_stopArming
    | with_reducible apply keeps_discardStale
    | with_reducible apply keeps_stopSolves
    | with_reducible apply keeps_foldl
    | (rw [rest_eq]; with_reducible refine keeps_rest ?_ rfl (SameSto.refl _) ⟨rfl, rfl⟩)
    | split
    | dsimp only

theorem keeps_discardPlacement {b0 d0 : Bool} {s0 : State} {s : State} {e : Nat} (hs0 : Keeps b0 d0 s0 s) : Keeps b0 d0 s0
    (discardPlacement s e) := by
  unfold discardPlacement
  try dsimp only
  repeat' first
    | with_reducible assumption
    | intro _
    | with_reducible apply keeps_dropStale
    | with_reducible apply keeps_dropStaleBatch
    | with_reducible apply keeps_foldl

theorem keeps_swapEngine {b0 d0 : Bool} {s0 : State} {s : State} {e : Nat} {spare : Nat} {c : Option Cmd} (hs0 : Keeps b0 d0 s0
    s) : Keeps b0 d0 s0 (swapEngine s e spare c) := by
  unfold swapEngine
  try dsimp only
  repeat' first
    | with_reducible assumption
    | with_reducible refine keeps_ite ?_ ?_
    | intro _
    | with_reducible apply keeps_modEngine
    | with_reducible apply keeps_abortEngineEtches
    | with_reducible apply keeps_discardPlacement
    | (rw [rest_eq]; with_reducible refine keeps_rest ?_ rfl (SameSto.refl _) ⟨rfl, rfl⟩)
    | split
    | dsimp only

theorem keeps_failWaiting {b0 d0 : Bool} {s0 : State} {s : State} {e : Nat} (hs0 : Keeps b0 d0 s0 s) : Keeps b0 d0 s0
    (failWaiting s e) := by
  unfold failWaiting
  try dsimp only
  repeat' first
    | with_reducible assumption
    | intro _
    | with_reducible apply keeps_refuseSolve
    | with_reducible apply keeps_foldl

theorem keeps_fenceEngine {b0 d0 : Bool} {s0 : State} {s : State} {e : Nat} (hs0 : Keeps b0 d0 s0 s) : Keeps b0 d0 s0
    (fenceEngine s e) := by
  unfold fenceEngine
  try dsimp only
  repeat' first
    | with_reducible assumption
    | with_reducible refine keeps_ite ?_ ?_
    | intro _
    | with_reducible apply keeps_modEngine
    | with_reducible apply keeps_endSolveImprint
    | with_reducible apply keeps_solveOver
    | with_reducible apply keeps_chargeRun
    | (rw [rest_eq]; with_reducible refine keeps_rest ?_ rfl (SameSto.refl _) ⟨rfl, rfl⟩)
    | split
    | dsimp only

theorem keeps_engineFaulted {b0 d0 : Bool} {s0 : State} {s : State} {e : Nat} {cause : Nat} (hs0 : Keeps b0 d0 s0 s) : Keeps b0
    d0 s0 (engineFaulted s e cause) := by
  unfold engineFaulted
  try dsimp only
  repeat' first
    | with_reducible assumption
    | with_reducible refine keeps_ite ?_ ?_
    | intro _
    | with_reducible apply keeps_modEngine
    | with_reducible apply keeps_huskFault
    | with_reducible apply keeps_swapEngine
    | with_reducible apply keeps_failWaiting
    | with_reducible apply keeps_fenceEngine
    | (rw [rest_eq]; with_reducible refine keeps_rest ?_ rfl (SameSto.refl _) ⟨rfl, rfl⟩)
    | split
    | dsimp only

theorem keeps_execEngineOverrun {b0 d0 : Bool} {s0 : State} {t : Nat} {engine : Nat} {s : State} (hs0 : Keeps b0 d0 s0 s) {r0 :
    State} (e : execEngineOverrun t engine s = .next r0) : Keeps b0 d0 s0 r0 := by
  unfold execEngineOverrun at e
  refine keeps_event hs0 ?_ e
  clear hs0 e r0
  try dsimp only
  repeat' first
    | with_reducible assumption
    | with_reducible refine keeps_ite ?_ ?_
    | intro _
    | with_reducible apply keeps_engineFaulted
    | (rw [rest_eq]; with_reducible refine keeps_rest ?_ rfl (SameSto.refl _) ⟨rfl, rfl⟩)
    | split

theorem keeps_execEngineFault {b0 d0 : Bool} {s0 : State} {t : Nat} {engine : Nat} {s : State} (hs0 : Keeps b0 d0 s0 s) {r0 :
    State} (e : execEngineFault t engine s = .next r0) : Keeps b0 d0 s0 r0 := by
  unfold execEngineFault at e
  refine keeps_event hs0 ?_ e
  clear hs0 e r0
  try dsimp only
  repeat' first
    | with_reducible assumption
    | intro _
    | with_reducible apply keeps_engineFaulted

theorem keeps_execSpareEngineReady {b0 d0 : Bool} {s0 : State} {t : Nat} {s : State} (hs0 : Keeps b0 d0 s0 s) {r0 : State} (e :
    execSpareEngineReady t s = .next r0) : Keeps b0 d0 s0 r0 := by
  unfold execSpareEngineReady at e
  refine keeps_event hs0 ?_ e
  clear hs0 e r0
  try dsimp only
  repeat' first
    | with_reducible assumption
    | intro _
    | with_reducible apply keeps_modEngine
    | with_reducible apply keeps_done
    | with_reducible apply keeps_raiseEvent
    | with_reducible apply keeps_huskRequest
    | with_reducible apply keeps_repairEntry
    | (rw [rest_eq]; with_reducible refine keeps_rest ?_ rfl (SameSto.refl _) ⟨rfl, rfl⟩)
    | split
    | dsimp only

/-! Machine/ServeAction.lean. -/

theorem keeps_armHeld {b0 d0 : Bool} {s0 : State} {s : State} {l : Loop} {a : ActionBinding} {group : Nat} {id : Nat} {commit :
    PhaseValue} {armBy : PhaseValue} (hs0 : Keeps b0 d0 s0 s) : Keeps b0 d0 s0 (armHeld s l a group id commit armBy).1 := by
  unfold armHeld
  try dsimp only
  repeat' first
    | with_reducible assumption
    | with_reducible exact Keeps.refl _
    | with_reducible refine keeps_ite ?_ ?_
    | intro _
    | (with_reducible apply keeps_releaseEtch)
    | (with_reducible refine keeps_stageEtch ?_ (by assumption))
    | (with_reducible refine keeps_stageEtch_eq ?_ (by assumption))
    | (with_reducible apply keeps_foldl)
    | (with_reducible apply keeps_foldl_fst)
    | (rw [rest_eq]; with_reducible refine keeps_rest ?_ rfl (SameSto.refl _) ⟨rfl, rfl⟩)
    | (rw [rest_eq]; with_reducible refine keeps_rest ?_ rfl ⟨rfl, rfl, rfl, rfl, rfl, rfl⟩ ⟨rfl, rfl⟩)
    | (rw [restMem_eq]; with_reducible refine keeps_restMem ?_ ?_ rfl (SameSto.refl _) ⟨rfl, rfl⟩)
    | (rw [memDev_eq]; with_reducible refine memOk_memDev ?_ ?_)
    | (refine (foldl_clear_mem _ _ _ _ ▸ ‹MemOk (List.foldl _ _ _).mem› : MemOk _); done)
    | (rename_i hmf; rw [foldl_clear_mem] at hmf; exact hmf)
    | with_reducible apply memOk_writeKey
    | with_reducible apply memOk_pokeElem
    | with_reducible apply memOk_putElem
    | with_reducible apply memOk_copySlot
    | with_reducible apply memOk_foldl
    | with_reducible apply memOk_foldFlagged
    | with_reducible apply memOk_scatterRow
    | with_reducible apply memOk_storeCounts
    | with_reducible apply memOk_applyItem
    | with_reducible apply memOk_applyCopies
    | with_reducible apply memOk_fieldOpRun
    | with_reducible apply wf_clear
    | with_reducible apply wf_filter
    | with_reducible apply wf_write'
    | with_reducible apply wf_put'
    | with_reducible apply wf_foldl
    | with_reducible apply wf_foldl_snd
    | with_reducible apply MemOk.dev
    | (with_reducible apply keeps_foldl_fst2)
    | split
    | (dsimp only)
theorem keeps_armHeld_eq {b0 d0 : Bool} {s0 : State} {s : State} {l : Loop} {a : ActionBinding} {group : Nat} {id : Nat}
    {commit : PhaseValue} {armBy : PhaseValue} (hs0 : Keeps b0 d0 s0 s) {r0 : State} {y0 : Nat} (e : armHeld s l a group id
        commit armBy = (r0, y0)) : Keeps b0 d0 s0 r0 := by
  have k := keeps_armHeld (s := s) (l := l) (a := a) (group := group) (id := id) (commit := commit) (armBy := armBy) hs0
  rw [e] at k
  exact k

theorem keeps_cycleBatch {b0 d0 : Bool} {s0 : State} {s : State} {l : Loop} {a : ActionBinding} {id : Nat} {held : Nat} {k :
    Nat} {deadline : PhaseValue} {packet : Nat → Bytes} (hs0 : Keeps b0 d0 s0 s) : Keeps b0 d0 s0 (cycleBatch s l a id held k
        deadline packet) := by
  unfold cycleBatch
  try dsimp only
  repeat' first
    | with_reducible assumption
    | with_reducible refine keeps_ite ?_ ?_
    | intro _
    | with_reducible apply keeps_submitBatch
    | with_reducible apply keeps_foldl
    | (rw [rest_eq]; with_reducible refine keeps_rest ?_ rfl (SameSto.refl _) ⟨rfl, rfl⟩)
    | (rw [restMem_eq]; with_reducible refine keeps_restMem ?_ ?_ rfl (SameSto.refl _) ⟨rfl, rfl⟩)
    | (rw [memDev_eq]; with_reducible refine memOk_memDev ?_ ?_)
    | with_reducible apply memOk_foldl
    | with_reducible apply wf_foldl
    | with_reducible apply wf_foldl_snd
    | with_reducible apply wf_write'
    | with_reducible apply MemOk.dev
    | split
    | dsimp only

theorem keeps_restartCycle {b0 d0 : Bool} {s0 : State} {s : State} {l : Loop} {a : ActionBinding} (hs0 : Keeps b0 d0 s0 s) :
    Keeps b0 d0 s0 (restartCycle s l a).1 := by
  unfold restartCycle
  try dsimp only
  repeat' first
    | with_reducible assumption
    | with_reducible refine keeps_ite ?_ ?_
    | intro _
    | with_reducible apply keeps_takeFree
    | with_reducible apply keeps_armHeld
    | with_reducible refine keeps_armHeld_eq ?_ (by assumption)
    | with_reducible apply keeps_cycleBatch
    | (rw [rest_eq]; with_reducible refine keeps_rest ?_ rfl (SameSto.refl _) ⟨rfl, rfl⟩)
    | (rw [restMem_eq]; with_reducible refine keeps_restMem ?_ ?_ rfl (SameSto.refl _) ⟨rfl, rfl⟩)
    | (rw [memDev_eq]; with_reducible refine memOk_memDev ?_ ?_)
    | with_reducible apply wf_write'
    | with_reducible apply MemOk.dev
    | split
    | dsimp only
theorem keeps_restartCycle_eq {b0 d0 : Bool} {s0 : State} {s : State} {l : Loop} {a : ActionBinding} (hs0 : Keeps b0 d0 s0 s)
    {r0 : State} {y0 : ActionBinding} (e : restartCycle s l a = (r0, y0)) : Keeps b0 d0 s0 r0 := by
  have k := keeps_restartCycle (s := s) (l := l) (a := a) hs0
  rw [e] at k
  exact k

theorem keeps_planCycle {b0 d0 : Bool} {s0 : State} {s : State} {l : Loop} {a : ActionBinding} (hs0 : Keeps b0 d0 s0 s) : Keeps
    b0 d0 s0 (planCycle s l a).1 := by
  unfold planCycle
  try dsimp only
  repeat' first
    | with_reducible assumption
    | with_reducible refine keeps_ite ?_ ?_
    | intro _
    | with_reducible apply keeps_takeFree
    | with_reducible apply keeps_armHeld
    | with_reducible refine keeps_armHeld_eq ?_ (by assumption)
    | with_reducible apply keeps_cycleBatch
    | (rw [rest_eq]; with_reducible refine keeps_rest ?_ rfl (SameSto.refl _) ⟨rfl, rfl⟩)
    | split
    | dsimp only
theorem keeps_planCycle_eq {b0 d0 : Bool} {s0 : State} {s : State} {l : Loop} {a : ActionBinding} (hs0 : Keeps b0 d0 s0 s) {r0
    : State} {y0 : ActionBinding} (e : planCycle s l a = (r0, y0)) : Keeps b0 d0 s0 r0 := by
  have k := keeps_planCycle (s := s) (l := l) (a := a) hs0
  rw [e] at k
  exact k

theorem keeps_actionSlot {b0 d0 : Bool} {s0 : State} {s : State} {slot : Nat} (hs0 : Keeps b0 d0 s0 s) : Keeps b0 d0 s0
    (actionSlot s slot) := by
  unfold actionSlot
  try dsimp only
  repeat' first
    | with_reducible assumption
    | with_reducible refine keeps_ite ?_ ?_
    | intro _
    | with_reducible apply keeps_restartCycle
    | with_reducible refine keeps_restartCycle_eq ?_ (by assumption)
    | with_reducible apply keeps_planCycle
    | with_reducible refine keeps_planCycle_eq ?_ (by assumption)
    | with_reducible apply keeps_foldl
    | with_reducible apply keeps_foldl_fst
    | (rw [rest_eq]; with_reducible refine keeps_rest ?_ rfl (SameSto.refl _) ⟨rfl, rfl⟩)
    | split
    | dsimp only

/-! Machine/Serve.lean. -/

theorem keeps_serveAlloc {b0 d0 : Bool} {s0 : State} {s : State} {x : Session} {bytes : Nat} {lo : Nat} {hi : Nat} (hs0 : Keeps
    b0 d0 s0 s) {r0 : State × Nat} (e : serveAlloc s x bytes lo hi = some r0) : Keeps b0 d0 s0 r0.1 := by
  unfold serveAlloc at e
  try dsimp only at e
  repeat' first
    | (split at e)
    | (cases e; done)
    | (cases e; dsimp only)
    | cases e
    | with_reducible assumption
    | with_reducible refine keeps_ite ?_ ?_
    | with_reducible apply keeps_takeFree
    | (rw [rest_eq]; with_reducible refine keeps_rest ?_ rfl (SameSto.refl _) ⟨rfl, rfl⟩)
    | split
    | dsimp only
theorem keeps_serveAlloc_eq {b0 d0 : Bool} {s0 : State} {s : State} {x : Session} {bytes : Nat} {lo : Nat} {hi : Nat} (hs0 :
    Keeps b0 d0 s0 s) {r0 : State} {y0 : Nat} (e : serveAlloc s x bytes lo hi = some (r0, y0)) : Keeps b0 d0 s0 r0 :=
  keeps_serveAlloc hs0 e

theorem keeps_serveAllocs {b0 d0 : Bool} {s0 : State} {x : Session} {l : List Nat} {s : State} (h : Keeps b0 d0 s0 s) {r :
    State × List Nat}
    (e : serveAllocs x l s = some r) : Keeps b0 d0 s0 r.1 := by
  induction l generalizing s r with
  | nil => cases e; exact h
  | cons n l ih =>
    unfold serveAllocs at e
    split at e
    · cases e
    · next e1 =>
      split at e
      · cases e
      · next e2 => cases e; exact (ih (keeps_serveAlloc_eq h e1) e2 :)
theorem keeps_serveAllocs_eq {b0 d0 : Bool} {s0 : State} {x : Session} {l : List Nat} {s : State} (h : Keeps b0 d0 s0 s) {r :
    State} {y : List Nat}
    (e : serveAllocs x l s = some (r, y)) : Keeps b0 d0 s0 r := keeps_serveAllocs h e

theorem keeps_levelJob {b0 d0 : Bool} {s0 : State} {s : State} {p : Nat} {session : Word} (hs0 : Keeps b0 d0 s0 s) : Keeps b0
    d0 s0 (levelJob s p session) := by
  unfold levelJob
  try dsimp only
  repeat' first
    | with_reducible assumption
    | with_reducible refine keeps_ite ?_ ?_
    | with_reducible apply keeps_levelShare
    | split

theorem keeps_execServeConfig {b0 d0 : Bool} {s0 : State} {t : Nat} {c : Cmd} {window : Word} {offset : DWord} {s : State} (hs0
    : Keeps b0 d0 s0 s) {r0 : State} (e : execServeConfig t c window offset s = .next r0) : Keeps b0 d0 s0 r0 := by
  unfold execServeConfig at e
  refine keeps_host hs0 ?_ e
  clear hs0 e r0
  try dsimp only
  repeat' first
    | with_reducible assumption
    | with_reducible refine keeps_ite ?_ ?_
    | intro _
    | with_reducible apply keeps_done
    | with_reducible refine keeps_orFail ?_ ?_
    | with_reducible refine keeps_serveAllocs ?_ (by assumption)
    | with_reducible refine keeps_serveAllocs_eq ?_ (by assumption)
    | with_reducible apply keeps_levelJob
    | with_reducible refine keeps_onDev ?_ ?_
    | with_reducible apply keeps_writeHeader
    | (rw [rest_eq]; with_reducible refine keeps_rest ?_ rfl (SameSto.refl _) ⟨rfl, rfl⟩)
    | with_reducible apply wf_clear
    | with_reducible apply wf_write'
    | with_reducible apply MemOk.dev
    | split
    | dsimp only

theorem keeps_withLoop {b0 d0 : Bool} {s0 s : State} {c : Cmd} {k : Loop → State} (h : Keeps b0 d0 s0 s) (hk : ∀ a, Keeps b0 d0
    s0 (k a)) :
    Keeps b0 d0 s0 (withLoop s c k) := by
  unfold withLoop
  repeat' first
    | assumption
    | exact keeps_done h
    | exact hk _
    | split

theorem keeps_execServeStop {b0 d0 : Bool} {s0 : State} {t : Nat} {c : Cmd} {s : State} (hs0 : Keeps b0 d0 s0 s) {r0 : State}
    (e : execServeStop t c s = .next r0) : Keeps b0 d0 s0 r0 := by
  unfold execServeStop at e
  refine keeps_host hs0 ?_ e
  clear hs0 e r0
  try dsimp only
  repeat' first
    | with_reducible assumption
    | with_reducible refine keeps_ite ?_ ?_
    | intro _
    | with_reducible apply keeps_done
    | with_reducible refine keeps_withLoop ?_ ?_
    | with_reducible apply keeps_setLoop
    | (rw [rest_eq]; with_reducible refine keeps_rest ?_ rfl (SameSto.refl _) ⟨rfl, rfl⟩)
    | split

theorem keeps_execServeStatus {b0 d0 : Bool} {s0 : State} {t : Nat} {c : Cmd} {s : State} (hs0 : Keeps b0 d0 s0 s) {r0 : State}
    (e : execServeStatus t c s = .next r0) : Keeps b0 d0 s0 r0 := by
  unfold execServeStatus at e
  refine keeps_host hs0 ?_ e
  clear hs0 e r0
  try dsimp only
  repeat' first
    | with_reducible assumption
    | intro _
    | with_reducible apply keeps_done
    | with_reducible refine keeps_withLoop ?_ ?_

theorem keeps_withSeq {b0 d0 : Bool} {s0 s : State} {c : Cmd} {id : Word} {k : Loop → Sequence → State} (h : Keeps b0 d0 s0 s)
    (hk : ∀ a b, Keeps b0 d0 s0 (k a b)) : Keeps b0 d0 s0 (withSeq s c id k) := by
  unfold withSeq
  dsimp only
  repeat' first
    | assumption
    | exact keeps_done h
    | exact hk _ _
    | split

theorem keeps_execSeqJoin {b0 d0 : Bool} {s0 : State} {t : Nat} {c : Cmd} {window : Word} {promptOffset : DWord} {promptTokens
    : BitVec 18} {maxNew : BitVec 16} {wait : Bool} {outWindow : Word} {outOffset : DWord} {s : State} (hs0 : Keeps b0 d0 s0 s)
        {r0 : State} (e : execSeqJoin t c window promptOffset promptTokens maxNew wait outWindow outOffset s = .next r0) :
            Keeps b0 d0 s0 r0 := by
  unfold execSeqJoin at e
  refine keeps_host hs0 ?_ e
  clear hs0 e r0
  try dsimp only
  repeat' first
    | with_reducible assumption
    | with_reducible refine keeps_ite ?_ ?_
    | intro _
    | with_reducible apply keeps_takeFree
    | with_reducible apply keeps_done
    | with_reducible refine keeps_orFail ?_ ?_
    | with_reducible refine keeps_withLoop ?_ ?_
    | with_reducible apply keeps_hashTime
    | with_reducible apply keeps_setLoop
    | (rw [rest_eq]; with_reducible refine keeps_rest ?_ rfl (SameSto.refl _) ⟨rfl, rfl⟩)
    | split
    | dsimp only

theorem keeps_execSeqDraft {b0 d0 : Bool} {s0 : State} {t : Nat} {c : Cmd} {sequence : Word} {nodes : BitVec 3} {length :
    BitVec 18} {parents : Word} {tokens : List Word} {s : State} (hs0 : Keeps b0 d0 s0 s) {r0 : State} (e : execSeqDraft t c
        sequence nodes length parents tokens s = .next r0) : Keeps b0 d0 s0 r0 := by
  unfold execSeqDraft at e
  refine keeps_host hs0 ?_ e
  clear hs0 e r0
  try dsimp only
  repeat' first
    | with_reducible assumption
    | with_reducible refine keeps_ite ?_ ?_
    | intro _
    | with_reducible apply keeps_done
    | with_reducible refine keeps_withSeq ?_ ?_
    | with_reducible apply keeps_draftDone
    | with_reducible apply keeps_setLoop
    | (rw [rest_eq]; with_reducible refine keeps_rest ?_ rfl (SameSto.refl _) ⟨rfl, rfl⟩)
    | split
    | dsimp only

theorem keeps_execSeqLeave {b0 d0 : Bool} {s0 : State} {t : Nat} {c : Cmd} {sequence : Word} {s : State} (hs0 : Keeps b0 d0 s0
    s) {r0 : State} (e : execSeqLeave t c sequence s = .next r0) : Keeps b0 d0 s0 r0 := by
  unfold execSeqLeave at e
  refine keeps_host hs0 ?_ e
  clear hs0 e r0
  try dsimp only
  repeat' first
    | with_reducible assumption
    | with_reducible refine keeps_ite ?_ ?_
    | intro _
    | with_reducible apply keeps_done
    | with_reducible refine keeps_withSeq ?_ ?_
    | with_reducible apply keeps_setLoop
    | (rw [rest_eq]; with_reducible refine keeps_rest ?_ rfl (SameSto.refl _) ⟨rfl, rfl⟩)
    | split

theorem keeps_execSeqStatus {b0 d0 : Bool} {s0 : State} {t : Nat} {c : Cmd} {sequence : Word} {window : Word} {offset : DWord}
    {s : State} (hs0 : Keeps b0 d0 s0 s) {r0 : State} (e : execSeqStatus t c sequence window offset s = .next r0) : Keeps b0 d0
        s0 r0 := by
  unfold execSeqStatus at e
  refine keeps_host hs0 ?_ e
  clear hs0 e r0
  try dsimp only
  repeat' first
    | with_reducible assumption
    | with_reducible refine keeps_ite ?_ ?_
    | intro _
    | with_reducible apply keeps_done
    | with_reducible apply keeps_writeReply
    | with_reducible refine keeps_withSeq ?_ ?_
    | (rw [rest_eq]; with_reducible refine keeps_rest ?_ rfl (SameSto.refl _) ⟨rfl, rfl⟩)
    | split
    | dsimp only

theorem keeps_execSeqRecompute {b0 d0 : Bool} {s0 : State} {t : Nat} {c : Cmd} {sequence : Word} {s : State} (hs0 : Keeps b0 d0
    s0 s) {r0 : State} (e : execSeqRecompute t c sequence s = .next r0) : Keeps b0 d0 s0 r0 := by
  unfold execSeqRecompute at e
  refine keeps_host hs0 ?_ e
  clear hs0 e r0
  try dsimp only
  repeat' first
    | with_reducible assumption
    | with_reducible refine keeps_ite ?_ ?_
    | intro _
    | with_reducible apply keeps_done
    | with_reducible refine keeps_withSeq ?_ ?_
    | with_reducible apply keeps_draftDone
    | with_reducible apply keeps_setLoop
    | (rw [rest_eq]; with_reducible refine keeps_rest ?_ rfl (SameSto.refl _) ⟨rfl, rfl⟩)
    | split

theorem keeps_execActionBind {b0 d0 : Bool} {s0 : State} {t : Nat} {c : Cmd} {sequence : Word} {engine : BitVec 4} {slot :
    BitVec 3} {stopEngine : BitVec 4} {stopSlot : BitVec 3} {limitSet : BitVec 4} {chunkCount : BitVec 7} {chunkExtra : BitVec
        6} {plateSlot : BitVec 12} {s : State} (hs0 : Keeps b0 d0 s0 s) {r0 : State} (e : execActionBind t c sequence engine
            slot stopEngine stopSlot limitSet chunkCount chunkExtra plateSlot s = .next r0) : Keeps b0 d0 s0 r0 := by
  unfold execActionBind at e
  refine keeps_host hs0 ?_ e
  clear hs0 e r0
  try dsimp only
  repeat' first
    | with_reducible assumption
    | with_reducible refine keeps_ite ?_ ?_
    | intro _
    | with_reducible apply keeps_done
    | with_reducible refine keeps_serveAlloc ?_ (by assumption)
    | with_reducible refine keeps_serveAlloc_eq ?_ (by assumption)
    | with_reducible refine keeps_withSeq ?_ ?_
    | with_reducible apply keeps_setLoop
    | (rw [rest_eq]; with_reducible refine keeps_rest ?_ rfl (SameSto.refl _) ⟨rfl, rfl⟩)
    | split
    | dsimp only

theorem keeps_dropLoop {b0 d0 : Bool} {s0 : State} {s : State} {l : Loop} (hs0 : Keeps b0 d0 s0 s) : Keeps b0 d0 s0 (dropLoop s
    l) := by
  unfold dropLoop
  try dsimp only
  repeat' first
    | with_reducible assumption
    | intro _
    | (rw [rest_eq]; with_reducible refine keeps_rest ?_ rfl (SameSto.refl _) ⟨rfl, rfl⟩)
    | dsimp only

theorem keeps_execStepBoundary {b0 d0 : Bool} {s0 : State} {t : Nat} {part : Nat} {s : State} (hs0 : Keeps b0 d0 s0 s) {r0 :
    State} (e : execStepBoundary t part s = .next r0) : Keeps b0 d0 s0 r0 := by
  unfold execStepBoundary at e
  refine keeps_event hs0 ?_ e
  clear hs0 e r0
  try dsimp only
  repeat' first
    | with_reducible assumption
    | with_reducible refine keeps_ite ?_ ?_
    | intro _
    | with_reducible apply keeps_done
    | with_reducible apply keeps_dropLoop
    | with_reducible apply keeps_boundaryFirst
    | with_reducible refine keeps_boundaryFirst_eq ?_ (by assumption)
    | with_reducible apply keeps_boundary
    | with_reducible refine keeps_boundary_eq ?_ (by assumption)
    | with_reducible apply keeps_setLoop
    | (rw [rest_eq]; with_reducible refine keeps_rest ?_ rfl (SameSto.refl _) ⟨rfl, rfl⟩)
    | split
    | dsimp only

/-! Machine/EtchCommit.lean. -/

theorem keeps_loadGroups {b0 d0 : Bool} {s0 : State} {s : State} {groups : List (List Word)} (hs0 : Keeps b0 d0 s0 s) : Keeps
    b0 d0 s0 (loadGroups s groups) := by
  unfold loadGroups
  try dsimp only
  repeat' first
    | with_reducible assumption
    | with_reducible refine keeps_ite ?_ ?_
    | intro _
    | (rw [rest_eq]; with_reducible refine keeps_rest ?_ rfl (SameSto.refl _) ⟨rfl, rfl⟩)
    | split
    | dsimp only

theorem keeps_migratePart {b0 d0 : Bool} {s0 : State} {s : State} {p : Nat} (hs0 : Keeps b0 d0 s0 s) : Keeps b0 d0 s0
    (migratePart s p) := by
  unfold migratePart
  try dsimp only
  repeat' first
    | with_reducible assumption
    | intro _
    | with_reducible apply keeps_afterRoute
    | with_reducible apply keeps_migrateRoute
    | with_reducible apply keeps_migrateAside
    | with_reducible apply keeps_modPart
    | (rw [rest_eq]; with_reducible refine keeps_rest ?_ rfl (SameSto.refl _) ⟨rfl, rfl⟩)
    | split
    | dsimp only

theorem keeps_moveEngine {b0 d0 : Bool} {s0 : State} {s : State} {n : Nat} (hs0 : Keeps b0 d0 s0 s) : Keeps b0 d0 s0
    (moveEngine s n) := by
  unfold moveEngine
  try dsimp only
  repeat' first
    | with_reducible assumption
    | intro _
    | with_reducible apply keeps_modEngine
    | with_reducible apply keeps_requeueSolve
    | (rw [rest_eq]; with_reducible refine keeps_rest ?_ rfl (SameSto.refl _) ⟨rfl, rfl⟩)
    | split
    | dsimp only

theorem keeps_dropUngranted {b0 d0 : Bool} {s0 : State} {s : State} {n : Nat} (hs0 : Keeps b0 d0 s0 s) : Keeps b0 d0 s0
    (dropUngranted s n) := by
  unfold dropUngranted
  try dsimp only
  repeat' first
    | with_reducible assumption
    | intro _
    | with_reducible apply keeps_refuseSolve
    | with_reducible apply keeps_foldl

theorem keeps_swapCommit {b0 d0 : Bool} {s0 : State} {s : State} {named : List Nat} {b : Bytes} {handle : Nat} {count : Nat}
    (hs0 : Keeps b0 d0 s0 s) : Keeps b0 d0 s0 (swapCommit s named b handle count) := by
  unfold swapCommit
  try dsimp only
  repeat' first
    | with_reducible assumption
    | with_reducible refine keeps_ite ?_ ?_
    | intro _
    | with_reducible apply keeps_loadGroups
    | with_reducible apply keeps_migratePart
    | with_reducible apply keeps_moveEngine
    | with_reducible apply keeps_dropUngranted
    | with_reducible apply keeps_bumpEpoch
    | with_reducible apply keeps_reshapeShares
    | with_reducible apply keeps_placeAgain
    | with_reducible apply keeps_foldl
    | (rw [rest_eq]; with_reducible refine keeps_rest ?_ rfl (SameSto.refl _) ⟨rfl, rfl⟩)
    | split
    | dsimp only

theorem keeps_refuseWaiting {b0 d0 : Bool} {s0 : State} {s : State} {k : CmdKey} {st : Status} (hs0 : Keeps b0 d0 s0 s) : Keeps
    b0 d0 s0 (refuseWaiting s k st) := by
  unfold refuseWaiting
  try dsimp only
  repeat' first
    | with_reducible assumption
    | intro _
    | with_reducible apply keeps_refuseRoute
    | with_reducible apply keeps_done
    | with_reducible apply keeps_admittedEnd
    | with_reducible apply keeps_dropBatch
    | with_reducible apply keeps_refuseSolve
    | with_reducible apply keeps_stopSolves
    | with_reducible apply keeps_foldl
    | (rw [rest_eq]; with_reducible refine keeps_rest ?_ rfl (SameSto.refl _) ⟨rfl, rfl⟩)
    | split
    | dsimp only

theorem keeps_retestHard {b0 d0 : Bool} {s0 : State} {s : State} {profile : Nat} (hs0 : Keeps b0 d0 s0 s) : Keeps b0 d0 s0
    (retestHard s profile) := by
  unfold retestHard
  try dsimp only
  repeat' first
    | with_reducible assumption
    | with_reducible refine keeps_ite ?_ ?_
    | intro _
    | with_reducible apply keeps_refuseWaiting
    | with_reducible apply keeps_foldl
    | (rw [rest_eq]; with_reducible refine keeps_rest ?_ rfl (SameSto.refl _) ⟨rfl, rfl⟩)
    | split
    | dsimp only

theorem keeps_commitPlan {b0 d0 : Bool} {s0 : State} {s : State} {g : Nat} {b : Bytes} {record : Option Nat} (hs0 : Keeps b0 d0
    s0 s) : Keeps b0 d0 s0 (commitPlan s g b record) := by
  unfold commitPlan
  try dsimp only
  repeat' first
    | with_reducible assumption
    | with_reducible refine keeps_ite ?_ ?_
    | intro _
    | with_reducible apply keeps_modGroup
    | with_reducible apply keeps_mapChannels
    | with_reducible apply keeps_leaveStop
    | with_reducible apply keeps_finishRestart
    | (rw [rest_eq]; with_reducible refine keeps_rest ?_ rfl (SameSto.refl _) ⟨rfl, rfl⟩)
    | (rw [rest_eq]; with_reducible refine keeps_rest ?_ rfl ⟨rfl, rfl, rfl, rfl, rfl, rfl⟩ ⟨rfl, rfl⟩)
    | split
    | dsimp only

theorem keeps_paramWrite {b0 d0 : Bool} {s0 : State} {s : State} {x : EtchAction} (hs0 : Keeps b0 d0 s0 s) : Keeps b0 d0 s0
    (paramWrite s x) := by
  unfold paramWrite
  try dsimp only
  repeat' first
    | with_reducible assumption
    | intro _
    | with_reducible apply keeps_modSlot
    | (rw [rest_eq]; with_reducible refine keeps_rest ?_ rfl (SameSto.refl _) ⟨rfl, rfl⟩)
    | split
    | dsimp only

theorem keeps_partWrite {b0 d0 : Bool} {s0 : State} {s : State} {x : EtchAction} (hs0 : Keeps b0 d0 s0 s) : Keeps b0 d0 s0
    (partWrite s x) := by
  unfold partWrite
  try dsimp only
  repeat' first
    | with_reducible assumption
    | intro _
    | with_reducible apply keeps_modPart
    | (rw [rest_eq]; with_reducible refine keeps_rest ?_ rfl (SameSto.refl _) ⟨rfl, rfl⟩)
    | split
    | dsimp only

theorem keeps_applyAction {b0 d0 : Bool} {s0 : State} {s : State} {e : Etch} {source : Nat} {x : EtchAction} {b : Bytes} (hs0 :
    Keeps b0 d0 s0 s) : Keeps b0 d0 s0 (applyAction s e source x b) := by
  unfold applyAction
  try dsimp only
  repeat' first
    | with_reducible assumption
    | with_reducible refine keeps_ite ?_ ?_
    | intro _
    | with_reducible apply keeps_retestHard
    | with_reducible apply keeps_commitPlan
    | with_reducible apply keeps_paramWrite
    | with_reducible apply keeps_partWrite
    | with_reducible apply keeps_modSlot
    | with_reducible apply keeps_applyBlock
    | with_reducible apply keeps_moveEncoderSources
    | with_reducible apply keeps_startUnit
    | with_reducible apply keeps_startProfile
    | with_reducible apply keeps_modPart
    | with_reducible apply keeps_modChannel
    | (rw [rest_eq]; with_reducible refine keeps_rest ?_ rfl (SameSto.refl _) ⟨rfl, rfl⟩)
    | (rw [rest_eq]; with_reducible refine keeps_rest ?_ rfl ⟨rfl, rfl, rfl, rfl, rfl, rfl⟩ ⟨rfl, rfl⟩)
    | split
    | dsimp only

theorem keeps_huskEtch {b0 d0 : Bool} {s0 : State} {s : State} {e : Etch} {source : Nat} (hs0 : Keeps b0 d0 s0 s) : Keeps b0 d0
    s0 (huskEtch s e source) := by
  unfold huskEtch
  try dsimp only
  repeat' first
    | with_reducible assumption
    | with_reducible apply keeps_huskRequest
    | (rw [rest_eq]; with_reducible refine keeps_rest ?_ rfl (SameSto.refl _) ⟨rfl, rfl⟩)
    | split

theorem keeps_commitEtch {b0 d0 : Bool} {s0 : State} {s : State} {e : Etch} (hs0 : Keeps b0 d0 s0 s) : Keeps b0 d0 s0
    (commitEtch s e) := by
  unfold commitEtch
  try dsimp only
  repeat' first
    | with_reducible assumption
    | with_reducible refine keeps_ite ?_ ?_
    | intro _
    | with_reducible apply keeps_swapCommit
    | with_reducible apply keeps_applyAction
    | with_reducible apply keeps_huskEtch
    | with_reducible apply keeps_setEtch
    | with_reducible apply keeps_releaseEtch
    | with_reducible apply keeps_etchComplete
    | with_reducible apply keeps_huskMiss
    | with_reducible apply keeps_foldl
    | with_reducible apply keeps_foldl_fst
    | (rw [rest_eq]; with_reducible refine keeps_rest ?_ rfl (SameSto.refl _) ⟨rfl, rfl⟩)
    | split
    | dsimp only

theorem keeps_commitDue {b0 d0 : Bool} {s0 : State} {s : State} {p : Etch → Bool} (hs0 : Keeps b0 d0 s0 s) : Keeps b0 d0 s0
    (commitDue s p) := by
  unfold commitDue
  try dsimp only
  repeat' first
    | with_reducible assumption
    | with_reducible refine keeps_ite ?_ ?_
    | intro _
    | with_reducible apply keeps_commitEtch
    | with_reducible apply keeps_foldl
    | (rw [rest_eq]; with_reducible refine keeps_rest ?_ rfl (SameSto.refl _) ⟨rfl, rfl⟩)
    | split
    | dsimp only

theorem keeps_commitAt {b0 d0 : Bool} {s0 : State} {s : State} {point : PhaseValue} (hs0 : Keeps b0 d0 s0 s) : Keeps b0 d0 s0
    (commitAt s point) := by
  unfold commitAt
  try dsimp only
  repeat' first
    | with_reducible assumption
    | intro _
    | with_reducible apply keeps_commitDue

theorem keeps_frameEnd {b0 d0 : Bool} {s0 : State} {s : State} {g : Nat} (hs0 : Keeps b0 d0 s0 s) : Keeps b0 d0 s0 (frameEnd s
    g) := by
  unfold frameEnd
  try dsimp only
  repeat' first
    | with_reducible assumption
    | with_reducible refine keeps_ite ?_ ?_
    | intro _
    | with_reducible apply keeps_raiseEvent
    | with_reducible apply keeps_huskRequest
    | with_reducible apply keeps_modGroup
    | (rw [rest_eq]; with_reducible refine keeps_rest ?_ rfl (SameSto.refl _) ⟨rfl, rfl⟩)
    | (rw [rest_eq]; with_reducible refine keeps_rest ?_ rfl ⟨rfl, rfl, rfl, rfl, rfl, rfl⟩ ⟨rfl, rfl⟩)
    | split
    | dsimp only

theorem keeps_deadlineMatched {b0 d0 : Bool} {s0 : State} {s : State} {e : Etch} (hs0 : Keeps b0 d0 s0 s) : Keeps b0 d0 s0
    (deadlineMatched s e) := by
  unfold deadlineMatched
  try dsimp only
  repeat' first
    | with_reducible assumption
    | with_reducible refine keeps_ite ?_ ?_
    | intro _
    | with_reducible apply keeps_frameEnd
    | with_reducible apply keeps_modEtch
    | with_reducible apply keeps_releaseEtch
    | with_reducible apply keeps_modBatch
    | with_reducible apply keeps_batchAdvance
    | with_reducible apply keeps_foldl
    | (rw [rest_eq]; with_reducible refine keeps_rest ?_ rfl (SameSto.refl _) ⟨rfl, rfl⟩)
    | split
    | dsimp only

/-! Machine/Etch.lean. -/

theorem keeps_stageFrom {b0 d0 : Bool} {s0 : State} {s : State} {c : Cmd} {window : Word} {offset : Nat} (hs0 : Keeps b0 d0 s0
    s) {r0 : Nat × State} (e : stageFrom s c window offset = .ok r0) : Keeps b0 d0 s0 r0.2 := by
  unfold stageFrom at e
  try dsimp only at e
  repeat' first
    | (split at e)
    | (cases e; done)
    | (cases e; dsimp only)
    | cases e
    | with_reducible assumption
    | with_reducible refine keeps_stageEtch ?_ (by assumption)
    | with_reducible refine keeps_stageEtch_eq ?_ (by assumption)
    | (rw [rest_eq]; with_reducible refine keeps_rest ?_ rfl (SameSto.refl _) ⟨rfl, rfl⟩)
    | split
    | dsimp only
theorem keeps_stageFrom_eq {b0 d0 : Bool} {s0 : State} {s : State} {c : Cmd} {window : Word} {offset : Nat} (hs0 : Keeps b0 d0
    s0 s) {r0 : State} {y0 : Nat} (e : stageFrom s c window offset = .ok (y0, r0)) : Keeps b0 d0 s0 r0 :=
  keeps_stageFrom hs0 e

theorem keeps_execEtchStage {b0 d0 : Bool} {s0 : State} {t : Nat} {c : Cmd} {window : Word} {offset : DWord} {s : State} (hs0 :
    Keeps b0 d0 s0 s) {r0 : State} (e : execEtchStage t c window offset s = .next r0) : Keeps b0 d0 s0 r0 := by
  unfold execEtchStage at e
  refine keeps_host hs0 ?_ e
  clear hs0 e r0
  try dsimp only
  repeat' first
    | with_reducible assumption
    | intro _
    | with_reducible refine keeps_stageFrom ?_ (by assumption)
    | with_reducible refine keeps_stageFrom_eq ?_ (by assumption)
    | with_reducible apply keeps_done
    | (rw [rest_eq]; with_reducible refine keeps_rest ?_ rfl (SameSto.refl _) ⟨rfl, rfl⟩)
    | split

theorem keeps_beginArm {b0 d0 : Bool} {s0 : State} {s : State} {c : Cmd} {e : Etch} {staged : Bool} (hs0 : Keeps b0 d0 s0 s)
    {r0 : State} (e : beginArm s c e staged = .ok r0) : Keeps b0 d0 s0 r0 := by
  unfold beginArm at e
  try dsimp only at e
  repeat' first
    | (split at e)
    | (cases e; done)
    | (cases e; dsimp only)
    | cases e
    | with_reducible assumption
    | (rw [rest_eq]; with_reducible refine keeps_rest ?_ rfl (SameSto.refl _) ⟨rfl, rfl⟩)
    | split
    | dsimp only

theorem keeps_execEtchArm {b0 d0 : Bool} {s0 : State} {t : Nat} {c : Cmd} {etch : BitVec 16} {s : State} (hs0 : Keeps b0 d0 s0
    s) {r0 : State} (e : execEtchArm t c etch s = .next r0) : Keeps b0 d0 s0 r0 := by
  unfold execEtchArm at e
  refine keeps_host hs0 ?_ e
  clear hs0 e r0
  try dsimp only
  repeat' first
    | with_reducible assumption
    | intro _
    | with_reducible refine keeps_beginArm ?_ (by assumption)
    | with_reducible apply keeps_countReject
    | with_reducible apply keeps_done
    | (rw [rest_eq]; with_reducible refine keeps_rest ?_ rfl (SameSto.refl _) ⟨rfl, rfl⟩)
    | split

theorem keeps_execEtchStageArm {b0 d0 : Bool} {s0 : State} {t : Nat} {c : Cmd} {window : Word} {offset : DWord} {s : State}
    (hs0 : Keeps b0 d0 s0 s) {r0 : State} (e : execEtchStageArm t c window offset s = .next r0) : Keeps b0 d0 s0 r0 := by
  unfold execEtchStageArm at e
  refine keeps_host hs0 ?_ e
  clear hs0 e r0
  try dsimp only
  repeat' first
    | with_reducible assumption
    | intro _
    | with_reducible refine keeps_stageFrom ?_ (by assumption)
    | with_reducible refine keeps_stageFrom_eq ?_ (by assumption)
    | with_reducible refine keeps_beginArm ?_ (by assumption)
    | with_reducible apply keeps_countReject
    | with_reducible apply keeps_releaseEtch
    | with_reducible apply keeps_done
    | (rw [rest_eq]; with_reducible refine keeps_rest ?_ rfl (SameSto.refl _) ⟨rfl, rfl⟩)
    | split

theorem keeps_execEtchQuery {b0 d0 : Bool} {s0 : State} {t : Nat} {c : Cmd} {etch : BitVec 16} {s : State} (hs0 : Keeps b0 d0
    s0 s) {r0 : State} (e : execEtchQuery t c etch s = .next r0) : Keeps b0 d0 s0 r0 := by
  unfold execEtchQuery at e
  refine keeps_host hs0 ?_ e
  clear hs0 e r0
  try dsimp only
  repeat' first
    | with_reducible assumption
    | with_reducible refine keeps_ite ?_ ?_
    | intro _
    | with_reducible apply keeps_done
    | (rw [rest_eq]; with_reducible refine keeps_rest ?_ rfl (SameSto.refl _) ⟨rfl, rfl⟩)
    | split

theorem keeps_armOver {b0 d0 : Bool} {s0 : State} {s : State} {a : Arming} {st : Status} {release : Option Nat} (hs0 : Keeps b0
    d0 s0 s) : Keeps b0 d0 s0 (armOver s a st release) := by
  unfold armOver
  try dsimp only
  repeat' first
    | with_reducible assumption
    | with_reducible refine keeps_ite ?_ ?_
    | with_reducible apply keeps_releaseEtch
    | with_reducible apply keeps_finish
    | with_reducible apply keeps_batchArmed
    | (rw [rest_eq]; with_reducible refine keeps_rest ?_ rfl (SameSto.refl _) ⟨rfl, rfl⟩)
    | split

theorem keeps_armFails {b0 d0 : Bool} {s0 : State} {s : State} {a : Arming} {st : Status} (hs0 : Keeps b0 d0 s0 s) : Keeps b0
    d0 s0 (armFails s a st) := by
  unfold armFails
  try dsimp only
  repeat' first
    | with_reducible assumption
    | with_reducible refine keeps_ite ?_ ?_
    | with_reducible apply keeps_armOver
    | with_reducible apply keeps_countReject
    | with_reducible apply keeps_setEtch
    | with_reducible apply keeps_releaseEtch
    | split
    | dsimp only

theorem keeps_execEtchArmInstant {b0 d0 : Bool} {s0 : State} {t : Nat} {etch : Nat} {s : State} (hs0 : Keeps b0 d0 s0 s) {r0 :
    State} (e : execEtchArmInstant t etch s = .next r0) : Keeps b0 d0 s0 r0 := by
  unfold execEtchArmInstant at e
  refine keeps_event hs0 ?_ e
  clear hs0 e r0
  try dsimp only
  repeat' first
    | with_reducible assumption
    | with_reducible refine keeps_ite ?_ ?_
    | intro _
    | with_reducible apply keeps_armOver
    | with_reducible apply keeps_armFails
    | with_reducible apply keeps_armEtch
    | (rw [rest_eq]; with_reducible refine keeps_rest ?_ rfl (SameSto.refl _) ⟨rfl, rfl⟩)
    | split
    | dsimp only

theorem keeps_execEtchCommit {b0 d0 : Bool} {s0 : State} {t : Nat} {point : PhaseValue} {s : State} (hs0 : Keeps b0 d0 s0 s)
    {r0 : State} (e : execEtchCommit t point s = .next r0) : Keeps b0 d0 s0 r0 := by
  unfold execEtchCommit at e
  refine keeps_event hs0 ?_ e
  clear hs0 e r0
  try dsimp only
  repeat' first
    | with_reducible assumption
    | with_reducible refine keeps_ite ?_ ?_
    | intro _
    | with_reducible apply keeps_commitAt
    | split

theorem keeps_execFallbackArmDeadline {b0 d0 : Bool} {s0 : State} {t : Nat} {etch : Nat} {s : State} (hs0 : Keeps b0 d0 s0 s)
    {r0 : State} (e : execFallbackArmDeadline t etch s = .next r0) : Keeps b0 d0 s0 r0 := by
  unfold execFallbackArmDeadline at e
  refine keeps_event hs0 ?_ e
  clear hs0 e r0
  try dsimp only
  repeat' first
    | with_reducible assumption
    | with_reducible refine keeps_ite ?_ ?_
    | intro _
    | with_reducible apply keeps_deadlineMatched
    | (rw [rest_eq]; with_reducible refine keeps_rest ?_ rfl (SameSto.refl _) ⟨rfl, rfl⟩)
    | split

/-! Machine/GainsBasic.lean. -/

theorem keeps_execServoGainsBasic {b0 d0 : Bool} {s0 : State} {t : Nat} {c : Cmd} {channel : BitVec 7} {window : Word} {offset
    : DWord} {commitPoint : PhaseValue} {s : State} (hs0 : Keeps b0 d0 s0 s) {r0 : State} (e : execServoGainsBasic t c channel
        window offset commitPoint s = .next r0) : Keeps b0 d0 s0 r0 := by
  unfold execServoGainsBasic at e
  refine keeps_host hs0 ?_ e
  clear hs0 e r0
  try dsimp only
  repeat' first
    | with_reducible assumption
    | with_reducible refine keeps_ite ?_ ?_
    | intro _
    | with_reducible apply keeps_releaseEtch
    | with_reducible refine keeps_stageEtch ?_ (by assumption)
    | with_reducible refine keeps_stageEtch_eq ?_ (by assumption)
    | with_reducible apply keeps_done
    | (rw [rest_eq]; with_reducible refine keeps_rest ?_ rfl (SameSto.refl _) ⟨rfl, rfl⟩)
    | split
    | dsimp only

end Sys2Proof.Laws
end

