-- ==== Sys2Proof/Laws/Keeps5.lean ====
section
/-!
SUPPORT. Laws/Keeps5.lean: every operation of Machine/Tracer.lean, Machine/PhaseEvents.lean, Machine/ServoOps.lean,
Machine/Can.lean, Machine/Cancel.lean, Machine/Abort.lean, Machine/BootImage.lean keeps what Laws/Keeps.lean says.
-/
namespace Sys2Proof.Laws

open Sys2Proof.Machine

/-! Machine/Tracer.lean. -/

theorem keeps_execTracerCheck {b0 d0 : Bool} {s0 : State} {t : Nat} {c : Cmd} {window : Word} {offset : DWord} {s : State} (hs0
    : Keeps b0 d0 s0 s) {r0 : State} (e : execTracerCheck t c window offset s = .next r0) : Keeps b0 d0 s0 r0 := by
  unfold execTracerCheck at e
  refine keeps_host hs0 ?_ e
  clear hs0 e r0
  try dsimp only
  repeat' first
    | with_reducible assumption
    | intro _
    | with_reducible apply keeps_done
    | with_reducible apply keeps_submitCheck
    | (rw [rest_eq]; with_reducible refine keeps_rest ?_ rfl (SameSto.refl _) ⟨rfl, rfl⟩)
    | split

theorem keeps_execTracerCheckBegin {b0 d0 : Bool} {s0 : State} {t : Nat} {s : State} (hs0 : Keeps b0 d0 s0 s) {r0 : State} (e :
    execTracerCheckBegin t s = .next r0) : Keeps b0 d0 s0 r0 := by
  unfold execTracerCheckBegin at e
  refine keeps_event hs0 ?_ e
  clear hs0 e r0
  try dsimp only
  repeat' first
    | with_reducible assumption
    | with_reducible refine keeps_ite ?_ ?_
    | intro _
    | with_reducible apply keeps_takeFree
    | (rw [rest_eq]; with_reducible refine keeps_rest ?_ rfl (SameSto.refl _) ⟨rfl, rfl⟩)
    | (rw [rest_eq]; with_reducible refine keeps_rest ?_ rfl ⟨rfl, rfl, rfl, rfl, rfl, rfl⟩ ⟨rfl, rfl⟩)
    | split

theorem keeps_recordAcceptance {b0 d0 : Bool} {s0 : State} {s : State} {g : Nat} {v : Verdict} (hs0 : Keeps b0 d0 s0 s) : Keeps
    b0 d0 s0 (recordAcceptance s g v) := by
  unfold recordAcceptance
  try dsimp only
  repeat' first
    | with_reducible assumption
    | with_reducible refine keeps_ite ?_ ?_
    | intro _
    | (rw [rest_eq]; with_reducible refine keeps_rest ?_ rfl (SameSto.refl _) ⟨rfl, rfl⟩)
    | (rw [rest_eq]; with_reducible refine keeps_rest ?_ rfl ⟨rfl, rfl, rfl, rfl, rfl, rfl⟩ ⟨rfl, rfl⟩)
    | split
    | dsimp only

theorem keeps_noteVerdict {b0 d0 : Bool} {s0 : State} {s : State} {v : Verdict} (hs0 : Keeps b0 d0 s0 s) : Keeps b0 d0 s0
    (noteVerdict s v) := by
  unfold noteVerdict
  try dsimp only
  repeat' first
    | with_reducible assumption
    | with_reducible refine keeps_ite ?_ ?_
    | intro _
    | with_reducible apply keeps_modGroup
    | with_reducible apply keeps_recordAcceptance
    | (rw [rest_eq]; with_reducible refine keeps_rest ?_ rfl (SameSto.refl _) ⟨rfl, rfl⟩)
    | (rw [rest_eq]; with_reducible refine keeps_rest ?_ rfl ⟨rfl, rfl, rfl, rfl, rfl, rfl⟩ ⟨rfl, rfl⟩)
    | split
    | dsimp only

theorem keeps_endCheck {b0 d0 : Bool} {s0 : State} {s : State} {r : CheckRun} {found : Verdict} (hs0 : Keeps b0 d0 s0 s) :
    Keeps b0 d0 s0 (endCheck s r found) := by
  unfold endCheck
  try dsimp only
  repeat' first
    | with_reducible assumption
    | with_reducible refine keeps_ite ?_ ?_
    | with_reducible apply keeps_done
    | with_reducible apply keeps_batchAnswer
    | with_reducible apply keeps_noteVerdict
    | (rw [rest_eq]; with_reducible refine keeps_rest ?_ rfl (SameSto.refl _) ⟨rfl, rfl⟩)
    | (rw [rest_eq]; with_reducible refine keeps_rest ?_ rfl ⟨rfl, rfl, rfl, rfl, rfl, rfl⟩ ⟨rfl, rfl⟩)
    | split
    | dsimp only

theorem keeps_abandonCheck {b0 d0 : Bool} {s0 : State} {s : State} {p : Nat} (hs0 : Keeps b0 d0 s0 s) : Keeps b0 d0 s0
    (abandonCheck s p) := by
  unfold abandonCheck
  try dsimp only
  repeat' first
    | with_reducible assumption
    | with_reducible refine keeps_ite ?_ ?_
    | with_reducible apply keeps_endCheck
    | (rw [rest_eq]; with_reducible refine keeps_rest ?_ rfl (SameSto.refl _) ⟨rfl, rfl⟩)
    | split

theorem keeps_execTracerCheckEnd {b0 d0 : Bool} {s0 : State} {t : Nat} {s : State} (hs0 : Keeps b0 d0 s0 s) {r0 : State} (e :
    execTracerCheckEnd t s = .next r0) : Keeps b0 d0 s0 r0 := by
  unfold execTracerCheckEnd at e
  refine keeps_event hs0 ?_ e
  clear hs0 e r0
  try dsimp only
  repeat' first
    | with_reducible assumption
    | with_reducible refine keeps_ite ?_ ?_
    | intro _
    | with_reducible apply keeps_endCheck
    | (rw [rest_eq]; with_reducible refine keeps_rest ?_ rfl (SameSto.refl _) ⟨rfl, rfl⟩)
    | split

theorem keeps_tracerFails {b0 d0 : Bool} {s0 s : State} {cause : Nat} (h : Keeps b0 d0 s0 s) : Keeps b0 d0 s0 (tracerFails s
    cause) := by
  have e : (huskFault s srcTracer 8 0 cause).safety = s.safety := by
    unfold huskFault huskRequest
    dsimp only
    repeat' first
      | rfl
      | split
  unfold tracerFails
  refine keeps_safeTrigger ?_
  rw [rest_eq]
  refine keeps_rest (keeps_huskFault h) rfl ?_ ⟨rfl, rfl⟩
  rw [e]
  exact ⟨rfl, rfl, rfl, rfl, rfl, rfl⟩

theorem keeps_execTracerKnownAnswerTest {b0 d0 : Bool} {s0 : State} {t : Nat} {failed : Bool} {s : State} (hs0 : Keeps b0 d0 s0
    s) {r0 : State} (e : execTracerKnownAnswerTest t failed s = .next r0) : Keeps b0 d0 s0 r0 := by
  unfold execTracerKnownAnswerTest at e
  refine keeps_event hs0 ?_ e
  clear hs0 e r0
  try dsimp only
  repeat' first
    | with_reducible assumption
    | with_reducible refine keeps_ite ?_ ?_
    | intro _
    | with_reducible apply keeps_tracerFails
    | (rw [rest_eq]; with_reducible refine keeps_rest ?_ rfl (SameSto.refl _) ⟨rfl, rfl⟩)
    | (rw [rest_eq]; with_reducible refine keeps_rest ?_ rfl ⟨rfl, rfl, rfl, rfl, rfl, rfl⟩ ⟨rfl, rfl⟩)
    | split
    | dsimp only

theorem keeps_execTracerLockstepMismatch {b0 d0 : Bool} {s0 : State} {t : Nat} {s : State} (hs0 : Keeps b0 d0 s0 s) {r0 :
    State} (e : execTracerLockstepMismatch t s = .next r0) : Keeps b0 d0 s0 r0 := by
  unfold execTracerLockstepMismatch at e
  refine keeps_event hs0 ?_ e
  clear hs0 e r0
  try dsimp only
  repeat' first
    | with_reducible assumption
    | intro _
    | with_reducible apply keeps_tracerFails

/-! Machine/PhaseEvents.lean. -/

theorem keeps_execPhaseEdge {b0 d0 : Bool} {s0 : State} {t : Nat} {source : Nat} {s : State} (hs0 : Keeps b0 d0 s0 s) {r0 :
    State} (e : execPhaseEdge t source s = .next r0) : Keeps b0 d0 s0 r0 := by
  unfold execPhaseEdge at e
  refine keeps_event hs0 ?_ e
  clear hs0 e r0
  try dsimp only
  repeat' first
    | with_reducible assumption
    | intro _
    | with_reducible apply keeps_modPs
    | (rw [rest_eq]; with_reducible refine keeps_rest ?_ rfl (SameSto.refl _) ⟨rfl, rfl⟩)
    | split

theorem keeps_execLidarIndexPulse {b0 d0 : Bool} {s0 : State} {t : Nat} {source : Nat} {s : State} (hs0 : Keeps b0 d0 s0 s) {r0
    : State} (e : execLidarIndexPulse t source s = .next r0) : Keeps b0 d0 s0 r0 := by
  unfold execLidarIndexPulse at e
  refine keeps_event hs0 ?_ e
  clear hs0 e r0
  try dsimp only
  repeat' first
    | with_reducible assumption
    | with_reducible refine keeps_ite ?_ ?_
    | intro _
    | with_reducible apply keeps_modPs
    | (rw [rest_eq]; with_reducible refine keeps_rest ?_ rfl (SameSto.refl _) ⟨rfl, rfl⟩)
    | split

theorem keeps_execPhaseSourceStall {b0 d0 : Bool} {s0 : State} {t : Nat} {source : Nat} {s : State} (hs0 : Keeps b0 d0 s0 s)
    {r0 : State} (e : execPhaseSourceStall t source s = .next r0) : Keeps b0 d0 s0 r0 := by
  unfold execPhaseSourceStall at e
  refine keeps_event hs0 ?_ e
  clear hs0 e r0
  try dsimp only
  repeat' first
    | with_reducible assumption
    | with_reducible refine keeps_ite ?_ ?_
    | intro _
    | with_reducible apply keeps_huskRequest
    | with_reducible apply keeps_huskFault
    | with_reducible apply keeps_modPs
    | with_reducible apply keeps_safeTrigger
    | (rw [rest_eq]; with_reducible refine keeps_rest ?_ rfl (SameSto.refl _) ⟨rfl, rfl⟩)
    | split
    | dsimp only

theorem keeps_modEncoder {b0 d0 : Bool} {s0 : State} {s : State} {n : Nat} {f : Encoder → Encoder} (hs0 : Keeps b0 d0 s0 s) :
    Keeps b0 d0 s0 (modEncoder s n f) := by
  unfold modEncoder
  try dsimp only
  repeat' first
    | with_reducible assumption
    | (rw [rest_eq]; with_reducible refine keeps_rest ?_ rfl (SameSto.refl _) ⟨rfl, rfl⟩)

theorem keeps_encoderEdge {b0 d0 : Bool} {s0 : State} {s : State} {n : Nat} {t : Nat} {ty : Nat} (hs0 : Keeps b0 d0 s0 s) :
    Keeps b0 d0 s0 (encoderEdge s n t ty) := by
  unfold encoderEdge
  try dsimp only
  repeat' first
    | with_reducible assumption
    | intro _
    | with_reducible apply keeps_modSourcesOn
    | (rw [rest_eq]; with_reducible refine keeps_rest ?_ rfl (SameSto.refl _) ⟨rfl, rfl⟩)
    | dsimp only

theorem keeps_execQuadStateChange {b0 d0 : Bool} {s0 : State} {t : Nat} {enc : Nat} {a : Bool} {b : Bool} {s : State} (hs0 :
    Keeps b0 d0 s0 s) {r0 : State} (e : execQuadStateChange t enc a b s = .next r0) : Keeps b0 d0 s0 r0 := by
  unfold execQuadStateChange at e
  refine keeps_event hs0 ?_ e
  clear hs0 e r0
  try dsimp only
  repeat' first
    | with_reducible assumption
    | with_reducible refine keeps_ite ?_ ?_
    | intro _
    | with_reducible apply keeps_modEncoder
    | with_reducible apply keeps_encoderEdge
    | (rw [rest_eq]; with_reducible refine keeps_rest ?_ rfl (SameSto.refl _) ⟨rfl, rfl⟩)
    | split
    | dsimp only

theorem keeps_execEncIndexEdge {b0 d0 : Bool} {s0 : State} {t : Nat} {enc : Nat} {s : State} (hs0 : Keeps b0 d0 s0 s) {r0 :
    State} (e : execEncIndexEdge t enc s = .next r0) : Keeps b0 d0 s0 r0 := by
  unfold execEncIndexEdge at e
  refine keeps_event hs0 ?_ e
  clear hs0 e r0
  try dsimp only
  repeat' first
    | with_reducible assumption
    | with_reducible refine keeps_ite ?_ ?_
    | intro _
    | with_reducible apply keeps_modEncoder
    | (rw [rest_eq]; with_reducible refine keeps_rest ?_ rfl (SameSto.refl _) ⟨rfl, rfl⟩)
    | split

theorem keeps_execSerialEncReply {b0 d0 : Bool} {s0 : State} {t : Nat} {enc : Nat} {startAt : Nat} {data : BitVec 56} {stop :
    Bool} {s : State} (hs0 : Keeps b0 d0 s0 s) {r0 : State} (e : execSerialEncReply t enc startAt data stop s = .next r0) :
        Keeps b0 d0 s0 r0 := by
  unfold execSerialEncReply at e
  refine keeps_event hs0 ?_ e
  clear hs0 e r0
  try dsimp only
  repeat' first
    | with_reducible assumption
    | with_reducible refine keeps_ite ?_ ?_
    | intro _
    | with_reducible apply keeps_modEncoder
    | with_reducible apply keeps_encoderEdge
    | (rw [rest_eq]; with_reducible refine keeps_rest ?_ rfl (SameSto.refl _) ⟨rfl, rfl⟩)
    | split
    | dsimp only

theorem keeps_execSerialReplyTimeout {b0 d0 : Bool} {s0 : State} {t : Nat} {enc : Nat} {s : State} (hs0 : Keeps b0 d0 s0 s) {r0
    : State} (e : execSerialReplyTimeout t enc s = .next r0) : Keeps b0 d0 s0 r0 := by
  unfold execSerialReplyTimeout at e
  refine keeps_event hs0 ?_ e
  clear hs0 e r0
  try dsimp only
  repeat' first
    | with_reducible assumption
    | with_reducible refine keeps_ite ?_ ?_
    | intro _
    | with_reducible apply keeps_modEncoder
    | (rw [rest_eq]; with_reducible refine keeps_rest ?_ rfl (SameSto.refl _) ⟨rfl, rfl⟩)
    | split
    | dsimp only

/-! Machine/ServoOps.lean. -/

theorem keeps_modNet {b0 d0 : Bool} {s0 : State} {s : State} {f : ServoNet → ServoNet} (hs0 : Keeps b0 d0 s0 s) : Keeps b0 d0
    s0 (modNet s f) := by
  unfold modNet
  try dsimp only
  repeat' first
    | with_reducible assumption
    | (rw [rest_eq]; with_reducible refine keeps_rest ?_ rfl (SameSto.refl _) ⟨rfl, rfl⟩)

theorem keeps_modPair {b0 d0 : Bool} {s0 : State} {s : State} {p : Nat} {f : Pair → Pair} (hs0 : Keeps b0 d0 s0 s) : Keeps b0
    d0 s0 (modPair s p f) := by
  unfold modPair
  try dsimp only
  repeat' first
    | with_reducible assumption
    | (rw [rest_eq]; with_reducible refine keeps_rest ?_ rfl (SameSto.refl _) ⟨rfl, rfl⟩)

theorem keeps_moveChannel {b0 d0 : Bool} {s0 : State} {s : State} {n : Nat} {q : Nat} (hs0 : Keeps b0 d0 s0 s) : Keeps b0 d0 s0
    (moveChannel s n q) := by
  unfold moveChannel
  try dsimp only
  repeat' first
    | with_reducible assumption
    | intro _
    | with_reducible apply keeps_modChannel
    | (rw [rest_eq]; with_reducible refine keeps_rest ?_ rfl (SameSto.refl _) ⟨rfl, rfl⟩)

theorem keeps_moveAll {b0 d0 : Bool} {s0 s : State} {p : Nat} (h : Keeps b0 d0 s0 s) {r : State} (e : moveAll s p = some r) :
    Keeps b0 d0 s0 r := by
  unfold moveAll at e
  generalize pairChannels s p = l at e
  induction l generalizing s with
  | nil => cases e; exact h
  | cons a l ih =>
    rw [List.foldl_cons] at e
    dsimp only at e
    split at e
    · exfalso
      revert e
      clear ih
      induction l with
      | nil => intro e; cases e
      | cons a l ih => intro e; exact ih e
    · exact ih (keeps_moveChannel h) e

theorem keeps_finishDrain {b0 d0 : Bool} {s0 : State} {s : State} {d : PairDrain} {st : Status} (hs0 : Keeps b0 d0 s0 s) :
    Keeps b0 d0 s0 (finishDrain s d st) := by
  unfold finishDrain
  try dsimp only
  repeat' first
    | with_reducible assumption
    | with_reducible refine keeps_ite ?_ ?_
    | intro _
    | with_reducible apply keeps_done
    | with_reducible apply keeps_modPair
    | (rw [rest_eq]; with_reducible refine keeps_rest ?_ rfl (SameSto.refl _) ⟨rfl, rfl⟩)
    | split

theorem keeps_beginDrain {b0 d0 : Bool} {s0 : State} {s : State} {d : PairDrain} (hs0 : Keeps b0 d0 s0 s) : Keeps b0 d0 s0
    (beginDrain s d) := by
  unfold beginDrain
  try dsimp only
  repeat' first
    | with_reducible assumption
    | with_reducible refine keeps_ite ?_ ?_
    | with_reducible refine keeps_moveAll ?_ (by assumption)
    | with_reducible apply keeps_finishDrain
    | (rw [rest_eq]; with_reducible refine keeps_rest ?_ rfl (SameSto.refl _) ⟨rfl, rfl⟩)
    | split
    | dsimp only

theorem keeps_nextDrains {b0 d0 : Bool} {s0 : State} {s : State} (hs0 : Keeps b0 d0 s0 s) : Keeps b0 d0 s0 (nextDrains s) := by
  unfold nextDrains
  try dsimp only
  repeat' first
    | with_reducible assumption
    | intro _
    | with_reducible apply keeps_beginDrain
    | with_reducible apply keeps_foldl
    | (rw [rest_eq]; with_reducible refine keeps_rest ?_ rfl (SameSto.refl _) ⟨rfl, rfl⟩)

theorem keeps_channelFault {b0 d0 : Bool} {s0 : State} {s : State} {n : Nat} {cause : Nat} {stop : Bool} {e : Int} (hs0 : Keeps
    b0 d0 s0 s) : Keeps b0 d0 s0 (channelFault s n cause stop e) := by
  unfold channelFault
  try dsimp only
  repeat' first
    | with_reducible assumption
    | with_reducible refine keeps_ite ?_ ?_
    | intro _
    | with_reducible apply keeps_huskFault
    | with_reducible apply keeps_mapChannels
    | with_reducible apply keeps_safeTrigger
    | with_reducible apply keeps_modChannel
    | (rw [rest_eq]; with_reducible refine keeps_rest ?_ rfl (SameSto.refl _) ⟨rfl, rfl⟩)
    | split
    | dsimp only

theorem keeps_performFault {b0 d0 : Bool} {s0 : State} {s : State} {n : Nat} (hs0 : Keeps b0 d0 s0 s) : Keeps b0 d0 s0
    (performFault s n) := by
  unfold performFault
  try dsimp only
  repeat' first
    | with_reducible assumption
    | intro _
    | with_reducible apply keeps_channelFault
    | with_reducible apply keeps_modChannel
    | (rw [rest_eq]; with_reducible refine keeps_rest ?_ rfl (SameSto.refl _) ⟨rfl, rfl⟩)
    | split
    | dsimp only

theorem keeps_enterState {b0 d0 : Bool} {s0 : State} {s : State} {n : Nat} {st : ChanState} {hold : Bool} (hs0 : Keeps b0 d0 s0
    s) : Keeps b0 d0 s0 (enterState s n st hold) := by
  unfold enterState
  try dsimp only
  repeat' first
    | with_reducible assumption
    | intro _
    | with_reducible apply keeps_modChannel
    | (rw [rest_eq]; with_reducible refine keeps_rest ?_ rfl (SameSto.refl _) ⟨rfl, rfl⟩)

theorem keeps_configChannel {b0 d0 : Bool} {s0 : State} {s : State} {n : Nat} {c : Cmd} {cfg : List Word} {block : List Word}
    {pair : Nat} (hs0 : Keeps b0 d0 s0 s) : Keeps b0 d0 s0 (configChannel s n c cfg block pair) := by
  unfold configChannel
  try dsimp only
  repeat' first
    | with_reducible assumption
    | with_reducible refine keeps_ite ?_ ?_
    | intro _
    | with_reducible apply keeps_done
    | with_reducible refine keeps_refuseOr ?_ ?_
    | with_reducible apply keeps_modChannel
    | (rw [rest_eq]; with_reducible refine keeps_rest ?_ rfl (SameSto.refl _) ⟨rfl, rfl⟩)
    | split
    | dsimp only

theorem keeps_clearFault {b0 d0 : Bool} {s0 : State} {s : State} {n : Nat} {c : Cmd} (hs0 : Keeps b0 d0 s0 s) : Keeps b0 d0 s0
    (clearFault s n c) := by
  unfold clearFault
  try dsimp only
  repeat' first
    | with_reducible assumption
    | with_reducible refine keeps_ite ?_ ?_
    | with_reducible apply keeps_done
    | with_reducible apply keeps_enterState
    | (rw [rest_eq]; with_reducible refine keeps_rest ?_ rfl (SameSto.refl _) ⟨rfl, rfl⟩)
    | split

theorem keeps_applyNet {b0 d0 : Bool} {s0 : State} {s : State} {off : Bool} {x : NetConfig} (hs0 : Keeps b0 d0 s0 s) : Keeps b0
    d0 s0 (applyNet s off x) := by
  unfold applyNet
  try dsimp only
  repeat' first
    | with_reducible assumption
    | intro _
    | with_reducible apply keeps_done
    | with_reducible refine keeps_refuseOr ?_ ?_
    | with_reducible apply keeps_modNet
    | (rw [rest_eq]; with_reducible refine keeps_rest ?_ rfl (SameSto.refl _) ⟨rfl, rfl⟩)

theorem keeps_readNet {b0 d0 : Bool} {s0 : State} {s : State} {n : Nat} {k : CmdKey} (hs0 : Keeps b0 d0 s0 s) : Keeps b0 d0 s0
    (readNet s n k) := by
  unfold readNet
  try dsimp only
  repeat' first
    | with_reducible assumption
    | with_reducible refine keeps_ite ?_ ?_
    | intro _
    | with_reducible apply keeps_modNet
    | with_reducible apply keeps_applyNet
    | (rw [rest_eq]; with_reducible refine keeps_rest ?_ rfl (SameSto.refl _) ⟨rfl, rfl⟩)
    | split
    | dsimp only

theorem keeps_netCommand {b0 d0 : Bool} {s0 : State} {s : State} {x : NetConfig} (hs0 : Keeps b0 d0 s0 s) : Keeps b0 d0 s0
    (netCommand s x) := by
  unfold netCommand
  try dsimp only
  repeat' first
    | with_reducible assumption
    | with_reducible refine keeps_ite ?_ ?_
    | intro _
    | with_reducible apply keeps_mapChannels
    | with_reducible apply keeps_modNet
    | with_reducible apply keeps_applyNet
    | (rw [rest_eq]; with_reducible refine keeps_rest ?_ rfl (SameSto.refl _) ⟨rfl, rfl⟩)
    | split
    | dsimp only

theorem keeps_applyReq {b0 d0 : Bool} {s0 : State} {s : State} {n : Nat} {r : ChanReq} (hs0 : Keeps b0 d0 s0 s) : Keeps b0 d0
    s0 (applyReq s n r) := by
  unfold applyReq
  try dsimp only
  repeat' first
    | with_reducible assumption
    | with_reducible refine keeps_ite ?_ ?_
    | with_reducible apply keeps_done
    | with_reducible apply keeps_enterState
    | with_reducible apply keeps_configChannel
    | with_reducible apply keeps_clearFault
    | with_reducible apply keeps_readNet
    | (rw [rest_eq]; with_reducible refine keeps_rest ?_ rfl (SameSto.refl _) ⟨rfl, rfl⟩)
    | split

theorem keeps_flushReqs {b0 d0 : Bool} {s0 : State} {s : State} {n : Nat} (hs0 : Keeps b0 d0 s0 s) : Keeps b0 d0 s0 (flushReqs
    s n) := by
  unfold flushReqs
  try dsimp only
  repeat' first
    | with_reducible assumption
    | intro _
    | with_reducible apply keeps_applyReq
    | with_reducible apply keeps_modChannel
    | with_reducible apply keeps_foldl
    | (rw [rest_eq]; with_reducible refine keeps_rest ?_ rfl (SameSto.refl _) ⟨rfl, rfl⟩)

theorem keeps_channelCommand {b0 d0 : Bool} {s0 : State} {s : State} {n : Nat} {r : ChanReq} (hs0 : Keeps b0 d0 s0 s) : Keeps
    b0 d0 s0 (channelCommand s n r) := by
  unfold channelCommand
  try dsimp only
  repeat' first
    | with_reducible assumption
    | with_reducible refine keeps_ite ?_ ?_
    | intro _
    | with_reducible apply keeps_applyReq
    | with_reducible apply keeps_modChannel
    | (rw [rest_eq]; with_reducible refine keeps_rest ?_ rfl (SameSto.refl _) ⟨rfl, rfl⟩)
    | split

theorem keeps_orphan {b0 d0 : Bool} {s0 : State} {s : State} {n : Nat} (hs0 : Keeps b0 d0 s0 s) : Keeps b0 d0 s0 (orphan s n)
    := by
  unfold orphan
  try dsimp only
  repeat' first
    | with_reducible assumption
    | intro _
    | with_reducible apply keeps_modNet
    | with_reducible apply keeps_flushReqs
    | with_reducible apply keeps_modChannel
    | (rw [rest_eq]; with_reducible refine keeps_rest ?_ rfl (SameSto.refl _) ⟨rfl, rfl⟩)
    | dsimp only

/-! Machine/Can.lean. -/

theorem keeps_execCanConfig {b0 d0 : Bool} {s0 : State} {t : Nat} {c : Cmd} {port : BitVec 2} {window : Word} {offset : DWord}
    {s : State} (hs0 : Keeps b0 d0 s0 s) {r0 : State} (e : execCanConfig t c port window offset s = .next r0) : Keeps b0 d0 s0
        r0 := by
  unfold execCanConfig at e
  refine keeps_host hs0 ?_ e
  clear hs0 e r0
  try dsimp only
  repeat' first
    | with_reducible assumption
    | with_reducible refine keeps_ite ?_ ?_
    | intro _
    | with_reducible apply keeps_modCan
    | with_reducible apply keeps_done
    | with_reducible refine keeps_orFail ?_ ?_
    | (rw [rest_eq]; with_reducible refine keeps_rest ?_ rfl (SameSto.refl _) ⟨rfl, rfl⟩)
    | split

theorem keeps_execCanSend {b0 d0 : Bool} {s0 : State} {t : Nat} {c : Cmd} {port : BitVec 2} {ident : BitVec 29} {extended :
    Bool} {fd : Bool} {brs : Bool} {length : BitVec 7} {data : DWord} {point : PhaseValue} {s : State} (hs0 : Keeps b0 d0 s0 s)
        {r0 : State} (e : execCanSend t c port ident extended fd brs length data point s = .next r0) : Keeps b0 d0 s0 r0 := by
  unfold execCanSend at e
  refine keeps_host hs0 ?_ e
  clear hs0 e r0
  try dsimp only
  repeat' first
    | with_reducible assumption
    | with_reducible refine keeps_ite ?_ ?_
    | intro _
    | with_reducible apply keeps_modCan
    | with_reducible apply keeps_done
    | (rw [rest_eq]; with_reducible refine keeps_rest ?_ rfl (SameSto.refl _) ⟨rfl, rfl⟩)
    | split
    | dsimp only

theorem keeps_execCanSendMatch {b0 d0 : Bool} {s0 : State} {t : Nat} {cmd : CmdKey} {s : State} (hs0 : Keeps b0 d0 s0 s) {r0 :
    State} (e : execCanSendMatch t cmd s = .next r0) : Keeps b0 d0 s0 r0 := by
  unfold execCanSendMatch at e
  refine keeps_event hs0 ?_ e
  clear hs0 e r0
  try dsimp only
  repeat' first
    | with_reducible assumption
    | with_reducible refine keeps_ite ?_ ?_
    | intro _
    | (rw [rest_eq]; with_reducible refine keeps_rest ?_ rfl (SameSto.refl _) ⟨rfl, rfl⟩)
    | split
    | dsimp only

theorem keeps_execCanFrameSent {b0 d0 : Bool} {s0 : State} {t : Nat} {port : Nat} {s : State} (hs0 : Keeps b0 d0 s0 s) {r0 :
    State} (e : execCanFrameSent t port s = .next r0) : Keeps b0 d0 s0 r0 := by
  unfold execCanFrameSent at e
  refine keeps_event hs0 ?_ e
  clear hs0 e r0
  try dsimp only
  repeat' first
    | with_reducible assumption
    | with_reducible refine keeps_ite ?_ ?_
    | intro _
    | with_reducible apply keeps_modCan
    | with_reducible apply keeps_done
    | with_reducible apply keeps_emit
    | (rw [rest_eq]; with_reducible refine keeps_rest ?_ rfl (SameSto.refl _) ⟨rfl, rfl⟩)
    | split
    | dsimp only

theorem keeps_execCanFrameRx {b0 d0 : Bool} {s0 : State} {t : Nat} {port : Nat} {ident : BitVec 29} {extended : Bool} {fd :
    Bool} {brs : Bool} {data : Bytes} {s : State} (hs0 : Keeps b0 d0 s0 s) {r0 : State} (e : execCanFrameRx t port ident
        extended fd brs data s = .next r0) : Keeps b0 d0 s0 r0 := by
  unfold execCanFrameRx at e
  refine keeps_event hs0 ?_ e
  clear hs0 e r0
  try dsimp only
  repeat' first
    | with_reducible assumption
    | with_reducible refine keeps_ite ?_ ?_
    | intro _
    | with_reducible apply keeps_modCan
    | with_reducible apply keeps_ringPut
    | (rw [rest_eq]; with_reducible refine keeps_rest ?_ rfl (SameSto.refl _) ⟨rfl, rfl⟩)
    | split
    | dsimp only

theorem keeps_execCanBusOff {b0 d0 : Bool} {s0 : State} {t : Nat} {port : Nat} {s : State} (hs0 : Keeps b0 d0 s0 s) {r0 :
    State} (e : execCanBusOff t port s = .next r0) : Keeps b0 d0 s0 r0 := by
  unfold execCanBusOff at e
  refine keeps_event hs0 ?_ e
  clear hs0 e r0
  try dsimp only
  repeat' first
    | with_reducible assumption
    | with_reducible refine keeps_ite ?_ ?_
    | intro _
    | with_reducible apply keeps_modCan
    | (rw [rest_eq]; with_reducible refine keeps_rest ?_ rfl (SameSto.refl _) ⟨rfl, rfl⟩)
    | split

theorem keeps_execCanBusOffRecovery {b0 d0 : Bool} {s0 : State} {t : Nat} {port : Nat} {s : State} (hs0 : Keeps b0 d0 s0 s) {r0
    : State} (e : execCanBusOffRecovery t port s = .next r0) : Keeps b0 d0 s0 r0 := by
  unfold execCanBusOffRecovery at e
  refine keeps_event hs0 ?_ e
  clear hs0 e r0
  try dsimp only
  repeat' first
    | with_reducible assumption
    | intro _
    | with_reducible apply keeps_modCan
    | (rw [rest_eq]; with_reducible refine keeps_rest ?_ rfl (SameSto.refl _) ⟨rfl, rfl⟩)

/-! Machine/Cancel.lean. -/

theorem keeps_stopTransfer {b0 d0 : Bool} {s0 : State} {s : State} {k : CmdKey} (hs0 : Keeps b0 d0 s0 s) : Keeps b0 d0 s0
    (stopTransfer s k) := by
  unfold stopTransfer
  try dsimp only
  repeat' first
    | with_reducible assumption
    | with_reducible refine keeps_ite ?_ ?_
    | intro _
    | with_reducible apply keeps_landPrefix
    | with_reducible apply keeps_dropTransfer
    | (rw [rest_eq]; with_reducible refine keeps_rest ?_ rfl (SameSto.refl _) ⟨rfl, rfl⟩)
    | split

theorem keeps_leaveAside {b0 d0 : Bool} {s0 : State} {s : State} {r : RouteRun} (hs0 : Keeps b0 d0 s0 s) : Keeps b0 d0 s0
    (leaveAside s r) := by
  unfold leaveAside
  try dsimp only
  repeat' first
    | with_reducible assumption
    | with_reducible apply keeps_releasePins
    | with_reducible apply keeps_spoilRoute
    | with_reducible apply keeps_admittedEnd

theorem keeps_stopRoutes {b0 d0 : Bool} {s0 : State} {s : State} {p : WaitingRoute → Bool} (hs0 : Keeps b0 d0 s0 s) : Keeps b0
    d0 s0 (stopRoutes s p) := by
  unfold stopRoutes
  try dsimp only
  repeat' first
    | with_reducible assumption
    | with_reducible refine keeps_ite ?_ ?_
    | intro _
    | with_reducible apply keeps_leaveAside
    | with_reducible apply keeps_unqueueRoute
    | with_reducible apply keeps_leavePart
    | with_reducible apply keeps_spoilRoute
    | with_reducible apply keeps_afterRoute
    | with_reducible apply keeps_modPart
    | with_reducible apply keeps_admittedEnd
    | with_reducible apply keeps_foldl
    | (rw [rest_eq]; with_reducible refine keeps_rest ?_ rfl (SameSto.refl _) ⟨rfl, rfl⟩)
    | split
    | dsimp only

theorem keeps_spoilBatch {b0 d0 : Bool} {s0 : State} {s : State} {b : Batch} (hs0 : Keeps b0 d0 s0 s) : Keeps b0 d0 s0
    (spoilBatch s b) := by
  unfold spoilBatch
  try dsimp only
  repeat' first
    | with_reducible assumption
    | with_reducible refine keeps_ite ?_ ?_
    | intro _
    | with_reducible apply keeps_undefRange
    | with_reducible apply keeps_foldl
    | with_reducible apply keeps_foldl_fst
    | (rw [rest_eq]; with_reducible refine keeps_rest ?_ rfl (SameSto.refl _) ⟨rfl, rfl⟩)
    | split
    | dsimp only

theorem keeps_stopSolver {b0 d0 : Bool} {s0 : State} {s : State} {k : CmdKey} (hs0 : Keeps b0 d0 s0 s) : Keeps b0 d0 s0
    (stopSolver s k) := by
  unfold stopSolver
  try dsimp only
  repeat' first
    | with_reducible assumption
    | intro _
    | with_reducible apply keeps_spoilBatch
    | with_reducible apply keeps_admittedEnd
    | with_reducible apply keeps_dropBatch
    | with_reducible apply keeps_stopChecks
    | with_reducible apply keeps_stopArming
    | with_reducible apply keeps_stopSolves
    | (rw [rest_eq]; with_reducible refine keeps_rest ?_ rfl (SameSto.refl _) ⟨rfl, rfl⟩)
    | split
    | dsimp only

theorem keeps_stopServo {b0 d0 : Bool} {s0 : State} {s : State} {k : CmdKey} (hs0 : Keeps b0 d0 s0 s) : Keeps b0 d0 s0
    (stopServo s k) := by
  unfold stopServo
  try dsimp only
  repeat' first
    | with_reducible assumption
    | intro _
    | with_reducible apply keeps_mapChannels
    | with_reducible apply keeps_modNet
    | (rw [rest_eq]; with_reducible refine keeps_rest ?_ rfl (SameSto.refl _) ⟨rfl, rfl⟩)
    | dsimp only

theorem keeps_stopPeer {b0 d0 : Bool} {s0 : State} {s : State} {k : CmdKey} (hs0 : Keeps b0 d0 s0 s) : Keeps b0 d0 s0 (stopPeer
    s k) := by
  unfold stopPeer
  try dsimp only
  repeat' first
    | with_reducible assumption
    | with_reducible refine keeps_ite ?_ ?_
    | intro _
    | with_reducible apply keeps_undefRange
    | with_reducible apply keeps_dropPeerTransfer
    | with_reducible apply keeps_foldl
    | (rw [rest_eq]; with_reducible refine keeps_rest ?_ rfl (SameSto.refl _) ⟨rfl, rfl⟩)
    | split
    | dsimp only

theorem keeps_stopCan {b0 d0 : Bool} {s0 : State} {s : State} {k : CmdKey} (hs0 : Keeps b0 d0 s0 s) : Keeps b0 d0 s0 (stopCan s
    k) := by
  unfold stopCan
  try dsimp only
  repeat' first
    | with_reducible assumption
    | intro _
    | (rw [rest_eq]; with_reducible refine keeps_rest ?_ rfl (SameSto.refl _) ⟨rfl, rfl⟩)

theorem keeps_stopServing {b0 d0 : Bool} {s0 : State} {s : State} {k : CmdKey} (hs0 : Keeps b0 d0 s0 s) : Keeps b0 d0 s0
    (stopServing s k) := by
  unfold stopServing
  try dsimp only
  repeat' first
    | with_reducible assumption
    | with_reducible refine keeps_ite ?_ ?_
    | intro _
    | with_reducible apply keeps_retireSeq
    | with_reducible refine keeps_retireSeq_eq ?_ (by assumption)
    | with_reducible apply keeps_setLoop
    | with_reducible apply keeps_foldl
    | with_reducible apply keeps_foldl_fst
    | (rw [rest_eq]; with_reducible refine keeps_rest ?_ rfl (SameSto.refl _) ⟨rfl, rfl⟩)
    | split
    | dsimp only

theorem keeps_dropDeferred {b0 d0 : Bool} {s0 : State} {s : State} {k : CmdKey} (hs0 : Keeps b0 d0 s0 s) : Keeps b0 d0 s0
    (dropDeferred s k) := by
  unfold dropDeferred
  try dsimp only
  repeat' first
    | with_reducible assumption
    | intro _
    | (rw [rest_eq]; with_reducible refine keeps_rest ?_ rfl (SameSto.refl _) ⟨rfl, rfl⟩)

theorem keeps_leaveUpdate {b0 d0 : Bool} {s0 : State} {s : State} {k : CmdKey} (hs0 : Keeps b0 d0 s0 s) : Keeps b0 d0 s0
    (leaveUpdate s k) := by
  unfold leaveUpdate
  try dsimp only
  repeat' first
    | with_reducible assumption
    | with_reducible refine keeps_ite ?_ ?_
    | intro _
    | (rw [rest_eq]; with_reducible refine keeps_rest ?_ rfl (SameSto.refl _) ⟨rfl, rfl⟩)
    | split
    | dsimp only

theorem keeps_stopUpdate {b0 d0 : Bool} {s0 : State} {s : State} {k : CmdKey} (hs0 : Keeps b0 d0 s0 s) : Keeps b0 d0 s0
    (stopUpdate s k) := by
  unfold stopUpdate
  try dsimp only
  repeat' first
    | with_reducible assumption
    | with_reducible refine keeps_ite ?_ ?_
    | with_reducible apply keeps_leaveUpdate
    | with_reducible apply keeps_nextRetrains
    | with_reducible apply keeps_nextDrains
    | split
    | dsimp only

theorem keeps_stopHashing {b0 d0 : Bool} {s0 : State} {s : State} {k : CmdKey} (hs0 : Keeps b0 d0 s0 s) : Keeps b0 d0 s0
    (stopHashing s k) := by
  unfold stopHashing
  try dsimp only
  repeat' first
    | with_reducible assumption
    | with_reducible refine keeps_ite ?_ ?_
    | intro _
    | with_reducible apply keeps_dropImprints
    | (rw [rest_eq]; with_reducible refine keeps_rest ?_ rfl (SameSto.refl _) ⟨rfl, rfl⟩)
    | split
    | dsimp only

theorem keeps_stopWork {b0 d0 : Bool} {s0 : State} {s : State} {k : CmdKey} (hs0 : Keeps b0 d0 s0 s) : Keeps b0 d0 s0 (stopWork
    s k) := by
  unfold stopWork
  try dsimp only
  repeat' first
    | with_reducible assumption
    | intro _
    | with_reducible apply keeps_stopTransfer
    | with_reducible apply keeps_stopRoutes
    | with_reducible apply keeps_stopSolver
    | with_reducible apply keeps_stopServo
    | with_reducible apply keeps_stopPeer
    | with_reducible apply keeps_stopCan
    | with_reducible apply keeps_stopServing
    | with_reducible apply keeps_stopUpdate
    | with_reducible apply keeps_stopHashing
    | with_reducible apply keeps_dropImprints
    | with_reducible apply keeps_mapSessions
    | with_reducible apply keeps_stopArming
    | (rw [rest_eq]; with_reducible refine keeps_rest ?_ rfl (SameSto.refl _) ⟨rfl, rfl⟩)
    | dsimp only

theorem keeps_stopCommand {b0 d0 : Bool} {s0 : State} {s : State} {k : CmdKey} (hs0 : Keeps b0 d0 s0 s) : Keeps b0 d0 s0
    (stopCommand s k) := by
  unfold stopCommand
  try dsimp only
  repeat' first
    | with_reducible assumption
    | with_reducible apply keeps_dropDeferred
    | with_reducible apply keeps_stopWork
    | with_reducible apply keeps_dropOut

theorem keeps_missWaitingRoute {b0 d0 : Bool} {s0 : State} {s : State} {p : Nat} {w : WaitingRoute} (hs0 : Keeps b0 d0 s0 s) :
    Keeps b0 d0 s0 (missWaitingRoute s p w) := by
  unfold missWaitingRoute
  try dsimp only
  repeat' first
    | with_reducible assumption
    | with_reducible refine keeps_ite ?_ ?_
    | with_reducible apply keeps_unqueueRoute
    | with_reducible apply keeps_huskMiss
    | with_reducible apply keeps_missDeadline
    | with_reducible apply keeps_admittedEnd
    | (rw [rest_eq]; with_reducible refine keeps_rest ?_ rfl (SameSto.refl _) ⟨rfl, rfl⟩)
    | split
    | dsimp only

theorem keeps_missAside {b0 d0 : Bool} {s0 : State} {s : State} {p : Nat} {r : RouteRun} (hs0 : Keeps b0 d0 s0 s) : Keeps b0 d0
    s0 (missAside s p r) := by
  unfold missAside
  try dsimp only
  repeat' first
    | with_reducible assumption
    | with_reducible refine keeps_ite ?_ ?_
    | intro _
    | with_reducible apply keeps_stopRoute
    | with_reducible apply keeps_afterRoute
    | with_reducible apply keeps_modPart
    | (rw [rest_eq]; with_reducible refine keeps_rest ?_ rfl (SameSto.refl _) ⟨rfl, rfl⟩)
    | split
    | dsimp only

theorem keeps_missRoutes {b0 d0 : Bool} {s0 : State} {s : State} {k : CmdKey} (hs0 : Keeps b0 d0 s0 s) : Keeps b0 d0 s0
    (missRoutes s k) := by
  unfold missRoutes
  try dsimp only
  repeat' first
    | with_reducible assumption
    | with_reducible refine keeps_ite ?_ ?_
    | intro _
    | with_reducible apply keeps_missWaitingRoute
    | with_reducible apply keeps_missAside
    | with_reducible apply keeps_stopRoute
    | with_reducible apply keeps_afterRoute
    | with_reducible apply keeps_foldl
    | (rw [rest_eq]; with_reducible refine keeps_rest ?_ rfl (SameSto.refl _) ⟨rfl, rfl⟩)
    | split
    | dsimp only

theorem keeps_deadlineMet {b0 d0 : Bool} {s0 : State} {s : State} {o : Outstanding} (hs0 : Keeps b0 d0 s0 s) : Keeps b0 d0 s0
    (deadlineMet s o) := by
  unfold deadlineMet
  try dsimp only
  repeat' first
    | with_reducible assumption
    | with_reducible refine keeps_ite ?_ ?_
    | intro _
    | with_reducible apply keeps_stopWork
    | with_reducible apply keeps_missRoutes
    | with_reducible apply keeps_missTransfer
    | with_reducible apply keeps_missUnstarted
    | with_reducible apply keeps_missSolves
    | (rw [rest_eq]; with_reducible refine keeps_rest ?_ rfl (SameSto.refl _) ⟨rfl, rfl⟩)
    | split
    | dsimp only

theorem keeps_failJoin {b0 d0 : Bool} {s0 : State} {s : State} {k : CmdKey} (hs0 : Keeps b0 d0 s0 s) : Keeps b0 d0 s0 (failJoin
    s k) := by
  unfold failJoin
  try dsimp only
  repeat' first
    | with_reducible assumption
    | with_reducible refine keeps_ite ?_ ?_
    | intro _
    | with_reducible apply keeps_retireSeq
    | with_reducible refine keeps_retireSeq_eq ?_ (by assumption)
    | with_reducible apply keeps_setLoop
    | with_reducible apply keeps_foldl
    | with_reducible apply keeps_foldl_fst
    | with_reducible apply keeps_foldl_fst2
    | (rw [rest_eq]; with_reducible refine keeps_rest ?_ rfl (SameSto.refl _) ⟨rfl, rfl⟩)
    | split
    | dsimp only

theorem keeps_failRead {b0 d0 : Bool} {s0 : State} {s : State} {k : CmdKey} (hs0 : Keeps b0 d0 s0 s) : Keeps b0 d0 s0 (failRead
    s k) := by
  unfold failRead
  try dsimp only
  repeat' first
    | with_reducible assumption
    | with_reducible refine keeps_ite ?_ ?_
    | intro _
    | with_reducible apply keeps_stopWork
    | with_reducible apply keeps_failJoin
    | with_reducible apply keeps_endEarly
    | with_reducible apply keeps_stopRoute
    | with_reducible apply keeps_afterRoute
    | with_reducible apply keeps_done
    | with_reducible apply keeps_solveOver
    | with_reducible apply keeps_abandonRun
    | (rw [rest_eq]; with_reducible refine keeps_rest ?_ rfl (SameSto.refl _) ⟨rfl, rfl⟩)
    | split
    | dsimp only

theorem keeps_stopLoops {b0 d0 : Bool} {s0 : State} {s : State} {id : Word} (hs0 : Keeps b0 d0 s0 s) : Keeps b0 d0 s0
    (stopLoops s id) := by
  unfold stopLoops
  try dsimp only
  repeat' first
    | with_reducible assumption
    | intro _
    | with_reducible apply keeps_stopRoutes
    | with_reducible apply keeps_stopSolver
    | with_reducible apply keeps_dropLoop
    | with_reducible apply keeps_foldl
    | dsimp only

theorem keeps_dropObjects {b0 d0 : Bool} {s0 : State} {s : State} {id : Word} (hs0 : Keeps b0 d0 s0 s) : Keeps b0 d0 s0
    (dropObjects s id) := by
  unfold dropObjects
  try dsimp only
  repeat' first
    | with_reducible assumption
    | intro _
    | with_reducible apply keeps_closePeerWindows
    | (rw [rest_eq]; with_reducible refine keeps_rest ?_ rfl (SameSto.refl _) ⟨rfl, rfl⟩)
    | split
    | dsimp only

theorem keeps_closeWork {b0 d0 : Bool} {s0 : State} {s : State} {id : Word} {but : Option CmdKey} (hs0 : Keeps b0 d0 s0 s) :
    Keeps b0 d0 s0 (closeWork s id but).2 := by
  unfold closeWork
  try dsimp only
  repeat' first
    | with_reducible assumption
    | with_reducible refine keeps_ite ?_ ?_
    | intro _
    | with_reducible apply keeps_stopCommand
    | with_reducible apply keeps_stopLoops
    | with_reducible apply keeps_dropObjects
    | with_reducible apply keeps_closeEtches
    | with_reducible refine keeps_closeEtches_eq ?_ (by assumption)
    | with_reducible apply keeps_foldl
    | with_reducible apply keeps_foldl_fst
    | (rw [rest_eq]; with_reducible refine keeps_rest ?_ rfl (SameSto.refl _) ⟨rfl, rfl⟩)
    | split
    | dsimp only
theorem keeps_closeWork_eq {b0 d0 : Bool} {s0 : State} {s : State} {id : Word} {but : Option CmdKey} (hs0 : Keeps b0 d0 s0 s)
    {r0 : State} {y0 : Nat} (e : closeWork s id but = (y0, r0)) : Keeps b0 d0 s0 r0 := by
  have k := keeps_closeWork (s := s) (id := id) (but := but) hs0
  rw [e] at k
  exact k

theorem keeps_closeSilently {b0 d0 : Bool} {s0 : State} {s : State} {id : Word} (hs0 : Keeps b0 d0 s0 s) : Keeps b0 d0 s0
    (closeSilently s id) := by
  unfold closeSilently
  try dsimp only
  repeat' first
    | with_reducible assumption
    | with_reducible apply keeps_closeWork
    | with_reducible refine keeps_closeWork_eq ?_ (by assumption)
    | with_reducible apply keeps_closeFinal
    | dsimp only

theorem keeps_resetFunction {b0 d0 : Bool} {s0 : State} {s : State} {fn : Nat} (hs0 : Keeps b0 d0 s0 s) : Keeps b0 d0 s0
    (resetFunction s fn) := by
  unfold resetFunction
  try dsimp only
  repeat' first
    | with_reducible assumption
    | intro _
    | with_reducible apply keeps_closeSilently
    | with_reducible apply keeps_foldl

theorem keeps_loseLink {b0 d0 : Bool} {s0 : State} {s : State} (hs0 : Keeps b0 d0 s0 s) : Keeps b0 d0 s0 (loseLink s) := by
  unfold loseLink
  try dsimp only
  repeat' first
    | with_reducible assumption
    | intro _
    | with_reducible apply keeps_resetFunction
    | with_reducible apply keeps_foldl
    | (rw [rest_eq]; with_reducible refine keeps_rest ?_ rfl (SameSto.refl _) ⟨rfl, rfl⟩)
    | dsimp only

/-! Machine/Abort.lean. -/

theorem keeps_waitAbort {b0 d0 : Bool} {s0 : State} {s : State} {c : Cmd} {x : AbortTarget} (hs0 : Keeps b0 d0 s0 s) : Keeps b0
    d0 s0 (waitAbort s c x) := by
  unfold waitAbort
  try dsimp only
  repeat' first
    | with_reducible assumption
    | (rw [rest_eq]; with_reducible refine keeps_rest ?_ rfl (SameSto.refl _) ⟨rfl, rfl⟩)

theorem keeps_execAbort {b0 d0 : Bool} {s0 : State} {t : Nat} {c : Cmd} {sq : BitVec 18} {cmd : BitVec 16} {s : State} (hs0 :
    Keeps b0 d0 s0 s) {r0 : State} (e : execAbort t c sq cmd s = .next r0) : Keeps b0 d0 s0 r0 := by
  unfold execAbort at e
  refine keeps_host hs0 ?_ e
  clear hs0 e r0
  try dsimp only
  repeat' first
    | with_reducible assumption
    | with_reducible refine keeps_ite ?_ ?_
    | intro _
    | with_reducible apply keeps_waitAbort
    | with_reducible apply keeps_done
    | (rw [rest_eq]; with_reducible refine keeps_rest ?_ rfl (SameSto.refl _) ⟨rfl, rfl⟩)
    | split

theorem keeps_execEtchAbort {b0 d0 : Bool} {s0 : State} {t : Nat} {c : Cmd} {etch : BitVec 16} {s : State} (hs0 : Keeps b0 d0
    s0 s) {r0 : State} (e : execEtchAbort t c etch s = .next r0) : Keeps b0 d0 s0 r0 := by
  unfold execEtchAbort at e
  refine keeps_host hs0 ?_ e
  clear hs0 e r0
  try dsimp only
  repeat' first
    | with_reducible assumption
    | with_reducible refine keeps_ite ?_ ?_
    | intro _
    | with_reducible apply keeps_waitAbort
    | with_reducible apply keeps_done
    | (rw [rest_eq]; with_reducible refine keeps_rest ?_ rfl (SameSto.refl _) ⟨rfl, rfl⟩)
    | split

theorem keeps_abortEtch {b0 d0 : Bool} {s0 : State} {s : State} {e : Etch} (hs0 : Keeps b0 d0 s0 s) : Keeps b0 d0 s0 (abortEtch
    s e) := by
  unfold abortEtch
  try dsimp only
  repeat' first
    | with_reducible assumption
    | intro _
    | with_reducible apply keeps_armFails
    | with_reducible apply keeps_releaseEtch
    | with_reducible apply keeps_restoreFallback
    | with_reducible apply keeps_foldl
    | (rw [rest_eq]; with_reducible refine keeps_rest ?_ rfl (SameSto.refl _) ⟨rfl, rfl⟩)
    | dsimp only

theorem keeps_deadlineFirst {b0 d0 : Bool} {s0 : State} {s : State} {k : CmdKey} (hs0 : Keeps b0 d0 s0 s) : Keeps b0 d0 s0
    (deadlineFirst s k) := by
  unfold deadlineFirst
  try dsimp only
  repeat' first
    | with_reducible assumption
    | with_reducible refine keeps_ite ?_ ?_
    | with_reducible apply keeps_deadlineMet
    | (rw [rest_eq]; with_reducible refine keeps_rest ?_ rfl (SameSto.refl _) ⟨rfl, rfl⟩)
    | split

theorem keeps_execAbortInstant {b0 d0 : Bool} {s0 : State} {t : Nat} {cmd : CmdKey} {s : State} (hs0 : Keeps b0 d0 s0 s) {r0 :
    State} (e : execAbortInstant t cmd s = .next r0) : Keeps b0 d0 s0 r0 := by
  unfold execAbortInstant at e
  refine keeps_event hs0 ?_ e
  clear hs0 e r0
  try dsimp only
  repeat' first
    | with_reducible assumption
    | intro _
    | with_reducible apply keeps_abortEtch
    | with_reducible apply keeps_deadlineFirst
    | with_reducible apply keeps_stopCommand
    | with_reducible apply keeps_commitDue
    | with_reducible apply keeps_done
    | (rw [rest_eq]; with_reducible refine keeps_rest ?_ rfl (SameSto.refl _) ⟨rfl, rfl⟩)
    | split
    | dsimp only

theorem keeps_execDeadlineMatch {b0 d0 : Bool} {s0 : State} {t : Nat} {cmd : CmdKey} {s : State} (hs0 : Keeps b0 d0 s0 s) {r0 :
    State} (e : execDeadlineMatch t cmd s = .next r0) : Keeps b0 d0 s0 r0 := by
  unfold execDeadlineMatch at e
  refine keeps_event hs0 ?_ e
  clear hs0 e r0
  try dsimp only
  repeat' first
    | with_reducible assumption
    | with_reducible refine keeps_ite ?_ ?_
    | intro _
    | with_reducible apply keeps_deadlineMet
    | (rw [rest_eq]; with_reducible refine keeps_rest ?_ rfl (SameSto.refl _) ⟨rfl, rfl⟩)
    | split

theorem keeps_execDeleteSq {b0 d0 : Bool} {s0 : State} {t : Nat} {c : Cmd} {sq : BitVec 18} {s : State} (hs0 : Keeps b0 d0 s0
    s) {r0 : State} (e : execDeleteSq t c sq s = .next r0) : Keeps b0 d0 s0 r0 := by
  unfold execDeleteSq at e
  refine keeps_host hs0 ?_ e
  clear hs0 e r0
  try dsimp only
  repeat' first
    | with_reducible assumption
    | with_reducible refine keeps_ite ?_ ?_
    | intro _
    | with_reducible apply keeps_stopCommand
    | with_reducible apply keeps_done
    | with_reducible apply keeps_foldl
    | (rw [rest_eq]; with_reducible refine keeps_rest ?_ rfl (SameSto.refl _) ⟨rfl, rfl⟩)
    | split
    | dsimp only

theorem keeps_execCloseSession {b0 d0 : Bool} {s0 : State} {t : Nat} {c : Cmd} {session : Word} {s : State} (hs0 : Keeps b0 d0
    s0 s) {r0 : State} (e : execCloseSession t c session s = .next r0) : Keeps b0 d0 s0 r0 := by
  unfold execCloseSession at e
  refine keeps_host hs0 ?_ e
  clear hs0 e r0
  try dsimp only
  repeat' first
    | with_reducible assumption
    | with_reducible refine keeps_ite ?_ ?_
    | intro _
    | with_reducible apply keeps_closeWork
    | with_reducible refine keeps_closeWork_eq ?_ (by assumption)
    | with_reducible apply keeps_closeFinal
    | with_reducible apply keeps_finish
    | with_reducible apply keeps_done
    | (rw [rest_eq]; with_reducible refine keeps_rest ?_ rfl (SameSto.refl _) ⟨rfl, rfl⟩)
    | split
    | dsimp only

theorem keeps_execFunctionLevelReset {b0 d0 : Bool} {s0 : State} {t : Nat} {fn : Nat} {s : State} (hs0 : Keeps b0 d0 s0 s) {r0
    : State} (e : execFunctionLevelReset t fn s = .next r0) : Keeps b0 d0 s0 r0 := by
  unfold execFunctionLevelReset at e
  refine keeps_event hs0 ?_ e
  clear hs0 e r0
  try dsimp only
  repeat' first
    | with_reducible assumption
    | intro _
    | with_reducible apply keeps_resetFunction

theorem keeps_execVfDisable {b0 d0 : Bool} {s0 : State} {t : Nat} {fn : Nat} {s : State} (hs0 : Keeps b0 d0 s0 s) {r0 : State}
    (e : execVfDisable t fn s = .next r0) : Keeps b0 d0 s0 r0 := by
  unfold execVfDisable at e
  refine keeps_event hs0 ?_ e
  clear hs0 e r0
  try dsimp only
  repeat' first
    | with_reducible assumption
    | with_reducible refine keeps_ite ?_ ?_
    | intro _
    | with_reducible apply keeps_resetFunction
    | split

theorem keeps_execHostLinkLoss {b0 d0 : Bool} {s0 : State} {t : Nat} {s : State} (hs0 : Keeps b0 d0 s0 s) {r0 : State} (e :
    execHostLinkLoss t s = .next r0) : Keeps b0 d0 s0 r0 := by
  unfold execHostLinkLoss at e
  refine keeps_event hs0 ?_ e
  clear hs0 e r0
  try dsimp only
  repeat' first
    | with_reducible assumption
    | with_reducible apply keeps_loseLink

theorem keeps_execPerstAssert {b0 d0 : Bool} {s0 : State} {t : Nat} {s : State} (hs0 : Keeps b0 d0 s0 s) {r0 : State} (e :
    execPerstAssert t s = .next r0) : Keeps b0 d0 s0 r0 := by
  unfold execPerstAssert at e
  refine keeps_event hs0 ?_ e
  clear hs0 e r0
  try dsimp only
  repeat' first
    | with_reducible assumption
    | with_reducible apply keeps_loseLink

theorem keeps_execLpddrBurstRereadLimit {b0 d0 : Bool} {s0 : State} {t : Nat} {addr : Nat} {cmd : CmdKey} {s : State} (hs0 :
    Keeps b0 d0 s0 s) {r0 : State} (e : execLpddrBurstRereadLimit t addr cmd s = .next r0) : Keeps b0 d0 s0 r0 := by
  unfold execLpddrBurstRereadLimit at e
  refine keeps_event hs0 ?_ e
  clear hs0 e r0
  try dsimp only
  repeat' first
    | with_reducible assumption
    | with_reducible refine keeps_ite ?_ ?_
    | intro _
    | with_reducible apply keeps_failRead
    | with_reducible apply keeps_noteUncorrectable
    | with_reducible apply keeps_safeTrigger
    | (rw [rest_eq]; with_reducible refine keeps_rest ?_ rfl (SameSto.refl _) ⟨rfl, rfl⟩)
    | split
    | dsimp only

/-! Machine/BootImage.lean. -/

theorem keeps_modFlash {b0 d0 : Bool} {s0 : State} {s : State} {f : Flash → Flash} (hs0 : Keeps b0 d0 s0 s) : Keeps b0 d0 s0
    (modFlash s f) := by
  unfold modFlash
  try dsimp only
  repeat' first
    | with_reducible assumption
    | (rw [rest_eq]; with_reducible refine keeps_rest ?_ rfl (SameSto.refl _) ⟨rfl, rfl⟩)

theorem keeps_setImage {b0 d0 : Bool} {s0 : State} {s : State} {kind : Nat} {b : Bool} {x : Bytes} (hs0 : Keeps b0 d0 s0 s) :
    Keeps b0 d0 s0 (setImage s kind b x) := by
  unfold setImage
  try dsimp only
  repeat' first
    | with_reducible assumption
    | with_reducible refine keeps_ite ?_ ?_
    | intro _
    | with_reducible apply keeps_modFlash
    | (rw [rest_eq]; with_reducible refine keeps_rest ?_ rfl (SameSto.refl _) ⟨rfl, rfl⟩)
    | split

theorem keeps_setSelector {b0 d0 : Bool} {s0 : State} {s : State} {kind : Nat} {b : Bool} (hs0 : Keeps b0 d0 s0 s) : Keeps b0
    d0 s0 (setSelector s kind b) := by
  unfold setSelector
  try dsimp only
  repeat' first
    | with_reducible assumption
    | intro _
    | with_reducible apply keeps_modFlash
    | (rw [rest_eq]; with_reducible refine keeps_rest ?_ rfl (SameSto.refl _) ⟨rfl, rfl⟩)
    | split

theorem keeps_huskSwap {b0 d0 : Bool} {s0 : State} {s : State} {shell : Nat} {from_ : Bool} {dest : Bool} {fallback : Nat}
    {image : Bytes} (hs0 : Keeps b0 d0 s0 s) : Keeps b0 d0 s0 (huskSwap s shell from_ dest fallback image) := by
  unfold huskSwap
  try dsimp only
  repeat' first
    | with_reducible assumption
    | with_reducible apply keeps_huskRequest

theorem keeps_pickSlot {b0 d0 : Bool} {s0 : State} {s : State} {kind : Nat} {shell : Nat} {ok : State → Bytes → Bool} (hs0 :
    Keeps b0 d0 s0 s) : Keeps b0 d0 s0 (pickSlot s kind shell ok).1 := by
  unfold pickSlot
  try dsimp only
  repeat' first
    | with_reducible assumption
    | with_reducible refine keeps_ite ?_ ?_
    | with_reducible apply keeps_huskSwap
    | split
    | dsimp only
theorem keeps_pickSlot_eq {b0 d0 : Bool} {s0 : State} {s : State} {kind : Nat} {shell : Nat} {ok : State → Bytes → Bool} (hs0 :
    Keeps b0 d0 s0 s) {r0 : State} {y0 : Option Bool} (e : pickSlot s kind shell ok = (r0, y0)) : Keeps b0 d0 s0 r0 := by
  have k := keeps_pickSlot (s := s) (kind := kind) (shell := shell) (ok := ok) hs0
  rw [e] at k
  exact k

theorem keeps_writeProt {b0 : Bool} {s0 s : State} {p : Bytes} (h : Keeps b0 false s0 s) : Keeps b0 false s0 (writeProt s p) := by
  refine h.trans ⟨rfl, ?_, id, id, fun _ => Onward.refl _, fun e => by cases e⟩
  rintro ⟨h1, h2, _⟩
  exact ⟨h1, h2, wf_write [] 0 _ rfl⟩

theorem keeps_raiseFloors {b0 d0 : Bool} {s0 : State} {s : State} (hs0 : Keeps b0 d0 s0 s) : Keeps b0 d0 s0 (raiseFloors s) := by
  unfold raiseFloors
  try dsimp only
  repeat' first
    | with_reducible assumption
    | intro _
    | (rw [rest_eq]; with_reducible refine keeps_rest ?_ rfl (SameSto.refl _) ⟨rfl, rfl⟩)
    | dsimp only

end Sys2Proof.Laws
end

