-- ==== Sys2Proof/Laws/Keeps6.lean ====
section
/-!
SUPPORT. Laws/Keeps6.lean: every operation of Machine/SafetyEvents.lean, Machine/Power.lean, Machine/Boot.lean,
Machine/Clock.lean, Machine/HuskOps.lean, Machine/Imprint.lean, Machine/Ingress.lean keeps what Laws/Keeps.lean says.
-/
namespace Sys2Proof.Laws

open Sys2Proof.Machine

/-! Machine/SafetyEvents.lean. -/

theorem keeps_execSafetyStatus {b0 d0 : Bool} {s0 : State} {t : Nat} {c : Cmd} {window : Word} {offset : DWord} {s : State}
    (hs0 : Keeps b0 d0 s0 s) {r0 : State} (e : execSafetyStatus t c window offset s = .next r0) : Keeps b0 d0 s0 r0 := by
  unfold execSafetyStatus at e
  refine keeps_host hs0 ?_ e
  clear hs0 e r0
  try dsimp only
  repeat' first
    | with_reducible assumption
    | intro _
    | with_reducible apply keeps_writeReply

theorem keeps_execSafeStateRequest {b0 d0 : Bool} {s0 : State} {t : Nat} {c : Cmd} {confirm : Bool} {s : State} (hs0 : Keeps b0
    d0 s0 s) {r0 : State} (e : execSafeStateRequest t c confirm s = .next r0) : Keeps b0 d0 s0 r0 := by
  unfold execSafeStateRequest at e
  refine keeps_host hs0 ?_ e
  clear hs0 e r0
  try dsimp only
  repeat' first
    | with_reducible assumption
    | intro _
    | with_reducible apply keeps_done
    | with_reducible apply keeps_safeTrigger

theorem execSafetyReset_keeps {t : Nat} {c : Cmd} {s r : State} (e : execSafetyReset t c s = .next r) :
    r.pending = s.pending ∧ (s.MemoryOk → r.MemoryOk) ∧ (s.StoOk → r.StoOk) ∧ Onward s.phase r.phase
    ∧ r.boot.prot = s.boot.prot := by
  have h := keeps_markStarted (b0 := true) (d0 := true) (k := c.key) (keeps_advance (t := t) (Keeps.refl s))
  cases e
  dsimp only
  rw [if_pos rfl]
  split
  · have k := keeps_done (c := c) (st := stNO_RESOURCE) (result := 0) h
    exact ⟨k.pending, k.mem, k.sto, k.clock rfl, k.prot rfl⟩
  · split
    · have k := keeps_done (c := c) (st := stOK) (result := 0) h
      exact ⟨k.pending, k.mem, k.sto, k.clock rfl, k.prot rfl⟩
    · generalize markStarted (advance s t) c.key = x at h
      generalize ha : ({ x with safety := _ } : State) = y
      have k := keeps_done (b0 := true) (d0 := true) (c := c) (st := stOK) (result := 0) (Keeps.refl y)
      subst ha
      exact ⟨k.pending.trans h.pending, fun m => k.mem (h.mem m), fun _ => k.sto (fun q => by cases q),
        (h.clock rfl).trans (k.clock rfl), (k.prot rfl).trans (h.prot rfl)⟩

theorem keeps_execCpHeartbeat {b0 d0 : Bool} {s0 : State} {t : Nat} {s : State} (hs0 : Keeps b0 d0 s0 s) {r0 : State} (e :
    execCpHeartbeat t s = .next r0) : Keeps b0 d0 s0 r0 := by
  unfold execCpHeartbeat at e
  refine keeps_event hs0 ?_ e
  clear hs0 e r0
  try dsimp only
  repeat' first
    | with_reducible assumption
    | intro _
    | (rw [rest_eq]; with_reducible refine keeps_rest ?_ rfl (SameSto.refl _) ⟨rfl, rfl⟩)
    | (rw [rest_eq]; with_reducible refine keeps_rest ?_ rfl ⟨rfl, rfl, rfl, rfl, rfl, rfl⟩ ⟨rfl, rfl⟩)

theorem keeps_execHeartbeatTimeout {b0 d0 : Bool} {s0 : State} {t : Nat} {s : State} (hs0 : Keeps b0 d0 s0 s) {r0 : State} (e :
    execHeartbeatTimeout t s = .next r0) : Keeps b0 d0 s0 r0 := by
  unfold execHeartbeatTimeout at e
  refine keeps_event hs0 ?_ e
  clear hs0 e r0
  try dsimp only
  repeat' first
    | with_reducible assumption
    | with_reducible refine keeps_ite ?_ ?_
    | intro _
    | with_reducible apply keeps_huskFault
    | with_reducible apply keeps_safeTrigger
    | split

theorem keeps_execRestartWindowExpiry {b0 d0 : Bool} {s0 : State} {t : Nat} {s : State} (hs0 : Keeps b0 d0 s0 s) {r0 : State}
    (e : execRestartWindowExpiry t s = .next r0) : Keeps b0 d0 s0 r0 := by
  unfold execRestartWindowExpiry at e
  refine keeps_event hs0 ?_ e
  clear hs0 e r0
  try dsimp only
  repeat' first
    | with_reducible assumption
    | with_reducible refine keeps_ite ?_ ?_
    | intro _
    | with_reducible apply keeps_stoLater
    | (rw [rest_eq]; with_reducible refine keeps_rest ?_ rfl (SameSto.refl _) ⟨rfl, rfl⟩)
    | (rw [rest_eq]; with_reducible refine keeps_rest ?_ rfl ⟨rfl, rfl, rfl, rfl, rfl, rfl⟩ ⟨rfl, rfl⟩)
    | split
    | dsimp only

theorem keeps_execStoDeadlineExpiry {b0 d0 : Bool} {s0 : State} {t : Nat} {s : State} (hs0 : Keeps b0 d0 s0 s) {r0 : State} (e
    : execStoDeadlineExpiry t s = .next r0) : Keeps b0 d0 s0 r0 := by
  unfold execStoDeadlineExpiry at e
  refine keeps_event hs0 ?_ e
  clear hs0 e r0
  try dsimp only
  repeat' first
    | with_reducible assumption
    | with_reducible refine keeps_ite ?_ ?_
    | intro _
    | with_reducible apply keeps_assertSto
    | split
    | dsimp only

theorem keeps_execBrakeDelayExpiry {b0 d0 : Bool} {s0 : State} {t : Nat} {s : State} (h : Keeps b0 d0 s0 s) {r : State}
    (e : execBrakeDelayExpiry t s = .next r) : Keeps b0 d0 s0 r := by
  unfold execBrakeDelayExpiry at e
  refine keeps_event h ?_ e
  clear h e r
  intro x h
  split
  · exact h
  · split
    · exact h
    · exact keeps_stoDown h
    · next e =>
      refine h.trans ⟨rfl, id, ?_, id, fun _ => Onward.refl _, fun _ => rfl⟩
      intro hy hh
      have hd := (hy hh).2.2.2.2
      rw [e] at hd
      cases hd

theorem keeps_execHeldLimitReached {b0 d0 : Bool} {s0 : State} {t : Nat} {group : Nat} {s : State} (hs0 : Keeps b0 d0 s0 s) {r0
    : State} (e : execHeldLimitReached t group s = .next r0) : Keeps b0 d0 s0 r0 := by
  unfold execHeldLimitReached at e
  refine keeps_event hs0 ?_ e
  clear hs0 e r0
  try dsimp only
  repeat' first
    | with_reducible assumption
    | with_reducible refine keeps_ite ?_ ?_
    | intro _
    | with_reducible apply keeps_huskFault
    | with_reducible apply keeps_enterStop
    | split

theorem keeps_execDisagreeLimitReached {b0 d0 : Bool} {s0 : State} {t : Nat} {group : Nat} {s : State} (hs0 : Keeps b0 d0 s0 s)
    {r0 : State} (e : execDisagreeLimitReached t group s = .next r0) : Keeps b0 d0 s0 r0 := by
  unfold execDisagreeLimitReached at e
  refine keeps_event hs0 ?_ e
  clear hs0 e r0
  try dsimp only
  repeat' first
    | with_reducible assumption
    | with_reducible refine keeps_ite ?_ ?_
    | intro _
    | with_reducible apply keeps_safeTrigger
    | split

theorem keeps_execEstopSample {b0 d0 : Bool} {s0 : State} {t : Nat} {a : Bool} {b : Bool} {s : State} (hs0 : Keeps b0 d0 s0 s)
    {r0 : State} (e : execEstopSample t a b s = .next r0) : Keeps b0 d0 s0 r0 := by
  unfold execEstopSample at e
  refine keeps_event hs0 ?_ e
  clear hs0 e r0
  try dsimp only
  repeat' first
    | with_reducible assumption
    | intro _
    | (rw [rest_eq]; with_reducible refine keeps_rest ?_ rfl (SameSto.refl _) ⟨rfl, rfl⟩)
    | (rw [rest_eq]; with_reducible refine keeps_rest ?_ rfl ⟨rfl, rfl, rfl, rfl, rfl, rfl⟩ ⟨rfl, rfl⟩)
    | dsimp only

theorem keeps_execEstopOpen {b0 d0 : Bool} {s0 : State} {t : Nat} {s : State} (hs0 : Keeps b0 d0 s0 s) {r0 : State} (e :
    execEstopOpen t s = .next r0) : Keeps b0 d0 s0 r0 := by
  unfold execEstopOpen at e
  refine keeps_event hs0 ?_ e
  clear hs0 e r0
  try dsimp only
  repeat' first
    | with_reducible assumption
    | with_reducible refine keeps_ite ?_ ?_
    | intro _
    | with_reducible apply keeps_allStop
    | with_reducible apply keeps_assertSto
    | with_reducible apply keeps_stoLater
    | (rw [rest_eq]; with_reducible refine keeps_rest ?_ rfl (SameSto.refl _) ⟨rfl, rfl⟩)
    | (rw [rest_eq]; with_reducible refine keeps_rest ?_ rfl ⟨rfl, rfl, rfl, rfl, rfl, rfl⟩ ⟨rfl, rfl⟩)
    | split
    | dsimp only

theorem keeps_execEstopDiscrepancyTimeout {b0 d0 : Bool} {s0 : State} {t : Nat} {s : State} (hs0 : Keeps b0 d0 s0 s) {r0 :
    State} (e : execEstopDiscrepancyTimeout t s = .next r0) : Keeps b0 d0 s0 r0 := by
  unfold execEstopDiscrepancyTimeout at e
  refine keeps_event hs0 ?_ e
  clear hs0 e r0
  try dsimp only
  repeat' first
    | with_reducible assumption
    | with_reducible refine keeps_ite ?_ ?_
    | intro _
    | with_reducible apply keeps_huskFault
    | with_reducible apply keeps_assertSto
    | (rw [rest_eq]; with_reducible refine keeps_rest ?_ rfl (SameSto.refl _) ⟨rfl, rfl⟩)
    | (rw [rest_eq]; with_reducible refine keeps_rest ?_ rfl ⟨rfl, rfl, rfl, rfl, rfl, rfl⟩ ⟨rfl, rfl⟩)
    | split

theorem keeps_execStoTestPulse {b0 d0 : Bool} {s0 : State} {t : Nat} {chanB : Bool} {s : State} (hs0 : Keeps b0 d0 s0 s) {r0 :
    State} (e : execStoTestPulse t chanB s = .next r0) : Keeps b0 d0 s0 r0 := by
  unfold execStoTestPulse at e
  refine keeps_event hs0 ?_ e
  clear hs0 e r0
  try dsimp only
  repeat' first
    | with_reducible assumption
    | with_reducible refine keeps_ite ?_ ?_
    | intro _
    | (rw [rest_eq]; with_reducible refine keeps_rest ?_ rfl (SameSto.refl _) ⟨rfl, rfl⟩)
    | (rw [rest_eq]; with_reducible refine keeps_rest ?_ rfl ⟨rfl, rfl, rfl, rfl, rfl, rfl⟩ ⟨rfl, rfl⟩)
    | split
    | dsimp only

theorem keeps_execOutputReadbackFault {b0 d0 : Bool} {s0 : State} {t : Nat} {s : State} (hs0 : Keeps b0 d0 s0 s) {r0 : State}
    (e : execOutputReadbackFault t s = .next r0) : Keeps b0 d0 s0 r0 := by
  unfold execOutputReadbackFault at e
  refine keeps_event hs0 ?_ e
  clear hs0 e r0
  try dsimp only
  repeat' first
    | with_reducible assumption
    | with_reducible refine keeps_ite ?_ ?_
    | intro _
    | with_reducible apply keeps_huskFault
    | with_reducible apply keeps_stoDown
    | (rw [rest_eq]; with_reducible refine keeps_rest ?_ rfl (SameSto.refl _) ⟨rfl, rfl⟩)
    | (rw [rest_eq]; with_reducible refine keeps_rest ?_ rfl ⟨rfl, rfl, rfl, rfl, rfl, rfl⟩ ⟨rfl, rfl⟩)
    | split

theorem keeps_shellFails {b0 d0 : Bool} {s0 : State} {s : State} {cause : Nat} (hs0 : Keeps b0 d0 s0 s) : Keeps b0 d0 s0
    (shellFails s cause) := by
  unfold shellFails
  try dsimp only
  repeat' first
    | with_reducible assumption
    | with_reducible refine keeps_ite ?_ ?_
    | with_reducible apply keeps_huskFault
    | with_reducible apply keeps_shellFaultPath
    | split

theorem keeps_execShellClockFault {b0 d0 : Bool} {s0 : State} {t : Nat} {s : State} (hs0 : Keeps b0 d0 s0 s) {r0 : State} (e :
    execShellClockFault t s = .next r0) : Keeps b0 d0 s0 r0 := by
  unfold execShellClockFault at e
  refine keeps_event hs0 ?_ e
  clear hs0 e r0
  try dsimp only
  repeat' first
    | with_reducible assumption
    | intro _
    | with_reducible apply keeps_shellFails

theorem keeps_execSafetyProcessorLockstepMismatch {b0 d0 : Bool} {s0 : State} {t : Nat} {s : State} (hs0 : Keeps b0 d0 s0 s)
    {r0 : State} (e : execSafetyProcessorLockstepMismatch t s = .next r0) : Keeps b0 d0 s0 r0 := by
  unfold execSafetyProcessorLockstepMismatch at e
  refine keeps_event hs0 ?_ e
  clear hs0 e r0
  try dsimp only
  repeat' first
    | with_reducible assumption
    | intro _
    | with_reducible apply keeps_shellFails

theorem keeps_execMainClockFault {b0 d0 : Bool} {s0 : State} {t : Nat} {s : State} (hs0 : Keeps b0 d0 s0 s) {r0 : State} (e :
    execMainClockFault t s = .next r0) : Keeps b0 d0 s0 r0 := by
  unfold execMainClockFault at e
  refine keeps_event hs0 ?_ e
  clear hs0 e r0
  try dsimp only
  repeat' first
    | with_reducible assumption
    | with_reducible refine keeps_ite ?_ ?_
    | intro _
    | with_reducible apply keeps_huskFault
    | with_reducible apply keeps_safeTrigger
    | split

theorem keeps_execMainSupplyFault {b0 d0 : Bool} {s0 : State} {t : Nat} {s : State} (hs0 : Keeps b0 d0 s0 s) {r0 : State} (e :
    execMainSupplyFault t s = .next r0) : Keeps b0 d0 s0 r0 := by
  unfold execMainSupplyFault at e
  refine keeps_event hs0 ?_ e
  clear hs0 e r0
  try dsimp only
  repeat' first
    | with_reducible assumption
    | with_reducible apply keeps_supplyLost

/-! Machine/Power.lean. -/

theorem keeps_execPowerProfile {b0 d0 : Bool} {s0 : State} {t : Nat} {c : Cmd} {state : BitVec 4} {s : State} (hs0 : Keeps b0
    d0 s0 s) {r0 : State} (e : execPowerProfile t c state s = .next r0) : Keeps b0 d0 s0 r0 := by
  unfold execPowerProfile at e
  refine keeps_host hs0 ?_ e
  clear hs0 e r0
  try dsimp only
  repeat' first
    | with_reducible assumption
    | with_reducible refine keeps_ite ?_ ?_
    | intro _
    | with_reducible apply keeps_done
    | with_reducible apply keeps_startProfile
    | (rw [rest_eq]; with_reducible refine keeps_rest ?_ rfl (SameSto.refl _) ⟨rfl, rfl⟩)
    | split
    | dsimp only

theorem keeps_execPowerUnit {b0 d0 : Bool} {s0 : State} {t : Nat} {c : Cmd} {unit : BitVec 20} {state : BitVec 2} {s : State}
    (hs0 : Keeps b0 d0 s0 s) {r0 : State} (e : execPowerUnit t c unit state s = .next r0) : Keeps b0 d0 s0 r0 := by
  unfold execPowerUnit at e
  refine keeps_host hs0 ?_ e
  clear hs0 e r0
  try dsimp only
  repeat' first
    | with_reducible assumption
    | intro _
    | with_reducible apply keeps_done
    | with_reducible apply keeps_startUnit
    | (rw [rest_eq]; with_reducible refine keeps_rest ?_ rfl (SameSto.refl _) ⟨rfl, rfl⟩)
    | split
    | dsimp only

theorem keeps_execPowerStatus {b0 d0 : Bool} {s0 : State} {t : Nat} {c : Cmd} {window : Word} {offset : DWord} {s : State} (hs0
    : Keeps b0 d0 s0 s) {r0 : State} (e : execPowerStatus t c window offset s = .next r0) : Keeps b0 d0 s0 r0 := by
  unfold execPowerStatus at e
  refine keeps_host hs0 ?_ e
  clear hs0 e r0
  try dsimp only
  repeat' first
    | with_reducible assumption
    | intro _
    | with_reducible apply keeps_writeReply

theorem keeps_thermalWarn {b0 d0 : Bool} {s0 : State} {s : State} (hs0 : Keeps b0 d0 s0 s) : Keeps b0 d0 s0 (thermalWarn s) := by
  unfold thermalWarn
  try dsimp only
  repeat' first
    | with_reducible assumption
    | with_reducible refine keeps_ite ?_ ?_
    | with_reducible apply keeps_raiseEvent
    | (rw [rest_eq]; with_reducible refine keeps_rest ?_ rfl (SameSto.refl _) ⟨rfl, rfl⟩)
    | split
    | dsimp only

theorem keeps_execThermalSet {b0 d0 : Bool} {s0 : State} {t : Nat} {c : Cmd} {threshold : BitVec 16} {s : State} (hs0 : Keeps
    b0 d0 s0 s) {r0 : State} (e : execThermalSet t c threshold s = .next r0) : Keeps b0 d0 s0 r0 := by
  unfold execThermalSet at e
  refine keeps_host hs0 ?_ e
  clear hs0 e r0
  try dsimp only
  repeat' first
    | with_reducible assumption
    | intro _
    | with_reducible apply keeps_done
    | with_reducible apply keeps_thermalWarn
    | (rw [rest_eq]; with_reducible refine keeps_rest ?_ rfl (SameSto.refl _) ⟨rfl, rfl⟩)

theorem keeps_huskTrip {b0 d0 : Bool} {s0 : State} {s : State} {sensor : Nat} {tj : Int} (hs0 : Keeps b0 d0 s0 s) : Keeps b0 d0
    s0 (huskTrip s sensor tj) := by
  unfold huskTrip
  try dsimp only
  repeat' first
    | with_reducible assumption
    | with_reducible apply keeps_huskRequest

theorem keeps_execThermalSample {b0 d0 : Bool} {s0 : State} {t : Nat} {readings : List Int} {s : State} (hs0 : Keeps b0 d0 s0
    s) {r0 : State} (e : execThermalSample t readings s = .next r0) : Keeps b0 d0 s0 r0 := by
  unfold execThermalSample at e
  refine keeps_event hs0 ?_ e
  clear hs0 e r0
  try dsimp only
  repeat' first
    | with_reducible assumption
    | with_reducible refine keeps_ite ?_ ?_
    | intro _
    | with_reducible apply keeps_thermalWarn
    | with_reducible apply keeps_huskTrip
    | with_reducible apply keeps_shellFaultPath
    | with_reducible apply keeps_supplyLost
    | (rw [rest_eq]; with_reducible refine keeps_rest ?_ rfl (SameSto.refl _) ⟨rfl, rfl⟩)
    | split
    | dsimp only

theorem keeps_execUnitDrainEnd {b0 d0 : Bool} {s0 : State} {t : Nat} {unit : Nat} {s : State} (hs0 : Keeps b0 d0 s0 s) {r0 :
    State} (e : execUnitDrainEnd t unit s = .next r0) : Keeps b0 d0 s0 r0 := by
  unfold execUnitDrainEnd at e
  refine keeps_event hs0 ?_ e
  clear hs0 e r0
  try dsimp only
  repeat' first
    | with_reducible assumption
    | intro _
    | with_reducible apply keeps_endDrain
    | (rw [rest_eq]; with_reducible refine keeps_rest ?_ rfl (SameSto.refl _) ⟨rfl, rfl⟩)
    | split

theorem keeps_execPowerTransitionComplete {b0 d0 : Bool} {s0 : State} {t : Nat} {unit : Nat} {s : State} (hs0 : Keeps b0 d0 s0
    s) {r0 : State} (e : execPowerTransitionComplete t unit s = .next r0) : Keeps b0 d0 s0 r0 := by
  unfold execPowerTransitionComplete at e
  refine keeps_event hs0 ?_ e
  clear hs0 e r0
  try dsimp only
  repeat' first
    | with_reducible assumption
    | with_reducible refine keeps_ite ?_ ?_
    | intro _
    | with_reducible apply keeps_enterUnit
    | with_reducible apply keeps_huskPower
    | with_reducible apply keeps_standbySlices
    | with_reducible apply keeps_endProfile
    | with_reducible apply keeps_mainLost
    | (rw [rest_eq]; with_reducible refine keeps_rest ?_ rfl (SameSto.refl _) ⟨rfl, rfl⟩)
    | split
    | dsimp only

theorem keeps_execMainOn {b0 d0 : Bool} {s0 : State} {t : Nat} {value : Word} {s : State} (hs0 : Keeps b0 d0 s0 s) {r0 : State}
    (e : execMainOn t value s = .next r0) : Keeps b0 d0 s0 r0 := by
  unfold execMainOn at e
  refine keeps_event hs0 ?_ e
  clear hs0 e r0
  try dsimp only
  repeat' first
    | with_reducible assumption
    | with_reducible refine keeps_ite ?_ ?_
    | intro _
    | with_reducible apply keeps_i3cSelect
    | with_reducible apply keeps_mainPowerOn
    | (rw [rest_eq]; with_reducible refine keeps_rest ?_ rfl (SameSto.refl _) ⟨rfl, rfl⟩)
    | split
    | dsimp only

/-! Machine/Boot.lean. -/

theorem keeps_shellReset {s0 s : State} {cause : Nat} (h : Keeps false false s0 s) : Keeps false false s0 (shellReset s cause)
    := by
  refine h.trans ⟨rfl, ?_, ?_, fun _ => rfl, fun e => (by cases e), fun e => (by cases e)⟩
  · rintro ⟨_, h2, _⟩
    exact ⟨rfl, h2, reset_memoryOk.2.2⟩
  · intro _ _
    exact ⟨rfl, rfl, rfl, rfl, rfl⟩

theorem keeps_huskBoot {b0 d0 : Bool} {s0 : State} {s : State} (hs0 : Keeps b0 d0 s0 s) : Keeps b0 d0 s0 (huskBoot s) := by
  unfold huskBoot
  try dsimp only
  repeat' first
    | with_reducible assumption
    | with_reducible apply keeps_huskRequest
    | dsimp only

theorem keeps_bootStops {b0 d0 : Bool} {s0 : State} {s : State} (hs0 : Keeps b0 d0 s0 s) : Keeps b0 d0 s0 (bootStops s) := by
  unfold bootStops
  try dsimp only
  repeat' first
    | with_reducible assumption
    | (rw [rest_eq]; with_reducible refine keeps_rest ?_ rfl (SameSto.refl _) ⟨rfl, rfl⟩)

theorem keeps_protStarts {b0 : Bool} {s0 : State} {s : State} {image : Bytes} (hs0 : Keeps b0 false s0 s) : Keeps b0 false s0
    (protStarts s image) := by
  unfold protStarts
  try dsimp only
  repeat' first
    | with_reducible assumption
    | with_reducible apply keeps_writeProt
    | (rw [rest_eq]; with_reducible refine keeps_rest ?_ rfl (SameSto.refl _) ⟨rfl, rfl⟩)

theorem keeps_shellStarts {b0 d0 : Bool} {s0 : State} {s : State} {slot : Bool} (hs0 : Keeps b0 d0 s0 s) : Keeps b0 d0 s0
    (shellStarts s slot) := by
  unfold shellStarts
  try dsimp only
  repeat' first
    | with_reducible assumption
    | with_reducible apply keeps_huskBoot
    | with_reducible apply keeps_raiseFloors
    | (rw [rest_eq]; with_reducible refine keeps_rest ?_ rfl (SameSto.refl _) ⟨rfl, rfl⟩)

theorem keeps_shellPicked {b0 d0 : Bool} {s0 : State} {p : State × Option Bool} (hs : Keeps b0 d0 s0 p.1) :
    Keeps b0 d0 s0 (shellPicked p) := by
  obtain ⟨s, _ | k⟩ := p
  · exact keeps_bootStops hs
  · exact keeps_shellStarts hs

theorem keeps_protPicked {b0 : Bool} {s0 : State} {p : State × Option Bool} (hs : Keeps b0 false s0 p.1) :
    Keeps b0 false s0 (protPicked p) := by
  obtain ⟨s, _ | k⟩ := p
  · exact keeps_bootStops hs
  · exact keeps_shellPicked (keeps_pickSlot (keeps_protStarts hs))

theorem keeps_bootStage3 {b0 : Bool} {s0 : State} {s : State} (hs0 : Keeps b0 false s0 s) : Keeps b0 false s0 (bootStage3 s) := by
  unfold bootStage3
  try dsimp only
  repeat' first
    | with_reducible assumption
    | with_reducible exact Keeps.refl _
    | with_reducible refine keeps_ite ?_ ?_
    | intro _
    | (with_reducible refine keeps_protPicked ?_)
    | (with_reducible apply keeps_pickSlot)
    | (with_reducible refine keeps_pickSlot_eq ?_ (by assumption))
    | (with_reducible apply keeps_foldl)
    | (with_reducible apply keeps_foldl_fst)
    | (rw [rest_eq]; with_reducible refine keeps_rest ?_ rfl (SameSto.refl _) ⟨rfl, rfl⟩)
    | (rw [rest_eq]; with_reducible refine keeps_rest ?_ rfl ⟨rfl, rfl, rfl, rfl, rfl, rfl⟩ ⟨rfl, rfl⟩)
    | (with_reducible apply keeps_foldl_fst2)
    | split
    | (dsimp only)

theorem keeps_shellStart {s0 : State} {s : State} {cause : Nat} (hs0 : Keeps false false s0 s) : Keeps false false s0
    (shellStart s cause) := by
  unfold shellStart
  try dsimp only
  repeat' first
    | with_reducible assumption
    | with_reducible refine keeps_ite ?_ ?_
    | with_reducible apply keeps_shellReset
    | with_reducible apply keeps_bootStops
    | with_reducible apply keeps_bootStage3
    | with_reducible apply keeps_huskPower
    | with_reducible apply keeps_mainPowerOn
    | (rw [rest_eq]; with_reducible refine keeps_rest ?_ rfl (SameSto.refl _) ⟨rfl, rfl⟩)
    | split
    | dsimp only

theorem keeps_execShellPowerUp {s0 : State} {t : Nat} {s : State} (hs0 : Keeps false false s0 s) {r0 : State} (e :
    execShellPowerUp t s = .next r0) : Keeps false false s0 r0 := by
  unfold execShellPowerUp at e
  refine keeps_event hs0 ?_ e
  clear hs0 e r0
  try dsimp only
  repeat' first
    | with_reducible assumption
    | intro _
    | with_reducible apply keeps_shellStart

theorem keeps_execShellPorstNPulse {s0 : State} {t : Nat} {s : State} (hs0 : Keeps false false s0 s) {r0 : State} (e :
    execShellPorstNPulse t s = .next r0) : Keeps false false s0 r0 := by
  unfold execShellPorstNPulse at e
  refine keeps_event hs0 ?_ e
  clear hs0 e r0
  try dsimp only
  repeat' first
    | with_reducible assumption
    | intro _
    | with_reducible apply keeps_shellStart

theorem keeps_execI3cTargetReset {s0 : State} {t : Nat} {s : State} (hs0 : Keeps false false s0 s) {r0 : State} (e :
    execI3cTargetReset t s = .next r0) : Keeps false false s0 r0 := by
  unfold execI3cTargetReset at e
  refine keeps_event hs0 ?_ e
  clear hs0 e r0
  try dsimp only
  repeat' first
    | with_reducible assumption
    | with_reducible refine keeps_ite ?_ ?_
    | intro _
    | with_reducible apply keeps_shellStart
    | (rw [rest_eq]; with_reducible refine keeps_rest ?_ rfl (SameSto.refl _) ⟨rfl, rfl⟩)
    | split

theorem keeps_execMainSupplyValid {b0 d0 : Bool} {s0 : State} {t : Nat} {s : State} (hs0 : Keeps b0 d0 s0 s) {r0 : State} (e :
    execMainSupplyValid t s = .next r0) : Keeps b0 d0 s0 r0 := by
  unfold execMainSupplyValid at e
  refine keeps_event hs0 ?_ e
  clear hs0 e r0
  try dsimp only
  repeat' first
    | with_reducible assumption
    | with_reducible refine keeps_ite ?_ ?_
    | intro _
    | (rw [rest_eq]; with_reducible refine keeps_rest ?_ rfl (SameSto.refl _) ⟨rfl, rfl⟩)
    | split

theorem keeps_execMainSupplyUpTimeout {b0 d0 : Bool} {s0 : State} {t : Nat} {s : State} (hs0 : Keeps b0 d0 s0 s) {r0 : State}
    (e : execMainSupplyUpTimeout t s = .next r0) : Keeps b0 d0 s0 r0 := by
  unfold execMainSupplyUpTimeout at e
  refine keeps_event hs0 ?_ e
  clear hs0 e r0
  try dsimp only
  repeat' first
    | with_reducible assumption
    | with_reducible refine keeps_ite ?_ ?_
    | intro _
    | with_reducible apply keeps_huskFault
    | (rw [rest_eq]; with_reducible refine keeps_rest ?_ rfl (SameSto.refl _) ⟨rfl, rfl⟩)
    | split

theorem keeps_execPowerFailDetect {b0 d0 : Bool} {s0 : State} {t : Nat} {s : State} (hs0 : Keeps b0 d0 s0 s) {r0 : State} (e :
    execPowerFailDetect t s = .next r0) : Keeps b0 d0 s0 r0 := by
  unfold execPowerFailDetect at e
  refine keeps_event hs0 ?_ e
  clear hs0 e r0
  try dsimp only
  repeat' first
    | with_reducible assumption
    | with_reducible refine keeps_ite ?_ ?_
    | intro _
    | with_reducible apply keeps_emit
    | with_reducible apply keeps_mainLost
    | with_reducible apply keeps_shellFaultPath
    | (rw [rest_eq]; with_reducible refine keeps_rest ?_ rfl (SameSto.refl _) ⟨rfl, rfl⟩)
    | split
    | dsimp only

theorem keeps_relock {b0 : Bool} {s0 : State} {s : State} (hs0 : Keeps b0 false s0 s) : Keeps b0 false s0 (relock s) := by
  unfold relock
  try dsimp only
  repeat' first
    | with_reducible assumption
    | with_reducible refine keeps_ite ?_ ?_
    | with_reducible apply keeps_setSelector
    | with_reducible apply keeps_writeProt
    | (rw [rest_eq]; with_reducible refine keeps_rest ?_ rfl (SameSto.refl _) ⟨rfl, rfl⟩)
    | split
    | dsimp only

theorem keeps_swapShell {b0 d0 : Bool} {s0 : State} {s : State} (hs0 : Keeps b0 d0 s0 s) : Keeps b0 d0 s0 (swapShell s) := by
  unfold swapShell
  try dsimp only
  repeat' first
    | with_reducible assumption
    | with_reducible refine keeps_ite ?_ ?_
    | with_reducible apply keeps_setSelector
    | with_reducible apply keeps_huskSwap
    | (rw [rest_eq]; with_reducible refine keeps_rest ?_ rfl (SameSto.refl _) ⟨rfl, rfl⟩)
    | split
    | dsimp only

theorem keeps_resetSources {b0 d0 : Bool} {s0 : State} {s : State} (hs0 : Keeps b0 d0 s0 s) : Keeps b0 d0 s0 (resetSources s)
    := by
  unfold resetSources
  try dsimp only
  repeat' first
    | with_reducible assumption
    | with_reducible refine keeps_ite ?_ ?_
    | intro _
    | (rw [rest_eq]; with_reducible refine keeps_rest ?_ rfl (SameSto.refl _) ⟨rfl, rfl⟩)
    | (rw [rest_eq]; with_reducible refine keeps_restOn ?_ rfl ⟨rfl, rfl, rfl, rfl, rfl, rfl⟩ ?_)
    | (refine ⟨fun o => ?_, fun o => ?_, fun o => ?_⟩ <;> dsimp only at o ⊢ <;> omega)
    | split
    | dsimp only

theorem keeps_pickMain {b0 d0 : Bool} {s0 : State} {s : State} (hs0 : Keeps b0 d0 s0 s) : Keeps b0 d0 s0 (pickMain s).1 := by
  unfold pickMain
  try dsimp only
  repeat' first
    | with_reducible assumption
    | intro _
    | with_reducible apply keeps_pickSlot
    | with_reducible refine keeps_pickSlot_eq ?_ (by assumption)
    | dsimp only
theorem keeps_pickMain_eq {b0 d0 : Bool} {s0 : State} {s : State} (hs0 : Keeps b0 d0 s0 s) {r0 : State} {y0 : Option Bool} (e :
    pickMain s = (r0, y0)) : Keeps b0 d0 s0 r0 := by
  have k := keeps_pickMain (s := s) hs0
  rw [e] at k
  exact k

theorem keeps_mainStays {b0 d0 : Bool} {s0 : State} {s : State} (hs0 : Keeps b0 d0 s0 s) : Keeps b0 d0 s0 (mainStays s) := by
  unfold mainStays
  try dsimp only
  repeat' first
    | with_reducible assumption
    | with_reducible apply keeps_huskFault

theorem keeps_applyRepair {b0 d0 : Bool} {s0 : State} {s : State} {r : Nat × Nat × Nat} (hs0 : Keeps b0 d0 s0 s) : Keeps b0 d0
    s0 (applyRepair s r) := by
  unfold applyRepair
  try dsimp only
  repeat' first
    | with_reducible assumption
    | with_reducible refine keeps_ite ?_ ?_
    | intro _
    | (rw [rest_eq]; with_reducible refine keeps_rest ?_ rfl (SameSto.refl _) ⟨rfl, rfl⟩)
    | split
    | dsimp only

theorem keeps_testSpares {b0 d0 : Bool} {s0 : State} {s : State} (hs0 : Keeps b0 d0 s0 s) : Keeps b0 d0 s0 (testSpares s) := by
  unfold testSpares
  try dsimp only
  repeat' first
    | with_reducible assumption
    | with_reducible refine keeps_ite ?_ ?_
    | intro _
    | with_reducible apply keeps_modFlash
    | (rw [rest_eq]; with_reducible refine keeps_rest ?_ rfl (SameSto.refl _) ⟨rfl, rfl⟩)
    | split
    | dsimp only

theorem keeps_bootUnits {b0 d0 : Bool} {s0 : State} {s : State} (hs0 : Keeps b0 d0 s0 s) : Keeps b0 d0 s0 (bootUnits s) := by
  unfold bootUnits
  try dsimp only
  repeat' first
    | with_reducible assumption
    | with_reducible refine keeps_ite ?_ ?_
    | intro _
    | with_reducible apply keeps_applyRepair
    | with_reducible apply keeps_testSpares
    | with_reducible apply keeps_foldl
    | (rw [rest_eq]; with_reducible refine keeps_rest ?_ rfl (SameSto.refl _) ⟨rfl, rfl⟩)
    | split
    | dsimp only

theorem keeps_mainStarts {b0 d0 : Bool} {s0 : State} {s : State} {slot : Bool} (hs0 : Keeps b0 d0 s0 s) : Keeps b0 d0 s0
    (mainStarts s slot) := by
  unfold mainStarts
  try dsimp only
  repeat' first
    | with_reducible assumption
    | (rw [rest_eq]; with_reducible refine keeps_rest ?_ rfl (SameSto.refl _) ⟨rfl, rfl⟩)
    | (rw [rest_eq]; with_reducible refine keeps_restOn ?_ rfl ⟨rfl, rfl, rfl, rfl, rfl, rfl⟩ ?_)
    | (refine ⟨fun o => ?_, fun o => ?_, fun o => ?_⟩ <;> dsimp only at o ⊢ <;> omega)
    | (rw [rest_eq]; with_reducible refine keeps_rest ?_ rfl ⟨rfl, rfl, rfl, rfl, rfl, rfl⟩ ⟨rfl, rfl⟩)

theorem keeps_mainPicked {b0 d0 : Bool} {s0 : State} {p : State × Option Bool} (hs : Keeps b0 d0 s0 p.1) :
    Keeps b0 d0 s0 (mainPicked p) := by
  obtain ⟨s, _ | k⟩ := p
  · exact keeps_mainStays hs
  · exact keeps_finishRestart (keeps_mainStarts (keeps_bootUnits (keeps_raiseFloors hs)))

theorem keeps_bootMain {b0 : Bool} {s0 : State} {s : State} (hs0 : Keeps b0 false s0 s) : Keeps b0 false s0 (bootMain s) := by
  unfold bootMain
  try dsimp only
  repeat' first
    | with_reducible assumption
    | with_reducible apply keeps_relock
    | with_reducible apply keeps_pickMain
    | with_reducible refine keeps_pickMain_eq ?_ (by assumption)
    | with_reducible refine keeps_mainPicked ?_

theorem keeps_failOutstanding {b0 d0 : Bool} {s0 : State} {s : State} (hs0 : Keeps b0 d0 s0 s) : Keeps b0 d0 s0
    (failOutstanding s) := by
  unfold failOutstanding
  try dsimp only
  repeat' first
    | with_reducible assumption
    | intro _
    | with_reducible apply keeps_done
    | with_reducible apply keeps_foldl
    | (rw [rest_eq]; with_reducible refine keeps_rest ?_ rfl (SameSto.refl _) ⟨rfl, rfl⟩)
    | split

theorem keeps_mainReleased {b0 d0 : Bool} {s0 : State} {s : State} {slot : Bool} (hs0 : Keeps b0 d0 s0 s) : Keeps b0 d0 s0
    (mainReleased s slot) := by
  unfold mainReleased
  try dsimp only
  repeat' first
    | with_reducible assumption
    | intro _
    | (rw [rest_eq]; with_reducible refine keeps_rest ?_ rfl (SameSto.refl _) ⟨rfl, rfl⟩)
    | (rw [rest_eq]; with_reducible refine keeps_rest ?_ rfl ⟨rfl, rfl, rfl, rfl, rfl, rfl⟩ ⟨rfl, rfl⟩)

theorem keeps_restartOver {b0 d0 : Bool} {s0 : State} {s : State} (hs0 : Keeps b0 d0 s0 s) : Keeps b0 d0 s0 (restartOver s) := by
  unfold restartOver
  try dsimp only
  repeat' first
    | with_reducible assumption
    | with_reducible refine keeps_ite ?_ ?_
    | intro _
    | with_reducible apply keeps_finishRestart
    | split

theorem keeps_restartPicked {b0 d0 : Bool} {s0 : State} {p : State × Option Bool} (hs : Keeps b0 d0 s0 p.1) :
    Keeps b0 d0 s0 (restartPicked p) := by
  obtain ⟨s, _ | k⟩ := p
  · exact keeps_mainStays hs
  · exact keeps_restartOver (keeps_mainReleased (keeps_failOutstanding (keeps_resetSources (keeps_raiseFloors hs))))

theorem keeps_restartMain {b0 : Bool} {s0 : State} {s : State} (hs0 : Keeps b0 false s0 s) : Keeps b0 false s0 (restartMain s)
    := by
  unfold restartMain
  try dsimp only
  repeat' first
    | with_reducible assumption
    | with_reducible apply keeps_relock
    | with_reducible apply keeps_swapShell
    | with_reducible apply keeps_pickMain
    | with_reducible refine keeps_pickMain_eq ?_ (by assumption)
    | with_reducible refine keeps_restartPicked ?_

theorem keeps_execMainDomainResetRelease {b0 : Bool} {s0 : State} {t : Nat} {s : State} (hs0 : Keeps b0 false s0 s) {r0 :
    State} (e : execMainDomainResetRelease t s = .next r0) : Keeps b0 false s0 r0 := by
  unfold execMainDomainResetRelease at e
  refine keeps_event hs0 ?_ e
  clear hs0 e r0
  try dsimp only
  repeat' first
    | with_reducible assumption
    | with_reducible refine keeps_ite ?_ ?_
    | intro _
    | with_reducible apply keeps_bootMain
    | with_reducible apply keeps_restartMain
    | (rw [rest_eq]; with_reducible refine keeps_rest ?_ rfl (SameSto.refl _) ⟨rfl, rfl⟩)
    | split
    | dsimp only

theorem keeps_execJtagInstructionLoad {b0 d0 : Bool} {s0 : State} {t : Nat} {instr : BitVec 8} {s : State} (h : Keeps b0 d0 s0
    s) {r : State}
    (e : execJtagInstructionLoad t instr s = .next r) : Keeps b0 d0 s0 r := by
  unfold execJtagInstructionLoad at e
  refine keeps_event h ?_ e
  clear h e r
  intro x h
  split
  · exact h
  · have k := keeps_mainDown (keeps_discardMain h)
    generalize mainDown (discardMain x).2 = y at k
    refine k.trans ⟨rfl, id, ?_, id, fun _ => Onward.refl _, fun _ => rfl⟩
    intro hy hh
    exact ⟨rfl, rfl, rfl, rfl, (hy hh).2.2.2.2⟩

theorem keeps_execJtagTrst {b0 d0 : Bool} {s0 : State} {t : Nat} {s : State} (h : Keeps b0 d0 s0 s) {r : State}
    (e : execJtagTrst t s = .next r) : Keeps b0 d0 s0 r := by
  unfold execJtagTrst at e
  refine keeps_event h ?_ e
  clear h e r
  intro x h
  split
  · exact h
  · refine h.trans ⟨rfl, id, ?_, id, fun _ => Onward.refl _, fun _ => rfl⟩
    intro hy hh
    have hh' : x.safety.stoHeld = true := hh
    refine ⟨?_, ?_, ?_, ?_, (hy hh).2.2.2.2⟩ <;> simp [hh']

theorem keeps_execPerstRelease {b0 d0 : Bool} {s0 : State} {t : Nat} {s : State} (hs0 : Keeps b0 d0 s0 s) {r0 : State} (e :
    execPerstRelease t s = .next r0) : Keeps b0 d0 s0 r0 := by
  unfold execPerstRelease at e
  refine keeps_event hs0 ?_ e
  clear hs0 e r0
  try dsimp only
  repeat' first
    | with_reducible assumption
    | with_reducible refine keeps_ite ?_ ?_
    | intro _
    | (rw [rest_eq]; with_reducible refine keeps_rest ?_ rfl (SameSto.refl _) ⟨rfl, rfl⟩)
    | split

theorem keeps_execVhuskCharged {b0 d0 : Bool} {s0 : State} {t : Nat} {s : State} (hs0 : Keeps b0 d0 s0 s) {r0 : State} (e :
    execVhuskCharged t s = .next r0) : Keeps b0 d0 s0 r0 := by
  unfold execVhuskCharged at e
  refine keeps_event hs0 ?_ e
  clear hs0 e r0
  try dsimp only
  repeat' first
    | with_reducible assumption
    | intro _
    | (rw [rest_eq]; with_reducible refine keeps_rest ?_ rfl (SameSto.refl _) ⟨rfl, rfl⟩)

theorem keeps_execShellMemoryScrub {b0 d0 : Bool} {s0 : State} {t : Nat} {uncorrectable : Bool} {s : State} (hs0 : Keeps b0 d0
    s0 s) {r0 : State} (e : execShellMemoryScrub t uncorrectable s = .next r0) : Keeps b0 d0 s0 r0 := by
  unfold execShellMemoryScrub at e
  refine keeps_event hs0 ?_ e
  clear hs0 e r0
  try dsimp only
  repeat' first
    | with_reducible assumption
    | with_reducible refine keeps_ite ?_ ?_
    | intro _
    | with_reducible apply keeps_huskRequest
    | with_reducible apply keeps_shellFaultPath
    | split

/-! Machine/Clock.lean. -/

theorem keeps_tick {b0 d0 : Bool} {s0 : State} {s : State} (hs0 : Keeps b0 d0 s0 s) : Keeps b0 d0 s0 (tick s) := by
  unfold tick
  try dsimp only
  repeat' first
    | with_reducible assumption
    | with_reducible apply keeps_advance

/-! Machine/HuskOps.lean. -/

theorem keeps_execHuskRecordWrite {b0 d0 : Bool} {s0 : State} {t : Nat} {s : State} (hs0 : Keeps b0 d0 s0 s) {r0 : State} (e :
    execHuskRecordWrite t s = .next r0) : Keeps b0 d0 s0 r0 := by
  unfold execHuskRecordWrite at e
  refine keeps_event hs0 ?_ e
  clear hs0 e r0
  try dsimp only
  repeat' first
    | with_reducible assumption
    | with_reducible refine keeps_ite ?_ ?_
    | intro _
    | with_reducible apply keeps_emit
    | (rw [rest_eq]; with_reducible refine keeps_rest ?_ rfl (SameSto.refl _) ⟨rfl, rfl⟩)
    | split
    | dsimp only

theorem keeps_execHuskMirrorCopy {b0 d0 : Bool} {s0 : State} {t : Nat} {s : State} (hs0 : Keeps b0 d0 s0 s) {r0 : State} (e :
    execHuskMirrorCopy t s = .next r0) : Keeps b0 d0 s0 r0 := by
  unfold execHuskMirrorCopy at e
  refine keeps_event hs0 ?_ e
  clear hs0 e r0
  try dsimp only
  repeat' first
    | with_reducible assumption
    | with_reducible refine keeps_ite ?_ ?_
    | intro _
    | with_reducible apply keeps_modFlash
    | (rw [rest_eq]; with_reducible refine keeps_rest ?_ rfl (SameSto.refl _) ⟨rfl, rfl⟩)
    | split
    | dsimp only

theorem keeps_execHskRdSeqWrite {b0 d0 : Bool} {s0 : State} {t : Nat} {value : Word} {s : State} (hs0 : Keeps b0 d0 s0 s) {r0 :
    State} (e : execHskRdSeqWrite t value s = .next r0) : Keeps b0 d0 s0 r0 := by
  unfold execHskRdSeqWrite at e
  refine keeps_event hs0 ?_ e
  clear hs0 e r0
  try dsimp only
  repeat' first
    | with_reducible assumption
    | intro _
    | with_reducible apply keeps_i3cSelect
    | (rw [rest_eq]; with_reducible refine keeps_rest ?_ rfl (SameSto.refl _) ⟨rfl, rfl⟩)

theorem keeps_execHuskStatus {b0 d0 : Bool} {s0 : State} {t : Nat} {c : Cmd} {s : State} (hs0 : Keeps b0 d0 s0 s) {r0 : State}
    (e : execHuskStatus t c s = .next r0) : Keeps b0 d0 s0 r0 := by
  unfold execHuskStatus at e
  refine keeps_host hs0 ?_ e
  clear hs0 e r0
  try dsimp only
  repeat' first
    | with_reducible assumption
    | intro _
    | with_reducible apply keeps_done

theorem keeps_execHuskRead {b0 d0 : Bool} {s0 : State} {t : Nat} {c : Cmd} {first : Word} {count : BitVec 17} {window : Word}
    {offset : DWord} {s : State} (hs0 : Keeps b0 d0 s0 s) {r0 : State} (e : execHuskRead t c first count window offset s =
        .next r0) : Keeps b0 d0 s0 r0 := by
  unfold execHuskRead at e
  refine keeps_host hs0 ?_ e
  clear hs0 e r0
  try dsimp only
  repeat' first
    | with_reducible assumption
    | intro _
    | with_reducible apply keeps_writeReply

theorem keeps_execProtRead {b0 d0 : Bool} {s0 : State} {t : Nat} {c : Cmd} {window : Word} {offset : DWord} {s : State} (hs0 :
    Keeps b0 d0 s0 s) {r0 : State} (e : execProtRead t c window offset s = .next r0) : Keeps b0 d0 s0 r0 := by
  unfold execProtRead at e
  refine keeps_host hs0 ?_ e
  clear hs0 e r0
  try dsimp only
  repeat' first
    | with_reducible assumption
    | with_reducible refine keeps_ite ?_ ?_
    | intro _
    | with_reducible apply keeps_done
    | with_reducible apply keeps_writeReply
    | split

/-! Machine/Imprint.lean. -/

theorem keeps_execImprintConfig {b0 d0 : Bool} {s0 : State} {t : Nat} {c : Cmd} {sq : BitVec 18} {window : Word} {offset :
    DWord} {entries : BitVec 16} {enable : Bool} {s : State} (hs0 : Keeps b0 d0 s0 s) {r0 : State} (e : execImprintConfig t c
        sq window offset entries enable s = .next r0) : Keeps b0 d0 s0 r0 := by
  unfold execImprintConfig at e
  refine keeps_host hs0 ?_ e
  clear hs0 e r0
  try dsimp only
  repeat' first
    | with_reducible assumption
    | with_reducible refine keeps_ite ?_ ?_
    | intro _
    | with_reducible apply keeps_done
    | with_reducible refine keeps_orFail ?_ ?_
    | (rw [rest_eq]; with_reducible refine keeps_rest ?_ rfl (SameSto.refl _) ⟨rfl, rfl⟩)
    | split
    | dsimp only

theorem keeps_execWeightDigest {b0 d0 : Bool} {s0 : State} {t : Nat} {c : Cmd} {addr : DWord} {s : State} (hs0 : Keeps b0 d0 s0
    s) {r0 : State} (e : execWeightDigest t c addr s = .next r0) : Keeps b0 d0 s0 r0 := by
  unfold execWeightDigest at e
  refine keeps_host hs0 ?_ e
  clear hs0 e r0
  try dsimp only
  repeat' first
    | with_reducible assumption
    | with_reducible refine keeps_ite ?_ ?_
    | intro _
    | with_reducible apply keeps_deferCmd
    | with_reducible apply keeps_done
    | (rw [rest_eq]; with_reducible refine keeps_rest ?_ rfl (SameSto.refl _) ⟨rfl, rfl⟩)
    | split
    | dsimp only

theorem keeps_execImprintCompare {b0 d0 : Bool} {s0 : State} {t : Nat} {c : Cmd} {window : Word} {offsetA : DWord} {offsetB :
    DWord} {s : State} (hs0 : Keeps b0 d0 s0 s) {r0 : State} (e : execImprintCompare t c window offsetA offsetB s = .next r0) :
        Keeps b0 d0 s0 r0 := by
  unfold execImprintCompare at e
  refine keeps_host hs0 ?_ e
  clear hs0 e r0
  try dsimp only
  repeat' first
    | with_reducible assumption
    | intro _
    | with_reducible apply keeps_done
    | with_reducible refine keeps_orFail ?_ ?_

theorem keeps_execSolveStateRead {b0 d0 : Bool} {s0 : State} {t : Nat} {c : Cmd} {engine : BitVec 4} {slot : BitVec 3} {window
    : Word} {offset : DWord} {s : State} (hs0 : Keeps b0 d0 s0 s) {r0 : State} (e : execSolveStateRead t c engine slot window
        offset s = .next r0) : Keeps b0 d0 s0 r0 := by
  unfold execSolveStateRead at e
  refine keeps_host hs0 ?_ e
  clear hs0 e r0
  try dsimp only
  repeat' first
    | with_reducible assumption
    | intro _
    | with_reducible apply keeps_done
    | with_reducible apply keeps_writeReply
    | (rw [rest_eq]; with_reducible refine keeps_rest ?_ rfl (SameSto.refl _) ⟨rfl, rfl⟩)
    | split
    | dsimp only

theorem keeps_writeState {b0 d0 : Bool} {s0 : State} {s : State} {e : Nat} {slot : Nat} {image : Bytes} {b : Bytes} (hs0 :
    Keeps b0 d0 s0 s) : Keeps b0 d0 s0 (writeState s e slot image b) := by
  unfold writeState
  try dsimp only
  repeat' first
    | with_reducible assumption
    | with_reducible refine keeps_ite ?_ ?_
    | intro _
    | with_reducible apply keeps_modEngine
    | with_reducible apply keeps_modSlot
    | (rw [rest_eq]; with_reducible refine keeps_rest ?_ rfl (SameSto.refl _) ⟨rfl, rfl⟩)
    | split

theorem keeps_execSolveStateWrite {b0 d0 : Bool} {s0 : State} {t : Nat} {c : Cmd} {engine : BitVec 4} {slot : BitVec 3} {window
    : Word} {offset : DWord} {s : State} (hs0 : Keeps b0 d0 s0 s) {r0 : State} (e : execSolveStateWrite t c engine slot window
        offset s = .next r0) : Keeps b0 d0 s0 r0 := by
  unfold execSolveStateWrite at e
  refine keeps_host hs0 ?_ e
  clear hs0 e r0
  try dsimp only
  repeat' first
    | with_reducible assumption
    | with_reducible refine keeps_ite ?_ ?_
    | intro _
    | with_reducible apply keeps_writeState
    | with_reducible apply keeps_done
    | with_reducible refine keeps_orFail ?_ ?_
    | (rw [rest_eq]; with_reducible refine keeps_rest ?_ rfl (SameSto.refl _) ⟨rfl, rfl⟩)
    | split

theorem keeps_chargeHash {b0 d0 : Bool} {s0 : State} {s : State} {session : Word} {bytes : Nat} (hs0 : Keeps b0 d0 s0 s) :
    Keeps b0 d0 s0 (chargeHash s session bytes) := by
  unfold chargeHash
  try dsimp only
  repeat' first
    | with_reducible assumption
    | intro _
    | with_reducible apply keeps_charge
    | (rw [rest_eq]; with_reducible refine keeps_rest ?_ rfl (SameSto.refl _) ⟨rfl, rfl⟩)

theorem keeps_writeImprint {b0 d0 : Bool} {s0 : State} {s : State} {x : ImprintJob} (hs0 : Keeps b0 d0 s0 s) : Keeps b0 d0 s0
    (writeImprint s x) := by
  unfold writeImprint
  try dsimp only
  repeat' first
    | with_reducible assumption
    | with_reducible refine keeps_ite ?_ ?_
    | intro _
    | with_reducible apply keeps_putKey
    | (rw [rest_eq]; with_reducible refine keeps_rest ?_ rfl (SameSto.refl _) ⟨rfl, rfl⟩)
    | split
    | dsimp only

theorem keeps_endWeight {b0 d0 : Bool} {s0 : State} {s : State} {c : Cmd} {addr : Nat} (hs0 : Keeps b0 d0 s0 s) : Keeps b0 d0
    s0 (endWeight s c addr) := by
  unfold endWeight
  try dsimp only
  repeat' first
    | with_reducible assumption
    | intro _
    | with_reducible apply keeps_chargeHash
    | with_reducible apply keeps_done
    | (rw [rest_eq]; with_reducible refine keeps_rest ?_ rfl (SameSto.refl _) ⟨rfl, rfl⟩)
    | split
    | dsimp only

theorem keeps_execHashEngineComplete {b0 d0 : Bool} {s0 : State} {t : Nat} {s : State} (hs0 : Keeps b0 d0 s0 s) {r0 : State} (e
    : execHashEngineComplete t s = .next r0) : Keeps b0 d0 s0 r0 := by
  unfold execHashEngineComplete at e
  refine keeps_event hs0 ?_ e
  clear hs0 e r0
  try dsimp only
  repeat' first
    | with_reducible assumption
    | intro _
    | with_reducible apply keeps_chargeHash
    | with_reducible apply keeps_endWeight
    | (rw [rest_eq]; with_reducible refine keeps_rest ?_ rfl (SameSto.refl _) ⟨rfl, rfl⟩)
    | split

theorem keeps_execImprintWrite {b0 d0 : Bool} {s0 : State} {t : Nat} {s : State} (hs0 : Keeps b0 d0 s0 s) {r0 : State} (e :
    execImprintWrite t s = .next r0) : Keeps b0 d0 s0 r0 := by
  unfold execImprintWrite at e
  refine keeps_event hs0 ?_ e
  clear hs0 e r0
  try dsimp only
  repeat' first
    | with_reducible assumption
    | intro _
    | with_reducible apply keeps_chargeHash
    | with_reducible apply keeps_writeImprint
    | with_reducible apply keeps_enqueue
    | (rw [rest_eq]; with_reducible refine keeps_rest ?_ rfl (SameSto.refl _) ⟨rfl, rfl⟩)
    | split
    | dsimp only

/-! Machine/Ingress.lean. -/

theorem keeps_modStream {b0 d0 : Bool} {s0 : State} {s : State} {n : Nat} {f : Stream → Stream} (hs0 : Keeps b0 d0 s0 s) :
    Keeps b0 d0 s0 (modStream s n f) := by
  unfold modStream
  try dsimp only
  repeat' first
    | with_reducible assumption
    | (rw [rest_eq]; with_reducible refine keeps_rest ?_ rfl (SameSto.refl _) ⟨rfl, rfl⟩)

theorem keeps_execIngressConfig {b0 d0 : Bool} {s0 : State} {t : Nat} {c : Cmd} {stream : BitVec 6} {window : Word} {offset :
    DWord} {s : State} (hs0 : Keeps b0 d0 s0 s) {r0 : State} (e : execIngressConfig t c stream window offset s = .next r0) :
        Keeps b0 d0 s0 r0 := by
  unfold execIngressConfig at e
  refine keeps_host hs0 ?_ e
  clear hs0 e r0
  try dsimp only
  repeat' first
    | with_reducible assumption
    | with_reducible refine keeps_ite ?_ ?_
    | intro _
    | with_reducible apply keeps_modStream
    | with_reducible apply keeps_done
    | with_reducible refine keeps_orFail ?_ ?_
    | (rw [rest_eq]; with_reducible refine keeps_rest ?_ rfl (SameSto.refl _) ⟨rfl, rfl⟩)
    | split
    | dsimp only

theorem keeps_streamOutcome {b0 d0 : Bool} {s0 : State} {s : State} {n : Nat} {cause : Nat} (hs0 : Keeps b0 d0 s0 s) : Keeps b0
    d0 s0 (streamOutcome s n cause) := by
  unfold streamOutcome
  try dsimp only
  repeat' first
    | with_reducible assumption
    | with_reducible refine keeps_ite ?_ ?_
    | intro _
    | with_reducible apply keeps_modStream
    | with_reducible apply keeps_huskRequest
    | (rw [rest_eq]; with_reducible refine keeps_rest ?_ rfl (SameSto.refl _) ⟨rfl, rfl⟩)
    | (rw [rest_eq]; with_reducible refine keeps_rest ?_ rfl ⟨rfl, rfl, rfl, rfl, rfl, rfl⟩ ⟨rfl, rfl⟩)
    | split
    | dsimp only

theorem keeps_storeFrame {b0 d0 : Bool} {s0 : State} {s : State} {n : Nat} {header : Bytes} {payload : Bytes} {outcome : Nat}
    (hs0 : Keeps b0 d0 s0 s) : Keeps b0 d0 s0 (storeFrame s n header payload outcome) := by
  unfold storeFrame
  try dsimp only
  repeat' first
    | with_reducible assumption
    | intro _
    | with_reducible apply keeps_portWrite
    | with_reducible apply keeps_modStream
    | (rw [rest_eq]; with_reducible refine keeps_rest ?_ rfl (SameSto.refl _) ⟨rfl, rfl⟩)
    | dsimp only

theorem keeps_copyFrame {b0 d0 : Bool} {s0 : State} {s : State} {n : Nat} {payload : Bytes} {capture : Int} (hs0 : Keeps b0 d0
    s0 s) : Keeps b0 d0 s0 (copyFrame s n payload capture) := by
  unfold copyFrame
  try dsimp only
  repeat' first
    | with_reducible assumption
    | with_reducible refine keeps_ite ?_ ?_
    | intro _
    | with_reducible apply keeps_modStream
    | with_reducible apply keeps_streamOutcome
    | (rw [rest_eq]; with_reducible refine keeps_rest ?_ rfl (SameSto.refl _) ⟨rfl, rfl⟩)
    | split
    | dsimp only

theorem keeps_takeSealed {b0 d0 : Bool} {s0 : State} {s : State} {n : Nat} {b : Bytes} {payload : Bytes} (hs0 : Keeps b0 d0 s0
    s) : Keeps b0 d0 s0 (takeSealed s n b payload) := by
  unfold takeSealed
  try dsimp only
  repeat' first
    | with_reducible assumption
    | with_reducible refine keeps_ite ?_ ?_
    | intro _
    | with_reducible apply keeps_modStream
    | with_reducible apply keeps_streamOutcome
    | with_reducible apply keeps_storeFrame
    | with_reducible apply keeps_copyFrame
    | (rw [rest_eq]; with_reducible refine keeps_rest ?_ rfl (SameSto.refl _) ⟨rfl, rfl⟩)
    | split
    | dsimp only

theorem keeps_takeFrame {b0 d0 : Bool} {s0 : State} {s : State} {n : Nat} {lead : Option Bytes} {payload : Bytes} (hs0 : Keeps
    b0 d0 s0 s) : Keeps b0 d0 s0 (takeFrame s n lead payload) := by
  unfold takeFrame
  try dsimp only
  repeat' first
    | with_reducible assumption
    | with_reducible refine keeps_ite ?_ ?_
    | intro _
    | with_reducible apply keeps_modStream
    | with_reducible apply keeps_streamOutcome
    | with_reducible apply keeps_storeFrame
    | with_reducible apply keeps_takeSealed
    | (rw [rest_eq]; with_reducible refine keeps_rest ?_ rfl (SameSto.refl _) ⟨rfl, rfl⟩)
    | split
    | dsimp only

theorem keeps_execCsi2FrameEnd {b0 d0 : Bool} {s0 : State} {t : Nat} {port : Nat} {vc : Nat} {packets : List (Nat × Bytes)} {s
    : State} (hs0 : Keeps b0 d0 s0 s) {r0 : State} (e : execCsi2FrameEnd t port vc packets s = .next r0) : Keeps b0 d0 s0 r0 := by
  unfold execCsi2FrameEnd at e
  refine keeps_event hs0 ?_ e
  clear hs0 e r0
  try dsimp only
  repeat' first
    | with_reducible assumption
    | with_reducible refine keeps_ite ?_ ?_
    | intro _
    | with_reducible apply keeps_takeFrame
    | with_reducible apply keeps_foldl
    | with_reducible apply keeps_foldl_fst
    | split
    | dsimp only

theorem keeps_breakFrame {b0 d0 : Bool} {s0 : State} {s : State} {n : Nat} {low : Nat} (hs0 : Keeps b0 d0 s0 s) : Keeps b0 d0
    s0 (breakFrame s n low) := by
  unfold breakFrame
  try dsimp only
  repeat' first
    | with_reducible assumption
    | intro _
    | with_reducible apply keeps_modStream
    | with_reducible apply keeps_streamOutcome
    | (rw [rest_eq]; with_reducible refine keeps_rest ?_ rfl (SameSto.refl _) ⟨rfl, rfl⟩)

theorem keeps_endFrame {b0 d0 : Bool} {s0 : State} {s : State} {n : Nat} {data : Bytes} (hs0 : Keeps b0 d0 s0 s) : Keeps b0 d0
    s0 (endFrame s n data) := by
  unfold endFrame
  try dsimp only
  repeat' first
    | with_reducible assumption
    | with_reducible refine keeps_ite ?_ ?_
    | intro _
    | with_reducible apply keeps_modStream
    | with_reducible apply keeps_takeFrame
    | (rw [rest_eq]; with_reducible refine keeps_rest ?_ rfl (SameSto.refl _) ⟨rfl, rfl⟩)
    | split
    | dsimp only

theorem keeps_beginFrame {b0 d0 : Bool} {s0 : State} {s : State} {n : Nat} {low : Nat} {last : Bool} {data : Bytes} (hs0 :
    Keeps b0 d0 s0 s) : Keeps b0 d0 s0 (beginFrame s n low last data) := by
  unfold beginFrame
  try dsimp only
  repeat' first
    | with_reducible assumption
    | with_reducible refine keeps_ite ?_ ?_
    | intro _
    | with_reducible apply keeps_modStream
    | with_reducible apply keeps_endFrame
    | (rw [rest_eq]; with_reducible refine keeps_rest ?_ rfl (SameSto.refl _) ⟨rfl, rfl⟩)
    | split

theorem keeps_takeFragment {b0 d0 : Bool} {s0 : State} {s : State} {n : Nat} {low : Nat} {index : Nat} {last : Bool} {data :
    Bytes} (hs0 : Keeps b0 d0 s0 s) : Keeps b0 d0 s0 (takeFragment s n low index last data) := by
  unfold takeFragment
  try dsimp only
  repeat' first
    | with_reducible assumption
    | with_reducible refine keeps_ite ?_ ?_
    | intro _
    | with_reducible apply keeps_modStream
    | with_reducible apply keeps_breakFrame
    | with_reducible apply keeps_endFrame
    | with_reducible apply keeps_beginFrame
    | (rw [rest_eq]; with_reducible refine keeps_rest ?_ rfl (SameSto.refl _) ⟨rfl, rfl⟩)
    | split

theorem keeps_execEthFragment {b0 d0 : Bool} {s0 : State} {t : Nat} {mac : Nat} {udp : BitVec 16} {data : Bytes} {s : State}
    (hs0 : Keeps b0 d0 s0 s) {r0 : State} (e : execEthFragment t mac udp data s = .next r0) : Keeps b0 d0 s0 r0 := by
  unfold execEthFragment at e
  refine keeps_event hs0 ?_ e
  clear hs0 e r0
  try dsimp only
  repeat' first
    | with_reducible assumption
    | with_reducible refine keeps_ite ?_ ?_
    | intro _
    | with_reducible apply keeps_takeFragment
    | split
    | dsimp only

theorem keeps_modMac {b0 d0 : Bool} {s0 : State} {s : State} {m : Nat} {f : Mac → Mac} (hs0 : Keeps b0 d0 s0 s) : Keeps b0 d0
    s0 (modMac s m f) := by
  unfold modMac
  try dsimp only
  repeat' first
    | with_reducible assumption
    | (rw [rest_eq]; with_reducible refine keeps_rest ?_ rfl (SameSto.refl _) ⟨rfl, rfl⟩)

theorem keeps_execGptpMessageRx {b0 d0 : Bool} {s0 : State} {t : Nat} {mac : Nat} {time : Nat} {synced : Bool} {s : State} (hs0
    : Keeps b0 d0 s0 s) {r0 : State} (e : execGptpMessageRx t mac time synced s = .next r0) : Keeps b0 d0 s0 r0 := by
  unfold execGptpMessageRx at e
  refine keeps_event hs0 ?_ e
  clear hs0 e r0
  try dsimp only
  repeat' first
    | with_reducible assumption
    | with_reducible refine keeps_ite ?_ ?_
    | intro _
    | with_reducible apply keeps_modMac
    | with_reducible apply keeps_modSourcesOn
    | (rw [rest_eq]; with_reducible refine keeps_rest ?_ rfl (SameSto.refl _) ⟨rfl, rfl⟩)
    | split
    | dsimp only

theorem keeps_execGateControlIntervalEnd {b0 d0 : Bool} {s0 : State} {t : Nat} {mac : Nat} {s : State} (hs0 : Keeps b0 d0 s0 s)
    {r0 : State} (e : execGateControlIntervalEnd t mac s = .next r0) : Keeps b0 d0 s0 r0 := by
  unfold execGateControlIntervalEnd at e
  refine keeps_event hs0 ?_ e
  clear hs0 e r0
  try dsimp only
  repeat' first
    | with_reducible assumption
    | with_reducible refine keeps_ite ?_ ?_
    | intro _
    | with_reducible apply keeps_modMac
    | (rw [rest_eq]; with_reducible refine keeps_rest ?_ rfl (SameSto.refl _) ⟨rfl, rfl⟩)
    | split
    | dsimp only

end Sys2Proof.Laws
end

