-- ==== Sys2Proof/Laws/Keeps7.lean ====
section
/-!
SUPPORT. Laws/Keeps7.lean: every operation of Machine/Servo.lean, Machine/Interfaces.lean, Machine/Peer.lean,
Machine/Plate.lean, Machine/Sessions.lean, Machine/SyncExchange.lean, Machine/Update.lean keeps what Laws/Keeps.lean says.
-/
namespace Sys2Proof.Laws

open Sys2Proof.Machine

/-! Machine/Servo.lean. -/

theorem keeps_execServoNetConfig {b0 d0 : Bool} {s0 : State} {t : Nat} {c : Cmd} {tCyc : Word} {txShift : Word} {rxBound :
    Word} {missLimit : BitVec 4} {s : State} (hs0 : Keeps b0 d0 s0 s) {r0 : State} (e : execServoNetConfig t c tCyc txShift
        rxBound missLimit s = .next r0) : Keeps b0 d0 s0 r0 := by
  unfold execServoNetConfig at e
  refine keeps_host hs0 ?_ e
  clear hs0 e r0
  try dsimp only
  repeat' first
    | with_reducible assumption
    | intro _
    | with_reducible apply keeps_netCommand

theorem keeps_execServoChannelConfig {b0 d0 : Bool} {s0 : State} {t : Nat} {c : Cmd} {channel : BitVec 7} {pair : BitVec 2}
    {cfgWindow : Word} {cfgOffset : DWord} {blkWindow : Word} {blkOffset : DWord} {s : State} (hs0 : Keeps b0 d0 s0 s) {r0 :
        State} (e : execServoChannelConfig t c channel pair cfgWindow cfgOffset blkWindow blkOffset s = .next r0) : Keeps b0 d0
            s0 r0 := by
  unfold execServoChannelConfig at e
  refine keeps_host hs0 ?_ e
  clear hs0 e r0
  try dsimp only
  repeat' first
    | with_reducible assumption
    | intro _
    | with_reducible apply keeps_done
    | with_reducible apply keeps_channelCommand
    | (rw [rest_eq]; with_reducible refine keeps_rest ?_ rfl (SameSto.refl _) ⟨rfl, rfl⟩)
    | split

theorem keeps_execServoEnable {b0 d0 : Bool} {s0 : State} {t : Nat} {c : Cmd} {channel : BitVec 7} {s : State} (hs0 : Keeps b0
    d0 s0 s) {r0 : State} (e : execServoEnable t c channel s = .next r0) : Keeps b0 d0 s0 r0 := by
  unfold execServoEnable at e
  refine keeps_host hs0 ?_ e
  clear hs0 e r0
  try dsimp only
  repeat' first
    | with_reducible assumption
    | intro _
    | with_reducible apply keeps_channelCommand

theorem keeps_execServoDisable {b0 d0 : Bool} {s0 : State} {t : Nat} {c : Cmd} {channel : BitVec 7} {s : State} (hs0 : Keeps b0
    d0 s0 s) {r0 : State} (e : execServoDisable t c channel s = .next r0) : Keeps b0 d0 s0 r0 := by
  unfold execServoDisable at e
  refine keeps_host hs0 ?_ e
  clear hs0 e r0
  try dsimp only
  repeat' first
    | with_reducible assumption
    | intro _
    | with_reducible apply keeps_channelCommand

theorem keeps_execServoClearFault {b0 d0 : Bool} {s0 : State} {t : Nat} {c : Cmd} {channel : BitVec 7} {s : State} (hs0 : Keeps
    b0 d0 s0 s) {r0 : State} (e : execServoClearFault t c channel s = .next r0) : Keeps b0 d0 s0 r0 := by
  unfold execServoClearFault at e
  refine keeps_host hs0 ?_ e
  clear hs0 e r0
  try dsimp only
  repeat' first
    | with_reducible assumption
    | intro _
    | with_reducible apply keeps_channelCommand

theorem keeps_execServoStatus {b0 d0 : Bool} {s0 : State} {t : Nat} {c : Cmd} {channel : BitVec 7} {s : State} (hs0 : Keeps b0
    d0 s0 s) {r0 : State} (e : execServoStatus t c channel s = .next r0) : Keeps b0 d0 s0 r0 := by
  unfold execServoStatus at e
  refine keeps_host hs0 ?_ e
  clear hs0 e r0
  try dsimp only
  repeat' first
    | with_reducible assumption
    | intro _
    | with_reducible apply keeps_channelCommand

theorem keeps_encoderSync {b0 d0 : Bool} {s0 : State} {s : State} {n : Nat} (hs0 : Keeps b0 d0 s0 s) : Keeps b0 d0 s0
    (encoderSync s n) := by
  unfold encoderSync
  try dsimp only
  repeat' first
    | with_reducible assumption
    | with_reducible refine keeps_ite ?_ ?_
    | intro _
    | with_reducible apply keeps_emit
    | with_reducible apply keeps_modEncoder
    | (rw [rest_eq]; with_reducible refine keeps_rest ?_ rfl (SameSto.refl _) ⟨rfl, rfl⟩)
    | split
    | dsimp only

theorem keeps_execMotionCycleSync0 {b0 d0 : Bool} {s0 : State} {t : Nat} {s : State} (hs0 : Keeps b0 d0 s0 s) {r0 : State} (e :
    execMotionCycleSync0 t s = .next r0) : Keeps b0 d0 s0 r0 := by
  unfold execMotionCycleSync0 at e
  refine keeps_event hs0 ?_ e
  clear hs0 e r0
  try dsimp only
  repeat' first
    | with_reducible assumption
    | with_reducible refine keeps_ite ?_ ?_
    | intro _
    | with_reducible apply keeps_modSourcesOn
    | with_reducible apply keeps_encoderSync
    | with_reducible apply keeps_modNet
    | with_reducible apply keeps_foldl
    | (rw [rest_eq]; with_reducible refine keeps_rest ?_ rfl (SameSto.refl _) ⟨rfl, rfl⟩)
    | split
    | dsimp only

theorem keeps_execMnetFrameTransmit {b0 d0 : Bool} {s0 : State} {t : Nat} {s : State} (hs0 : Keeps b0 d0 s0 s) {r0 : State} (e
    : execMnetFrameTransmit t s = .next r0) : Keeps b0 d0 s0 r0 := by
  unfold execMnetFrameTransmit at e
  refine keeps_event hs0 ?_ e
  clear hs0 e r0
  try dsimp only
  repeat' first
    | with_reducible assumption
    | with_reducible refine keeps_ite ?_ ?_
    | intro _
    | with_reducible apply keeps_emit
    | with_reducible apply keeps_modNet
    | (rw [rest_eq]; with_reducible refine keeps_rest ?_ rfl (SameSto.refl _) ⟨rfl, rfl⟩)
    | split
    | dsimp only

theorem keeps_execMnetFrameReturn {b0 d0 : Bool} {s0 : State} {t : Nat} {input : Bytes} {workingCounter : BitVec 16} {lineBreak
    : Bool} {badFcs : Bool} {s : State} (hs0 : Keeps b0 d0 s0 s) {r0 : State} (e : execMnetFrameReturn t input workingCounter
        lineBreak badFcs s = .next r0) : Keeps b0 d0 s0 r0 := by
  unfold execMnetFrameReturn at e
  refine keeps_event hs0 ?_ e
  clear hs0 e r0
  try dsimp only
  repeat' first
    | with_reducible assumption
    | with_reducible refine keeps_ite ?_ ?_
    | intro _
    | with_reducible apply keeps_mapChannels
    | with_reducible apply keeps_modNet
    | (rw [rest_eq]; with_reducible refine keeps_rest ?_ rfl (SameSto.refl _) ⟨rfl, rfl⟩)
    | split
    | dsimp only

theorem keeps_execMnetRxBoundExpiry {b0 d0 : Bool} {s0 : State} {t : Nat} {s : State} (hs0 : Keeps b0 d0 s0 s) {r0 : State} (e
    : execMnetRxBoundExpiry t s = .next r0) : Keeps b0 d0 s0 r0 := by
  unfold execMnetRxBoundExpiry at e
  refine keeps_event hs0 ?_ e
  clear hs0 e r0
  try dsimp only
  repeat' first
    | with_reducible assumption
    | with_reducible refine keeps_ite ?_ ?_
    | intro _
    | with_reducible apply keeps_modNet
    | (rw [rest_eq]; with_reducible refine keeps_rest ?_ rfl (SameSto.refl _) ⟨rfl, rfl⟩)
    | split
    | dsimp only

theorem keeps_execMissLimitReached {b0 d0 : Bool} {s0 : State} {t : Nat} {s : State} (hs0 : Keeps b0 d0 s0 s) {r0 : State} (e :
    execMissLimitReached t s = .next r0) : Keeps b0 d0 s0 r0 := by
  unfold execMissLimitReached at e
  refine keeps_event hs0 ?_ e
  clear hs0 e r0
  try dsimp only
  repeat' first
    | with_reducible assumption
    | with_reducible refine keeps_ite ?_ ?_
    | intro _
    | with_reducible apply keeps_huskRequest
    | with_reducible apply keeps_mapChannels
    | with_reducible apply keeps_modNet
    | (rw [rest_eq]; with_reducible refine keeps_rest ?_ rfl (SameSto.refl _) ⟨rfl, rfl⟩)
    | split
    | dsimp only

theorem keeps_commitCycle {b0 d0 : Bool} {s0 : State} {s : State} (hs0 : Keeps b0 d0 s0 s) : Keeps b0 d0 s0 (commitCycle s) := by
  unfold commitCycle
  try dsimp only
  repeat' first
    | with_reducible assumption
    | intro _
    | with_reducible apply keeps_commitDue
    | dsimp only

theorem keeps_execServoSample {b0 d0 : Bool} {s0 : State} {t : Nat} {channel : Nat} {s : State} (hs0 : Keeps b0 d0 s0 s) {r0 :
    State} (e : execServoSample t channel s = .next r0) : Keeps b0 d0 s0 r0 := by
  unfold execServoSample at e
  refine keeps_event hs0 ?_ e
  clear hs0 e r0
  try dsimp only
  repeat' first
    | with_reducible assumption
    | with_reducible refine keeps_ite ?_ ?_
    | intro _
    | with_reducible apply keeps_stoAtRest
    | with_reducible apply keeps_commitCycle
    | with_reducible apply keeps_modNet
    | with_reducible apply keeps_channelFault
    | with_reducible apply keeps_performFault
    | with_reducible apply keeps_flushReqs
    | with_reducible apply keeps_modChannel
    | (rw [rest_eq]; with_reducible refine keeps_rest ?_ rfl (SameSto.refl _) ⟨rfl, rfl⟩)
    | split
    | dsimp only

theorem keeps_faultEvent {b0 d0 : Bool} {s0 s : State} {t n : Nat} {k : ChanFault} (h : Keeps b0 d0 s0 s) {r : State}
    (e : faultEvent t n k s = .next r) : Keeps b0 d0 s0 r := by
  unfold faultEvent at e
  refine keeps_event h ?_ e
  clear h e r
  intro x h
  exact keeps_ite (keeps_performFault h) h
theorem keeps_execFollowingErrorFault {b0 d0 : Bool} {s0 s : State} {t channel : Nat} (h : Keeps b0 d0 s0 s) {r : State}
    (e : execFollowingErrorFault t channel s = .next r) : Keeps b0 d0 s0 r := keeps_faultEvent h e

theorem keeps_execEnablingTimeout {b0 d0 : Bool} {s0 s : State} {t channel : Nat} (h : Keeps b0 d0 s0 s) {r : State}
    (e : execEnablingTimeout t channel s = .next r) : Keeps b0 d0 s0 r := keeps_faultEvent h e

theorem keeps_execXcheckFault {b0 d0 : Bool} {s0 s : State} {t channel : Nat} (h : Keeps b0 d0 s0 s) {r : State}
    (e : execXcheckFault t channel s = .next r) : Keeps b0 d0 s0 r := keeps_faultEvent h e

theorem keeps_discardPair {b0 d0 : Bool} {s0 : State} {s : State} {p : Nat} (hs0 : Keeps b0 d0 s0 s) : Keeps b0 d0 s0
    (discardPair s p) := by
  unfold discardPair
  try dsimp only
  repeat' first
    | with_reducible assumption
    | with_reducible refine keeps_ite ?_ ?_
    | intro _
    | with_reducible apply keeps_modNet
    | with_reducible apply keeps_modChannel
    | with_reducible apply keeps_foldl
    | with_reducible apply keeps_foldl_fst
    | (rw [rest_eq]; with_reducible refine keeps_rest ?_ rfl (SameSto.refl _) ⟨rfl, rfl⟩)
    | split
    | dsimp only

theorem keeps_endPairDrain {b0 d0 : Bool} {s0 : State} {s : State} {st : Status} (hs0 : Keeps b0 d0 s0 s) : Keeps b0 d0 s0
    (endPairDrain s st) := by
  unfold endPairDrain
  try dsimp only
  repeat' first
    | with_reducible assumption
    | with_reducible apply keeps_finishDrain
    | with_reducible apply keeps_nextDrains
    | (rw [rest_eq]; with_reducible refine keeps_rest ?_ rfl (SameSto.refl _) ⟨rfl, rfl⟩)
    | split

theorem keeps_execPairLockstepMismatch {b0 d0 : Bool} {s0 : State} {t : Nat} {pair : Nat} {s : State} (hs0 : Keeps b0 d0 s0 s)
    {r0 : State} (e : execPairLockstepMismatch t pair s = .next r0) : Keeps b0 d0 s0 r0 := by
  unfold execPairLockstepMismatch at e
  refine keeps_event hs0 ?_ e
  clear hs0 e r0
  try dsimp only
  repeat' first
    | with_reducible assumption
    | with_reducible refine keeps_ite ?_ ?_
    | intro _
    | with_reducible apply keeps_huskFault
    | with_reducible apply keeps_discardPair
    | with_reducible apply keeps_endPairDrain
    | with_reducible apply keeps_modPair
    | with_reducible refine keeps_moveAll ?_ (by assumption)
    | with_reducible apply keeps_orphan
    | with_reducible apply keeps_foldl
    | (rw [rest_eq]; with_reducible refine keeps_rest ?_ rfl (SameSto.refl _) ⟨rfl, rfl⟩)
    | split
    | dsimp only

theorem keeps_execChannelMove {b0 d0 : Bool} {s0 : State} {t : Nat} {channel : Nat} {pair : Nat} {s : State} (hs0 : Keeps b0 d0
    s0 s) {r0 : State} (e : execChannelMove t channel pair s = .next r0) : Keeps b0 d0 s0 r0 := by
  unfold execChannelMove at e
  refine keeps_event hs0 ?_ e
  clear hs0 e r0
  try dsimp only
  repeat' first
    | with_reducible assumption
    | with_reducible refine keeps_ite ?_ ?_
    | intro _
    | with_reducible apply keeps_endPairDrain
    | with_reducible apply keeps_moveChannel
    | (rw [rest_eq]; with_reducible refine keeps_rest ?_ rfl (SameSto.refl _) ⟨rfl, rfl⟩)
    | split
    | dsimp only

theorem keeps_execPairSelftestEnd {b0 d0 : Bool} {s0 : State} {t : Nat} {pair : Nat} {failed : Bool} {s : State} (hs0 : Keeps
    b0 d0 s0 s) {r0 : State} (e : execPairSelftestEnd t pair failed s = .next r0) : Keeps b0 d0 s0 r0 := by
  unfold execPairSelftestEnd at e
  refine keeps_event hs0 ?_ e
  clear hs0 e r0
  try dsimp only
  repeat' first
    | with_reducible assumption
    | with_reducible refine keeps_ite ?_ ?_
    | intro _
    | with_reducible apply keeps_huskFault
    | with_reducible apply keeps_modPair
    | (rw [rest_eq]; with_reducible refine keeps_rest ?_ rfl (SameSto.refl _) ⟨rfl, rfl⟩)
    | split

theorem keeps_execSafetyConnectionFault {b0 d0 : Bool} {s0 : State} {t : Nat} {connection : Nat} {s : State} (hs0 : Keeps b0 d0
    s0 s) {r0 : State} (e : execSafetyConnectionFault t connection s = .next r0) : Keeps b0 d0 s0 r0 := by
  unfold execSafetyConnectionFault at e
  refine keeps_event hs0 ?_ e
  clear hs0 e r0
  try dsimp only
  repeat' first
    | with_reducible assumption
    | with_reducible refine keeps_ite ?_ ?_
    | intro _
    | with_reducible apply keeps_huskRequest
    | with_reducible apply keeps_mapChannels
    | (rw [rest_eq]; with_reducible refine keeps_rest ?_ rfl (SameSto.refl _) ⟨rfl, rfl⟩)
    | split
    | dsimp only

/-! Machine/Interfaces.lean. -/

theorem keeps_execIfStatus {b0 d0 : Bool} {s0 : State} {t : Nat} {c : Cmd} {selector : Word} {window : Word} {offset : DWord}
    {s : State} (hs0 : Keeps b0 d0 s0 s) {r0 : State} (e : execIfStatus t c selector window offset s = .next r0) : Keeps b0 d0
        s0 r0 := by
  unfold execIfStatus at e
  refine keeps_host hs0 ?_ e
  clear hs0 e r0
  try dsimp only
  repeat' first
    | with_reducible assumption
    | intro _
    | with_reducible apply keeps_writeReply
    | dsimp only

theorem keeps_execEncConfig {b0 d0 : Bool} {s0 : State} {t : Nat} {c : Cmd} {input : BitVec 4} {mode : BitVec 2} {rate : BitVec
    2} {posBits : BitVec 6} {triggerLog2 : BitVec 2} {s : State} (hs0 : Keeps b0 d0 s0 s) {r0 : State} (e : execEncConfig t c
        input mode rate posBits triggerLog2 s = .next r0) : Keeps b0 d0 s0 r0 := by
  unfold execEncConfig at e
  refine keeps_host hs0 ?_ e
  clear hs0 e r0
  try dsimp only
  repeat' first
    | with_reducible assumption
    | with_reducible refine keeps_ite ?_ ?_
    | intro _
    | with_reducible apply keeps_done
    | with_reducible apply keeps_modEncoder
    | (rw [rest_eq]; with_reducible refine keeps_rest ?_ rfl (SameSto.refl _) ⟨rfl, rfl⟩)
    | split

theorem keeps_startNet {b0 d0 : Bool} {s0 : State} {s : State} {b : Bytes} (hs0 : Keeps b0 d0 s0 s) : Keeps b0 d0 s0 (startNet
    s b) := by
  unfold startNet
  try dsimp only
  repeat' first
    | with_reducible assumption
    | with_reducible refine keeps_ite ?_ ?_
    | intro _
    | with_reducible apply keeps_flushReqs
    | with_reducible apply keeps_foldl
    | (rw [rest_eq]; with_reducible refine keeps_rest ?_ rfl (SameSto.refl _) ⟨rfl, rfl⟩)
    | split
    | dsimp only

theorem keeps_execMnetConfig {b0 d0 : Bool} {s0 : State} {t : Nat} {c : Cmd} {window : Word} {offset : DWord} {length : Word}
    {found : List (Word × Word)} {s : State} (hs0 : Keeps b0 d0 s0 s) {r0 : State} (e : execMnetConfig t c window offset length
        found s = .next r0) : Keeps b0 d0 s0 r0 := by
  unfold execMnetConfig at e
  refine keeps_host hs0 ?_ e
  clear hs0 e r0
  try dsimp only
  repeat' first
    | with_reducible assumption
    | with_reducible refine keeps_ite ?_ ?_
    | intro _
    | with_reducible apply keeps_startNet
    | with_reducible apply keeps_done
    | with_reducible refine keeps_orFail ?_ ?_
    | split

/-! Machine/Peer.lean. -/

theorem keeps_execPeerStatus {b0 d0 : Bool} {s0 : State} {t : Nat} {c : Cmd} {s : State} (hs0 : Keeps b0 d0 s0 s) {r0 : State}
    (e : execPeerStatus t c s = .next r0) : Keeps b0 d0 s0 r0 := by
  unfold execPeerStatus at e
  refine keeps_host hs0 ?_ e
  clear hs0 e r0
  try dsimp only
  repeat' first
    | with_reducible assumption
    | with_reducible refine keeps_ite ?_ ?_
    | intro _
    | with_reducible apply keeps_done
    | with_reducible apply keeps_foldl
    | split
    | dsimp only

theorem keeps_execPeerWindowOpen {b0 d0 : Bool} {s0 : State} {t : Nat} {c : Cmd} {window : Word} {offset : DWord} {length :
    DWord} {devices : BitVec 4} {writable : Bool} {readable : Bool} {s : State} (hs0 : Keeps b0 d0 s0 s) {r0 : State} (e :
        execPeerWindowOpen t c window offset length devices writable readable s = .next r0) : Keeps b0 d0 s0 r0 := by
  unfold execPeerWindowOpen at e
  refine keeps_host hs0 ?_ e
  clear hs0 e r0
  try dsimp only
  repeat' first
    | with_reducible assumption
    | with_reducible refine keeps_ite ?_ ?_
    | intro _
    | with_reducible apply keeps_takeFree
    | with_reducible apply keeps_done
    | with_reducible refine keeps_orFail ?_ ?_
    | with_reducible apply keeps_modPeer
    | (rw [rest_eq]; with_reducible refine keeps_rest ?_ rfl (SameSto.refl _) ⟨rfl, rfl⟩)
    | split
    | dsimp only

theorem keeps_execPeerWindowClose {b0 d0 : Bool} {s0 : State} {t : Nat} {c : Cmd} {window : BitVec 16} {s : State} (hs0 : Keeps
    b0 d0 s0 s) {r0 : State} (e : execPeerWindowClose t c window s = .next r0) : Keeps b0 d0 s0 r0 := by
  unfold execPeerWindowClose at e
  refine keeps_host hs0 ?_ e
  clear hs0 e r0
  try dsimp only
  repeat' first
    | with_reducible assumption
    | with_reducible refine keeps_ite ?_ ?_
    | intro _
    | with_reducible apply keeps_done
    | with_reducible apply keeps_closePeerWindows
    | (rw [rest_eq]; with_reducible refine keeps_rest ?_ rfl (SameSto.refl _) ⟨rfl, rfl⟩)
    | split
    | dsimp only

theorem keeps_execPeerWrite {b0 d0 : Bool} {s0 : State} {t : Nat} {c : Cmd} {device : BitVec 2} {peerWindow : BitVec 16}
    {remoteOffset : DWord} {window : Word} {localOffset : DWord} {length : DWord} {s : State} (hs0 : Keeps b0 d0 s0 s) {r0 :
        State} (e : execPeerWrite t c device peerWindow remoteOffset window localOffset length s = .next r0) : Keeps b0 d0 s0
            r0 := by
  unfold execPeerWrite at e
  refine keeps_host hs0 ?_ e
  clear hs0 e r0
  try dsimp only
  repeat' first
    | with_reducible assumption
    | intro _
    | with_reducible apply keeps_startPeer

theorem keeps_execPeerRead {b0 d0 : Bool} {s0 : State} {t : Nat} {c : Cmd} {device : BitVec 2} {peerWindow : BitVec 16}
    {remoteOffset : DWord} {window : Word} {localOffset : DWord} {length : DWord} {s : State} (hs0 : Keeps b0 d0 s0 s) {r0 :
        State} (e : execPeerRead t c device peerWindow remoteOffset window localOffset length s = .next r0) : Keeps b0 d0 s0 r0
            := by
  unfold execPeerRead at e
  refine keeps_host hs0 ?_ e
  clear hs0 e r0
  try dsimp only
  repeat' first
    | with_reducible assumption
    | intro _
    | with_reducible apply keeps_startPeer

theorem keeps_execPeerWriteRx {b0 d0 : Bool} {s0 : State} {t : Nat} {port : Nat} {header : List Word} {payload : Bytes} {s :
    State} (hs0 : Keeps b0 d0 s0 s) {r0 : State} (e : execPeerWriteRx t port header payload s = .next r0) : Keeps b0 d0 s0 r0
        := by
  unfold execPeerWriteRx at e
  refine keeps_event hs0 ?_ e
  clear hs0 e r0
  try dsimp only
  repeat' first
    | with_reducible assumption
    | with_reducible refine keeps_ite ?_ ?_
    | intro _
    | with_reducible apply keeps_noteDiscard
    | with_reducible apply keeps_putKey
    | with_reducible apply keeps_sendMessage
    | with_reducible refine keeps_receive ?_ ?_
    | with_reducible apply keeps_keepStatus
    | (rw [rest_eq]; with_reducible refine keeps_rest ?_ rfl (SameSto.refl _) ⟨rfl, rfl⟩)
    | split
    | dsimp only

theorem keeps_execPeerAckRx {b0 d0 : Bool} {s0 : State} {t : Nat} {port : Nat} {header : List Word} {s : State} (hs0 : Keeps b0
    d0 s0 s) {r0 : State} (e : execPeerAckRx t port header s = .next r0) : Keeps b0 d0 s0 r0 := by
  unfold execPeerAckRx at e
  refine keeps_event hs0 ?_ e
  clear hs0 e r0
  try dsimp only
  repeat' first
    | with_reducible assumption
    | intro _
    | with_reducible refine keeps_receive ?_ ?_
    | with_reducible apply keeps_answered
    | (rw [rest_eq]; with_reducible refine keeps_rest ?_ rfl (SameSto.refl _) ⟨rfl, rfl⟩)
    | split
    | dsimp only

theorem keeps_execPeerReadReqRx {b0 d0 : Bool} {s0 : State} {t : Nat} {port : Nat} {header : List Word} {payload : Bytes} {s :
    State} (hs0 : Keeps b0 d0 s0 s) {r0 : State} (e : execPeerReadReqRx t port header payload s = .next r0) : Keeps b0 d0 s0 r0
        := by
  unfold execPeerReadReqRx at e
  refine keeps_event hs0 ?_ e
  clear hs0 e r0
  try dsimp only
  repeat' first
    | with_reducible assumption
    | with_reducible refine keeps_ite ?_ ?_
    | intro _
    | with_reducible apply keeps_takeFree
    | with_reducible apply keeps_sendMessage
    | with_reducible refine keeps_receive ?_ ?_
    | with_reducible apply keeps_keepStatus
    | (rw [rest_eq]; with_reducible refine keeps_rest ?_ rfl (SameSto.refl _) ⟨rfl, rfl⟩)
    | split
    | dsimp only

theorem keeps_execPeerReadDataRx {b0 d0 : Bool} {s0 : State} {t : Nat} {port : Nat} {header : List Word} {payload : Bytes} {s :
    State} (hs0 : Keeps b0 d0 s0 s) {r0 : State} (e : execPeerReadDataRx t port header payload s = .next r0) : Keeps b0 d0 s0
        r0 := by
  unfold execPeerReadDataRx at e
  refine keeps_event hs0 ?_ e
  clear hs0 e r0
  try dsimp only
  repeat' first
    | with_reducible assumption
    | with_reducible refine keeps_ite ?_ ?_
    | intro _
    | with_reducible apply keeps_noteDiscard
    | with_reducible apply keeps_putKey
    | with_reducible refine keeps_receive ?_ ?_
    | with_reducible apply keeps_answered
    | (rw [rest_eq]; with_reducible refine keeps_rest ?_ rfl (SameSto.refl _) ⟨rfl, rfl⟩)
    | split
    | dsimp only

theorem keeps_execPeerHelloRx {b0 d0 : Bool} {s0 : State} {t : Nat} {port : Nat} {header : List Word} {s : State} (hs0 : Keeps
    b0 d0 s0 s) {r0 : State} (e : execPeerHelloRx t port header s = .next r0) : Keeps b0 d0 s0 r0 := by
  unfold execPeerHelloRx at e
  refine keeps_event hs0 ?_ e
  clear hs0 e r0
  try dsimp only
  repeat' first
    | with_reducible assumption
    | intro _
    | with_reducible refine keeps_receive ?_ ?_

theorem keeps_execPeerEventRx {b0 d0 : Bool} {s0 : State} {t : Nat} {port : Nat} {header : List Word} {payload : Bytes} {s :
    State} (hs0 : Keeps b0 d0 s0 s) {r0 : State} (e : execPeerEventRx t port header payload s = .next r0) : Keeps b0 d0 s0 r0
        := by
  unfold execPeerEventRx at e
  refine keeps_event hs0 ?_ e
  clear hs0 e r0
  try dsimp only
  repeat' first
    | with_reducible assumption
    | intro _
    | with_reducible refine keeps_receive ?_ ?_

theorem keeps_execPeerMessageForward {b0 d0 : Bool} {s0 : State} {t : Nat} {port : Nat} {header : List Word} {payload : Bytes}
    {depart : Nat} {s : State} (hs0 : Keeps b0 d0 s0 s) {r0 : State} (e : execPeerMessageForward t port header payload depart s
        = .next r0) : Keeps b0 d0 s0 r0 := by
  unfold execPeerMessageForward at e
  refine keeps_event hs0 ?_ e
  clear hs0 e r0
  try dsimp only
  repeat' first
    | with_reducible assumption
    | with_reducible refine keeps_ite ?_ ?_
    | intro _
    | with_reducible apply keeps_sendAt
    | with_reducible refine keeps_receive ?_ ?_
    | split
    | dsimp only

theorem keeps_execPeerHelloTimer {b0 d0 : Bool} {s0 : State} {t : Nat} {port : Nat} {s : State} (hs0 : Keeps b0 d0 s0 s) {r0 :
    State} (e : execPeerHelloTimer t port s = .next r0) : Keeps b0 d0 s0 r0 := by
  unfold execPeerHelloTimer at e
  refine keeps_event hs0 ?_ e
  clear hs0 e r0
  try dsimp only
  repeat' first
    | with_reducible assumption
    | with_reducible refine keeps_ite ?_ ?_
    | intro _
    | with_reducible apply keeps_sendAt
    | with_reducible apply keeps_nextHeader
    | with_reducible refine keeps_nextHeader_eq ?_ (by assumption)
    | split
    | dsimp only

theorem keeps_execPeerConnectionTimeout {b0 d0 : Bool} {s0 : State} {t : Nat} {port : Nat} {s : State} (hs0 : Keeps b0 d0 s0 s)
    {r0 : State} (e : execPeerConnectionTimeout t port s = .next r0) : Keeps b0 d0 s0 r0 := by
  unfold execPeerConnectionTimeout at e
  refine keeps_event hs0 ?_ e
  clear hs0 e r0
  try dsimp only
  repeat' first
    | with_reducible assumption
    | with_reducible refine keeps_ite ?_ ?_
    | intro _
    | with_reducible apply keeps_modPeer
    | with_reducible apply keeps_modPort
    | with_reducible apply keeps_setRole
    | (rw [rest_eq]; with_reducible refine keeps_rest ?_ rfl (SameSto.refl _) ⟨rfl, rfl⟩)
    | split
    | dsimp only

theorem keeps_execPeerFlitReplay {b0 d0 : Bool} {s0 : State} {t : Nat} {port : Nat} {s : State} (hs0 : Keeps b0 d0 s0 s) {r0 :
    State} (e : execPeerFlitReplay t port s = .next r0) : Keeps b0 d0 s0 r0 := by
  unfold execPeerFlitReplay at e
  refine keeps_event hs0 ?_ e
  clear hs0 e r0
  try dsimp only
  repeat' first
    | with_reducible assumption
    | intro _
    | with_reducible apply keeps_modPort
    | (rw [rest_eq]; with_reducible refine keeps_rest ?_ rfl (SameSto.refl _) ⟨rfl, rfl⟩)

theorem keeps_unreachable {b0 d0 : Bool} {s0 : State} {s : State} {m : PeerMessage} (hs0 : Keeps b0 d0 s0 s) : Keeps b0 d0 s0
    (unreachable s m) := by
  unfold unreachable
  try dsimp only
  repeat' first
    | with_reducible assumption
    | with_reducible refine keeps_ite ?_ ?_
    | intro _
    | with_reducible apply keeps_done
    | with_reducible apply keeps_huskFault
    | with_reducible apply keeps_modPeer
    | with_reducible apply keeps_modPort
    | with_reducible apply keeps_dropPeerTransfer
    | (rw [rest_eq]; with_reducible refine keeps_rest ?_ rfl (SameSto.refl _) ⟨rfl, rfl⟩)
    | split
    | dsimp only

theorem keeps_execPeerResendTimeout {b0 d0 : Bool} {s0 : State} {t : Nat} {device : Nat} {seq : Word} {s : State} (hs0 : Keeps
    b0 d0 s0 s) {r0 : State} (e : execPeerResendTimeout t device seq s = .next r0) : Keeps b0 d0 s0 r0 := by
  unfold execPeerResendTimeout at e
  refine keeps_event hs0 ?_ e
  clear hs0 e r0
  try dsimp only
  repeat' first
    | with_reducible assumption
    | with_reducible refine keeps_ite ?_ ?_
    | intro _
    | with_reducible apply keeps_unreachable
    | with_reducible apply keeps_modPeer
    | with_reducible apply keeps_modPort
    | with_reducible apply keeps_sendAt
    | (rw [rest_eq]; with_reducible refine keeps_rest ?_ rfl (SameSto.refl _) ⟨rfl, rfl⟩)
    | split
    | dsimp only

/-! Machine/Plate.lean. -/

theorem keeps_execPlateLoad {b0 d0 : Bool} {s0 : State} {t : Nat} {c : Cmd} {window : Word} {offset : DWord} {length : Word} {s
    : State} (hs0 : Keeps b0 d0 s0 s) {r0 : State} (e : execPlateLoad t c window offset length s = .next r0) : Keeps b0 d0 s0
        r0 := by
  unfold execPlateLoad at e
  refine keeps_host hs0 ?_ e
  clear hs0 e r0
  try dsimp only
  repeat' first
    | with_reducible assumption
    | with_reducible refine keeps_ite ?_ ?_
    | intro _
    | with_reducible apply keeps_takeFree
    | with_reducible apply keeps_done
    | with_reducible refine keeps_orFail ?_ ?_
    | (rw [rest_eq]; with_reducible refine keeps_rest ?_ rfl (SameSto.refl _) ⟨rfl, rfl⟩)
    | split
    | dsimp only

theorem keeps_execPlateUnload {b0 d0 : Bool} {s0 : State} {t : Nat} {c : Cmd} {handle : DWord} {s : State} (hs0 : Keeps b0 d0
    s0 s) {r0 : State} (e : execPlateUnload t c handle s = .next r0) : Keeps b0 d0 s0 r0 := by
  unfold execPlateUnload at e
  refine keeps_host hs0 ?_ e
  clear hs0 e r0
  try dsimp only
  repeat' first
    | with_reducible assumption
    | with_reducible refine keeps_ite ?_ ?_
    | intro _
    | with_reducible apply keeps_done
    | (rw [rest_eq]; with_reducible refine keeps_rest ?_ rfl (SameSto.refl _) ⟨rfl, rfl⟩)
    | split
    | dsimp only

theorem keeps_applySources {b0 d0 : Bool} {s0 : State} {s : State} {b : Bytes} (hs0 : Keeps b0 d0 s0 s) : Keeps b0 d0 s0
    (applySources s b) := by
  unfold applySources
  try dsimp only
  repeat' first
    | with_reducible assumption
    | with_reducible refine keeps_ite ?_ ?_
    | intro _
    | with_reducible apply keeps_applyBlock
    | with_reducible apply keeps_foldl
    | split

theorem keeps_execPlateStart {b0 d0 : Bool} {s0 : State} {t : Nat} {c : Cmd} {handle : DWord} {s : State} (hs0 : Keeps b0 d0 s0
    s) {r0 : State} (e : execPlateStart t c handle s = .next r0) : Keeps b0 d0 s0 r0 := by
  unfold execPlateStart at e
  refine keeps_host hs0 ?_ e
  clear hs0 e r0
  try dsimp only
  repeat' first
    | with_reducible assumption
    | with_reducible refine keeps_ite ?_ ?_
    | intro _
    | with_reducible apply keeps_swapCommit
    | with_reducible apply keeps_done
    | with_reducible apply keeps_applySources
    | (rw [rest_eq]; with_reducible refine keeps_rest ?_ rfl (SameSto.refl _) ⟨rfl, rfl⟩)
    | split
    | dsimp only

theorem keeps_execPlateStatus {b0 d0 : Bool} {s0 : State} {t : Nat} {c : Cmd} {s : State} (hs0 : Keeps b0 d0 s0 s) {r0 : State}
    (e : execPlateStatus t c s = .next r0) : Keeps b0 d0 s0 r0 := by
  unfold execPlateStatus at e
  refine keeps_host hs0 ?_ e
  clear hs0 e r0
  try dsimp only
  repeat' first
    | with_reducible assumption
    | intro _
    | with_reducible apply keeps_done

theorem keeps_execSqMigrate {b0 d0 : Bool} {s0 : State} {t : Nat} {c : Cmd} {sq : BitVec 18} {part : BitVec 4} {s : State} (hs0
    : Keeps b0 d0 s0 s) {r0 : State} (e : execSqMigrate t c sq part s = .next r0) : Keeps b0 d0 s0 r0 := by
  unfold execSqMigrate at e
  refine keeps_host hs0 ?_ e
  clear hs0 e r0
  try dsimp only
  repeat' first
    | with_reducible assumption
    | with_reducible refine keeps_ite ?_ ?_
    | intro _
    | with_reducible apply keeps_done
    | with_reducible apply keeps_moveQueue
    | (rw [rest_eq]; with_reducible refine keeps_rest ?_ rfl (SameSto.refl _) ⟨rfl, rfl⟩)
    | split
    | dsimp only

theorem keeps_delaySlot {b0 d0 : Bool} {s0 : State} {s : State} {w : List Word} (hs0 : Keeps b0 d0 s0 s) : Keeps b0 d0 s0
    (delaySlot s w) := by
  unfold delaySlot
  try dsimp only
  repeat' first
    | with_reducible assumption
    | with_reducible refine keeps_ite ?_ ?_
    | intro _
    | with_reducible apply keeps_huskFault
    | with_reducible apply keeps_modPart
    | (rw [rest_eq]; with_reducible refine keeps_rest ?_ rfl (SameSto.refl _) ⟨rfl, rfl⟩)
    | split
    | dsimp only

theorem keeps_execSlotStart {b0 d0 : Bool} {s0 : State} {t : Nat} {slot : Nat} {s : State} (hs0 : Keeps b0 d0 s0 s) {r0 :
    State} (e : execSlotStart t slot s = .next r0) : Keeps b0 d0 s0 r0 := by
  unfold execSlotStart at e
  refine keeps_event hs0 ?_ e
  clear hs0 e r0
  try dsimp only
  repeat' first
    | with_reducible assumption
    | with_reducible refine keeps_ite ?_ ?_
    | intro _
    | with_reducible apply keeps_delaySlot
    | with_reducible apply keeps_modPart
    | with_reducible apply keeps_actionSlot
    | (rw [rest_eq]; with_reducible refine keeps_rest ?_ rfl (SameSto.refl _) ⟨rfl, rfl⟩)
    | split
    | dsimp only

theorem keeps_execSlotEnd {b0 d0 : Bool} {s0 : State} {t : Nat} {slot : Nat} {s : State} (hs0 : Keeps b0 d0 s0 s) {r0 : State}
    (e : execSlotEnd t slot s = .next r0) : Keeps b0 d0 s0 r0 := by
  unfold execSlotEnd at e
  refine keeps_event hs0 ?_ e
  clear hs0 e r0
  try dsimp only
  repeat' first
    | with_reducible assumption
    | with_reducible refine keeps_ite ?_ ?_
    | intro _
    | with_reducible apply keeps_modPart
    | with_reducible apply keeps_abandonCheck
    | (rw [rest_eq]; with_reducible refine keeps_rest ?_ rfl (SameSto.refl _) ⟨rfl, rfl⟩)
    | split
    | dsimp only

theorem keeps_modTest {b0 d0 : Bool} {s0 : State} {s : State} {cls : Nat} {unit : Nat} {f : UnitTest → UnitTest} (hs0 : Keeps
    b0 d0 s0 s) : Keeps b0 d0 s0 (modTest s cls unit f) := by
  unfold modTest
  try dsimp only
  repeat' first
    | with_reducible assumption
    | (rw [rest_eq]; with_reducible refine keeps_rest ?_ rfl (SameSto.refl _) ⟨rfl, rfl⟩)
    | split

theorem keeps_execSelftestStatus {b0 d0 : Bool} {s0 : State} {t : Nat} {c : Cmd} {cls : BitVec 2} {unit : BitVec 5} {s : State}
    (hs0 : Keeps b0 d0 s0 s) {r0 : State} (e : execSelftestStatus t c cls unit s = .next r0) : Keeps b0 d0 s0 r0 := by
  unfold execSelftestStatus at e
  refine keeps_host hs0 ?_ e
  clear hs0 e r0
  try dsimp only
  repeat' first
    | with_reducible assumption
    | intro _
    | with_reducible apply keeps_done
    | dsimp only

theorem keeps_execSelftestQuantumStart {b0 d0 : Bool} {s0 : State} {t : Nat} {cls : Nat} {unit : Nat} {s : State} (hs0 : Keeps
    b0 d0 s0 s) {r0 : State} (e : execSelftestQuantumStart t cls unit s = .next r0) : Keeps b0 d0 s0 r0 := by
  unfold execSelftestQuantumStart at e
  refine keeps_event hs0 ?_ e
  clear hs0 e r0
  try dsimp only
  repeat' first
    | with_reducible assumption
    | with_reducible refine keeps_ite ?_ ?_
    | intro _
    | with_reducible apply keeps_modTest
    | (rw [rest_eq]; with_reducible refine keeps_rest ?_ rfl (SameSto.refl _) ⟨rfl, rfl⟩)
    | split
    | dsimp only

theorem keeps_huskSelftest {b0 d0 : Bool} {s0 : State} {s : State} {source : Nat} {cls : Nat} {unit : Nat} {code : Nat} (hs0 :
    Keeps b0 d0 s0 s) : Keeps b0 d0 s0 (huskSelftest s source cls unit code) := by
  unfold huskSelftest
  try dsimp only
  repeat' first
    | with_reducible assumption
    | with_reducible apply keeps_huskRequest

theorem keeps_quantumFailed {b0 d0 : Bool} {s0 : State} {s : State} {cls : Nat} {unit : Nat} (hs0 : Keeps b0 d0 s0 s) : Keeps
    b0 d0 s0 (quantumFailed s cls unit) := by
  unfold quantumFailed
  try dsimp only
  repeat' first
    | with_reducible assumption
    | with_reducible apply keeps_fenceSlice
    | with_reducible apply keeps_faultSector
    | with_reducible apply keeps_huskSelftest
    | with_reducible apply keeps_engineFaulted
    | (rw [rest_eq]; with_reducible refine keeps_rest ?_ rfl (SameSto.refl _) ⟨rfl, rfl⟩)
    | split

theorem keeps_execSelftestQuantumEnd {b0 d0 : Bool} {s0 : State} {t : Nat} {cls : Nat} {unit : Nat} {failed : Bool} {s : State}
    (hs0 : Keeps b0 d0 s0 s) {r0 : State} (e : execSelftestQuantumEnd t cls unit failed s = .next r0) : Keeps b0 d0 s0 r0 := by
  unfold execSelftestQuantumEnd at e
  refine keeps_event hs0 ?_ e
  clear hs0 e r0
  try dsimp only
  repeat' first
    | with_reducible assumption
    | with_reducible refine keeps_ite ?_ ?_
    | intro _
    | with_reducible apply keeps_modTest
    | with_reducible apply keeps_quantumFailed
    | (rw [rest_eq]; with_reducible refine keeps_rest ?_ rfl (SameSto.refl _) ⟨rfl, rfl⟩)
    | split
    | dsimp only

theorem keeps_overdueReaction {b0 d0 : Bool} {s0 : State} {s : State} {hard : Bool} (hs0 : Keeps b0 d0 s0 s) : Keeps b0 d0 s0
    (overdueReaction s hard) := by
  unfold overdueReaction
  try dsimp only
  repeat' first
    | with_reducible assumption
    | with_reducible refine keeps_ite ?_ ?_
    | with_reducible apply keeps_allStop
    | with_reducible apply keeps_stoLater
    | with_reducible apply keeps_safeTrigger
    | (rw [rest_eq]; with_reducible refine keeps_rest ?_ rfl (SameSto.refl _) ⟨rfl, rfl⟩)
    | split

theorem keeps_freshInterval {b0 d0 : Bool} {s0 : State} {s : State} (hs0 : Keeps b0 d0 s0 s) : Keeps b0 d0 s0 (freshInterval s)
    := by
  unfold freshInterval
  try dsimp only
  repeat' first
    | with_reducible assumption
    | intro _
    | (rw [rest_eq]; with_reducible refine keeps_rest ?_ rfl (SameSto.refl _) ⟨rfl, rfl⟩)
    | (rw [rest_eq]; with_reducible refine keeps_rest ?_ rfl ⟨rfl, rfl, rfl, rfl, rfl, rfl⟩ ⟨rfl, rfl⟩)
    | dsimp only

theorem keeps_execDiagnosticIntervalEnd {b0 d0 : Bool} {s0 : State} {t : Nat} {s : State} (hs0 : Keeps b0 d0 s0 s) {r0 : State}
    (e : execDiagnosticIntervalEnd t s = .next r0) : Keeps b0 d0 s0 r0 := by
  unfold execDiagnosticIntervalEnd at e
  refine keeps_event hs0 ?_ e
  clear hs0 e r0
  try dsimp only
  repeat' first
    | with_reducible assumption
    | with_reducible refine keeps_ite ?_ ?_
    | intro _
    | with_reducible apply keeps_modTest
    | with_reducible apply keeps_huskSelftest
    | with_reducible apply keeps_overdueReaction
    | with_reducible apply keeps_freshInterval
    | with_reducible apply keeps_foldl
    | with_reducible apply keeps_foldl_fst
    | (rw [rest_eq]; with_reducible refine keeps_rest ?_ rfl (SameSto.refl _) ⟨rfl, rfl⟩)
    | split
    | dsimp only

/-! Machine/Sessions.lean. -/

theorem keeps_execIdentify {b0 d0 : Bool} {s0 : State} {t : Nat} {c : Cmd} {selector : Word} {s : State} (hs0 : Keeps b0 d0 s0
    s) {r0 : State} (e : execIdentify t c selector s = .next r0) : Keeps b0 d0 s0 r0 := by
  unfold execIdentify at e
  refine keeps_host hs0 ?_ e
  clear hs0 e r0
  try dsimp only
  repeat' first
    | with_reducible assumption
    | intro _
    | with_reducible apply keeps_done

theorem keeps_execGetHealth {b0 d0 : Bool} {s0 : State} {t : Nat} {c : Cmd} {s : State} (hs0 : Keeps b0 d0 s0 s) {r0 : State}
    (e : execGetHealth t c s = .next r0) : Keeps b0 d0 s0 r0 := by
  unfold execGetHealth at e
  refine keeps_host hs0 ?_ e
  clear hs0 e r0
  try dsimp only
  repeat' first
    | with_reducible assumption
    | intro _
    | with_reducible apply keeps_done
    | dsimp only

theorem keeps_execAsyncEventRequest {b0 d0 : Bool} {s0 : State} {t : Nat} {c : Cmd} {session : Word} {s : State} (hs0 : Keeps
    b0 d0 s0 s) {r0 : State} (e : execAsyncEventRequest t c session s = .next r0) : Keeps b0 d0 s0 r0 := by
  unfold execAsyncEventRequest at e
  refine keeps_host hs0 ?_ e
  clear hs0 e r0
  try dsimp only
  repeat' first
    | with_reducible assumption
    | with_reducible refine keeps_ite ?_ ?_
    | intro _
    | with_reducible apply keeps_modSession
    | with_reducible apply keeps_finish
    | with_reducible apply keeps_done
    | (rw [rest_eq]; with_reducible refine keeps_rest ?_ rfl (SameSto.refl _) ⟨rfl, rfl⟩)
    | split
    | dsimp only

theorem keeps_execOpenSession {b0 d0 : Bool} {s0 : State} {t : Nat} {c : Cmd} {share : BitVec 16} {maxSq : BitVec 16} {maxCq :
    BitVec 16} {quota : DWord} {s : State} (hs0 : Keeps b0 d0 s0 s) {r0 : State} (e : execOpenSession t c share maxSq maxCq
        quota s = .next r0) : Keeps b0 d0 s0 r0 := by
  unfold execOpenSession at e
  refine keeps_host hs0 ?_ e
  clear hs0 e r0
  try dsimp only
  repeat' first
    | with_reducible assumption
    | with_reducible refine keeps_ite ?_ ?_
    | intro _
    | with_reducible apply keeps_takeFree
    | with_reducible apply keeps_done
    | (rw [rest_eq]; with_reducible refine keeps_rest ?_ rfl (SameSto.refl _) ⟨rfl, rfl⟩)
    | split
    | dsimp only

theorem keeps_execSetShare {b0 d0 : Bool} {s0 : State} {t : Nat} {c : Cmd} {session : Word} {share : BitVec 16} {s : State}
    (hs0 : Keeps b0 d0 s0 s) {r0 : State} (e : execSetShare t c session share s = .next r0) : Keeps b0 d0 s0 r0 := by
  unfold execSetShare at e
  refine keeps_host hs0 ?_ e
  clear hs0 e r0
  try dsimp only
  repeat' first
    | with_reducible assumption
    | with_reducible refine keeps_ite ?_ ?_
    | intro _
    | with_reducible apply keeps_modSession
    | with_reducible apply keeps_done
    | (rw [rest_eq]; with_reducible refine keeps_rest ?_ rfl (SameSto.refl _) ⟨rfl, rfl⟩)
    | split

theorem keeps_execGetCounters {b0 d0 : Bool} {s0 : State} {t : Nat} {c : Cmd} {session : Word} {window : Word} {offset : DWord}
    {s : State} (hs0 : Keeps b0 d0 s0 s) {r0 : State} (e : execGetCounters t c session window offset s = .next r0) : Keeps b0
        d0 s0 r0 := by
  unfold execGetCounters at e
  refine keeps_host hs0 ?_ e
  clear hs0 e r0
  try dsimp only
  repeat' first
    | with_reducible assumption
    | with_reducible refine keeps_ite ?_ ?_
    | intro _
    | with_reducible apply keeps_done
    | with_reducible apply keeps_writeReply
    | (rw [rest_eq]; with_reducible refine keeps_rest ?_ rfl (SameSto.refl _) ⟨rfl, rfl⟩)
    | split

theorem keeps_execCreateCq {b0 d0 : Bool} {s0 : State} {t : Nat} {c : Cmd} {session : Word} {ring : DWord} {depth : BitVec 17}
    {inDevice : Bool} {vector : BitVec 11} {coalCount : BitVec 8} {coalTime : BitVec 10} {s : State} (hs0 : Keeps b0 d0 s0 s)
        {r0 : State} (e : execCreateCq t c session ring depth inDevice vector coalCount coalTime s = .next r0) : Keeps b0 d0 s0
            r0 := by
  unfold execCreateCq at e
  refine keeps_host hs0 ?_ e
  clear hs0 e r0
  try dsimp only
  repeat' first
    | with_reducible assumption
    | intro _
    | with_reducible apply keeps_takeFree
    | with_reducible apply keeps_done
    | with_reducible refine keeps_orFail ?_ ?_
    | (rw [rest_eq]; with_reducible refine keeps_rest ?_ rfl (SameSto.refl _) ⟨rfl, rfl⟩)
    | dsimp only

theorem keeps_execDeleteCq {b0 d0 : Bool} {s0 : State} {t : Nat} {c : Cmd} {cq : BitVec 16} {s : State} (hs0 : Keeps b0 d0 s0
    s) {r0 : State} (e : execDeleteCq t c cq s = .next r0) : Keeps b0 d0 s0 r0 := by
  unfold execDeleteCq at e
  refine keeps_host hs0 ?_ e
  clear hs0 e r0
  try dsimp only
  repeat' first
    | with_reducible assumption
    | with_reducible refine keeps_ite ?_ ?_
    | intro _
    | with_reducible apply keeps_done
    | (rw [rest_eq]; with_reducible refine keeps_rest ?_ rfl (SameSto.refl _) ⟨rfl, rfl⟩)
    | split

theorem keeps_execCreateSq {b0 d0 : Bool} {s0 : State} {t : Nat} {c : Cmd} {session : Word} {ring : DWord} {depth : BitVec 17}
    {anyId : Bool} {inDevice : Bool} {cq : BitVec 16} {wanted : BitVec 18} {part : BitVec 8} {cls : BitVec 2} {s : State} (hs0
        : Keeps b0 d0 s0 s) {r0 : State} (e : execCreateSq t c session ring depth anyId inDevice cq wanted part cls s = .next
            r0) : Keeps b0 d0 s0 r0 := by
  unfold execCreateSq at e
  refine keeps_host hs0 ?_ e
  clear hs0 e r0
  try dsimp only
  repeat' first
    | with_reducible assumption
    | intro _
    | with_reducible apply keeps_takeFree
    | with_reducible apply keeps_done
    | with_reducible refine keeps_orFail ?_ ?_
    | (rw [rest_eq]; with_reducible refine keeps_rest ?_ rfl (SameSto.refl _) ⟨rfl, rfl⟩)
    | dsimp only

/-! Machine/SyncExchange.lean. -/

theorem keeps_execSyncExchangeTimer {b0 d0 : Bool} {s0 : State} {t : Nat} {s : State} (hs0 : Keeps b0 d0 s0 s) {r0 : State} (e
    : execSyncExchangeTimer t s = .next r0) : Keeps b0 d0 s0 r0 := by
  unfold execSyncExchangeTimer at e
  refine keeps_event hs0 ?_ e
  clear hs0 e r0
  try dsimp only
  repeat' first
    | with_reducible assumption
    | with_reducible refine keeps_ite ?_ ?_
    | intro _
    | with_reducible apply keeps_sendMessage
    | (rw [rest_eq]; with_reducible refine keeps_rest ?_ rfl (SameSto.refl _) ⟨rfl, rfl⟩)
    | split
    | dsimp only

theorem keeps_execSyncReqRx {b0 d0 : Bool} {s0 : State} {t : Nat} {port : Nat} {header : List Word} {payload : Bytes} {depart :
    Nat} {s : State} (hs0 : Keeps b0 d0 s0 s) {r0 : State} (e : execSyncReqRx t port header payload depart s = .next r0) :
        Keeps b0 d0 s0 r0 := by
  unfold execSyncReqRx at e
  refine keeps_event hs0 ?_ e
  clear hs0 e r0
  try dsimp only
  repeat' first
    | with_reducible assumption
    | with_reducible refine keeps_ite ?_ ?_
    | intro _
    | with_reducible apply keeps_sendMessage
    | with_reducible refine keeps_receive ?_ ?_
    | split

theorem keeps_firstLock {b0 d0 : Bool} {s0 : State} {s : State} {offset : Int} (hs0 : Keeps b0 d0 s0 s) : Keeps b0 d0 s0
    (firstLock s offset) := by
  unfold firstLock
  try dsimp only
  repeat' first
    | with_reducible assumption
    | with_reducible refine keeps_ite ?_ ?_
    | with_reducible apply keeps_huskFault
    | (rw [rest_eq]; with_reducible refine keeps_rest ?_ rfl (SameSto.refl _) ⟨rfl, rfl⟩)
    | (rw [rest_eq]; with_reducible refine keeps_restOn ?_ rfl ⟨rfl, rfl, rfl, rfl, rfl, rfl⟩ ?_)
    | (refine ⟨fun o => ?_, fun o => ?_, fun o => ?_⟩ <;> dsimp only at o ⊢ <;> omega)
    | split
    | dsimp only

theorem keeps_measured {b0 d0 : Bool} {s0 : State} {s : State} {offset : Int} (hs0 : Keeps b0 d0 s0 s) : Keeps b0 d0 s0
    (measured s offset) := by
  unfold measured
  try dsimp only
  repeat' first
    | with_reducible assumption
    | with_reducible refine keeps_ite ?_ ?_
    | intro _
    | (rw [rest_eq]; with_reducible refine keeps_rest ?_ rfl (SameSto.refl _) ⟨rfl, rfl⟩)
    | split
    | dsimp only

theorem keeps_execSyncRespRx {b0 d0 : Bool} {s0 : State} {t : Nat} {port : Nat} {header : List Word} {payload : Bytes} {s :
    State} (hs0 : Keeps b0 d0 s0 s) {r0 : State} (e : execSyncRespRx t port header payload s = .next r0) : Keeps b0 d0 s0 r0 := by
  unfold execSyncRespRx at e
  refine keeps_event hs0 ?_ e
  clear hs0 e r0
  try dsimp only
  repeat' first
    | with_reducible assumption
    | with_reducible refine keeps_ite ?_ ?_
    | intro _
    | with_reducible refine keeps_receive ?_ ?_
    | with_reducible apply keeps_firstLock
    | with_reducible apply keeps_measured
    | (rw [rest_eq]; with_reducible refine keeps_rest ?_ rfl (SameSto.refl _) ⟨rfl, rfl⟩)
    | split
    | dsimp only

theorem keeps_execSyncLockAcquired {b0 d0 : Bool} {s0 : State} {t : Nat} {s : State} (hs0 : Keeps b0 d0 s0 s) {r0 : State} (e :
    execSyncLockAcquired t s = .next r0) : Keeps b0 d0 s0 r0 := by
  unfold execSyncLockAcquired at e
  refine keeps_event hs0 ?_ e
  clear hs0 e r0
  try dsimp only
  repeat' first
    | with_reducible assumption
    | with_reducible refine keeps_ite ?_ ?_
    | intro _
    | with_reducible apply keeps_firstLock
    | (rw [rest_eq]; with_reducible refine keeps_rest ?_ rfl (SameSto.refl _) ⟨rfl, rfl⟩)
    | split
    | dsimp only

theorem keeps_execSyncLockLost {b0 d0 : Bool} {s0 : State} {t : Nat} {s : State} (hs0 : Keeps b0 d0 s0 s) {r0 : State} (e :
    execSyncLockLost t s = .next r0) : Keeps b0 d0 s0 r0 := by
  unfold execSyncLockLost at e
  refine keeps_event hs0 ?_ e
  clear hs0 e r0
  try dsimp only
  repeat' first
    | with_reducible assumption
    | with_reducible refine keeps_ite ?_ ?_
    | intro _
    | with_reducible apply keeps_raiseEvent
    | with_reducible apply keeps_huskFault
    | (rw [rest_eq]; with_reducible refine keeps_rest ?_ rfl (SameSto.refl _) ⟨rfl, rfl⟩)
    | split
    | dsimp only

theorem keeps_execGtcHoldEnd {b0 d0 : Bool} {s0 : State} {t : Nat} {s : State} (hs0 : Keeps b0 d0 s0 s) {r0 : State} (e :
    execGtcHoldEnd t s = .next r0) : Keeps b0 d0 s0 r0 := by
  unfold execGtcHoldEnd at e
  cases e
  try dsimp only
  repeat' first
    | with_reducible assumption
    | with_reducible apply keeps_advance
    | (rw [rest_eq]; with_reducible refine keeps_rest ?_ rfl (SameSto.refl _) ⟨rfl, rfl⟩)
    | split

/-! Machine/Update.lean. -/

theorem keeps_update {b0 d0 : Bool} {s0 s : State} {t : Nat} {c : Cmd} {ok : Bool} {body : State → State} (h : Keeps b0 d0 s0 s)
    (hb : ∀ {x : State}, Keeps b0 d0 s0 x → Keeps b0 d0 s0 (body x)) {r : State} (e : update s t c ok body = .next r) : Keeps
        b0 d0 s0 r := by
  refine keeps_host h ?_ e
  intro x hx
  split
  · exact hb (keeps_deferCmd hx)
  · exact keeps_done hx

theorem keeps_loadImage {b0 d0 : Bool} {s0 : State} {s : State} {c : Cmd} {kind : Nat} {b : Bytes} (hs0 : Keeps b0 d0 s0 s) :
    Keeps b0 d0 s0 (loadImage s c kind b) := by
  unfold loadImage
  try dsimp only
  repeat' first
    | with_reducible assumption
    | with_reducible refine keeps_ite ?_ ?_
    | with_reducible apply keeps_done
    | (rw [rest_eq]; with_reducible refine keeps_rest ?_ rfl (SameSto.refl _) ⟨rfl, rfl⟩)
    | split

theorem keeps_execFwLoad {b0 d0 : Bool} {s0 : State} {t : Nat} {c : Cmd} {window : Word} {offset : DWord} {length : Word} {s :
    State} (hs0 : Keeps b0 d0 s0 s) {r0 : State} (e : execFwLoad t c window offset length s = .next r0) : Keeps b0 d0 s0 r0 := by
  unfold execFwLoad at e
  refine keeps_update hs0 ?_ e
  clear hs0 e r0
  try dsimp only
  repeat' first
    | with_reducible assumption
    | intro _
    | with_reducible refine keeps_orFail ?_ ?_
    | with_reducible apply keeps_loadImage

theorem keeps_execShellFwLoad {b0 d0 : Bool} {s0 : State} {t : Nat} {c : Cmd} {window : Word} {offset : DWord} {length : Word}
    {s : State} (hs0 : Keeps b0 d0 s0 s) {r0 : State} (e : execShellFwLoad t c window offset length s = .next r0) : Keeps b0 d0
        s0 r0 := by
  unfold execShellFwLoad at e
  refine keeps_update hs0 ?_ e
  clear hs0 e r0
  try dsimp only
  repeat' first
    | with_reducible assumption
    | with_reducible refine keeps_ite ?_ ?_
    | intro _
    | with_reducible refine keeps_orFail ?_ ?_
    | with_reducible apply keeps_loadImage
    | split

theorem keeps_execBootFlashWriteDone {b0 d0 : Bool} {s0 : State} {t : Nat} {s : State} (hs0 : Keeps b0 d0 s0 s) {r0 : State} (e
    : execBootFlashWriteDone t s = .next r0) : Keeps b0 d0 s0 r0 := by
  unfold execBootFlashWriteDone at e
  refine keeps_event hs0 ?_ e
  clear hs0 e r0
  try dsimp only
  repeat' first
    | with_reducible assumption
    | with_reducible refine keeps_ite ?_ ?_
    | intro _
    | with_reducible apply keeps_setImage
    | with_reducible apply keeps_done
    | (rw [rest_eq]; with_reducible refine keeps_rest ?_ rfl (SameSto.refl _) ⟨rfl, rfl⟩)
    | split
    | dsimp only

theorem keeps_execFwSwap {b0 d0 : Bool} {s0 : State} {t : Nat} {c : Cmd} {s : State} (hs0 : Keeps b0 d0 s0 s) {r0 : State} (e :
    execFwSwap t c s = .next r0) : Keeps b0 d0 s0 r0 := by
  unfold execFwSwap at e
  refine keeps_update hs0 ?_ e
  clear hs0 e r0
  try dsimp only
  repeat' first
    | with_reducible assumption
    | with_reducible refine keeps_ite ?_ ?_
    | intro _
    | with_reducible apply keeps_done
    | (rw [rest_eq]; with_reducible refine keeps_rest ?_ rfl (SameSto.refl _) ⟨rfl, rfl⟩)
    | split

theorem keeps_takeOver {b0 d0 : Bool} {s0 : State} {s : State} (hs0 : Keeps b0 d0 s0 s) : Keeps b0 d0 s0 (takeOver s) := by
  unfold takeOver
  try dsimp only
  repeat' first
    | with_reducible assumption
    | (rw [rest_eq]; with_reducible refine keeps_rest ?_ rfl (SameSto.refl _) ⟨rfl, rfl⟩)
    | split

theorem keeps_execFwSwapConfirm {b0 d0 : Bool} {s0 : State} {t : Nat} {s : State} (hs0 : Keeps b0 d0 s0 s) {r0 : State} (e :
    execFwSwapConfirm t s = .next r0) : Keeps b0 d0 s0 r0 := by
  unfold execFwSwapConfirm at e
  refine keeps_event hs0 ?_ e
  clear hs0 e r0
  try dsimp only
  repeat' first
    | with_reducible assumption
    | with_reducible refine keeps_ite ?_ ?_
    | intro _
    | with_reducible apply keeps_setSelector
    | with_reducible apply keeps_huskSwap
    | with_reducible apply keeps_done
    | with_reducible apply keeps_raiseEvent
    | (rw [rest_eq]; with_reducible refine keeps_rest ?_ rfl (SameSto.refl _) ⟨rfl, rfl⟩)
    | split
    | dsimp only

theorem keeps_execShellFwSwap {b0 d0 : Bool} {s0 : State} {t : Nat} {c : Cmd} {s : State} (hs0 : Keeps b0 d0 s0 s) {r0 : State}
    (e : execShellFwSwap t c s = .next r0) : Keeps b0 d0 s0 r0 := by
  unfold execShellFwSwap at e
  refine keeps_update hs0 ?_ e
  clear hs0 e r0
  try dsimp only
  repeat' first
    | with_reducible assumption
    | with_reducible refine keeps_ite ?_ ?_
    | intro _
    | with_reducible apply keeps_done
    | (rw [rest_eq]; with_reducible refine keeps_rest ?_ rfl (SameSto.refl _) ⟨rfl, rfl⟩)
    | split

theorem keeps_huskReboot {b0 d0 : Bool} {s0 : State} {s : State} (hs0 : Keeps b0 d0 s0 s) : Keeps b0 d0 s0 (huskReboot s) := by
  unfold huskReboot
  try dsimp only
  repeat' first
    | with_reducible assumption
    | with_reducible apply keeps_huskRequest
    | dsimp only

theorem keeps_rebootNow {b0 d0 : Bool} {s0 : State} {s : State} (hs0 : Keeps b0 d0 s0 s) : Keeps b0 d0 s0 (rebootNow s) := by
  unfold rebootNow
  try dsimp only
  repeat' first
    | with_reducible assumption
    | with_reducible refine keeps_ite ?_ ?_
    | intro _
    | with_reducible apply keeps_done
    | with_reducible refine keeps_enterSafe ?_ ?_
    | with_reducible apply keeps_huskSafeState
    | with_reducible apply keeps_huskReboot
    | (rw [rest_eq]; with_reducible refine keeps_rest ?_ rfl (SameSto.refl _) ⟨rfl, rfl⟩)
    | split
    | dsimp only

theorem keeps_execPlateBoundary {b0 d0 : Bool} {s0 : State} {t : Nat} {s : State} (hs0 : Keeps b0 d0 s0 s) {r0 : State} (e :
    execPlateBoundary t s = .next r0) : Keeps b0 d0 s0 r0 := by
  unfold execPlateBoundary at e
  refine keeps_event hs0 ?_ e
  clear hs0 e r0
  try dsimp only
  repeat' first
    | with_reducible assumption
    | with_reducible refine keeps_ite ?_ ?_
    | intro _
    | with_reducible apply keeps_takeOver
    | with_reducible apply keeps_rebootNow
    | (rw [rest_eq]; with_reducible refine keeps_rest ?_ rfl (SameSto.refl _) ⟨rfl, rfl⟩)
    | split
    | dsimp only

theorem keeps_execSectorRemap {b0 d0 : Bool} {s0 : State} {t : Nat} {c : Cmd} {sector : BitVec 5} {s : State} (hs0 : Keeps b0
    d0 s0 s) {r0 : State} (e : execSectorRemap t c sector s = .next r0) : Keeps b0 d0 s0 r0 := by
  unfold execSectorRemap at e
  refine keeps_update hs0 ?_ e
  clear hs0 e r0
  try dsimp only
  repeat' first
    | with_reducible assumption
    | intro _
    | with_reducible apply keeps_startRemap

theorem keeps_execEngineSwap {b0 d0 : Bool} {s0 : State} {t : Nat} {c : Cmd} {engine : BitVec 4} {s : State} (hs0 : Keeps b0 d0
    s0 s) {r0 : State} (e : execEngineSwap t c engine s = .next r0) : Keeps b0 d0 s0 r0 := by
  unfold execEngineSwap at e
  refine keeps_update hs0 ?_ e
  clear hs0 e r0
  try dsimp only
  repeat' first
    | with_reducible assumption
    | with_reducible refine keeps_ite ?_ ?_
    | intro _
    | with_reducible apply keeps_done
    | with_reducible apply keeps_swapEngine
    | with_reducible apply keeps_fenceEngine
    | (rw [rest_eq]; with_reducible refine keeps_rest ?_ rfl (SameSto.refl _) ⟨rfl, rfl⟩)
    | split
    | dsimp only

theorem keeps_execServoPairDrain {b0 d0 : Bool} {s0 : State} {t : Nat} {c : Cmd} {pair : BitVec 2} {retire : Bool} {s : State}
    (hs0 : Keeps b0 d0 s0 s) {r0 : State} (e : execServoPairDrain t c pair retire s = .next r0) : Keeps b0 d0 s0 r0 := by
  unfold execServoPairDrain at e
  refine keeps_update hs0 ?_ e
  clear hs0 e r0
  try dsimp only
  repeat' first
    | with_reducible assumption
    | intro _
    | with_reducible apply keeps_beginDrain

theorem keeps_execSpareStatus {b0 d0 : Bool} {s0 : State} {t : Nat} {c : Cmd} {s : State} (hs0 : Keeps b0 d0 s0 s) {r0 : State}
    (e : execSpareStatus t c s = .next r0) : Keeps b0 d0 s0 r0 := by
  unfold execSpareStatus at e
  refine keeps_host hs0 ?_ e
  clear hs0 e r0
  try dsimp only
  repeat' first
    | with_reducible assumption
    | with_reducible refine keeps_ite ?_ ?_
    | intro _
    | with_reducible apply keeps_done
    | split
    | dsimp only

theorem keeps_execLpddrRetrain {b0 d0 : Bool} {s0 : State} {t : Nat} {c : Cmd} {channels : Word} {s : State} (hs0 : Keeps b0 d0
    s0 s) {r0 : State} (e : execLpddrRetrain t c channels s = .next r0) : Keeps b0 d0 s0 r0 := by
  unfold execLpddrRetrain at e
  refine keeps_update hs0 ?_ e
  clear hs0 e r0
  try dsimp only
  repeat' first
    | with_reducible assumption
    | intro _
    | with_reducible apply keeps_beginRetrain
    | with_reducible apply keeps_nextRetrains

theorem keeps_execLpddrRefresh {b0 d0 : Bool} {s0 : State} {t : Nat} {channel : Nat} {s : State} (hs0 : Keeps b0 d0 s0 s) {r0 :
    State} (e : execLpddrRefresh t channel s = .next r0) : Keeps b0 d0 s0 r0 := by
  unfold execLpddrRefresh at e
  refine keeps_event hs0 ?_ e
  clear hs0 e r0
  try dsimp only
  repeat' first
    | with_reducible assumption
    | with_reducible refine keeps_ite ?_ ?_
    | intro _
    | with_reducible apply keeps_modLpddr
    | with_reducible apply keeps_nextRetrain
    | (rw [rest_eq]; with_reducible refine keeps_rest ?_ rfl (SameSto.refl _) ⟨rfl, rfl⟩)
    | split
    | dsimp only

end Sys2Proof.Laws
end

