-- ==== Sys2Proof/Laws/Keeps8.lean ====
section
/-!
SUPPORT. Laws/Keeps8.lean: every operation of Machine/Registers.lean keeps what Laws/Keeps.lean says.
-/
namespace Sys2Proof.Laws

open Sys2Proof.Machine

/-! Machine/Registers.lean. -/

theorem keeps_bar0Read {b0 d0 : Bool} {s0 : State} {s : State} {fn : Nat} {off : Nat} {size : Nat} (hs0 : Keeps b0 d0 s0 s) :
    Keeps b0 d0 s0 (bar0Read s fn off size).1 := by
  unfold bar0Read
  try dsimp only
  repeat' first
    | with_reducible assumption
    | with_reducible refine keeps_ite ?_ ?_
    | intro _
    | (rw [rest_eq]; with_reducible refine keeps_rest ?_ rfl (SameSto.refl _) ⟨rfl, rfl⟩)
    | split
    | dsimp only
theorem keeps_bar0Read_eq {b0 d0 : Bool} {s0 : State} {s : State} {fn : Nat} {off : Nat} {size : Nat} (hs0 : Keeps b0 d0 s0 s)
    {r0 : State} {y0 : Option DWord} (e : bar0Read s fn off size = (r0, y0)) : Keeps b0 d0 s0 r0 := by
  have k := keeps_bar0Read (s := s) (fn := fn) (off := off) (size := size) hs0
  rw [e] at k
  exact k

theorem keeps_spdRead {b0 d0 : Bool} {s0 : State} {s : State} {n : Nat} {off : Nat} {size : Nat} (hs0 : Keeps b0 d0 s0 s) :
    Keeps b0 d0 s0 (spdRead s n off size).1 := by
  unfold spdRead
  try dsimp only
  repeat' first
    | with_reducible assumption
    | with_reducible refine keeps_ite ?_ ?_
    | intro _
    | with_reducible apply keeps_modSector
    | (rw [rest_eq]; with_reducible refine keeps_rest ?_ rfl (SameSto.refl _) ⟨rfl, rfl⟩)
    | split
    | dsimp only
theorem keeps_spdRead_eq {b0 d0 : Bool} {s0 : State} {s : State} {n : Nat} {off : Nat} {size : Nat} (hs0 : Keeps b0 d0 s0 s)
    {r0 : State} {y0 : Option DWord} (e : spdRead s n off size = (r0, y0)) : Keeps b0 d0 s0 r0 := by
  have k := keeps_spdRead (s := s) (n := n) (off := off) (size := size) hs0
  rw [e] at k
  exact k

end Sys2Proof.Laws
end

