-- ==== Sys2Proof/Laws/Ops.lean ====
section
/-!
SUPPORT. Laws/Ops.lean: what the numbers that the firmware hands out can be (R753), a number or a place being found exactly when
one is free and lying in its range, and what the service of a sector's requests can do (R382–R389).
-/
namespace Sys2Proof.Laws
open Sys2Proof Sys2Proof.Machine

/-- A number is picked from a range that has one, when none is in use. -/
theorem pickFree_nil {lo size base : Nat} (h : 0 < size) : pickFree lo size base [] = some (lo + base % size) := by
  unfold pickFree
  rw [if_neg (by omega), Nat.min_eq_right (by simp; omega)]
  simp

/-- A picked number lies in its range and is not in use. -/
theorem pickFree_spec {lo size base : Nat} {live : List Nat} {n : Nat} (h : pickFree lo size base live = some n) :
    lo ≤ n ∧ n < lo + size ∧ n ∉ live := by
  unfold pickFree at h
  split at h
  · cases h
  · have hm := List.mem_of_find?_eq_some h
    have hl := List.find?_some h
    simp only [List.mem_map, List.mem_range] at hm
    obtain ⟨i, -, rfl⟩ := hm
    have := Nat.mod_lt (base + i) (by omega : size > 0)
    exact ⟨by omega, by omega, by simpa using hl⟩

/-- The places of a list of gaps, numbered from 0. -/
theorem nthSpot_isSome (align : Nat) : ∀ (l : List (Nat × Nat)) (k : Nat), k < (l.map (·.2)).sum → (nthSpot align l k).isSome = true
  | [], k, h => by simp at h
  | (p, n) :: r, k, h => by
    unfold nthSpot
    split
    · rfl
    · rename_i hk
      apply nthSpot_isSome
      simp only [List.map_cons, List.sum_cons] at h
      omega

/-- A place is chosen exactly when one is free. -/
theorem chooseSpot_isSome {s : State} {lo hi size align : Nat} {used : List (Nat × Nat)} :
    (chooseSpot s lo hi size align used).isSome = true ↔
      ((freeSpots hi size align lo (sortBy (fun a b => decide (a.1 < b.1)) used)).map (·.2)).sum ≠ 0 := by
  have hf : ∀ (l : List (Nat × Nat)) (m : Nat), l.foldl (fun m x => m + x.2) m = m + (l.map (·.2)).sum := by
    intro l
    induction l with
    | nil => intro m; simp
    | cons a l ih => intro m; simp [ih, Nat.add_assoc]
  unfold chooseSpot
  simp only [hf, Nat.zero_add]
  constructor
  · intro h hn
    rw [if_pos hn] at h
    cases h
  · intro hn
    rw [if_neg hn]
    exact nthSpot_isSome _ _ _ (Nat.mod_lt _ (by omega))

/-- An allocation of another class than 1 and 2 goes into LPDDR while its check bytes leave room (R415, R424). -/
theorem placeAlloc_lpddr (s : State) (x : Session) (bytes align : Nat) {cls : Nat} (h1 : cls ≠ 1) (h2 : cls ≠ 2)
    (h3 : lpddrFits s cls bytes = true) :
    placeAlloc s x bytes cls align = chooseSpot s (max (fnMemBase s x.fn) lpddrBase) (min (fnMemLimit s x.fn) (lpddrBase + lpddrBytes))
      bytes align (heldRanges s) := by
  simp [placeAlloc, h1, h2, h3]

/-- Sorting keeps the members with their numbers. -/
theorem insertBy_perm {α : Type} (f : α → α → Bool) (x : α) : ∀ l : List α, (insertBy f x l).Perm (x :: l)
  | [] => .refl _
  | y :: r => by
    unfold insertBy
    split
    · exact .refl _
    · exact ((insertBy_perm f x r).cons y).trans (.swap x y r)

theorem sortBy_perm {α : Type} (f : α → α → Bool) (l : List α) : (sortBy f l).Perm l := by
  have h : ∀ (l r : List α), (l.foldl (fun r a => insertBy f a r) r).Perm (l ++ r) := by
    intro l
    induction l with
    | nil => intro r; exact .refl _
    | cons a l ih => intro r; exact (ih _).trans (((insertBy_perm f a r).append_left l).trans List.perm_middle)
  simpa [sortBy] using h l []

/-- A place is free between ranges whose lengths leave room, wherever they lie. -/
theorem freeSpots_pos {size align hi : Nat} (ha : 0 < align) : ∀ (r : List (Nat × Nat)) (lo : Nat),
    lo + (r.map (·.2)).sum + (r.length + 1) * (size + align) ≤ hi → ((freeSpots hi size align lo r).map (·.2)).sum ≠ 0
  | [], lo, h => by
    have : alignUp lo align ≤ lo + align - 1 := Nat.div_mul_le_self _ _
    simp only [List.map_nil, List.sum_nil, List.length_nil] at h
    unfold freeSpots
    rw [if_pos (by omega)]
    simp
  | (a, n) :: r, lo, h => by
    have hp : alignUp lo align ≤ lo + align - 1 := Nat.div_mul_le_self _ _
    simp only [List.map_cons, List.sum_cons, List.length_cons, Nat.add_mul, Nat.one_mul] at h
    unfold freeSpots
    simp only [List.map_append, List.sum_append]
    by_cases hs : alignUp lo align + size ≤ min a hi
    · rw [if_pos hs]
      simp
    · have ih := freeSpots_pos (size := size) (hi := hi) ha r (max lo (a + n)) (by simp only [Nat.add_mul, Nat.one_mul]; omega)
      omega

/-- Bytes of device memory that allocations and loaded Plates hold. -/
def heldBytes (s : State) : Nat := ((heldRanges s).map (·.2)).sum

/-- A place is chosen wherever the held ranges leave room. -/
theorem chooseSpot_room {s : State} {lo hi size align : Nat} (ha : 0 < align)
    (h : lo + heldBytes s + ((heldRanges s).length + 1) * (size + align) ≤ hi) :
    (chooseSpot s lo hi size align (heldRanges s)).isSome = true := by
  have p := sortBy_perm (fun a b => decide (a.1 < b.1)) (heldRanges s)
  refine chooseSpot_isSome.2 (freeSpots_pos ha _ _ ?_)
  rw [(p.map (·.2)).sum_nat, p.length_eq]
  exact h

/-- A serving piece is placed within its session's quota, and leaves as much as it did not take. -/
theorem serveAlloc_room {s : State} {x : Session} {bytes lo hi : Nat} (hf : lpddrFits s 2 bytes = true) (hq : sessionBytes s x.id + bytes ≤ x.quota.toNat)
    (h : max lo (fnMemBase s x.fn) + heldBytes s + ((heldRanges s).length + 1) * (bytes + 4096) ≤ min hi (fnMemLimit s x.fn)) :
    ∃ u a, serveAlloc s x bytes lo hi = some (u, a) ∧ heldBytes u = heldBytes s + bytes ∧ (heldRanges u).length = (heldRanges s).length + 1
      ∧ sessionBytes u x.id = sessionBytes s x.id + bytes ∧ lpddrHeld u ≤ lpddrHeld s + checkedBytes 2 bytes ∧ u.boot = s.boot
      ∧ u.plate = s.plate := by
  obtain ⟨a, ha⟩ := Option.isSome_iff_exists.1 (chooseSpot_room (by omega) h)
  unfold serveAlloc
  rw [if_neg (by omega), if_neg (by simp [hf]), ha]
  refine ⟨_, _, rfl, ?_, ?_, ?_, ?_, rfl, rfl⟩
  · simp [heldBytes, heldRanges, takeFree]
    omega
  · simp [heldRanges, takeFree]
    omega
  · simp [sessionBytes, takeFree, List.filter_append]
  · simp only [lpddrHeld, takeFree, List.filter_append]
    by_cases hl : lpddrBase ≤ a <;> simp [hl]

/-- Several pieces are placed within their session's quota wherever room for each stays. -/
theorem serveAllocs_room {x : Session} (l : List Nat) : ∀ s : State, sessionBytes s x.id + l.sum ≤ x.quota.toNat →
    lpddrHeld s + s.plate.spills.foldl (fun n y => n + y.2) 0 + (l.map (checkedBytes 2)).sum ≤ lpddrBytes →
    max lpddrBase (fnMemBase s x.fn) + heldBytes s + l.sum + ((heldRanges s).length + l.length) * (l.sum + 4096)
      ≤ min (lpddrBase + lpddrBytes) (fnMemLimit s x.fn) →
    (serveAllocs x l s).isSome = true := by
  induction l with
  | nil => intro s _ _ _; rfl
  | cons n l ih =>
    intro s hq hc h
    simp only [List.map_cons, List.sum_cons] at hc
    have hfit : lpddrFits s 2 n = true := by
      unfold lpddrFits
      exact decide_eq_true (by omega)
    generalize hB : lpddrBase = B at h
    generalize hT : B + lpddrBytes = T at h
    simp only [List.sum_cons, List.length_cons] at h hq
    have e : ((heldRanges s).length + 1) * (n + 4096) ≤ ((heldRanges s).length + (l.length + 1)) * (n + l.sum + 4096) :=
      Nat.mul_le_mul (by omega) (by omega)
    have e2 : ((heldRanges s).length + 1 + l.length) * (l.sum + 4096) ≤ ((heldRanges s).length + (l.length + 1)) * (n + l.sum + 4096) :=
      Nat.mul_le_mul (by omega) (by omega)
    obtain ⟨u, a, hu, h1, h2, h5, h6, h3, h4⟩ :=
      serveAlloc_room (s := s) (x := x) (bytes := n) (lo := B) (hi := T) hfit (by omega) (by omega)
    have hb : fnMemBase u x.fn = fnMemBase s x.fn := by simp only [fnMemBase, protNum, h3]
    have hl : fnMemLimit u x.fn = fnMemLimit s x.fn := by simp only [fnMemLimit, protNum, h3]
    obtain ⟨r, hr⟩ := Option.isSome_iff_exists.1 (ih u (by omega) (by rw [h4]; omega) (by rw [h1, h2, hb, hl, hB, hT]; omega))
    unfold serveAllocs
    rw [hB, hT, hu]
    simp only [hr]
    rfl

/-! The banks of a sector (R382–R389). -/

/-- Serving requests moves the bank pointers and the two counts, and nothing else of the sector. -/
theorem serveSector_leaves (s : State) (reqs : List ScratchReq) (c : Sector) :
    ∃ ptrs losses waits, serveSector s reqs c = { c with ptrs := ptrs, losses := losses, waits := waits } :=
  ⟨_, _, _, rfl⟩

/-- A granted port is one of the ports that ask. -/
theorem bankGrant_wants {mode owner ptr p : Nat} {rt wants : Nat → Bool} (h : (bankGrant mode rt owner ptr wants).1 = some p) :
    wants p = true := by
  have ring : ∀ (q : Nat → Bool), (ringGrant ptr q).1 = some p → q p = true := by
    intro q hq
    unfold ringGrant at hq
    split at hq
    · rename_i k hk
      cases hq
      exact List.find?_some (p := q) hk
    · cases hq
  unfold bankGrant at h
  split at h
  · exact ring _ h
  · dsimp only at h
    split at h
    · cases h; rename_i hw; exact hw.2
    · cases h
  · split at h
    · cases h; rename_i hw; exact hw.2.2
    · have := ring _ h
      simp at this
      exact this.1

/-- A cycle leaves a request to be served or serves it: none is added. -/
theorem scratchCycle_todo (m : ScratchMode) (n : Nat) (r : ScratchRun) : (scratchCycle m n r).todo.length ≤ r.todo.length :=
  List.length_filter_le _ _

end Sys2Proof.Laws
end

