-- ==== Sys2Proof/Laws/State.lean ====
section
/-!
SUPPORT. Laws/State.lean: for each operation that updates the state, the fields that it leaves alone and the field that it writes; and
for the operations over which the commands are written, once, all that they can do.
-/
namespace Sys2Proof.Laws
open Sys2Proof Sys2Proof.Machine

/-! Updates of one field. -/

@[simp] theorem takeFree_leaves (s : State) :
    (takeFree s).phase = s.phase ∧ (takeFree s).sync = s.sync ∧ (takeFree s).etch = s.etch ∧ (takeFree s).hif = s.hif
    ∧ (takeFree s).cmds = s.cmds ∧ (takeFree s).mem = s.mem ∧ (takeFree s).solver = s.solver ∧ (takeFree s).servo = s.servo
    ∧ (takeFree s).field = s.field ∧ (takeFree s).loops = s.loops ∧ (takeFree s).plate = s.plate
    ∧ (takeFree s).safety = s.safety ∧ (takeFree s).boot = s.boot ∧ (takeFree s).husk = s.husk
    ∧ (takeFree s).imprints = s.imprints ∧ (takeFree s).power = s.power ∧ (takeFree s).ports = s.ports
    ∧ (takeFree s).out = s.out ∧ (takeFree s).pending = s.pending :=
  ⟨rfl, rfl, rfl, rfl, rfl, rfl, rfl, rfl, rfl, rfl, rfl, rfl, rfl, rfl, rfl, rfl, rfl, rfl, rfl⟩

@[simp] theorem takeFree_free (s : State) :
    (takeFree s).free = s.free + 1 := rfl

@[simp] theorem mapSessions_leaves (s : State) (f : Session → Session) :
    (mapSessions s f).phase = s.phase ∧ (mapSessions s f).sync = s.sync ∧ (mapSessions s f).etch = s.etch
    ∧ (mapSessions s f).hif = s.hif ∧ (mapSessions s f).mem = s.mem ∧ (mapSessions s f).solver = s.solver
    ∧ (mapSessions s f).servo = s.servo ∧ (mapSessions s f).field = s.field ∧ (mapSessions s f).loops = s.loops
    ∧ (mapSessions s f).plate = s.plate ∧ (mapSessions s f).safety = s.safety ∧ (mapSessions s f).boot = s.boot
    ∧ (mapSessions s f).husk = s.husk ∧ (mapSessions s f).imprints = s.imprints ∧ (mapSessions s f).power = s.power
    ∧ (mapSessions s f).ports = s.ports ∧ (mapSessions s f).out = s.out ∧ (mapSessions s f).free = s.free
    ∧ (mapSessions s f).pending = s.pending :=
  ⟨rfl, rfl, rfl, rfl, rfl, rfl, rfl, rfl, rfl, rfl, rfl, rfl, rfl, rfl, rfl, rfl, rfl, rfl, rfl⟩

@[simp] theorem mapSessions_cmds (s : State) (f : Session → Session) :
    (mapSessions s f).cmds = { s.cmds with sessions := s.cmds.sessions.map f } := rfl

@[simp] theorem modSession_leaves (s : State) (id : Word) (f : Session → Session) :
    (modSession s id f).phase = s.phase ∧ (modSession s id f).sync = s.sync ∧ (modSession s id f).etch = s.etch
    ∧ (modSession s id f).hif = s.hif ∧ (modSession s id f).mem = s.mem ∧ (modSession s id f).solver = s.solver
    ∧ (modSession s id f).servo = s.servo ∧ (modSession s id f).field = s.field ∧ (modSession s id f).loops = s.loops
    ∧ (modSession s id f).plate = s.plate ∧ (modSession s id f).safety = s.safety ∧ (modSession s id f).boot = s.boot
    ∧ (modSession s id f).husk = s.husk ∧ (modSession s id f).imprints = s.imprints ∧ (modSession s id f).power = s.power
    ∧ (modSession s id f).ports = s.ports ∧ (modSession s id f).out = s.out ∧ (modSession s id f).free = s.free
    ∧ (modSession s id f).pending = s.pending :=
  ⟨rfl, rfl, rfl, rfl, rfl, rfl, rfl, rfl, rfl, rfl, rfl, rfl, rfl, rfl, rfl, rfl, rfl, rfl, rfl⟩

@[simp] theorem modSession_cmds (s : State) (id : Word) (f : Session → Session) :
    (modSession s id f).cmds = (mapSessions s (fun x => if x.id == id then f x else x)).cmds := rfl

@[simp] theorem modSq_leaves (s : State) (q : Nat) (f : SubQueue → SubQueue) :
    (modSq s q f).phase = s.phase ∧ (modSq s q f).sync = s.sync ∧ (modSq s q f).etch = s.etch ∧ (modSq s q f).hif = s.hif
    ∧ (modSq s q f).mem = s.mem ∧ (modSq s q f).solver = s.solver ∧ (modSq s q f).servo = s.servo
    ∧ (modSq s q f).field = s.field ∧ (modSq s q f).loops = s.loops ∧ (modSq s q f).plate = s.plate
    ∧ (modSq s q f).safety = s.safety ∧ (modSq s q f).boot = s.boot ∧ (modSq s q f).husk = s.husk
    ∧ (modSq s q f).imprints = s.imprints ∧ (modSq s q f).power = s.power ∧ (modSq s q f).ports = s.ports
    ∧ (modSq s q f).out = s.out ∧ (modSq s q f).free = s.free ∧ (modSq s q f).pending = s.pending :=
  ⟨rfl, rfl, rfl, rfl, rfl, rfl, rfl, rfl, rfl, rfl, rfl, rfl, rfl, rfl, rfl, rfl, rfl, rfl, rfl⟩

@[simp] theorem modSq_cmds (s : State) (q : Nat) (f : SubQueue → SubQueue) :
    (modSq s q f).cmds = { s.cmds with sqs := s.cmds.sqs.map (fun x => if x.id == q then f x else x) } := rfl

@[simp] theorem modCq_leaves (s : State) (q : Nat) (f : ComQueue → ComQueue) :
    (modCq s q f).phase = s.phase ∧ (modCq s q f).sync = s.sync ∧ (modCq s q f).etch = s.etch ∧ (modCq s q f).hif = s.hif
    ∧ (modCq s q f).mem = s.mem ∧ (modCq s q f).solver = s.solver ∧ (modCq s q f).servo = s.servo
    ∧ (modCq s q f).field = s.field ∧ (modCq s q f).loops = s.loops ∧ (modCq s q f).plate = s.plate
    ∧ (modCq s q f).safety = s.safety ∧ (modCq s q f).boot = s.boot ∧ (modCq s q f).husk = s.husk
    ∧ (modCq s q f).imprints = s.imprints ∧ (modCq s q f).power = s.power ∧ (modCq s q f).ports = s.ports
    ∧ (modCq s q f).out = s.out ∧ (modCq s q f).free = s.free ∧ (modCq s q f).pending = s.pending :=
  ⟨rfl, rfl, rfl, rfl, rfl, rfl, rfl, rfl, rfl, rfl, rfl, rfl, rfl, rfl, rfl, rfl, rfl, rfl, rfl⟩

@[simp] theorem modCq_cmds (s : State) (q : Nat) (f : ComQueue → ComQueue) :
    (modCq s q f).cmds = { s.cmds with cqs := s.cmds.cqs.map (fun x => if x.id == q then f x else x) } := rfl

@[simp] theorem modOut_leaves (s : State) (k : CmdKey) (f : Outstanding → Outstanding) :
    (modOut s k f).phase = s.phase ∧ (modOut s k f).sync = s.sync ∧ (modOut s k f).etch = s.etch ∧ (modOut s k f).hif = s.hif
    ∧ (modOut s k f).mem = s.mem ∧ (modOut s k f).solver = s.solver ∧ (modOut s k f).servo = s.servo
    ∧ (modOut s k f).field = s.field ∧ (modOut s k f).loops = s.loops ∧ (modOut s k f).plate = s.plate
    ∧ (modOut s k f).safety = s.safety ∧ (modOut s k f).boot = s.boot ∧ (modOut s k f).husk = s.husk
    ∧ (modOut s k f).imprints = s.imprints ∧ (modOut s k f).power = s.power ∧ (modOut s k f).ports = s.ports
    ∧ (modOut s k f).out = s.out ∧ (modOut s k f).free = s.free ∧ (modOut s k f).pending = s.pending :=
  ⟨rfl, rfl, rfl, rfl, rfl, rfl, rfl, rfl, rfl, rfl, rfl, rfl, rfl, rfl, rfl, rfl, rfl, rfl, rfl⟩

@[simp] theorem modOut_cmds (s : State) (k : CmdKey) (f : Outstanding → Outstanding) :
    (modOut s k f).cmds = { s.cmds with outstanding := s.cmds.outstanding.map (fun x => if x.cmd.key == k then f x else x) } := rfl

@[simp] theorem dropOut_leaves (s : State) (k : CmdKey) :
    (dropOut s k).phase = s.phase ∧ (dropOut s k).sync = s.sync ∧ (dropOut s k).etch = s.etch ∧ (dropOut s k).hif = s.hif
    ∧ (dropOut s k).mem = s.mem ∧ (dropOut s k).solver = s.solver ∧ (dropOut s k).servo = s.servo
    ∧ (dropOut s k).field = s.field ∧ (dropOut s k).loops = s.loops ∧ (dropOut s k).plate = s.plate
    ∧ (dropOut s k).safety = s.safety ∧ (dropOut s k).boot = s.boot ∧ (dropOut s k).husk = s.husk
    ∧ (dropOut s k).imprints = s.imprints ∧ (dropOut s k).power = s.power ∧ (dropOut s k).ports = s.ports
    ∧ (dropOut s k).out = s.out ∧ (dropOut s k).free = s.free ∧ (dropOut s k).pending = s.pending :=
  ⟨rfl, rfl, rfl, rfl, rfl, rfl, rfl, rfl, rfl, rfl, rfl, rfl, rfl, rfl, rfl, rfl, rfl, rfl, rfl⟩

@[simp] theorem dropOut_cmds (s : State) (k : CmdKey) :
    (dropOut s k).cmds = { s.cmds with outstanding := s.cmds.outstanding.filter (fun x => x.cmd.key != k) } := rfl

@[simp] theorem modFunc_leaves (s : State) (f : Nat) (g : Func → Func) :
    (modFunc s f g).phase = s.phase ∧ (modFunc s f g).sync = s.sync ∧ (modFunc s f g).etch = s.etch ∧ (modFunc s f g).cmds = s.cmds
    ∧ (modFunc s f g).mem = s.mem ∧ (modFunc s f g).solver = s.solver ∧ (modFunc s f g).servo = s.servo
    ∧ (modFunc s f g).field = s.field ∧ (modFunc s f g).loops = s.loops ∧ (modFunc s f g).plate = s.plate
    ∧ (modFunc s f g).safety = s.safety ∧ (modFunc s f g).boot = s.boot ∧ (modFunc s f g).husk = s.husk
    ∧ (modFunc s f g).imprints = s.imprints ∧ (modFunc s f g).power = s.power ∧ (modFunc s f g).ports = s.ports
    ∧ (modFunc s f g).out = s.out ∧ (modFunc s f g).free = s.free ∧ (modFunc s f g).pending = s.pending :=
  ⟨rfl, rfl, rfl, rfl, rfl, rfl, rfl, rfl, rfl, rfl, rfl, rfl, rfl, rfl, rfl, rfl, rfl, rfl, rfl⟩

@[simp] theorem modFunc_hif (s : State) (f : Nat) (g : Func → Func) :
    (modFunc s f g).hif = { s.hif with funcs := s.hif.funcs.modify f g } := rfl

@[simp] theorem emit_leaves (s : State) (o : Output) :
    (emit s o).phase = s.phase ∧ (emit s o).sync = s.sync ∧ (emit s o).etch = s.etch ∧ (emit s o).hif = s.hif
    ∧ (emit s o).cmds = s.cmds ∧ (emit s o).mem = s.mem ∧ (emit s o).solver = s.solver ∧ (emit s o).servo = s.servo
    ∧ (emit s o).field = s.field ∧ (emit s o).loops = s.loops ∧ (emit s o).plate = s.plate ∧ (emit s o).safety = s.safety
    ∧ (emit s o).boot = s.boot ∧ (emit s o).husk = s.husk ∧ (emit s o).imprints = s.imprints ∧ (emit s o).power = s.power
    ∧ (emit s o).ports = s.ports ∧ (emit s o).free = s.free ∧ (emit s o).pending = s.pending :=
  ⟨rfl, rfl, rfl, rfl, rfl, rfl, rfl, rfl, rfl, rfl, rfl, rfl, rfl, rfl, rfl, rfl, rfl, rfl, rfl⟩

@[simp] theorem emit_out (s : State) (o : Output) :
    (emit s o).out = s.out ++ [o] := rfl

@[simp] theorem i3cSelect_leaves (s : State) (block offset : Nat) :
    (i3cSelect s block offset).phase = s.phase ∧ (i3cSelect s block offset).sync = s.sync ∧ (i3cSelect s block offset).etch = s.etch
    ∧ (i3cSelect s block offset).hif = s.hif ∧ (i3cSelect s block offset).cmds = s.cmds ∧ (i3cSelect s block offset).mem = s.mem
    ∧ (i3cSelect s block offset).solver = s.solver ∧ (i3cSelect s block offset).servo = s.servo
    ∧ (i3cSelect s block offset).field = s.field ∧ (i3cSelect s block offset).loops = s.loops
    ∧ (i3cSelect s block offset).plate = s.plate ∧ (i3cSelect s block offset).safety = s.safety
    ∧ (i3cSelect s block offset).boot = s.boot ∧ (i3cSelect s block offset).husk = s.husk
    ∧ (i3cSelect s block offset).imprints = s.imprints ∧ (i3cSelect s block offset).power = s.power
    ∧ (i3cSelect s block offset).out = s.out ∧ (i3cSelect s block offset).free = s.free
    ∧ (i3cSelect s block offset).pending = s.pending :=
  ⟨rfl, rfl, rfl, rfl, rfl, rfl, rfl, rfl, rfl, rfl, rfl, rfl, rfl, rfl, rfl, rfl, rfl, rfl, rfl⟩

@[simp] theorem i3cSelect_ports (s : State) (block offset : Nat) :
    (i3cSelect s block offset).ports = { s.ports with i3c := some (block, offset) } := rfl

@[simp] theorem repairEntry_leaves (s : State) (cls failed spare : Nat) :
    (repairEntry s cls failed spare).phase = s.phase ∧ (repairEntry s cls failed spare).sync = s.sync
    ∧ (repairEntry s cls failed spare).etch = s.etch ∧ (repairEntry s cls failed spare).hif = s.hif
    ∧ (repairEntry s cls failed spare).cmds = s.cmds ∧ (repairEntry s cls failed spare).mem = s.mem
    ∧ (repairEntry s cls failed spare).solver = s.solver ∧ (repairEntry s cls failed spare).servo = s.servo
    ∧ (repairEntry s cls failed spare).field = s.field ∧ (repairEntry s cls failed spare).loops = s.loops
    ∧ (repairEntry s cls failed spare).plate = s.plate ∧ (repairEntry s cls failed spare).safety = s.safety
    ∧ (repairEntry s cls failed spare).husk = s.husk ∧ (repairEntry s cls failed spare).imprints = s.imprints
    ∧ (repairEntry s cls failed spare).power = s.power ∧ (repairEntry s cls failed spare).ports = s.ports
    ∧ (repairEntry s cls failed spare).out = s.out ∧ (repairEntry s cls failed spare).free = s.free
    ∧ (repairEntry s cls failed spare).pending = s.pending :=
  ⟨rfl, rfl, rfl, rfl, rfl, rfl, rfl, rfl, rfl, rfl, rfl, rfl, rfl, rfl, rfl, rfl, rfl, rfl, rfl⟩

@[simp] theorem repairEntry_boot (s : State) (cls failed spare : Nat) :
    (repairEntry s cls failed spare).boot = { s.boot with flash := { s.boot.flash with repair := s.boot.flash.repair ++ [(cls, failed, spare)] } } := rfl

@[simp] theorem modPs_leaves (s : State) (n : Nat) (f : PhaseSource → PhaseSource) :
    (modPs s n f).sync = s.sync ∧ (modPs s n f).etch = s.etch ∧ (modPs s n f).hif = s.hif ∧ (modPs s n f).cmds = s.cmds
    ∧ (modPs s n f).mem = s.mem ∧ (modPs s n f).solver = s.solver ∧ (modPs s n f).servo = s.servo
    ∧ (modPs s n f).field = s.field ∧ (modPs s n f).loops = s.loops ∧ (modPs s n f).plate = s.plate
    ∧ (modPs s n f).safety = s.safety ∧ (modPs s n f).boot = s.boot ∧ (modPs s n f).husk = s.husk
    ∧ (modPs s n f).imprints = s.imprints ∧ (modPs s n f).power = s.power ∧ (modPs s n f).ports = s.ports
    ∧ (modPs s n f).out = s.out ∧ (modPs s n f).free = s.free ∧ (modPs s n f).pending = s.pending :=
  ⟨rfl, rfl, rfl, rfl, rfl, rfl, rfl, rfl, rfl, rfl, rfl, rfl, rfl, rfl, rfl, rfl, rfl, rfl, rfl⟩

@[simp] theorem modPs_phase (s : State) (n : Nat) (f : PhaseSource → PhaseSource) :
    (modPs s n f).phase = (setSources s (s.phase.sources.modify n f)).phase := rfl

@[simp] theorem modSourcesOn_leaves (s : State) (inp : Nat) (types : List Nat) (f : PhaseSource → PhaseSource) :
    (modSourcesOn s inp types f).sync = s.sync ∧ (modSourcesOn s inp types f).etch = s.etch
    ∧ (modSourcesOn s inp types f).hif = s.hif ∧ (modSourcesOn s inp types f).cmds = s.cmds
    ∧ (modSourcesOn s inp types f).mem = s.mem ∧ (modSourcesOn s inp types f).solver = s.solver
    ∧ (modSourcesOn s inp types f).servo = s.servo ∧ (modSourcesOn s inp types f).field = s.field
    ∧ (modSourcesOn s inp types f).loops = s.loops ∧ (modSourcesOn s inp types f).plate = s.plate
    ∧ (modSourcesOn s inp types f).safety = s.safety ∧ (modSourcesOn s inp types f).boot = s.boot
    ∧ (modSourcesOn s inp types f).husk = s.husk ∧ (modSourcesOn s inp types f).imprints = s.imprints
    ∧ (modSourcesOn s inp types f).power = s.power ∧ (modSourcesOn s inp types f).ports = s.ports
    ∧ (modSourcesOn s inp types f).out = s.out ∧ (modSourcesOn s inp types f).free = s.free
    ∧ (modSourcesOn s inp types f).pending = s.pending :=
  ⟨rfl, rfl, rfl, rfl, rfl, rfl, rfl, rfl, rfl, rfl, rfl, rfl, rfl, rfl, rfl, rfl, rfl, rfl, rfl⟩

@[simp] theorem modSourcesOn_phase (s : State) (inp : Nat) (types : List Nat) (f : PhaseSource → PhaseSource) :
    (modSourcesOn s inp types f).phase = (setSources s (s.phase.sources.map (fun p => if psInput p.cfg == inp && types.contains (psType p.cfg) then f p else p))).phase := rfl

@[simp] theorem modEncoder_leaves (s : State) (n : Nat) (f : Encoder → Encoder) :
    (modEncoder s n f).phase = s.phase ∧ (modEncoder s n f).sync = s.sync ∧ (modEncoder s n f).etch = s.etch
    ∧ (modEncoder s n f).hif = s.hif ∧ (modEncoder s n f).cmds = s.cmds ∧ (modEncoder s n f).mem = s.mem
    ∧ (modEncoder s n f).solver = s.solver ∧ (modEncoder s n f).servo = s.servo ∧ (modEncoder s n f).field = s.field
    ∧ (modEncoder s n f).loops = s.loops ∧ (modEncoder s n f).plate = s.plate ∧ (modEncoder s n f).safety = s.safety
    ∧ (modEncoder s n f).boot = s.boot ∧ (modEncoder s n f).husk = s.husk ∧ (modEncoder s n f).imprints = s.imprints
    ∧ (modEncoder s n f).power = s.power ∧ (modEncoder s n f).out = s.out ∧ (modEncoder s n f).free = s.free
    ∧ (modEncoder s n f).pending = s.pending :=
  ⟨rfl, rfl, rfl, rfl, rfl, rfl, rfl, rfl, rfl, rfl, rfl, rfl, rfl, rfl, rfl, rfl, rfl, rfl, rfl⟩

@[simp] theorem modEncoder_ports (s : State) (n : Nat) (f : Encoder → Encoder) :
    (modEncoder s n f).ports = { s.ports with encoders := s.ports.encoders.modify n f } := rfl

@[simp] theorem modEngine_leaves (s : State) (n : Nat) (f : Engine → Engine) :
    (modEngine s n f).phase = s.phase ∧ (modEngine s n f).sync = s.sync ∧ (modEngine s n f).etch = s.etch
    ∧ (modEngine s n f).hif = s.hif ∧ (modEngine s n f).cmds = s.cmds ∧ (modEngine s n f).mem = s.mem
    ∧ (modEngine s n f).servo = s.servo ∧ (modEngine s n f).field = s.field ∧ (modEngine s n f).loops = s.loops
    ∧ (modEngine s n f).plate = s.plate ∧ (modEngine s n f).safety = s.safety ∧ (modEngine s n f).boot = s.boot
    ∧ (modEngine s n f).husk = s.husk ∧ (modEngine s n f).imprints = s.imprints ∧ (modEngine s n f).power = s.power
    ∧ (modEngine s n f).ports = s.ports ∧ (modEngine s n f).out = s.out ∧ (modEngine s n f).free = s.free
    ∧ (modEngine s n f).pending = s.pending :=
  ⟨rfl, rfl, rfl, rfl, rfl, rfl, rfl, rfl, rfl, rfl, rfl, rfl, rfl, rfl, rfl, rfl, rfl, rfl, rfl⟩

@[simp] theorem modEngine_solver (s : State) (n : Nat) (f : Engine → Engine) :
    (modEngine s n f).solver = { s.solver with engines := s.solver.engines.modify n f } := rfl

@[simp] theorem modSlot_leaves (s : State) (e n : Nat) (f : Slot → Slot) :
    (modSlot s e n f).phase = s.phase ∧ (modSlot s e n f).sync = s.sync ∧ (modSlot s e n f).etch = s.etch
    ∧ (modSlot s e n f).hif = s.hif ∧ (modSlot s e n f).cmds = s.cmds ∧ (modSlot s e n f).mem = s.mem
    ∧ (modSlot s e n f).servo = s.servo ∧ (modSlot s e n f).field = s.field ∧ (modSlot s e n f).loops = s.loops
    ∧ (modSlot s e n f).plate = s.plate ∧ (modSlot s e n f).safety = s.safety ∧ (modSlot s e n f).boot = s.boot
    ∧ (modSlot s e n f).husk = s.husk ∧ (modSlot s e n f).imprints = s.imprints ∧ (modSlot s e n f).power = s.power
    ∧ (modSlot s e n f).ports = s.ports ∧ (modSlot s e n f).out = s.out ∧ (modSlot s e n f).free = s.free
    ∧ (modSlot s e n f).pending = s.pending :=
  ⟨rfl, rfl, rfl, rfl, rfl, rfl, rfl, rfl, rfl, rfl, rfl, rfl, rfl, rfl, rfl, rfl, rfl, rfl, rfl⟩

@[simp] theorem modSlot_solver (s : State) (e n : Nat) (f : Slot → Slot) :
    (modSlot s e n f).solver = (modEngine s e (fun x => { x with slots := x.slots.modify n f })).solver := rfl

@[simp] theorem modEtch_leaves (s : State) (id : Nat) (f : Etch → Etch) :
    (modEtch s id f).phase = s.phase ∧ (modEtch s id f).sync = s.sync ∧ (modEtch s id f).hif = s.hif
    ∧ (modEtch s id f).cmds = s.cmds ∧ (modEtch s id f).mem = s.mem ∧ (modEtch s id f).solver = s.solver
    ∧ (modEtch s id f).servo = s.servo ∧ (modEtch s id f).field = s.field ∧ (modEtch s id f).loops = s.loops
    ∧ (modEtch s id f).plate = s.plate ∧ (modEtch s id f).safety = s.safety ∧ (modEtch s id f).boot = s.boot
    ∧ (modEtch s id f).husk = s.husk ∧ (modEtch s id f).imprints = s.imprints ∧ (modEtch s id f).power = s.power
    ∧ (modEtch s id f).ports = s.ports ∧ (modEtch s id f).out = s.out ∧ (modEtch s id f).free = s.free
    ∧ (modEtch s id f).pending = s.pending :=
  ⟨rfl, rfl, rfl, rfl, rfl, rfl, rfl, rfl, rfl, rfl, rfl, rfl, rfl, rfl, rfl, rfl, rfl, rfl, rfl⟩

@[simp] theorem modEtch_etch (s : State) (id : Nat) (f : Etch → Etch) :
    (modEtch s id f).etch = { s.etch with etches := s.etch.etches.map (fun e => if e.id == id then f e else e) } := rfl

@[simp] theorem setEtch_leaves (s : State) (id : Nat) (p : EtchPhase) :
    (setEtch s id p).phase = s.phase ∧ (setEtch s id p).sync = s.sync ∧ (setEtch s id p).hif = s.hif
    ∧ (setEtch s id p).cmds = s.cmds ∧ (setEtch s id p).mem = s.mem ∧ (setEtch s id p).solver = s.solver
    ∧ (setEtch s id p).servo = s.servo ∧ (setEtch s id p).field = s.field ∧ (setEtch s id p).loops = s.loops
    ∧ (setEtch s id p).plate = s.plate ∧ (setEtch s id p).safety = s.safety ∧ (setEtch s id p).boot = s.boot
    ∧ (setEtch s id p).husk = s.husk ∧ (setEtch s id p).imprints = s.imprints ∧ (setEtch s id p).power = s.power
    ∧ (setEtch s id p).ports = s.ports ∧ (setEtch s id p).out = s.out ∧ (setEtch s id p).free = s.free
    ∧ (setEtch s id p).pending = s.pending :=
  ⟨rfl, rfl, rfl, rfl, rfl, rfl, rfl, rfl, rfl, rfl, rfl, rfl, rfl, rfl, rfl, rfl, rfl, rfl, rfl⟩

@[simp] theorem setEtch_etch (s : State) (id : Nat) (p : EtchPhase) :
    (setEtch s id p).etch = (modEtch s id (fun e => { e with st := p, changed := now s })).etch := rfl

@[simp] theorem modFlash_leaves (s : State) (f : Flash → Flash) :
    (modFlash s f).phase = s.phase ∧ (modFlash s f).sync = s.sync ∧ (modFlash s f).etch = s.etch ∧ (modFlash s f).hif = s.hif
    ∧ (modFlash s f).cmds = s.cmds ∧ (modFlash s f).mem = s.mem ∧ (modFlash s f).solver = s.solver
    ∧ (modFlash s f).servo = s.servo ∧ (modFlash s f).field = s.field ∧ (modFlash s f).loops = s.loops
    ∧ (modFlash s f).plate = s.plate ∧ (modFlash s f).safety = s.safety ∧ (modFlash s f).husk = s.husk
    ∧ (modFlash s f).imprints = s.imprints ∧ (modFlash s f).power = s.power ∧ (modFlash s f).ports = s.ports
    ∧ (modFlash s f).out = s.out ∧ (modFlash s f).free = s.free ∧ (modFlash s f).pending = s.pending :=
  ⟨rfl, rfl, rfl, rfl, rfl, rfl, rfl, rfl, rfl, rfl, rfl, rfl, rfl, rfl, rfl, rfl, rfl, rfl, rfl⟩

@[simp] theorem modFlash_boot (s : State) (f : Flash → Flash) :
    (modFlash s f).boot = { s.boot with flash := f s.boot.flash } := rfl

@[simp] theorem setImage_leaves (s : State) (kind : Nat) (b : Bool) (x : Bytes) :
    (setImage s kind b x).phase = s.phase ∧ (setImage s kind b x).sync = s.sync ∧ (setImage s kind b x).etch = s.etch
    ∧ (setImage s kind b x).hif = s.hif ∧ (setImage s kind b x).cmds = s.cmds ∧ (setImage s kind b x).mem = s.mem
    ∧ (setImage s kind b x).solver = s.solver ∧ (setImage s kind b x).servo = s.servo ∧ (setImage s kind b x).field = s.field
    ∧ (setImage s kind b x).loops = s.loops ∧ (setImage s kind b x).plate = s.plate ∧ (setImage s kind b x).safety = s.safety
    ∧ (setImage s kind b x).husk = s.husk ∧ (setImage s kind b x).imprints = s.imprints ∧ (setImage s kind b x).power = s.power
    ∧ (setImage s kind b x).ports = s.ports ∧ (setImage s kind b x).out = s.out ∧ (setImage s kind b x).free = s.free
    ∧ (setImage s kind b x).pending = s.pending :=
  ⟨rfl, rfl, rfl, rfl, rfl, rfl, rfl, rfl, rfl, rfl, rfl, rfl, rfl, rfl, rfl, rfl, rfl, rfl, rfl⟩

@[simp] theorem setImage_boot (s : State) (kind : Nat) (b : Bool) (x : Bytes) :
    (setImage s kind b x).boot = (modFlash s (fun f => match kind with | 2 => if b then { f with shellB := x } else { f with shellA := x } | 3 => if b then { f with mainB := x } else { f with mainA := x } | _ => if b then { f with protB := x } else { f with protA := x })).boot := rfl

@[simp] theorem setSelector_leaves (s : State) (kind : Nat) (b : Bool) :
    (setSelector s kind b).phase = s.phase ∧ (setSelector s kind b).sync = s.sync ∧ (setSelector s kind b).etch = s.etch
    ∧ (setSelector s kind b).hif = s.hif ∧ (setSelector s kind b).cmds = s.cmds ∧ (setSelector s kind b).mem = s.mem
    ∧ (setSelector s kind b).solver = s.solver ∧ (setSelector s kind b).servo = s.servo ∧ (setSelector s kind b).field = s.field
    ∧ (setSelector s kind b).loops = s.loops ∧ (setSelector s kind b).plate = s.plate ∧ (setSelector s kind b).safety = s.safety
    ∧ (setSelector s kind b).husk = s.husk ∧ (setSelector s kind b).imprints = s.imprints
    ∧ (setSelector s kind b).power = s.power ∧ (setSelector s kind b).ports = s.ports ∧ (setSelector s kind b).out = s.out
    ∧ (setSelector s kind b).free = s.free ∧ (setSelector s kind b).pending = s.pending :=
  ⟨rfl, rfl, rfl, rfl, rfl, rfl, rfl, rfl, rfl, rfl, rfl, rfl, rfl, rfl, rfl, rfl, rfl, rfl, rfl⟩

@[simp] theorem setSelector_boot (s : State) (kind : Nat) (b : Bool) :
    (setSelector s kind b).boot = (modFlash s (fun f => match kind with | 2 => { f with selShell := b } | 3 => { f with selMain := b } | _ => { f with selProt := b })).boot := rfl

@[simp] theorem modCan_leaves (s : State) (n : Nat) (f : CanPort → CanPort) :
    (modCan s n f).phase = s.phase ∧ (modCan s n f).sync = s.sync ∧ (modCan s n f).etch = s.etch ∧ (modCan s n f).hif = s.hif
    ∧ (modCan s n f).cmds = s.cmds ∧ (modCan s n f).mem = s.mem ∧ (modCan s n f).solver = s.solver
    ∧ (modCan s n f).servo = s.servo ∧ (modCan s n f).field = s.field ∧ (modCan s n f).loops = s.loops
    ∧ (modCan s n f).plate = s.plate ∧ (modCan s n f).safety = s.safety ∧ (modCan s n f).boot = s.boot
    ∧ (modCan s n f).husk = s.husk ∧ (modCan s n f).imprints = s.imprints ∧ (modCan s n f).power = s.power
    ∧ (modCan s n f).out = s.out ∧ (modCan s n f).free = s.free ∧ (modCan s n f).pending = s.pending :=
  ⟨rfl, rfl, rfl, rfl, rfl, rfl, rfl, rfl, rfl, rfl, rfl, rfl, rfl, rfl, rfl, rfl, rfl, rfl, rfl⟩

@[simp] theorem modCan_ports (s : State) (n : Nat) (f : CanPort → CanPort) :
    (modCan s n f).ports = { s.ports with can := s.ports.can.modify n f } := rfl

@[simp] theorem setRun_leaves (s : State) (p : Nat) (r : RouteRun) :
    (setRun s p r).phase = s.phase ∧ (setRun s p r).sync = s.sync ∧ (setRun s p r).etch = s.etch ∧ (setRun s p r).hif = s.hif
    ∧ (setRun s p r).cmds = s.cmds ∧ (setRun s p r).mem = s.mem ∧ (setRun s p r).solver = s.solver
    ∧ (setRun s p r).servo = s.servo ∧ (setRun s p r).loops = s.loops ∧ (setRun s p r).plate = s.plate
    ∧ (setRun s p r).safety = s.safety ∧ (setRun s p r).boot = s.boot ∧ (setRun s p r).husk = s.husk
    ∧ (setRun s p r).imprints = s.imprints ∧ (setRun s p r).power = s.power ∧ (setRun s p r).ports = s.ports
    ∧ (setRun s p r).out = s.out ∧ (setRun s p r).free = s.free ∧ (setRun s p r).pending = s.pending :=
  ⟨rfl, rfl, rfl, rfl, rfl, rfl, rfl, rfl, rfl, rfl, rfl, rfl, rfl, rfl, rfl, rfl, rfl, rfl, rfl⟩

@[simp] theorem setRun_field (s : State) (p : Nat) (r : RouteRun) :
    (setRun s p r).field = (modPart s p (fun x => { x with run := some r })).field := rfl

@[simp] theorem bumpEpoch_leaves (s : State) (p : Nat) :
    (bumpEpoch s p).phase = s.phase ∧ (bumpEpoch s p).sync = s.sync ∧ (bumpEpoch s p).etch = s.etch ∧ (bumpEpoch s p).hif = s.hif
    ∧ (bumpEpoch s p).cmds = s.cmds ∧ (bumpEpoch s p).mem = s.mem ∧ (bumpEpoch s p).solver = s.solver
    ∧ (bumpEpoch s p).servo = s.servo ∧ (bumpEpoch s p).loops = s.loops ∧ (bumpEpoch s p).plate = s.plate
    ∧ (bumpEpoch s p).safety = s.safety ∧ (bumpEpoch s p).boot = s.boot ∧ (bumpEpoch s p).husk = s.husk
    ∧ (bumpEpoch s p).imprints = s.imprints ∧ (bumpEpoch s p).power = s.power ∧ (bumpEpoch s p).ports = s.ports
    ∧ (bumpEpoch s p).out = s.out ∧ (bumpEpoch s p).free = s.free ∧ (bumpEpoch s p).pending = s.pending :=
  ⟨rfl, rfl, rfl, rfl, rfl, rfl, rfl, rfl, rfl, rfl, rfl, rfl, rfl, rfl, rfl, rfl, rfl, rfl, rfl⟩

@[simp] theorem bumpEpoch_field (s : State) (p : Nat) :
    (bumpEpoch s p).field = (modPart s p (fun x => { x with epoch := x.epoch + 1 })).field := rfl

@[simp] theorem modStream_leaves (s : State) (n : Nat) (f : Stream → Stream) :
    (modStream s n f).phase = s.phase ∧ (modStream s n f).sync = s.sync ∧ (modStream s n f).etch = s.etch
    ∧ (modStream s n f).hif = s.hif ∧ (modStream s n f).cmds = s.cmds ∧ (modStream s n f).mem = s.mem
    ∧ (modStream s n f).solver = s.solver ∧ (modStream s n f).servo = s.servo ∧ (modStream s n f).field = s.field
    ∧ (modStream s n f).loops = s.loops ∧ (modStream s n f).plate = s.plate ∧ (modStream s n f).safety = s.safety
    ∧ (modStream s n f).boot = s.boot ∧ (modStream s n f).husk = s.husk ∧ (modStream s n f).imprints = s.imprints
    ∧ (modStream s n f).power = s.power ∧ (modStream s n f).out = s.out ∧ (modStream s n f).free = s.free
    ∧ (modStream s n f).pending = s.pending :=
  ⟨rfl, rfl, rfl, rfl, rfl, rfl, rfl, rfl, rfl, rfl, rfl, rfl, rfl, rfl, rfl, rfl, rfl, rfl, rfl⟩

@[simp] theorem modStream_ports (s : State) (n : Nat) (f : Stream → Stream) :
    (modStream s n f).ports = { s.ports with streams := s.ports.streams.modify n f } := rfl

@[simp] theorem modMac_leaves (s : State) (m : Nat) (f : Mac → Mac) :
    (modMac s m f).phase = s.phase ∧ (modMac s m f).sync = s.sync ∧ (modMac s m f).etch = s.etch ∧ (modMac s m f).hif = s.hif
    ∧ (modMac s m f).cmds = s.cmds ∧ (modMac s m f).mem = s.mem ∧ (modMac s m f).solver = s.solver
    ∧ (modMac s m f).servo = s.servo ∧ (modMac s m f).field = s.field ∧ (modMac s m f).loops = s.loops
    ∧ (modMac s m f).plate = s.plate ∧ (modMac s m f).safety = s.safety ∧ (modMac s m f).boot = s.boot
    ∧ (modMac s m f).husk = s.husk ∧ (modMac s m f).imprints = s.imprints ∧ (modMac s m f).power = s.power
    ∧ (modMac s m f).out = s.out ∧ (modMac s m f).free = s.free ∧ (modMac s m f).pending = s.pending :=
  ⟨rfl, rfl, rfl, rfl, rfl, rfl, rfl, rfl, rfl, rfl, rfl, rfl, rfl, rfl, rfl, rfl, rfl, rfl, rfl⟩

@[simp] theorem modMac_ports (s : State) (m : Nat) (f : Mac → Mac) :
    (modMac s m f).ports = { s.ports with macs := s.ports.macs.modify m f } := rfl

@[simp] theorem modPeer_leaves (s : State) (f : Peer → Peer) :
    (modPeer s f).phase = s.phase ∧ (modPeer s f).sync = s.sync ∧ (modPeer s f).etch = s.etch ∧ (modPeer s f).hif = s.hif
    ∧ (modPeer s f).cmds = s.cmds ∧ (modPeer s f).mem = s.mem ∧ (modPeer s f).solver = s.solver ∧ (modPeer s f).servo = s.servo
    ∧ (modPeer s f).field = s.field ∧ (modPeer s f).loops = s.loops ∧ (modPeer s f).plate = s.plate
    ∧ (modPeer s f).safety = s.safety ∧ (modPeer s f).boot = s.boot ∧ (modPeer s f).husk = s.husk
    ∧ (modPeer s f).imprints = s.imprints ∧ (modPeer s f).power = s.power ∧ (modPeer s f).out = s.out
    ∧ (modPeer s f).free = s.free ∧ (modPeer s f).pending = s.pending :=
  ⟨rfl, rfl, rfl, rfl, rfl, rfl, rfl, rfl, rfl, rfl, rfl, rfl, rfl, rfl, rfl, rfl, rfl, rfl, rfl⟩

@[simp] theorem modPeer_ports (s : State) (f : Peer → Peer) :
    (modPeer s f).ports = { s.ports with peer := f s.ports.peer } := rfl

@[simp] theorem modPort_leaves (s : State) (p : Nat) (f : PeerPort → PeerPort) :
    (modPort s p f).phase = s.phase ∧ (modPort s p f).sync = s.sync ∧ (modPort s p f).etch = s.etch ∧ (modPort s p f).hif = s.hif
    ∧ (modPort s p f).cmds = s.cmds ∧ (modPort s p f).mem = s.mem ∧ (modPort s p f).solver = s.solver
    ∧ (modPort s p f).servo = s.servo ∧ (modPort s p f).field = s.field ∧ (modPort s p f).loops = s.loops
    ∧ (modPort s p f).plate = s.plate ∧ (modPort s p f).safety = s.safety ∧ (modPort s p f).boot = s.boot
    ∧ (modPort s p f).husk = s.husk ∧ (modPort s p f).imprints = s.imprints ∧ (modPort s p f).power = s.power
    ∧ (modPort s p f).out = s.out ∧ (modPort s p f).free = s.free ∧ (modPort s p f).pending = s.pending :=
  ⟨rfl, rfl, rfl, rfl, rfl, rfl, rfl, rfl, rfl, rfl, rfl, rfl, rfl, rfl, rfl, rfl, rfl, rfl, rfl⟩

@[simp] theorem modPort_ports (s : State) (p : Nat) (f : PeerPort → PeerPort) :
    (modPort s p f).ports = (modPeer s (fun x => { x with ports := x.ports.modify p f })).ports := rfl

@[simp] theorem dropPeerTransfer_leaves (s : State) (id : BitVec 16) :
    (dropPeerTransfer s id).phase = s.phase ∧ (dropPeerTransfer s id).sync = s.sync ∧ (dropPeerTransfer s id).etch = s.etch
    ∧ (dropPeerTransfer s id).hif = s.hif ∧ (dropPeerTransfer s id).cmds = s.cmds ∧ (dropPeerTransfer s id).mem = s.mem
    ∧ (dropPeerTransfer s id).solver = s.solver ∧ (dropPeerTransfer s id).servo = s.servo
    ∧ (dropPeerTransfer s id).field = s.field ∧ (dropPeerTransfer s id).loops = s.loops
    ∧ (dropPeerTransfer s id).plate = s.plate ∧ (dropPeerTransfer s id).safety = s.safety
    ∧ (dropPeerTransfer s id).boot = s.boot ∧ (dropPeerTransfer s id).husk = s.husk
    ∧ (dropPeerTransfer s id).imprints = s.imprints ∧ (dropPeerTransfer s id).power = s.power
    ∧ (dropPeerTransfer s id).out = s.out ∧ (dropPeerTransfer s id).free = s.free ∧ (dropPeerTransfer s id).pending = s.pending :=
  ⟨rfl, rfl, rfl, rfl, rfl, rfl, rfl, rfl, rfl, rfl, rfl, rfl, rfl, rfl, rfl, rfl, rfl, rfl, rfl⟩

@[simp] theorem dropPeerTransfer_ports (s : State) (id : BitVec 16) :
    (dropPeerTransfer s id).ports = (modPeer s (fun p => { p with transfers := p.transfers.filter (fun x => x.id != id), messages := p.messages.filter (fun m => m.transfer != id) })).ports := rfl

@[simp] theorem modTest_leaves (s : State) (cls unit : Nat) (f : UnitTest → UnitTest) :
    (modTest s cls unit f).phase = s.phase ∧ (modTest s cls unit f).sync = s.sync ∧ (modTest s cls unit f).etch = s.etch
    ∧ (modTest s cls unit f).hif = s.hif ∧ (modTest s cls unit f).cmds = s.cmds ∧ (modTest s cls unit f).mem = s.mem
    ∧ (modTest s cls unit f).solver = s.solver ∧ (modTest s cls unit f).servo = s.servo ∧ (modTest s cls unit f).field = s.field
    ∧ (modTest s cls unit f).loops = s.loops ∧ (modTest s cls unit f).safety = s.safety ∧ (modTest s cls unit f).boot = s.boot
    ∧ (modTest s cls unit f).husk = s.husk ∧ (modTest s cls unit f).imprints = s.imprints
    ∧ (modTest s cls unit f).power = s.power ∧ (modTest s cls unit f).ports = s.ports ∧ (modTest s cls unit f).out = s.out
    ∧ (modTest s cls unit f).free = s.free ∧ (modTest s cls unit f).pending = s.pending :=
  ⟨rfl, rfl, rfl, rfl, rfl, rfl, rfl, rfl, rfl, rfl, rfl, rfl, rfl, rfl, rfl, rfl, rfl, rfl, rfl⟩

@[simp] theorem modTest_plate (s : State) (cls unit : Nat) (f : UnitTest → UnitTest) :
    (modTest s cls unit f).plate = match cls with | 0 => { s.plate with sectorTests := s.plate.sectorTests.modify unit f } | 1 => { s.plate with engineTests := s.plate.engineTests.modify unit f } | _ => { s.plate with sliceTests := s.plate.sliceTests.modify unit f } := rfl

@[simp] theorem setUnit_leaves (s : State) (u : Nat) (v : BitVec 2) :
    (setUnit s u v).phase = s.phase ∧ (setUnit s u v).sync = s.sync ∧ (setUnit s u v).etch = s.etch ∧ (setUnit s u v).hif = s.hif
    ∧ (setUnit s u v).cmds = s.cmds ∧ (setUnit s u v).mem = s.mem ∧ (setUnit s u v).solver = s.solver
    ∧ (setUnit s u v).servo = s.servo ∧ (setUnit s u v).field = s.field ∧ (setUnit s u v).loops = s.loops
    ∧ (setUnit s u v).plate = s.plate ∧ (setUnit s u v).safety = s.safety ∧ (setUnit s u v).boot = s.boot
    ∧ (setUnit s u v).husk = s.husk ∧ (setUnit s u v).imprints = s.imprints ∧ (setUnit s u v).ports = s.ports
    ∧ (setUnit s u v).out = s.out ∧ (setUnit s u v).free = s.free ∧ (setUnit s u v).pending = s.pending :=
  ⟨rfl, rfl, rfl, rfl, rfl, rfl, rfl, rfl, rfl, rfl, rfl, rfl, rfl, rfl, rfl, rfl, rfl, rfl, rfl⟩

@[simp] theorem modSector_leaves (s : State) (n : Nat) (f : Sector → Sector) :
    (modSector s n f).phase = s.phase ∧ (modSector s n f).sync = s.sync ∧ (modSector s n f).etch = s.etch
    ∧ (modSector s n f).hif = s.hif ∧ (modSector s n f).cmds = s.cmds ∧ (modSector s n f).mem = s.mem
    ∧ (modSector s n f).solver = s.solver ∧ (modSector s n f).servo = s.servo ∧ (modSector s n f).loops = s.loops
    ∧ (modSector s n f).plate = s.plate ∧ (modSector s n f).safety = s.safety ∧ (modSector s n f).boot = s.boot
    ∧ (modSector s n f).husk = s.husk ∧ (modSector s n f).imprints = s.imprints ∧ (modSector s n f).power = s.power
    ∧ (modSector s n f).ports = s.ports ∧ (modSector s n f).out = s.out ∧ (modSector s n f).free = s.free
    ∧ (modSector s n f).pending = s.pending :=
  ⟨rfl, rfl, rfl, rfl, rfl, rfl, rfl, rfl, rfl, rfl, rfl, rfl, rfl, rfl, rfl, rfl, rfl, rfl, rfl⟩

@[simp] theorem modSector_field (s : State) (n : Nat) (f : Sector → Sector) :
    (modSector s n f).field = { s.field with sectors := s.field.sectors.modify n f } := rfl

@[simp] theorem modGroup_leaves (s : State) (g : Nat) (f : Group → Group) :
    (modGroup s g f).phase = s.phase ∧ (modGroup s g f).sync = s.sync ∧ (modGroup s g f).etch = s.etch
    ∧ (modGroup s g f).hif = s.hif ∧ (modGroup s g f).cmds = s.cmds ∧ (modGroup s g f).mem = s.mem
    ∧ (modGroup s g f).solver = s.solver ∧ (modGroup s g f).field = s.field ∧ (modGroup s g f).loops = s.loops
    ∧ (modGroup s g f).plate = s.plate ∧ (modGroup s g f).safety = s.safety ∧ (modGroup s g f).boot = s.boot
    ∧ (modGroup s g f).husk = s.husk ∧ (modGroup s g f).imprints = s.imprints ∧ (modGroup s g f).power = s.power
    ∧ (modGroup s g f).ports = s.ports ∧ (modGroup s g f).out = s.out ∧ (modGroup s g f).free = s.free
    ∧ (modGroup s g f).pending = s.pending :=
  ⟨rfl, rfl, rfl, rfl, rfl, rfl, rfl, rfl, rfl, rfl, rfl, rfl, rfl, rfl, rfl, rfl, rfl, rfl, rfl⟩

@[simp] theorem modGroup_servo (s : State) (g : Nat) (f : Group → Group) :
    (modGroup s g f).servo = { s.servo with groups := s.servo.groups.modify g f } := rfl

@[simp] theorem mapChannels_leaves (s : State) (f : Nat → Channel → Channel) :
    (mapChannels s f).phase = s.phase ∧ (mapChannels s f).sync = s.sync ∧ (mapChannels s f).etch = s.etch
    ∧ (mapChannels s f).hif = s.hif ∧ (mapChannels s f).cmds = s.cmds ∧ (mapChannels s f).mem = s.mem
    ∧ (mapChannels s f).solver = s.solver ∧ (mapChannels s f).field = s.field ∧ (mapChannels s f).loops = s.loops
    ∧ (mapChannels s f).plate = s.plate ∧ (mapChannels s f).safety = s.safety ∧ (mapChannels s f).boot = s.boot
    ∧ (mapChannels s f).husk = s.husk ∧ (mapChannels s f).imprints = s.imprints ∧ (mapChannels s f).power = s.power
    ∧ (mapChannels s f).ports = s.ports ∧ (mapChannels s f).out = s.out ∧ (mapChannels s f).free = s.free
    ∧ (mapChannels s f).pending = s.pending :=
  ⟨rfl, rfl, rfl, rfl, rfl, rfl, rfl, rfl, rfl, rfl, rfl, rfl, rfl, rfl, rfl, rfl, rfl, rfl, rfl⟩

@[simp] theorem mapChannels_servo (s : State) (f : Nat → Channel → Channel) :
    (mapChannels s f).servo = { s.servo with channels := (List.range s.servo.channels.length).map (fun i => f i (s.servo.channels.getD i Channel.reset)) } := rfl

@[simp] theorem modPart_leaves (s : State) (p : Nat) (f : Partition → Partition) :
    (modPart s p f).phase = s.phase ∧ (modPart s p f).sync = s.sync ∧ (modPart s p f).etch = s.etch ∧ (modPart s p f).hif = s.hif
    ∧ (modPart s p f).cmds = s.cmds ∧ (modPart s p f).mem = s.mem ∧ (modPart s p f).solver = s.solver
    ∧ (modPart s p f).servo = s.servo ∧ (modPart s p f).loops = s.loops ∧ (modPart s p f).plate = s.plate
    ∧ (modPart s p f).safety = s.safety ∧ (modPart s p f).boot = s.boot ∧ (modPart s p f).husk = s.husk
    ∧ (modPart s p f).imprints = s.imprints ∧ (modPart s p f).power = s.power ∧ (modPart s p f).ports = s.ports
    ∧ (modPart s p f).out = s.out ∧ (modPart s p f).free = s.free ∧ (modPart s p f).pending = s.pending :=
  ⟨rfl, rfl, rfl, rfl, rfl, rfl, rfl, rfl, rfl, rfl, rfl, rfl, rfl, rfl, rfl, rfl, rfl, rfl, rfl⟩

@[simp] theorem modPart_field (s : State) (p : Nat) (f : Partition → Partition) :
    (modPart s p f).field = { s.field with parts := s.field.parts.modify p f } := rfl

@[simp] theorem setLoop_leaves (s : State) (l : Loop) :
    (setLoop s l).phase = s.phase ∧ (setLoop s l).sync = s.sync ∧ (setLoop s l).etch = s.etch ∧ (setLoop s l).hif = s.hif
    ∧ (setLoop s l).cmds = s.cmds ∧ (setLoop s l).mem = s.mem ∧ (setLoop s l).solver = s.solver ∧ (setLoop s l).servo = s.servo
    ∧ (setLoop s l).field = s.field ∧ (setLoop s l).plate = s.plate ∧ (setLoop s l).safety = s.safety
    ∧ (setLoop s l).boot = s.boot ∧ (setLoop s l).husk = s.husk ∧ (setLoop s l).imprints = s.imprints
    ∧ (setLoop s l).power = s.power ∧ (setLoop s l).ports = s.ports ∧ (setLoop s l).out = s.out ∧ (setLoop s l).free = s.free
    ∧ (setLoop s l).pending = s.pending :=
  ⟨rfl, rfl, rfl, rfl, rfl, rfl, rfl, rfl, rfl, rfl, rfl, rfl, rfl, rfl, rfl, rfl, rfl, rfl, rfl⟩

@[simp] theorem setLoop_loops (s : State) (l : Loop) :
    (setLoop s l).loops = s.loops.map (fun x => if x.part == l.part then l else x) := rfl

@[simp] theorem modNet_leaves (s : State) (f : ServoNet → ServoNet) :
    (modNet s f).phase = s.phase ∧ (modNet s f).sync = s.sync ∧ (modNet s f).etch = s.etch ∧ (modNet s f).hif = s.hif
    ∧ (modNet s f).cmds = s.cmds ∧ (modNet s f).mem = s.mem ∧ (modNet s f).solver = s.solver ∧ (modNet s f).field = s.field
    ∧ (modNet s f).loops = s.loops ∧ (modNet s f).plate = s.plate ∧ (modNet s f).safety = s.safety ∧ (modNet s f).boot = s.boot
    ∧ (modNet s f).husk = s.husk ∧ (modNet s f).imprints = s.imprints ∧ (modNet s f).power = s.power
    ∧ (modNet s f).ports = s.ports ∧ (modNet s f).out = s.out ∧ (modNet s f).free = s.free ∧ (modNet s f).pending = s.pending :=
  ⟨rfl, rfl, rfl, rfl, rfl, rfl, rfl, rfl, rfl, rfl, rfl, rfl, rfl, rfl, rfl, rfl, rfl, rfl, rfl⟩

@[simp] theorem modNet_servo (s : State) (f : ServoNet → ServoNet) :
    (modNet s f).servo = { s.servo with net := f s.servo.net } := rfl

@[simp] theorem modPair_leaves (s : State) (p : Nat) (f : Pair → Pair) :
    (modPair s p f).phase = s.phase ∧ (modPair s p f).sync = s.sync ∧ (modPair s p f).etch = s.etch ∧ (modPair s p f).hif = s.hif
    ∧ (modPair s p f).cmds = s.cmds ∧ (modPair s p f).mem = s.mem ∧ (modPair s p f).solver = s.solver
    ∧ (modPair s p f).field = s.field ∧ (modPair s p f).loops = s.loops ∧ (modPair s p f).plate = s.plate
    ∧ (modPair s p f).safety = s.safety ∧ (modPair s p f).boot = s.boot ∧ (modPair s p f).husk = s.husk
    ∧ (modPair s p f).imprints = s.imprints ∧ (modPair s p f).power = s.power ∧ (modPair s p f).ports = s.ports
    ∧ (modPair s p f).out = s.out ∧ (modPair s p f).free = s.free ∧ (modPair s p f).pending = s.pending :=
  ⟨rfl, rfl, rfl, rfl, rfl, rfl, rfl, rfl, rfl, rfl, rfl, rfl, rfl, rfl, rfl, rfl, rfl, rfl, rfl⟩

@[simp] theorem modPair_servo (s : State) (p : Nat) (f : Pair → Pair) :
    (modPair s p f).servo = { s.servo with pairs := s.servo.pairs.modify p f } := rfl

@[simp] theorem modChannel_leaves (s : State) (n : Nat) (f : Channel → Channel) :
    (modChannel s n f).phase = s.phase ∧ (modChannel s n f).sync = s.sync ∧ (modChannel s n f).etch = s.etch
    ∧ (modChannel s n f).hif = s.hif ∧ (modChannel s n f).cmds = s.cmds ∧ (modChannel s n f).mem = s.mem
    ∧ (modChannel s n f).solver = s.solver ∧ (modChannel s n f).field = s.field ∧ (modChannel s n f).loops = s.loops
    ∧ (modChannel s n f).plate = s.plate ∧ (modChannel s n f).safety = s.safety ∧ (modChannel s n f).boot = s.boot
    ∧ (modChannel s n f).husk = s.husk ∧ (modChannel s n f).imprints = s.imprints ∧ (modChannel s n f).power = s.power
    ∧ (modChannel s n f).ports = s.ports ∧ (modChannel s n f).out = s.out ∧ (modChannel s n f).free = s.free
    ∧ (modChannel s n f).pending = s.pending :=
  ⟨rfl, rfl, rfl, rfl, rfl, rfl, rfl, rfl, rfl, rfl, rfl, rfl, rfl, rfl, rfl, rfl, rfl, rfl, rfl⟩

@[simp] theorem modChannel_servo (s : State) (n : Nat) (f : Channel → Channel) :
    (modChannel s n f).servo = { s.servo with channels := s.servo.channels.modify n f } := rfl

@[simp] theorem modBatch_leaves (s : State) (k : CmdKey) (f : Batch → Batch) :
    (modBatch s k f).phase = s.phase ∧ (modBatch s k f).sync = s.sync ∧ (modBatch s k f).etch = s.etch
    ∧ (modBatch s k f).hif = s.hif ∧ (modBatch s k f).cmds = s.cmds ∧ (modBatch s k f).mem = s.mem
    ∧ (modBatch s k f).servo = s.servo ∧ (modBatch s k f).field = s.field ∧ (modBatch s k f).loops = s.loops
    ∧ (modBatch s k f).plate = s.plate ∧ (modBatch s k f).safety = s.safety ∧ (modBatch s k f).boot = s.boot
    ∧ (modBatch s k f).husk = s.husk ∧ (modBatch s k f).imprints = s.imprints ∧ (modBatch s k f).power = s.power
    ∧ (modBatch s k f).ports = s.ports ∧ (modBatch s k f).out = s.out ∧ (modBatch s k f).free = s.free
    ∧ (modBatch s k f).pending = s.pending :=
  ⟨rfl, rfl, rfl, rfl, rfl, rfl, rfl, rfl, rfl, rfl, rfl, rfl, rfl, rfl, rfl, rfl, rfl, rfl, rfl⟩

@[simp] theorem modBatch_solver (s : State) (k : CmdKey) (f : Batch → Batch) :
    (modBatch s k f).solver = { s.solver with batches := s.solver.batches.map (fun b => if b.cmd.key == k then f b else b) } := rfl

@[simp] theorem dropBatch_leaves (s : State) (k : CmdKey) :
    (dropBatch s k).phase = s.phase ∧ (dropBatch s k).sync = s.sync ∧ (dropBatch s k).etch = s.etch ∧ (dropBatch s k).hif = s.hif
    ∧ (dropBatch s k).cmds = s.cmds ∧ (dropBatch s k).mem = s.mem ∧ (dropBatch s k).servo = s.servo
    ∧ (dropBatch s k).field = s.field ∧ (dropBatch s k).loops = s.loops ∧ (dropBatch s k).plate = s.plate
    ∧ (dropBatch s k).safety = s.safety ∧ (dropBatch s k).boot = s.boot ∧ (dropBatch s k).husk = s.husk
    ∧ (dropBatch s k).imprints = s.imprints ∧ (dropBatch s k).power = s.power ∧ (dropBatch s k).ports = s.ports
    ∧ (dropBatch s k).out = s.out ∧ (dropBatch s k).free = s.free ∧ (dropBatch s k).pending = s.pending :=
  ⟨rfl, rfl, rfl, rfl, rfl, rfl, rfl, rfl, rfl, rfl, rfl, rfl, rfl, rfl, rfl, rfl, rfl, rfl, rfl⟩

@[simp] theorem dropBatch_solver (s : State) (k : CmdKey) :
    (dropBatch s k).solver = { s.solver with batches := s.solver.batches.filter (fun b => b.cmd.key != k) } := rfl

@[simp] theorem modLpddr_leaves (s : State) (n : Nat) (f : LpddrChannel → LpddrChannel) :
    (modLpddr s n f).phase = s.phase ∧ (modLpddr s n f).sync = s.sync ∧ (modLpddr s n f).etch = s.etch
    ∧ (modLpddr s n f).hif = s.hif ∧ (modLpddr s n f).cmds = s.cmds ∧ (modLpddr s n f).mem = s.mem
    ∧ (modLpddr s n f).solver = s.solver ∧ (modLpddr s n f).servo = s.servo ∧ (modLpddr s n f).field = s.field
    ∧ (modLpddr s n f).loops = s.loops ∧ (modLpddr s n f).plate = s.plate ∧ (modLpddr s n f).safety = s.safety
    ∧ (modLpddr s n f).boot = s.boot ∧ (modLpddr s n f).husk = s.husk ∧ (modLpddr s n f).imprints = s.imprints
    ∧ (modLpddr s n f).power = s.power ∧ (modLpddr s n f).out = s.out ∧ (modLpddr s n f).free = s.free
    ∧ (modLpddr s n f).pending = s.pending :=
  ⟨rfl, rfl, rfl, rfl, rfl, rfl, rfl, rfl, rfl, rfl, rfl, rfl, rfl, rfl, rfl, rfl, rfl, rfl, rfl⟩

@[simp] theorem modLpddr_ports (s : State) (n : Nat) (f : LpddrChannel → LpddrChannel) :
    (modLpddr s n f).ports = { s.ports with lpddr := s.ports.lpddr.modify n f } := rfl

@[simp] theorem putWord_leaves (s : State) (a i : Nat) (w : Word) :
    (putWord s a i w).phase = s.phase ∧ (putWord s a i w).sync = s.sync ∧ (putWord s a i w).etch = s.etch
    ∧ (putWord s a i w).hif = s.hif ∧ (putWord s a i w).cmds = s.cmds ∧ (putWord s a i w).solver = s.solver
    ∧ (putWord s a i w).servo = s.servo ∧ (putWord s a i w).field = s.field ∧ (putWord s a i w).loops = s.loops
    ∧ (putWord s a i w).plate = s.plate ∧ (putWord s a i w).safety = s.safety ∧ (putWord s a i w).boot = s.boot
    ∧ (putWord s a i w).husk = s.husk ∧ (putWord s a i w).imprints = s.imprints ∧ (putWord s a i w).power = s.power
    ∧ (putWord s a i w).ports = s.ports ∧ (putWord s a i w).out = s.out ∧ (putWord s a i w).free = s.free
    ∧ (putWord s a i w).pending = s.pending :=
  ⟨rfl, rfl, rfl, rfl, rfl, rfl, rfl, rfl, rfl, rfl, rfl, rfl, rfl, rfl, rfl, rfl, rfl, rfl, rfl⟩

@[simp] theorem putWord_mem (s : State) (a i : Nat) (w : Word) :
    (putWord s a i w).mem = { s.mem with dev := s.mem.dev.write (a + 4 * i) (leBytes 4 w.toNat) } := rfl

@[simp] theorem setPageState_leaves (s : State) (a v : Nat) :
    (setPageState s a v).phase = s.phase ∧ (setPageState s a v).sync = s.sync ∧ (setPageState s a v).etch = s.etch
    ∧ (setPageState s a v).hif = s.hif ∧ (setPageState s a v).cmds = s.cmds ∧ (setPageState s a v).solver = s.solver
    ∧ (setPageState s a v).servo = s.servo ∧ (setPageState s a v).field = s.field ∧ (setPageState s a v).loops = s.loops
    ∧ (setPageState s a v).plate = s.plate ∧ (setPageState s a v).safety = s.safety ∧ (setPageState s a v).boot = s.boot
    ∧ (setPageState s a v).husk = s.husk ∧ (setPageState s a v).imprints = s.imprints ∧ (setPageState s a v).power = s.power
    ∧ (setPageState s a v).ports = s.ports ∧ (setPageState s a v).out = s.out ∧ (setPageState s a v).free = s.free
    ∧ (setPageState s a v).pending = s.pending :=
  ⟨rfl, rfl, rfl, rfl, rfl, rfl, rfl, rfl, rfl, rfl, rfl, rfl, rfl, rfl, rfl, rfl, rfl, rfl, rfl⟩

@[simp] theorem setPageState_mem (s : State) (a v : Nat) :
    (setPageState s a v).mem = (putWord s a 0 (setBits (phWord s.mem a 0) 31 28 v)).mem := rfl

@[simp] theorem dropImprints_leaves (s : State) (k : CmdKey) :
    (dropImprints s k).phase = s.phase ∧ (dropImprints s k).sync = s.sync ∧ (dropImprints s k).etch = s.etch
    ∧ (dropImprints s k).hif = s.hif ∧ (dropImprints s k).cmds = s.cmds ∧ (dropImprints s k).mem = s.mem
    ∧ (dropImprints s k).solver = s.solver ∧ (dropImprints s k).servo = s.servo ∧ (dropImprints s k).field = s.field
    ∧ (dropImprints s k).loops = s.loops ∧ (dropImprints s k).plate = s.plate ∧ (dropImprints s k).safety = s.safety
    ∧ (dropImprints s k).boot = s.boot ∧ (dropImprints s k).husk = s.husk ∧ (dropImprints s k).power = s.power
    ∧ (dropImprints s k).ports = s.ports ∧ (dropImprints s k).out = s.out ∧ (dropImprints s k).free = s.free
    ∧ (dropImprints s k).pending = s.pending :=
  ⟨rfl, rfl, rfl, rfl, rfl, rfl, rfl, rfl, rfl, rfl, rfl, rfl, rfl, rfl, rfl, rfl, rfl, rfl, rfl⟩

@[simp] theorem dropImprints_imprints (s : State) (k : CmdKey) :
    (dropImprints s k).imprints = { s.imprints with started := s.imprints.started.filter (fun y => y.owner != k) } := rfl

/-! The shared operations of commands and events. -/

@[simp] theorem advance_leaves (s : State) (t : Nat) :
    (advance s t).sync = s.sync ∧ (advance s t).etch = s.etch ∧ (advance s t).hif = s.hif ∧ (advance s t).cmds = s.cmds
    ∧ (advance s t).mem = s.mem ∧ (advance s t).solver = s.solver ∧ (advance s t).servo = s.servo
    ∧ (advance s t).field = s.field ∧ (advance s t).loops = s.loops ∧ (advance s t).plate = s.plate
    ∧ (advance s t).safety = s.safety ∧ (advance s t).boot = s.boot ∧ (advance s t).husk = s.husk
    ∧ (advance s t).imprints = s.imprints ∧ (advance s t).power = s.power ∧ (advance s t).ports = s.ports
    ∧ (advance s t).out = s.out ∧ (advance s t).free = s.free ∧ (advance s t).pending = s.pending :=
  by
  refine ⟨?_, ?_, ?_, ?_, ?_, ?_, ?_, ?_, ?_, ?_, ?_, ?_, ?_, ?_, ?_, ?_, ?_, ?_, ?_⟩ <;>
    first | rfl | (unfold advance <;> (repeat' split) <;> first | rfl | simp) | simp [advance]

@[simp] theorem mailboxRespond_leaves (s : State) (f : Nat) (k : CmdKey) (r : Reply) :
    (mailboxRespond s f k r).phase = s.phase ∧ (mailboxRespond s f k r).sync = s.sync ∧ (mailboxRespond s f k r).etch = s.etch
    ∧ (mailboxRespond s f k r).cmds = s.cmds ∧ (mailboxRespond s f k r).mem = s.mem ∧ (mailboxRespond s f k r).solver = s.solver
    ∧ (mailboxRespond s f k r).servo = s.servo ∧ (mailboxRespond s f k r).field = s.field
    ∧ (mailboxRespond s f k r).loops = s.loops ∧ (mailboxRespond s f k r).plate = s.plate
    ∧ (mailboxRespond s f k r).safety = s.safety ∧ (mailboxRespond s f k r).boot = s.boot
    ∧ (mailboxRespond s f k r).husk = s.husk ∧ (mailboxRespond s f k r).imprints = s.imprints
    ∧ (mailboxRespond s f k r).power = s.power ∧ (mailboxRespond s f k r).ports = s.ports ∧ (mailboxRespond s f k r).out = s.out
    ∧ (mailboxRespond s f k r).free = s.free ∧ (mailboxRespond s f k r).pending = s.pending :=
  by
  refine ⟨?_, ?_, ?_, ?_, ?_, ?_, ?_, ?_, ?_, ?_, ?_, ?_, ?_, ?_, ?_, ?_, ?_, ?_, ?_⟩ <;>
    first | rfl | (unfold mailboxRespond <;> (repeat' split) <;> first | rfl | simp) | simp [mailboxRespond]

@[simp] theorem enqueue_leaves (s : State) (q : BitVec 18) (x : Completion) :
    (enqueue s q x).phase = s.phase ∧ (enqueue s q x).sync = s.sync ∧ (enqueue s q x).etch = s.etch ∧ (enqueue s q x).hif = s.hif
    ∧ (enqueue s q x).mem = s.mem ∧ (enqueue s q x).solver = s.solver ∧ (enqueue s q x).servo = s.servo
    ∧ (enqueue s q x).field = s.field ∧ (enqueue s q x).loops = s.loops ∧ (enqueue s q x).plate = s.plate
    ∧ (enqueue s q x).safety = s.safety ∧ (enqueue s q x).boot = s.boot ∧ (enqueue s q x).husk = s.husk
    ∧ (enqueue s q x).imprints = s.imprints ∧ (enqueue s q x).power = s.power ∧ (enqueue s q x).ports = s.ports
    ∧ (enqueue s q x).out = s.out ∧ (enqueue s q x).free = s.free ∧ (enqueue s q x).pending = s.pending :=
  by
  refine ⟨?_, ?_, ?_, ?_, ?_, ?_, ?_, ?_, ?_, ?_, ?_, ?_, ?_, ?_, ?_, ?_, ?_, ?_, ?_⟩ <;>
    first | rfl | (unfold enqueue <;> (repeat' split) <;> first | rfl | simp) | simp [enqueue]

@[simp] theorem holdCompletion_leaves (s : State) (k : CmdKey) (x : Completion) :
    (holdCompletion s k x).phase = s.phase ∧ (holdCompletion s k x).sync = s.sync ∧ (holdCompletion s k x).etch = s.etch
    ∧ (holdCompletion s k x).hif = s.hif ∧ (holdCompletion s k x).cmds = s.cmds ∧ (holdCompletion s k x).mem = s.mem
    ∧ (holdCompletion s k x).solver = s.solver ∧ (holdCompletion s k x).servo = s.servo ∧ (holdCompletion s k x).field = s.field
    ∧ (holdCompletion s k x).loops = s.loops ∧ (holdCompletion s k x).plate = s.plate ∧ (holdCompletion s k x).safety = s.safety
    ∧ (holdCompletion s k x).boot = s.boot ∧ (holdCompletion s k x).husk = s.husk ∧ (holdCompletion s k x).power = s.power
    ∧ (holdCompletion s k x).ports = s.ports ∧ (holdCompletion s k x).out = s.out ∧ (holdCompletion s k x).free = s.free
    ∧ (holdCompletion s k x).pending = s.pending :=
  by
  refine ⟨?_, ?_, ?_, ?_, ?_, ?_, ?_, ?_, ?_, ?_, ?_, ?_, ?_, ?_, ?_, ?_, ?_, ?_, ?_⟩ <;>
    first | rfl | (unfold holdCompletion <;> (repeat' split) <;> first | rfl | simp) | simp [holdCompletion]

@[simp] theorem raiseVector_leaves (s : State) (f v : Nat) :
    (raiseVector s f v).phase = s.phase ∧ (raiseVector s f v).sync = s.sync ∧ (raiseVector s f v).etch = s.etch
    ∧ (raiseVector s f v).cmds = s.cmds ∧ (raiseVector s f v).mem = s.mem ∧ (raiseVector s f v).solver = s.solver
    ∧ (raiseVector s f v).servo = s.servo ∧ (raiseVector s f v).field = s.field ∧ (raiseVector s f v).loops = s.loops
    ∧ (raiseVector s f v).plate = s.plate ∧ (raiseVector s f v).safety = s.safety ∧ (raiseVector s f v).boot = s.boot
    ∧ (raiseVector s f v).husk = s.husk ∧ (raiseVector s f v).imprints = s.imprints ∧ (raiseVector s f v).power = s.power
    ∧ (raiseVector s f v).ports = s.ports ∧ (raiseVector s f v).free = s.free ∧ (raiseVector s f v).pending = s.pending :=
  by
  refine ⟨?_, ?_, ?_, ?_, ?_, ?_, ?_, ?_, ?_, ?_, ?_, ?_, ?_, ?_, ?_, ?_, ?_, ?_⟩ <;>
    first | rfl | (unfold raiseVector <;> (repeat' split) <;> first | rfl | simp) | simp [raiseVector]

@[simp] theorem charge_leaves (s : State) (session : Option Word) (f : Counters → Counters) :
    (charge s session f).phase = s.phase ∧ (charge s session f).sync = s.sync ∧ (charge s session f).etch = s.etch
    ∧ (charge s session f).hif = s.hif ∧ (charge s session f).mem = s.mem ∧ (charge s session f).solver = s.solver
    ∧ (charge s session f).servo = s.servo ∧ (charge s session f).field = s.field ∧ (charge s session f).loops = s.loops
    ∧ (charge s session f).plate = s.plate ∧ (charge s session f).safety = s.safety ∧ (charge s session f).boot = s.boot
    ∧ (charge s session f).husk = s.husk ∧ (charge s session f).imprints = s.imprints ∧ (charge s session f).power = s.power
    ∧ (charge s session f).ports = s.ports ∧ (charge s session f).out = s.out ∧ (charge s session f).free = s.free
    ∧ (charge s session f).pending = s.pending :=
  by
  refine ⟨?_, ?_, ?_, ?_, ?_, ?_, ?_, ?_, ?_, ?_, ?_, ?_, ?_, ?_, ?_, ?_, ?_, ?_, ?_⟩ <;>
    first | rfl | (unfold charge <;> (repeat' split) <;> first | rfl | simp) | simp [charge]

@[simp] theorem markStarted_leaves (s : State) (k : CmdKey) :
    (markStarted s k).phase = s.phase ∧ (markStarted s k).sync = s.sync ∧ (markStarted s k).etch = s.etch
    ∧ (markStarted s k).hif = s.hif ∧ (markStarted s k).mem = s.mem ∧ (markStarted s k).solver = s.solver
    ∧ (markStarted s k).servo = s.servo ∧ (markStarted s k).field = s.field ∧ (markStarted s k).loops = s.loops
    ∧ (markStarted s k).plate = s.plate ∧ (markStarted s k).safety = s.safety ∧ (markStarted s k).boot = s.boot
    ∧ (markStarted s k).husk = s.husk ∧ (markStarted s k).imprints = s.imprints ∧ (markStarted s k).power = s.power
    ∧ (markStarted s k).ports = s.ports ∧ (markStarted s k).out = s.out ∧ (markStarted s k).free = s.free
    ∧ (markStarted s k).pending = s.pending :=
  by
  refine ⟨?_, ?_, ?_, ?_, ?_, ?_, ?_, ?_, ?_, ?_, ?_, ?_, ?_, ?_, ?_, ?_, ?_, ?_, ?_⟩ <;>
    first | rfl | (unfold markStarted <;> (repeat' split) <;> first | rfl | simp) | simp [markStarted]

@[simp] theorem chargeTime_leaves (s : State) (session : Option Word) (field solver : Nat) :
    (chargeTime s session field solver).phase = s.phase ∧ (chargeTime s session field solver).sync = s.sync
    ∧ (chargeTime s session field solver).etch = s.etch ∧ (chargeTime s session field solver).hif = s.hif
    ∧ (chargeTime s session field solver).mem = s.mem ∧ (chargeTime s session field solver).solver = s.solver
    ∧ (chargeTime s session field solver).servo = s.servo ∧ (chargeTime s session field solver).field = s.field
    ∧ (chargeTime s session field solver).loops = s.loops ∧ (chargeTime s session field solver).plate = s.plate
    ∧ (chargeTime s session field solver).safety = s.safety ∧ (chargeTime s session field solver).boot = s.boot
    ∧ (chargeTime s session field solver).husk = s.husk ∧ (chargeTime s session field solver).imprints = s.imprints
    ∧ (chargeTime s session field solver).power = s.power ∧ (chargeTime s session field solver).ports = s.ports
    ∧ (chargeTime s session field solver).out = s.out ∧ (chargeTime s session field solver).free = s.free
    ∧ (chargeTime s session field solver).pending = s.pending :=
  by
  refine ⟨?_, ?_, ?_, ?_, ?_, ?_, ?_, ?_, ?_, ?_, ?_, ?_, ?_, ?_, ?_, ?_, ?_, ?_, ?_⟩ <;>
    first | rfl | (unfold chargeTime <;> (repeat' split) <;> first | rfl | simp) | simp [chargeTime]

@[simp] theorem chargeHash_leaves (s : State) (session : Word) (bytes : Nat) :
    (chargeHash s session bytes).phase = s.phase ∧ (chargeHash s session bytes).sync = s.sync
    ∧ (chargeHash s session bytes).etch = s.etch ∧ (chargeHash s session bytes).hif = s.hif
    ∧ (chargeHash s session bytes).mem = s.mem ∧ (chargeHash s session bytes).solver = s.solver
    ∧ (chargeHash s session bytes).servo = s.servo ∧ (chargeHash s session bytes).field = s.field
    ∧ (chargeHash s session bytes).loops = s.loops ∧ (chargeHash s session bytes).plate = s.plate
    ∧ (chargeHash s session bytes).safety = s.safety ∧ (chargeHash s session bytes).boot = s.boot
    ∧ (chargeHash s session bytes).husk = s.husk ∧ (chargeHash s session bytes).imprints = s.imprints
    ∧ (chargeHash s session bytes).power = s.power ∧ (chargeHash s session bytes).ports = s.ports
    ∧ (chargeHash s session bytes).out = s.out ∧ (chargeHash s session bytes).free = s.free
    ∧ (chargeHash s session bytes).pending = s.pending :=
  by
  refine ⟨?_, ?_, ?_, ?_, ?_, ?_, ?_, ?_, ?_, ?_, ?_, ?_, ?_, ?_, ?_, ?_, ?_, ?_, ?_⟩ <;>
    first | rfl | (unfold chargeHash <;> (repeat' split) <;> first | rfl | simp) | simp [chargeHash]

@[simp] theorem setFlags_leaves (s : State) (p i : Nat) (f : Word) :
    (setFlags s p i f).phase = s.phase ∧ (setFlags s p i f).sync = s.sync ∧ (setFlags s p i f).etch = s.etch
    ∧ (setFlags s p i f).hif = s.hif ∧ (setFlags s p i f).cmds = s.cmds ∧ (setFlags s p i f).mem = s.mem
    ∧ (setFlags s p i f).solver = s.solver ∧ (setFlags s p i f).servo = s.servo ∧ (setFlags s p i f).loops = s.loops
    ∧ (setFlags s p i f).plate = s.plate ∧ (setFlags s p i f).safety = s.safety ∧ (setFlags s p i f).boot = s.boot
    ∧ (setFlags s p i f).husk = s.husk ∧ (setFlags s p i f).imprints = s.imprints ∧ (setFlags s p i f).power = s.power
    ∧ (setFlags s p i f).ports = s.ports ∧ (setFlags s p i f).out = s.out ∧ (setFlags s p i f).free = s.free
    ∧ (setFlags s p i f).pending = s.pending :=
  by
  refine ⟨?_, ?_, ?_, ?_, ?_, ?_, ?_, ?_, ?_, ?_, ?_, ?_, ?_, ?_, ?_, ?_, ?_, ?_, ?_⟩ <;>
    first | rfl | (unfold setFlags <;> (repeat' split) <;> first | rfl | simp) | simp [setFlags]

@[simp] theorem publishSlot_leaves (s : State) (p i q : Nat) (b : Bytes) (t : Tile) (last : Bool) :
    (publishSlot s p i q b t last).phase = s.phase ∧ (publishSlot s p i q b t last).sync = s.sync
    ∧ (publishSlot s p i q b t last).etch = s.etch ∧ (publishSlot s p i q b t last).hif = s.hif
    ∧ (publishSlot s p i q b t last).cmds = s.cmds ∧ (publishSlot s p i q b t last).mem = s.mem
    ∧ (publishSlot s p i q b t last).solver = s.solver ∧ (publishSlot s p i q b t last).servo = s.servo
    ∧ (publishSlot s p i q b t last).loops = s.loops ∧ (publishSlot s p i q b t last).plate = s.plate
    ∧ (publishSlot s p i q b t last).safety = s.safety ∧ (publishSlot s p i q b t last).boot = s.boot
    ∧ (publishSlot s p i q b t last).husk = s.husk ∧ (publishSlot s p i q b t last).imprints = s.imprints
    ∧ (publishSlot s p i q b t last).power = s.power ∧ (publishSlot s p i q b t last).ports = s.ports
    ∧ (publishSlot s p i q b t last).out = s.out ∧ (publishSlot s p i q b t last).pending = s.pending :=
  by
  refine ⟨?_, ?_, ?_, ?_, ?_, ?_, ?_, ?_, ?_, ?_, ?_, ?_, ?_, ?_, ?_, ?_, ?_, ?_⟩ <;>
    first | rfl | (unfold publishSlot <;> (repeat' split) <;> first | rfl | simp) | simp [publishSlot]

@[simp] theorem releaseSlot_leaves (s : State) (p i q : Nat) (r : RouteRun) (k : Nat) :
    (releaseSlot s p i q r k).phase = s.phase ∧ (releaseSlot s p i q r k).sync = s.sync ∧ (releaseSlot s p i q r k).etch = s.etch
    ∧ (releaseSlot s p i q r k).hif = s.hif ∧ (releaseSlot s p i q r k).cmds = s.cmds ∧ (releaseSlot s p i q r k).mem = s.mem
    ∧ (releaseSlot s p i q r k).solver = s.solver ∧ (releaseSlot s p i q r k).servo = s.servo
    ∧ (releaseSlot s p i q r k).loops = s.loops ∧ (releaseSlot s p i q r k).plate = s.plate
    ∧ (releaseSlot s p i q r k).safety = s.safety ∧ (releaseSlot s p i q r k).boot = s.boot
    ∧ (releaseSlot s p i q r k).husk = s.husk ∧ (releaseSlot s p i q r k).imprints = s.imprints
    ∧ (releaseSlot s p i q r k).power = s.power ∧ (releaseSlot s p i q r k).ports = s.ports
    ∧ (releaseSlot s p i q r k).out = s.out ∧ (releaseSlot s p i q r k).free = s.free
    ∧ (releaseSlot s p i q r k).pending = s.pending :=
  by
  refine ⟨?_, ?_, ?_, ?_, ?_, ?_, ?_, ?_, ?_, ?_, ?_, ?_, ?_, ?_, ?_, ?_, ?_, ?_, ?_⟩ <;>
    first | rfl | (unfold releaseSlot <;> (repeat' split) <;> first | rfl | simp) | simp [releaseSlot]

@[simp] theorem unqueueRoute_leaves (s : State) (p : Nat) (w : WaitingRoute) :
    (unqueueRoute s p w).phase = s.phase ∧ (unqueueRoute s p w).sync = s.sync ∧ (unqueueRoute s p w).etch = s.etch
    ∧ (unqueueRoute s p w).hif = s.hif ∧ (unqueueRoute s p w).cmds = s.cmds ∧ (unqueueRoute s p w).mem = s.mem
    ∧ (unqueueRoute s p w).solver = s.solver ∧ (unqueueRoute s p w).servo = s.servo ∧ (unqueueRoute s p w).loops = s.loops
    ∧ (unqueueRoute s p w).plate = s.plate ∧ (unqueueRoute s p w).safety = s.safety ∧ (unqueueRoute s p w).boot = s.boot
    ∧ (unqueueRoute s p w).husk = s.husk ∧ (unqueueRoute s p w).imprints = s.imprints ∧ (unqueueRoute s p w).power = s.power
    ∧ (unqueueRoute s p w).ports = s.ports ∧ (unqueueRoute s p w).out = s.out ∧ (unqueueRoute s p w).free = s.free
    ∧ (unqueueRoute s p w).pending = s.pending :=
  by
  refine ⟨?_, ?_, ?_, ?_, ?_, ?_, ?_, ?_, ?_, ?_, ?_, ?_, ?_, ?_, ?_, ?_, ?_, ?_, ?_⟩ <;>
    first | rfl | (unfold unqueueRoute <;> (repeat' split) <;> first | rfl | simp) | simp [unqueueRoute]

@[simp] theorem unqueueSolve_leaves (s : State) (e : Nat) (w : WaitingSolve) :
    (unqueueSolve s e w).phase = s.phase ∧ (unqueueSolve s e w).sync = s.sync ∧ (unqueueSolve s e w).etch = s.etch
    ∧ (unqueueSolve s e w).hif = s.hif ∧ (unqueueSolve s e w).cmds = s.cmds ∧ (unqueueSolve s e w).mem = s.mem
    ∧ (unqueueSolve s e w).servo = s.servo ∧ (unqueueSolve s e w).field = s.field ∧ (unqueueSolve s e w).loops = s.loops
    ∧ (unqueueSolve s e w).plate = s.plate ∧ (unqueueSolve s e w).safety = s.safety ∧ (unqueueSolve s e w).boot = s.boot
    ∧ (unqueueSolve s e w).husk = s.husk ∧ (unqueueSolve s e w).imprints = s.imprints ∧ (unqueueSolve s e w).power = s.power
    ∧ (unqueueSolve s e w).ports = s.ports ∧ (unqueueSolve s e w).out = s.out ∧ (unqueueSolve s e w).free = s.free
    ∧ (unqueueSolve s e w).pending = s.pending :=
  by
  refine ⟨?_, ?_, ?_, ?_, ?_, ?_, ?_, ?_, ?_, ?_, ?_, ?_, ?_, ?_, ?_, ?_, ?_, ?_, ?_⟩ <;>
    first | rfl | (unfold unqueueSolve <;> (repeat' split) <;> first | rfl | simp) | simp [unqueueSolve]

@[simp] theorem countDetect_leaves (s : State) (phys : Nat) (k : DetectKind) :
    (countDetect s phys k).phase = s.phase ∧ (countDetect s phys k).sync = s.sync ∧ (countDetect s phys k).etch = s.etch
    ∧ (countDetect s phys k).hif = s.hif ∧ (countDetect s phys k).cmds = s.cmds ∧ (countDetect s phys k).mem = s.mem
    ∧ (countDetect s phys k).solver = s.solver ∧ (countDetect s phys k).servo = s.servo ∧ (countDetect s phys k).loops = s.loops
    ∧ (countDetect s phys k).plate = s.plate ∧ (countDetect s phys k).safety = s.safety ∧ (countDetect s phys k).boot = s.boot
    ∧ (countDetect s phys k).husk = s.husk ∧ (countDetect s phys k).imprints = s.imprints
    ∧ (countDetect s phys k).power = s.power ∧ (countDetect s phys k).ports = s.ports ∧ (countDetect s phys k).out = s.out
    ∧ (countDetect s phys k).free = s.free ∧ (countDetect s phys k).pending = s.pending :=
  by
  refine ⟨?_, ?_, ?_, ?_, ?_, ?_, ?_, ?_, ?_, ?_, ?_, ?_, ?_, ?_, ?_, ?_, ?_, ?_, ?_⟩ <;>
    first | rfl | (unfold countDetect <;> (repeat' split) <;> first | rfl | simp) | simp [countDetect]

@[simp] theorem sendAt_leaves (s : State) (p : Nat) (h : List Word) (b : Bytes) :
    (sendAt s p h b).phase = s.phase ∧ (sendAt s p h b).sync = s.sync ∧ (sendAt s p h b).etch = s.etch
    ∧ (sendAt s p h b).hif = s.hif ∧ (sendAt s p h b).cmds = s.cmds ∧ (sendAt s p h b).mem = s.mem
    ∧ (sendAt s p h b).solver = s.solver ∧ (sendAt s p h b).servo = s.servo ∧ (sendAt s p h b).field = s.field
    ∧ (sendAt s p h b).loops = s.loops ∧ (sendAt s p h b).plate = s.plate ∧ (sendAt s p h b).safety = s.safety
    ∧ (sendAt s p h b).boot = s.boot ∧ (sendAt s p h b).husk = s.husk ∧ (sendAt s p h b).imprints = s.imprints
    ∧ (sendAt s p h b).power = s.power ∧ (sendAt s p h b).free = s.free ∧ (sendAt s p h b).pending = s.pending :=
  by
  refine ⟨?_, ?_, ?_, ?_, ?_, ?_, ?_, ?_, ?_, ?_, ?_, ?_, ?_, ?_, ?_, ?_, ?_, ?_⟩ <;>
    first | rfl | (unfold sendAt <;> (repeat' split) <;> first | rfl | simp) | simp [sendAt]

@[simp] theorem flitHeard_leaves (s : State) (p : Nat) :
    (flitHeard s p).phase = s.phase ∧ (flitHeard s p).sync = s.sync ∧ (flitHeard s p).etch = s.etch ∧ (flitHeard s p).hif = s.hif
    ∧ (flitHeard s p).cmds = s.cmds ∧ (flitHeard s p).mem = s.mem ∧ (flitHeard s p).solver = s.solver
    ∧ (flitHeard s p).servo = s.servo ∧ (flitHeard s p).field = s.field ∧ (flitHeard s p).loops = s.loops
    ∧ (flitHeard s p).plate = s.plate ∧ (flitHeard s p).safety = s.safety ∧ (flitHeard s p).boot = s.boot
    ∧ (flitHeard s p).husk = s.husk ∧ (flitHeard s p).imprints = s.imprints ∧ (flitHeard s p).power = s.power
    ∧ (flitHeard s p).out = s.out ∧ (flitHeard s p).free = s.free ∧ (flitHeard s p).pending = s.pending :=
  by
  refine ⟨?_, ?_, ?_, ?_, ?_, ?_, ?_, ?_, ?_, ?_, ?_, ?_, ?_, ?_, ?_, ?_, ?_, ?_, ?_⟩ <;>
    first | rfl | (unfold flitHeard <;> (repeat' split) <;> first | rfl | simp) | simp [flitHeard]

@[simp] theorem sendMessage_leaves (s : State) (m : Message) :
    (sendMessage s m).phase = s.phase ∧ (sendMessage s m).sync = s.sync ∧ (sendMessage s m).etch = s.etch
    ∧ (sendMessage s m).hif = s.hif ∧ (sendMessage s m).cmds = s.cmds ∧ (sendMessage s m).mem = s.mem
    ∧ (sendMessage s m).solver = s.solver ∧ (sendMessage s m).servo = s.servo ∧ (sendMessage s m).field = s.field
    ∧ (sendMessage s m).loops = s.loops ∧ (sendMessage s m).plate = s.plate ∧ (sendMessage s m).safety = s.safety
    ∧ (sendMessage s m).boot = s.boot ∧ (sendMessage s m).husk = s.husk ∧ (sendMessage s m).imprints = s.imprints
    ∧ (sendMessage s m).power = s.power ∧ (sendMessage s m).free = s.free ∧ (sendMessage s m).pending = s.pending :=
  by
  refine ⟨?_, ?_, ?_, ?_, ?_, ?_, ?_, ?_, ?_, ?_, ?_, ?_, ?_, ?_, ?_, ?_, ?_, ?_⟩ <;>
    first | rfl | (unfold sendMessage <;> (repeat' split) <;> first | rfl | simp) | simp [sendMessage]

@[simp] theorem keepStatus_leaves (s : State) (d : Nat) (seq : Word) (st : Status) :
    (keepStatus s d seq st).phase = s.phase ∧ (keepStatus s d seq st).sync = s.sync ∧ (keepStatus s d seq st).etch = s.etch
    ∧ (keepStatus s d seq st).hif = s.hif ∧ (keepStatus s d seq st).cmds = s.cmds ∧ (keepStatus s d seq st).mem = s.mem
    ∧ (keepStatus s d seq st).solver = s.solver ∧ (keepStatus s d seq st).servo = s.servo
    ∧ (keepStatus s d seq st).field = s.field ∧ (keepStatus s d seq st).loops = s.loops
    ∧ (keepStatus s d seq st).plate = s.plate ∧ (keepStatus s d seq st).safety = s.safety
    ∧ (keepStatus s d seq st).boot = s.boot ∧ (keepStatus s d seq st).husk = s.husk
    ∧ (keepStatus s d seq st).imprints = s.imprints ∧ (keepStatus s d seq st).power = s.power
    ∧ (keepStatus s d seq st).out = s.out ∧ (keepStatus s d seq st).free = s.free ∧ (keepStatus s d seq st).pending = s.pending :=
  by
  refine ⟨?_, ?_, ?_, ?_, ?_, ?_, ?_, ?_, ?_, ?_, ?_, ?_, ?_, ?_, ?_, ?_, ?_, ?_, ?_⟩ <;>
    first | rfl | (unfold keepStatus <;> (repeat' split) <;> first | rfl | simp) | simp [keepStatus]

@[simp] theorem stoDown_leaves (s : State) :
    (stoDown s).phase = s.phase ∧ (stoDown s).sync = s.sync ∧ (stoDown s).etch = s.etch ∧ (stoDown s).hif = s.hif
    ∧ (stoDown s).cmds = s.cmds ∧ (stoDown s).mem = s.mem ∧ (stoDown s).solver = s.solver ∧ (stoDown s).field = s.field
    ∧ (stoDown s).loops = s.loops ∧ (stoDown s).plate = s.plate ∧ (stoDown s).boot = s.boot ∧ (stoDown s).husk = s.husk
    ∧ (stoDown s).imprints = s.imprints ∧ (stoDown s).power = s.power ∧ (stoDown s).ports = s.ports ∧ (stoDown s).out = s.out
    ∧ (stoDown s).free = s.free ∧ (stoDown s).pending = s.pending :=
  by
  refine ⟨?_, ?_, ?_, ?_, ?_, ?_, ?_, ?_, ?_, ?_, ?_, ?_, ?_, ?_, ?_, ?_, ?_, ?_⟩ <;>
    first | rfl | (unfold stoDown <;> (repeat' split) <;> first | rfl | simp) | simp [stoDown]

@[simp] theorem admittedStart_leaves (s : State) (k : CmdKey) :
    (admittedStart s k).phase = s.phase ∧ (admittedStart s k).sync = s.sync ∧ (admittedStart s k).etch = s.etch
    ∧ (admittedStart s k).hif = s.hif ∧ (admittedStart s k).cmds = s.cmds ∧ (admittedStart s k).mem = s.mem
    ∧ (admittedStart s k).solver = s.solver ∧ (admittedStart s k).servo = s.servo ∧ (admittedStart s k).field = s.field
    ∧ (admittedStart s k).loops = s.loops ∧ (admittedStart s k).safety = s.safety ∧ (admittedStart s k).boot = s.boot
    ∧ (admittedStart s k).husk = s.husk ∧ (admittedStart s k).imprints = s.imprints ∧ (admittedStart s k).power = s.power
    ∧ (admittedStart s k).ports = s.ports ∧ (admittedStart s k).out = s.out ∧ (admittedStart s k).free = s.free
    ∧ (admittedStart s k).pending = s.pending :=
  by
  refine ⟨?_, ?_, ?_, ?_, ?_, ?_, ?_, ?_, ?_, ?_, ?_, ?_, ?_, ?_, ?_, ?_, ?_, ?_, ?_⟩ <;>
    first | rfl | (unfold admittedStart <;> (repeat' split) <;> first | rfl | simp) | simp [admittedStart]

@[simp] theorem hashTime_leaves (s : State) (session : Word) (n : Nat) :
    (hashTime s session n).phase = s.phase ∧ (hashTime s session n).sync = s.sync ∧ (hashTime s session n).etch = s.etch
    ∧ (hashTime s session n).hif = s.hif ∧ (hashTime s session n).mem = s.mem ∧ (hashTime s session n).solver = s.solver
    ∧ (hashTime s session n).servo = s.servo ∧ (hashTime s session n).field = s.field ∧ (hashTime s session n).loops = s.loops
    ∧ (hashTime s session n).plate = s.plate ∧ (hashTime s session n).safety = s.safety ∧ (hashTime s session n).boot = s.boot
    ∧ (hashTime s session n).husk = s.husk ∧ (hashTime s session n).imprints = s.imprints
    ∧ (hashTime s session n).power = s.power ∧ (hashTime s session n).ports = s.ports ∧ (hashTime s session n).out = s.out
    ∧ (hashTime s session n).free = s.free ∧ (hashTime s session n).pending = s.pending :=
  by
  refine ⟨?_, ?_, ?_, ?_, ?_, ?_, ?_, ?_, ?_, ?_, ?_, ?_, ?_, ?_, ?_, ?_, ?_, ?_, ?_⟩ <;>
    first | rfl | (unfold hashTime <;> (repeat' split) <;> first | rfl | simp) | simp [hashTime]

@[simp] theorem chargeSpill_leaves (s : State) (p : Nat) :
    (chargeSpill s p).phase = s.phase ∧ (chargeSpill s p).sync = s.sync ∧ (chargeSpill s p).etch = s.etch
    ∧ (chargeSpill s p).hif = s.hif ∧ (chargeSpill s p).mem = s.mem ∧ (chargeSpill s p).solver = s.solver
    ∧ (chargeSpill s p).servo = s.servo ∧ (chargeSpill s p).field = s.field ∧ (chargeSpill s p).loops = s.loops
    ∧ (chargeSpill s p).plate = s.plate ∧ (chargeSpill s p).safety = s.safety ∧ (chargeSpill s p).boot = s.boot
    ∧ (chargeSpill s p).husk = s.husk ∧ (chargeSpill s p).imprints = s.imprints ∧ (chargeSpill s p).power = s.power
    ∧ (chargeSpill s p).ports = s.ports ∧ (chargeSpill s p).out = s.out ∧ (chargeSpill s p).free = s.free
    ∧ (chargeSpill s p).pending = s.pending :=
  by
  refine ⟨?_, ?_, ?_, ?_, ?_, ?_, ?_, ?_, ?_, ?_, ?_, ?_, ?_, ?_, ?_, ?_, ?_, ?_, ?_⟩ <;>
    first | rfl | (unfold chargeSpill <;> (repeat' split) <;> first | rfl | simp) | simp [chargeSpill]

@[simp] theorem leaveSelfRefresh_leaves (s : State) :
    (leaveSelfRefresh s).phase = s.phase ∧ (leaveSelfRefresh s).sync = s.sync ∧ (leaveSelfRefresh s).etch = s.etch
    ∧ (leaveSelfRefresh s).hif = s.hif ∧ (leaveSelfRefresh s).cmds = s.cmds ∧ (leaveSelfRefresh s).mem = s.mem
    ∧ (leaveSelfRefresh s).solver = s.solver ∧ (leaveSelfRefresh s).servo = s.servo ∧ (leaveSelfRefresh s).field = s.field
    ∧ (leaveSelfRefresh s).loops = s.loops ∧ (leaveSelfRefresh s).plate = s.plate ∧ (leaveSelfRefresh s).safety = s.safety
    ∧ (leaveSelfRefresh s).boot = s.boot ∧ (leaveSelfRefresh s).husk = s.husk ∧ (leaveSelfRefresh s).imprints = s.imprints
    ∧ (leaveSelfRefresh s).ports = s.ports ∧ (leaveSelfRefresh s).out = s.out ∧ (leaveSelfRefresh s).free = s.free
    ∧ (leaveSelfRefresh s).pending = s.pending :=
  by
  refine ⟨?_, ?_, ?_, ?_, ?_, ?_, ?_, ?_, ?_, ?_, ?_, ?_, ?_, ?_, ?_, ?_, ?_, ?_, ?_⟩ <;>
    first | rfl | (unfold leaveSelfRefresh <;> (repeat' split) <;> first | rfl | simp) | simp [leaveSelfRefresh]

@[simp] theorem writeState_leaves (s : State) (e slot : Nat) (image b : Bytes) :
    (writeState s e slot image b).phase = s.phase ∧ (writeState s e slot image b).sync = s.sync
    ∧ (writeState s e slot image b).etch = s.etch ∧ (writeState s e slot image b).hif = s.hif
    ∧ (writeState s e slot image b).cmds = s.cmds ∧ (writeState s e slot image b).mem = s.mem
    ∧ (writeState s e slot image b).servo = s.servo ∧ (writeState s e slot image b).field = s.field
    ∧ (writeState s e slot image b).loops = s.loops ∧ (writeState s e slot image b).plate = s.plate
    ∧ (writeState s e slot image b).safety = s.safety ∧ (writeState s e slot image b).boot = s.boot
    ∧ (writeState s e slot image b).husk = s.husk ∧ (writeState s e slot image b).imprints = s.imprints
    ∧ (writeState s e slot image b).power = s.power ∧ (writeState s e slot image b).ports = s.ports
    ∧ (writeState s e slot image b).out = s.out ∧ (writeState s e slot image b).free = s.free
    ∧ (writeState s e slot image b).pending = s.pending :=
  by
  refine ⟨?_, ?_, ?_, ?_, ?_, ?_, ?_, ?_, ?_, ?_, ?_, ?_, ?_, ?_, ?_, ?_, ?_, ?_, ?_⟩ <;>
    first | rfl | (unfold writeState <;> (repeat' split) <;> first | rfl | simp) | simp [writeState]

@[simp] theorem finish_leaves (s : State) (c : Cmd) (r : Reply) :
    (finish s c r).phase = s.phase ∧ (finish s c r).sync = s.sync ∧ (finish s c r).etch = s.etch ∧ (finish s c r).mem = s.mem
    ∧ (finish s c r).solver = s.solver ∧ (finish s c r).servo = s.servo ∧ (finish s c r).field = s.field
    ∧ (finish s c r).loops = s.loops ∧ (finish s c r).plate = s.plate ∧ (finish s c r).safety = s.safety
    ∧ (finish s c r).boot = s.boot ∧ (finish s c r).husk = s.husk ∧ (finish s c r).power = s.power
    ∧ (finish s c r).ports = s.ports ∧ (finish s c r).out = s.out ∧ (finish s c r).free = s.free
    ∧ (finish s c r).pending = s.pending :=
  by
  unfold finish
  split
  · simp
  · split <;> simp
  · split
    · simp
    · simp [apply_ite State.phase, apply_ite State.sync, apply_ite State.etch, apply_ite State.mem, apply_ite State.solver,
        apply_ite State.servo, apply_ite State.field, apply_ite State.loops, apply_ite State.plate, apply_ite State.safety,
        apply_ite State.boot, apply_ite State.husk, apply_ite State.power, apply_ite State.ports, apply_ite State.out, apply_ite
        State.free, apply_ite State.pending]

@[simp] theorem done_leaves (s : State) (c : Cmd) (st : Status) (result : Nat) :
    (done s c st result).phase = s.phase ∧ (done s c st result).sync = s.sync ∧ (done s c st result).etch = s.etch
    ∧ (done s c st result).mem = s.mem ∧ (done s c st result).solver = s.solver ∧ (done s c st result).servo = s.servo
    ∧ (done s c st result).field = s.field ∧ (done s c st result).loops = s.loops ∧ (done s c st result).plate = s.plate
    ∧ (done s c st result).safety = s.safety ∧ (done s c st result).boot = s.boot ∧ (done s c st result).husk = s.husk
    ∧ (done s c st result).power = s.power ∧ (done s c st result).ports = s.ports ∧ (done s c st result).out = s.out
    ∧ (done s c st result).free = s.free ∧ (done s c st result).pending = s.pending :=
  by
  refine ⟨?_, ?_, ?_, ?_, ?_, ?_, ?_, ?_, ?_, ?_, ?_, ?_, ?_, ?_, ?_, ?_, ?_⟩ <;>
    first | rfl | (unfold done <;> (repeat' split) <;> first | rfl | simp) | simp [done]

@[simp] theorem deferCmd_leaves (s : State) (c : Cmd) :
    (deferCmd s c).phase = s.phase ∧ (deferCmd s c).sync = s.sync ∧ (deferCmd s c).etch = s.etch ∧ (deferCmd s c).hif = s.hif
    ∧ (deferCmd s c).mem = s.mem ∧ (deferCmd s c).solver = s.solver ∧ (deferCmd s c).servo = s.servo
    ∧ (deferCmd s c).field = s.field ∧ (deferCmd s c).loops = s.loops ∧ (deferCmd s c).plate = s.plate
    ∧ (deferCmd s c).safety = s.safety ∧ (deferCmd s c).boot = s.boot ∧ (deferCmd s c).husk = s.husk
    ∧ (deferCmd s c).imprints = s.imprints ∧ (deferCmd s c).power = s.power ∧ (deferCmd s c).ports = s.ports
    ∧ (deferCmd s c).out = s.out ∧ (deferCmd s c).free = s.free ∧ (deferCmd s c).pending = s.pending :=
  by
  refine ⟨?_, ?_, ?_, ?_, ?_, ?_, ?_, ?_, ?_, ?_, ?_, ?_, ?_, ?_, ?_, ?_, ?_, ?_, ?_⟩ <;>
    first | rfl | (unfold deferCmd <;> (repeat' split) <;> first | rfl | simp) | simp [deferCmd]

@[simp] theorem deliverEvents_leaves (n : Nat) (s : State) (id : Word) :
    (deliverEvents n s id).phase = s.phase ∧ (deliverEvents n s id).sync = s.sync ∧ (deliverEvents n s id).etch = s.etch
    ∧ (deliverEvents n s id).mem = s.mem ∧ (deliverEvents n s id).solver = s.solver ∧ (deliverEvents n s id).servo = s.servo
    ∧ (deliverEvents n s id).field = s.field ∧ (deliverEvents n s id).loops = s.loops ∧ (deliverEvents n s id).plate = s.plate
    ∧ (deliverEvents n s id).safety = s.safety ∧ (deliverEvents n s id).boot = s.boot ∧ (deliverEvents n s id).husk = s.husk
    ∧ (deliverEvents n s id).power = s.power ∧ (deliverEvents n s id).ports = s.ports ∧ (deliverEvents n s id).out = s.out
    ∧ (deliverEvents n s id).free = s.free ∧ (deliverEvents n s id).pending = s.pending :=
  by
  induction n generalizing s with
  | zero => simp [deliverEvents]
  | succ n ih =>
    unfold deliverEvents
    split
    · simp
    · split
      · dsimp only
        simp [ih]
      · simp

@[simp] theorem dropTransfer_leaves (s : State) (x : Transfer) :
    (dropTransfer s x).phase = s.phase ∧ (dropTransfer s x).sync = s.sync ∧ (dropTransfer s x).etch = s.etch
    ∧ (dropTransfer s x).hif = s.hif ∧ (dropTransfer s x).mem = s.mem ∧ (dropTransfer s x).solver = s.solver
    ∧ (dropTransfer s x).servo = s.servo ∧ (dropTransfer s x).field = s.field ∧ (dropTransfer s x).loops = s.loops
    ∧ (dropTransfer s x).plate = s.plate ∧ (dropTransfer s x).safety = s.safety ∧ (dropTransfer s x).boot = s.boot
    ∧ (dropTransfer s x).husk = s.husk ∧ (dropTransfer s x).imprints = s.imprints ∧ (dropTransfer s x).power = s.power
    ∧ (dropTransfer s x).ports = s.ports ∧ (dropTransfer s x).out = s.out ∧ (dropTransfer s x).free = s.free
    ∧ (dropTransfer s x).pending = s.pending :=
  by
  unfold dropTransfer
  dsimp only
  cases hasChannel s x <;> simp

@[simp] theorem eventTo_leaves (s : State) (code : BitVec 16) (result : DWord) (id : Word) :
    (eventTo s code result id).phase = s.phase ∧ (eventTo s code result id).sync = s.sync ∧ (eventTo s code result id).etch = s.etch
    ∧ (eventTo s code result id).mem = s.mem ∧ (eventTo s code result id).solver = s.solver
    ∧ (eventTo s code result id).servo = s.servo ∧ (eventTo s code result id).field = s.field
    ∧ (eventTo s code result id).loops = s.loops ∧ (eventTo s code result id).plate = s.plate
    ∧ (eventTo s code result id).safety = s.safety ∧ (eventTo s code result id).boot = s.boot
    ∧ (eventTo s code result id).husk = s.husk ∧ (eventTo s code result id).power = s.power
    ∧ (eventTo s code result id).ports = s.ports ∧ (eventTo s code result id).out = s.out
    ∧ (eventTo s code result id).free = s.free ∧ (eventTo s code result id).pending = s.pending :=
  by
  refine ⟨?_, ?_, ?_, ?_, ?_, ?_, ?_, ?_, ?_, ?_, ?_, ?_, ?_, ?_, ?_, ?_, ?_⟩ <;>
    first | rfl | (unfold eventTo <;> (repeat' split) <;> first | rfl | simp) | simp [eventTo]

@[simp] theorem huskRequest_leaves (s : State) (typ source : Nat) (payload : Bytes) (stamp : Nat) :
    (huskRequest s typ source payload stamp).phase = s.phase ∧ (huskRequest s typ source payload stamp).sync = s.sync
    ∧ (huskRequest s typ source payload stamp).etch = s.etch ∧ (huskRequest s typ source payload stamp).hif = s.hif
    ∧ (huskRequest s typ source payload stamp).cmds = s.cmds ∧ (huskRequest s typ source payload stamp).mem = s.mem
    ∧ (huskRequest s typ source payload stamp).solver = s.solver ∧ (huskRequest s typ source payload stamp).servo = s.servo
    ∧ (huskRequest s typ source payload stamp).field = s.field ∧ (huskRequest s typ source payload stamp).loops = s.loops
    ∧ (huskRequest s typ source payload stamp).plate = s.plate ∧ (huskRequest s typ source payload stamp).safety = s.safety
    ∧ (huskRequest s typ source payload stamp).boot = s.boot ∧ (huskRequest s typ source payload stamp).imprints = s.imprints
    ∧ (huskRequest s typ source payload stamp).power = s.power ∧ (huskRequest s typ source payload stamp).ports = s.ports
    ∧ (huskRequest s typ source payload stamp).out = s.out ∧ (huskRequest s typ source payload stamp).free = s.free
    ∧ (huskRequest s typ source payload stamp).pending = s.pending :=
  by
  unfold huskRequest
  dsimp only
  split
  · simp
  · split <;> simp

@[simp] theorem huskFault_leaves (s : State) (source cls unit cause : Nat) (detail : Nat) :
    (huskFault s source cls unit cause detail).phase = s.phase ∧ (huskFault s source cls unit cause detail).sync = s.sync
    ∧ (huskFault s source cls unit cause detail).etch = s.etch ∧ (huskFault s source cls unit cause detail).hif = s.hif
    ∧ (huskFault s source cls unit cause detail).cmds = s.cmds ∧ (huskFault s source cls unit cause detail).mem = s.mem
    ∧ (huskFault s source cls unit cause detail).solver = s.solver ∧ (huskFault s source cls unit cause detail).servo = s.servo
    ∧ (huskFault s source cls unit cause detail).field = s.field ∧ (huskFault s source cls unit cause detail).loops = s.loops
    ∧ (huskFault s source cls unit cause detail).plate = s.plate ∧ (huskFault s source cls unit cause detail).safety = s.safety
    ∧ (huskFault s source cls unit cause detail).boot = s.boot
    ∧ (huskFault s source cls unit cause detail).imprints = s.imprints
    ∧ (huskFault s source cls unit cause detail).power = s.power ∧ (huskFault s source cls unit cause detail).ports = s.ports
    ∧ (huskFault s source cls unit cause detail).out = s.out ∧ (huskFault s source cls unit cause detail).free = s.free
    ∧ (huskFault s source cls unit cause detail).pending = s.pending :=
  by
  refine ⟨?_, ?_, ?_, ?_, ?_, ?_, ?_, ?_, ?_, ?_, ?_, ?_, ?_, ?_, ?_, ?_, ?_, ?_, ?_⟩ <;>
    first | rfl | (unfold huskFault <;> (repeat' split) <;> first | rfl | simp) | simp [huskFault]

@[simp] theorem chargeRun_leaves (s : State) (r : Run) :
    (chargeRun s r).phase = s.phase ∧ (chargeRun s r).sync = s.sync ∧ (chargeRun s r).etch = s.etch ∧ (chargeRun s r).hif = s.hif
    ∧ (chargeRun s r).mem = s.mem ∧ (chargeRun s r).solver = s.solver ∧ (chargeRun s r).servo = s.servo
    ∧ (chargeRun s r).field = s.field ∧ (chargeRun s r).loops = s.loops ∧ (chargeRun s r).plate = s.plate
    ∧ (chargeRun s r).safety = s.safety ∧ (chargeRun s r).boot = s.boot ∧ (chargeRun s r).husk = s.husk
    ∧ (chargeRun s r).imprints = s.imprints ∧ (chargeRun s r).power = s.power ∧ (chargeRun s r).ports = s.ports
    ∧ (chargeRun s r).out = s.out ∧ (chargeRun s r).free = s.free ∧ (chargeRun s r).pending = s.pending :=
  by
  refine ⟨?_, ?_, ?_, ?_, ?_, ?_, ?_, ?_, ?_, ?_, ?_, ?_, ?_, ?_, ?_, ?_, ?_, ?_, ?_⟩ <;>
    first | rfl | (unfold chargeRun <;> (repeat' split) <;> first | rfl | simp) | simp [chargeRun]

@[simp] theorem missDeadline_leaves (s : State) (c : Cmd) :
    (missDeadline s c).phase = s.phase ∧ (missDeadline s c).sync = s.sync ∧ (missDeadline s c).etch = s.etch
    ∧ (missDeadline s c).mem = s.mem ∧ (missDeadline s c).solver = s.solver ∧ (missDeadline s c).servo = s.servo
    ∧ (missDeadline s c).field = s.field ∧ (missDeadline s c).loops = s.loops ∧ (missDeadline s c).plate = s.plate
    ∧ (missDeadline s c).safety = s.safety ∧ (missDeadline s c).boot = s.boot ∧ (missDeadline s c).husk = s.husk
    ∧ (missDeadline s c).power = s.power ∧ (missDeadline s c).ports = s.ports ∧ (missDeadline s c).out = s.out
    ∧ (missDeadline s c).free = s.free ∧ (missDeadline s c).pending = s.pending :=
  by
  refine ⟨?_, ?_, ?_, ?_, ?_, ?_, ?_, ?_, ?_, ?_, ?_, ?_, ?_, ?_, ?_, ?_, ?_⟩ <;>
    first | rfl | (unfold missDeadline <;> (repeat' split) <;> first | rfl | simp) | simp [missDeadline]

@[simp] theorem huskPower_leaves (s : State) (source from_ dest cause : Nat) :
    (huskPower s source from_ dest cause).phase = s.phase ∧ (huskPower s source from_ dest cause).sync = s.sync
    ∧ (huskPower s source from_ dest cause).etch = s.etch ∧ (huskPower s source from_ dest cause).hif = s.hif
    ∧ (huskPower s source from_ dest cause).cmds = s.cmds ∧ (huskPower s source from_ dest cause).mem = s.mem
    ∧ (huskPower s source from_ dest cause).solver = s.solver ∧ (huskPower s source from_ dest cause).servo = s.servo
    ∧ (huskPower s source from_ dest cause).field = s.field ∧ (huskPower s source from_ dest cause).loops = s.loops
    ∧ (huskPower s source from_ dest cause).plate = s.plate ∧ (huskPower s source from_ dest cause).safety = s.safety
    ∧ (huskPower s source from_ dest cause).boot = s.boot ∧ (huskPower s source from_ dest cause).imprints = s.imprints
    ∧ (huskPower s source from_ dest cause).power = s.power ∧ (huskPower s source from_ dest cause).ports = s.ports
    ∧ (huskPower s source from_ dest cause).out = s.out ∧ (huskPower s source from_ dest cause).free = s.free
    ∧ (huskPower s source from_ dest cause).pending = s.pending :=
  by
  refine ⟨?_, ?_, ?_, ?_, ?_, ?_, ?_, ?_, ?_, ?_, ?_, ?_, ?_, ?_, ?_, ?_, ?_, ?_, ?_⟩ <;>
    first | rfl | (unfold huskPower <;> (repeat' split) <;> first | rfl | simp) | simp [huskPower]

@[simp] theorem huskSwap_leaves (s : State) (shell : Nat) (from_ dest : Bool) (fallback : Nat) (image : Bytes) :
    (huskSwap s shell from_ dest fallback image).phase = s.phase ∧ (huskSwap s shell from_ dest fallback image).sync = s.sync
    ∧ (huskSwap s shell from_ dest fallback image).etch = s.etch ∧ (huskSwap s shell from_ dest fallback image).hif = s.hif
    ∧ (huskSwap s shell from_ dest fallback image).cmds = s.cmds ∧ (huskSwap s shell from_ dest fallback image).mem = s.mem
    ∧ (huskSwap s shell from_ dest fallback image).solver = s.solver
    ∧ (huskSwap s shell from_ dest fallback image).servo = s.servo
    ∧ (huskSwap s shell from_ dest fallback image).field = s.field
    ∧ (huskSwap s shell from_ dest fallback image).loops = s.loops
    ∧ (huskSwap s shell from_ dest fallback image).plate = s.plate
    ∧ (huskSwap s shell from_ dest fallback image).safety = s.safety
    ∧ (huskSwap s shell from_ dest fallback image).boot = s.boot
    ∧ (huskSwap s shell from_ dest fallback image).imprints = s.imprints
    ∧ (huskSwap s shell from_ dest fallback image).power = s.power
    ∧ (huskSwap s shell from_ dest fallback image).ports = s.ports ∧ (huskSwap s shell from_ dest fallback image).out = s.out
    ∧ (huskSwap s shell from_ dest fallback image).free = s.free
    ∧ (huskSwap s shell from_ dest fallback image).pending = s.pending :=
  by
  refine ⟨?_, ?_, ?_, ?_, ?_, ?_, ?_, ?_, ?_, ?_, ?_, ?_, ?_, ?_, ?_, ?_, ?_, ?_, ?_⟩ <;>
    first | rfl | (unfold huskSwap <;> (repeat' split) <;> first | rfl | simp) | simp [huskSwap]

@[simp] theorem setRole_leaves (s : State) :
    (setRole s).phase = s.phase ∧ (setRole s).etch = s.etch ∧ (setRole s).hif = s.hif ∧ (setRole s).cmds = s.cmds
    ∧ (setRole s).mem = s.mem ∧ (setRole s).solver = s.solver ∧ (setRole s).servo = s.servo ∧ (setRole s).field = s.field
    ∧ (setRole s).loops = s.loops ∧ (setRole s).plate = s.plate ∧ (setRole s).safety = s.safety ∧ (setRole s).boot = s.boot
    ∧ (setRole s).husk = s.husk ∧ (setRole s).imprints = s.imprints ∧ (setRole s).power = s.power ∧ (setRole s).ports = s.ports
    ∧ (setRole s).out = s.out ∧ (setRole s).free = s.free ∧ (setRole s).pending = s.pending :=
  by
  unfold setRole
  dsimp only
  (repeat' split) <;> simp

@[simp] theorem clearWeights_leaves (s : State) (k n : Nat) :
    (clearWeights s k n).phase = s.phase ∧ (clearWeights s k n).sync = s.sync ∧ (clearWeights s k n).etch = s.etch
    ∧ (clearWeights s k n).hif = s.hif ∧ (clearWeights s k n).cmds = s.cmds ∧ (clearWeights s k n).mem = s.mem
    ∧ (clearWeights s k n).solver = s.solver ∧ (clearWeights s k n).servo = s.servo ∧ (clearWeights s k n).field = s.field
    ∧ (clearWeights s k n).loops = s.loops ∧ (clearWeights s k n).plate = s.plate ∧ (clearWeights s k n).safety = s.safety
    ∧ (clearWeights s k n).boot = s.boot ∧ (clearWeights s k n).husk = s.husk ∧ (clearWeights s k n).power = s.power
    ∧ (clearWeights s k n).ports = s.ports ∧ (clearWeights s k n).out = s.out ∧ (clearWeights s k n).free = s.free
    ∧ (clearWeights s k n).pending = s.pending :=
  by
  refine ⟨?_, ?_, ?_, ?_, ?_, ?_, ?_, ?_, ?_, ?_, ?_, ?_, ?_, ?_, ?_, ?_, ?_, ?_, ?_⟩ <;>
    first | rfl | (unfold clearWeights <;> (repeat' split) <;> first | rfl | simp) | simp [clearWeights]

@[simp] theorem putKey_leaves (s : State) (k : Nat) (b : Bytes) :
    (putKey s k b).phase = s.phase ∧ (putKey s k b).sync = s.sync ∧ (putKey s k b).etch = s.etch ∧ (putKey s k b).hif = s.hif
    ∧ (putKey s k b).cmds = s.cmds ∧ (putKey s k b).solver = s.solver ∧ (putKey s k b).servo = s.servo
    ∧ (putKey s k b).field = s.field ∧ (putKey s k b).loops = s.loops ∧ (putKey s k b).plate = s.plate
    ∧ (putKey s k b).safety = s.safety ∧ (putKey s k b).boot = s.boot ∧ (putKey s k b).husk = s.husk
    ∧ (putKey s k b).power = s.power ∧ (putKey s k b).ports = s.ports ∧ (putKey s k b).out = s.out
    ∧ (putKey s k b).free = s.free ∧ (putKey s k b).pending = s.pending :=
  by
  refine ⟨?_, ?_, ?_, ?_, ?_, ?_, ?_, ?_, ?_, ?_, ?_, ?_, ?_, ?_, ?_, ?_, ?_, ?_⟩ <;>
    first | rfl | (unfold putKey <;> (repeat' split) <;> first | rfl | simp) | simp [putKey]

/-- An asynchronous event reaches requests and event lists, and completions that it frees; nothing else. -/
@[simp] theorem raiseEvent_leaves (s : State) (code : BitVec 16) (result : Nat) (p : Session → Bool) :
    (raiseEvent s code result p).phase = s.phase ∧ (raiseEvent s code result p).sync = s.sync
    ∧ (raiseEvent s code result p).etch = s.etch ∧ (raiseEvent s code result p).mem = s.mem
    ∧ (raiseEvent s code result p).solver = s.solver ∧ (raiseEvent s code result p).servo = s.servo
    ∧ (raiseEvent s code result p).field = s.field ∧ (raiseEvent s code result p).loops = s.loops
    ∧ (raiseEvent s code result p).plate = s.plate ∧ (raiseEvent s code result p).safety = s.safety
    ∧ (raiseEvent s code result p).boot = s.boot ∧ (raiseEvent s code result p).husk = s.husk
    ∧ (raiseEvent s code result p).power = s.power ∧ (raiseEvent s code result p).ports = s.ports
    ∧ (raiseEvent s code result p).out = s.out ∧ (raiseEvent s code result p).free = s.free
    ∧ (raiseEvent s code result p).pending = s.pending := by
  unfold raiseEvent
  generalize (s.cmds.sessions.filter p).map (·.id) = l
  induction l generalizing s with
  | nil => simp
  | cons a l ih => simpa using ih (eventTo s code (BitVec.ofNat 64 result) a)

/-! The clock (R58, R75). -/

theorem advance_running {s : State} (h : s.phase.hold = none) (t : Nat) :
    advance s t = { s with phase := { s.phase with gtc := max s.phase.gtc t, shadow := max s.phase.shadow t } } := by
  simp [advance, h]
theorem advance_held {s : State} {n : Nat} (h : s.phase.hold = some n) (t : Nat) : advance s t = s := by simp [advance, h]
theorem now_advance {s : State} (h : s.phase.hold = none) (t : Nat) : now (advance s t) = max (now s) t := by
  simp [now, advance_running h]

/-! The shapes of a command (R9, R11, R169). -/

/-- A command with defined operands runs, its session charged with its wait; another completes with BAD_DESCRIPTOR. -/
theorem host_ok (s : State) (t : Nat) (c : Cmd) (body : State → State) :
    host s t c true body = .next (body (markStarted (advance s t) c.key)) := rfl
theorem host_bad (s : State) (t : Nat) (c : Cmd) (body : State → State) :
    host s t c false body = .next (done (advance s t) c stBAD_DESCRIPTOR) := rfl
theorem hostWait_ok (s : State) (t : Nat) (c : Cmd) (body : State → State) : hostWait s t c true body = .next (body (advance s t)) := rfl
theorem hostWait_bad (s : State) (t : Nat) (c : Cmd) (body : State → State) :
    hostWait s t c false body = .next (done (advance s t) c stBAD_DESCRIPTOR) := rfl
theorem event_next (s : State) (t : Nat) (body : State → State) : event s t body = .next (body (advance s t)) := rfl
/-- An update command of a function with the update permission posts DEFERRED and goes on. -/
theorem update_allowed {s : State} {t : Nat} {c : Cmd} {body : State → State}
    (h : fnUpdate (markStarted (advance s t) c.key) (fnOf (markStarted (advance s t) c.key) c) = true) :
    update s t c true body = .next (body (deferCmd (markStarted (advance s t) c.key) c)) := by
  simp [update, host, h]
theorem update_refused {s : State} {t : Nat} {c : Cmd} {body : State → State}
    (h : fnUpdate (markStarted (advance s t) c.key) (fnOf (markStarted (advance s t) c.key) c) = false) :
    update s t c true body = .next (done (markStarted (advance s t) c.key) c stPROTECTION) := by
  simp [update, host, h]

theorem orFail_ok {α : Type} (s : State) (c : Cmd) (a : α) (k : α → State) : orFail s c (.ok a) k = k a := rfl
theorem orFail_error {α : Type} (s : State) (c : Cmd) (st : Status) (k : α → State) : orFail s c (.error st) k = done s c st := rfl
theorem refuseOr_none (s : State) (c : Cmd) (k : State) : refuseOr s c none k = k := rfl
theorem refuseOr_some (s : State) (c : Cmd) (st : Status) (k : State) : refuseOr s c (some st) k = done s c st := rfl

/-! Windows (R153). -/

/-- A place in a window: the window exists, the command may use it, and the bytes lie in it. -/
theorem windowKey_ok {s : State} {c : Cmd} {w : Word} {offset n k : Nat} {write : Bool} (h : windowKey s c w offset n write = .ok k) :
    ∃ x, findWindow s w = some x ∧ ownsObject s c x.session x.fn = true ∧ offset + n ≤ x.length ∧ (write = true → x.writable = true)
      ∧ k = (if x.host then hostKey x.fn (x.base + offset) else x.base + offset) := by
  unfold windowKey at h
  split at h
  · cases h
  · rename_i x hx
    split at h
    · cases h
    · split at h
      · cases h
      · split at h
        · cases h
        · rename_i h1 h2 h3
          cases h
          exact ⟨x, hx, by simpa using h1, by omega, by simpa using h3, rfl⟩

/-- What a window read answers, and when. -/
theorem readWindow_ok {s : State} {c : Cmd} {w : Word} {offset n : Nat} {b : Bytes} (h : readWindow s c w offset n = .ok b) :
    ∃ k, windowKey s c w offset n false = .ok k ∧ accessStatus s k n false = none ∧ b = readKey s.mem k n := by
  unfold readWindow at h
  split at h
  · cases h
  · rename_i k hk
    split at h
    · cases h
    · rename_i ha
      cases h
      exact ⟨k, hk, ha, rfl⟩

/-- What a window write does, and when. -/
theorem writeWindow_ok {s u : State} {c : Cmd} {w : Word} {offset : Nat} {b : Bytes} (h : writeWindow s c w offset b = .ok u) :
    ∃ k, windowKey s c w offset b.length true = .ok k ∧ accessStatus s k b.length true = none ∧ u = putKey s k b := by
  unfold writeWindow at h
  split at h
  · cases h
  · rename_i k hk
    split at h
    · cases h
    · rename_i ha
      cases h
      exact ⟨k, hk, ha, rfl⟩

end Sys2Proof.Laws
end

