-- ==== Sys2Proof/WellFormed.lean ====
section
/-!
DEFINITION. WellFormed.lean: which commands are well formed: every operand holds a value that the manual defines (R11).
-/
namespace Sys2Proof

/-- A command whose operands all hold defined values. -/
def Instr.WellFormed (i : Instr) : Prop := Machine.operandsOk i = true

end Sys2Proof
end

