-- ==== Sys2Proof/Tests/Slice0.lean ====
section
/-!
SUPPORT. Tests/Slice0.lean: for each statement of Obligations.lean, states and operands that meet its hypotheses; the operand
checks that refuse an ill-formed command; and tests of single operations against the tables and examples of the spec.
-/
namespace Sys2Proof.Tests
open Sys2Proof Sys2Proof.Machine

theorem some_eq {α : Type} {o : Option α} (h : o.isSome = true) : o = some (o.get h) := (Option.some_get h).symm
def okGet {ε α : Type} : (e : Except ε α) → e.isOk = true → α
  | .ok a, _ => a
  | .error _, h => nomatch h
theorem ok_eq {ε α : Type} {e : Except ε α} (h : e.isOk = true) : e = .ok (okGet e h) := by
  cases e with
  | ok a => rfl
  | error st => nomatch h

theorem spot_eq (s : State) (lo hi size align : Nat) (used : List (Nat × Nat))
    (h : ((freeSpots hi size align lo (sortBy (fun a b => decide (a.1 < b.1)) used)).map (·.2)).sum ≠ 0) :
    chooseSpot s lo hi size align used = some ((chooseSpot s lo hi size align used).get (Laws.chooseSpot_isSome.2 h)) := some_eq _
theorem placed_eq (s : State) (x : Session) (bytes cls align : Nat) (h1 : cls ≠ 1) (h2 : cls ≠ 2) (h3 : lpddrFits s cls bytes = true)
    (h : ((freeSpots (min (fnMemLimit s x.fn) (lpddrBase + lpddrBytes)) bytes align (max (fnMemBase s x.fn) lpddrBase)
      (sortBy (fun a b => decide (a.1 < b.1)) (heldRanges s))).map (·.2)).sum ≠ 0) :
    placeAlloc s x bytes cls align = some ((chooseSpot s (max (fnMemBase s x.fn) lpddrBase) (min (fnMemLimit s x.fn) (lpddrBase + lpddrBytes))
      bytes align (heldRanges s)).get (Laws.chooseSpot_isSome.2 h)) := by
  rw [Laws.placeAlloc_lpddr s x bytes align h1 h2 h3]
  exact some_eq _
theorem none_all {α : Type} {o : Option α} {P : α → Prop} (h : o.isNone = true) : ∀ x, o = some x → P x := by
  cases o with
  | none => intro x hx; cases hx
  | some a => nomatch h

/-! A small running device. -/

/-- Commands of the firmware, of the mailbox of function 0 and of submission queue 4. -/
def cF : Cmd := { key := ⟨.firmware, 7⟩, quiet := false, expert := false, deadline := none }
def cM : Cmd := { key := ⟨.mailbox 0, 7⟩, quiet := false, expert := false, deadline := none }
def cQ : Cmd := { key := ⟨.queue 4, 7⟩, quiet := false, expert := false, deadline := none }

/-- A function entry of the protection set: PF enabled with every permission, 16 sessions, queue ids 0–15 of each kind,
partition 0, 4 vectors, all memory below 256 MiB. -/
def protPf : List Host.Cell :=
  [(0x1000, 16), (0x1003, 0xFC), (0x1008, 16), (0x100E, 16), (0x1010, 4), (0x1012, 1), (0x101F, 0x10)]

def session1 : Session where
  id := 1
  fn := 0
  share := 100
  maxSq := 4
  maxCq := 4
  quota := 0
  requests := []
  events := []
  discarded := 0
  vtime := 0
  counters := Counters.zero

def queue4 : SubQueue where
  id := 4
  session := 1
  fn := 0
  ring := 0x10000
  inDevice := true
  depth := 4
  cq := 2
  part := 0
  cls := 0
  tail := 1
  head := 0
  error := false
  bells := [(1, 0)]
  placed := false

def queueC (n : Nat) (l : List Completion) : ComQueue where
  id := n
  session := 1
  fn := 0
  ring := 0x12000
  inDevice := true
  depth := 4
  vector := 0
  coalCount := 2
  coalTime := 1
  tail := 1
  head := 0
  pass := true
  waiting := l
  unsignalled := 1
  firstAt := some 0

def done0 : Completion where
  cmdId := 9
  sq := 4
  status := stOK
  kind := 0
  warn := 0
  stamp := 5
  result := 0
  tag := 0
  epoch := 0
  last := true
  release := none
  urgent := false
  placed := none

def out7 : Outstanding := { cmd := cQ, session := 1, entry := List.replicate 16 0, stamp := 0, started := false, deferred := false, done := false }

/-- Window 1 on device memory, mapped in BAR2 at 0; window 2 on host memory. -/
def window1 : Window := { id := 1, session := 1, fn := 0, host := false, base := 0x20000, length := 0x20000, bar2 := some 0, writable := true }
def window2 : Window := { id := 2, session := 1, fn := 0, host := true, base := 0, length := 0x20000, bar2 := none, writable := true }
def alloc1 : Allocation := { addr := 0x20000, bytes := 0x20000, cls := 1, session := some 1, fn := 0 }

/-- The device in ACTIVE_FULL with its units ON, one session with a queue and two completion queues. -/
def W : State := { State.reset with
  hif := { State.reset.hif with fwReady := true, shellOnly := false },
  cmds := { State.reset.cmds with sessions := [session1], sqs := [queue4], cqs := [queueC 2 [done0], queueC 3 []], outstanding := [out7], windows := [window1, window2], allocs := [alloc1] },
  power := { State.reset.power with state := 5, mainPwrEn := true, mainValid := true, sectors := List.replicate 16 2 ++ [0, 0], engines := List.replicate 8 2 ++ [0], slices := List.replicate 16 2, banks := List.replicate 8 2 },
  boot := { State.reset.boot with prot := protReset ++ protPf, step := 7, lock := true } }

/-- A device with bytes at a device address. -/
def holding (s : State) (a : Nat) (b : Bytes) : State := { s with mem := { s.mem with dev := s.mem.dev.write a b } }
def bytesOf (ws : List Word) : Bytes := ws.flatMap (fun w => leBytes 4 w.toNat)

/-- The phase value of a GTC tick, and of a count of PS0. -/
def atGtc (n : Nat) : PhaseValue := ⟨BitVec.ofNat 32 n, 0, 8⟩
def atCount (n : Nat) : PhaseValue := ⟨BitVec.ofNat 32 n, 0, 0⟩

/-- An etch that keeps the profile at Full at GTC 1000 (R85, R86), as descriptor bytes and as an entry of the table. -/
def etchWords : List Word :=
  [0x01000005, 0, 1000, 0, 8] ++ List.replicate 11 0 ++ [0x50600000, 0, 5, 0, 0, 0, 0, 0]
def etchHdr : EtchHeader :=
  { count := 1, kind := 0, tag := 5, husk := false, notify := false, commitPoint := atGtc 1000, armDeadline := pvZero, fallbackId := 0 }
def etchAct : EtchAction := { typ := 5, cls := 6, index := 0, item := 0, argLo := 5, argHi := 0, width := 0, length := 0, crc := 0 }
def etch9 (p : EtchPhase) (h : EtchHeader) : Etch where
  id := 9
  session := some 1
  fn := 0
  hdr := h
  acts := [etchAct]
  payloads := [[]]
  st := p
  changed := 0
  armInstant := 0
  armCmd := none
  stageCmd := none
  records := []
  deadlinePassed := false
def withEtch (e : Etch) : State := { W with etch := { W.etch with etches := [e] } }

/-- W with one phase source in place of PS0. -/
def withSource (p : PhaseSource) : State := { W with phase := { W.phase with sources := p :: W.phase.sources.drop 1 } }

/-- A batch of one MPC scenario on slot 0 of engine 0 with a packet at 0x24000, a command that submits it, and a packet of lsqImg. -/
def batchWords : List Word := [0x01000001] ++ List.replicate 15 0 ++ [0, 0, 0x24000, 0, 0x30000, 0, 4096, 0]
def cD : Cmd := { cQ with deadline := some (atGtc 1000000) }
def packetWords : List Word := [0x00010000, 0, 48, 0, 0, 0, 0, 1, 0, 0, 0, 0]

/-- An EDGE source on PHASE_IN0 that interpolates: edges at intervals of 1000 ns. -/
def running0 : PhaseSource := { PhaseSource.off with
  cfg := 0x10000000 :: List.replicate 7 0, raw := 0x50000, stamp := 5000, intervals := [1000, 1000], edges := 6, sameWay := true, countValid := true }

theorem spelled0 : Spelled (.deleteCq 0 cQ 3) := by unfold Spelled; decide +kernel

/-! Parts of W in other states. -/

def withEnc (e : Encoder) : State := { W with ports := { W.ports with encoders := e :: W.ports.encoders.drop 1 } }
def withSafety (f : Safety → Safety) : State := { W with safety := f W.safety }
def withPower (f : Power → Power) : State := { W with power := f W.power }

/-- A network of 8 kHz that runs, with the output frame of this cycle returned. -/
def net8 : ServoNet := { State.reset.servo.net with
  tCyc := 125000, txShift := 2000, rxBound := 100000, missLimit := 3, count := 5, sent := true, returned := true }
def withNet (n : ServoNet) (cs : List Channel) : State := { W with
  servo := { W.servo with net := n, channels := cs ++ W.servo.channels.drop cs.length },
  ports := { W.ports with mnet := { W.ports.mnet with running := true } } }

/-- A TORQUE channel on pair 0, and its coefficient block (R315, R325). -/
def chanCfg (o : Nat) : List Word :=
  [0x01000000, BitVec.ofNat 32 (o * 65536 + 0x80), BitVec.ofNat 32 ((o + 4) * 65536 + o), BitVec.ofNat 32 ((o + 2) * 65536 + 0xFFFF),
   0x000F0000, 0x00010001, 0x00080008] ++ List.replicate 9 0
def chanBlock : List Word :=
  [0x01000000, 0, 0x10000, 0, 0x10000, 0, 0, 0, 0, 0, 0, 0x01000000, 0, 0, 0, 0, 0, 0, 0x10000, 0, 16] ++ List.replicate 11 0
def chanIn (st : ChanState) (o : Nat) : Channel := { Channel.reset with cfg := chanCfg o, block := chanBlock, st := st }

/-- W with the envelope of channel 0 in the protection set (R603). -/
def WC (s : State) : State := { s with boot := { s.boot with
  prot := s.boot.prot ++ [(0x2000, 0xFF), (0x201B, 1), (0x2023, 1), (0x2033, 1)] } }

/-- W with one transfer of cQ in progress, begun at GTC 0. -/
def withDma (k : TransferKind) : State := { W with cmds := { W.cmds with
  transfers := [{ cmd := cQ, kind := k, length := 64, start := 0, cut := none }] } }

/-- A Plate with one CYCLIC partition of 4 sectors and two slots on PS0, a MOTION_CYCLE source: a QUEUE slot over counts 0–4 and a
CHECK slot over counts 0–8 of 8 (R502–R507). -/
def motionBlock : List Word := [0x40400000, 0, 0x00020000, 0x40000000, 0, 0, 1, 0]
def plateCells : Memory := [(131075, 1), (131077, 7), (131080, 239), (131081, 71), (131082, 129), (131083, 103), (131084, 2),
  (131092, 8), (131098, 100), (131202, 64), (131203, 64), (131210, 2), (131215, 64), (131224, 1), (131232, 160), (131233, 134),
  (131234, 1), (131521, 240), (131522, 141), (131523, 128), (131524, 1), (131530, 4), (131536, 232), (131537, 3), (132800, 255),
  (132801, 255), (132802, 3), (132803, 64), (132810, 4), (132835, 216), (132842, 8)]
def plateImg : Bytes := plateCells.read 0x20000 1792

/-- W with that Plate in force and its source at count `n`. -/
def plateSource (n : Nat) : PhaseSource := { PhaseSource.off with
  cfg := motionBlock, raw := BitVec.ofNat 64 (n * 65536), countValid := true, edges := 5, intervals := [125000] }
def runningPlate (n : Nat) : State := { W with
  plate := { W.plate with isDefault := false, header := plHeader plateImg, parts := (List.range 16).map (plPart plateImg), handle := some 0x4000000, loaded := [(0x4000000, plateImg)] },
  phase := { W.phase with sources := plateSource n :: W.phase.sources.drop 1 } }

def plateReady : State := { W with
  mem := { W.mem with dev := plateCells },
  boot := { W.boot with prot := protReset ++ [(0x200, 1), (0x203, 0xA0)] ++ protPf } }



/-- A dense LSQ image of one row and one column (R218–R221), and the device with it in slot 0 of engine 0. -/
def lsqImg : Bytes := bytesOf ([0x00015003, 0x00010000, 308, 0xAA42ABFB, 0, 0x0101, 0, 0, 0x00010001, 0, 0, 0, 100, 10, 0, 1, 1] ++ List.replicate 47 0 ++ [0x04000000, 304, 4, 0, 0x05000000, 308, 0, 0, 0x06000000, 308, 0, 0, 0x12FF0000])
def lsq0 : Image := { bytes := lsqImg, version := 1, usable := true, session := some 1 }
def withSlot (x : Slot) (e : Engine) : State := { W with
  solver := { W.solver with engines := { e with slots := x :: List.replicate 7 Slot.empty } :: W.solver.engines.drop 1 } }
def solve1 : WaitingSolve where
  owner := .command cQ
  session := some 1
  slot := 0
  delta := 0x20000
  built := []
  result := 0x30000
  resultWindow := some 1
  capacity := 4096
  deadline := none
  basic := true
  epoch := 0
  part := 0
  cls := 0
  sq := 4
def run1 : Run where
  job := solve1
  packet := List.replicate 48 0
  image := lsq0
  params := { iterations := 1, tau := 1, feasTol := 1, emitPlan := false }
  items := []
  persistent := []
  seeds := []
  clampCount := 0
  clampItem := 0
  clampElem := 0
  start := 0
  guards := []
  writing := false
  rewritten := false
def withRun (r : Run) (m : EngineMode) : State := withSlot { Slot.empty with active := some lsq0 } { Engine.reset m with run := some r }
def setProt (a : Nat) (b : Byte) (s : State) : State := { s with boot := { s.boot with
  prot := s.boot.prot.map (fun c => if c.1 = a then (a, b) else c) } }
def withHusk (f : Husk → Husk) : State := { W with husk := f W.husk }
def withBoot (f : Boot → Boot) : State := { W with boot := f W.boot }

/-! A route: one LOAD and one STORE over a queue of 1 × 1 FP32 tiles (R349–R354). -/

def routeProg : Bytes := bytesOf ([0x01020102, 240, 0x4374662D, 0x1F, 0x00010001, 0x01000001, 0, 2, 10, 1, 0] ++ List.replicate 21 0 ++
  [0x10000100, 0xFFFF0000, 0, 0, 0, 0, 0, 0] ++ [0xB0010000, 0x00FFFF01, 0, 0, 0, 0, 0, 0] ++ [0x00010001, 0x01200000, 0, 0] ++
  [0x00100000, 0, 0, 0] ++ [0x10100000, 0, 0, 0])
def routeBinds : List Word := [0x28000, 0, 0, 0, 4, 1, 1, 0] ++ [0x2C000, 0, 0, 0, 4, 1, 1, 0]
def route5 : Route := { handle := 5, session := 1, program := routeProg }
def withRoute (s : State) : State := { s with field := { s.field with routes := [route5] } }
/-- FIELD_OP: SORT of one FP32 key (R379). -/
def fieldOp : List Word := [0x02010001, 0, 1, 0, 0, 0x28000, 0, 0, 0, 0x2C000, 0, 0, 0, 0, 0, 0]
def job5 : WaitingRoute where
  cmd := cQ
  session := 1
  part := 0
  cls := 0
  sq := 4
  handle := 5
  program := routeProg
  binds := [⟨0x28000, 0, 4, 1, 1⟩, ⟨0x2C000, 0, 4, 1, 1⟩]
  op := []
  submitted := 0
def run5 : RouteRun where
  job := job5
  start := 0
  proof := false
  epoch := 0
  guards := []
  queues := [{ sector := 0, queue := 0, tiles := [], released := 0, detections := [], moved := 0 }]
  indexFaults := 0
  reruns := 0
  restarted := false
  warn := 0
  pins := []
  copies := []
  space := []
  keys := 0
  saved := []
def withPart (p : Partition) (s : State) : State := { s with field := { s.field with parts := p :: s.field.parts.drop 1 } }
def running5 (f : RouteRun → RouteRun) : State := withPart { Partition.reset with run := some (f run5) } W
def tile1 : Tile := { rows := 1, cols := 1, valid := 1, elems := [0], flags := 0, faults := 0 }
def queuePos (l : List Tile) (released : Nat) (detections : List (Nat × Nat)) (r : RouteRun) : RouteRun := { r with
  queues := [{ sector := 0, queue := 0, tiles := l, released := released, detections := detections, moved := 0 }] }
def staticPart (l : List Admitted) (s : State) : State := { s with plate := { s.plate with admitted := l, parts := { entry := [0xA10FF000, 1, 0x00040000, 0, 1000] ++ List.replicate 11 0, slots := [], maps := [] } :: s.plate.parts.drop 1 } }
def waits9 : Admitted := { key := ⟨.queue 4, 9⟩, part := 0, bound := 100, deadline := atGtc 1000000, started := none }
def check1 (o : CheckFor) (a : Bool) : CheckRun := { req := { owner := o, request := List.replicate 192 0, part := none }, start := 0, verdict := { accepted := a, reason := 0, knot := 0, index := 0, group := some 0, feasible := true, crc := 0, limitSet := 0, origin := pvZero } }

/-! A serving loop of one layer, one group and one head (R473, R474). -/

def attProg (op : Nat) : Bytes := bytesOf ([0x01010001] ++ List.replicate 31 0 ++ [BitVec.ofNat 32 (0x40000000 + op * 2 ^ 24), 0xFFFFFF00, 0, 0, 0, 0, 0, 0])
def cfgWords (entries : Nat) : List Word :=
  [0x01010100, 0x20001001, 0, 0x00010100, 0, 0, 0, 0, 1, 0, 0x28000, 0, BitVec.ofNat 32 entries] ++ List.replicate 19 0
def stepWords : List Word :=
  [0x30000006, 0, 0x2A000, 0] ++ [0x40000007, 0, 0x2A000, 0] ++ [0x60000005, 0, 0x2A000, 0] ++ [0x70000005, 0, 0x2A000, 0]
def withRoutes (s : State) : State := { s with field := { s.field with
  routes := [route5, { handle := 6, session := 1, program := attProg 0 }, { handle := 7, session := 1, program := attProg 1 }] } }
def roomy (s : State) : State := { s with
  cmds := { s.cmds with sessions := [{ session1 with quota := 0x100000000 }] },
  boot := { s.boot with prot := s.boot.prot ++ [(0x1020, 0x20)] } }
def loop1 : Loop := freshLoop 0 1 cQ (bytesOf (cfgWords 4)) (bytesOf stepWords) [0x100000, 0x110000, 0x120000, 0x130000, 0x140000, 0x150000]
def seq1 (st : SeqState) : Sequence where
  id := 7
  session := 1
  cmd := cQ
  st := st
  slot := 0
  len := 1
  promptLen := 1
  target := 1
  tokens := [5]
  entries := []
  nodes := []
  fill := 0
  draft := none
  inUse := none
  leaves := []
  leaver := none
  maxNew := 4
  wait := false
  outWindow := 1
  outOffset := 0
  generated := 0
  joined := 0
  admitted := some 0
  pausedAt := none
  seenBoundary := true
def serving (l : Loop) : State := { W with loops := [l] }

/-- The headers of an MPC problem of one knot and of a DYN problem with STOP. -/
def mpcImg : Bytes := bytesOf [0x00013000, 0, 0, 0, 0, 0x01000000, 0x00010001, 0]
def dynImg : Bytes := bytesOf ([0x00012000] ++ List.replicate 10 0 ++ [0x00020001])
def engineOf (b : Bytes) : Engine := { Engine.reset .active with slots := { Slot.empty with active := some { lsq0 with bytes := b } } :: List.replicate 7 Slot.empty }
/-- A device on which sequence 7 can bind the MPC problem of engine 0 in a STEP slot's BATCH. -/
def binding : State := { roomy (serving { loop1 with seqs := [seq1 .running] }) with
  solver := { W.solver with engines := [engineOf mpcImg, engineOf dynImg] ++ W.solver.engines.drop 2 },
  plate := { W.plate with parts := { entry := defaultPart0, slots := [0x88000000 :: List.replicate 7 0], maps := [] } :: W.plate.parts.drop 1 } }
def bound : State := began binding 0 cQ
def bindSession : Session := { session1 with quota := 0x100000000, counters := { Counters.zero with started := 1 } }
theorem bind_room : ∃ u1 k1 u2 k2, serveAlloc bound bindSession (12 * 2 * chunkElems mpcImg 0)
      (peFirstSlice (partEntry bound 0) * sliceBytes) (peFirstSlice (partEntry bound 0) * sliceBytes + peSliceCount (partEntry bound 0) * sliceBytes)
        = some (u1, k1)
    ∧ serveAlloc u1 bindSession (areaBytes (bindResultBytes mpcImg dynImg)) lpddrBase (lpddrBase + lpddrBytes) = some (u2, k2) := by
  obtain ⟨u1, k1, e1, hb, hl, hs, hheld, hboot, hplate⟩ := Laws.serveAlloc_room (s := bound) (x := bindSession) (bytes := 12 * 2 * chunkElems mpcImg 0)
    (lo := peFirstSlice (partEntry bound 0) * sliceBytes)
    (hi := peFirstSlice (partEntry bound 0) * sliceBytes + peSliceCount (partEntry bound 0) * sliceBytes)
    (by decide +kernel) (by decide +kernel) (by decide +kernel)
  obtain ⟨u2, k2, e2, -⟩ := Laws.serveAlloc_room (s := u1) (x := bindSession) (bytes := areaBytes (bindResultBytes mpcImg dynImg))
    (lo := lpddrBase) (hi := lpddrBase + lpddrBytes) (by
      have h : lpddrHeld bound + checkedBytes 2 (12 * 2 * chunkElems mpcImg 0)
        + bound.plate.spills.foldl (fun n x => n + x.2) 0 + checkedBytes 2 (areaBytes (bindResultBytes mpcImg dynImg)) ≤ lpddrBytes := by decide +kernel
      unfold lpddrFits
      rw [hplate]
      exact decide_eq_true (by omega)) (by rw [hs]; decide +kernel) (by
      rw [hb, hl]
      unfold fnMemBase fnMemLimit protNum
      rw [hboot]
      decide +kernel)
  exact ⟨u1, k1, u2, k2, e1, e2⟩

/-! A main firmware image (R594): no payload, key slot 0. -/

def fwImg : Bytes := [1, 3, 0, 0, 0, 0, 0, 0, 0, 0, 0, 0, 0, 0, 0, 0] ++ sha384 [] ++ List.replicate 448 0
def shellImg : Bytes := [1, 2, 0, 0, 0, 0, 0, 0, 0, 0, 0, 0, 255, 0, 0, 0] ++ sha384 [] ++ List.replicate 448 0
def keyed (s : State) : State := { s with boot := { s.boot with
  otp := { s.boot.otp with keys := sha384 (List.replicate 97 0) :: s.boot.otp.keys.drop 1 } } }
theorem accepted_eq {s : State} {kind : Nat} {b : Bytes}
    (h1 : (biFieldsOk b && biKind b == kind && b.length == 512 + biLength b && sha384 (biPublic b) == s.boot.otp.keys.getD (biKey b) [] && !s.boot.otp.revoked.getD (biKey b) true
      && (keyMask s kind).testBit (biKey b)) = true)
    (hv : Config.ecdsaVerify (biPublic b) (b.take 168) (biSignature b) = true)
    (h2 : (sha384 (biPayload b) == biDigest b && decide (s.boot.otp.floors.getD (kind - 1) 0 ≤ biVersion b)
      && (kind != 4 || ppOk (biPayload b))) = true) : imageAccepted s kind b = true := by
  simp only [imageAccepted, Bool.and_eq_true] at *
  exact ⟨⟨⟨⟨h1, hv⟩, h2.1.1⟩, h2.1.2⟩, h2.2⟩

theorem ok_bytes {e : Except Status Bytes} {b : Bytes} (h : (match e with | .ok x => x == b | .error _ => false) = true) : e = .ok b := by
  cases e with
  | ok a => rw [beq_iff_eq.1 h]
  | error st => nomatch h
theorem shellSwap_eq {s : State} (h1 : imageAccepted s 2 (bootSlot s 2 (!s.boot.shellB)) = true)
    (h2 : (!s.boot.protLoaded && formatOk s (bootSlot s 2 (!s.boot.shellB))) = true) : shellSwapOk s = true := by
  simp only [Bool.and_eq_true, Bool.not_eq_true'] at h2
  simp [shellSwapOk, swapChanges, h2.1, h1, h2.2]

/-! Peers, CAN and streams. -/

def peerWindow3 : PeerWindow := { id := 3, session := 1, base := 0x20000, length := 0x1000, devices := 2, writable := true, readable := true }
def withPeer (f : Peer → Peer) : State := { W with ports := { W.ports with peer := f W.ports.peer } }
def message1 (n : Nat) : PeerMessage := { device := 1, seq := 0, header := makeHeader 0 0 { type := 1, dst := 1, window := 3, transfer := 2 }, payload := [], resends := n, transfer := 2, offset := 0, length := 4 }
def transfer2 (w : Bool) : PeerTransfer := { cmd := cQ, write := w, window := 1, local_ := 0x20000, length := 4, id := 2, outcomes := [] }
def canBlock (w0 : Word) : Bytes := bytesOf [w0, 500000, 0, 0x50000000, 0x20000, 0, 2, 0]
def withCan (b : Bytes) (q : List CanFrame) : State := { W with ports := { W.ports with
  can := { CanPort.reset with block := b, queue := q } :: W.ports.can.drop 1 } }
def streamDesc (ring : Word) : List Word := [0x01210000, 0x12340000, 1000, 64, ring, 0x10, 2, 0]
def withStream (x : Stream) : State := { W with ports := { W.ports with streams := x :: W.ports.streams.drop 1 } }
def netImg : Bytes := bytesOf ([0x01000100] ++ List.replicate 7 0 ++ [1, 2, 0, 0, 0, 0])

/-! Ill-formed commands (R11): for each operand check, commands that it refuses, and beside them the last value that it takes. -/

theorem smoke_admin :
    ¬ Instr.WellFormed (.identify 0 cQ 4) ∧ Instr.WellFormed (.identify 0 cQ 3)
    ∧ ¬ Instr.WellFormed (.huskRead 0 cQ 0 0 1 0) ∧ ¬ Instr.WellFormed (.huskRead 0 cQ 0 65537 1 0) ∧ Instr.WellFormed (.huskRead 0 cQ 0 65536 1 0)
    ∧ ¬ Instr.WellFormed (.ifStatus 0 cQ 5 1 0) ∧ Instr.WellFormed (.ifStatus 0 cQ 4 1 0)
    ∧ ¬ Instr.WellFormed (.sectorRemap 0 cQ 18) ∧ Instr.WellFormed (.sectorRemap 0 cQ 17)
    ∧ ¬ Instr.WellFormed (.safeStateRequest 0 cQ false) ∧ Instr.WellFormed (.safeStateRequest 0 cQ true) := by
  unfold Instr.WellFormed
  decide +kernel

theorem smoke_queues :
    ¬ Instr.WellFormed (.createCq 0 cQ 1 0x1000 1 true 0 1 0) ∧ ¬ Instr.WellFormed (.createCq 0 cQ 1 0x1001 2 true 0 1 0)
    ∧ ¬ Instr.WellFormed (.createCq 0 cQ 1 0x1000 65537 true 0 1 0) ∧ ¬ Instr.WellFormed (.createCq 0 cQ 1 0x1000 2 true 0 0 0)
    ∧ Instr.WellFormed (.createCq 0 cQ 1 0x1000 65536 true 0 1 0)
    ∧ ¬ Instr.WellFormed (.createSq 0 cQ 1 0x1000 1 true true 2 0 0 0) ∧ ¬ Instr.WellFormed (.createSq 0 cQ 1 0x1000 2 true true 2 0 16 0)
    ∧ ¬ Instr.WellFormed (.createSq 0 cQ 1 0x1000 2 true true 2 0 0 3) ∧ Instr.WellFormed (.createSq 0 cQ 1 0x1000 2 true true 2 0 0xFF 2)
    ∧ ¬ Instr.WellFormed (.memAlloc 0 cQ 1 0 0 12) ∧ ¬ Instr.WellFormed (.memAlloc 0 cQ 1 1 4 12) ∧ ¬ Instr.WellFormed (.memAlloc 0 cQ 1 1 0 11)
    ∧ ¬ Instr.WellFormed (.memAlloc 0 cQ 1 1 0 31) ∧ Instr.WellFormed (.memAlloc 0 cQ 1 1 3 30)
    ∧ ¬ Instr.WellFormed (.dmaCopy 0 cQ 1 1 0 0 64 3) ∧ Instr.WellFormed (.dmaCopy 0 cQ 1 1 0 0 64 2) := by
  unfold Instr.WellFormed
  decide +kernel

theorem smoke_units :
    ¬ Instr.WellFormed (.selftestStatus 0 cQ 0 18) ∧ ¬ Instr.WellFormed (.selftestStatus 0 cQ 1 9) ∧ ¬ Instr.WellFormed (.selftestStatus 0 cQ 2 16)
    ∧ ¬ Instr.WellFormed (.selftestStatus 0 cQ 3 0) ∧ Instr.WellFormed (.selftestStatus 0 cQ 0 17)
    ∧ ¬ Instr.WellFormed (.powerProfile 0 cQ 0) ∧ ¬ Instr.WellFormed (.powerProfile 0 cQ 6) ∧ Instr.WellFormed (.powerProfile 0 cQ 5)
    ∧ ¬ Instr.WellFormed (.powerUnit 0 cQ 0x10012 2) ∧ ¬ Instr.WellFormed (.powerUnit 0 cQ 0x40003 1) ∧ ¬ Instr.WellFormed (.powerUnit 0 cQ 0x10000 3)
    ∧ Instr.WellFormed (.powerUnit 0 cQ 0x4FFFF 1)
    ∧ ¬ Instr.WellFormed (.thermalSet 0 cQ 1921) ∧ Instr.WellFormed (.thermalSet 0 cQ 1920)
    ∧ ¬ Instr.WellFormed (.encConfig 0 cQ 0 3 0 0 0) ∧ ¬ Instr.WellFormed (.encConfig 0 cQ 0 2 0 7 0) ∧ ¬ Instr.WellFormed (.encConfig 0 cQ 0 2 0 41 0)
    ∧ Instr.WellFormed (.encConfig 0 cQ 0 2 0 40 0)
    ∧ ¬ Instr.WellFormed (.canSend 0 cQ 0 0x800 false false false 8 0 pvZero) ∧ ¬ Instr.WellFormed (.canSend 0 cQ 0 5 false false false 9 0 pvZero)
    ∧ ¬ Instr.WellFormed (.canSend 0 cQ 0 5 false false true 8 0 pvZero) ∧ ¬ Instr.WellFormed (.canSend 0 cQ 0 5 true true true 65 0 pvZero)
    ∧ Instr.WellFormed (.canSend 0 cQ 0 0x7FF false false false 8 0 pvZero) := by
  unfold Instr.WellFormed
  decide +kernel

theorem smoke_engines_and_channels :
    ¬ Instr.WellFormed (.structLoad 0 cQ 9 1 0 256) ∧ ¬ Instr.WellFormed (.structUnload 0 cQ 9 1) ∧ ¬ Instr.WellFormed (.structQuery 0 cQ 9 0)
    ∧ ¬ Instr.WellFormed (.solve 0 cQ 9 0 1 0 1 0 64) ∧ ¬ Instr.WellFormed (.solveDiagRead 0 cQ 9 0 1 0 64) ∧ ¬ Instr.WellFormed (.engineStatus 0 cQ 9)
    ∧ ¬ Instr.WellFormed (.engineSwap 0 cQ 9) ∧ ¬ Instr.WellFormed (.solveStateRead 0 cQ 9 0 1 0) ∧ ¬ Instr.WellFormed (.solveStateWrite 0 cQ 9 0 1 0)
    ∧ Instr.WellFormed (.solve 0 cQ 8 0 1 0 1 0 64)
    ∧ ¬ Instr.WellFormed (.servoChannelConfig 0 cQ 96 0 1 0 1 0) ∧ ¬ Instr.WellFormed (.servoEnable 0 cQ 96) ∧ ¬ Instr.WellFormed (.servoDisable 0 cQ 96)
    ∧ ¬ Instr.WellFormed (.servoClearFault 0 cQ 96) ∧ ¬ Instr.WellFormed (.servoStatus 0 cQ 96) ∧ ¬ Instr.WellFormed (.servoGainsBasic 0 cQ 96 1 0 pvZero)
    ∧ Instr.WellFormed (.servoEnable 0 cQ 95) := by
  unfold Instr.WellFormed
  decide +kernel

theorem smoke_routes_and_sequences :
    ¬ Instr.WellFormed (.routeUnload 0 cQ 0) ∧ ¬ Instr.WellFormed (.routeRun 0 cQ 0 1 0) ∧ Instr.WellFormed (.routeRun 0 cQ 4095 1 0)
    ∧ ¬ Instr.WellFormed (.seqJoin 0 cQ 1 0 0 4 false 1 0) ∧ Instr.WellFormed (.seqJoin 0 cQ 1 0 1 4 false 1 0)
    ∧ ¬ Instr.WellFormed (.actionBind 0 cQ 7 9 0 1 0 0 2 0 0) ∧ ¬ Instr.WellFormed (.actionBind 0 cQ 7 0 0 0xF 0 0 2 0 0)
    ∧ ¬ Instr.WellFormed (.actionBind 0 cQ 7 0 0 1 0 0 0 0 0) ∧ ¬ Instr.WellFormed (.actionBind 0 cQ 7 0 0 1 0 0 65 0 0)
    ∧ ¬ Instr.WellFormed (.actionBind 0 cQ 7 0 0 1 0 0 2 33 0) ∧ Instr.WellFormed (.actionBind 0 cQ 7 0xF 0 8 0 0 64 32 0)
    ∧ ¬ Instr.WellFormed (.imprintConfig 0 cQ 4 1 0 0 true) ∧ Instr.WellFormed (.imprintConfig 0 cQ 4 1 0 0 false) := by
  unfold Instr.WellFormed
  decide +kernel

/-! Arithmetic, against R197, R201 and R208. -/

/-- MAP add, subtract, multiply and fused multiply-add (R197). -/
theorem test_map_arithmetic :
    fadd 1 1 = plain 2 ∧ fadd 0x7F7FFFFF 0x7F7FFFFF = ⟨0x7F800000, flagOF⟩ ∧ fadd 0x7F7FFFFF 0xFF7FFFFF = plain 0 ∧ fmul 1 0x3F000000 = plain 0
    ∧ fmul 1 0x7F7FFFFF = plain 0x34FFFFFF ∧ fmul 0x7F7FFFFF 0x40000000 = ⟨0x7F800000, flagOF⟩
    ∧ ffma 0x7F7FFFFF 0x40000000 0xFF7FFFFF = plain 0x7F7FFFFF := by
  decide +kernel

/-- MAP divide, exponential, logarithm, 1/√x, maximum (R197). -/
theorem test_map_functions :
    fdiv 0x3F800000 1 = ⟨0x7F800000, flagOF⟩ ∧ fdiv 1 0x7F7FFFFF = plain 0 ∧ fdiv 0x3F800000 0 = ⟨0x7F800000, flagDZ⟩ ∧ fdiv 0 0 = ⟨0x7FC00000, flagNV⟩
    ∧ fexp 0x7F7FFFFF = ⟨0x7F800000, flagOF⟩ ∧ fexp 0xFF7FFFFF = plain 0 ∧ fexp 1 = plain 0x3F800000 ∧ fexp 0xFF800000 = plain 0
    ∧ flog 0 = ⟨0xFF800000, flagDZ⟩ ∧ flog 0xBF800000 = ⟨0x7FC00000, flagNV⟩ ∧ frsqrt 0x80000000 = ⟨0xFF800000, flagDZ⟩
    ∧ fmax 0x7FC00000 0x7F7FFFFF = 0x7FC00000 ∧ fmax 0x80000000 0 = 0 := by
  decide +kernel

/-- Conversions to E4M3, E5M2, BF16, FP16 and INT8 (R197). -/
theorem test_conversions :
    cvtE4M3 0x7F7FFFFF = ⟨0x7E, flagSAT⟩ ∧ cvtE4M3 0x43E80000 = plain 0x7E ∧ cvtE4M3 0x43E84000 = ⟨0x7E, flagSAT⟩ ∧ cvtE4M3 1 = plain 0
    ∧ cvtE4M3 0x80000001 = plain 0x80 ∧ cvtE4M3 0x7F800000 = ⟨0x7E, flagSAT⟩ ∧ cvtE4M3 0x7FC00000 = plain 0x7F
    ∧ cvtE5M2 0x7F7FFFFF = ⟨0x7B, flagSAT⟩ ∧ cvtE5M2 0x7F800000 = plain 0x7C ∧ cvtE5M2 0x7FC00000 = plain 0x7E
    ∧ cvt16 fmtBF16 0x7F7FFFFF = ⟨0x7F80, flagOF⟩ ∧ cvt16 fmtBF16 0x00010000 = plain 1 ∧ cvt16 fmtFP16 0x477FF000 = ⟨0x7C00, flagOF⟩
    ∧ cvtInt 8 0x7F7FFFFF = ⟨127, flagSAT⟩ ∧ cvtInt 8 0xFF7FFFFF = ⟨0x80, flagSAT⟩ ∧ cvtInt 8 0x40200000 = plain 2 ∧ cvtInt 8 0x7FC00000 = ⟨0, flagNV⟩ := by
  decide +kernel

/-- MATRIX products into an FP32 accumulator of 0 (R197). -/
theorem test_matrix_products :
    dotAcc false 0 [decodeFp fmtE4M3 0x7E] [decodeFp fmtE4M3 0x7E] = plain 0x48440000
    ∧ dotAcc false 0 [decodeFp fmtE4M3 1] [decodeFp fmtE4M3 1] = plain 0x36800000
    ∧ dotAcc false 0 [decodeFp fmtE5M2 0x7B] [decodeFp fmtE5M2 0x7B] = plain 0x4F440000
    ∧ dotAcc false 0 [decodeFp fmtE5M2 0x7C] [decodeFp fmtE5M2 0] = ⟨0x7FC00000, flagNV⟩
    ∧ dotAcc false 0 [decodeFp fmtBF16 0x7F7F] [decodeFp fmtBF16 0x7F7F] = ⟨0x7F800000, flagOF⟩
    ∧ dotAcc false 0 [decodeFp fmtBF16 1] [decodeFp fmtBF16 0x3F80] = ⟨0, flagFZ⟩
    ∧ dotAcc true 0 [decodeFp fmtBF16 1] [decodeFp fmtBF16 0x3F80] = plain 0x00010000 := by
  decide +kernel

/-- Integer division, and its cycles (R200, R201). -/
theorem test_integer_division :
    udiv 7 0 = ⟨(0xFFFFFFFF, 7), flagDZ⟩ ∧ sdiv (-7) 0 = ⟨(-1, -7), flagDZ⟩ ∧ sdiv 0 0 = ⟨(-1, 0), flagDZ⟩ ∧ sdiv 0x80000000 (-1) = ⟨(0x80000000, 0), flagOV⟩
    ∧ sdiv (-7) 2 = plain (-3, -1) ∧ sdiv 0x80000000 1 = plain (0x80000000, 0) ∧ udiv 0xFFFFFFFF 1 = plain (0xFFFFFFFF, 0) ∧ udiv 0 5 = plain (0, 0)
    ∧ divCycles 142857 = 8 ∧ divCycles 0xFFFFFFFF = 11 ∧ divCycles 3 = 4 ∧ divCycles 0 = 3 := by
  decide +kernel

/-- The fixed point of the solver engines, in format 30 (R208). -/
theorem test_solver_arithmetic :
    solverMul wMax wMax 30 30 30 = ⟨wMax, flagSAT⟩ ∧ solverMul wMin wMin 30 30 30 = ⟨wMax, flagSAT⟩ ∧ solverMul wMin 1 30 30 30 = plain (-2)
    ∧ solverMul 1 1 30 30 30 = plain 0 ∧ solverAdd wMax 1 = ⟨wMax, flagSAT⟩
    ∧ accAdd (2 ^ 78 - 2 ^ 62) (2 ^ 62) = plain (2 ^ 78) ∧ accAdd (2 ^ 79 - 2 ^ 62) (2 ^ 62) = ⟨2 ^ 79 - 1, flagSAT⟩
    ∧ solverDiv wMax 1 30 = ⟨wMax, flagSAT⟩ ∧ solverDiv wMin (-1) 30 = ⟨wMax, flagSAT⟩ ∧ solverDiv 1 wMax 30 = plain 1 ∧ solverDiv 0 0 30 = ⟨wMax, flagSAT⟩
    ∧ solverDiv (-1) 0 30 = ⟨wMin, flagSAT⟩
    ∧ solverSqrt wMax 30 30 = plain 0x5A82799A ∧ solverSqrt 1 30 30 = plain 0x8000 ∧ solverSqrt wMin 30 30 = ⟨0, flagSAT⟩ := by
  decide +kernel

/-- A root that lies half way between two words rounds to the even one (R206); an unsigned element keeps its value (R172). -/
theorem test_root_tie_and_unsigned :
    solverSqrt 9 2 0 = plain 2 ∧ solverSqrt 25 2 0 = plain 2 ∧ solverSqrt 49 2 0 = plain 4
    ∧ (toLane 9 0xFFFFFFFF).val.asFp = 0x4F800000 ∧ (toLane 8 0xFFFFFFFF).val.asFp = 0xBF800000 := by
  decide +kernel

/-! Worked examples of the spec. -/

/-- The slew limiter's example under R307: set-point and velocity of its first 19 samples. -/
theorem test_slew_example :
    let b := [0x01000000, 0, 0, 10, 0, 2] ++ List.replicate 26 (0 : Word)
    let r := List.replicate 7 (100 * 65536) ++ List.replicate 12 (20 * 65536)
    let run := r.foldl (fun (x : Channel × List (Int × Int)) p => let c := slew b x.1 p; (c, x.2 ++ [(c.v / 2 ^ 32, c.ps / 2 ^ 32)])) (Channel.reset, [])
    run.2 = [(2, 2), (4, 6), (6, 12), (8, 20), (10, 30), (10, 40), (10, 50), (8, 58), (6, 64), (4, 68), (2, 70), (0, 70), (-2, 68), (-4, 64),
      (-6, 58), (-8, 50), (-10, 40), (-8, 32), (-6, 26)] := by
  decide +kernel

/-- The lidar of the example of section 02: the phase at 13,888, 13,889 and 24,999 ticks after edge 1,800,450, for a period of 27,778. -/
theorem test_lidar_fraction :
    let p := { PhaseSource.off with cfg := 0x12030000 :: List.replicate 7 0, raw := 0x1B79020000, edges := 6, countValid := true, sameWay := true, intervals := [27778, 27778, 27778, 27778] }
    psRaw p 13888 = 1800450 * 65536 + 0x7FFD ∧ psRaw p 13889 = 1800450 * 65536 + 0x8000 ∧ psRaw p 24999 = 1800450 * 65536 + 0xE663 := by
  decide +kernel

/-- The calibration of the example of section 02: an offset of −1,203.5 counts is the word pair 0xFB4C8000, 0xFFFFFFFF. -/
theorem test_calibration_offset :
    psCalibrate [0x20160000, 0, 0, 0x40000000, 0xFB4C8000, 0xFFFFFFFF, 0, 0] (1204 * 65536) = 32768 := by
  decide +kernel

/-- A share of four slices at slice 4: address 0x01040A10 lies in slice 6 (example of section 10). -/
theorem test_slice_of_address :
    let s := { W with plate := { W.plate with parts := { entry := [0xC08DF000, 1, 0x00040004] ++ List.replicate 13 0, slots := [], maps := [] } :: W.plate.parts.drop 1 } }
    sliceOf s 0x01040A10 = 6 ∧ sliceOf s (0x01040A10 + 256) = 7 ∧ sliceOf s (0x01040A10 + 512) = 4 := by
  decide +kernel

/-- The transposing read of the example of section 10: its busiest bank has 32 of the 256 requests at a pitch of 256 words, 8 at 260. -/
theorem test_transposing_read :
    let l := fun pitch => (transposeReqs 1 { Region.off with slots := 1, words := 32768 } 0 pitch).map (fun r => bankOf r.group)
    let busiest := fun pitch => (List.range 64).foldl (fun m b => max m ((l pitch).count b)) 0
    (l 256).length = 256 ∧ busiest 256 = 32 ∧ busiest 260 = 8 := by
  decide +kernel

/-- The spill-out bound of the example of section 13: 4 sectors and 4 slices at 326 GB/s take 75.1 µs. -/
theorem test_spill_bound :
    let e := fun (w0 w2 w3 : Word) => ({ entry := [w0, 1, w2, w3] ++ List.replicate 12 0, slots := [], maps := [] } : PlatePart)
    let s := { W with plate := { W.plate with header := W.plate.header.set 6 40, parts := e 0xA0800000 0x00040000 0 :: e 0xC8800000 0x00040004 0x00B40000 :: W.plate.parts.drop 2 } }
    spillBound s 0 = 75114 := by
  decide +kernel

/-- The doorbell of the example of section 00: 0x0001004000000003 names queue 3 and tail 64, its reserved bit ignored (R9). -/
theorem test_doorbell_fields :
    let s := { W with cmds := { W.cmds with sqs := [{ queue4 with id := 3, depth := 256, tail := 0 }] } }
    (match exec (.hifDoorbell 5 0 0x0001004000000003) s with | .next u => (findSq u 3).map (·.tail) | _ => none) = some 64 := by
  decide +kernel

/-- The completion of the example of section 04: ETCH_CONFLICT for command 0x0031 of queue 0x1A05, on the first pass. -/
theorem test_completion_words :
    (completionWords true 1 { done0 with cmdId := 0x31, sq := 0x1A05, status := stETCH_CONFLICT }).take 3 = [0x80300031, 0x1A05, 1] := by
  decide +kernel

/-- 332,500 cycles take 190.0 µs at Full, 266.0 µs at Balanced and 415.6 µs at Lean (R652). -/
theorem test_cycle_times :
    cyclesNs (withPower (fun p => { p with profile := 5 })) 332500 = 190000 ∧ cyclesNs (withPower (fun p => { p with profile := 4 })) 332500 = 266000
    ∧ cyclesNs (withPower (fun p => { p with profile := 3 })) 332500 = 415625 := by
  decide +kernel

/-! For each statement of Obligations.lean that has hypotheses, states and operands that meet them, clause by clause. A clause whose
hypotheses name a value that the spec leaves open (a signature's verdict) has its witness under that value. -/

set_option maxRecDepth 20000
set_option Elab.async false

theorem witness_StepRunsFrontCommand :
    (∃ s : State, s.pending = [] ∧ s.phase.hold = none)
    ∧ (∃ s : State, s.pending = [] ∧ s.phase.hold ≠ none) :=
  ⟨⟨W, by decide +kernel, by decide +kernel⟩,
   ⟨{ W with phase := { W.phase with hold := some 5 } }, by decide +kernel, by decide +kernel⟩⟩

theorem witness_EntryRoundTrip :
    ∃ i : Instr, ∃ c : Cmd, ∃ ws : List Word, cmdOf i = some c ∧ Spelled i ∧ encodeEntry i = some ws :=
  ⟨.deleteCq 0 cQ 3, cQ, _, rfl, spelled0, rfl⟩

theorem witness_StepKeepsInvariants :
    ∃ s : State, ∃ s' : State, step s = .next s' :=
  ⟨W, _, rfl⟩

theorem witness_OnlySafetyResetReleasesSto :
    ∃ i : Instr, ∃ s : State, ∃ s' : State, exec i s = .next s' ∧ s.safety.stoHeld = true ∧ s'.safety.stoHeld = false :=
  ⟨.safetyReset 200000000 cF, { W with safety := { W.safety with closedSince := some 0 } }, _, rfl, by decide +kernel, by decide +kernel⟩

theorem witness_GtcsNeverStepBackward :
    ∃ i : Instr, ∃ s : State, ∃ s' : State, exec i s = .next s' ∧ (∀ t, i ≠ .shellPowerUp t) ∧ (∀ t, i ≠ .shellPorstNPulse t) ∧ (∀ t, i ≠ .i3cTargetReset t) ∧ s.phase.gtc ≤ s.phase.shadow :=
  ⟨.cpHeartbeat 5, W, _, rfl, fun _ h => Instr.noConfusion h, fun _ h => Instr.noConfusion h, fun _ h => Instr.noConfusion h, by decide +kernel⟩

theorem witness_OnlyBootCodeWritesProtection :
    (∃ i : Instr, ∃ s : State, ∃ s' : State, exec i s = .next s' ∧ s'.boot.prot ≠ s.boot.prot)
    ∧ (∃ i : Instr, ∃ c : Cmd, ∃ s : State, ∃ s' : State, cmdOf i = some c ∧ exec i s = .next s') :=
  ⟨⟨.shellPowerUp 5, W, _, rfl, by decide +kernel⟩,
   ⟨.deleteCq 0 cQ 3, cQ, W, _, rfl, rfl⟩⟩

theorem witness_UndefinedOperandsRefused :
    ∃ i : Instr, ∃ c : Cmd, cmdOf i = some c ∧ operandsOk i = false :=
  ⟨.identify 0 cQ 4, cQ, rfl, by decide +kernel⟩

theorem witness_CompletionsGoToTheirQueue :
    (∃ c : Cmd, c.key.src = .firmware)
    ∧ (∃ s : State, ∃ c : Cmd, isOpen s c.key = false)
    ∧ (∃ s : State, ∃ c : Cmd, ∃ f : Nat, c.key.src = .mailbox f ∧ isOpen s c.key = true ∧ f < s.hif.funcs.length)
    ∧ (∃ s : State, ∃ c : Cmd, ∃ r : Reply, ∃ q : BitVec 18, c.key.src = .queue q ∧ isOpen s c.key = true ∧ c.quiet = true ∧ r.status = stOK)
    ∧ (∃ s : State, ∃ c : Cmd, ∃ r : Reply, ∃ q : BitVec 18, ∃ o : Outstanding, ∃ sq : SubQueue, c.key.src = .queue q ∧ findOut s c.key = some o ∧ o.done = false ∧ ((c.quiet = true → r.status ≠ stOK)) ∧ imprintWaits s c.key = false ∧ findSq s q.toNat = some sq) :=
  ⟨⟨cF, by decide +kernel⟩,
   ⟨W, cF, by decide +kernel⟩,
   ⟨{ W with cmds := { W.cmds with outstanding := [{ out7 with cmd := cM }] } }, cM, 0, by decide +kernel, by decide +kernel, by decide +kernel⟩,
   ⟨W, { cQ with quiet := true }, reply stOK, 4, by decide +kernel, by decide +kernel, by decide +kernel, by decide +kernel⟩,
   ⟨W, cQ, reply stOK, 4, _, _, by decide +kernel, rfl, by decide +kernel, by decide +kernel, by decide +kernel, rfl⟩⟩

theorem witness_PhaseOrderWraps :
    (∃ p : PhaseSource, psDivider p.cfg ≤ p.divPos.toNat)
    ∧ (∃ s : State, ∃ v : PhaseValue, ∃ p : PhaseSource, ∃ q : Nat, pvIsGtc v = false ∧ p = matchSource s (pvSource v) ∧ q = matchPhase p (now s) (pvPhase v))
    ∧ (∃ v : PhaseValue, pvIsGtc v = false)
    ∧ (∃ s : State, ∃ v : PhaseValue, ∃ q : Nat, pvIsGtc v = false ∧ pvDecreasing v = false ∧ q = matchPhase (matchSource s (pvSource v)) (now s) (pvPhase v) ∧ (((pvPhase v : Int) - q) % 2 ^ 64 < 2 ^ 63) ∧ pvPhase v ≠ q)
    ∧ (∃ p : PhaseValue, pvIsGtc p = false ∧ pvDecreasing p = false) :=
  ⟨⟨{ PhaseSource.off with cfg := 0x10000000 :: List.replicate 7 0, raw := 0xFFFFFFFFFFFF0000 }, by decide +kernel⟩,
   ⟨W, atCount 5, _, _, by decide +kernel, rfl, rfl⟩,
   ⟨atCount 5, by decide +kernel⟩,
   ⟨withSource running0, atCount 9, _, by decide +kernel, by decide +kernel, rfl, by decide +kernel, by decide +kernel⟩,
   ⟨atCount 5, by decide +kernel, by decide +kernel⟩⟩

theorem witness_FractionNeedsEdges :
    (∃ p : PhaseSource, psInterpValid p = true)
    ∧ (∃ p : PhaseSource, psInterpValid p = false)
    ∧ (∃ p : PhaseSource, p.edges.toNat < 2 ^ psInterpLog2 p.cfg ∧ psInterpLog2 p.cfg ≤ 3) :=
  ⟨⟨running0, by decide +kernel⟩,
   ⟨PhaseSource.off, by decide +kernel⟩,
   ⟨PhaseSource.off, by decide +kernel, by decide +kernel⟩⟩

theorem witness_FractionFollowsPeriod :
    ∃ p : PhaseSource, psInterpValid p = true ∧ psType p.cfg ≠ 2 ∧ psType p.cfg ≠ 3 ∧ p.down = false ∧ 2 ^ psInterpLog2 p.cfg ≤ p.intervals.length ∧ psPeriod p ≠ 0 ∧ p.raw.toNat % 65536 = 0 :=
  ⟨running0, by decide +kernel, by decide +kernel, by decide +kernel, by decide +kernel, by decide +kernel, by decide +kernel, by decide +kernel⟩

theorem witness_AccumulatorWriteOut :
    (∃ fs : Int, ∃ fd : Int, fs ≤ fd)
    ∧ (∃ fs : Int, ∃ fd : Int, fd < fs)
    ∧ (∃ acc : Int, ∃ fs : Int, ∃ fd : Int, shiftRound acc (fs - fd) < -2 ^ 31)
    ∧ (∃ acc : Int, ∃ fs : Int, ∃ fd : Int, 2 ^ 31 - 1 < shiftRound acc (fs - fd))
    ∧ (∃ acc : Int, ∃ fs : Int, ∃ fd : Int, -2 ^ 31 ≤ shiftRound acc (fs - fd) ∧ shiftRound acc (fs - fd) ≤ 2 ^ 31 - 1) :=
  ⟨⟨3, 3, by decide +kernel⟩,
   ⟨4, 3, by decide +kernel⟩,
   ⟨-2147483649, 0, 0, by decide +kernel⟩,
   ⟨2147483648, 0, 0, by decide +kernel⟩,
   ⟨-2147483648, 0, 0, by decide +kernel, by decide +kernel⟩⟩

theorem witness_MaxAndMinOrder :
    (∃ a : Word, ∃ b : Word, ((isNan32 a = true ∨ isNan32 b = true)))
    ∧ (∃ a : Word, ∃ b : Word, isNan32 a = false ∧ isNan32 b = false) :=
  ⟨⟨0x7FC00000, 0, by decide +kernel⟩,
   ⟨0x80000000, 0, by decide +kernel, by decide +kernel⟩⟩

theorem witness_SortOrdersKeys :
    (∃ a : Word, ∃ b : Word, isNan32 a = false ∧ isNan32 b = false ∧ ltFp (rd32 a) (rd32 b) = true)
    ∧ (∃ a : Word, ∃ b : Word, isNan32 a = true ∧ isNan32 b = false)
    ∧ (∃ a : Word, ∃ b : Word, isNan32 a = true ∧ isNan32 b = true) :=
  ⟨⟨0xFF800000, 0, by decide +kernel, by decide +kernel, by decide +kernel⟩,
   ⟨0xFFFFFFFF, 0x7F800000, by decide +kernel, by decide +kernel⟩,
   ⟨0x7F800001, 0xFFFFFFFF, by decide +kernel, by decide +kernel⟩⟩

theorem witness_AdminCommandsComplete :
    (∃ t : Nat, ∃ c : Cmd, ∃ id : Word, ∃ s : State, ∃ v : State, ∃ x : Session, began s t c = v ∧ mayName v c id = true ∧ findSession v id = some x ∧ x.events = [] ∧ x.requests.length < 8)
    ∧ (∃ t : Nat, ∃ c : Cmd, ∃ id : Word, ∃ s : State, ∃ v : State, ∃ x : Session, ∃ e : AsyncEvent, ∃ rest : List AsyncEvent, began s t c = v ∧ mayName v c id = true ∧ findSession v id = some x ∧ (x.events = e :: rest) ∧ v.hif.fwReady = true) :=
  ⟨⟨0, cF, 1, W, _, _, rfl, by decide +kernel, rfl, by decide +kernel, by decide +kernel⟩,
   ⟨0, cF, 1, { W with cmds := { W.cmds with sessions := [{ session1 with events := [{ code := 4, result := 4, stamp := 0 }] }] } }, _, _, _, _, rfl, by decide +kernel, rfl, rfl, by decide +kernel⟩⟩

theorem witness_SessionCommandsComplete :
    (∃ t : Nat, ∃ c : Cmd, ∃ id : Word, ∃ s : State, ∃ v : State, began s t c = v ∧ mayName v c id = true)
    ∧ (∃ t : Nat, ∃ c : Cmd, ∃ id : Word, ∃ win : Word, ∃ off : DWord, ∃ s : State, ∃ v : State, ∃ x : Session, ∃ s1 : State, began s t c = v ∧ mayName v c id = true ∧ findSession v id = some x ∧ writeWindow v c win off.toNat (counterBytes v x) = .ok s1)
    ∧ (∃ t : Nat, ∃ c : Cmd, ∃ s : State, ∃ v : State, ∃ slot : Nat, began s t c = v ∧ v.cmds.sessions.length < 16384 ∧ (v.cmds.sessions.filter (fun x => x.fn == fnOf v c)).length < fnSessionLimit v (fnOf v c) ∧ pickFree 0 65536 (Config.handOut v.free) (v.cmds.sessions.map (fun x => x.id.toNat % 65536)) = some slot)
    ∧ (∃ t : Nat, ∃ c : Cmd, ∃ id : Word, ∃ s : State, ∃ v : State, ∃ f : Nat, began s t c = v ∧ c.key.src = .mailbox f ∧ mayName v c id = true) :=
  ⟨⟨0, cF, 1, W, _, rfl, by decide +kernel⟩,
   ⟨0, cF, 1, 1, 0, W, _, _, _, rfl, by decide +kernel, rfl, ok_eq (by decide +kernel)⟩,
   ⟨0, cF, { W with cmds := { W.cmds with sessions := [] } }, _, _, rfl, by decide +kernel, by decide +kernel, rfl⟩,
   ⟨0, cM, 1, W, _, 0, rfl, by decide +kernel, by decide +kernel⟩⟩

theorem witness_QueueCommandsComplete :
    (∃ t : Nat, ∃ c : Cmd, ∃ id : Word, ∃ ring : DWord, ∃ depth : BitVec 17, ∃ dev : Bool, ∃ vec : BitVec 11, ∃ n : BitVec 8, ∃ s : State, ∃ v : State, ∃ x : Session, ∃ q : Nat, began s t c = v ∧ 2 ≤ depth.toNat ∧ depth.toNat ≤ 65536 ∧ ring.toNat % 4096 = 0 ∧ n ≠ 0 ∧ cqPlace v c id ring.toNat depth.toNat vec.toNat dev = .ok (x, q))
    ∧ (∃ t : Nat, ∃ c : Cmd, ∃ id : Word, ∃ ring : DWord, ∃ depth : BitVec 17, ∃ anyId : Bool, ∃ dev : Bool, ∃ cq : BitVec 16, ∃ want : BitVec 18, ∃ part : BitVec 8, ∃ cls : BitVec 2, ∃ s : State, ∃ v : State, ∃ x : Session, ∃ q : Nat, ∃ p : Nat, began s t c = v ∧ 2 ≤ depth.toNat ∧ depth.toNat ≤ 65536 ∧ ring.toNat % 4096 = 0 ∧ ((part.toNat < 16 ∨ part = 0xFF)) ∧ cls ≠ 3 ∧ sqPlace v c id ring.toNat depth.toNat cq.toNat want.toNat part.toNat cls.toNat anyId dev = .ok (x, q, p))
    ∧ (∃ t : Nat, ∃ c : Cmd, ∃ cq : BitVec 16, ∃ s : State, ∃ v : State, ∃ x : ComQueue, began s t c = v ∧ findCq v cq.toNat = some x ∧ ownsObject v c x.session x.fn = true ∧ v.cmds.sqs.any (fun q => q.cq == x.id) = false)
    ∧ (∃ t : Nat, ∃ c : Cmd, ∃ sq : BitVec 18, ∃ s : State, ∃ v : State, ∃ q : SubQueue, ∃ u : State, began s t c = v ∧ findSq v sq.toNat = some q ∧ ownsObject v c q.session q.fn = true ∧ u = done ((v.cmds.outstanding.filter (fun o => o.cmd.key.src == .queue sq && o.cmd.key != c.key && !o.done)).foldl (fun x o => stopCommand x o.cmd.key) v) c stOK)
    ∧ (∃ t : Nat, ∃ c : Cmd, ∃ sq : BitVec 18, ∃ id : BitVec 16, ∃ s : State, ∃ v : State, ∃ q : SubQueue, began s t c = v ∧ findSq v sq.toNat = some q ∧ ownsObject v c q.session q.fn = true ∧ abortRefusal v ⟨.queue sq, id⟩ = none)
    ∧ (∃ t : Nat, ∃ c : Cmd, ∃ sq : BitVec 18, ∃ id : BitVec 16, ∃ s : State, ∃ v : State, ∃ q : SubQueue, ∃ st : Status, began s t c = v ∧ findSq v sq.toNat = some q ∧ ownsObject v c q.session q.fn = true ∧ abortRefusal v ⟨.queue sq, id⟩ = some st)
    ∧ (∃ t : Nat, ∃ c : Cmd, ∃ sq : BitVec 18, ∃ s : State, ∃ v : State, began s t c = v ∧ findSq v sq.toNat = none) :=
  ⟨⟨0, cF, 1, 0x20000, 2, true, 3, 1, { W with cmds := { W.cmds with cqs := [] } }, _, _, _, rfl, by decide +kernel, by decide +kernel, by decide +kernel, by decide +kernel, ok_eq (by decide +kernel)⟩,
   ⟨0, cF, 1, 0x20000, 2048, true, true, 2, 0, 0, 0, { W with cmds := { W.cmds with sqs := [] } }, _, _, _, _, rfl, by decide +kernel, by decide +kernel, by decide +kernel, by decide +kernel, by decide +kernel, ok_eq (by decide +kernel)⟩,
   ⟨0, cF, 3, W, _, _, rfl, rfl, by decide +kernel, by decide +kernel⟩,
   ⟨0, cF, 4, W, _, _, _, rfl, rfl, by decide +kernel, rfl⟩,
   ⟨0, cF, 4, 7, W, _, _, rfl, rfl, by decide +kernel, by decide +kernel⟩,
   ⟨0, cQ, 4, 9, W, _, _, _, rfl, rfl, by decide +kernel, rfl⟩,
   ⟨0, cF, 5, W, _, rfl, by decide +kernel⟩⟩

theorem witness_DoorbellsMoveQueues :
    (∃ t : Nat, ∃ fn : Nat, ∃ value : DWord, ∃ s : State, ∃ v : State, ∃ x : SubQueue, advance s t = v ∧ v.hif.fwReady = true ∧ findSq v (nfld value.toNat 17 0) = some x ∧ fnEnabled v fn = true ∧ sqInRange v fn (nfld value.toNat 17 0) = true ∧ x.fn = fn ∧ x.error = false ∧ nfld value.toNat 47 32 < x.depth)
    ∧ (∃ t : Nat, ∃ fn : Nat, ∃ value : DWord, ∃ s : State, ∃ v : State, ∃ x : ComQueue, advance s t = v ∧ v.hif.shellOnly = false ∧ findCq v (nfld value.toNat 15 0) = some x ∧ fnEnabled v fn = true ∧ cqInRange v fn (nfld value.toNat 15 0) = true ∧ x.fn = fn ∧ nfld value.toNat 47 32 < x.depth ∧ (nfld value.toNat 47 32 + x.depth - x.head) % x.depth ≤ (x.tail + x.depth - x.head) % x.depth)
    ∧ (∃ t : Nat, ∃ fn : Nat, ∃ s : State, ∃ v : State, advance s t = v ∧ v.hif.shellOnly = false ∧ v.hif.fwReady = true ∧ fnEnabled v fn = true ∧ fn < v.hif.funcs.length ∧ (v.hif.funcs.getD fn Func.reset).busy = true)
    ∧ (∃ t : Nat, ∃ fn : Nat, ∃ entry : List Word, ∃ s : State, ∃ v : State, ∃ ws : List Word, ∃ u : State, advance s t = v ∧ v.hif.shellOnly = false ∧ v.hif.fwReady = true ∧ fnEnabled v fn = true ∧ fn < v.hif.funcs.length ∧ (v.hif.funcs.getD fn Func.reset).busy = false ∧ ws = (List.range 16).map (wat entry) ∧ u = { modFunc v fn (fun f => { f with mbxCmd := ws, busy := true, overrun := false, respValid := false }) with cmds := { v.cmds with outstanding := v.cmds.outstanding.filter (fun o => o.cmd.key != (entryCmd (.mailbox fn) ws).key) ++ [{ cmd := entryCmd (.mailbox fn) ws, session := 0, entry := ws, stamp := v.phase.gtc, started := false, deferred := false, done := false }] } } ∧ entryStatus u (.mailbox fn) fn 0 ws = none) :=
  ⟨⟨0, 0, 0x300000004, W, _, _, rfl, by decide +kernel, rfl, by decide +kernel, by decide +kernel, by decide +kernel, by decide +kernel, by decide +kernel⟩,
   ⟨0, 0, 0x100000002, W, _, _, rfl, by decide +kernel, rfl, by decide +kernel, by decide +kernel, by decide +kernel, by decide +kernel, by decide +kernel⟩,
   ⟨0, 0, { W with hif := { W.hif with funcs := { Func.reset with busy := true } :: W.hif.funcs.drop 1 } }, _, rfl, by decide +kernel, by decide +kernel, by decide +kernel, by decide +kernel, by decide +kernel⟩,
   ⟨0, 0, [0x00010007], W, _, _, _, rfl, by decide +kernel, by decide +kernel, by decide +kernel, by decide +kernel, by decide +kernel, rfl, rfl, by decide +kernel⟩⟩

theorem witness_BarAccessesAnswer :
    (∃ t : Nat, ∃ off : Nat, ∃ size : Nat, ∃ s : State, ∃ v : State, advance s t = v ∧ v.hif.shellOnly = false ∧ bar0Accepts false off size = false)
    ∧ (∃ t : Nat, ∃ off : Nat, ∃ size : Nat, ∃ s : State, ∃ v : State, advance s t = v ∧ v.hif.shellOnly = false ∧ bar0Accepts true off size = false)
    ∧ (∃ t : Nat, ∃ fn : Nat, ∃ off : Nat, ∃ size : Nat, ∃ s : State, ∃ v : State, ∃ w : Window, ∃ o : Nat, advance s t = v ∧ v.hif.shellOnly = false ∧ bar2Window v fn off size = some w ∧ w.bar2 = some o ∧ accessStatus v (w.base + (off - o)) size false = none)
    ∧ (∃ t : Nat, ∃ fn : Nat, ∃ off : Nat, ∃ size : Nat, ∃ s : State, ∃ v : State, ∃ w : Window, ∃ o : Nat, advance s t = v ∧ v.hif.shellOnly = false ∧ bar2Window v fn off size = some w ∧ w.bar2 = some o ∧ w.writable = true ∧ accessStatus v (w.base + (off - o)) size true = none)
    ∧ (∃ t : Nat, ∃ fn : Nat, ∃ off : Nat, ∃ size : Nat, ∃ s : State, ∃ v : State, advance s t = v ∧ v.hif.shellOnly = false ∧ bar2Window v fn off size = none)
    ∧ (∃ t : Nat, ∃ fn : Nat, ∃ off : Nat, ∃ size : Nat, ∃ s : State, ∃ v : State, advance s t = v ∧ v.hif.shellOnly = false ∧ bar2Window v fn off size = none)
    ∧ (∃ t : Nat, ∃ fn : Nat, ∃ vector : Nat, ∃ s : State, ∃ v : State, ∃ e : MsixEntry, advance s t = v ∧ v.hif.shellOnly = false ∧ vector < fnMsix v fn ∧ v.hif.msix.find? (fun e => e.fn == fn && e.vector == vector) = some e ∧ e.pend = true)
    ∧ (∃ t : Nat, ∃ fn : Nat, ∃ vector : Nat, ∃ s : State, ∃ v : State, advance s t = v ∧ v.hif.shellOnly = false ∧ vector < fnMsix v fn) :=
  ⟨⟨0, 4, 2, W, _, rfl, by decide +kernel, by decide +kernel⟩,
   ⟨0, 0x1000, 4, W, _, rfl, by decide +kernel, by decide +kernel⟩,
   ⟨0, 0, 0x1FFFC, 4, W, _, _, _, rfl, by decide +kernel, rfl, rfl, by decide +kernel⟩,
   ⟨0, 0, 0x1FFFC, 4, W, _, _, _, rfl, by decide +kernel, rfl, rfl, by decide +kernel, by decide +kernel⟩,
   ⟨0, 0, 0x20000, 4, W, _, rfl, by decide +kernel, by decide +kernel⟩,
   ⟨0, 0, 0x1FFFD, 4, W, _, rfl, by decide +kernel, by decide +kernel⟩,
   ⟨0, 0, 3, { W with hif := { W.hif with msix := [{ fn := 0, vector := 3, addr := 8, data := 1, masked := true, pend := true }] } }, _, _, rfl, by decide +kernel, by decide +kernel, rfl, by decide +kernel⟩,
   ⟨0, 0, 3, W, _, rfl, by decide +kernel, by decide +kernel⟩⟩

theorem witness_EntriesFetchedCompletionsPosted :
    (∃ t : Nat, ∃ sq : BitVec 18, ∃ s : State, ∃ v : State, ∃ x : SubQueue, ∃ b : Nat × Nat, ∃ rest : List (Nat × Nat), ∃ ws : List Word, ∃ u : State, advance s t = v ∧ v.hif.fwReady = true ∧ findSq (drainFifo v) sq.toNat = some x ∧ (x.bells = b :: rest) ∧ ws = toWords 16 (readKey v.mem (ringKey x.inDevice x.fn (x.ring + 64 * x.head)) 64) ∧ mayFetch (drainFifo v) x ws = true ∧ u = modSq (drainFifo v) x.id (fun y => { y with head := (x.head + 1) % x.depth, bells := if (x.head + 1) % x.depth = b.1 then rest else x.bells }))
    ∧ (∃ t : Nat, ∃ cq : BitVec 16, ∃ s : State, ∃ v : State, ∃ x : ComQueue, ∃ e : Completion, ∃ rest : List Completion, advance s t = v ∧ findCq v cq.toNat = some x ∧ (x.waiting = e :: rest) ∧ v.hif.fwReady = true ∧ (x.tail + x.depth - x.head) % x.depth < x.depth - 1)
    ∧ (∃ t : Nat, ∃ cq : BitVec 16, ∃ s : State, ∃ v : State, ∃ x : ComQueue, ∃ f : Nat, advance s t = v ∧ findCq v cq.toNat = some x ∧ x.firstAt = some f ∧ f + 1000 * x.coalTime ≤ v.phase.gtc) :=
  ⟨⟨0, 4, { W with cmds := { W.cmds with sqs := [{ queue4 with cq := 3 }] } }, _, _, _, _, _, _, rfl, by decide +kernel, rfl, rfl, rfl, by decide +kernel, rfl⟩,
   ⟨0, 2, W, _, _, _, _, rfl, rfl, rfl, by decide +kernel, by decide +kernel⟩,
   ⟨2000, 2, W, _, _, _, rfl, rfl, rfl, by decide +kernel⟩⟩

theorem witness_EtchCommandsComplete :
    (∃ t : Nat, ∃ c : Cmd, ∃ w : Word, ∃ off : DWord, ∃ s : State, ∃ v : State, ∃ h : EtchHeader, ∃ acts : List EtchAction, ∃ id : Nat, began s t c = v ∧ readDescriptor v c w off.toNat = .ok (h, acts) ∧ stagedActions v + acts.length ≤ 32768 ∧ newEtchId v = some id)
    ∧ (∃ t : Nat, ∃ c : Cmd, ∃ id : BitVec 16, ∃ s : State, ∃ v : State, ∃ e : Etch, ∃ bs : List Bytes, began s t c = v ∧ findEtch v id.toNat = some e ∧ ownsEtch v c e = true ∧ e.st = .staged ∧ armRows v (partOf v c) e = .ok bs)
    ∧ (∃ t : Nat, ∃ c : Cmd, ∃ w : Word, ∃ off : DWord, ∃ s : State, ∃ v : State, ∃ id : Nat, ∃ u : State, ∃ e : Etch, ∃ bs : List Bytes, began s t c = v ∧ stageFrom v c w off.toNat = .ok (id, u) ∧ findEtch u id = some e ∧ armRows u (partOf u c) e = .ok bs)
    ∧ (∃ t : Nat, ∃ c : Cmd, ∃ id : BitVec 16, ∃ s : State, ∃ v : State, ∃ e : Etch, began s t c = v ∧ findEtch v id.toNat = some e ∧ ownsEtch v c e = true ∧ ((e.st = .staged ∨ e.st = .armed ∨ e.st = .replaced)))
    ∧ (∃ t : Nat, ∃ c : Cmd, ∃ id : BitVec 16, ∃ s : State, ∃ v : State, began s t c = v ∧ findEtch v id.toNat = none)
    ∧ (∃ t : Nat, ∃ c : Cmd, ∃ id : BitVec 16, ∃ s : State, ∃ v : State, ∃ e : Etch, began s t c = v ∧ findEtch v id.toNat = some e ∧ ownsEtch v c e = true) :=
  ⟨⟨0, cF, 1, 0, holding W 0x20000 (bytesOf etchWords), _, _, _, _, rfl, rfl, by decide +kernel, rfl⟩,
   ⟨0, cF, 9, withEtch (etch9 .staged etchHdr), _, _, _, rfl, rfl, by decide +kernel, by decide +kernel, rfl⟩,
   ⟨0, cF, 1, 0, holding W 0x20000 (bytesOf etchWords), _, _, _, _, _, rfl, rfl, List.find?_cons_of_pos (beq_self_eq_true _), ok_eq (by decide +kernel)⟩,
   ⟨0, cF, 9, withEtch (etch9 .armed etchHdr), _, _, rfl, rfl, by decide +kernel, by decide +kernel⟩,
   ⟨0, cF, 9, W, _, rfl, by decide +kernel⟩,
   ⟨0, cF, 9, withEtch (etch9 .armed etchHdr), _, _, rfl, rfl, by decide +kernel⟩⟩

theorem witness_EtchInstantsTakeEffect :
    (∃ t : Nat, ∃ id : Nat, ∃ s : State, ∃ v : State, ∃ a : Arming, ∃ e : Etch, ∃ u : State, advance s t = v ∧ v.etch.arming.find? (fun a => a.etch == id) = some a ∧ u = { v with etch := { v.etch with arming := v.etch.arming.filter (fun b => b.cmd.key != a.cmd.key || b.etch != id) } } ∧ findEtch u id = some e ∧ e.st = .staged ∧ ((e.hdr.kind = 2 → ∃ f, findEtch u e.hdr.fallbackId = some f ∧ f.st = .armed ∧ f.deadlinePassed = false ∧ deadlineArrived u f.hdr.armDeadline = false)) ∧ pvPassed u e.hdr.commitPoint = false ∧ pvReached u e.hdr.commitPoint = false ∧ ((∀ x ∈ u.etch.etches, x.id ≠ e.id → x.st = .armed → x.hdr.commitPoint = e.hdr.commitPoint → ¬(e.hdr.kind = 2 ∧ x.id = e.hdr.fallbackId) → ∀ p ∈ e.acts, ∀ q ∈ x.acts, actObject p ≠ actObject q)))
    ∧ (∃ t : Nat, ∃ k : CmdKey, ∃ s : State, ∃ v : State, ∃ a : PendingAbort, ∃ id : Nat, ∃ w : State, ∃ u : State, advance s t = v ∧ v.etch.aborts.find? (fun a => a.cmd.key == k) = some a ∧ a.target = .etch id ∧ w = commitDue v (fun _ => true) ∧ u = { w with etch := { w.etch with aborts := w.etch.aborts.filter (fun b => b.cmd.key != k) } })
    ∧ (∃ t : Nat, ∃ k : CmdKey, ∃ s : State, ∃ v : State, ∃ a : PendingAbort, ∃ q : CmdKey, ∃ w : State, ∃ u : State, advance s t = v ∧ v.etch.aborts.find? (fun a => a.cmd.key == k) = some a ∧ a.target = .command q ∧ w = deadlineFirst v q ∧ u = { w with etch := { w.etch with aborts := w.etch.aborts.filter (fun b => b.cmd.key != k) } } ∧ abortRefusal u q = none)
    ∧ (∃ t : Nat, ∃ s : State, ∃ v : State, advance s t = v)
    ∧ (∃ t : Nat, ∃ point : PhaseValue, ∃ s : State, ∃ v : State, ∃ e : Etch, advance s t = v ∧ pvReached v point = true ∧ v.etch.etches.filter (fun e => e.st == .armed && pvReached v e.hdr.commitPoint && !matchBefore point e.hdr.commitPoint) = [e] ∧ findEtch v e.id = some e)
    ∧ (∃ t : Nat, ∃ id : Nat, ∃ s : State, ∃ v : State, ∃ e : Etch, advance s t = v ∧ findEtch v id = some e ∧ e.hdr.kind = 1 ∧ e.deadlinePassed = false ∧ ((e.st = .armed ∨ e.st = .replaced)) ∧ deadlineArrived v e.hdr.armDeadline = true)
    ∧ (∃ t : Nat, ∃ k : CmdKey, ∃ s : State, ∃ v : State, ∃ o : Outstanding, ∃ d : PhaseValue, advance s t = v ∧ findOut v k = some o ∧ o.cmd.deadline = some d ∧ o.done = false ∧ deadlineArrived v d = true)
    ∧ (∃ e : Etch, ∃ x : EtchAction, ∃ b : Bytes, e.hdr.kind = 0 ∧ e.hdr.husk = false ∧ e.hdr.notify = false ∧ e.acts = [x] ∧ e.payloads = [b] ∧ x.typ = 5) :=
  ⟨⟨0, 9, { withEtch (etch9 .staged etchHdr) with etch := { W.etch with etches := [etch9 .staged etchHdr], arming := [{ etch := 9, cmd := cF, staged := false, batch := none, payloads := [[]], records := [] }] } }, _, _, _, _, rfl, rfl, rfl, rfl, by decide +kernel, (fun h => absurd h (by decide +kernel)), by decide +kernel, by decide +kernel, (fun x hx hne => absurd (congrArg Etch.id (List.mem_singleton.1 (show x ∈ [etch9 .staged etchHdr] from hx))) hne)⟩,
   ⟨0, cF.key, { W with etch := { W.etch with etches := [etch9 .armed etchHdr], aborts := [{ cmd := cF, target := .etch 9 }] } }, _, _, 9, _, _, rfl, rfl, by decide +kernel, rfl, rfl⟩,
   ⟨0, cF.key, { W with etch := { W.etch with aborts := [{ cmd := cF, target := .command cQ.key }] } }, _, _, _, _, _, rfl, rfl, rfl, rfl, rfl, by decide +kernel⟩,
   ⟨0, W, _, rfl⟩,
   ⟨1000, atGtc 1000, withEtch (etch9 .armed etchHdr), _, etch9 .armed etchHdr, rfl, by decide +kernel, by decide +kernel, by decide +kernel⟩,
   ⟨900, 9, withEtch (etch9 .armed { etchHdr with kind := 1, armDeadline := atGtc 900 }), _, _, rfl, rfl, by decide +kernel, by decide +kernel, by decide +kernel, by decide +kernel⟩,
   ⟨5, cQ.key, { W with cmds := { W.cmds with outstanding := [{ out7 with cmd := { cQ with deadline := some (atGtc 5) } }] } }, _, _, _, rfl, rfl, rfl, by decide +kernel, by decide +kernel⟩,
   ⟨etch9 .armed etchHdr, etchAct, [], by decide +kernel, by decide +kernel, by decide +kernel, by decide +kernel, by decide +kernel, by decide +kernel⟩⟩

theorem witness_PhaseEdgesMoveSources :
    (∃ t : Nat, ∃ n : Nat, ∃ s : State, ∃ v : State, ∃ p : PhaseSource, advance s t = v ∧ v.phase.sources[n]? = some p ∧ ((psType p.cfg = 1 ∨ psType p.cfg = 8)))
    ∧ (∃ t : Nat, ∃ n : Nat, ∃ s : State, ∃ v : State, ∃ p : PhaseSource, advance s t = v ∧ v.phase.sources[n]? = some p ∧ ((psType p.cfg = 6 ∨ psType p.cfg = 7)))
    ∧ (∃ t : Nat, ∃ n : Nat, ∃ s : State, ∃ v : State, ∃ p : PhaseSource, advance s t = v ∧ v.phase.sources[n]? = some p ∧ psType p.cfg = 5)
    ∧ (∃ t : Nat, ∃ n : Nat, ∃ s : State, ∃ v : State, ∃ p : PhaseSource, advance s t = v ∧ v.phase.sources[n]? = some p ∧ psType p.cfg = 8 ∧ p.raw.toNat / 65536 % max 1 (psParam p.cfg % 2 ^ 24) ≠ 0)
    ∧ (∃ t : Nat, ∃ n : Nat, ∃ s : State, ∃ v : State, ∃ p : PhaseSource, advance s t = v ∧ v.phase.sources[n]? = some p ∧ psInterpValid p = true ∧ p.stalled = false ∧ psStallPeriods p.cfg * psPeriod p ≤ v.phase.gtc - p.stamp ∧ sourceReferenced v n 2 = false)
    ∧ (∃ t : Nat, ∃ n : Nat, ∃ s : State, ∃ v : State, ∃ p : PhaseSource, ∃ u : State, advance s t = v ∧ v.phase.sources[n]? = some p ∧ psInterpValid p = true ∧ p.stalled = false ∧ psStallPeriods p.cfg * psPeriod p ≤ v.phase.gtc - p.stamp ∧ sourceReferenced v n 2 = true ∧ u = huskFault (modPs v n (fun p => { p with stalled := true, stallCount := satInc p.stallCount })) (srcPs n) 6 n 8)
    ∧ (∃ t : Nat, ∃ n : Nat, ∃ s : State, ∃ v : State, ∃ p : PhaseSource, advance s t = v ∧ v.phase.sources[n]? = some p ∧ (psInterpValid p = false ∨ p.stalled = true ∨ v.phase.gtc - p.stamp < psStallPeriods p.cfg * psPeriod p))
    ∧ (∃ t : Nat, ∃ n : Nat, ∃ s : State, ∃ v : State, ∃ p : PhaseSource, advance s t = v ∧ v.phase.sources[n]? = some p ∧ (psType p.cfg ≠ 8 ∨ p.raw.toNat / 65536 % max 1 (psParam p.cfg % 2 ^ 24) = 0))
    ∧ (∃ t : Nat, ∃ n : Nat, ∃ s : State, ∃ v : State, ∃ p : PhaseSource, advance s t = v ∧ v.phase.sources[n]? = some p ∧ ((psType p.cfg = 0 ∨ psType p.cfg = 2 ∨ psType p.cfg = 3 ∨ psType p.cfg = 4))) :=
  ⟨⟨0, 0, withSource running0, _, _, rfl, rfl, by decide +kernel⟩,
   ⟨0, 0, withSource { running0 with cfg := 0x60000000 :: List.replicate 7 0 }, _, _, rfl, rfl, by decide +kernel⟩,
   ⟨0, 0, withSource { running0 with cfg := 0x50000000 :: List.replicate 7 0 }, _, _, rfl, rfl, by decide +kernel⟩,
   ⟨0, 0, withSource { running0 with cfg := [0x80000000, 4, 0, 0, 0, 0, 0, 0] }, _, _, rfl, rfl, by decide +kernel, by decide +kernel⟩,
   ⟨7000, 0, withSource { running0 with cfg := [0x10000000, 0, 0x00020000, 0x40000000, 0, 0, 0, 0] }, _, _, rfl, rfl, by decide +kernel, by decide +kernel, by decide +kernel, by decide +kernel⟩,
   ⟨7000, 0, { withSource { running0 with cfg := [0x10000000, 0, 0x00020000, 0x40000000, 0, 0, 0, 0] } with plate := { W.plate with parts := [{ entry := defaultPart0, slots := [[0x80000000, 0, 0, 0, 0, 0, 0, 0]], maps := [] }] } }, _, _, _, rfl, rfl, by decide +kernel, by decide +kernel, by decide +kernel, by decide +kernel, rfl⟩,
   ⟨5500, 0, withSource { running0 with cfg := [0x10000000, 0, 0x00020000, 0x40000000, 0, 0, 0, 0] }, _, _, rfl, rfl, Or.inr (Or.inr (by decide +kernel))⟩,
   ⟨0, 0, withSource running0, _, _, rfl, rfl, Or.inl (by decide +kernel)⟩,
   ⟨0, 3, W, _, _, rfl, rfl, Or.inl (by decide +kernel)⟩⟩

theorem witness_EncoderInputsCount :
    (∃ t : Nat, ∃ n : Nat, ∃ s : State, ∃ v : State, ∃ e : Encoder, advance s t = v ∧ v.ports.encoders[n]? = some e ∧ e.mode = 1)
    ∧ (∃ t : Nat, ∃ n : Nat, ∃ s : State, ∃ v : State, ∃ e : Encoder, ∃ g : Nat, advance s t = v ∧ v.ports.encoders[n]? = some e ∧ e.mode = 2 ∧ e.request = some g)
    ∧ (∃ t : Nat, ∃ n : Nat, ∃ s : State, ∃ v : State, ∃ e : Encoder, ∃ g : Nat, advance s t = v ∧ v.ports.encoders[n]? = some e ∧ e.request = some g ∧ replyLimit e.rate g < v.phase.gtc) :=
  ⟨⟨0, 0, withEnc { Encoder.reset with mode := 1 }, _, _, rfl, rfl, by decide +kernel⟩,
   ⟨0, 0, withEnc { Encoder.reset with mode := 2, request := some 0 }, _, _, _, rfl, rfl, by decide +kernel, rfl⟩,
   ⟨1000000000, 0, withEnc { Encoder.reset with mode := 2, request := some 0 }, _, _, _, rfl, rfl, rfl, by decide +kernel⟩⟩

theorem witness_MotionCycleRuns :
    (∃ t : Nat, ∃ s : State, ∃ v : State, ∃ u : State, advance s t = v ∧ v.servo.net.tCyc ≠ 0 ∧ u = modSourcesOn { v with servo := { v.servo with snaps := [], net := { v.servo.net with count := (v.servo.net.count + 1) % 2 ^ 48, sync0 := v.phase.gtc, sent := false, returned := false } } } 0x40 [4] (edge v.phase.gtc (BitVec.ofNat 64 ((v.servo.net.count + 1) % 2 ^ 48 * 65536))))
    ∧ (∃ t : Nat, ∃ s : State, ∃ v : State, advance s t = v ∧ v.servo.net.tCyc ≠ 0 ∧ v.ports.mnet.running = true ∧ v.servo.net.sent = false ∧ v.servo.net.returned = false)
    ∧ (∃ t : Nat, ∃ wc : BitVec 16, ∃ s : State, ∃ v : State, advance s t = v ∧ v.servo.net.sent = true ∧ v.servo.net.returned = false ∧ wc = Config.workingCounter v.ports.mnet.image)
    ∧ (∃ t : Nat, ∃ s : State, ∃ v : State, ∃ l : List (BitVec 32), advance s t = v ∧ v.servo.net.sent = true ∧ v.servo.net.returned = false ∧ l = v.ports.mnet.missing.modify 0 satInc)
    ∧ (∃ t : Nat, ∃ s : State, ∃ v : State, advance s t = v ∧ v.servo.net.missLimit ≠ 0 ∧ v.servo.net.missLimit ≤ v.servo.net.missing ∧ v.servo.net.missHandled = false)
    ∧ (∃ c : Channel, c.cfg ≠ [] ∧ c.rawLast = none)
    ∧ (∃ c : Channel, ∃ p : BitVec 32, c.cfg ≠ [] ∧ c.rawLast = some p)
    ∧ (∃ c : Channel, c.cfg ≠ [] ∧ c.st ≠ .disabled ∧ c.st ≠ .stop)
    ∧ (∃ c : Channel, c.st = .disabled) :=
  ⟨⟨0, withNet net8 [], _, _, rfl, by decide +kernel, rfl⟩,
   ⟨0, withNet { net8 with sent := false, returned := false } [], _, rfl, by decide +kernel, by decide +kernel, by decide +kernel, by decide +kernel⟩,
   ⟨0, _, withNet { net8 with returned := false } [], _, rfl, by decide +kernel, by decide +kernel, rfl⟩,
   ⟨0, withNet { net8 with returned := false } [], _, _, rfl, by decide +kernel, by decide +kernel, rfl⟩,
   ⟨0, withNet { net8 with missing := 3 } [], _, rfl, by decide +kernel, by decide +kernel, by decide +kernel⟩,
   ⟨chanIn .tracking 0, by decide +kernel, by decide +kernel⟩,
   ⟨{ chanIn .tracking 0 with rawLast := some 5 }, _, by decide +kernel, rfl⟩,
   ⟨chanIn .hold 0, by decide +kernel, by decide +kernel, by decide +kernel⟩,
   ⟨chanIn .disabled 0, by decide +kernel⟩⟩

theorem witness_ServoEventsAct :
    (∃ t : Nat, ∃ n : Nat, ∃ s : State, ∃ v : State, advance s t = v ∧ sampleTurn v n = false)
    ∧ (∃ t : Nat, ∃ n : Nat, ∃ s : State, ∃ v : State, ∃ w : State, ∃ x : State, ∃ c : Channel, ∃ r : SampleOut, advance s t = v ∧ sampleTurn v n = true ∧ w = commitCycle v ∧ n < w.servo.channels.length ∧ (getChannel w n).faultDue = none ∧ x = modChannel w n (fun c => { entryActions (takeBlock c) with outside := none }) ∧ getChannel x n = c ∧ c.reqs = [] ∧ r = sampleChannel (sampleInput x n c) c ∧ r.driveFault = false ∧ r.holdStop = false)
    ∧ (∃ t : Nat, ∃ n : Nat, ∃ s : State, ∃ v : State, advance s t = v ∧ (getChannel v n).faultDue = some .following)
    ∧ (∃ t : Nat, ∃ n : Nat, ∃ s : State, ∃ v : State, advance s t = v ∧ (getChannel v n).faultDue = some .enabling)
    ∧ (∃ t : Nat, ∃ n : Nat, ∃ s : State, ∃ v : State, advance s t = v ∧ (getChannel v n).faultDue = some .xcheck)
    ∧ (∃ t : Nat, ∃ p : Nat, ∃ s : State, ∃ v : State, ∃ w : State, advance s t = v ∧ (getPair v p).retired = false ∧ v.servo.drain = none ∧ moveAll (modPair (discardPair (huskFault v (srcPair p) 3 p 1) p) p (fun x => { x with retired := true })) p = some w)
    ∧ (∃ t : Nat, ∃ p : Nat, ∃ s : State, ∃ v : State, ∃ w : State, advance s t = v ∧ (getPair v p).retired = false ∧ v.servo.drain = none ∧ w = modPair (discardPair (huskFault v (srcPair p) 3 p 1) p) p (fun x => { x with retired := true }) ∧ moveAll w p = none)
    ∧ (∃ t : Nat, ∃ n : Nat, ∃ q : Nat, ∃ s : State, ∃ v : State, ∃ d : PairDrain, ∃ u : State, advance s t = v ∧ v.servo.drain = some d ∧ (pairChannels v d.pair).head? = some n ∧ moveTarget v d.pair n = some q ∧ u = modChannel { v with servo := { v.servo with drain := some { d with moved := d.moved + 1 } } } n (fun c => { c with pair := q }))
    ∧ (∃ t : Nat, ∃ i : Nat, ∃ s : State, ∃ v : State, ∃ w : State, ∃ node : Nat, ∃ x : Bytes, advance s t = v ∧ v.ports.mnet.running = true ∧ i < mnSafeties v.ports.mnet.image ∧ v.ports.mnet.faulted.contains i = false ∧ node = fld (wordAt (mnSafety v.ports.mnet.image i) 0) 31 24 ∧ x = mnNode v.ports.mnet.image node ∧ w = mapChannels v (fun _ c => if configured c && decide (nodeOutAt x ≤ cfgOutOffset c.cfg) && decide (cfgOutOffset c.cfg < nodeOutAt x + nodeOutLen x) then stopChannel c else c)) :=
  ⟨⟨0, 0, W, _, rfl, by decide +kernel⟩,
   ⟨0, 0, withNet net8 [chanIn .tracking 0], _, _, _, _, _, rfl, by decide +kernel, rfl, by decide +kernel, by decide +kernel, rfl, rfl, by decide +kernel, rfl, by decide +kernel, by decide +kernel⟩,
   ⟨0, 0, withNet net8 [{ chanIn .exceeded 0 with faultDue := some .following }], _, rfl, by decide +kernel⟩,
   ⟨0, 0, withNet net8 [{ chanIn .enabling 0 with faultDue := some .enabling }], _, rfl, by decide +kernel⟩,
   ⟨0, 0, withNet net8 [{ chanIn .tracking 0 with faultDue := some .xcheck }], _, rfl, by decide +kernel⟩,
   ⟨0, 0, withNet net8 [chanIn .tracking 0], _, _, rfl, by decide +kernel, by decide +kernel, some_eq (by decide +kernel)⟩,
   ⟨0, 0, { withNet net8 [chanIn .tracking 0] with servo := { (withNet net8 [chanIn .tracking 0]).servo with pairs := List.replicate 4 { retired := false, testing := true } } }, _, _, rfl, by decide +kernel, by decide +kernel, rfl, by decide +kernel⟩,
   ⟨0, 0, 1, { withNet net8 [chanIn .tracking 0, chanIn .tracking 16] with servo := { (withNet net8 [chanIn .tracking 0, chanIn .tracking 16]).servo with drain := some { cmd := cF, pair := 0, retire := true, moved := 0 } } }, _, _, _, rfl, rfl, by decide +kernel, by decide +kernel, rfl⟩,
   ⟨0, 0, { W with ports := { W.ports with mnet := { W.ports.mnet with running := true, image := [1, 1, 0, 1] } } }, _, _, _, _, rfl, by decide +kernel, by decide +kernel, by decide +kernel, rfl, rfl, rfl⟩⟩

theorem witness_ServoCommandsComplete :
    (∃ t : Nat, ∃ c : Cmd, ∃ a : Word, ∃ b : Word, ∃ d : Word, ∃ m : BitVec 4, ∃ s : State, ∃ v : State, ∃ x : NetConfig, began s t c = v ∧ 31250 ≤ a.toNat ∧ a.toNat ≤ 4000000 ∧ 2000 ≤ b.toNat ∧ b.toNat + 2000 ≤ d.toNat ∧ d.toNat + 2000 ≤ a.toNat ∧ 1 ≤ m.toNat ∧ m.toNat ≤ 8 ∧ (x = ({ cmd := c, tCyc := a.toNat, txShift := b.toNat, rxBound := d.toNat, missLimit := m.toNat, left := [], off := true } : NetConfig)))
    ∧ (∃ t : Nat, ∃ c : Cmd, ∃ n : BitVec 7, ∃ p : BitVec 2, ∃ cw : Word, ∃ co : DWord, ∃ bw : Word, ∃ bo : DWord, ∃ s : State, ∃ v : State, ∃ a : Bytes, ∃ b : Bytes, began s t c = v ∧ n.toNat < 96 ∧ readWindow v c cw co.toNat 64 = .ok a ∧ readWindow v c bw bo.toNat 128 = .ok b ∧ hasReads v (getChannel v n.toNat) = false ∧ configStatus v n.toNat (toWords 16 a) (toWords 32 b) p.toNat = none)
    ∧ (∃ t : Nat, ∃ c : Cmd, ∃ n : BitVec 7, ∃ s : State, ∃ v : State, began s t c = v ∧ n.toNat < 96 ∧ hasReads v (getChannel v n.toNat) = false ∧ configured (getChannel v n.toNat) = true ∧ (getChannel v n.toNat).st = .disabled)
    ∧ (∃ t : Nat, ∃ c : Cmd, ∃ n : BitVec 7, ∃ s : State, ∃ v : State, began s t c = v ∧ n.toNat < 96 ∧ hasReads v (getChannel v n.toNat) = false ∧ configured (getChannel v n.toNat) = true)
    ∧ (∃ t : Nat, ∃ c : Cmd, ∃ n : BitVec 7, ∃ s : State, ∃ v : State, began s t c = v ∧ n.toNat < 96 ∧ hasReads v (getChannel v n.toNat) = false ∧ (getChannel v n.toNat).st = .hold)
    ∧ (∃ t : Nat, ∃ c : Cmd, ∃ n : BitVec 7, ∃ s : State, ∃ v : State, began s t c = v ∧ n.toNat < 96 ∧ hasReads v (getChannel v n.toNat) = false)
    ∧ (∃ t : Nat, ∃ c : Cmd, ∃ n : BitVec 7, ∃ s : State, ∃ v : State, began s t c = v ∧ n.toNat < 96 ∧ hasReads v (getChannel v n.toNat) = true)
    ∧ (∃ t : Nat, ∃ c : Cmd, ∃ n : BitVec 7, ∃ w : Word, ∃ o : DWord, ∃ p : PhaseValue, ∃ s : State, ∃ v : State, ∃ b : Bytes, began s t c = v ∧ n.toNat < 96 ∧ pvOk p = true ∧ readWindow v c w o.toNat 84 = .ok b ∧ (getChannel v n.toNat).cfg.isEmpty = false ∧ v.servo.net.tCyc ≠ 0) :=
  ⟨⟨0, cF, 31250, 2000, 29250, 8, W, _, _, rfl, by decide +kernel, by decide +kernel, by decide +kernel, by decide +kernel, by decide +kernel, by decide +kernel, by decide +kernel, rfl⟩,
   ⟨0, cF, 0, 3, 1, 0, 1, 64, WC (holding W 0x20000 (bytesOf (chanCfg 0 ++ chanBlock))), _, _, _, rfl, by decide +kernel, rfl, rfl, by decide +kernel, by decide +kernel⟩,
   ⟨0, cF, 0, { withNet net8 [chanIn .disabled 0] with ports := W.ports }, _, rfl, by decide +kernel, by decide +kernel, by decide +kernel, by decide +kernel⟩,
   ⟨0, cF, 0, { withNet net8 [chanIn .tracking 0] with ports := W.ports }, _, rfl, by decide +kernel, by decide +kernel, by decide +kernel⟩,
   ⟨0, cF, 0, { withNet net8 [chanIn .hold 0] with ports := W.ports }, _, rfl, by decide +kernel, by decide +kernel, by decide +kernel⟩,
   ⟨0, cF, 95, W, _, rfl, by decide +kernel, by decide +kernel⟩,
   ⟨0, cF, 0, withNet net8 [chanIn .tracking 0], _, rfl, by decide +kernel, by decide +kernel⟩,
   ⟨0, cF, 0, 1, 0, atCount 9, withNet net8 [chanIn .tracking 0], _, _, rfl, by decide +kernel, by decide +kernel, rfl, by decide +kernel, by decide +kernel⟩⟩

theorem witness_MemoryCommandsComplete :
    (∃ t : Nat, ∃ c : Cmd, ∃ id : Word, ∃ bytes : DWord, ∃ cls : BitVec 4, ∃ al : BitVec 8, ∃ s : State, ∃ v : State, ∃ x : Session, ∃ a : Nat, began s t c = v ∧ bytes ≠ 0 ∧ cls.toNat ≤ 3 ∧ 12 ≤ al.toNat ∧ al.toNat ≤ 30 ∧ findSession v id = some x ∧ mayName v c id = true ∧ sessionBytes v id + bytes.toNat ≤ x.quota.toNat ∧ placeAlloc v x bytes.toNat cls.toNat (2 ^ al.toNat) = some a)
    ∧ (∃ t : Nat, ∃ c : Cmd, ∃ addr : DWord, ∃ s : State, ∃ v : State, ∃ a : Allocation, ∃ id : Word, ∃ u : State, began s t c = v ∧ v.cmds.allocs.find? (fun a => a.addr == addr.toNat) = some a ∧ a.session = some id ∧ ownsObject v c id a.fn = true ∧ rangeInUse v a.addr a.bytes = false ∧ u = cutTransfers (closePeerWindows v (fun w => overlaps w.base w.length a.addr a.bytes)) stWINDOW_CLOSED (fun x => writesRange x a.addr a.bytes))
    ∧ (∃ t : Nat, ∃ c : Cmd, ∃ base : DWord, ∃ len : DWord, ∃ isHost : Bool, ∃ bar2 : Bool, ∃ s : State, ∃ v : State, ∃ x : Session, ∃ o : Option Nat, ∃ id : Nat, began s t c = v ∧ (sessionOf v c).bind (findSession v) = some x ∧ windowPlace v x base.toNat len.toNat isHost bar2 = .ok o ∧ pickFree 0 (2 ^ 32) (Config.handOut v.free) (v.cmds.windows.map (·.id)) = some id)
    ∧ (∃ t : Nat, ∃ c : Cmd, ∃ w : Word, ∃ s : State, ∃ v : State, ∃ x : Window, ∃ u : State, began s t c = v ∧ findWindow v w = some x ∧ ownsObject v c x.session x.fn = true ∧ ringsInUse v (ringKey (!x.host) x.fn x.base) x.length = false ∧ u = cutTransfers v stWINDOW_CLOSED (fun y => match transferDst y with | some d => d.1 == x.id | none => false)) :=
  ⟨⟨0, cF, 1, 0x1000, 0, 12, { W with cmds := { W.cmds with sessions := [{ session1 with quota := 0x21000 }] }, boot := { W.boot with prot := W.boot.prot ++ [(0x1020, 0x20)] } }, _, _, _, rfl, by decide +kernel, by decide +kernel, by decide +kernel, by decide +kernel, rfl, by decide +kernel, by decide +kernel, placed_eq _ _ _ _ _ (by decide +kernel) (by decide +kernel) (by decide +kernel) (by decide +kernel)⟩,
   ⟨0, cF, 0x20000, W, _, _, _, _, rfl, rfl, rfl, by decide +kernel, by decide +kernel, rfl⟩,
   ⟨0, cQ, 0x20000, 0x20000, false, false, { W with cmds := { W.cmds with windows := [] } }, _, _, _, _, rfl, rfl, rfl, rfl⟩,
   ⟨0, cF, 1, W, _, _, _, rfl, rfl, by decide +kernel, by decide +kernel, rfl⟩⟩

theorem witness_TransfersMoveBytes :
    (∃ t : Nat, ∃ c : Cmd, ∃ a : Word, ∃ b : Word, ∃ ao : DWord, ∃ bo : DWord, ∃ n : DWord, ∃ q : BitVec 2, ∃ s : State, ∃ v : State, ∃ k : Nat, ∃ d : Nat, ∃ x : Transfer, began s t c = v ∧ q ≠ 3 ∧ qosAllowed v c q.toNat = true ∧ windowKey v c a ao.toNat n.toNat false = .ok k ∧ windowKey v c b bo.toNat n.toNat true = .ok d ∧ endStatus v c k n.toNat false = none ∧ endStatus v c d n.toNat true = none ∧ (x = ({ cmd := c, kind := .copy k b.toNat d, length := n.toNat, start := v.phase.gtc, cut := none } : Transfer)))
    ∧ (∃ t : Nat, ∃ c : Cmd, ∃ b : Word, ∃ bo : DWord, ∃ n : DWord, ∃ p : Word, ∃ s : State, ∃ v : State, ∃ d : Nat, ∃ x : Transfer, began s t c = v ∧ windowKey v c b bo.toNat n.toNat true = .ok d ∧ endStatus v c d n.toNat true = none ∧ (x = ({ cmd := c, kind := .fill b.toNat d p, length := n.toNat, start := v.phase.gtc, cut := none } : Transfer)))
    ∧ (∃ t : Nat, ∃ c : Cmd, ∃ a : Word, ∃ ao : DWord, ∃ n : DWord, ∃ s : State, ∃ v : State, ∃ k : Nat, ∃ x : Transfer, began s t c = v ∧ windowKey v c a ao.toNat n.toNat false = .ok k ∧ endStatus v c k n.toNat false = none ∧ (x = ({ cmd := c, kind := .crc k, length := n.toNat, start := v.phase.gtc, cut := none } : Transfer)))
    ∧ (∃ t : Nat, ∃ k : CmdKey, ∃ s : State, ∃ v : State, ∃ x : Transfer, ∃ a : Nat, ∃ w : Nat, ∃ d : Nat, ∃ u : State, advance s t = v ∧ v.cmds.transfers.find? (fun x => x.cmd.key == k && (x.cut.isSome || hasChannel v x)) = some x ∧ x.cut = none ∧ transferLate v x = false ∧ closedAtStamp v t x = false ∧ x.kind = .copy a w d ∧ u = (if a < hostBase then countRereads v [(a, x.length)] else v) ∧ accessStatus u d x.length true = none)
    ∧ (∃ t : Nat, ∃ k : CmdKey, ∃ s : State, ∃ v : State, ∃ x : Transfer, ∃ p : Word, ∃ w : Nat, ∃ d : Nat, advance s t = v ∧ v.cmds.transfers.find? (fun x => x.cmd.key == k && (x.cut.isSome || hasChannel v x)) = some x ∧ x.cut = none ∧ transferLate v x = false ∧ closedAtStamp v t x = false ∧ x.kind = .fill w d p ∧ accessStatus v d x.length true = none)
    ∧ (∃ t : Nat, ∃ k : CmdKey, ∃ s : State, ∃ v : State, ∃ x : Transfer, ∃ a : Nat, ∃ u : State, advance s t = v ∧ v.cmds.transfers.find? (fun x => x.cmd.key == k && (x.cut.isSome || hasChannel v x)) = some x ∧ x.cut = none ∧ transferLate v x = false ∧ closedAtStamp v t x = false ∧ x.kind = .crc a ∧ u = (if a < hostBase then countRereads v [(a, x.length)] else v))
    ∧ (∃ t : Nat, ∃ k : CmdKey, ∃ s : State, ∃ v : State, ∃ x : Transfer, advance s t = v ∧ v.cmds.transfers.find? (fun x => x.cmd.key == k) = some x ∧ x.cut = none ∧ hasChannel v x = true ∧ transferHost x = true ∧ x.start + 50000000 ≤ v.phase.gtc) :=
  ⟨⟨0, cF, 1, 1, 0, 0x1FFC0, 64, 1, W, _, _, _, _, rfl, by decide +kernel, by decide +kernel, rfl, rfl, by decide +kernel, by decide +kernel, rfl⟩,
   ⟨0, cF, 1, 0x1FFC0, 64, 7, W, _, _, _, rfl, rfl, by decide +kernel, rfl⟩,
   ⟨0, cF, 1, 0, 64, W, _, _, _, rfl, rfl, by decide +kernel, rfl⟩,
   ⟨0, cQ.key, withDma (.copy 0x20000 1 0x30000), _, _, _, _, _, _, rfl, rfl, by decide +kernel, by decide +kernel, by decide +kernel, rfl, rfl, by decide +kernel⟩,
   ⟨0, cQ.key, withDma (.fill 1 0x30000 7), _, _, _, _, _, rfl, rfl, by decide +kernel, by decide +kernel, by decide +kernel, rfl, by decide +kernel⟩,
   ⟨0, cQ.key, withDma (.crc 0x30000), _, _, _, _, rfl, rfl, by decide +kernel, by decide +kernel, by decide +kernel, rfl, rfl⟩,
   ⟨50000000, cQ.key, withDma (.crc hostBase), _, _, rfl, rfl, by decide +kernel, by decide +kernel, by decide +kernel, by decide +kernel⟩⟩

theorem witness_WritesReachOnlyTheirBytes :
    (∃ m : Mem, ∃ k : Nat, ∃ b : Bytes, Memory.wf m.dev = true ∧ Memory.wf m.host = true ∧ ((k + b.length ≤ hostBase ∨ hostBase ≤ k)))
    ∧ (∃ k : Nat, ∃ j : Nat, ∃ b : Bytes, ((k + b.length ≤ hostBase ∨ hostBase ≤ k)) ∧ ((j < k ∨ k + b.length ≤ j)))
    ∧ (∃ s : State, ∃ c : Cmd, ∃ w : Word, ∃ o : Nat, ∃ b : Bytes, ∃ u : State, writeWindow s c w o b = .ok u) :=
  ⟨⟨W.mem, 0x20000, [1], by decide +kernel, by decide +kernel, by decide +kernel⟩,
   ⟨0x20000, 0x20001, [1], by decide +kernel, by decide +kernel⟩,
   ⟨W, cF, 1, 0x1FFFF, [1], _, ok_eq (by decide +kernel)⟩⟩

theorem witness_PlateCommandsComplete :
    (∃ t : Nat, ∃ c : Cmd, ∃ w : Word, ∃ off : DWord, ∃ len : Word, ∃ s : State, ∃ v : State, ∃ b : Bytes, ∃ h : Nat, began s t c = v ∧ readWindow v c w off.toNat len.toNat = .ok b ∧ plateOk (profileGbs v.power.profile) b = true ∧ plateAllowed v b = true ∧ chooseSpot v lpddrBase (lpddrBase + lpddrBytes) b.length 64 (heldRanges v) = some h)
    ∧ (∃ t : Nat, ∃ c : Cmd, ∃ h : DWord, ∃ s : State, ∃ v : State, began s t c = v ∧ v.plate.loaded.any (fun l => l.1 == h.toNat) = true ∧ v.plate.handle ≠ some h.toNat ∧ plateNamed v h.toNat = false)
    ∧ (∃ t : Nat, ∃ c : Cmd, ∃ h : DWord, ∃ s : State, ∃ v : State, ∃ k : Nat, ∃ b : Bytes, began s t c = v ∧ v.plate.isDefault = true ∧ v.plate.loaded.find? (fun l => l.1 == h.toNat) = some (k, b) ∧ plateResources v b (List.range 16) (startValid v b) = none)
    ∧ (∃ t : Nat, ∃ c : Cmd, ∃ q : BitVec 18, ∃ p : BitVec 4, ∃ s : State, ∃ v : State, ∃ x : SubQueue, began s t c = v ∧ findSq v q.toNat = some x ∧ ownsObject v c x.session x.fn = true ∧ v.loops.any (fun l => l.cmd.key.src == .queue q) = false ∧ fnPartition v x.fn p.toNat = true ∧ partAccepts v p.toNat x.cls = true)
    ∧ (∃ t : Nat, ∃ c : Cmd, ∃ cls : BitVec 2, ∃ unit : BitVec 5, ∃ s : State, ∃ v : State, began s t c = v ∧ (((cls = 0 ∧ unit.toNat ≤ 17) ∨ (cls = 1 ∧ unit.toNat ≤ 8) ∨ (cls = 2 ∧ unit.toNat ≤ 15)))) :=
  ⟨⟨0, cF, 1, 0, 1792, plateReady, _, plateImg, _, rfl, rfl, by decide +kernel, by decide +kernel, spot_eq _ _ _ _ _ _ (by decide +kernel)⟩,
   ⟨0, cF, 0x4000000, { W with plate := { W.plate with loaded := [(0x4000000, [])] } }, _, rfl, by decide +kernel, by decide +kernel, by decide +kernel⟩,
   ⟨0, cF, 0x4000000, { W with cmds := { W.cmds with allocs := [] }, plate := { W.plate with loaded := [(0x4000000, plateImg)] } }, _, _, _, rfl, by decide +kernel, rfl, by decide +kernel⟩,
   ⟨0, cF, 4, 0, W, _, _, rfl, rfl, by decide +kernel, by decide +kernel, by decide +kernel, by decide +kernel⟩,
   ⟨0, cF, 2, 15, W, _, rfl, by decide +kernel⟩⟩

theorem witness_SlotsOpenAndClose :
    (∃ t : Nat, ∃ s : State, ∃ v : State, advance s t = v ∧ v.plate.isDefault = true ∧ v.plate.origin + 1000000 ≤ v.phase.gtc ∧ v.boot.swap = none ∧ v.boot.shellSwap = none)
    ∧ (∃ t : Nat, ∃ s : State, ∃ v : State, advance s t = v ∧ v.plate.isDefault = true ∧ v.phase.gtc < v.plate.origin + 1000000)
    ∧ (∃ t : Nat, ∃ s : State, ∃ v : State, ∃ k : Nat, advance s t = v ∧ v.plate.isDefault = false ∧ cyclesRun v = true ∧ v.boot.swap = none ∧ v.boot.shellSwap = none ∧ k = (phaseAt v (plateMajor v.plate.header) / 65536 + 2 ^ 48 - v.plate.origin % 2 ^ 48) % 2 ^ 48 / majorLen v)
    ∧ (∃ t : Nat, ∃ n : Nat, ∃ s : State, ∃ v : State, ∃ w : List Word, advance s t = v ∧ slotAt v n = some w ∧ cyclesRun v = true ∧ slStart w ≤ majorPhase v ∧ majorPhase v < slEnd w ∧ overrunning v (slPart w) = false ∧ slUse w = 3)
    ∧ (∃ t : Nat, ∃ n : Nat, ∃ s : State, ∃ v : State, ∃ w : List Word, advance s t = v ∧ slotAt v n = some w ∧ cyclesRun v = true ∧ slStart w ≤ majorPhase v ∧ majorPhase v < slEnd w ∧ overrunning v (slPart w) = false ∧ slUse w ≠ 3)
    ∧ (∃ t : Nat, ∃ n : Nat, ∃ s : State, ∃ v : State, ∃ w : List Word, advance s t = v ∧ slotAt v n = some w ∧ ¬ (slStart w ≤ majorPhase v ∧ majorPhase v < slEnd w) ∧ (getPart v (slPart w)).check ≠ some n)
    ∧ (∃ t : Nat, ∃ cls : Nat, ∃ unit : Nat, ∃ s : State, ∃ v : State, advance s t = v ∧ (getTest v cls unit).running = false ∧ (getTest v cls unit).run < quantaDue cls ∧ quantumAllowed v cls unit = true)
    ∧ (∃ t : Nat, ∃ cls : Nat, ∃ unit : Nat, ∃ s : State, ∃ v : State, advance s t = v ∧ (getTest v cls unit).running = true)
    ∧ (∃ t : Nat, ∃ cls : Nat, ∃ unit : Nat, ∃ s : State, ∃ v : State, advance s t = v ∧ (getTest v cls unit).running = true)
    ∧ (∃ t : Nat, ∃ s : State, ∃ v : State, advance s t = v ∧ v.plate.intervalStart + selftestMs v * 1000000 ≤ v.phase.gtc ∧ v.hif.fwReady = true ∧ overdueUnits v = [] ∧ v.safety.knownAnswer = true) :=
  ⟨⟨1000000, W, _, rfl, by decide +kernel, by decide +kernel, by decide +kernel, by decide +kernel⟩,
   ⟨999999, W, _, rfl, by decide +kernel, by decide +kernel⟩,
   ⟨0, runningPlate 17, _, _, rfl, by decide +kernel, by decide +kernel, by decide +kernel, by decide +kernel, rfl⟩,
   ⟨0, 1, runningPlate 15, _, _, rfl, rfl, by decide +kernel, by decide +kernel, by decide +kernel, by decide +kernel, by decide +kernel⟩,
   ⟨0, 0, runningPlate 11, _, _, rfl, rfl, by decide +kernel, by decide +kernel, by decide +kernel, by decide +kernel, by decide +kernel⟩,
   ⟨0, 0, runningPlate 12, _, _, rfl, rfl, by decide +kernel, by decide +kernel⟩,
   ⟨0, 0, 0, W, _, rfl, by decide +kernel, by decide +kernel, by decide +kernel⟩,
   ⟨0, 0, 3, { W with plate := { W.plate with sectorTests := List.replicate 18 { UnitTest.zero with running := true } } }, _, rfl, by decide +kernel⟩,
   ⟨0, 0, 3, { W with plate := { W.plate with sectorTests := List.replicate 18 { UnitTest.zero with running := true } } }, _, rfl, by decide +kernel⟩,
   ⟨100000000, { W with safety := { W.safety with knownAnswer := true }, plate := { W.plate with sectorTests := List.replicate 18 { UnitTest.zero with run := 1000000 }, engineTests := List.replicate 9 { UnitTest.zero with run := 1000000 }, sliceTests := List.replicate 16 { UnitTest.zero with run := 1000000 } } }, _, rfl, by decide +kernel, by decide +kernel, by decide +kernel, by decide +kernel⟩⟩

theorem witness_StructureCommandsComplete :
    (∃ t : Nat, ∃ c : Cmd, ∃ eng : BitVec 4, ∃ w : Word, ∃ off : DWord, ∃ len : Word, ∃ s : State, ∃ v : State, ∃ e : Nat, ∃ b : Bytes, ∃ ver : BitVec 16, ∃ im : Image, ∃ l : List Image, began s t c = v ∧ eng.toNat ≤ 8 ∧ commandEngine v c eng = some e ∧ readWindow v c w off.toNat len.toNat = .ok b ∧ imageOk b = true ∧ loadVersion v c e b = .ok ver ∧ ((∀ old, (getSlot v e (verSlot ver)).standby = some old → imageHeld v e old.version = false)) ∧ (im = ({ bytes := b, version := ver, usable := true, session := sessionOf v c } : Image)) ∧ (l = im :: (match (getSlot v e (verSlot ver)).standby with | some old => ((getEngine v e).slots.flatMap Slot.images).erase old | none => (getEngine v e).slots.flatMap Slot.images)) ∧ storeUsed l ≤ 4194304 ∧ workUsed l ≤ 2097152)
    ∧ (∃ t : Nat, ∃ c : Cmd, ∃ eng : BitVec 4, ∃ ver : BitVec 16, ∃ s : State, ∃ v : State, ∃ e : Nat, began s t c = v ∧ eng.toNat ≤ 8 ∧ commandEngine v c eng = some e ∧ (getSlot v e (verSlot ver)).standby.map (·.version) = some ver ∧ imageHeld v e ver = false)
    ∧ (∃ t : Nat, ∃ c : Cmd, ∃ eng : BitVec 4, ∃ ver : BitVec 16, ∃ s : State, ∃ v : State, ∃ e : Nat, began s t c = v ∧ eng.toNat ≤ 8 ∧ commandEngine v c eng = some e ∧ (getSlot v e (verSlot ver)).standby = none ∧ (getSlot v e (verSlot ver)).active.map (·.version) = some ver ∧ (getEngine v e).waiting = [] ∧ (getEngine v e).run = none ∧ imageHeld v e ver = false)
    ∧ (∃ t : Nat, ∃ c : Cmd, ∃ eng : BitVec 4, ∃ slot : BitVec 3, ∃ s : State, ∃ v : State, ∃ e : Nat, ∃ a : Image, ∃ b : Image, began s t c = v ∧ eng.toNat ≤ 8 ∧ queriedEngine v c eng = some e ∧ (getSlot v e slot.toNat).active = some a ∧ (getSlot v e slot.toNat).standby = some b)
    ∧ (∃ t : Nat, ∃ c : Cmd, ∃ eng : BitVec 4, ∃ s : State, ∃ v : State, ∃ e : Nat, began s t c = v ∧ eng.toNat ≤ 8 ∧ queriedEngine v c eng = some e)
    ∧ (∃ t : Nat, ∃ c : Cmd, ∃ eng : BitVec 4, ∃ slot : BitVec 3, ∃ w : Word, ∃ off : DWord, ∃ cap : BitVec 24, ∃ s : State, ∃ v : State, ∃ e : Nat, ∃ b : Bytes, ∃ u : State, began s t c = v ∧ eng.toNat ≤ 8 ∧ queriedEngine v c eng = some e ∧ (getSlot v e slot.toNat).diag = some b ∧ b.length ≤ cap.toNat ∧ writeWindow v c w off.toNat b = .ok u)
    ∧ (∃ t : Nat, ∃ c : Cmd, ∃ eng : BitVec 4, ∃ s : State, ∃ v : State, began s t c = v ∧ eng.toNat ≤ 8 ∧ queriedEngine v c eng = none)
    ∧ (∃ t : Nat, ∃ c : Cmd, ∃ eng : BitVec 4, ∃ s : State, ∃ v : State, began s t c = v ∧ eng.toNat ≤ 8 ∧ commandEngine v c eng = none) :=
  ⟨⟨0, cF, 0, 1, 0, 308, holding W 0x20000 lsqImg, _, _, _, _, _, _, rfl, by decide +kernel, rfl, rfl, by decide +kernel, ok_eq (by decide +kernel), none_all (by decide +kernel), rfl, rfl, by decide +kernel, by decide +kernel⟩,
   ⟨0, cF, 0, 1, withSlot { Slot.empty with standby := some lsq0 } (Engine.reset .active), _, _, rfl, by decide +kernel, rfl, by decide +kernel, by decide +kernel⟩,
   ⟨0, cF, 0, 1, withSlot { Slot.empty with active := some lsq0 } (Engine.reset .active), _, _, rfl, by decide +kernel, rfl, by decide +kernel, by decide +kernel, by decide +kernel, by decide +kernel, by decide +kernel⟩,
   ⟨0, cF, 0, 0, withSlot { Slot.empty with active := some lsq0, standby := some { lsq0 with version := 2 } } (Engine.reset .active), _, _, _, _, rfl, by decide +kernel, rfl, rfl, rfl⟩,
   ⟨0, cF, 8, W, _, _, rfl, by decide +kernel, rfl⟩,
   ⟨0, cF, 0, 0, 1, 0, 4, withSlot { Slot.empty with diag := some [1, 2, 3, 4] } (Engine.reset .active), _, _, _, _, rfl, by decide +kernel, rfl, rfl, by decide +kernel, ok_eq (by decide +kernel)⟩,
   ⟨0, cF, 0, withSlot Slot.empty (Engine.reset .failed), _, rfl, by decide +kernel, by decide +kernel⟩,
   ⟨0, cF, 0, withSlot Slot.empty (Engine.reset .failed), _, rfl, by decide +kernel, by decide +kernel⟩⟩

theorem witness_SolvesRun :
    (∃ t : Nat, ∃ c : Cmd, ∃ eng : BitVec 4, ∃ slot : BitVec 3, ∃ dw : Word, ∃ doff : DWord, ∃ rw : Word, ∃ roff : DWord, ∃ cap : BitVec 24, ∃ s : State, ∃ v : State, ∃ e : Nat, ∃ im : Image, ∃ dk : Nat, ∃ rk : Nat, ∃ w : WaitingSolve, ∃ n : Nat, ∃ u : State, advance s t = v ∧ eng.toNat ≤ 8 ∧ peHasEngine (partEntry v (partOf v c)) eng.toNat = true ∧ commandEngine v c eng = some e ∧ (getSlot v e slot.toNat).active = some im ∧ packetKey v c dw doff.toNat = .ok dk ∧ windowKey v c rw roff.toNat cap.toNat true = .ok rk ∧ (c.deadline.isSome = false ∨ rk < hostBase) ∧ (w = ({ owner := .command c, session := sessionOf v c, slot := slot.toNat, delta := dk, built := [], result := rk, resultWindow := some rw.toNat, capacity := cap.toNat, deadline := c.deadline, basic := !c.expert, epoch := 0, part := partOf v c, cls := classOf v c, sq := match c.key.src with | .queue q => q.toNat | _ => 0 } : WaitingSolve)) ∧ n = (match packetOf v w with | .ok b => solveBound v im.bytes b | .error _ => 0) ∧ admitHard v c (partOf v c) (classOf v c) n = .ok u)
    ∧ (∃ t : Nat, ∃ c : Cmd, ∃ w : Word, ∃ off : DWord, ∃ s : State, ∃ v : State, ∃ h : Bytes, ∃ key : Nat, ∃ b : Bytes, ∃ q : Nat, ∃ xs : List Scenario, ∃ u : State, advance s t = v ∧ readWindow v c w off.toNat 64 = .ok h ∧ batchHeaderOk h = true ∧ windowKey v c w off.toNat (64 + 48 * fld (wordAt h 0) 6 0) true = .ok key ∧ b = readKey v.mem key (64 + 48 * fld (wordAt h 0) 6 0) ∧ q = (match c.key.src with | .queue q => q.toNat | _ => 0) ∧ batchScenarios v c (sessionOf v c) (partOf v c) q b (fld (wordAt h 0) 6 0) = .ok xs ∧ admitHard v c (partOf v c) (classOf v c) (batchBound v c (sessionOf v c) (partOf v c) (classOf v c) q xs) = .ok u)
    ∧ (∃ t : Nat, ∃ e : Nat, ∃ s : State, ∃ v : State, ∃ w : WaitingSolve, ∃ im : Image, ∃ run : Run, advance s t = v ∧ nextSolve v e = some w ∧ (getSlot v e w.slot).active = some im ∧ im.usable = true ∧ solveRun v w (getSlot v e w.slot) im = .ok run)
    ∧ (∃ t : Nat, ∃ e : Nat, ∃ s : State, ∃ v : State, ∃ r : Run, advance s t = v ∧ (getEngine v e).run = some r ∧ (getEngine v e).mode = .active ∧ ((∀ d, r.job.deadline = some d → deadlineArrived v d = false)))
    ∧ (∃ t : Nat, ∃ e : Nat, ∃ s : State, ∃ v : State, ∃ r : Run, ∃ rep : SolveReport, ∃ inp : SolveInput, ∃ z : State, ∃ u : State, advance s t = v ∧ (getEngine v e).run = some r ∧ (getEngine v e).mode = .active ∧ r.job.epoch = (getEngine v e).epoch ∧ r.writing = true ∧ rep = solveResult r (getEngine v e).epoch (now v) ∧ ((∀ w, r.job.resultWindow = some w → v.cmds.windows.any (fun x => x.id == w) = true)) ∧ z = countRereads v (r.guards.map (fun g => (g.lo, g.hi - g.lo))) ∧ u = chargeRun (modEngine z e (fun x => { x with run := none, solves := satInc x.solves })) r ∧ accessStatus z r.job.result rep.bytes.length true = none ∧ inp = SolveInput.ofRun r)
    ∧ (∃ t : Nat, ∃ e : Nat, ∃ s : State, ∃ v : State, ∃ r : Run, advance s t = v ∧ (getEngine v e).run = some r ∧ (getEngine v e).mode ≠ .active)
    ∧ (∃ t : Nat, ∃ e : Nat, ∃ s : State, ∃ v : State, ∃ r : Run, advance s t = v ∧ (getEngine v e).run = some r ∧ (getEngine v e).mode = .active ∧ r.job.epoch = (getEngine v e).epoch ∧ r.writing = false)
    ∧ (∃ tau : Int, 0 < tau)
    ∧ (∃ inp : SolveInput, imPath inp.image = 0)
    ∧ (∃ inp : SolveInput, ∃ seeds : List (Nat × Word), ∃ index : Nat, ∃ p : Int, ∃ fa : Nat, ∃ F : Nat, ∃ x : Word, imPath inp.image = 1 ∧ seeds.find? (fun y => y.1 == index) = some (index, x) ∧ (2 ^ (fa + F) < ((2 ^ (fa + F) : Nat) - p * x.toInt : Int).natAbs * 256)) :=
  ⟨⟨0, cQ, 0, 0, 1, 0, 1, 0x10000, 4096, withSlot { Slot.empty with active := some lsq0 } (Engine.reset .active), _, _, _, _, _, _, _, _, rfl, by decide +kernel, by decide +kernel, rfl, rfl, rfl, rfl, by decide +kernel, rfl, rfl, rfl⟩,
   ⟨0, cD, 1, 0, holding (withSlot { Slot.empty with active := some { lsq0 with bytes := mpcImg }, params := { iterations := 1, tau := 1, feasTol := 1, emitPlan := true } } (Engine.reset .active)) 0x20000 (bytesOf batchWords), _, _, _, _, _, _, _, rfl, rfl, by decide +kernel, rfl, rfl, rfl, ok_eq (by decide +kernel), rfl⟩,
   ⟨0, 0, holding (withSlot { Slot.empty with active := some lsq0 } { Engine.reset .active with waiting := [solve1] }) 0x20000 (bytesOf packetWords), _, _, _, _, rfl, rfl, rfl, by decide +kernel, ok_eq (by decide +kernel)⟩,
   ⟨0, 0, withRun run1 .active, _, _, rfl, rfl, by decide +kernel, fun _ h => nomatch h⟩,
   ⟨0, 0, withRun { run1 with writing := true } .active, _, _, _, _, _, _, rfl, rfl, by decide +kernel, by decide +kernel, by decide +kernel, rfl, fun w h => by cases h; decide +kernel, rfl, rfl, by decide +kernel, rfl⟩,
   ⟨0, 0, withRun run1 .failed, _, _, rfl, rfl, by decide +kernel⟩,
   ⟨0, 0, withRun run1 .active, _, _, rfl, rfl, by decide +kernel, by decide +kernel, by decide +kernel⟩,
   ⟨1, by decide +kernel⟩,
   ⟨SolveInput.ofRun run1, by decide +kernel⟩,
   ⟨{ SolveInput.ofRun run1 with image := bytesOf [0x100] }, [(0, 1)], 0, 1, 20, 4, 1, by decide +kernel, by decide +kernel, by decide +kernel⟩⟩

theorem witness_EngineFaultsHandOver :
    (∃ t : Nat, ∃ e : Nat, ∃ s : State, ∃ v : State, ∃ r : Run, ∃ f : State, ∃ sp : Nat, advance s t = v ∧ (getEngine v e).run = some r ∧ r.writing = false ∧ (getEngine v e).mode = .active ∧ r.start + runBound v r + cyclesNs v 2048 ≤ v.phase.gtc ∧ f = fenceEngine (huskFault v (srcEngine e) 2 e 2) e ∧ spareEngine f = some sp)
    ∧ (∃ t : Nat, ∃ e : Nat, ∃ s : State, ∃ v : State, ∃ r : Run, ∃ f : State, advance s t = v ∧ (getEngine v e).run = some r ∧ r.writing = false ∧ (getEngine v e).mode = .active ∧ r.start + runBound v r + cyclesNs v 2048 ≤ v.phase.gtc ∧ f = fenceEngine (huskFault v (srcEngine e) 2 e 2) e ∧ spareEngine f = none)
    ∧ (∃ t : Nat, ∃ e : Nat, ∃ s : State, ∃ v : State, ∃ r : Run, advance s t = v ∧ (getEngine v e).run = some r ∧ (r.writing = true ∨ v.phase.gtc < r.start + runBound v r + cyclesNs v 2048))
    ∧ (∃ t : Nat, ∃ e : Nat, ∃ s : State, ∃ v : State, ∃ f : State, ∃ sp : Nat, advance s t = v ∧ (getEngine v e).mode = .active ∧ f = fenceEngine (huskFault v (srcEngine e) 2 e 3) e ∧ spareEngine f = some sp)
    ∧ (∃ t : Nat, ∃ e : Nat, ∃ s : State, ∃ v : State, ∃ f : State, advance s t = v ∧ (getEngine v e).mode = .active ∧ f = fenceEngine (huskFault v (srcEngine e) 2 e 3) e ∧ spareEngine f = none)
    ∧ (∃ t : Nat, ∃ s : State, ∃ v : State, ∃ sp : Nat, ∃ e : Nat, ∃ u : State, advance s t = v ∧ (List.range 9).find? (fun n => (getEngine v n).swapping.isSome) = some sp ∧ (getEngine v sp).swapping = some (e, none) ∧ u = modEngine v sp (fun x => { x with mode := .active, swapping := none }))
    ∧ (∃ t : Nat, ∃ s : State, ∃ v : State, ∃ sp : Nat, ∃ e : Nat, ∃ c : Cmd, ∃ u : State, advance s t = v ∧ (List.range 9).find? (fun n => (getEngine v n).swapping.isSome) = some sp ∧ (getEngine v sp).swapping = some (e, some c) ∧ u = modEngine v sp (fun x => { x with mode := .active, swapping := none }))
    ∧ (∃ t : Nat, ∃ s : State, ∃ v : State, advance s t = v ∧ ((∀ n, n < 9 → (getEngine v n).swapping = none)))
    ∧ (∃ t : Nat, ∃ e : Nat, ∃ s : State, ∃ v : State, advance s t = v ∧ (getEngine v e).mode ≠ .active)
    ∧ (∃ t : Nat, ∃ e : Nat, ∃ s : State, ∃ v : State, advance s t = v ∧ (getEngine v e).run = none) :=
  ⟨⟨1000000000, 0, withRun run1 .active, _, _, _, _, rfl, rfl, by decide +kernel, by decide +kernel, by decide +kernel, rfl, rfl⟩,
   ⟨1000000000, 0, { withRun run1 .active with solver := { W.solver with engines := { Engine.reset .active with run := some run1 } :: List.replicate 8 (Engine.reset .active) } }, _, _, _, rfl, rfl, by decide +kernel, by decide +kernel, by decide +kernel, rfl, by decide +kernel⟩,
   ⟨0, 0, withRun { run1 with writing := true } .active, _, _, rfl, rfl, by decide +kernel⟩,
   ⟨0, 0, W, _, _, _, rfl, by decide +kernel, rfl, rfl⟩,
   ⟨0, 0, { W with solver := { W.solver with engines := List.replicate 9 (Engine.reset .active) } }, _, _, rfl, by decide +kernel, rfl, by decide +kernel⟩,
   ⟨0, { W with solver := { W.solver with engines := W.solver.engines.take 8 ++ [{ Engine.reset .spare with swapping := some (0, none) }] } }, _, _, 0, _, rfl, rfl, rfl, rfl⟩,
   ⟨0, { W with solver := { W.solver with engines := W.solver.engines.take 8 ++ [{ Engine.reset .spare with swapping := some (0, some cQ) }] } }, _, _, 0, cQ, _, rfl, rfl, rfl, rfl⟩,
   ⟨0, W, _, rfl, by decide +kernel⟩,
   ⟨0, 8, W, _, rfl, by decide +kernel⟩,
   ⟨0, 0, W, _, rfl, by decide +kernel⟩⟩

theorem witness_TracerChecksRun :
    (∃ t : Nat, ∃ c : Cmd, ∃ w : Word, ∃ off : DWord, ∃ s : State, ∃ v : State, ∃ h : Bytes, ∃ b : Bytes, began s t c = v ∧ readWindow v c w off.toNat 64 = .ok h ∧ readWindow v c w off.toNat (reqBytes h) = .ok b)
    ∧ (∃ t : Nat, ∃ s : State, ∃ v : State, ∃ r : CheckReq, ∃ rest : List CheckReq, advance s t = v ∧ v.safety.check = none ∧ (v.safety.queue = r :: rest) ∧ checkMayStart v r = true)
    ∧ (∃ t : Nat, ∃ s : State, ∃ v : State, ∃ r : CheckRun, ∃ c : Cmd, advance s t = v ∧ v.safety.check = some r ∧ checkOutlived v r = false ∧ r.req.owner = .command c ∧ r.verdict.accepted = true ∧ v.safety.tracerFailed = false)
    ∧ (∃ t : Nat, ∃ s : State, ∃ v : State, ∃ r : CheckRun, ∃ c : Cmd, advance s t = v ∧ v.safety.check = some r ∧ checkOutlived v r = false ∧ r.req.owner = .command c ∧ r.verdict.accepted = false)
    ∧ (∃ t : Nat, ∃ s : State, ∃ v : State, ∃ r : CheckRun, ∃ k : CmdKey, ∃ i : Nat, advance s t = v ∧ v.safety.check = some r ∧ checkOutlived v r = false ∧ r.req.owner = .candidate k i ∧ v.safety.tracerFailed = false)
    ∧ (∃ t : Nat, ∃ s : State, ∃ v : State, ∃ r : CheckRun, ∃ c : Cmd, ∃ x : Verdict, advance s t = v ∧ v.safety.check = some r ∧ checkOutlived v r = false ∧ r.req.owner = .command c ∧ v.safety.tracerFailed = true ∧ x = failedVerdict v r.verdict)
    ∧ (∃ t : Nat, ∃ s : State, ∃ v : State, ∃ r, ∃ c, advance s t = v ∧ v.safety.check = some r ∧ checkOutlived v r = true ∧ r.req.owner = .command c ∧ v.safety.tracerFailed = false)
    ∧ (∃ t : Nat, ∃ s : State, ∃ v : State, advance s t = v ∧ v.safety.check = none ∧ v.field.parts.any (fun p => p.check.isSome) = false)
    ∧ (∃ t : Nat, ∃ s : State, ∃ v : State, advance s t = v ∧ v.safety.check = none ∧ v.field.parts.any (fun p => p.check.isSome) = false) :=
  ⟨⟨0, cF, 1, 0, W, _, _, _, rfl, rfl, rfl⟩,
   ⟨0, withSafety (fun f => { f with queue := [(check1 (.command cF) true).req] }), _, _, _, rfl, by decide +kernel, rfl, by decide +kernel⟩,
   ⟨0, withSafety (fun f => { f with check := some (check1 (.command cF) true) }), _, _, _, rfl, rfl, by decide +kernel, rfl, by decide +kernel, by decide +kernel⟩,
   ⟨0, withSafety (fun f => { f with check := some (check1 (.command cF) false) }), _, _, _, rfl, rfl, by decide +kernel, rfl, by decide +kernel⟩,
   ⟨0, withSafety (fun f => { f with check := some (check1 (.candidate cQ.key 1) false) }), _, _, _, _, rfl, rfl, by decide +kernel, rfl, by decide +kernel⟩,
   ⟨0, withSafety (fun f => { f with tracerFailed := true, check := some (check1 (.command cF) true) }), _, _, _, _, rfl, rfl, by decide +kernel, rfl, by decide +kernel, rfl⟩,
   ⟨0, withSafety (fun f => { f with check := some { check1 (.command cF) true with req := { (check1 (.command cF) true).req with part := some 0 } } }), _, _, _, rfl, rfl, by decide +kernel, rfl, by decide +kernel⟩,
   ⟨0, W, _, rfl, by decide +kernel, by decide +kernel⟩,
   ⟨0, W, _, rfl, by decide +kernel, by decide +kernel⟩⟩

theorem witness_FieldCommandsComplete :
    (∃ t : Nat, ∃ c : Cmd, ∃ w : Word, ∃ off : DWord, ∃ len : Word, ∃ s : State, ∃ v : State, ∃ b : Bytes, ∃ h : Nat, began s t c = v ∧ readWindow v c w off.toNat len.toNat = .ok b ∧ b.length ≤ 65536 ∧ routeOk b = true ∧ (v.field.routes.filter (fun r => r.session == ownerOf v c)).length < 256 ∧ pickFree 1 4095 (Config.handOut v.free) (v.field.routes.map (·.handle)) = some h)
    ∧ (∃ t : Nat, ∃ c : Cmd, ∃ h : BitVec 12, ∃ s : State, ∃ v : State, ∃ r : Route, began s t c = v ∧ h ≠ 0 ∧ findRoute v c h.toNat = some r ∧ routeInUse v h.toNat = false)
    ∧ (∃ t : Nat, ∃ c : Cmd, ∃ h : BitVec 12, ∃ w : Word, ∃ off : DWord, ∃ s : State, ∃ v : State, ∃ r : Route, ∃ b : Bytes, ∃ x : WaitingRoute, ∃ u : State, advance s t = v ∧ h ≠ 0 ∧ findRoute v c h.toNat = some r ∧ readWindow v c w off.toNat (32 * rpOperands r.program) = .ok b ∧ x = { routeFor v c with handle := r.handle, program := r.program, binds := (List.range (rpOperands r.program)).map (bindingAt b) } ∧ bindStatus v c x b = none ∧ admitHard v c x.part x.cls (routeBound v x) = .ok u)
    ∧ (∃ t : Nat, ∃ c : Cmd, ∃ w : Word, ∃ off : DWord, ∃ s : State, ∃ v : State, ∃ b : Bytes, ∃ x : WaitingRoute, ∃ y : State, ∃ u : State, advance s t = v ∧ readWindow v c w off.toNat 64 = .ok b ∧ fieldOpOk b = true ∧ x = buildRoute v { routeFor v c with op := b } ∧ (routeReads v.mem x ++ routeWrites x).any (fun r => !inEnvelope v (sessionOf v c) r.1 r.2) = false ∧ y = noteShape v x.session (foShape b) ∧ admitHard y x.cmd x.part x.cls (routeBound y x) = .ok u)
    ∧ (∃ t : Nat, ∃ c : Cmd, ∃ n : BitVec 4, ∃ s : State, ∃ v : State, ∃ k : Nat, ∃ p : Nat, began s t c = v ∧ v.field.map[n.toNat]? = some (.phys k) ∧ partOfLogical v n.toNat = some p) :=
  ⟨⟨0, cF, 1, 0, 240, holding W 0x20000 routeProg, _, _, _, rfl, rfl, by decide +kernel, by decide +kernel, by decide +kernel, Laws.pickFree_nil (by decide +kernel)⟩,
   ⟨0, cQ, 5, withRoute W, _, _, rfl, by decide +kernel, rfl, by decide +kernel⟩,
   ⟨0, cQ, 5, 1, 0, withRoute (holding W 0x20000 (bytesOf routeBinds)), _, _, _, _, _, rfl, by decide +kernel, rfl, rfl, rfl, by decide +kernel, rfl⟩,
   ⟨0, cQ, 1, 0, holding W 0x20000 (bytesOf fieldOp), _, _, _, _, _, rfl, rfl, by decide +kernel, rfl, by decide +kernel, rfl, rfl⟩,
   ⟨0, cF, 15, W, _, _, _, rfl, rfl, rfl⟩⟩

theorem witness_RoutesMoveTilesAndEnd :
    (∃ t : Nat, ∃ p : Nat, ∃ k : CmdKey, ∃ s : State, ∃ v : State, ∃ w : WaitingRoute, advance s t = v ∧ nextRoute v p = some w ∧ w.cmd.key = k ∧ startStatus v (buildRoute v w) = none)
    ∧ (∃ t : Nat, ∃ p : Nat, ∃ s : State, ∃ v : State, ∃ r : RouteRun, advance s t = v ∧ (getPart v p).run = some r ∧ ((∀ d, r.job.cmd.deadline = some d → deadlineArrived v d = false)))
    ∧ (∃ t : Nat, ∃ p : Nat, ∃ s : State, ∃ v : State, ∃ r : RouteRun, ∃ d : PhaseValue, advance s t = v ∧ (getPart v p).run = some r ∧ r.job.cmd.deadline = some d ∧ deadlineArrived v d = true)
    ∧ (∃ t : Nat, ∃ p : Nat, ∃ s : State, ∃ v : State, ∃ r : RouteRun, advance s t = v ∧ (getPart v p).run = some r ∧ stalled v p r = true)
    ∧ (∃ t : Nat, ∃ p : Nat, ∃ i : Nat, ∃ q : Nat, ∃ s : State, ∃ v : State, ∃ r : RouteRun, ∃ y : QueuePos, ∃ st : Station, ∃ x : Tile, advance s t = v ∧ (getPart v p).run = some r ∧ getQueue r i q = some y ∧ nextTile v p i r y = some (st, x))
    ∧ (∃ t : Nat, ∃ p : Nat, ∃ i : Nat, ∃ q : Nat, ∃ s : State, ∃ v : State, ∃ r : RouteRun, ∃ y : QueuePos, advance s t = v ∧ (getPart v p).run = some r ∧ getQueue r i q = some y ∧ nextTile v p i r y = none)
    ∧ (∃ t : Nat, ∃ p : Nat, ∃ i : Nat, ∃ q : Nat, ∃ s : State, ∃ v : State, ∃ r : RouteRun, ∃ y : QueuePos, ∃ x : Tile, ∃ st : Station, ∃ h : State × Tile, advance s t = v ∧ (getPart v p).run = some r ∧ getQueue r i q = some y ∧ y.tiles[y.released]? = some x ∧ consumerOf r.job.program q = some st ∧ h = readHead v p i q r.job.program x)
    ∧ (∃ t : Nat, ∃ p : Nat, ∃ i : Nat, ∃ s : State, ∃ v : State, ∃ n : Nat, advance s t = v ∧ physAt v p i = some n)
    ∧ (∃ t : Nat, ∃ p : Nat, ∃ i : Nat, ∃ q : Nat, ∃ s : State, ∃ v : State, ∃ n : Nat, ∃ k : DetectKind, ∃ r : RouteRun, ∃ y : QueuePos, ∃ u : State, ∃ r1 : RouteRun, advance s t = v ∧ physAt v p i = some n ∧ (k = .crc ∨ k = .weight ∨ k = .parity) ∧ u = countDetect v n k ∧ (getPart u p).run = some r ∧ cannotRegenerate u.mem r q = false ∧ getQueue r i q = some y ∧ r1 = modQueue r i q (fun y' => y'.detect (detectedTile y k)))
    ∧ (∃ t : Nat, ∃ p : Nat, ∃ i : Nat, ∃ q : Nat, ∃ s : State, ∃ v : State, ∃ r : RouteRun, ∃ y : QueuePos, ∃ n : Nat, advance s t = v ∧ (getPart v p).run = some r ∧ getQueue r i q = some y ∧ physAt v p i = some n ∧ y.detections.any (fun e => decide (3 ≤ e.2)) = true ∧ (getSector v n).fenced = false) :=
  ⟨⟨0, 0, cQ.key, withPart { Partition.reset with waiting := [job5] } W, _, _, rfl, rfl, by decide +kernel, by decide +kernel⟩,
   ⟨0, 0, running5 id, _, _, rfl, rfl, fun _ h => nomatch h⟩,
   ⟨5, 0, running5 (fun r => { r with job := { job5 with cmd := { cQ with deadline := some (atGtc 5) } } }), _, _, _, rfl, rfl, rfl, by decide +kernel⟩,
   ⟨2000000, 0, running5 id, _, _, rfl, rfl, by decide +kernel⟩,
   ⟨0, 0, 0, 0, running5 id, _, _, _, _, _, rfl, rfl, rfl, rfl⟩,
   ⟨0, 0, 0, 0, running5 (queuePos [tile1, tile1] 0 []), _, _, _, rfl, rfl, rfl, by decide +kernel⟩,
   ⟨0, 0, 0, 0, running5 (queuePos [tile1] 0 []), _, _, _, _, _, _, rfl, rfl, rfl, rfl, rfl, rfl⟩,
   ⟨0, 0, 15, W, _, _, rfl, rfl⟩,
   ⟨0, 0, 0, 0, running5 (queuePos [tile1] 0 [(0, 1)]), _, _, .weight, _, _, _, _, rfl, rfl, by decide +kernel, rfl, rfl, by decide +kernel, rfl, rfl⟩,
   ⟨0, 0, 0, 0, running5 (queuePos [tile1] 0 [(0, 3)]), _, _, _, _, rfl, rfl, rfl, rfl, by decide +kernel, by decide +kernel⟩⟩

theorem witness_SectorsFailAndSpill :
    (∃ t : Nat, ∃ n : Nat, ∃ s : State, ∃ v : State, ∃ u : State, ∃ l : Nat, advance s t = v ∧ (getSector v n).fenced = false ∧ u = huskFault (modSector v n (fun x => { x with fenced := true })) (srcSector n) 1 n 2 ∧ logicalOf u n = some l ∧ partOfLogical u l = none)
    ∧ (∃ t : Nat, ∃ n : Nat, ∃ s : State, ∃ v : State, ∃ u : State, ∃ l : Nat, ∃ p : Nat, advance s t = v ∧ (getSector v n).fenced = false ∧ u = huskFault (modSector v n (fun x => { x with fenced := true })) (srcSector n) 1 n 4 ∧ logicalOf u n = some l ∧ partOfLogical u l = some p ∧ (getPart (bumpEpoch u p) p).run = none)
    ∧ (∃ t : Nat, ∃ n : Nat, ∃ s : State, ∃ v : State, advance s t = v ∧ (getSector v n).fenced = true)
    ∧ (∃ t : Nat, ∃ l : Nat, ∃ s : State, ∃ v : State, ∃ n : Nat, ∃ f : Nat, ∃ c : Option Cmd, ∃ u : State, ∃ w : State, ∃ x : State, ∃ e : Nat, advance s t = v ∧ v.field.map[l]? = some (.pend n f c) ∧ u = enterUnit { v with field := { v.field with map := v.field.map.set l (.phys n) } } (0x10000 + n) 2 ∧ e = (match partOfLogical u l with | some p => (getPart u p).epoch.toNat | none => 0) ∧ w = huskRequest (repairEntry (raiseEvent u evSPARE_USED (1 + f * 2 ^ 8 + n * 2 ^ 16)) 1 f n) 0x0B srcCp (leBytes 1 1 ++ leBytes 1 f ++ leBytes 1 n ++ [0] ++ leBytes 2 e) ∧ x = (match c with | some c => done w c stOK n | none => w))
    ∧ (∃ t : Nat, ∃ p : Nat, ∃ s : State, ∃ v : State, ∃ r : RouteRun, advance s t = v ∧ (getPart v p).run = some r ∧ peMode (partEntry v p) = 1 ∧ peSpill (partEntry v p) = true ∧ r.job.cls < 2 ∧ (getPart v p).spilled = none ∧ hardWaits v p = true)
    ∧ (∃ t : Nat, ∃ p : Nat, ∃ s : State, ∃ v : State, ∃ r : RouteRun, advance s t = v ∧ (getPart v p).spilled = some r ∧ (getPart v p).run = none ∧ hardWaits v p = false ∧ sparePending v p = false ∧ (partPhys v p).any (·.isNone) = false)
    ∧ (∃ ptr : Nat, ∃ who : Nat → Bool, (ringGrant ptr who).1 = none)
    ∧ (∃ ptr : Nat, ∃ p : Nat, ∃ who : Nat → Bool, (ringGrant ptr who).1 = some p)
    ∧ (∃ wants : Nat → Bool, ∃ others : Nat → Bool, ∃ owner : Nat, wants owner = others owner) :=
  ⟨⟨0, 0, { W with plate := { W.plate with parts := List.replicate 16 { entry := List.replicate 16 0, slots := [], maps := [] } } }, _, _, _, rfl, by decide +kernel, rfl, rfl, by decide +kernel⟩,
   ⟨0, 0, W, _, _, _, _, rfl, by decide +kernel, rfl, rfl, rfl, by decide +kernel⟩,
   ⟨0, 0, { W with field := { W.field with sectors := { Sector.reset with fenced := true } :: W.field.sectors.drop 1 } }, _, rfl, by decide +kernel⟩,
   ⟨0, 0, { W with plate := { W.plate with parts := List.replicate 16 { entry := List.replicate 16 0, slots := [], maps := [] } }, field := { W.field with map := .pend 16 0 none :: W.field.map.drop 1 } }, _, _, _, none, _, _, _, _, rfl, rfl, rfl, rfl, rfl, rfl⟩,
   ⟨0, 0, staticPart [waits9] (running5 id), _, _, rfl, rfl, by decide +kernel, by decide +kernel, by decide +kernel, by decide +kernel, by decide +kernel⟩,
   ⟨0, 0, staticPart [] (withPart { Partition.reset with spilled := some run5 } W), _, _, rfl, rfl, by decide +kernel, by decide +kernel, by decide +kernel, by decide +kernel⟩,
   ⟨3, fun _ => false, by decide +kernel⟩,
   ⟨3, 4, fun p => p == 4, by decide +kernel⟩,
   ⟨fun _ => true, fun p => p == 3, 3, by decide +kernel⟩⟩

theorem witness_ServingCommandsComplete :
    (∃ t : Nat, ∃ c : Cmd, ∃ w : Word, ∃ off : DWord, ∃ s : State, ∃ v : State, ∃ x : Session, ∃ cfg : Bytes, ∃ b : Bytes, ∃ l : Loop, ∃ u : State, ∃ as : List Nat, ∃ y : State, began s t c = v ∧ (sessionOf v c).bind (findSession v) = some x ∧ readWindow v c w off.toNat 128 = .ok cfg ∧ cfOk v.ports.peer.number.toNat cfg = true ∧ hasLoop v (partOf v c) = false ∧ inEnvelope v (some x.id) (cfProgram cfg) (16 * cfEntries cfg) = true ∧ accessStatus v (cfProgram cfg) (16 * cfEntries cfg) false = none ∧ b = readKey v.mem (cfProgram cfg) (16 * cfEntries cfg) ∧ programStatus v x.id cfg b = none ∧ cfRecords cfg * cfPages cfg ≤ 0xFFFFFF ∧ serveAllocs x (poolSizes cfg) v = some (u, as) ∧ l = freshLoop (partOf v c) x.id c cfg b as ∧ y = levelJob (writeHeader (onDev u (fun m => (m.clear l.headers ((poolSizes cfg).getD 0 0)).clear l.records ((poolSizes cfg).getD 1 0))) l 0 0 0) (partOf v c) x.id)
    ∧ (∃ t : Nat, ∃ c : Cmd, ∃ s : State, ∃ v : State, ∃ l : Loop, began s t c = v ∧ findLoop v (partOf v c) = some l ∧ sessionOf v c = some l.session ∧ l.stopping = none)
    ∧ (∃ t : Nat, ∃ c : Cmd, ∃ s : State, ∃ v : State, ∃ l : Loop, began s t c = v ∧ findLoop v (partOf v c) = some l)
    ∧ (∃ t : Nat, ∃ p : Nat, ∃ s : State, ∃ v : State, ∃ l : Loop, advance s t = v ∧ findLoop v p = some l ∧ stepBusy v l = false ∧ l.stopping = none)
    ∧ (∃ t : Nat, ∃ p : Nat, ∃ s : State, ∃ v : State, ∃ l : Loop, ∃ c : Cmd, ∃ x : Srv, advance s t = v ∧ findLoop v p = some l ∧ stepBusy v l = false ∧ l.stopping = some c ∧ x = boundaryFirst (v, l)) :=
  ⟨⟨0, cQ, 1, 0, roomy (withRoutes { holding (holding W 0x20000 (bytesOf (cfgWords 3))) 0x28000 (bytesOf stepWords) with loops := [] }), _, _, _, _, _, _, _, _, rfl, rfl, rfl, by decide +kernel, by decide +kernel, by decide +kernel, by decide +kernel, rfl, by decide +kernel, by decide +kernel, some_eq (Laws.serveAllocs_room _ _ (by decide +kernel) (by decide +kernel) (by decide +kernel)), rfl, rfl⟩,
   ⟨0, cQ, serving loop1, _, _, rfl, rfl, by decide +kernel, by decide +kernel⟩,
   ⟨0, cQ, serving loop1, _, _, rfl, rfl⟩,
   ⟨0, 0, serving loop1, _, _, rfl, rfl, by decide +kernel, by decide +kernel⟩,
   ⟨0, 0, serving { loop1 with stopping := some cQ }, _, _, _, _, rfl, rfl, by decide +kernel, rfl, rfl⟩⟩

theorem witness_SequenceCommandsComplete :
    (∃ t : Nat, ∃ c : Cmd, ∃ w : Word, ∃ off : DWord, ∃ n : BitVec 18, ∃ maxNew : BitVec 16, ∃ wait : Bool, ∃ ow : Word, ∃ oo : DWord, ∃ s : State, ∃ v : State, ∃ l : Loop, ∃ b : Bytes, ∃ k : Nat, ∃ session : Word, ∃ slot : Nat, ∃ id : Nat, ∃ q : Sequence, began s t c = v ∧ n ≠ 0 ∧ findLoop v (partOf v c) = some l ∧ n.toNat < positionLimit ∧ readWindow v c w off.toNat (4 * n.toNat) = .ok b ∧ windowKey v c ow oo.toNat 4 true = .ok k ∧ sessionOf v c = some session ∧ pickFree 0 (cfSequences l.cfg) (Config.handOut v.free) ((l.seqs.filter Sequence.live).map (·.slot)) = some slot ∧ pickFree 0 (2 ^ 32) (Config.handOut v.free) (v.loops.flatMap (fun l => l.seqs.map (·.id))) = some id ∧ l.stopping = none ∧ (q = ({ id := id, session := session, cmd := c, st := .waiting, slot := slot, len := 0, promptLen := n.toNat, target := n.toNat, tokens := toWords n.toNat b, entries := [], nodes := [], fill := 0, draft := none, inUse := none, leaves := [], leaver := none, maxNew := maxNew.toNat, wait := wait, outWindow := ow.toNat, outOffset := oo.toNat, generated := 0, joined := v.phase.gtc, admitted := none, pausedAt := none, seenBoundary := false } : Sequence)))
    ∧ (∃ t : Nat, ∃ c : Cmd, ∃ q : Word, ∃ n : BitVec 3, ∃ parents : Word, ∃ tokens : List Word, ∃ s : State, ∃ v : State, ∃ l : Loop, ∃ x : Sequence, began s t c = v ∧ findSeq v q.toNat = some (l, x) ∧ ownsObject v c x.session (match findSession v x.session with | some y => y.fn | none => 0) = true ∧ x.st = .running ∧ draftOk (draftNodes n.toNat parents tokens) = true)
    ∧ (∃ t : Nat, ∃ c : Cmd, ∃ q : Word, ∃ s : State, ∃ v : State, ∃ l : Loop, ∃ x : Sequence, began s t c = v ∧ findSeq v q.toNat = some (l, x) ∧ ownsObject v c x.session (match findSession v x.session with | some y => y.fn | none => 0) = true ∧ x.st ≠ .ended)
    ∧ (∃ t : Nat, ∃ c : Cmd, ∃ q : Word, ∃ s : State, ∃ v : State, ∃ l : Loop, ∃ x : Sequence, began s t c = v ∧ findSeq v q.toNat = some (l, x) ∧ ownsObject v c x.session (match findSession v x.session with | some y => y.fn | none => 0) = true)
    ∧ (∃ t : Nat, ∃ c : Cmd, ∃ q : Word, ∃ s : State, ∃ v : State, ∃ l : Loop, ∃ x : Sequence, began s t c = v ∧ findSeq v q.toNat = some (l, x) ∧ ownsObject v c x.session (match findSession v x.session with | some y => y.fn | none => 0) = true ∧ x.entries.any (·.dropped) = true ∧ x.st = .running)
    ∧ (∃ t : Nat, ∃ c : Cmd, ∃ q : Word, ∃ e : BitVec 4, ∃ sl : BitVec 3, ∃ se : BitVec 4, ∃ ss : BitVec 3, ∃ ls : BitVec 4, ∃ cc : BitVec 7, ∃ ce : BitVec 6, ∃ ps : BitVec 12, ∃ s : State, ∃ v : State, ∃ l : Loop, ∃ x : Sequence, ∃ a : ActionBinding, ∃ im : Bytes, ∃ st : Bytes, ∃ y : Session, ∃ pe : List Word, ∃ u1 : State, ∃ k1 : Nat, ∃ u2 : State, ∃ k2 : Nat, began s t c = v ∧ okActionBind e se cc ce = true ∧ findSeq v q.toNat = some (l, x) ∧ ownsObject v c x.session (match findSession v x.session with | some y => y.fn | none => 0) = true ∧ x.st ≠ .ended ∧ (a = ({ sequence := x.id, session := x.session, engine := e.toNat, slot := sl.toNat, stopEngine := se.toNat, stopSlot := ss.toNat, limitSet := ls.toNat, chunkCount := cc.toNat, chunkExtra := ce.toNat, plateSlot := ps.toNat, published := none, age := 0, nextChunk := 0, prev := none, sets := 0, area := 0, resultBytes := 0, batch := 0, batchSet := 0, report := [] } : ActionBinding)) ∧ bindImages v l a = .ok (im, st) ∧ findSession v l.session = some y ∧ pe = partEntry v (bindPart v l a) ∧ serveAlloc v y (12 * cc.toNat * chunkElems im ce.toNat) (peFirstSlice pe * sliceBytes) (peFirstSlice pe * sliceBytes + peSliceCount pe * sliceBytes) = some (u1, k1) ∧ serveAlloc u1 y (areaBytes (bindResultBytes im st)) lpddrBase (lpddrBase + lpddrBytes) = some (u2, k2)) :=
  ⟨⟨0, cQ, 1, 0, 1, 4, false, 1, 0x1000, serving loop1, _, _, _, _, _, _, _, _, rfl, by decide +kernel, rfl, by decide +kernel, rfl, rfl, rfl, Laws.pickFree_nil (by decide +kernel), Laws.pickFree_nil (by decide +kernel), by decide +kernel, rfl⟩,
   ⟨0, cQ, 7, 1, 0, [9], serving { loop1 with seqs := [seq1 .running] }, _, _, _, rfl, rfl, by decide +kernel, by decide +kernel, by decide +kernel⟩,
   ⟨0, cQ, 7, serving { loop1 with seqs := [seq1 .waiting] }, _, _, _, rfl, rfl, by decide +kernel, by decide +kernel⟩,
   ⟨0, cQ, 7, serving { loop1 with seqs := [seq1 .ended] }, _, _, _, rfl, rfl, by decide +kernel⟩,
   ⟨0, cQ, 7, serving { loop1 with seqs := [{ seq1 .running with entries := [{ dropped := true, record := 0, count := 1 }] }] }, _, _, _, rfl, rfl, by decide +kernel, by decide +kernel, by decide +kernel⟩,
   match bind_room with | ⟨u1, k1, u2, k2, e1, e2⟩ => ⟨0, cQ, 7, 0, 0, 1, 0, 0, 2, 0, 0, binding, bound, _, _, _, _, _, bindSession, _, u1, k1, u2, k2, rfl, by decide +kernel, rfl, by decide +kernel, by decide +kernel, rfl, rfl, rfl, rfl, e1, e2⟩⟩

theorem witness_PowerCommandsAndEventsAct :
    (∃ t : Nat, ∃ c : Cmd, ∃ n : BitVec 4, ∃ s : State, ∃ v : State, began s t c = v ∧ okProfile n = true ∧ n.toNat = v.power.state)
    ∧ (∃ t : Nat, ∃ c : Cmd, ∃ n : BitVec 4, ∃ s : State, ∃ v : State, began s t c = v ∧ okProfile n = true ∧ n.toNat ≠ v.power.state ∧ v.power.transition = none ∧ profileStatus v n.toNat = none)
    ∧ (∃ t : Nat, ∃ c : Cmd, ∃ n : BitVec 4, ∃ s : State, ∃ v : State, began s t c = v ∧ okProfile n = true ∧ n.toNat ≠ v.power.state ∧ v.power.transition ≠ none)
    ∧ (∃ t : Nat, ∃ c : Cmd, ∃ u : BitVec 20, ∃ n : BitVec 2, ∃ s : State, ∃ v : State, ∃ y : State, began s t c = v ∧ okPowerUnit u n = true ∧ powerUnitStatus v u.toNat n.toNat = none ∧ y = startUnit v u.toNat n.toNat srcCp)
    ∧ (∃ t : Nat, ∃ c : Cmd, ∃ w : Word, ∃ off : DWord, ∃ s : State, ∃ v : State, ∃ u : State, began s t c = v ∧ writeWindow v c w off.toNat (pwrBytes v) = .ok u)
    ∧ (∃ t : Nat, ∃ c : Cmd, ∃ n : BitVec 16, ∃ s : State, ∃ v : State, began s t c = v ∧ okThreshold n = true ∧ v.power.warned = false ∧ (hotMain v).2 ≤ n.toInt)
    ∧ (∃ t : Nat, ∃ u : Nat, ∃ s : State, ∃ v : State, ∃ d : Drain, advance s t = v ∧ v.power.drains.find? (fun d => d.unit == u) = some d)
    ∧ (∃ t : Nat, ∃ u : Nat, ∃ s : State, ∃ v : State, ∃ m : Nat × BitVec 2, advance s t = v ∧ u ≠ 0 ∧ v.power.moves.find? (fun m => m.1 == u) = some m ∧ unitIdle v u = true)
    ∧ (∃ t : Nat, ∃ s : State, ∃ v : State, advance s t = v ∧ v.power.transition = some 2 ∧ standbyReady v = true)
    ∧ (∃ t : Nat, ∃ s : State, ∃ v : State, ∃ n : Nat, advance s t = v ∧ v.power.transition = some n ∧ 3 ≤ n ∧ v.power.state ≠ 1)
    ∧ (∃ t : Nat, ∃ s : State, ∃ v : State, advance s t = v ∧ v.power.transition = some 1)
    ∧ (∃ t : Nat, ∃ l : List Int, ∃ s : State, ∃ v : State, ∃ u : State, advance s t = v ∧ l.length = 9 ∧ u = { v with power := { v.power with readings := l } } ∧ (hotMain u).2 ≤ u.power.warn.toInt ∧ v.power.warned = false ∧ (hotMain u).2 < 2000 ∧ l.getD 8 0 < 2000)
    ∧ (∃ t : Nat, ∃ x : Word, ∃ s : State, ∃ v : State, ∃ u : State, advance s t = v ∧ fld x 7 0 = 0x4D ∧ v.power.state = 1 ∧ (hotMain v).2 ≤ 1840 ∧ u = { v with ports := { v.ports with i3c := some (2, 0x40) }, power := { v.power with wakeRefused := false, thermalTrip := false, mainPwrEn := true, transition := some 5 } })
    ∧ (∃ t : Nat, ∃ x : Word, ∃ s : State, ∃ v : State, advance s t = v ∧ fld x 7 0 = 0x4D ∧ v.power.state ≠ 1)
    ∧ (∃ t : Nat, ∃ x : Word, ∃ s : State, ∃ v : State, advance s t = v ∧ fld x 7 0 ≠ 0x4D) :=
  ⟨⟨0, cF, 5, W, _, rfl, by decide +kernel, by decide +kernel⟩,
   ⟨0, cF, 4, W, _, rfl, by decide +kernel, by decide +kernel, by decide +kernel, by decide +kernel⟩,
   ⟨0, cF, 4, withPower (fun p => { p with transition := some 3 }), _, rfl, by decide +kernel, by decide +kernel, by decide +kernel⟩,
   ⟨0, cF, 0x30004, 1, W, _, _, rfl, by decide +kernel, by decide +kernel, rfl⟩,
   ⟨0, cF, 1, 0, W, _, _, rfl, ok_eq (by decide +kernel)⟩,
   ⟨0, cF, 1760, W, _, rfl, by decide +kernel, by decide +kernel, by decide +kernel⟩,
   ⟨0, 0x30004, withPower (fun p => { p with drains := [{ unit := 0x30004, target := 1, at_ := 0, source := 0, discarded := none }] }), _, _, rfl, rfl⟩,
   ⟨0, 0x20003, withPower (fun p => { p with moves := [(0x20003, 1)] }), _, _, rfl, by decide +kernel, rfl, by decide +kernel⟩,
   ⟨0, withPower (fun p => { p with transition := some 2, sectors := List.replicate 18 0, engines := List.replicate 9 0, slices := List.replicate 16 1 }), _, rfl, by decide +kernel, by decide +kernel⟩,
   ⟨0, withPower (fun p => { p with transition := some 4 }), _, _, rfl, rfl, by decide +kernel, by decide +kernel⟩,
   ⟨0, withPower (fun p => { p with transition := some 1 }), _, rfl, by decide +kernel⟩,
   ⟨0, [1760, 0, 0, 0, 0, 0, 0, 0, 1999], W, _, _, rfl, by decide +kernel, rfl, by decide +kernel, by decide +kernel, by decide +kernel, by decide +kernel⟩,
   ⟨0, 0x4D, withPower (fun p => { p with state := 1, readings := List.replicate 9 1840 }), _, _, rfl, by decide +kernel, by decide +kernel, by decide +kernel, rfl⟩,
   ⟨0, 0x4D, W, _, rfl, by decide +kernel, by decide +kernel⟩,
   ⟨0, 0x4C, W, _, rfl, by decide +kernel⟩⟩

theorem witness_SafetyCommandsAndHeartbeat :
    (∃ t : Nat, ∃ c : Cmd, ∃ w : Word, ∃ off : DWord, ∃ s : State, ∃ v : State, ∃ u : State, began s t c = v ∧ writeWindow v c w off.toNat (trcBytes v) = .ok u)
    ∧ (∃ t : Nat, ∃ c : Cmd, ∃ s : State, ∃ v : State, ∃ n : Nat, began s t c = v ∧ v.safety.closedSince = some n ∧ n + 100000000 ≤ v.phase.gtc ∧ v.safety.estopFault = false ∧ v.safety.outputFault = false ∧ v.safety.shellFault = false ∧ v.safety.safe = none ∧ stoAsserted v = true)
    ∧ (∃ t : Nat, ∃ c : Cmd, ∃ s : State, ∃ v : State, began s t c = v ∧ (v.safety.closedSince = none ∨ v.safety.estopFault = true ∨ v.safety.outputFault = true ∨ v.safety.shellFault = true ∨ v.safety.safe ≠ none))
    ∧ (∃ t : Nat, ∃ c : Cmd, ∃ s : State, ∃ v : State, began s t c = v ∧ resetAllowed v = true ∧ stoAsserted v = false)
    ∧ (∃ t : Nat, ∃ s : State, ∃ v : State, advance s t = v ∧ mainRuns v = true ∧ v.safety.heartbeat + protHeartbeat v ≤ v.phase.gtc)
    ∧ (∃ t : Nat, ∃ s : State, ∃ v : State, advance s t = v ∧ v.phase.gtc < v.safety.heartbeat + protHeartbeat v)
    ∧ (∃ t : Nat, ∃ s : State, ∃ v : State, advance s t = v ∧ v.safety.shellFault = false ∧ v.ports.jtag = false ∧ v.power.mainValid = true ∧ v.hif.fwReady = false ∧ v.power.state = 1 ∧ 4 ≤ v.boot.step)
    ∧ (∃ t : Nat, ∃ s : State, ∃ v : State, advance s t = v ∧ v.safety.shellFault = false ∧ v.ports.jtag = false ∧ v.power.mainValid = true ∧ v.hif.fwReady = false ∧ v.power.state ≠ 1 ∧ ((∀ x, v.safety.safe = some x → x.released = false)))
    ∧ (∃ t : Nat, ∃ s : State, ∃ v : State, advance s t = v ∧ (v.safety.shellFault = true ∨ v.ports.jtag = true ∨ v.power.mainValid = false))
    ∧ (∃ t : Nat, ∃ s : State, ∃ v : State, ∃ n : Nat, advance s t = v ∧ v.safety.windowFrom = some n ∧ n + protRestartWindow v ≤ v.phase.gtc ∧ v.servo.groups.any (fun g => g.live && g.inStop) = true)
    ∧ (∃ t : Nat, ∃ s : State, ∃ v : State, ∃ n : Nat, advance s t = v ∧ v.safety.windowFrom = some n ∧ n + protRestartWindow v ≤ v.phase.gtc ∧ v.servo.groups.any (fun g => g.live && g.inStop) = false) :=
  ⟨⟨0, cF, 1, 0, W, _, _, rfl, ok_eq (by decide +kernel)⟩,
   ⟨100000000, cF, withSafety (fun f => { f with closedSince := some 0 }), _, _, rfl, rfl, by decide +kernel, by decide +kernel, by decide +kernel, by decide +kernel, by decide +kernel, by decide +kernel⟩,
   ⟨0, cF, W, _, rfl, by decide +kernel⟩,
   ⟨100000000, cF, withSafety (fun f => { f with closedSince := some 0, stoHeld := false }), _, rfl, by decide +kernel, by decide +kernel⟩,
   ⟨500000, W, _, rfl, by decide +kernel, by decide +kernel⟩,
   ⟨499999, W, _, rfl, by decide +kernel⟩,
   ⟨0, { W with hif := { W.hif with fwReady := false }, power := { W.power with state := 1 }, boot := { W.boot with step := 4 } }, _, rfl, by decide +kernel, by decide +kernel, by decide +kernel, by decide +kernel, by decide +kernel, by decide +kernel⟩,
   ⟨0, { W with hif := { W.hif with fwReady := false } }, _, rfl, by decide +kernel, by decide +kernel, by decide +kernel, by decide +kernel, by decide +kernel, fun _ h => nomatch h⟩,
   ⟨0, withSafety (fun f => { f with shellFault := true }), _, rfl, by decide +kernel⟩,
   ⟨60000000, { W with safety := { W.safety with windowFrom := some 0 }, servo := { W.servo with groups := W.servo.groups.map (fun g => { g with live := true, inStop := true }) } }, _, _, rfl, rfl, by decide +kernel, by decide +kernel⟩,
   ⟨60000000, withSafety (fun f => { f with windowFrom := some 0 }), _, _, rfl, rfl, by decide +kernel, by decide +kernel⟩⟩

theorem witness_StoAndBrakesFollow :
    (∃ t : Nat, ∃ s : State, ∃ v : State, advance s t = v ∧ v.safety.stoDue.any (fun d => decide (d.2 + 300000000 ≤ v.phase.gtc)) = true ∧ v.safety.stoHeld = false ∧ v.safety.brakeDelay ≠ .sto ∧ protStoMode v = 0)
    ∧ (∃ t : Nat, ∃ s : State, ∃ v : State, advance s t = v ∧ v.safety.stoDue.any (fun d => decide (d.2 + 300000000 ≤ v.phase.gtc)) = true ∧ v.safety.stoHeld = false ∧ v.safety.brakeDelay ≠ .sto ∧ protStoMode v ≠ 0)
    ∧ (∃ t : Nat, ∃ s : State, ∃ v : State, advance s t = v ∧ v.safety.stoDue.any (fun d => decide (d.2 + 300000000 ≤ v.phase.gtc)) = false)
    ∧ (∃ t : Nat, ∃ s : State, ∃ v : State, advance s t = v ∧ v.safety.brakeDelayAt ≤ v.phase.gtc ∧ v.safety.brakeDelay = .sto)
    ∧ (∃ t : Nat, ∃ s : State, ∃ v : State, advance s t = v ∧ v.safety.brakeDelayAt ≤ v.phase.gtc ∧ v.safety.brakeDelay = .release)
    ∧ (∃ t : Nat, ∃ s : State, ∃ v : State, advance s t = v ∧ v.phase.gtc < v.safety.brakeDelayAt)
    ∧ (∃ t : Nat, ∃ g : Nat, ∃ s : State, ∃ v : State, advance s t = v ∧ protHeldLimit v ≠ 0 ∧ protHeldLimit v ≤ (getGroup v g).held.toNat)
    ∧ (∃ t : Nat, ∃ g : Nat, ∃ s : State, ∃ v : State, advance s t = v ∧ (protHeldLimit v = 0 ∨ (getGroup v g).held.toNat < protHeldLimit v))
    ∧ (∃ t : Nat, ∃ g : Nat, ∃ s : State, ∃ v : State, advance s t = v ∧ protDisagreeK v ≠ 0 ∧ protDisagreeK v ≤ windowCount (getGroup v g))
    ∧ (∃ t : Nat, ∃ g : Nat, ∃ s : State, ∃ v : State, advance s t = v ∧ (protDisagreeK v = 0 ∨ windowCount (getGroup v g) < protDisagreeK v)) :=
  ⟨⟨300000000, setProt 7 0x68 (withSafety (fun f => { f with stoDue := [(.estop, 0)], stoHeld := false })), _, rfl, by decide +kernel, by decide +kernel, by decide +kernel, by decide +kernel⟩,
   ⟨300000000, withSafety (fun f => { f with stoDue := [(.estop, 0)], stoHeld := false }), _, rfl, by decide +kernel, by decide +kernel, by decide +kernel, by decide +kernel⟩,
   ⟨0, W, _, rfl, by decide +kernel⟩,
   ⟨5, withSafety (fun f => { f with brakeDelay := .sto, brakeDelayAt := 5 }), _, rfl, by decide +kernel, by decide +kernel⟩,
   ⟨5, withSafety (fun f => { f with brakeDelay := .release, brakeDelayAt := 5 }), _, rfl, by decide +kernel, by decide +kernel⟩,
   ⟨4, withSafety (fun f => { f with brakeDelay := .release, brakeDelayAt := 5 }), _, rfl, by decide +kernel⟩,
   ⟨0, 0, { W with servo := { W.servo with groups := W.servo.groups.map (fun g => { g with held := 8 }) } }, _, rfl, by decide +kernel, by decide +kernel⟩,
   ⟨0, 0, { W with servo := { W.servo with groups := W.servo.groups.map (fun g => { g with held := 7 }) } }, _, rfl, by decide +kernel⟩,
   ⟨0, 0, { W with servo := { W.servo with groups := W.servo.groups.map (fun g => { g with window := 3 }) } }, _, rfl, by decide +kernel, by decide +kernel⟩,
   ⟨0, 0, { W with servo := { W.servo with groups := W.servo.groups.map (fun g => { g with window := 1 }) } }, _, rfl, by decide +kernel⟩⟩

theorem witness_EstopAndOutputsAct :
    (∃ t : Nat, ∃ s : State, ∃ v : State, ∃ n : Nat, advance s t = v ∧ v.safety.openA = false ∧ v.safety.openB = false ∧ v.safety.lowA = some n ∧ n + 1000000 ≤ v.phase.gtc ∧ v.safety.lowB = none ∧ protEstopCategory v = 0)
    ∧ (∃ t : Nat, ∃ s : State, ∃ v : State, ∃ n : Nat, advance s t = v ∧ v.safety.openA = false ∧ v.safety.openB = false ∧ v.safety.lowB = some n ∧ n + 1000000 ≤ v.phase.gtc ∧ v.safety.lowA = none ∧ protEstopCategory v = 1)
    ∧ (∃ t : Nat, ∃ s : State, ∃ v : State, ∃ n : Nat, advance s t = v ∧ v.safety.differ = some n ∧ n + protEstopDiscrepancy v < v.phase.gtc ∧ v.safety.estopFault = false)
    ∧ (∃ t : Nat, ∃ s : State, ∃ v : State, advance s t = v ∧ v.safety.differ = none)
    ∧ (∃ t : Nat, ∃ b : Bool, ∃ s : State, ∃ v : State, advance s t = v ∧ (if b then v.safety.stoB || v.safety.brakeB else v.safety.stoA || v.safety.brakeA) = true)
    ∧ (∃ t : Nat, ∃ s : State, ∃ v : State, advance s t = v ∧ v.safety.outputFault = false) :=
  ⟨⟨1000000, setProt 7 0x58 (withSafety (fun f => { f with lowA := some 0 })), _, _, rfl, by decide +kernel, by decide +kernel, rfl, by decide +kernel, by decide +kernel, by decide +kernel⟩,
   ⟨1000000, withSafety (fun f => { f with lowB := some 0 }), _, _, rfl, by decide +kernel, by decide +kernel, rfl, by decide +kernel, by decide +kernel, by decide +kernel⟩,
   ⟨20000001, withSafety (fun f => { f with differ := some 0 }), _, _, rfl, rfl, by decide +kernel, by decide +kernel⟩,
   ⟨0, W, _, rfl, by decide +kernel⟩,
   ⟨0, true, withSafety (fun f => { f with stoB := true }), _, rfl, by decide +kernel⟩,
   ⟨0, W, _, rfl, by decide +kernel⟩⟩

theorem witness_MonitorsReact :
    (∃ t : Nat, ∃ s : State, ∃ v : State, advance s t = v ∧ v.safety.shellFault = false)
    ∧ (∃ t : Nat, ∃ s : State, ∃ v : State, advance s t = v ∧ v.safety.shellFault = true)
    ∧ (∃ t : Nat, ∃ s : State, ∃ v : State, advance s t = v ∧ mainRuns v = true)
    ∧ (∃ t : Nat, ∃ s : State, ∃ v : State, advance s t = v ∧ mainRuns v = false)
    ∧ (∃ t : Nat, ∃ s : State, ∃ v : State, advance s t = v ∧ 2 ≤ v.power.state)
    ∧ (∃ t : Nat, ∃ s : State, ∃ v : State, advance s t = v ∧ v.power.state < 2 ∧ v.power.mainPwrEn = false)
    ∧ (∃ t : Nat, ∃ s : State, ∃ v : State, ∃ h : Nat, advance s t = v ∧ v.husk.powerFail = none ∧ v.power.mainPwrEn = false ∧ v.safety.shellFault = true ∧ h = v.husk.queue.length)
    ∧ (∃ t : Nat, ∃ s : State, ∃ v : State, advance s t = v ∧ v.husk.powerFail ≠ none) :=
  ⟨⟨0, W, _, rfl, by decide +kernel⟩,
   ⟨0, withSafety (fun f => { f with shellFault := true }), _, rfl, by decide +kernel⟩,
   ⟨0, W, _, rfl, by decide +kernel⟩,
   ⟨0, withPower (fun p => { p with state := 1 }), _, rfl, by decide +kernel⟩,
   ⟨0, W, _, rfl, by decide +kernel⟩,
   ⟨0, withPower (fun p => { p with state := 1, mainPwrEn := false }), _, rfl, by decide +kernel, by decide +kernel⟩,
   ⟨0, { W with power := { W.power with mainPwrEn := false }, safety := { W.safety with shellFault := true } }, _, _, rfl, by decide +kernel, by decide +kernel, by decide +kernel, rfl⟩,
   ⟨0, withHusk (fun h => { h with powerFail := some 0 }), _, rfl, by decide +kernel⟩⟩

theorem witness_BootSuppliesJtagAndResets :
    (∃ t : Nat, ∃ s : State, ∃ v : State, advance s t = v ∧ v.safety.stoHeld = true ∧ v.servo.channels.all (fun c => c.st == .disabled || c.st == .stop) = true)
    ∧ (∃ t : Nat, ∃ s : State, ∃ v : State, advance s t = v ∧ v.safety.stoHeld = false)
    ∧ (∃ t : Nat, ∃ s : State, ∃ v : State, advance s t = v ∧ v.power.mainPwrEn = true)
    ∧ (∃ t : Nat, ∃ s : State, ∃ v : State, advance s t = v ∧ v.power.mainPwrEn = true ∧ v.power.mainValid = false)
    ∧ (∃ t : Nat, ∃ s : State, ∃ v : State, advance s t = v ∧ v.hif.shellOnly = false)
    ∧ (∃ t : Nat, ∃ s : State, ∃ v : State, advance s t = v ∧ v.ports.jtag = true ∧ v.safety.brakeDelay = .idle)
    ∧ (∃ t : Nat, ∃ f : Nat, ∃ s : State, ∃ v : State, advance s t = v ∧ f ≠ 0)
    ∧ (∃ t : Nat, ∃ s : State, ∃ v : State, advance s t = v ∧ v.cmds.sessions = [])
    ∧ (∃ t : Nat, ∃ s : State, ∃ v : State, ∃ u : State, advance s t = v ∧ u = (List.range 64).foldl resetFunction v)
    ∧ ((∃ t : Nat, ∃ i : BitVec 8, ∃ s : State, ∃ v : State, advance s t = v ∧ Config.jtagQuiet i = false ∧ v.ports.jtag = false) ∨ (∃ t : Nat, ∃ i : BitVec 8, ∃ s : State, ∃ v : State, advance s t = v ∧ Config.jtagQuiet i = true)) :=
  ⟨⟨0, W, _, rfl, by decide +kernel, by decide +kernel⟩,
   ⟨0, withSafety (fun f => { f with stoHeld := false }), _, rfl, by decide +kernel⟩,
   ⟨0, W, _, rfl, by decide +kernel⟩,
   ⟨0, withPower (fun p => { p with mainValid := false }), _, rfl, by decide +kernel, by decide +kernel⟩,
   ⟨0, W, _, rfl, by decide +kernel⟩,
   ⟨0, { W with ports := { W.ports with jtag := true } }, _, rfl, by decide +kernel, by decide +kernel⟩,
   ⟨0, 63, W, _, rfl, by decide +kernel⟩,
   ⟨0, { W with cmds := { W.cmds with sessions := [] } }, _, rfl, by decide +kernel⟩,
   ⟨0, W, _, _, rfl, rfl⟩,
   match h : Config.jtagQuiet 0 with | true => Or.inr ⟨0, 0, W, _, rfl, h⟩ | false => Or.inl ⟨0, 0, W, _, rfl, h, by decide +kernel⟩⟩

theorem witness_HuskKeepsRecords :
    (∃ t : Nat, ∃ s : State, ∃ v : State, ∃ r : HuskReq, ∃ rest : List HuskReq, ∃ u : State, advance s t = v ∧ (v.husk.queue = r :: rest) ∧ v.husk.powerFail ≠ some 0 ∧ u = { v with husk := { v.husk with mram := v.husk.mram.filter (fun x => x.1 != v.husk.next.toNat % 65536) ++ [(v.husk.next.toNat % 65536, huskRecord v.husk r)], newest := v.husk.next, next := v.husk.next + 1, queue := rest, lostBefore := 0, powerFail := v.husk.powerFail.map (fun n => n - 1), mirrorNext := if protMirrorMib v = 0 then v.husk.next + 1 else v.husk.mirrorNext, uncopied := if protMirrorMib v = 0 then [] else v.husk.uncopied ++ [v.phase.gtc] } })
    ∧ (∃ t : Nat, ∃ s : State, ∃ v : State, advance s t = v ∧ v.husk.queue = [])
    ∧ (∃ t : Nat, ∃ s : State, ∃ v : State, advance s t = v ∧ v.husk.powerFail = some 0)
    ∧ (∃ t : Nat, ∃ s : State, ∃ v : State, ∃ n : Nat, ∃ b : Bytes, advance s t = v ∧ n = protMirrorMib v * 16384 ∧ n ≠ 0 ∧ v.husk.powerFail = none ∧ v.husk.mirrorNext ≠ v.husk.next ∧ findRecord v v.husk.mirrorNext = some b)
    ∧ (∃ t : Nat, ∃ c : Cmd, ∃ first : Word, ∃ n : BitVec 17, ∃ w : Word, ∃ off : DWord, ∃ s : State, ∃ v : State, ∃ u : State, began s t c = v ∧ okHuskRead n = true ∧ writeWindow v c w off.toNat ((List.range n.toNat).flatMap (fun i => huskSeqBytes v (first + BitVec.ofNat 32 i))) = .ok u)
    ∧ (∃ t : Nat, ∃ c : Cmd, ∃ w : Word, ∃ off : DWord, ∃ s : State, ∃ v : State, ∃ u : State, began s t c = v ∧ fnOf v c = 0 ∧ writeWindow v c w off.toNat (protImage v) = .ok u)
    ∧ (∃ t : Nat, ∃ c : Cmd, ∃ s : State, ∃ v : State, began s t c = v ∧ fnOf v c ≠ 0) :=
  ⟨⟨0, withHusk (fun h => { h with queue := [{ typ := 1, source := 0, stamp := 0, payload := [] }] }), _, _, _, _, rfl, rfl, by decide +kernel, rfl⟩,
   ⟨0, W, _, rfl, by decide +kernel⟩,
   ⟨0, withHusk (fun h => { h with powerFail := some 0 }), _, rfl, by decide +kernel⟩,
   ⟨0, withHusk (fun h => { h with mram := [(0, [0, 0, 0, 0])], next := 1 }), _, _, _, rfl, rfl, by decide +kernel, by decide +kernel, by decide +kernel, rfl⟩,
   ⟨0, cF, 0, 1, 1, 0, W, _, _, rfl, by decide +kernel, ok_eq (by decide +kernel)⟩,
   ⟨0, cF, 1, 0, W, _, _, rfl, by decide +kernel, ok_eq (by decide +kernel)⟩,
   ⟨0, cQ, { W with cmds := { W.cmds with sqs := [{ queue4 with fn := 1 }], sessions := [{ session1 with fn := 1 }] } }, _, rfl, by decide +kernel⟩⟩

theorem witness_UpdatesComplete :
    (Config.ecdsaVerify (biPublic fwImg) (fwImg.take 168) (biSignature fwImg) = true → ∃ t : Nat, ∃ c : Cmd, ∃ w : Word, ∃ off : DWord, ∃ len : Word, ∃ s : State, ∃ v : State, ∃ u : State, ∃ b : Bytes, began s t c = v ∧ fnUpdate v (fnOf v c) = true ∧ u = deferCmd v c ∧ readWindow u c w off.toNat len.toNat = .ok b ∧ imageAccepted u 3 b = true ∧ u.boot.swap = none ∧ u.boot.takeover = none)
    ∧ (Config.ecdsaVerify (biPublic shellImg) (shellImg.take 168) (biSignature shellImg) = true → ∃ t : Nat, ∃ c : Cmd, ∃ w : Word, ∃ off : DWord, ∃ len : Word, ∃ s : State, ∃ v : State, ∃ u : State, ∃ b : Bytes, began s t c = v ∧ fnUpdate v (fnOf v c) = true ∧ u = deferCmd v c ∧ readWindow u c w off.toNat len.toNat = .ok b ∧ biKind b ≠ 4 ∧ imageAccepted u 2 b = true ∧ u.boot.shellSwap = none ∧ u.boot.reboot = none)
    ∧ (∃ t : Nat, ∃ c : Cmd, ∃ s : State, ∃ v : State, began s t c = v ∧ fnUpdate v (fnOf v c) = false)
    ∧ (∃ t : Nat, ∃ s : State, ∃ v : State, ∃ w : FlashWrite, ∃ rest : List FlashWrite, ∃ u : State, advance s t = v ∧ (v.boot.writes = w :: rest) ∧ w.kind = 3 ∧ u = setImage { v with boot := { v.boot with writes := rest } } 3 w.slotB w.image)
    ∧ (Config.ecdsaVerify (biPublic fwImg) (fwImg.take 168) (biSignature fwImg) = true → ∃ t : Nat, ∃ c : Cmd, ∃ s : State, ∃ v : State, ∃ u : State, began s t c = v ∧ fnUpdate v (fnOf v c) = true ∧ u = deferCmd v c ∧ u.boot.swap = none ∧ u.boot.takeover = none ∧ imageAccepted u 3 (bootSlot u 3 (!u.boot.flash.selMain)) = true)
    ∧ (Config.ecdsaVerify (biPublic shellImg) (shellImg.take 168) (biSignature shellImg) = true → ∃ t : Nat, ∃ c : Cmd, ∃ s : State, ∃ v : State, ∃ u : State, began s t c = v ∧ fnUpdate v (fnOf v c) = true ∧ u = deferCmd v c ∧ u.boot.shellSwap = none ∧ u.boot.reboot = none ∧ shellSwapOk u = true)
    ∧ (∃ t : Nat, ∃ s : State, ∃ v : State, ∃ x : Takeover, ∃ u : State, advance s t = v ∧ v.boot.takeover = some x ∧ x.at_ + 10000000 ≤ v.phase.gtc ∧ v.phase.gtc < v.safety.heartbeat + protHeartbeat v ∧ u = setSelector { v with boot := { v.boot with takeover := none }, hif := { v.hif with swapInProgress := false } } 3 v.hif.fwSlotB) :=
  ⟨fun hv => ⟨0, cF, 1, 0, 512, keyed (holding W 0x20000 fwImg), _, _, fwImg, rfl, by decide +kernel, rfl, ok_bytes (by decide +kernel), accepted_eq (by decide +kernel) hv (by decide +kernel), by decide +kernel, by decide +kernel⟩,
   fun hv => ⟨0, cF, 1, 0, 512, keyed (holding W 0x20000 shellImg), _, _, shellImg, rfl, by decide +kernel, rfl, ok_bytes (by decide +kernel), by decide +kernel, accepted_eq (by decide +kernel) hv (by decide +kernel), by decide +kernel, by decide +kernel⟩,
   ⟨0, cQ, { W with cmds := { W.cmds with sqs := [{ queue4 with fn := 1 }], sessions := [{ session1 with fn := 1 }] } }, _, rfl, by decide +kernel⟩,
   ⟨0, withBoot (fun b => { b with writes := [{ cmd := cF, kind := 3, slotB := true, image := fwImg }] }), _, _, _, _, rfl, rfl, by decide +kernel, rfl⟩,
   fun hv => ⟨0, cF, keyed (withBoot (fun b => { b with flash := { b.flash with mainB := fwImg } })), _, _, rfl, by decide +kernel, rfl, by decide +kernel, by decide +kernel, accepted_eq (by decide +kernel) hv (by decide +kernel)⟩,
   fun hv => ⟨0, cF, keyed (withBoot (fun b => { b with flash := { b.flash with shellB := shellImg } })), _, _, rfl, by decide +kernel, rfl, by decide +kernel, by decide +kernel, shellSwap_eq (accepted_eq (by decide +kernel) hv (by decide +kernel)) (by decide +kernel)⟩,
   ⟨10000000, { W with safety := { W.safety with heartbeat := 9900000 }, boot := { W.boot with takeover := some { cmd := cF, at_ := 0 } } }, _, _, _, rfl, rfl, by decide +kernel, by decide +kernel, rfl⟩⟩

theorem witness_SparesTrainingAndMemory :
    (∃ t : Nat, ∃ c : Cmd, ∃ n : BitVec 5, ∃ s : State, ∃ v : State, ∃ u : State, ∃ l : Nat, ∃ p : Nat, began s t c = v ∧ okRemap n = true ∧ fnUpdate v (fnOf v c) = true ∧ u = deferCmd v c ∧ logicalOf u n.toNat = some l ∧ spareSector u ≠ none ∧ partOfLogical u l = some p)
    ∧ (∃ t : Nat, ∃ c : Cmd, ∃ e : BitVec 4, ∃ s : State, ∃ v : State, ∃ u : State, ∃ k : Nat, ∃ sp : Nat, began s t c = v ∧ okEngine e = true ∧ fnUpdate v (fnOf v c) = true ∧ u = deferCmd v c ∧ k = namedEngine u c e ∧ spareEngine u = some sp ∧ (getEngine u k).mode = .active)
    ∧ (∃ t : Nat, ∃ c : Cmd, ∃ p : BitVec 2, ∃ r : Bool, ∃ s : State, ∃ v : State, ∃ u : State, ∃ y : State, began s t c = v ∧ fnUpdate v (fnOf v c) = true ∧ u = deferCmd v c ∧ u.servo.drain = none ∧ (getPair u p.toNat).retired = false ∧ y = { u with servo := { u.servo with drain := some { cmd := c, pair := p.toNat, retire := r, moved := 0 } } } ∧ moveAll y p.toNat ≠ none ∧ pairChannels y p.toNat ≠ [])
    ∧ (∃ t : Nat, ∃ p : Nat, ∃ s : State, ∃ v : State, advance s t = v ∧ (getPair v p).testing = true)
    ∧ (∃ t : Nat, ∃ c : Cmd, ∃ s : State, ∃ v : State, began s t c = v ∧ fnUpdate v (fnOf v c) = true)
    ∧ (∃ t : Nat, ∃ c : Cmd, ∃ m : Word, ∃ s : State, ∃ v : State, ∃ u : State, ∃ n : Nat, ∃ left : List Nat, began s t c = v ∧ fnUpdate v (fnOf v c) = true ∧ u = deferCmd v c ∧ u.ports.retrain = none ∧ ((List.range 32).filter (fun n => wbit m n) = n :: left))
    ∧ (∃ t : Nat, ∃ n : Nat, ∃ s : State, ∃ v : State, ∃ u : State, advance s t = v ∧ v.ports.retrain = none ∧ u = modLpddr v n (fun x => { x with refreshes := x.refreshes + 1 }))
    ∧ (∃ t : Nat, ∃ n : Nat, ∃ s : State, ∃ v : State, ∃ u : State, ∃ c : Cmd, ∃ k : Nat, ∃ left : List Nat, ∃ m : Nat, advance s t = v ∧ u = modLpddr v n (fun x => { x with refreshes := x.refreshes + 1 }) ∧ (v.ports.retrain = some (c, k, n :: left)) ∧ (u.ports.lpddr.getD n LpddrChannel.reset).retraining = some (m + 2))
    ∧ (∃ t : Nat, ∃ n : Nat, ∃ s : State, ∃ v : State, advance s t = v ∧ n < 16 ∧ v.power.fenced.getD n false = false ∧ 4 ≤ v.power.sliceErrors.getD n 0)
    ∧ (∃ t : Nat, ∃ n : Nat, ∃ s : State, ∃ v : State, advance s t = v ∧ n < 16 ∧ v.power.fenced.getD n false = false ∧ v.power.sliceErrors.getD n 0 < 4)
    ∧ (∃ t : Nat, ∃ n : Nat, ∃ s : State, ∃ v : State, advance s t = v ∧ v.power.fenced.getD n false = true)
    ∧ (∃ t : Nat, ∃ a : Nat, ∃ s : State, ∃ v : State, ∃ u : State, advance s t = v ∧ a < hostBase ∧ ((a < 16 * sliceBytes ∨ lpddrBase ≤ a)) ∧ u = (if burstRange v a 1 then { v with ports := { v.ports with lpddr := v.ports.lpddr.modify (Config.lpddrChannel a % 32) (fun x => { x with rereads := satInc (satInc x.rereads) }) } } else v)) :=
  ⟨⟨0, cF, 0, W, _, _, _, _, rfl, by decide +kernel, by decide +kernel, rfl, rfl, by decide +kernel, rfl⟩,
   ⟨0, cF, 0, W, _, _, _, _, rfl, by decide +kernel, by decide +kernel, rfl, rfl, rfl, by decide +kernel⟩,
   ⟨0, cF, 0, true, WC (withNet net8 [chanIn .tracking 0]), _, _, _, rfl, by decide +kernel, rfl, by decide +kernel, by decide +kernel, rfl, by decide +kernel, by decide +kernel⟩,
   ⟨0, 0, { W with servo := { W.servo with pairs := List.replicate 4 { retired := true, testing := true } } }, _, rfl, by decide +kernel⟩,
   ⟨0, cF, W, _, rfl, by decide +kernel⟩,
   ⟨0, cF, 0x6, W, _, _, 1, [2], rfl, by decide +kernel, rfl, by decide +kernel, by decide +kernel⟩,
   ⟨0, 31, W, _, _, rfl, by decide +kernel, rfl⟩,
   ⟨0, 5, { W with ports := { W.ports with retrain := some (cF, 1, [5]), lpddr := List.replicate 32 { LpddrChannel.reset with retraining := some 2 } } }, _, _, _, _, _, 0, rfl, rfl, rfl, by decide +kernel⟩,
   ⟨0, 15, withPower (fun p => { p with sliceErrors := List.replicate 16 4 }), _, rfl, by decide +kernel, by decide +kernel, by decide +kernel⟩,
   ⟨0, 15, withPower (fun p => { p with sliceErrors := List.replicate 16 3 }), _, rfl, by decide +kernel, by decide +kernel, by decide +kernel⟩,
   ⟨0, 0, withPower (fun p => { p with fenced := List.replicate 16 true }), _, rfl, by decide +kernel⟩,
   ⟨0, lpddrBase, W, _, _, rfl, by decide +kernel, by decide +kernel, rfl⟩⟩

theorem witness_ImprintsComplete :
    (∃ t : Nat, ∃ c : Cmd, ∃ q : BitVec 18, ∃ w : Word, ∃ off : DWord, ∃ n : BitVec 16, ∃ s : State, ∃ v : State, ∃ x : SubQueue, ∃ k : Nat, began s t c = v ∧ n ≠ 0 ∧ findSq v q.toNat = some x ∧ ownsObject v c x.session x.fn = true ∧ windowKey v c w off.toNat (96 * n.toNat) true = .ok k)
    ∧ (∃ t : Nat, ∃ c : Cmd, ∃ q : BitVec 18, ∃ s : State, ∃ v : State, ∃ x : SubQueue, began s t c = v ∧ findSq v q.toNat = some x ∧ ownsObject v c x.session x.fn = true)
    ∧ (∃ t : Nat, ∃ c : Cmd, ∃ a : DWord, ∃ s : State, ∃ v : State, ∃ x : Allocation, ∃ id : Word, ∃ u : State, began s t c = v ∧ v.cmds.allocs.find? (fun y => y.addr == a.toNat) = some x ∧ x.session = some id ∧ ownsObject v c id x.fn = true ∧ x.cls = 1 ∧ u = deferCmd v c)
    ∧ (∃ t : Nat, ∃ c : Cmd, ∃ w : Word, ∃ oa : DWord, ∃ ob : DWord, ∃ s : State, ∃ v : State, ∃ a : Bytes, ∃ b : Bytes, began s t c = v ∧ readWindow v c w oa.toNat 96 = .ok a ∧ readWindow v c w ob.toNat 96 = .ok b)
    ∧ (∃ t : Nat, ∃ c : Cmd, ∃ e : BitVec 4, ∃ n : BitVec 3, ∃ w : Word, ∃ off : DWord, ∃ s : State, ∃ v : State, ∃ k : Nat, ∃ x : Slot, ∃ i : Image, ∃ u : State, began s t c = v ∧ e.toNat ≤ 8 ∧ stateSlot v c e n = some (k, x, i) ∧ writeWindow v c w off.toNat (leBytes 4 i.version.toNat ++ leBytes 4 (imPersistent i.bytes) ++ List.replicate 8 0 ++ persistentBytes i.bytes x.items x.persistent x.seeds) = .ok u)
    ∧ (∃ t : Nat, ∃ c : Cmd, ∃ e : BitVec 4, ∃ n : BitVec 3, ∃ w : Word, ∃ off : DWord, ∃ s : State, ∃ v : State, ∃ k : Nat, ∃ x : Slot, ∃ i : Image, ∃ h, ∃ b : Bytes, began s t c = v ∧ e.toNat ≤ 8 ∧ stateSlot v c e n = some (k, x, i) ∧ engineHard v k = false ∧ readWindow v c w off.toNat 16 = .ok h ∧ fld (wordAt h 0) 31 16 = 0 ∧ fld (wordAt h 0) 15 0 = i.version.toNat ∧ (wordAt h 1).toNat = imPersistent i.bytes ∧ wordAt h 2 = 0 ∧ wordAt h 3 = 0 ∧ readWindow v c w off.toNat (16 + imPersistent i.bytes) = .ok b)
    ∧ (∃ t : Nat, ∃ s : State, ∃ v : State, ∃ session : Word, ∃ k : List (Nat × Nat), ∃ n : Nat, ∃ rest : List HashJob, advance s t = v ∧ (v.imprints.queue = .inputs session k n :: rest))
    ∧ (∃ t : Nat, ∃ s : State, ∃ v : State, ∃ c : Cmd, ∃ a : Nat, ∃ x : Allocation, ∃ rest : List HashJob, ∃ u : State, advance s t = v ∧ (v.imprints.queue = .weight c a :: rest) ∧ u = chargeHash { v with imprints := { v.imprints with queue := rest } } (x.session.getD 0) x.bytes ∧ v.cmds.allocs.find? (fun y => y.addr == a) = some x ∧ accessStatus v x.addr x.bytes false = none)
    ∧ (∃ t : Nat, ∃ s : State, ∃ v : State, ∃ x : ImprintJob, ∃ session : Word, ∃ n : Nat, ∃ rest : List HashJob, ∃ u : State, advance s t = v ∧ (v.imprints.queue = .imprint x session n :: rest) ∧ u = chargeHash (writeImprint { v with imprints := { v.imprints with queue := rest } } x) session n) :=
  ⟨⟨0, cQ, 4, 1, 0, 1, W, _, _, _, rfl, by decide +kernel, rfl, by decide +kernel, rfl⟩,
   ⟨0, cQ, 4, W, _, _, rfl, rfl, by decide +kernel⟩,
   ⟨0, cQ, 0x20000, W, _, _, _, _, rfl, rfl, rfl, by decide +kernel, by decide +kernel, rfl⟩,
   ⟨0, cF, 1, 0, 96, W, _, _, _, rfl, rfl, rfl⟩,
   ⟨0, cF, 0, 0, 1, 0, withSlot { Slot.empty with active := some lsq0 } (Engine.reset .active), _, _, _, _, _, rfl, by decide +kernel, rfl, ok_eq (by decide +kernel)⟩,
   ⟨0, cF, 0, 0, 1, 0, { withSlot { Slot.empty with active := some lsq0 } (Engine.reset .active) with mem := (holding W 0x20000 [1]).mem }, _, _, _, _, _, _, rfl, by decide +kernel, rfl, by decide +kernel, rfl, by decide +kernel, by decide +kernel, by decide +kernel, by decide +kernel, by decide +kernel, rfl⟩,
   ⟨0, { W with imprints := { W.imprints with queue := [.inputs 1 [] 64] } }, _, _, _, _, _, rfl, rfl⟩,
   ⟨0, { W with imprints := { W.imprints with queue := [.weight cQ 0x20000] } }, _, _, _, _, _, _, rfl, rfl, rfl, rfl, by decide +kernel⟩,
   ⟨0, { W with imprints := { W.imprints with queue := [.imprint { sq := 4, owner := cQ.key, body := List.replicate 88 0, tag := none, held := none } 1 64] } }, _, _, _, _, _, _, rfl, rfl, rfl⟩⟩

theorem witness_PeerCommandsComplete :
    (∃ t : Nat, ∃ c : Cmd, ∃ w : Word, ∃ off : DWord, ∃ len : DWord, ∃ wr : Bool, ∃ s : State, ∃ v : State, ∃ k : Nat, ∃ x : Window, ∃ id : Nat, began s t c = v ∧ windowKey v c w off.toNat len.toNat wr = .ok k ∧ findWindow v w = some x ∧ x.host = false ∧ pickFree 1 65535 (Config.handOut v.free) (v.ports.peer.windows.map (·.id)) = some id)
    ∧ (∃ t : Nat, ∃ c : Cmd, ∃ w : BitVec 16, ∃ s : State, ∃ v : State, ∃ x : PeerWindow, began s t c = v ∧ v.ports.peer.windows.find? (fun y => y.id == w.toNat) = some x ∧ ownsObject v c x.session (match findSession v x.session with | some y => y.fn | none => 0) = true)
    ∧ (∃ t : Nat, ∃ c : Cmd, ∃ d : BitVec 2, ∃ w : Word, ∃ lo : DWord, ∃ len : DWord, ∃ s : State, ∃ v : State, ∃ k : Nat, ∃ x : PeerTransfer, ∃ u : State, began s t c = v ∧ d.toNat ≠ ownNumber v ∧ windowKey v c w lo.toNat len.toNat false = .ok k ∧ sliceServes v (partOf v c) k len.toNat = true ∧ accessStatus v k len.toNat false = none ∧ len ≠ 0 ∧ (x = ({ cmd := c, write := true, window := w.toNat, local_ := k, length := len.toNat, id := v.ports.peer.nextTransfer, outcomes := [] } : PeerTransfer)) ∧ u = { v with ports := { v.ports with peer := { v.ports.peer with transfers := v.ports.peer.transfers ++ [x], nextTransfer := v.ports.peer.nextTransfer + 1 } } })
    ∧ (∃ t : Nat, ∃ c : Cmd, ∃ d : BitVec 2, ∃ w : Word, ∃ lo : DWord, ∃ len : DWord, ∃ s : State, ∃ v : State, ∃ k : Nat, ∃ x : PeerTransfer, ∃ u : State, began s t c = v ∧ d.toNat ≠ ownNumber v ∧ windowKey v c w lo.toNat len.toNat true = .ok k ∧ sliceServes v (partOf v c) k len.toNat = true ∧ accessStatus v k len.toNat true = none ∧ len ≠ 0 ∧ (x = ({ cmd := c, write := false, window := w.toNat, local_ := k, length := len.toNat, id := v.ports.peer.nextTransfer, outcomes := [] } : PeerTransfer)) ∧ u = { v with ports := { v.ports with peer := { v.ports.peer with transfers := v.ports.peer.transfers ++ [x], nextTransfer := v.ports.peer.nextTransfer + 1 } } })
    ∧ (∃ t : Nat, ∃ c : Cmd, ∃ d : BitVec 2, ∃ w : Word, ∃ lo : DWord, ∃ s : State, ∃ v : State, ∃ k : Nat, began s t c = v ∧ d.toNat ≠ ownNumber v ∧ windowKey v c w lo.toNat 0 false = .ok k ∧ sliceServes v (partOf v c) k 0 = true ∧ accessStatus v k 0 false = none) :=
  ⟨⟨0, cQ, 1, 0, 0x1000, true, W, _, _, _, _, rfl, rfl, rfl, by decide +kernel, Laws.pickFree_nil (by decide +kernel)⟩,
   ⟨0, cQ, 3, withPeer (fun p => { p with windows := [peerWindow3] }), _, _, rfl, rfl, by decide +kernel⟩,
   ⟨0, cQ, 1, 1, 0, 64, W, _, _, _, _, rfl, by decide +kernel, rfl, by decide +kernel, by decide +kernel, by decide +kernel, rfl, rfl⟩,
   ⟨0, cQ, 1, 1, 0, 64, W, _, _, _, _, rfl, by decide +kernel, rfl, by decide +kernel, by decide +kernel, by decide +kernel, rfl, rfl⟩,
   ⟨0, cQ, 1, 1, 0, W, _, _, rfl, by decide +kernel, rfl, by decide +kernel, by decide +kernel⟩⟩

theorem witness_PeerMessagesAct :
    (∃ t : Nat, ∃ p : Nat, ∃ h : List Word, ∃ b : Bytes, ∃ s : State, ∃ u : State, ∃ v : State, ∃ k : Nat, advance s t = u ∧ mainRuns u = true ∧ intact h b = true ∧ pmType h = 1 ∧ senderHeard (flitHeard u p) p h = v ∧ pmDst h = ownNumber u ∧ keptStatus v (pmSrc h) (pmSeq h) = none ∧ peerRange v t (pmSrc h) (pmWindow h) (pmOffset h) b.length true = .ok k)
    ∧ (∃ t : Nat, ∃ p : Nat, ∃ h : List Word, ∃ b : Bytes, ∃ s : State, ∃ u : State, ∃ v : State, ∃ st : Status, advance s t = u ∧ mainRuns u = true ∧ intact h b = true ∧ pmType h = 1 ∧ senderHeard (flitHeard u p) p h = v ∧ pmDst h = ownNumber u ∧ keptStatus v (pmSrc h) (pmSeq h) = some st)
    ∧ (∃ t : Nat, ∃ p : Nat, ∃ h : List Word, ∃ s : State, ∃ u : State, ∃ v : State, ∃ x : PeerTransfer, ∃ m : PeerMessage, advance s t = u ∧ mainRuns u = true ∧ intact h [] = true ∧ pmType h = 2 ∧ senderHeard (flitHeard u p) p h = v ∧ pmDst h = ownNumber u ∧ awaited v h true = some (x, m))
    ∧ (∃ t : Nat, ∃ p : Nat, ∃ h : List Word, ∃ b : Bytes, ∃ s : State, ∃ u : State, ∃ v : State, ∃ k : Nat, advance s t = u ∧ mainRuns u = true ∧ intact h b = true ∧ pmType h = 3 ∧ senderHeard (flitHeard u p) p h = v ∧ pmDst h = ownNumber u ∧ keptStatus v (pmSrc h) (pmSeq h) = none ∧ numAt b 0 4 ≤ 4096 ∧ peerRange v t (pmSrc h) (pmWindow h) (pmOffset h) (numAt b 0 4) false = .ok k)
    ∧ (∃ t : Nat, ∃ p : Nat, ∃ h : List Word, ∃ b : Bytes, ∃ s : State, ∃ u : State, ∃ v : State, ∃ x : PeerTransfer, ∃ m : PeerMessage, advance s t = u ∧ mainRuns u = true ∧ intact h b = true ∧ pmType h = 4 ∧ senderHeard (flitHeard u p) p h = v ∧ pmDst h = ownNumber u ∧ awaited v h false = some (x, m) ∧ pmStatus h = stOK ∧ b.length = m.length ∧ v.cmds.windows.any (fun w => w.id == x.window) = true ∧ accessStatus v (x.local_ + m.offset) m.length true = none)
    ∧ (∃ t : Nat, ∃ h : List Word, ∃ s : State, ∃ u : State, advance s t = u ∧ mainRuns u = true ∧ intact h [] = true ∧ pmType h = 7)
    ∧ (∃ t : Nat, ∃ h : List Word, ∃ b : Bytes, ∃ s : State, ∃ u : State, advance s t = u ∧ mainRuns u = true ∧ intact h b = true ∧ pmType h = 8)
    ∧ (∃ t : Nat, ∃ p : Nat, ∃ h : List Word, ∃ b : Bytes, ∃ s : State, ∃ u : State, ∃ v : State, advance s t = u ∧ mainRuns u = true ∧ intact h b = true ∧ 1 ≤ pmType h ∧ pmType h ≤ 8 ∧ senderHeard (flitHeard u p) p h = v ∧ pmDst h ≠ ownNumber u)
    ∧ (∃ t : Nat, ∃ h : List Word, ∃ b : Bytes, ∃ s : State, ∃ u : State, advance s t = u ∧ mainRuns u = true ∧ intact h b = false)
    ∧ (∃ t : Nat, ∃ s : State, ∃ u : State, advance s t = u ∧ mainRuns u = false) :=
  ⟨⟨0, 0, makeHeader 1 0 { type := 1, dst := 0, window := 3, payload := [1, 2] }, [1, 2], withPeer (fun p => { p with windows := [peerWindow3] }), _, _, _, rfl, by decide +kernel, by decide +kernel, by decide +kernel, rfl, by decide +kernel, by decide +kernel, rfl⟩,
   ⟨0, 0, makeHeader 1 0 { type := 1, dst := 0, window := 3, payload := [1, 2] }, [1, 2], withPeer (fun p => { p with kept := [[], [(0, 0)], [], []] }), _, _, _, rfl, by decide +kernel, by decide +kernel, by decide +kernel, rfl, by decide +kernel, rfl⟩,
   ⟨0, 0, makeHeader 1 0 { type := 2, dst := 0, transfer := 2 }, withPeer (fun p => { p with transfers := [transfer2 true], messages := [message1 0] }), _, _, _, _, rfl, by decide +kernel, by decide +kernel, by decide +kernel, rfl, by decide +kernel, rfl⟩,
   ⟨0, 0, makeHeader 1 0 { type := 3, dst := 0, window := 3, payload := [64, 0, 0, 0] }, [64, 0, 0, 0], withPeer (fun p => { p with windows := [peerWindow3] }), _, _, _, rfl, by decide +kernel, by decide +kernel, by decide +kernel, rfl, by decide +kernel, by decide +kernel, by decide +kernel, rfl⟩,
   ⟨0, 0, makeHeader 1 0 { type := 4, dst := 0, transfer := 2, payload := [1, 2, 3, 4] }, [1, 2, 3, 4], withPeer (fun p => { p with transfers := [transfer2 false], messages := [message1 0] }), _, _, _, _, rfl, by decide +kernel, by decide +kernel, by decide +kernel, rfl, by decide +kernel, rfl, by decide +kernel, by decide +kernel, by decide +kernel, by decide +kernel⟩,
   ⟨0, makeHeader 1 0 { type := 7, dst := 0 }, W, _, rfl, by decide +kernel, by decide +kernel, by decide +kernel⟩,
   ⟨0, makeHeader 1 0 { type := 8, dst := 0, payload := [1] }, [1], W, _, rfl, by decide +kernel, by decide +kernel, by decide +kernel⟩,
   ⟨0, 0, makeHeader 1 0 { type := 1, dst := 2 }, [], W, _, _, rfl, by decide +kernel, by decide +kernel, by decide +kernel, by decide +kernel, rfl, by decide +kernel⟩,
   ⟨0, makeHeader 1 0 { type := 1, dst := 0 }, [1], W, _, rfl, by decide +kernel, by decide +kernel⟩,
   ⟨0, withPower (fun p => { p with state := 1 }), _, rfl, by decide +kernel⟩⟩

theorem witness_PeerTimersAct :
    (∃ t : Nat, ∃ p : Nat, ∃ s : State, ∃ v : State, ∃ h : List Word, ∃ y : State, advance s t = v ∧ mainRuns v = true ∧ (getPort v p).lastSent + 10000 ≤ v.phase.gtc ∧ nextHeader v { type := 7, dst := portDevice v p } = (h, y))
    ∧ (∃ t : Nat, ∃ p : Nat, ∃ s : State, ∃ v : State, advance s t = v ∧ v.phase.gtc < (getPort v p).lastSent + 10000)
    ∧ (∃ t : Nat, ∃ p : Nat, ∃ s : State, ∃ v : State, ∃ u : State, advance s t = v ∧ (getPort v p).up = true ∧ (getPort v p).lastFlit + 100000 ≤ v.phase.gtc ∧ u = modPort { v with sync := { v.sync with request := none } } p (fun x => { x with up := false }) ∧ (getPort u (1 - p)).up = true)
    ∧ (∃ t : Nat, ∃ p : Nat, ∃ s : State, ∃ v : State, ∃ u : State, advance s t = v ∧ (getPort v p).up = true ∧ (getPort v p).lastFlit + 100000 ≤ v.phase.gtc ∧ u = modPort { v with sync := { v.sync with request := none } } p (fun x => { x with up := false }) ∧ (getPort u (1 - p)).up = false)
    ∧ (∃ t : Nat, ∃ d : Nat, ∃ q : Word, ∃ s : State, ∃ v : State, ∃ m : PeerMessage, ∃ u : State, advance s t = v ∧ v.ports.peer.messages.find? (fun m => m.device == d && m.seq == q) = some m ∧ m.resends < 3 ∧ u = modPeer v (fun x => { x with messages := x.messages.map (fun y => if y.device == d && y.seq == q then { y with resends := y.resends + 1 } else y) }))
    ∧ (∃ t : Nat, ∃ d : Nat, ∃ q : Word, ∃ s : State, ∃ v : State, ∃ m : PeerMessage, ∃ x : PeerTransfer, advance s t = v ∧ v.ports.peer.messages.find? (fun m => m.device == d && m.seq == q) = some m ∧ 3 ≤ m.resends ∧ v.ports.peer.lost.contains m.device = true ∧ v.ports.peer.transfers.find? (fun x => x.id == m.transfer) = some x) :=
  ⟨⟨10000, 0, W, _, _, _, rfl, by decide +kernel, by decide +kernel, rfl⟩,
   ⟨9999, 0, W, _, rfl, by decide +kernel⟩,
   ⟨100000, 0, withPeer (fun p => { p with ports := [{ PeerPort.reset with up := true }, { PeerPort.reset with up := true }] }), _, _, rfl, by decide +kernel, by decide +kernel, rfl, by decide +kernel⟩,
   ⟨100000, 0, withPeer (fun p => { p with ports := [{ PeerPort.reset with up := true }, PeerPort.reset] }), _, _, rfl, by decide +kernel, by decide +kernel, rfl, by decide +kernel⟩,
   ⟨0, 1, 0, withPeer (fun p => { p with transfers := [transfer2 true], messages := [message1 2] }), _, _, _, rfl, rfl, by decide +kernel, rfl⟩,
   ⟨0, 1, 0, withPeer (fun p => { p with transfers := [transfer2 true], messages := [message1 3], lost := [1] }), _, _, _, rfl, rfl, by decide +kernel, by decide +kernel, rfl⟩⟩

theorem witness_CrossDeviceTime :
    (∃ t : Nat, ∃ s : State, ∃ v : State, advance s t = v ∧ mainRuns v = true ∧ v.sync.role = 2)
    ∧ (∃ t : Nat, ∃ p : Nat, ∃ h : List Word, ∃ b : Bytes, ∃ s : State, ∃ u : State, ∃ v : State, advance s t = u ∧ mainRuns u = true ∧ intact h b = true ∧ pmType h = 5 ∧ senderHeard (flitHeard u p) p h = v ∧ pmDst h = ownNumber u ∧ v.sync.role = 1)
    ∧ (∃ t : Nat, ∃ p : Nat, ∃ h : List Word, ∃ b : Bytes, ∃ s : State, ∃ u : State, ∃ v : State, ∃ r : Nat × Nat, advance s t = u ∧ mainRuns u = true ∧ intact h b = true ∧ pmType h = 6 ∧ senderHeard (flitHeard u p) p h = v ∧ pmDst h = ownNumber u ∧ v.sync.request = some r ∧ v.sync.role = 2 ∧ pmSrc h = v.sync.masterPeer.toNat ∧ b.length = 32 ∧ numAt b 0 8 = r.2 ∧ v.sync.everLocked = true)
    ∧ (∃ t : Nat, ∃ s : State, ∃ v : State, advance s t = v ∧ v.sync.role = 2 ∧ v.sync.locked = false ∧ v.sync.leadFault = false ∧ 16 ≤ v.sync.good.toNat ∧ v.sync.everLocked = true)
    ∧ (∃ t : Nat, ∃ s : State, ∃ v : State, advance s t = v ∧ (v.sync.role ≠ 2 ∨ v.sync.good.toNat < 16 ∨ v.sync.leadFault = true))
    ∧ (∃ t : Nat, ∃ s : State, ∃ v : State, advance s t = v ∧ v.sync.locked = true ∧ 4 ≤ v.sync.bad.toNat)
    ∧ (∃ s : State, ∃ n : Nat, s.phase.hold = some n) :=
  ⟨⟨0, { W with sync := { W.sync with role := 2 } }, _, rfl, by decide +kernel, by decide +kernel⟩,
   ⟨0, 0, makeHeader 1 0 { type := 5, dst := 0, payload := leBytes 8 5 }, leBytes 8 5, withPeer (fun p => { p with number := 0 }), _, _, rfl, by decide +kernel, by decide +kernel, by decide +kernel, rfl, by decide +kernel, by decide +kernel⟩,
   ⟨0, 0, makeHeader 0 0 { type := 6, dst := 1, payload := leBytes 8 5 ++ List.replicate 24 0 }, leBytes 8 5 ++ List.replicate 24 0, { withPeer (fun p => { p with number := 1 }) with sync := { W.sync with role := 2, everLocked := true, request := some (0, 5) } }, _, _, _, rfl, by decide +kernel, by decide +kernel, by decide +kernel, rfl, by decide +kernel, rfl, by decide +kernel, by decide +kernel, by decide +kernel, by decide +kernel, by decide +kernel⟩,
   ⟨0, { W with sync := { W.sync with role := 2, good := 16, everLocked := true } }, _, rfl, by decide +kernel, by decide +kernel, by decide +kernel, by decide +kernel, by decide +kernel⟩,
   ⟨0, W, _, rfl, by decide +kernel⟩,
   ⟨0, { W with sync := { W.sync with locked := true, bad := 4 } }, _, rfl, by decide +kernel, by decide +kernel⟩,
   ⟨{ W with phase := { W.phase with hold := some 5 } }, _, rfl⟩⟩

theorem witness_InterfaceCommandsComplete :
    (∃ t : Nat, ∃ c : Cmd, ∃ sel : Word, ∃ w : Word, ∃ off : DWord, ∃ s : State, ∃ v : State, ∃ u : State, began s t c = v ∧ okIfStatus sel = true ∧ writeWindow v c w off.toNat (ifSection v sel.toNat) = .ok u)
    ∧ (∃ t : Nat, ∃ c : Cmd, ∃ n : BitVec 6, ∃ w : Word, ∃ off : DWord, ∃ s : State, ∃ v : State, ∃ b : Bytes, began s t c = v ∧ readWindow v c w off.toNat 32 = .ok b ∧ streamOk (toWords 8 b) = true ∧ ((sdKind (getStream v n.toNat).desc = 0 ∨ sdKind (toWords 8 b) = 0 ∨ (sdKind (toWords 8 b) = sdKind (getStream v n.toNat).desc ∧ sdPort (toWords 8 b) = sdPort (getStream v n.toNat).desc))) ∧ ((sdKind (toWords 8 b) = 0 ∨ inEnvelope v (sessionOf v c) (sdRing (toWords 8 b)) (sdSlots (toWords 8 b) * sdSlotBytes (toWords 8 b)) = true)))
    ∧ (∃ t : Nat, ∃ c : Cmd, ∃ n : BitVec 4, ∃ mode : BitVec 2, ∃ pos : BitVec 6, ∃ s : State, ∃ v : State, began s t c = v ∧ okEncConfig mode pos = true ∧ v.phase.sources.any (fun p => (psType p.cfg == 2 || psType p.cfg == 3) && psInput p.cfg == 0x10 + n.toNat) = false)
    ∧ (∃ t : Nat, ∃ c : Cmd, ∃ n : BitVec 4, ∃ mode : BitVec 2, ∃ pos : BitVec 6, ∃ s : State, ∃ v : State, began s t c = v ∧ okEncConfig mode pos = true ∧ v.phase.sources.any (fun p => (psType p.cfg == 2 || psType p.cfg == 3) && psInput p.cfg == 0x10 + n.toNat) = true)
    ∧ (∃ t : Nat, ∃ c : Cmd, ∃ w : Word, ∃ off : DWord, ∃ len : Word, ∃ found : List (Word × Word), ∃ s : State, ∃ v : State, ∃ b : Bytes, began s t c = v ∧ readWindow v c w off.toNat len.toNat = .ok b ∧ v.servo.channels.all (fun x => x.st == .disabled) = true ∧ netImageOk b = true ∧ ((v.servo.net.tCyc = 0 ∨ tripFits b v.servo.net.txShift v.servo.net.rxBound = true)) ∧ found = netIdentities b ∧ b ≠ []) :=
  ⟨⟨0, cF, 0, 1, 0, W, _, _, rfl, by decide +kernel, ok_eq (by decide +kernel)⟩,
   ⟨0, cF, 0, 1, 0, holding W 0x20000 (bytesOf (streamDesc 0)), _, _, rfl, rfl, by decide +kernel, by decide +kernel, by decide +kernel⟩,
   ⟨0, cF, 15, 1, 0, W, _, rfl, by decide +kernel, by decide +kernel⟩,
   ⟨0, cF, 15, 1, 0, withSource { PhaseSource.off with cfg := 0x201F0000 :: List.replicate 7 0 }, _, rfl, by decide +kernel, by decide +kernel⟩,
   ⟨0, cF, 1, 0, 56, [(1, 2)], holding W 0x20000 netImg, _, _, rfl, rfl, by decide +kernel, by decide +kernel, by decide +kernel, by decide +kernel, by decide +kernel⟩⟩

theorem witness_CanPortsWork :
    (∃ t : Nat, ∃ c : Cmd, ∃ w : Word, ∃ off : DWord, ∃ s : State, ∃ v : State, ∃ h : Bytes, ∃ b : Bytes, began s t c = v ∧ readWindow v c w off.toNat 32 = .ok h ∧ cbFilters h ≤ 64 ∧ readWindow v c w off.toNat (32 + 8 * cbFilters h) = .ok b ∧ canBlockOk b = true ∧ ((cbEnable b = false ∨ inEnvelope v (sessionOf v c) (cbRing b) (80 * cbRecords b) = true)))
    ∧ (∃ t : Nat, ∃ c : Cmd, ∃ n : BitVec 2, ∃ ident : BitVec 29, ∃ ext : Bool, ∃ fd : Bool, ∃ brs : Bool, ∃ len : BitVec 7, ∃ data : DWord, ∃ point : PhaseValue, ∃ s : State, ∃ v : State, began s t c = v ∧ okCanSend ident ext fd brs len = true ∧ canRefusal v c (getCan v n.toNat) fd data.toNat len.toNat point = none)
    ∧ (∃ t : Nat, ∃ n : Nat, ∃ s : State, ∃ v : State, ∃ f : CanFrame, ∃ u : State, advance s t = v ∧ (getCan v n).queue.find? canReady = some f ∧ canRuns (getCan v n) = true ∧ cbListen (getCan v n).block = false ∧ (getCan v n).busOff = false ∧ ((f.fd = false ∨ cbFd (getCan v n).block = true)) ∧ u = modCan v n (fun p => { p with queue := p.queue.filter (fun g => g.cmd.key != f.cmd.key), sent := satInc p.sent }))
    ∧ (∃ t : Nat, ∃ n : Nat, ∃ ident : BitVec 29, ∃ ext : Bool, ∃ fd : Bool, ∃ s : State, ∃ v : State, ∃ u : State, advance s t = v ∧ canRuns (getCan v n) = true ∧ (getCan v n).busOff = false ∧ ((fd = false ∨ cbFd (getCan v n).block = true)) ∧ canAccepts (getCan v n).block ident ext = true ∧ u = modCan v n (fun p => { p with received := satInc p.received }) ∧ v.hif.fwReady = true)
    ∧ (∃ t : Nat, ∃ n : Nat, ∃ ident : BitVec 29, ∃ ext : Bool, ∃ fd : Bool, ∃ s : State, ∃ v : State, ∃ u : State, advance s t = v ∧ canRuns (getCan v n) = true ∧ (getCan v n).busOff = false ∧ ((fd = false ∨ cbFd (getCan v n).block = true)) ∧ canAccepts (getCan v n).block ident ext = true ∧ u = modCan v n (fun p => { p with received := satInc p.received }) ∧ v.hif.fwReady = false) :=
  ⟨⟨0, cF, 1, 0, holding W 0x20000 (canBlock 0x01800000), _, _, _, rfl, rfl, by decide +kernel, rfl, by decide +kernel, by decide +kernel⟩,
   ⟨0, cF, 3, 0x7FF, false, false, false, 8, 0x20000, pvZero, W, _, rfl, by decide +kernel, by decide +kernel⟩,
   ⟨0, 0, withCan (canBlock 0x01800000) [{ cmd := cQ, ident := 5, extended := false, fd := false, brs := false, data := [1], point := none }], _, _, _, rfl, rfl, by decide +kernel, by decide +kernel, by decide +kernel, by decide +kernel, rfl⟩,
   ⟨0, 0, 0x7FF, false, false, withCan (canBlock 0x01800000) [], _, _, rfl, by decide +kernel, by decide +kernel, by decide +kernel, by decide +kernel, rfl, by decide +kernel⟩,
   ⟨0, 0, 0x7FF, false, false, { withCan (canBlock 0x01800000) [] with hif := { W.hif with fwReady := false } }, _, _, rfl, by decide +kernel, by decide +kernel, by decide +kernel, by decide +kernel, rfl, by decide +kernel⟩⟩

theorem witness_IngressEventsAct :
    (∃ t : Nat, ∃ s : State, ∃ v : State, advance s t = v ∧ mainRuns v = true ∧ ((∀ n, n < 64 → sdKind (getStream v n).desc ≠ 1)))
    ∧ (∃ t : Nat, ∃ s : State, ∃ v : State, advance s t = v ∧ mainRuns v = true)
    ∧ (∃ t : Nat, ∃ mac : Nat, ∃ udp : BitVec 16, ∃ data : Bytes, ∃ s : State, ∃ v : State, ∃ n : Nat, advance s t = v ∧ mainRuns v = true ∧ 16 ≤ data.length ∧ fld (wordAt data 0) 31 24 = 1 ∧ n = fld (wordAt data 0) 23 18 ∧ sdKind (getStream v n).desc = 2 ∧ sdPort (getStream v n).desc = mac ∧ sdUdp (getStream v n).desc = udp.toNat ∧ (getStream v n).assembly = none ∧ fld (wordAt data 0) 15 0 = 0 ∧ wbit (wordAt data 1) 15 = false)
    ∧ (∃ t : Nat, ∃ mac : Nat, ∃ udp : BitVec 16, ∃ data : Bytes, ∃ s : State, ∃ v : State, ∃ n : Nat, ∃ a : Assembly, advance s t = v ∧ mainRuns v = true ∧ 16 ≤ data.length ∧ fld (wordAt data 0) 31 24 = 1 ∧ n = fld (wordAt data 0) 23 18 ∧ sdKind (getStream v n).desc = 2 ∧ sdPort (getStream v n).desc = mac ∧ sdUdp (getStream v n).desc = udp.toNat ∧ (getStream v n).assembly = some a ∧ a.next ≠ 0 ∧ fld (wordAt data 0) 15 0 = a.next ∧ fld (wordAt data 1) 31 16 = a.low ∧ wbit (wordAt data 1) 15 = false)
    ∧ (∃ t : Nat, ∃ mac : Nat, ∃ x : Nat, ∃ s : State, ∃ v : State, ∃ u : State, advance s t = v ∧ u = modMac v mac (fun m => { m with time := x, at_ := v.phase.gtc, synced := true })) :=
  ⟨⟨0, W, _, rfl, by decide +kernel, by decide +kernel⟩,
   ⟨0, W, _, rfl, by decide +kernel⟩,
   ⟨0, 1, 0x1234, bytesOf [0x01000000, 0, 0, 0, 7], withStream { Stream.reset with desc := streamDesc 0 }, _, _, rfl, by decide +kernel, by decide +kernel, by decide +kernel, rfl, by decide +kernel, by decide +kernel, by decide +kernel, by decide +kernel, by decide +kernel, by decide +kernel⟩,
   ⟨0, 1, 0x1234, bytesOf [0x01000001, 0, 0, 0, 7], withStream { Stream.reset with desc := streamDesc 0, assembly := some { low := 0, next := 1, first := 0, data := [1] } }, _, _, _, rfl, by decide +kernel, by decide +kernel, by decide +kernel, rfl, by decide +kernel, by decide +kernel, by decide +kernel, rfl, by decide +kernel, by decide +kernel, by decide +kernel, by decide +kernel⟩,
   ⟨0, 3, 5, W, _, _, rfl, rfl⟩⟩

end Sys2Proof.Tests
end

section
/-!
Proofs of the statements about every step and every command: what each step keeps (O4), who writes the protection set (O8), how an
undefined operand is refused (O9), and how far a write reaches (O32).
-/
namespace Sys2Proof.Proofs
open Sys2Proof Sys2Proof.Machine Sys2Proof.Laws

/-! What every command and every event keeps, collected over the arms of `exec`. -/

/-- The Shell starts: power-up, PORST_N and an accepted I3C target reset (R597, R699). -/
def shellStarts : Instr → Bool
  | .shellPowerUp _ | .shellPorstNPulse _ | .i3cTargetReset _ => true
  | _ => false

/-- The events in which boot code runs: the Shell starts and the release of the main domain's reset (R597, R599). -/
def runsBootCode : Instr → Bool
  | .shellPowerUp _ | .shellPorstNPulse _ | .i3cTargetReset _ | .mainDomainResetRelease _ => true
  | _ => false

theorem exists_of_runsBootCode {i : Instr} (h : runsBootCode i = true) :
    ∃ t, i = .shellPowerUp t ∨ i = .shellPorstNPulse t ∨ i = .i3cTargetReset t ∨ i = .mainDomainResetRelease t := by
  unfold runsBootCode at h
  split at h
  · exact ⟨_, .inl rfl⟩
  · exact ⟨_, .inr (.inl rfl)⟩
  · exact ⟨_, .inr (.inr (.inl rfl))⟩
  · exact ⟨_, .inr (.inr (.inr rfl))⟩
  · cases h

/-- Boot code runs in events only: no host command starts it. -/
theorem runsBootCode_of_cmdOf {i : Instr} {c : Cmd} (h : cmdOf i = some c) : runsBootCode i = false := by
  cases hb : runsBootCode i with
  | false => rfl
  | true => obtain ⟨t, rfl | rfl | rfl | rfl⟩ := exists_of_runsBootCode hb <;> cases h

/-- Every arm of `exec` but SAFETY_RESET keeps what `Keeps` says: the clock outside the Shell starts, the protection set
wherever boot code does not run, everything else always. -/
theorem exec_keeps {i : Instr} {s r : State} (hi : ∀ t c, i ≠ .safetyReset t c) (e : exec i s = .next r) :
    Keeps (!shellStarts i) (!runsBootCode i) s r := by
  cases i with
  | identify => exact keeps_execIdentify (.refl s) e
  | getHealth => exact keeps_execGetHealth (.refl s) e
  | asyncEventRequest => exact keeps_execAsyncEventRequest (.refl s) e
  | openSession => exact keeps_execOpenSession (.refl s) e
  | closeSession => exact keeps_execCloseSession (.refl s) e
  | setShare => exact keeps_execSetShare (.refl s) e
  | getCounters => exact keeps_execGetCounters (.refl s) e
  | createCq => exact keeps_execCreateCq (.refl s) e
  | deleteCq => exact keeps_execDeleteCq (.refl s) e
  | createSq => exact keeps_execCreateSq (.refl s) e
  | deleteSq => exact keeps_execDeleteSq (.refl s) e
  | abort => exact keeps_execAbort (.refl s) e
  | etchStage => exact keeps_execEtchStage (.refl s) e
  | etchArm => exact keeps_execEtchArm (.refl s) e
  | etchStageArm => exact keeps_execEtchStageArm (.refl s) e
  | etchAbort => exact keeps_execEtchAbort (.refl s) e
  | etchQuery => exact keeps_execEtchQuery (.refl s) e
  | etchArmInstant => exact keeps_execEtchArmInstant (.refl s) e
  | abortInstant => exact keeps_execAbortInstant (.refl s) e
  | etchCommit => exact keeps_execEtchCommit (.refl s) e
  | fallbackArmDeadline => exact keeps_execFallbackArmDeadline (.refl s) e
  | deadlineMatch => exact keeps_execDeadlineMatch (.refl s) e
  | phaseEdge => exact keeps_execPhaseEdge (.refl s) e
  | lidarIndexPulse => exact keeps_execLidarIndexPulse (.refl s) e
  | quadStateChange => exact keeps_execQuadStateChange (.refl s) e
  | encIndexEdge => exact keeps_execEncIndexEdge (.refl s) e
  | serialEncReply => exact keeps_execSerialEncReply (.refl s) e
  | serialReplyTimeout => exact keeps_execSerialReplyTimeout (.refl s) e
  | phaseSourceStall => exact keeps_execPhaseSourceStall (.refl s) e
  | motionCycleSync0 => exact keeps_execMotionCycleSync0 (.refl s) e
  | mnetFrameTransmit => exact keeps_execMnetFrameTransmit (.refl s) e
  | mnetFrameReturn => exact keeps_execMnetFrameReturn (.refl s) e
  | mnetRxBoundExpiry => exact keeps_execMnetRxBoundExpiry (.refl s) e
  | missLimitReached => exact keeps_execMissLimitReached (.refl s) e
  | servoSample => exact keeps_execServoSample (.refl s) e
  | followingErrorFault => exact keeps_execFollowingErrorFault (.refl s) e
  | enablingTimeout => exact keeps_execEnablingTimeout (.refl s) e
  | xcheckFault => exact keeps_execXcheckFault (.refl s) e
  | pairLockstepMismatch => exact keeps_execPairLockstepMismatch (.refl s) e
  | channelMove => exact keeps_execChannelMove (.refl s) e
  | safetyConnectionFault => exact keeps_execSafetyConnectionFault (.refl s) e
  | hifDoorbell => exact keeps_execHifDoorbell (.refl s) e
  | hifCqHead => exact keeps_execHifCqHead (.refl s) e
  | mailboxDoorbell => exact keeps_execMailboxDoorbell (.refl s) e
  | bar0BadAccess => exact keeps_execBar0BadAccess (.refl s) e
  | bar2Access => exact keeps_execBar2Access (.refl s) e
  | registerWriteIgnored t fn offset value =>
    exact keeps_execRegisterWriteIgnored (fn := fn) (offset := offset) (value := value) (.refl s) e
  | sqEntryFetch => exact keeps_execSqEntryFetch (.refl s) e
  | completionPost => exact keeps_execCompletionPost (.refl s) e
  | cqCoalesceTimer => exact keeps_execCqCoalesceTimer (.refl s) e
  | memAlloc => exact keeps_execMemAlloc (.refl s) e
  | memFree => exact keeps_execMemFree (.refl s) e
  | windowOpen => exact keeps_execWindowOpen (.refl s) e
  | windowClose => exact keeps_execWindowClose (.refl s) e
  | dmaCopy => exact keeps_execDmaCopy (.refl s) e
  | dmaFill => exact keeps_execDmaFill (.refl s) e
  | dmaCrc => exact keeps_execDmaCrc (.refl s) e
  | dmaTransferComplete => exact keeps_execDmaTransferComplete (.refl s) e
  | plateLoad => exact keeps_execPlateLoad (.refl s) e
  | plateUnload => exact keeps_execPlateUnload (.refl s) e
  | plateStart => exact keeps_execPlateStart (.refl s) e
  | plateStatus => exact keeps_execPlateStatus (.refl s) e
  | sqMigrate => exact keeps_execSqMigrate (.refl s) e
  | selftestStatus => exact keeps_execSelftestStatus (.refl s) e
  | plateBoundary => exact keeps_execPlateBoundary (.refl s) e
  | slotStart => exact keeps_execSlotStart (.refl s) e
  | slotEnd => exact keeps_execSlotEnd (.refl s) e
  | structLoad => exact keeps_execStructLoad (.refl s) e
  | structUnload => exact keeps_execStructUnload (.refl s) e
  | structQuery => exact keeps_execStructQuery (.refl s) e
  | solve => exact keeps_execSolve (.refl s) e
  | scenarioBatch => exact keeps_execScenarioBatch (.refl s) e
  | solveDiagRead => exact keeps_execSolveDiagRead (.refl s) e
  | engineStatus => exact keeps_execEngineStatus (.refl s) e
  | solveStart => exact keeps_execSolveStart (.refl s) e
  | solveWriteoutStart => exact keeps_execSolveWriteoutStart (.refl s) e
  | solveComplete => exact keeps_execSolveComplete (.refl s) e
  | engineOverrun => exact keeps_execEngineOverrun (.refl s) e
  | engineFault => exact keeps_execEngineFault (.refl s) e
  | spareEngineReady => exact keeps_execSpareEngineReady (.refl s) e
  | tracerCheckBegin => exact keeps_execTracerCheckBegin (.refl s) e
  | tracerCheckEnd => exact keeps_execTracerCheckEnd (.refl s) e
  | tracerCheck => exact keeps_execTracerCheck (.refl s) e
  | tracerKnownAnswerTest => exact keeps_execTracerKnownAnswerTest (.refl s) e
  | servoNetConfig => exact keeps_execServoNetConfig (.refl s) e
  | servoChannelConfig => exact keeps_execServoChannelConfig (.refl s) e
  | servoEnable => exact keeps_execServoEnable (.refl s) e
  | servoDisable => exact keeps_execServoDisable (.refl s) e
  | servoClearFault => exact keeps_execServoClearFault (.refl s) e
  | servoStatus => exact keeps_execServoStatus (.refl s) e
  | servoGainsBasic => exact keeps_execServoGainsBasic (.refl s) e
  | routeLoad => exact keeps_execRouteLoad (.refl s) e
  | routeUnload => exact keeps_execRouteUnload (.refl s) e
  | routeRun => exact keeps_execRouteRun (.refl s) e
  | sectorMap => exact keeps_execSectorMap (.refl s) e
  | fieldOp => exact keeps_execFieldOp (.refl s) e
  | routeStart => exact keeps_execRouteStart (.refl s) e
  | routeComplete => exact keeps_execRouteComplete (.refl s) e
  | routeStallTimeout => exact keeps_execRouteStallTimeout (.refl s) e
  | tilePublish => exact keeps_execTilePublish (.refl s) e
  | tileRelease => exact keeps_execTileRelease (.refl s) e
  | slotDetection => exact keeps_execSlotDetection (.refl s) e
  | stepRerunLimitReached => exact keeps_execStepRerunLimitReached (.refl s) e
  | sectorHeartbeatTimeout => exact keeps_execSectorHeartbeatTimeout (.refl s) e
  | sectorFault => exact keeps_execSectorFault (.refl s) e
  | spareSectorReady => exact keeps_execSpareSectorReady (.refl s) e
  | spillOut => exact keeps_execSpillOut (.refl s) e
  | spillRestore => exact keeps_execSpillRestore (.refl s) e
  | serveConfig => exact keeps_execServeConfig (.refl s) e
  | serveStop => exact keeps_execServeStop (.refl s) e
  | serveStatus => exact keeps_execServeStatus (.refl s) e
  | seqJoin => exact keeps_execSeqJoin (.refl s) e
  | seqDraft => exact keeps_execSeqDraft (.refl s) e
  | seqLeave => exact keeps_execSeqLeave (.refl s) e
  | seqStatus => exact keeps_execSeqStatus (.refl s) e
  | seqRecompute => exact keeps_execSeqRecompute (.refl s) e
  | actionBind => exact keeps_execActionBind (.refl s) e
  | stepBoundary => exact keeps_execStepBoundary (.refl s) e
  | powerProfile => exact keeps_execPowerProfile (.refl s) e
  | powerUnit => exact keeps_execPowerUnit (.refl s) e
  | powerStatus => exact keeps_execPowerStatus (.refl s) e
  | thermalSet => exact keeps_execThermalSet (.refl s) e
  | unitDrainEnd => exact keeps_execUnitDrainEnd (.refl s) e
  | powerTransitionComplete => exact keeps_execPowerTransitionComplete (.refl s) e
  | thermalSample => exact keeps_execThermalSample (.refl s) e
  | mainOn => exact keeps_execMainOn (.refl s) e
  | safetyStatus => exact keeps_execSafetyStatus (.refl s) e
  | safeStateRequest => exact keeps_execSafeStateRequest (.refl s) e
  | safetyReset t c => exact absurd rfl (hi t c)
  | cpHeartbeat => exact keeps_execCpHeartbeat (.refl s) e
  | heartbeatTimeout => exact keeps_execHeartbeatTimeout (.refl s) e
  | mainDomainResetRelease => exact keeps_execMainDomainResetRelease (.refl s) e
  | restartWindowExpiry => exact keeps_execRestartWindowExpiry (.refl s) e
  | stoDeadlineExpiry => exact keeps_execStoDeadlineExpiry (.refl s) e
  | brakeDelayExpiry => exact keeps_execBrakeDelayExpiry (.refl s) e
  | heldLimitReached => exact keeps_execHeldLimitReached (.refl s) e
  | disagreeLimitReached => exact keeps_execDisagreeLimitReached (.refl s) e
  | estopSample => exact keeps_execEstopSample (.refl s) e
  | estopOpen => exact keeps_execEstopOpen (.refl s) e
  | estopDiscrepancyTimeout => exact keeps_execEstopDiscrepancyTimeout (.refl s) e
  | stoTestPulse => exact keeps_execStoTestPulse (.refl s) e
  | outputReadbackFault => exact keeps_execOutputReadbackFault (.refl s) e
  | shellClockFault => exact keeps_execShellClockFault (.refl s) e
  | mainClockFault => exact keeps_execMainClockFault (.refl s) e
  | mainSupplyFault => exact keeps_execMainSupplyFault (.refl s) e
  | powerFailDetect => exact keeps_execPowerFailDetect (.refl s) e
  | shellPowerUp => exact keeps_execShellPowerUp (.refl s) e
  | shellPorstNPulse => exact keeps_execShellPorstNPulse (.refl s) e
  | mainSupplyValid => exact keeps_execMainSupplyValid (.refl s) e
  | mainSupplyUpTimeout => exact keeps_execMainSupplyUpTimeout (.refl s) e
  | perstAssert => exact keeps_execPerstAssert (.refl s) e
  | hostLinkLoss => exact keeps_execHostLinkLoss (.refl s) e
  | functionLevelReset => exact keeps_execFunctionLevelReset (.refl s) e
  | vfDisable => exact keeps_execVfDisable (.refl s) e
  | jtagInstructionLoad => exact keeps_execJtagInstructionLoad (.refl s) e
  | jtagTrst => exact keeps_execJtagTrst (.refl s) e
  | huskRecordWrite => exact keeps_execHuskRecordWrite (.refl s) e
  | huskMirrorCopy => exact keeps_execHuskMirrorCopy (.refl s) e
  | hskRdSeqWrite => exact keeps_execHskRdSeqWrite (.refl s) e
  | i3cTargetReset => exact keeps_execI3cTargetReset (.refl s) e
  | huskStatus => exact keeps_execHuskStatus (.refl s) e
  | huskRead => exact keeps_execHuskRead (.refl s) e
  | protRead => exact keeps_execProtRead (.refl s) e
  | fwLoad => exact keeps_execFwLoad (.refl s) e
  | fwSwap => exact keeps_execFwSwap (.refl s) e
  | fwSwapConfirm => exact keeps_execFwSwapConfirm (.refl s) e
  | shellFwLoad => exact keeps_execShellFwLoad (.refl s) e
  | shellFwSwap => exact keeps_execShellFwSwap (.refl s) e
  | sectorRemap => exact keeps_execSectorRemap (.refl s) e
  | engineSwap => exact keeps_execEngineSwap (.refl s) e
  | servoPairDrain => exact keeps_execServoPairDrain (.refl s) e
  | pairSelftestEnd => exact keeps_execPairSelftestEnd (.refl s) e
  | lpddrRetrain => exact keeps_execLpddrRetrain (.refl s) e
  | spareStatus => exact keeps_execSpareStatus (.refl s) e
  | selftestQuantumStart => exact keeps_execSelftestQuantumStart (.refl s) e
  | selftestQuantumEnd => exact keeps_execSelftestQuantumEnd (.refl s) e
  | diagnosticIntervalEnd => exact keeps_execDiagnosticIntervalEnd (.refl s) e
  | sliceFence => exact keeps_execSliceFence (.refl s) e
  | sharedBufferScrub t slice => exact keeps_execSharedBufferScrub (_slice := slice) (.refl s) e
  | shellMemoryScrub => exact keeps_execShellMemoryScrub (.refl s) e
  | lpddrRefresh => exact keeps_execLpddrRefresh (.refl s) e
  | lpddrBurstRereadLimit => exact keeps_execLpddrBurstRereadLimit (.refl s) e
  | lpddrDriftMeasure => exact keeps_execLpddrDriftMeasure (.refl s) e
  | imprintConfig => exact keeps_execImprintConfig (.refl s) e
  | weightDigest => exact keeps_execWeightDigest (.refl s) e
  | imprintCompare => exact keeps_execImprintCompare (.refl s) e
  | solveStateRead => exact keeps_execSolveStateRead (.refl s) e
  | solveStateWrite => exact keeps_execSolveStateWrite (.refl s) e
  | imprintWrite => exact keeps_execImprintWrite (.refl s) e
  | peerStatus => exact keeps_execPeerStatus (.refl s) e
  | peerWindowOpen => exact keeps_execPeerWindowOpen (.refl s) e
  | peerWindowClose => exact keeps_execPeerWindowClose (.refl s) e
  | peerWrite => exact keeps_execPeerWrite (.refl s) e
  | peerRead => exact keeps_execPeerRead (.refl s) e
  | ifStatus => exact keeps_execIfStatus (.refl s) e
  | ingressConfig => exact keeps_execIngressConfig (.refl s) e
  | encConfig => exact keeps_execEncConfig (.refl s) e
  | mnetConfig => exact keeps_execMnetConfig (.refl s) e
  | canConfig => exact keeps_execCanConfig (.refl s) e
  | canSend => exact keeps_execCanSend (.refl s) e
  | canSendMatch => exact keeps_execCanSendMatch (.refl s) e
  | canFrameRx => exact keeps_execCanFrameRx (.refl s) e
  | canBusOff => exact keeps_execCanBusOff (.refl s) e
  | canBusOffRecovery => exact keeps_execCanBusOffRecovery (.refl s) e
  | csi2FrameEnd => exact keeps_execCsi2FrameEnd (.refl s) e
  | ethFragment => exact keeps_execEthFragment (.refl s) e
  | peerWriteRx => exact keeps_execPeerWriteRx (.refl s) e
  | peerAckRx => exact keeps_execPeerAckRx (.refl s) e
  | peerReadReqRx => exact keeps_execPeerReadReqRx (.refl s) e
  | peerReadDataRx => exact keeps_execPeerReadDataRx (.refl s) e
  | syncReqRx => exact keeps_execSyncReqRx (.refl s) e
  | syncRespRx => exact keeps_execSyncRespRx (.refl s) e
  | syncLockAcquired => exact keeps_execSyncLockAcquired (.refl s) e
  | syncLockLost => exact keeps_execSyncLockLost (.refl s) e
  | gtcHoldEnd => exact keeps_execGtcHoldEnd (.refl s) e
  | syncExchangeTimer => exact keeps_execSyncExchangeTimer (.refl s) e
  | peerHelloRx => exact keeps_execPeerHelloRx (.refl s) e
  | peerEventRx => exact keeps_execPeerEventRx (.refl s) e
  | peerMessageForward => exact keeps_execPeerMessageForward (.refl s) e
  | peerHelloTimer => exact keeps_execPeerHelloTimer (.refl s) e
  | peerConnectionTimeout => exact keeps_execPeerConnectionTimeout (.refl s) e
  | peerFlitReplay => exact keeps_execPeerFlitReplay (.refl s) e
  | peerResendTimeout => exact keeps_execPeerResendTimeout (.refl s) e
  | tracerLockstepMismatch => exact keeps_execTracerLockstepMismatch (.refl s) e
  | safetyProcessorLockstepMismatch => exact keeps_execSafetyProcessorLockstepMismatch (.refl s) e
  | gptpMessageRx => exact keeps_execGptpMessageRx (.refl s) e
  | gateControlIntervalEnd => exact keeps_execGateControlIntervalEnd (.refl s) e
  | hostDmaCompletionTimeout => exact keeps_execHostDmaCompletionTimeout (.refl s) e
  | perstRelease => exact keeps_execPerstRelease (.refl s) e
  | hashEngineComplete => exact keeps_execHashEngineComplete (.refl s) e
  | bootFlashWriteDone => exact keeps_execBootFlashWriteDone (.refl s) e
  | canFrameSent => exact keeps_execCanFrameSent (.refl s) e
  | vhuskCharged => exact keeps_execVhuskCharged (.refl s) e
  | msixVectorControlWrite => exact keeps_execMsixVectorControlWrite (.refl s) e

/-- SAFETY_RESET is the one command that may release STO, so it is outside `exec_keeps`; the invariants hold through it too. -/
theorem exec_keeps_invariants {i : Instr} {s r : State} (e : exec i s = .next r) :
    (s.MemoryOk → r.MemoryOk) ∧ (s.StoOk → r.StoOk) := by
  by_cases hi : ∃ t c, i = .safetyReset t c
  · obtain ⟨t, c, rfl⟩ := hi
    obtain ⟨-, hmem, hsto, -, -⟩ := execSafetyReset_keeps e
    exact ⟨hmem, hsto⟩
  · have k := exec_keeps (fun t c h => hi ⟨t, c, h⟩) e
    exact ⟨k.mem, k.sto⟩

theorem exec_prot_of_not_boot {i : Instr} {s r : State} (hb : runsBootCode i = false) (e : exec i s = .next r) :
    r.boot.prot = s.boot.prot := by
  by_cases hi : ∃ t c, i = .safetyReset t c
  · obtain ⟨t, c, rfl⟩ := hi
    obtain ⟨-, -, -, -, hprot⟩ := execSafetyReset_keeps e
    exact hprot
  · exact (exec_keeps (fun t c h => hi ⟨t, c, h⟩) e).prot (by simp [hb])

/-- Settles O4: an empty queue only lets the clock tick; otherwise the front command runs in a state that differs from `s` in its
queue alone, and every command keeps both invariants. -/
theorem stepKeepsInvariants : Obligations.StepKeepsInvariants := by
  intro s s' h
  unfold step at h
  split at h
  · obtain rfl := Host.Outcome.next.inj h
    have k : Keeps true true s (tick s) := keeps_advance (.refl s)
    exact ⟨k.mem, k.sto⟩
  · obtain ⟨hmem, hsto⟩ := exec_keeps_invariants h
    exact ⟨hmem, hsto⟩

/-- Settles O8: where boot code does not run, the protection set stays, and no command runs it. -/
theorem onlyBootCodeWritesProtection : Obligations.OnlyBootCodeWritesProtection := by
  refine ⟨fun i s s' e hne => exists_of_runsBootCode ?_, fun i c s s' hc e => exec_prot_of_not_boot (runsBootCode_of_cmdOf hc) e⟩
  cases hb : runsBootCode i with
  | true => rfl
  | false => exact absurd (exec_prot_of_not_boot hb e) hne

/-! Refusal of an undefined operand (R11). -/

/-- The choice that `host`, `hostWait` and `update` all make at a command's execution: its own effect, or the refusal when an
operand does not hold a defined value. -/
theorem next_ite_of_not_ok {ok : Bool} {effect refusal : State} (h : ok = false) :
    (Host.Outcome.next (if ok then effect else refusal) : Out) = .next refusal := by
  rw [h]
  rfl

/-- Settles O9: each command whose row of the manual has an undefined value checks that operand first, SERVO_GAINS_BASIC together
with its commit point; for the other commands `operandsOk` names no undefined value. -/
theorem undefinedOperandsRefused : Obligations.UndefinedOperandsRefused := by
  intro i c s hc hb
  cases i
  case servoGainsBasic =>
    cases hc
    refine next_ite_of_not_ok ?_
    exact (Bool.and_eq_false_iff ..).2 (.inl hb)
  case identify | createCq | createSq | memAlloc | dmaCopy | selftestStatus | structLoad | structUnload | structQuery | solve |
      solveDiagRead | engineStatus | servoChannelConfig | servoEnable | servoDisable | servoClearFault | servoStatus |
      routeUnload | routeRun | seqJoin | actionBind | powerProfile | powerUnit | thermalSet | safeStateRequest | huskRead |
      sectorRemap | engineSwap | imprintConfig | solveStateRead | solveStateWrite | ifStatus | encConfig | canSend =>
    cases hc
    refine next_ite_of_not_ok ?_
    exact hb
  all_goals cases hb

/-! Reading back a write at a key (R15, R153). -/

theorem readKey_writeKey_self {m : Mem} (k : Nat) (b : Bytes) (hd : Memory.wf m.dev = true) (hh : Memory.wf m.host = true) :
    readKey (writeKey m k b) k b.length = b := by
  by_cases hk : hostBase ≤ k
  · simpa [readKey, writeKey, hk] using read_write m.host (k - hostBase) b hh
  · simpa [readKey, writeKey, hk] using read_write m.dev k b hd

/-- A key below `hostBase` names device memory and any other host memory, so a write to one memory is not seen in the other. -/
theorem readKey_writeKey_other {m : Mem} {k j : Nat} {b : Bytes} (hj : j < k ∨ k + b.length ≤ j) :
    readKey (writeKey m k b) j 1 = readKey m j 1 := by
  by_cases hw : hostBase ≤ k <;> by_cases hr : hostBase ≤ j
  · have hg := get_write_other m.host (k - hostBase) (j - hostBase) b (by omega)
    simpa [readKey, writeKey, hw, hr, Memory.read] using hg
  · simp [readKey, writeKey, hw, hr]
  · simp [readKey, writeKey, hw, hr]
  · have hg := get_write_other m.dev k j b hj
    simpa [readKey, writeKey, hw, hr, Memory.read] using hg

/-- Settles O32: the laws of the byte memories, at a key and then at the key that a window gives. -/
theorem writesReachOnlyTheirBytes : Obligations.WritesReachOnlyTheirBytes := by
  refine ⟨fun m k b hd hh _ => readKey_writeKey_self k b hd hh, fun m k j b _ => readKey_writeKey_other, ?_⟩
  intro s c w o b u h
  obtain ⟨k, hkey, -, rfl⟩ := writeWindow_ok h
  exact ⟨k, hkey, rfl, by simp⟩

end Sys2Proof.Proofs
end

section
/-!
Proofs of the statements about phase and time: what a step does with the queue (O1), that no GTC steps backward (O7), the order of
phases modulo 2^64 (O11), the interpolated fraction (O12, O13), and what an edge, an index pulse and a stall do to a source (O25).
-/
namespace Sys2Proof.Proofs
open Sys2Proof Sys2Proof.Machine Sys2Proof.Laws

/-! The clock (R58, R59, R75). -/

theorem exists_of_shellStarts {i : Instr} (h : shellStarts i = true) :
    ∃ t, i = .shellPowerUp t ∨ i = .shellPorstNPulse t ∨ i = .i3cTargetReset t := by
  unfold shellStarts at h
  split at h
  · exact ⟨_, .inl rfl⟩
  · exact ⟨_, .inr (.inl rfl)⟩
  · exact ⟨_, .inr (.inr rfl)⟩
  · cases h

/-- Outside the Shell starts every arm of `exec`, SAFETY_RESET among them, moves the two GTCs onward only. -/
theorem exec_onward {i : Instr} {s r : State} (hi : shellStarts i = false) (e : exec i s = .next r) :
    Onward s.phase r.phase := by
  by_cases hr : ∃ t c, i = .safetyReset t c
  · obtain ⟨t, c, rfl⟩ := hr
    obtain ⟨-, -, -, hclock, -⟩ := execSafetyReset_keeps e
    exact hclock
  · exact (exec_keeps (fun t c h => hr ⟨t, c, h⟩) e).clock (by rw [hi]; rfl)

/-- Settles O7: every command moves the clock onward, and the Shell starts, which set it anew, are left out. -/
theorem gtcsNeverStepBackward : Obligations.GtcsNeverStepBackward := by
  intro i s s' e hup hporst hi3c horder
  have hi : shellStarts i = false := by
    cases hstart : shellStarts i with
    | false => rfl
    | true =>
      obtain ⟨t, h | h | h⟩ := exists_of_shellStarts hstart
      · exact absurd h (hup t)
      · exact absurd h (hporst t)
      · exact absurd h (hi3c t)
  have k := exec_onward hi e
  exact ⟨k.gtc horder, k.shadow horder, k.order horder⟩

theorem step_cons (s : State) (c : Instr) : step { s with pending := c :: s.pending } = exec c s := rfl

theorem step_nil {s : State} (h : s.pending = []) : step s = .next (tick s) := by
  unfold step
  rw [h]

theorem tick_running {s : State} (h : s.phase.hold = none) :
    tick s = { s with phase := { s.phase with gtc := s.phase.gtc + 1, shadow := max s.phase.shadow (s.phase.gtc + 1) } } := by
  have hmax : max s.phase.gtc (s.phase.gtc + 1) = s.phase.gtc + 1 := by omega
  simp only [tick, now, advance_running h, hmax]

/-- Settles O1: the two arms of `step`, the tick with and without the hold of first lock. -/
theorem stepRunsFrontCommand : Obligations.StepRunsFrontCommand := by
  refine ⟨step_cons, fun s hq hrun => ?_, fun s hq hheld => ?_⟩
  · rw [step_nil hq, tick_running hrun]
  · obtain ⟨n, hn⟩ := Option.ne_none_iff_exists'.1 hheld
    rw [step_nil hq, tick, advance_held hn]

/-! Phases are 64-bit values, ordered by their difference modulo 2^64 (R37, R39). -/

theorem psRaw_lt (p : PhaseSource) (t : Nat) : psRaw p t < 2 ^ 64 := by
  unfold psRaw
  dsimp only
  split <;> exact Nat.mod_lt _ (by decide)

theorem psCalibrate_lt (c : List Word) (raw : Nat) : psCalibrate c raw < 2 ^ 64 := by
  simp only [psCalibrate, wrapN]
  omega

theorem psPhase_lt (p : PhaseSource) (t : Nat) : psPhase p t < 2 ^ 64 := psCalibrate_lt _ _

theorem phaseAt_lt (s : State) (n : Nat) : phaseAt s n < 2 ^ 64 := psPhase_lt _ _

theorem matchPhase_lt (p : PhaseSource) (t target : Nat) : matchPhase p t target < 2 ^ 64 := by
  unfold matchPhase
  split
  · exact psCalibrate_lt _ _
  · exact psPhase_lt _ _

theorem pvPhase_lt (v : PhaseValue) : pvPhase v < 2 ^ 64 := by
  have := v.w0.isLt
  simp only [pvPhase, fld]
  omega

/-- The model's difference of two phases in `Nat` is the difference modulo 2^64. -/
theorem phaseDiff_cast {a b : Nat} (hb : b < 2 ^ 64) :
    (((a + 2 ^ 64 - b) % 2 ^ 64 : Nat) : Int) = ((a : Int) - b) % 2 ^ 64 := by
  omega

theorem reached_increasing_iff {q target : Nat} (ht : target < 2 ^ 64) :
    reached q target false = true ↔ ((q : Int) - target) % 2 ^ 64 < 2 ^ 63 := by
  have := phaseDiff_cast (a := q) ht
  simp only [reached, Bool.false_eq_true, if_false, decide_eq_true_eq]
  omega

theorem reached_decreasing_iff {q target : Nat} (hq : q < 2 ^ 64) :
    reached q target true = true ↔ ((target : Int) - q) % 2 ^ 64 < 2 ^ 63 := by
  have := phaseDiff_cast (a := target) hq
  simp only [reached, if_true, decide_eq_true_eq]
  omega

/-- Two different phases do not both lie ahead of each other. -/
theorem not_reached_of_ahead {q target : Nat} (hq : q < 2 ^ 64) (ht : target < 2 ^ 64)
    (hahead : ((target : Int) - q) % 2 ^ 64 < 2 ^ 63) (hne : target ≠ q) : reached q target false = false := by
  rw [← Bool.not_eq_true, reached_increasing_iff ht]
  omega

/-- When a phase-form target has matched (R66, R67). -/
theorem pvReached_iff {s : State} {v : PhaseValue} (hv : pvIsGtc v = false) :
    pvReached s v = true ↔ psType (matchSource s (pvSource v)).cfg ≠ 0
      ∧ reached (matchPhase (matchSource s (pvSource v)) (now s) (pvPhase v)) (pvPhase v) (pvDecreasing v) = true := by
  simp [pvReached, hv]

/-- When a phase-form target is already passed (R68). -/
theorem pvPassed_iff {s : State} {v : PhaseValue} (hv : pvIsGtc v = false) :
    pvPassed s v = true ↔ psType (getPs s (pvSource v)).cfg ≠ 0
      ∧ reached (phaseAt s (pvSource v)) (pvPhase v) (pvDecreasing v) = true := by
  simp [pvPassed, hv]

theorem pvBefore_increasing_iff {d p : PhaseValue} (hp : pvIsGtc p = false) (hdir : pvDecreasing p = false) :
    pvBefore d p = true ↔ ((pvPhase p : Int) - pvPhase d) % 2 ^ 64 < 2 ^ 63 ∧ pvPhase p ≠ pvPhase d := by
  have hd := pvPhase_lt d
  have := pvPhase_lt p
  have := phaseDiff_cast (a := pvPhase p) hd
  simp only [pvBefore, hp, hdir, Bool.false_eq_true, if_false, Bool.and_eq_true, decide_eq_true_eq]
  omega

/-! Edges (R33, R36, R41, R43). -/

@[simp] theorem edge_cfg (t : Nat) (raw : BitVec 64) (p : PhaseSource) : (edge t raw p).cfg = p.cfg := rfl
@[simp] theorem edge_raw (t : Nat) (raw : BitVec 64) (p : PhaseSource) : (edge t raw p).raw = raw := rfl
@[simp] theorem edge_edges (t : Nat) (raw : BitVec 64) (p : PhaseSource) : (edge t raw p).edges = satInc p.edges := rfl
@[simp] theorem edge_down (t : Nat) (raw : BitVec 64) (p : PhaseSource) :
    (edge t raw p).down = (p.seen && movesDown raw p) := rfl

theorem edge_intervals_first {t : Nat} {raw : BitVec 64} {p : PhaseSource} (h : p.edges = 0) :
    (edge t raw p).intervals = p.intervals := if_pos (beq_iff_eq.2 h)

theorem edge_intervals_next {t : Nat} {raw : BitVec 64} {p : PhaseSource} (h : p.edges ≠ 0) :
    (edge t raw p).intervals =
      (((((t : Int) - psEdgeDelay p.cfg).toNat : Int) - p.stamp).toNat :: p.intervals).take 8 :=
  if_neg (mt beq_iff_eq.1 h)

theorem edge_intervals_length (t : Nat) (raw : BitVec 64) (p : PhaseSource) :
    (edge t raw p).intervals.length ≤ max 8 p.intervals.length := by
  by_cases h : p.edges = 0
  · rw [edge_intervals_first h]
    exact Nat.le_max_right _ _
  · rw [edge_intervals_next h, List.length_take]
    omega

/-- A count that can decrease moves down exactly when its difference from the edge before is negative (R38, R56). -/
theorem movesDown_iff {raw : BitVec 64} {p : PhaseSource} (h : psType p.cfg = 2 ∨ psType p.cfg = 3) :
    movesDown raw p = true ↔ (raw - p.raw).msb = true := by
  rcases h with h | h <;> simp [movesDown, h]

theorem movesDown_of_other_type {raw : BitVec 64} {p : PhaseSource} (h2 : psType p.cfg ≠ 2) (h3 : psType p.cfg ≠ 3) :
    movesDown raw p = false := by
  simp [movesDown, h2, h3]

theorem edge_down_iff {t : Nat} {raw : BitVec 64} {p : PhaseSource} (hseen : p.seen = true)
    (hty : psType p.cfg = 2 ∨ psType p.cfg = 3) : (edge t raw p).down = true ↔ (raw - p.raw).msb = true := by
  rw [edge_down, hseen, Bool.true_and, movesDown_iff hty]

theorem edge_down_eq_false {t : Nat} {raw : BitVec 64} {p : PhaseSource}
    (h : p.seen = false ∨ (psType p.cfg ≠ 2 ∧ psType p.cfg ≠ 3)) : (edge t raw p).down = false := by
  rw [edge_down]
  rcases h with hseen | ⟨h2, h3⟩
  · rw [hseen, Bool.false_and]
  · rw [movesDown_of_other_type h2 h3, Bool.and_false]

theorem countEdge_of_not_last {t : Nat} {p : PhaseSource} (h : p.divPos.toNat < psDivider p.cfg) :
    countEdge t p = { p with divPos := p.divPos + 1 } := if_pos h

theorem countEdge_of_last {t : Nat} {p : PhaseSource} (h : psDivider p.cfg ≤ p.divPos.toNat) :
    countEdge t p = { edge t (p.raw + 0x10000) p with divPos := 0 } := if_neg (Nat.not_lt.2 h)

/-- The edge that completes the divider moves the count on by one, modulo 2^48 (R39). -/
theorem countEdge_count_wraps {t : Nat} {p : PhaseSource} (h : psDivider p.cfg ≤ p.divPos.toNat) :
    (countEdge t p).raw.toNat / 65536 = (p.raw.toNat / 65536 + 1) % 2 ^ 48 := by
  have := p.raw.isLt
  simp only [countEdge_of_last h, edge_raw, BitVec.toNat_add, BitVec.reduceToNat]
  omega

/-- Settles O11: both verdicts are `reached` of 64-bit phases, which is the order modulo 2^64 in either direction. -/
theorem phaseOrderWraps : Obligations.PhaseOrderWraps := by
  refine ⟨fun p t => ⟨psRaw_lt p t, psPhase_lt p t⟩, fun t p h => countEdge_count_wraps h, ?_, ?_, ?_,
    fun d p hp hdir => pvBefore_increasing_iff hp hdir⟩
  · rintro s v _ _ hv rfl rfl
    constructor
    · intro hdir
      rw [pvReached_iff hv, hdir, reached_increasing_iff (pvPhase_lt v)]
    · intro hdir
      rw [pvReached_iff hv, hdir, reached_decreasing_iff (matchPhase_lt _ _ _)]
  · intro s v hv
    constructor
    · intro hdir
      rw [pvPassed_iff hv, hdir, reached_increasing_iff (pvPhase_lt v)]
    · intro hdir
      rw [pvPassed_iff hv, hdir, reached_decreasing_iff (phaseAt_lt _ _)]
  · rintro s v _ hv hdir rfl hahead hne
    have hnot := not_reached_of_ahead (matchPhase_lt _ _ _) (pvPhase_lt v) hahead hne
    rw [← Bool.not_eq_true, pvReached_iff hv, hdir, hnot]
    exact fun h => Bool.false_ne_true h.2

/-! The interpolated fraction (R41–R44). -/

theorem psInterpValid_iff (p : PhaseSource) :
    psInterpValid p = true ↔ psType p.cfg ≠ 0 ∧ 2 ^ psInterpLog2 p.cfg + 1 ≤ p.edges.toNat := by
  simp only [psInterpValid, Bool.and_eq_true, bne_iff_ne, decide_eq_true_eq]
  rfl

theorem psInterp_of_not_valid {p : PhaseSource} {t : Nat} (h : psInterpValid p = false) : psInterp p t = 0 := by
  simp [psInterp, h]

theorem psRaw_of_interp_zero {p : PhaseSource} {t : Nat} (h : psInterp p t = 0) : psRaw p t = p.raw.toNat := by
  have := p.raw.isLt
  simp only [psRaw, h]
  split <;> omega

theorem satInc_toNat_le {w : Nat} (c : BitVec w) : (satInc c).toNat ≤ c.toNat + 1 := by
  unfold satInc
  split
  · omega
  · have hone : (1 : BitVec w).toNat ≤ 1 := Nat.mod_le _ _
    rw [BitVec.toNat_add]
    exact Nat.le_trans (Nat.mod_le _ _) (Nat.add_le_add_left hone _)

/-- Settles O12: an edge adds at most one to the count of edges that interp_valid asks for. -/
theorem fractionNeedsEdges : Obligations.FractionNeedsEdges := by
  refine ⟨fun p h => (psInterpValid_iff p).1 h, fun p t h => ?_, fun t raw p hfew _ => ?_⟩
  · have hzero := psInterp_of_not_valid (t := t) h
    exact ⟨hzero, psRaw_of_interp_zero hzero⟩
  · rw [← Bool.not_eq_true, psInterpValid_iff, edge_cfg, edge_edges]
    have := satInc_toNat_le p.edges
    omega

/-- With enough intervals the period estimate is their mean (R41). -/
theorem psPeriod_of_enough {p : PhaseSource} (h : 2 ^ psInterpLog2 p.cfg ≤ p.intervals.length) :
    psPeriod p = (p.intervals.take (2 ^ psInterpLog2 p.cfg)).sum / 2 ^ psInterpLog2 p.cfg := by
  simp only [psPeriod, if_pos h, List.sum_eq_foldl]

/-- A source that interpolates and is neither QUAD nor SERIAL_ENC shows the fraction of R42. -/
theorem psInterp_of_valid {p : PhaseSource} {t : Nat} (hv : psInterpValid p = true) (h2 : psType p.cfg ≠ 2)
    (h3 : psType p.cfg ≠ 3) (hP : psPeriod p ≠ 0) :
    psInterp p t = min 0xFFFF ((t - p.stamp) * 65536 / psPeriod p) := by
  simp [psInterp, hv, h2, h3, psF, hP]

/-- Settles O13: the fraction stays below 2^16, so it never carries into the count. -/
theorem fractionFollowsPeriod : Obligations.FractionFollowsPeriod := by
  intro p t hv h2 h3 hup henough hP hwhole
  have hraw := p.raw.isLt
  have hf : psInterp p t ≤ 0xFFFF := psInterp_of_valid hv h2 h3 hP ▸ Nat.min_le_left _ _
  have hsum : psRaw p t = p.raw.toNat + psInterp p t := by
    simp only [psRaw, hup, Bool.false_eq_true, if_false]
    omega
  refine ⟨psPeriod_of_enough henough, by omega, ?_⟩
  rw [← psInterp_of_valid hv h2 h3 hP]
  omega

/-! One source changes, or none (R46). -/

theorem getPs_of_getElem? {s : State} {n : Nat} {p : PhaseSource} (h : s.phase.sources[n]? = some p) : getPs s n = p := by
  simp [getPs, h]

theorem carryEdge_self (l : List PhaseSource) (b : Nat × Nat × PhaseSource) : carryEdge l l b = b := by
  simp [carryEdge]

theorem setSources_self (s : State) : setSources s s.phase.sources = s := by
  have h : carryEdge s.phase.sources s.phase.sources = id := funext (carryEdge_self _)
  simp [setSources, h]

/-- Updates that agree on the source itself leave the same sources. -/
theorem modify_congr_at {α : Type} {l : List α} {n : Nat} {a : α} {f g : α → α} (h : l[n]? = some a) (hfg : f a = g a) :
    l.modify n f = l.modify n g := by
  refine List.ext_getElem? fun m => ?_
  by_cases hm : n = m
  · rw [← hm, List.getElem?_modify_eq, List.getElem?_modify_eq, h]
    exact congrArg some hfg
  · rw [List.getElem?_modify_ne _ _ hm, List.getElem?_modify_ne _ _ hm]

theorem modPs_congr {s : State} {n : Nat} {p : PhaseSource} {f g : PhaseSource → PhaseSource}
    (h : s.phase.sources[n]? = some p) (hfg : f p = g p) : modPs s n f = modPs s n g := by
  rw [modPs, modPs, modify_congr_at h hfg]

theorem modPs_self {s : State} {n : Nat} {p : PhaseSource} {f : PhaseSource → PhaseSource}
    (h : s.phase.sources[n]? = some p) (hf : f p = p) : modPs s n f = s := by
  rw [modPs, modify_congr_at (g := id) h hf, List.modify_id, setSources_self]

/-! The events of a phase source (R33, R40, R49). -/

/-- What PHASE_EDGE does to its source, in the state that the clock has reached. -/
def sourceEdge (s : State) (p : PhaseSource) : PhaseSource :=
  match psType p.cfg with
  | 1 => countEdge (now s) p
  | 5 => edge (now s) (gptpRaw s p.cfg) p
  | 6 => edge (now s) (p.raw + 0x10000) p
  | 7 => edge (now s) (p.raw + 0x10000) p
  | 8 => countEdge (now s) p
  | _ => p

theorem execPhaseEdge_eq (t n : Nat) (s : State) :
    execPhaseEdge t n s = .next (modPs (advance s t) n (sourceEdge (advance s t))) := rfl

/-- PHASE_EDGE, by what its one source becomes. -/
theorem execPhaseEdge_at {t n : Nat} {s : State} {p : PhaseSource} {f : PhaseSource → PhaseSource}
    (h : (advance s t).phase.sources[n]? = some p) (hf : sourceEdge (advance s t) p = f p) :
    execPhaseEdge t n s = .next (modPs (advance s t) n f) := by
  rw [execPhaseEdge_eq, modPs_congr h hf]

theorem sourceEdge_counting {s : State} {p : PhaseSource} (h : psType p.cfg = 1 ∨ psType p.cfg = 8) :
    sourceEdge s p = countEdge (now s) p := by
  rcases h with h | h <;> simp only [sourceEdge, h]

theorem sourceEdge_frame {s : State} {p : PhaseSource} (h : psType p.cfg = 6 ∨ psType p.cfg = 7) :
    sourceEdge s p = edge (now s) (p.raw + 0x10000) p := by
  rcases h with h | h <;> simp only [sourceEdge, h]

theorem sourceEdge_gptp {s : State} {p : PhaseSource} (h : psType p.cfg = 5) :
    sourceEdge s p = edge (now s) (gptpRaw s p.cfg) p := by
  simp only [sourceEdge, h]

/-- OFF, QUAD, SERIAL_ENC and MOTION_CYCLE sources have no edge of this event. -/
theorem sourceEdge_other {s : State} {p : PhaseSource}
    (h : psType p.cfg = 0 ∨ psType p.cfg = 2 ∨ psType p.cfg = 3 ∨ psType p.cfg = 4) : sourceEdge s p = p := by
  rcases h with h | h | h | h <;> simp only [sourceEdge, h]

/-- A pulse away from a multiple of counts_per_rev is an index error of a LIDAR_AZ source (R40). -/
theorem execLidarIndexPulse_away {t n : Nat} {s : State} {p : PhaseSource} (h : (advance s t).phase.sources[n]? = some p)
    (hp : psType p.cfg = 8 ∧ p.raw.toNat / 65536 % max 1 (psParam p.cfg % 2 ^ 24) ≠ 0) :
    execLidarIndexPulse t n s = .next (modPs (advance s t) n (fun p => { p with indexErr := satInc p.indexErr })) := by
  rw [execLidarIndexPulse, event_next]
  congr 1
  exact modPs_congr h (if_pos hp)

theorem execLidarIndexPulse_home {t n : Nat} {s : State} {p : PhaseSource} (h : (advance s t).phase.sources[n]? = some p)
    (hp : ¬ (psType p.cfg = 8 ∧ p.raw.toNat / 65536 % max 1 (psParam p.cfg % 2 ^ 24) ≠ 0)) :
    execLidarIndexPulse t n s = .next (advance s t) := by
  rw [execLidarIndexPulse, event_next]
  congr 1
  exact modPs_self h (if_neg hp)

/-- Whether a source that interpolates has had no edge for stall_periods × P at the present tick, measured from its edge stamp (log
entry 51), and is not yet declared stalled (R49). -/
def stallDue (s : State) (p : PhaseSource) : Bool :=
  psInterpValid p && !p.stalled && decide (psStallPeriods p.cfg * psPeriod p ≤ now s - p.stamp)

/-- The declaration of a stall: the source's status and its FAULT record (R49). It is what `execPhaseSourceStall` does first to a
source that is due (`execPhaseSourceStall_eq`). -/
def declareStall (s : State) (n : Nat) : State :=
  huskFault (modPs s n (fun p => { p with stalled := true, stallCount := satInc p.stallCount })) (srcPs n) 6 n 8

theorem declareStall_sourceReferenced (s : State) (n m cls : Nat) :
    sourceReferenced (declareStall s n) m cls = sourceReferenced s m cls := by
  simp [sourceReferenced, plateSlots, declareStall]

theorem stallDue_iff (s : State) (p : PhaseSource) :
    stallDue s p = true ↔
      psInterpValid p = true ∧ p.stalled = false ∧ psStallPeriods p.cfg * psPeriod p ≤ now s - p.stamp := by
  simp only [stallDue, Bool.and_eq_true, Bool.not_eq_true', decide_eq_true_eq, and_assoc]

/-- PHASE_SOURCE_STALL: what a source that is due does, and that one which is not does nothing (R49–R51). -/
theorem execPhaseSourceStall_eq {t n : Nat} {s : State} {p : PhaseSource} (h : (advance s t).phase.sources[n]? = some p) :
    execPhaseSourceStall t n s = .next (
      if stallDue (advance s t) p then
        if sourceReferenced (advance s t) n 2 then
          safeTrigger (huskRequest (declareStall (advance s t) n) 0x0E (srcPs n) (leBytes 1 n ++ leBytes 1 4)) srcShell
        else declareStall (advance s t) n
      else advance s t) := by
  rw [← declareStall_sourceReferenced (advance s t) n, ← getPs_of_getElem? h]
  rfl

/-- Settles O25: each clause is one branch of its event's meaning, or one field of `edge`. -/
theorem phaseEdgesMoveSources : Obligations.PhaseEdgesMoveSources := by
  refine ⟨⟨?_, ?_, ?_, ?_, ?_, ?_, ?_, ?_, ?_⟩, fun t raw p => ?_⟩
  · rintro t n s _ p rfl h hty
    refine ⟨fun hdiv => ?_, fun hdiv => ?_⟩
    · exact execPhaseEdge_at h ((sourceEdge_counting hty).trans (countEdge_of_not_last hdiv))
    · exact execPhaseEdge_at h ((sourceEdge_counting hty).trans (countEdge_of_last hdiv))
  · rintro t n s _ p rfl h hty
    exact execPhaseEdge_at h (sourceEdge_frame hty)
  · rintro t n s _ p rfl h hty
    exact execPhaseEdge_at h (sourceEdge_gptp hty)
  · rintro t n s _ p rfl h hty haway
    exact execLidarIndexPulse_away h ⟨hty, haway⟩
  · rintro t n s _ p rfl h hv hst hlate href
    refine (execPhaseSourceStall_eq h).trans ?_
    rw [if_pos ((stallDue_iff _ p).2 ⟨hv, hst, hlate⟩), href]
    rfl
  · rintro t n s _ p _ rfl h hv hst hlate href rfl
    refine (execPhaseSourceStall_eq h).trans ?_
    rw [if_pos ((stallDue_iff _ p).2 ⟨hv, hst, hlate⟩), href]
    rfl
  · rintro t n s _ p rfl h hnot
    refine (execPhaseSourceStall_eq h).trans ?_
    rw [if_neg]
    intro hdue
    obtain ⟨hv, hst, hlate⟩ := (stallDue_iff _ p).1 hdue
    rcases hnot with hnot | hnot | hnot
    · exact absurd hv (by simp [hnot])
    · exact absurd hst (by simp [hnot])
    · exact absurd hlate (Nat.not_le.2 hnot)
  · rintro t n s _ p rfl h hnot
    refine execLidarIndexPulse_home h ?_
    rintro ⟨hty, haway⟩
    exact hnot.elim (absurd hty) haway
  · rintro t n s _ p rfl h hty
    refine (execPhaseEdge_eq t n s).trans ?_
    rw [modPs_self h (sourceEdge_other hty)]
  · exact ⟨rfl, rfl, rfl, edge_intervals_length t raw p, edge_intervals_next, edge_intervals_first, edge_down_iff,
      edge_down_eq_false, rfl, rfl, rfl, rfl⟩

end Sys2Proof.Proofs
end

section
/-!
Proofs of the statement about the instants of an etch (O24): its arm, its abort, its commit, the deadline of a fallback, and the
deadline of an outstanding command.
-/
namespace Sys2Proof.Proofs
open Sys2Proof Sys2Proof.Machine Sys2Proof.Laws

/-! The arm instant (R96 rows 11–14, R97). -/

/-- Whether an armed etch other than the fallback of `e` writes an object of `e` at the commit point of `e` (R105, R113). -/
def armConflicts (s : State) (e : Etch) : Prop :=
  ∃ x ∈ s.etch.etches, x.id ≠ e.id ∧ x.st = .armed ∧ x.hdr.commitPoint = e.hdr.commitPoint
    ∧ ¬ (e.hdr.kind = 2 ∧ x.id = e.hdr.fallbackId) ∧ ∃ p ∈ e.acts, ∃ q ∈ x.acts, actObject p = actObject q

/-- What an arm asks of a primary's fallback: it is ARMED, and its arm_deadline has still to come (R112, R114). -/
def fallbackReady (s : State) (e : Etch) : Prop :=
  e.hdr.kind = 2 → ∃ f, findEtch s e.hdr.fallbackId = some f ∧ f.st = .armed ∧ f.deadlinePassed = false
    ∧ deadlineArrived s f.hdr.armDeadline = false

/-- Rows 11 to 14 let a STAGED etch pass whose fallback is ready, whose point is ahead and which conflicts with none. -/
theorem armInstantStatus_eq_none {s : State} {e : Etch} (hst : e.st = .staged) (hfb : fallbackReady s e)
    (hpassed : pvPassed s e.hdr.commitPoint = false) (hreached : pvReached s e.hdr.commitPoint = false)
    (hfree : ¬ armConflicts s e) : armInstantStatus s e = none := by
  have hany : (s.etch.etches.any fun a => a.id != e.id && a.st == .armed && a.hdr.commitPoint == e.hdr.commitPoint
      && !(e.hdr.kind == 2 && a.id == e.hdr.fallbackId)
      && e.acts.any (fun x => a.acts.any (fun y => actObject x == actObject y))) = false := by
    rw [← Bool.not_eq_true]
    intro h
    obtain ⟨x, hx, h⟩ := List.any_eq_true.1 h
    simp only [Bool.and_eq_true, bne_iff_ne, beq_iff_eq, Bool.not_eq_true', List.any_eq_true, and_assoc] at h
    obtain ⟨hid, harmed, hpoint, hother, hobj⟩ := h
    refine hfree ⟨x, hx, hid, harmed, hpoint, ?_, hobj⟩
    rintro ⟨hkind, hfall⟩
    simp [hkind, hfall] at hother
  unfold armInstantStatus
  by_cases hkind : e.hdr.kind = 2
  · obtain ⟨f, hf, harmed, hopen, hahead⟩ := hfb hkind
    simp only [hany]
    simp [hst, hf, harmed, hopen, hahead, hpassed, hreached]
  · simp only [hany]
    simp [hst, hkind, hpassed, hreached]

@[simp] theorem armEtch_phase (s : State) (e : Etch) (k : Option CmdKey) (bs : List Bytes) (rs : List (Nat × Nat)) :
    (armEtch s e k bs rs).phase = s.phase := by
  unfold armEtch
  split <;> rfl

/-- The arm of a command, not of a batch, ends with the command's completion. -/
theorem armOver_of_command {s : State} {a : Arming} {st : Status} {id : Option Nat} (h : a.batch = none) :
    armOver s a st id = finish s a.cmd
      { status := st, stamp := now s, release := id, result := if a.staged then BitVec.ofNat 64 a.etch else 0 } := by
  simp only [armOver, h]

/-- An arm leaves the list of those under way at its instant. -/
def dropArming (s : State) (a : Arming) (id : Nat) : State :=
  { s with etch := { s.etch with arming := s.etch.arming.filter (fun b => b.cmd.key != a.cmd.key || b.etch != id) } }

theorem execEtchArmInstant_passes {t id : Nat} {s : State} {a : Arming} {e : Etch}
    (ha : (advance s t).etch.arming.find? (fun a => a.etch == id) = some a)
    (he : findEtch (dropArming (advance s t) a id) id = some e)
    (hpass : armInstantStatus (dropArming (advance s t) a id) e = none) :
    execEtchArmInstant t id s = .next (armOver (armEtch (dropArming (advance s t) a id) e
      (if a.batch.isSome then none else some a.cmd.key) a.payloads a.records) a stOK none) := by
  unfold dropArming at he hpass
  simp only [execEtchArmInstant, event_next, ha, he, hpass]
  rfl

/-! The abort instant (R116–R121). -/

/-- An abort leaves the list of those that wait at its instant (R116). -/
def dropAbort (s : State) (k : CmdKey) : State :=
  { s with etch := { s.etch with aborts := s.etch.aborts.filter (fun b => b.cmd.key != k) } }

/-- What an abort of etch `id` does at its instant, once the commits before it have been made (R116, R117). -/
def abortOfEtch (s : State) (c : Cmd) (id : Nat) : State :=
  match findEtch s id with
  | none => done s c stALREADY_DONE
  | some e => match etchAbortRefusal s e with
    | some st => done s c st
    | none => done (abortEtch s e) c stOK

theorem abortOfEtch_gone {s : State} {c : Cmd} {id : Nat} (h : findEtch s id = none) :
    abortOfEtch s c id = done s c stALREADY_DONE := by
  simp only [abortOfEtch, h]

theorem abortOfEtch_refused {s : State} {c : Cmd} {id : Nat} {e : Etch} {st : Status} (h : findEtch s id = some e)
    (hr : etchAbortRefusal s e = some st) : abortOfEtch s c id = done s c st := by
  simp only [abortOfEtch, h, hr]

theorem abortOfEtch_taken {s : State} {c : Cmd} {id : Nat} {e : Etch} (h : findEtch s id = some e)
    (hr : etchAbortRefusal s e = none) : abortOfEtch s c id = done (abortEtch s e) c stOK := by
  simp only [abortOfEtch, h, hr]

/-- A STAGED etch, an ARMED normal one and an ARMED primary with an open fallback may be aborted (R117, R120). -/
theorem etchAbortRefusal_eq_none {s : State} {e : Etch}
    (h : e.st = .staged ∨ (e.st = .armed ∧ e.hdr.kind = 0) ∨ (e.st = .armed ∧ e.hdr.kind = 2 ∧ fallbackOpen s e = true)) :
    etchAbortRefusal s e = none := by
  rcases h with hst | ⟨hst, hkind⟩ | ⟨hst, hkind, hopen⟩
  · simp [etchAbortRefusal, hst]
  · simp [etchAbortRefusal, hst, hkind]
  · simp [etchAbortRefusal, hst, hkind, hopen]

/-- A COMMITTED or EXPIRED etch is no longer there to abort (R755). -/
theorem etchAbortRefusal_over {s : State} {e : Etch} (h : e.st = .committed ∨ e.st = .expired) :
    etchAbortRefusal s e = some stALREADY_DONE := by
  rcases h with hst | hst <;> simp only [etchAbortRefusal, hst]

/-- An abort of an etch comes after every commit that has matched (R116). -/
theorem execAbortInstant_etch {t id : Nat} {k : CmdKey} {s : State} {a : PendingAbort}
    (ha : (advance s t).etch.aborts.find? (fun a => a.cmd.key == k) = some a) (htarget : a.target = .etch id) :
    execAbortInstant t k s =
      .next (abortOfEtch (dropAbort (commitDue (advance s t) (fun _ => true)) k) a.cmd id) := by
  simp only [execAbortInstant, event_next, ha, htarget]
  rfl

/-- An abort of a command comes after its deadline, where that has arrived, and stops a command that may be aborted (R121). -/
theorem execAbortInstant_command {t : Nat} {k q : CmdKey} {s : State} {a : PendingAbort}
    (ha : (advance s t).etch.aborts.find? (fun a => a.cmd.key == k) = some a) (htarget : a.target = .command q)
    (hr : abortRefusal (dropAbort (deadlineFirst (advance s t) q) k) q = none) :
    execAbortInstant t k s =
      .next (done (stopCommand (dropAbort (deadlineFirst (advance s t) q) k) q) a.cmd stOK) := by
  unfold dropAbort at hr
  simp only [execAbortInstant, event_next, ha, htarget, hr]
  rfl

/-! Commits (R95, R100, R104, R115, R123). -/

theorem execEtchCommit_not_reached {t : Nat} {point : PhaseValue} {s : State} (h : pvReached (advance s t) point = false) :
    execEtchCommit t point s = .next (advance s t) := by
  simp [execEtchCommit, event_next, h]

theorem execEtchCommit_reached {t : Nat} {point : PhaseValue} {s : State} (h : pvReached (advance s t) point = true) :
    execEtchCommit t point s = .next (commitAt (advance s t) point) := by
  simp [execEtchCommit, event_next, h]

/-- Where one armed etch is due, it alone commits. -/
theorem commitDue_single {s : State} {p : Etch → Bool} {e : Etch}
    (hdue : s.etch.etches.filter (fun e => e.st == .armed && pvReached s e.hdr.commitPoint && p e) = [e])
    (he : findEtch s e.id = some e) : commitDue s p = commitEtch s e := by
  have hmem : e ∈ s.etch.etches.filter (fun e => e.st == .armed && pvReached s e.hdr.commitPoint && p e) :=
    hdue ▸ List.mem_singleton_self e
  obtain ⟨⟨harmed, -⟩, -⟩ : (e.st = .armed ∧ pvReached s e.hdr.commitPoint = true) ∧ p e = true := by
    simpa only [Bool.and_eq_true, beq_iff_eq] using (List.mem_filter.1 hmem).2
  simp only [commitDue, hdue, sortBy, insertBy, List.foldl_cons, List.foldl_nil, he, harmed, if_true]

/-- The effects of an etch's actions at its commit, the Plate swap before the others (R100; log entry 115). -/
def commitActions (s : State) (e : Etch) : State :=
  (e.acts.zip e.payloads).foldl (fun s p => applyAction s e (pvSrc e.hdr.commitPoint) p.1 p.2)
    (match e.acts.zip e.payloads |>.find? (fun p => p.1.typ == 4) with
    | some p => swapCommit s (swapParts e.acts) p.2 (actValue p.1) (pvPhase e.hdr.commitPoint / 65536)
    | none => s)

/-- The effects of an etch's one action, which is no Plate swap, are that action's. -/
theorem commitActions_single {s : State} {e : Etch} {x : EtchAction} {b : Bytes} (hacts : e.acts = [x])
    (hbytes : e.payloads = [b]) (hx : x.typ ≠ 4) :
    commitActions s e = applyAction s e (pvSrc e.hdr.commitPoint) x b := by
  simp [commitActions, hacts, hbytes, hx]

/-- A commit stamps ETC_LAST_COMMIT with the time `t` and enters COMMITTED (R94, R123). -/
def stampCommit (s : State) (e : Etch) (t : Nat) : State :=
  setEtch { s with etch := { s.etch with lastCommit := t } } e.id .committed

/-- What a normal etch's commit writes: its actions' effects, the stamp, the Husk record that it asks for, and then its completion
when it notifies, or its release (R95, R115, R123, R611). -/
theorem commitEtch_normal {s : State} {e : Etch} (hkind : e.hdr.kind = 0) :
    commitEtch s e =
      let w := stampCommit (commitActions s e) e (now s)
      let x := if e.hdr.husk then huskEtch w e (pvSrc e.hdr.commitPoint) else w
      if e.hdr.notify then etchComplete x e stOK (now s) else releaseEtch x e.id := by
  have hprimary : e.hdr.kind ≠ 1 := by omega
  unfold commitEtch
  exact if_neg hprimary

/-! The arm_deadline of a fallback (R114). -/

theorem execFallbackArmDeadline_arrived {t id : Nat} {s : State} {e : Etch} (he : findEtch (advance s t) id = some e)
    (hkind : e.hdr.kind = 1) (hopen : e.deadlinePassed = false) (hst : e.st = .armed ∨ e.st = .replaced)
    (hdue : deadlineArrived (advance s t) e.hdr.armDeadline = true) :
    execFallbackArmDeadline t id s = .next (deadlineMatched (advance s t) e) := by
  rcases hst with hst | hst <;> simp [execFallbackArmDeadline, event_next, he, hkind, hopen, hst, hdue]

/-- An ARMED fallback without plans, where no batch runs, only records the match. -/
theorem deadlineMatched_armed {s : State} {e : Etch} (hst : e.st = .armed) (hplans : e.acts.all (fun x => x.cls != 0x10) = true)
    (hbatches : s.solver.batches = []) :
    deadlineMatched s e = modEtch s e.id (fun x => { x with deadlinePassed := true }) := by
  have hnone : e.acts.filter (fun x => x.cls == 0x10) = [] := by
    refine List.filter_eq_nil_iff.2 fun x hx h => ?_
    have := List.all_eq_true.1 hplans x hx
    simp only [bne_iff_ne] at this
    exact this (beq_iff_eq.1 h)
  simp [deadlineMatched, hst, hnone, hbatches]

/-! The deadline of a command (R140). -/

theorem execDeadlineMatch_arrived {t : Nat} {k : CmdKey} {s : State} {o : Outstanding} {d : PhaseValue}
    (ho : findOut (advance s t) k = some o) (hd : o.cmd.deadline = some d) (hopen : o.done = false)
    (hdue : deadlineArrived (advance s t) d = true) :
    execDeadlineMatch t k s = .next (deadlineMet (advance s t) o) := by
  simp [execDeadlineMatch, event_next, ho, hd, hopen, hdue]

theorem deadlineMet_timed {s : State} {o : Outstanding} (h : timedWork s o.cmd.key = true) :
    deadlineMet s o = missRoutes (missSolves s (solveOf o.cmd.key) (now s)) o.cmd.key := if_pos h

theorem deadlineMet_admitted {s : State} {o : Outstanding} (h : timedWork s o.cmd.key = false)
    (hjoin : admittedJoin s o.cmd.key = true) : deadlineMet s o = s := by
  simp [deadlineMet, h, hjoin]

theorem deadlineMet_unstarted {s : State} {o : Outstanding} (h : timedWork s o.cmd.key = false)
    (hjoin : admittedJoin s o.cmd.key = false)
    (hnone : s.cmds.transfers.find? (fun x => x.cmd.key == o.cmd.key) = none) :
    deadlineMet s o = missUnstarted (stopWork s o.cmd.key) o.cmd := by
  simp [deadlineMet, h, hjoin, hnone]

theorem deadlineMet_transfer {s : State} {o : Outstanding} {x : Transfer} (h : timedWork s o.cmd.key = false)
    (hjoin : admittedJoin s o.cmd.key = false)
    (hx : s.cmds.transfers.find? (fun x => x.cmd.key == o.cmd.key) = some x) : deadlineMet s o = missTransfer s x := by
  simp [deadlineMet, h, hjoin, hx]

/-- A transfer that is not already cut short ends with the bytes that have landed (R153). -/
theorem missTransfer_not_cut {s : State} {x : Transfer} (h : x.cut = none) :
    missTransfer s x = endEarly (charge s (sessionOf s x.cmd) (fun n => { n with deadlineMisses := satInc n.deadlineMisses }))
      x stDEADLINE_MISS x.length := by
  simp [missTransfer, h]

/-- Settles O24: each clause is one branch of its event's meaning, at the state that the clock has reached; the last one is what a
normal etch's commit writes, for an etch of one action. -/
theorem etchInstantsTakeEffect : Obligations.EtchInstantsTakeEffect := by
  refine ⟨⟨?_, ?_, ?_, ?_, ?_, ?_, ?_⟩, ?_⟩
  · rintro t id s _ a e _ rfl ha rfl he hst hfb hpassed hreached hfree
    have hnone : ¬ armConflicts (dropArming (advance s t) a id) e := by
      rintro ⟨x, hx, hid, harmed, hpoint, hother, p, hp, q, hq, hobj⟩
      exact hfree x hx hid harmed hpoint hother p hp q hq hobj
    have harm := execEtchArmInstant_passes ha he (armInstantStatus_eq_none hst hfb hpassed hreached hnone)
    refine ⟨harm, fun hbatch => harm.trans ?_⟩
    rw [armOver_of_command hbatch, now, armEtch_phase, hbatch]
    rfl
  · rintro t k s _ a id _ _ rfl ha htarget rfl rfl
    have habort := execAbortInstant_etch ha htarget
    refine ⟨fun hgone => ?_, fun e he => ⟨fun hopen => ?_, fun hover => ?_⟩⟩
    · exact habort.trans (congrArg Host.Outcome.next (abortOfEtch_gone hgone))
    · exact habort.trans (congrArg Host.Outcome.next (abortOfEtch_taken he (etchAbortRefusal_eq_none hopen)))
    · exact habort.trans (congrArg Host.Outcome.next (abortOfEtch_refused he (etchAbortRefusal_over hover)))
  · rintro t k s _ a q _ _ rfl ha htarget rfl rfl hr
    exact execAbortInstant_command ha htarget hr
  · rintro t point s _ rfl
    exact ⟨execEtchCommit_not_reached, execEtchCommit_reached⟩
  · rintro t point s _ e rfl hreached hdue he
    exact (execEtchCommit_reached hreached).trans (congrArg Host.Outcome.next (commitDue_single hdue he))
  · rintro t id s _ e rfl he hkind hopen hst hdue
    have hmatch := execFallbackArmDeadline_arrived he hkind hopen hst hdue
    exact ⟨hmatch, fun harmed hplans hbatches =>
      hmatch.trans (congrArg Host.Outcome.next (deadlineMatched_armed harmed hplans hbatches))⟩
  · rintro t k s _ o d rfl ho hd hopen hdue
    have hmet := execDeadlineMatch_arrived ho hd hopen hdue
    refine ⟨fun htimed => ?_, fun hfree hjoin => ?_, fun hfree hjoin hnone => ?_, fun x hfree hjoin hx hcut => ?_⟩
    · exact hmet.trans (congrArg Host.Outcome.next (deadlineMet_timed htimed))
    · exact hmet.trans (congrArg Host.Outcome.next (deadlineMet_admitted hfree hjoin))
    · exact hmet.trans (congrArg Host.Outcome.next (deadlineMet_unstarted hfree hjoin hnone))
    · exact hmet.trans (congrArg Host.Outcome.next ((deadlineMet_transfer hfree hjoin hx).trans (missTransfer_not_cut hcut)))
  · intro v e x b hkind hhusk hnotify hacts hbytes hpower
    refine ⟨_, rfl, ?_⟩
    have hx : x.typ ≠ 4 := by omega
    simp only [commitEtch_normal hkind, hhusk, hnotify, commitActions_single hacts hbytes hx, Bool.false_eq_true, if_false]
    rfl

end Sys2Proof.Proofs
end

section
/-!
Proofs of the statements about the framing of commands: that decoding inverts encoding (O3), that every command answers a next
state (O6), and where a completion goes (O10).
-/
namespace Sys2Proof.Proofs
open Sys2Proof Sys2Proof.Machine Sys2Proof.Laws

/-! Words and their fields (R15, R139, R161). -/

theorem fld_ofNat (v hi lo : Nat) : fld (BitVec.ofNat 32 v) hi lo = v % 2 ^ 32 / 2 ^ lo % 2 ^ (hi + 1 - lo) := by
  rw [fld, BitVec.toNat_ofNat]

theorem wbit_ofNat (v i : Nat) : wbit (BitVec.ofNat 32 v) i = decide (v % 2 ^ 32 / 2 ^ i % 2 = 1) := by
  rw [wbit, BitVec.getLsbD, BitVec.toNat_ofNat, Nat.testBit_eq_decide_div_mod_eq]

theorem wat_cons_zero (w : Word) (ws : List Word) : wat (w :: ws) 0 = w := rfl
theorem wat_cons_succ (w : Word) (ws : List Word) (i : Nat) : wat (w :: ws) (i + 1) = wat ws i := rfl

theorem loWord_hiWord (d : DWord) : BitVec.ofNat 64 ((loWord d).toNat + 2 ^ 32 * (hiWord d).toNat) = d := by
  apply BitVec.eq_of_toNat_eq
  simp only [loWord, hiWord, packed, BitVec.toNat_ofNat]
  omega

theorem field_of_packed {v hi lo n : Nat} {x : BitVec n} (h : v % 2 ^ 32 / 2 ^ lo % 2 ^ (hi + 1 - lo) = x.toNat) :
    BitVec.ofNat n (fld (packed v) hi lo) = x := by
  rw [packed, fld_ofNat, h, BitVec.ofNat_toNat, BitVec.setWidth_eq]

theorem bit_of_packed {v i : Nat} {b : Bool} (h : v % 2 ^ 32 / 2 ^ i % 2 = b.toNat) : wbit (packed v) i = b := by
  rw [packed, wbit_ofNat, h]
  cases b <;> rfl

/-- An operand that has its word to itself lies at its low end. -/
theorem field_of_packed_toNat {hi n : Nat} (x : BitVec n) (hn : n = hi + 1) (h32 : n ≤ 32) :
    BitVec.ofNat n (fld (packed x.toNat) hi 0) = x := by
  subst hn
  have hword : x.toNat < 2 ^ 32 := Nat.lt_of_lt_of_le x.isLt (Nat.pow_le_pow_right (by decide) h32)
  refine field_of_packed ?_
  rw [Nat.mod_eq_of_lt hword, Nat.pow_zero, Nat.div_one]
  exact Nat.mod_eq_of_lt x.isLt

/-- The words of a list of seven are the list: the tokens of SEQ_DRAFT (R481). -/
theorem wat_seven {l : List Word} (h : l.length = 7) :
    [wat l 0, wat l 1, wat l 2, wat l 3, wat l 4, wat l 5, wat l 6] = l := by
  match l, h with
  | [_, _, _, _, _, _, _], _ => rfl

/-! The submission entry (R139). -/

theorem entryOpcode_entry {c : Cmd} {op : Nat} {params ws : List Word} (h : entry c op params = some ws) (hop : op < 2 ^ 16) :
    entryOpcode ws = op := by
  cases h
  simp only [entryOpcode, List.cons_append, wat_cons_zero, packed, fld_ofNat]
  omega

theorem entry_framing {c : Cmd} {op : Nat} {params ws : List Word} (h : entry c op params = some ws) :
    entryId ws = c.key.id ∧ entryQuiet ws = c.quiet ∧ entryExpert ws = c.expert
    ∧ entryHasDeadline ws = c.deadline.isSome := by
  cases h
  have hquiet := c.quiet.toNat_le
  have hexpert := c.expert.toNat_le
  have hdeadline := c.deadline.isSome.toNat_le
  simp only [entryId, entryQuiet, entryExpert, entryHasDeadline, List.cons_append, wat_cons_zero, wat_cons_succ]
  exact ⟨field_of_packed (by omega), bit_of_packed (by omega), bit_of_packed (by omega), bit_of_packed (by omega)⟩

theorem entryCmd_entry {c : Cmd} {op : Nat} {params ws : List Word} (h : entry c op params = some ws) :
    entryCmd c.key.src ws = c := by
  obtain ⟨hid, hquiet, hexpert, hdeadline⟩ := entry_framing h
  simp only [entryCmd, hid, hquiet, hexpert, hdeadline]
  cases h
  obtain ⟨key, quiet, expert, deadline⟩ := c
  cases deadline <;> rfl

/-- The parameters stand from word 5 on, with 0 behind them. -/
theorem wat_entry {c : Cmd} {op : Nat} {params ws : List Word} (h : entry c op params = some ws) (i : Nat) (hi : 5 ≤ i) :
    wat ws i = wat params (i - 5) := by
  cases h
  obtain ⟨j, rfl⟩ := Nat.exists_eq_add_of_le' hi
  change (params ++ List.replicate (11 - params.length) 0).getD j 0 = params.getD j 0
  simp only [List.getD_eq_getElem?_getD]
  rcases Nat.lt_or_ge j params.length with hj | hj
  · rw [List.getElem?_append_left hj]
  · rw [List.getElem?_append_right hj, List.getElem?_eq_none hj, List.getElem?_replicate]
    split
    · rfl
    · rfl

/-- Settles O3: an entry's opcode selects the command that it spells, whose framing and whose operands are then read from the
words in which they stand; what remains are the words that several operands share. -/
theorem entryRoundTrip : Obligations.EntryRoundTrip := by
  intro i c ws hcmd hspelled hentry
  cases i
  -- an event is no command
  all_goals cases hcmd
  all_goals
    have hparam := wat_entry hentry
    unfold decodeEntry
    rw [entryOpcode_entry hentry (by decide), entryCmd_entry hentry]
    refine Option.some_inj.2 ?_
    simp only [hparam, opPair, dat, opField, Nat.reduceSub, Nat.reduceAdd, Nat.reduceLeDiff, wat_cons_zero, wat_cons_succ,
      loWord_hiWord, field_of_packed_toNat, stampOf]
  all_goals
    clear hentry hparam
    congr
  case mnetConfig => exact hspelled.symm
  case seqDraft.refl.e_tokens => exact wat_seven hspelled
  case createCq.refl.e_inDevice | createSq.refl.e_anyId | createSq.refl.e_inDevice | windowOpen.refl.e_host |
      windowOpen.refl.e_bar2 | windowOpen.refl.e_writable | seqJoin.refl.e_wait | safeStateRequest.refl.e_confirm |
      servoPairDrain.refl.e_retire | imprintConfig.refl.e_enable | peerWindowOpen.refl.e_writable |
      peerWindowOpen.refl.e_readable | canSend.refl.e_extended | canSend.refl.e_fd | canSend.refl.e_brs =>
    refine bit_of_packed ?_
    -- `omega` bounds the value of a bit vector, but not that of a `Bool`
    simp only [← BitVec.toNat_ofBool]
    omega
  all_goals
    refine field_of_packed ?_
    omega

/-! The answer of a command (R144). -/

/-- No arm of `exec` faults or is refused: each is an effect on the state, whatever the operands. -/
theorem exec_next (i : Instr) (s : State) : ∃ r, exec i s = .next r := by
  cases i
  all_goals exact ⟨_, rfl⟩

theorem exec_pending {i : Instr} {s r : State} (e : exec i s = .next r) : r.pending = s.pending := by
  by_cases hr : ∃ t c, i = .safetyReset t c
  · obtain ⟨t, c, rfl⟩ := hr
    obtain ⟨hpending, -, -, -, -⟩ := execSafetyReset_keeps e
    exact hpending
  · exact (exec_keeps (fun t c h => hr ⟨t, c, h⟩) e).pending

/-- Settles O6: every arm of `exec` answers a next state, and every arm, SAFETY_RESET among them, keeps the queue of waiting
commands. -/
theorem everyCommandCompletes : Obligations.EveryCommandCompletes := by
  intro i s
  obtain ⟨r, e⟩ := exec_next i s
  exact ⟨r, e, exec_pending e⟩

/-! The words of a completion (R142). -/

/-- Word 0 holds the phase tag, a reserved zero, the status and the command's id. -/
theorem completionWords_word0 (phase : Bool) (head : Nat) (x : Completion) :
    fld (wat (completionWords phase head x) 0) 31 31 = phase.toNat ∧ fld (wat (completionWords phase head x) 0) 30 24 = 0
    ∧ fld (wat (completionWords phase head x) 0) 23 16 = x.status.toNat
    ∧ fld (wat (completionWords phase head x) 0) 15 0 = x.cmdId.toNat := by
  simp only [completionWords, wat_cons_zero, fld_ofNat]
  cases phase <;> simp only [Bool.toNat, Bool.false_eq_true, if_true, if_false, cond] <;> omega

/-- Word 1 holds the kind and the queue. -/
theorem completionWords_word1 {phase : Bool} {head : Nat} {x : Completion} (hkind : x.kind = 0) (hsq : x.sq = 0) :
    wat (completionWords phase head x) 1 = 0 := by
  simp [completionWords, wat_cons_zero, wat_cons_succ, hkind, hsq]

/-- Word 2 holds the queue's head and the warn mask. -/
theorem completionWords_word2 (phase : Bool) (head : Nat) (x : Completion) :
    fld (wat (completionWords phase head x) 2) 15 0 = head % 2 ^ 16
    ∧ fld (wat (completionWords phase head x) 2) 31 16 = x.warn.toNat := by
  simp only [completionWords, wat_cons_zero, wat_cons_succ, fld_ofNat]
  omega

/-- Words 5 and 6 hold the result, low word first. -/
theorem completionWords_result (phase : Bool) (head : Nat) (x : Completion) :
    dat (completionWords phase head x) 5 = x.result.toNat := by
  simp only [dat, completionWords, wat_cons_zero, wat_cons_succ, BitVec.toNat_ofNat]
  omega

/-! What `finish` does with a completion (R139, R141, R144, R146, R147). -/

theorem finish_firmware {s : State} {c : Cmd} (r : Reply) (h : c.key.src = .firmware) : finish s c r = s := by
  simp only [finish, h]

theorem finish_of_not_open {s : State} {c : Cmd} (r : Reply) (h : isOpen s c.key = false) : finish s c r = s := by
  cases hsrc : c.key.src with
  | queue q => simp [finish, hsrc, h]
  | mailbox f => simp [finish, hsrc, h]
  | firmware => exact finish_firmware r hsrc

theorem isOpen_of_findOut {s : State} {k : CmdKey} {o : Outstanding} (h : findOut s k = some o) : isOpen s k = !o.done := by
  simp only [isOpen, h]

theorem exists_findOut_of_isOpen {s : State} {k : CmdKey} (h : isOpen s k = true) :
    ∃ o, findOut s k = some o ∧ o.done = false := by
  cases ho : findOut s k with
  | none => simp [isOpen, ho] at h
  | some o => exact ⟨o, rfl, by simpa [isOpen_of_findOut ho] using h⟩

/-- A reply after DEFERRED has kind 0x2, unless it has a kind of its own (R146). -/
def afterDeferred (o : Outstanding) (r : Reply) : Reply :=
  if o.deferred && r.kind == 0 then { r with kind := 2 } else r

/-- The kind is all that an earlier DEFERRED changes in a reply. -/
theorem afterDeferred_eq (o : Outstanding) (r : Reply) :
    afterDeferred o r = { r with kind := if o.deferred = true ∧ r.kind = 0 then 2 else r.kind } := by
  unfold afterDeferred
  by_cases h : o.deferred = true ∧ r.kind = 0
  · rw [if_pos (by simpa using h), if_pos h]
  · rw [if_neg (by simpa using h), if_neg h]

/-- On a queue, an outstanding command ends in silence when it is quiet and OK; otherwise its completion waits, behind its
imprints where it has some (R139, R144, R641). -/
theorem finish_queue {s : State} {c : Cmd} (r : Reply) {q : BitVec 18} {o : Outstanding} (hsrc : c.key.src = .queue q)
    (ho : findOut s c.key = some o) (hopen : o.done = false) :
    finish s c r =
      if c.quiet && (afterDeferred o r).status == stOK then dropOut s c.key
      else modOut (if imprintWaits s c.key then holdCompletion s c.key (replyEntry s c.key q (afterDeferred o r))
        else enqueue s q (replyEntry s c.key q (afterDeferred o r))) c.key
          (fun o' => { o' with done := (afterDeferred o r).last }) := by
  simp only [finish, hsrc, isOpen_of_findOut ho, hopen, ho]
  rfl

theorem finish_quiet {s : State} {c : Cmd} {r : Reply} {q : BitVec 18} (hsrc : c.key.src = .queue q)
    (h : isOpen s c.key = true) (hquiet : c.quiet = true) (hok : r.status = stOK) : finish s c r = dropOut s c.key := by
  obtain ⟨o, ho, hopen⟩ := exists_findOut_of_isOpen h
  rw [finish_queue r hsrc ho hopen, afterDeferred_eq, hquiet, hok]
  rfl

theorem finish_enqueues {s : State} {c : Cmd} {r : Reply} {q : BitVec 18} {o : Outstanding} {sq : SubQueue}
    (hsrc : c.key.src = .queue q) (ho : findOut s c.key = some o) (hopen : o.done = false)
    (hposts : c.quiet = true → r.status ≠ stOK) (himprint : imprintWaits s c.key = false) (hsq : findSq s q.toNat = some sq) :
    finish s c r =
      modOut (modCq s sq.cq (fun y => { y with waiting := y.waiting ++ [replyEntry s c.key q (afterDeferred o r)] })) c.key
        (fun y => { y with done := r.last }) := by
  have hnot : ¬ (c.quiet && r.status == stOK) = true := by simpa using hposts
  rw [finish_queue r hsrc ho hopen, afterDeferred_eq, if_neg hnot, himprint]
  simp only [enqueue, hsq]
  rfl

/-- The completion that a mailbox command's response words hold: kind and queue are 0 (R147). -/
def mailboxEntry (s : State) (k : CmdKey) (r : Reply) : Completion := { replyEntry s k 0 r with kind := 0 }

/-- A function whose mailbox holds the response (R147). -/
def answered (s : State) (k : CmdKey) (r : Reply) (x : Func) : Func :=
  { x with mbxResp := completionWords true 0 (mailboxEntry s k r), respValid := true, busy := false }

theorem finish_mailbox {s : State} {c : Cmd} (r : Reply) {f : Nat} (hsrc : c.key.src = .mailbox f)
    (h : isOpen s c.key = true) : finish s c r = dropOut (modFunc s f (answered s c.key r)) c.key := by
  simp only [finish, hsrc, h, if_true]
  rfl

/-- Settles O10: one clause for each branch of `finish`, with the words of the completion in the mailbox. -/
theorem completionsGoToTheirQueue : Obligations.CompletionsGoToTheirQueue := by
  refine ⟨fun s c r => finish_firmware r, fun s c r => finish_of_not_open r, ?_, ?_, ?_⟩
  · intro s c r f hsrc hopen hf
    obtain ⟨htag, hkind, hstatus, hid⟩ := completionWords_word0 true 0 (mailboxEntry s c.key r)
    obtain ⟨hhead, hwarn⟩ := completionWords_word2 true 0 (mailboxEntry s c.key r)
    refine ⟨s.hif.funcs.modify f (answered s c.key r), answered s c.key r s.hif.funcs[f], finish_mailbox r hsrc hopen,
      List.length_modify .., fun g hg => List.getElem?_modify_ne _ _ (Ne.symm hg), ?_, rfl, rfl, rfl, htag, hkind, hstatus, hid,
      completionWords_word1 rfl rfl, hhead, hwarn, completionWords_result true 0 (mailboxEntry s c.key r)⟩
    rw [List.getElem?_modify_eq, List.getElem?_eq_getElem hf]
    rfl
  · intro s c r q hsrc hopen hquiet hok
    exact finish_quiet hsrc hopen hquiet hok
  · intro s c r q o sq hsrc ho hopen hposts himprint hsq
    refine ⟨_, finish_enqueues hsrc ho hopen hposts himprint hsq, ?_⟩
    rw [afterDeferred_eq]
    exact ⟨rfl, rfl, rfl, rfl, rfl, rfl, rfl, rfl⟩

end Sys2Proof.Proofs
end

section
/-!
Proofs of the statements about the admin and session commands: IDENTIFY, GET_HEALTH and ASYNC_EVENT_REQUEST (O17), SET_SHARE,
GET_COUNTERS, OPEN_SESSION and CLOSE_SESSION (O18).
-/
namespace Sys2Proof.Proofs
open Sys2Proof Sys2Proof.Machine Sys2Proof.Laws

/-! Commands that begin at once (R121). -/

theorem host_began (s : State) (t : Nat) (c : Cmd) (body : State → State) :
    host s t c true body = .next (body (began s t c)) := rfl

/-! The admin commands (R162). -/

theorem execIdentify_defined {t : Nat} {c : Cmd} {selector : Word} {s : State} (h : okIdentify selector = true) :
    execIdentify t c selector s =
      .next (done (began s t c) c stOK (identifyResult (began s t c) (fnOf (began s t c) c) selector.toNat)) := by
  rw [execIdentify, h, host_began]

/-- The profile and device-state fields of GET_HEALTH: a state below 3 is in no profile, and any other is ACTIVE. -/
theorem healthCodes (state : Nat) :
    healthProfile state * 2 ^ 16 + healthState state * 2 ^ 20
      = if state < 3 then state * 2 ^ 20 else (state - 2) * 2 ^ 16 + 3 * 2 ^ 20 := by
  unfold healthProfile healthState
  by_cases h : state < 3
  · rw [if_pos h, if_neg (by omega), Nat.min_eq_left (by omega)]
    omega
  · rw [if_neg h, if_pos (by omega), Nat.min_eq_right (by omega)]

theorem execGetHealth_next (t : Nat) (c : Cmd) (s : State) :
    execGetHealth t c s = .next (done (began s t c) c stOK (wrapN 16 (hotMain (began s t c)).2
      + (healthProfile (began s t c).power.state * 2 ^ 16 + healthState (began s t c).power.state * 2 ^ 20))) := by
  rw [execGetHealth, host_began, Nat.add_assoc]

section
variable {t : Nat} {c : Cmd} {id : Word} {s : State} {x : Session}

/-- A request with no event to take stays outstanding, beside fewer than 8 others (R156). -/
theorem execAsyncEventRequest_waits (hname : mayName (began s t c) c id = true)
    (hx : findSession (began s t c) id = some x) (hnone : x.events = []) (hroom : x.requests.length < 8) :
    execAsyncEventRequest t c id s =
      .next (modSession (began s t c) id (fun x => { x with requests := x.requests ++ [c] })) := by
  rw [execAsyncEventRequest, host_began]
  simp only [hname, hx, hnone, ite_self, if_neg (Nat.not_le.2 hroom), Bool.not_true, Bool.false_eq_true, if_false]

/-- A request takes the oldest event that waits, while the firmware is ready (R156, R158). -/
theorem execAsyncEventRequest_takes {e : AsyncEvent} {rest : List AsyncEvent} (hname : mayName (began s t c) c id = true)
    (hx : findSession (began s t c) id = some x) (hevents : x.events = e :: rest) (hready : (began s t c).hif.fwReady = true) :
    execAsyncEventRequest t c id s =
      .next (finish (modSession (began s t c) id (fun x => { x with events := rest, discarded := 0 })) c
        { status := stOK, result := e.result, kind := 3, tag := e.code, epoch := x.discarded, stamp := e.stamp }) := by
  rw [execAsyncEventRequest, host_began]
  simp only [hname, hx, hevents, hready, Bool.not_true, Bool.false_eq_true, if_false, if_true]

/-! The session commands (R163). -/

theorem execSetShare_next {w : BitVec 16} (hname : mayName (began s t c) c id = true) :
    execSetShare t c id w s =
      .next (done (modSession (began s t c) id (fun x => { x with share := shareWeight w })) c stOK) := by
  rw [execSetShare, host_began]
  simp only [hname, if_true]

theorem execGetCounters_next {win : Word} {off : DWord} {u : State} (hname : mayName (began s t c) c id = true)
    (hx : findSession (began s t c) id = some x)
    (hwrite : writeWindow (began s t c) c win off.toNat (counterBytes (began s t c) x) = .ok u) :
    execGetCounters t c id win off s = .next (done u c stOK 128) := by
  rw [execGetCounters, host_began]
  simp only [hname, hx, writeReply, hwrite, Bool.not_true, Bool.false_eq_true, if_false]

end

/-- A session id is a generation above a slot below 2^16, so it fits its word (R151). -/
theorem sessionId_toNat {slot : Nat} (g : BitVec 16) (h : slot < 65536) :
    (BitVec.ofNat 32 (g.toNat * 2 ^ 16 + slot)).toNat = g.toNat * 2 ^ 16 + slot := by
  rw [BitVec.toNat_ofNat]
  omega

/-- The session that OPEN_SESSION adds in a slot (R150, R151, R163). -/
def openedSession (s : State) (c : Cmd) (w sq cq : BitVec 16) (quota : DWord) (slot : Nat) : Session :=
  { id := BitVec.ofNat 32 ((nextGeneration s slot).toNat * 2 ^ 16 + slot), fn := fnOf s c, share := shareWeight w, maxSq := sq,
    maxCq := cq, quota := quota, requests := [], events := [], discarded := 0, vtime := 0, counters := Counters.zero }

/-- The state with that session open, its slot at the next generation. -/
def withSession (s : State) (c : Cmd) (w sq cq : BitVec 16) (quota : DWord) (slot : Nat) : State :=
  { s with
    free := s.free + 1,
    cmds := { s.cmds with
      sessions := s.cmds.sessions ++ [openedSession s c w sq cq quota slot],
      generations := s.cmds.generations.filter (fun y => y.1 != slot) ++ [(slot, nextGeneration s slot)] } }

theorem execOpenSession_next {t : Nat} {c : Cmd} {w sq cq : BitVec 16} {quota : DWord} {s v : State} {slot : Nat}
    (hv : began s t c = v) (hall : v.cmds.sessions.length < 16384)
    (hmine : (v.cmds.sessions.filter (fun x => x.fn == fnOf v c)).length < fnSessionLimit v (fnOf v c))
    (hslot : pickFree 0 65536 (Config.handOut v.free) (v.cmds.sessions.map (fun x => x.id.toNat % 65536)) = some slot) :
    execOpenSession t c w sq cq quota s =
      .next (done (withSession v c w sq cq quota slot) c stOK ((nextGeneration v slot).toNat * 2 ^ 16 + slot)) := by
  obtain ⟨-, hlt, -⟩ := pickFree_spec hslot
  rw [execOpenSession, host_began, hv]
  simp only [Nat.not_le.2 hall, Nat.not_le.2 hmine, hslot, decide_false, Bool.or_self, Bool.false_eq_true, if_false]
  rw [sessionId_toNat _ (by omega)]
  rfl

/-- Through the mailbox a session closes at once: no queue of it waits for the completion (R152). -/
theorem execCloseSession_mailbox {t f : Nat} {c : Cmd} {id : Word} {s v : State} (hv : began s t c = v)
    (hsrc : c.key.src = .mailbox f) (hname : mayName v c id = true) :
    execCloseSession t c id s =
      .next (closeFinal (done (closeWork v id (some c.key)).2 c stOK (closeWork v id (some c.key)).1) id) := by
  have hown : sessionOf v c = none := by simp only [sessionOf, hsrc]
  rw [execCloseSession, host_began, hv]
  simp [hname, hown]

/-- Step 5 of R152 leaves no session of that id. -/
theorem findSession_closeFinal (s : State) (id : Word) : findSession (closeFinal s id) id = none := by
  simp [findSession, closeFinal, freePassed]

/-- Settles O17: each clause is one branch of its command's meaning, in the state in which the command begins. -/
theorem adminCommandsComplete : Obligations.AdminCommandsComplete := by
  refine ⟨?_, ?_, ?_, ?_, ?_, ?_, ?_⟩
  · rintro t c s _ rfl
    exact execIdentify_defined rfl
  · rintro t c s _ rfl
    exact execIdentify_defined rfl
  · rintro t c s _ rfl
    exact execIdentify_defined rfl
  · rintro t c s _ rfl
    exact execIdentify_defined rfl
  · rintro t c s _ rfl
    rw [← healthCodes]
    exact execGetHealth_next t c s
  · rintro t c id s _ x rfl hname hx hnone hroom
    exact execAsyncEventRequest_waits hname hx hnone hroom
  · rintro t c id s _ x e rest rfl hname hx hevents hready
    exact execAsyncEventRequest_takes hname hx hevents hready

/-- Settles O18: each clause is the branch of its command's meaning in which nothing refuses the command. -/
theorem sessionCommandsComplete : Obligations.SessionCommandsComplete := by
  refine ⟨?_, ?_, ?_, ?_⟩
  · rintro t c id w s _ rfl hname
    exact execSetShare_next hname
  · rintro t c id win off s _ x s1 rfl hname hx hwrite
    exact execGetCounters_next hname hx hwrite
  · intro t c w sq cq quota s v slot hv hall hmine hslot
    exact ⟨withSession v c w sq cq quota slot, execOpenSession_next hv hall hmine hslot, rfl⟩
  · intro t c id s v f hv hsrc hname
    exact ⟨_, execCloseSession_mailbox hv hsrc hname, rfl, findSession_closeFinal _ id⟩

end Sys2Proof.Proofs
end

section
/-!
Proof of the statement about the etch commands (O23): ETCH_STAGE, ETCH_ARM, ETCH_STAGE_ARM, ETCH_ABORT and ETCH_QUERY.
-/
namespace Sys2Proof.Proofs
open Sys2Proof Sys2Proof.Machine Sys2Proof.Laws

/-! Staging (R92–R94, R99). -/

/-- The etch that staging puts in the table under `id`. -/
def stagedEtch (s : State) (session : Option Word) (fn : Nat) (k : Option CmdKey) (h : EtchHeader) (acts : List EtchAction)
    (id : Nat) : Etch :=
  { id := id, session := session, fn := fn, hdr := h, acts := acts, payloads := [], st := .staged, changed := s.phase.gtc,
    armInstant := 0, armCmd := none, stageCmd := k, records := [], deadlinePassed := false }

theorem stageEtch_ok {s : State} (session : Option Word) (fn : Nat) (k : Option CmdKey) (h : EtchHeader)
    {acts : List EtchAction} {id : Nat} (hroom : stagedActions s + acts.length ≤ 32768) (hid : newEtchId s = some id) :
    stageEtch s session fn k h acts = .ok (id, { s with
      free := s.free + 1,
      etch := { s.etch with etches := s.etch.etches ++ [stagedEtch s session fn k h acts id] } }) := by
  rw [stageEtch, if_neg (Nat.not_lt.2 hroom), hid]
  rfl

theorem stageFrom_ok {s : State} {c : Cmd} {w : Word} {off id : Nat} {h : EtchHeader} {acts : List EtchAction}
    (hread : readDescriptor s c w off = .ok (h, acts)) (hroom : stagedActions s + acts.length ≤ 32768)
    (hid : newEtchId s = some id) :
    stageFrom s c w off = .ok (id, { s with
      free := s.free + 1,
      etch := { s.etch with
        etches := s.etch.etches ++ [stagedEtch s (sessionOf s c) (fnOf s c) (some c.key) h acts id] } }) := by
  rw [stageFrom, hread]
  exact stageEtch_ok _ _ _ _ hroom hid

/-! Arming (R96). -/

/-- The arm that a command leaves to its instant: payloads and acceptance records as they stand now. -/
def armingOf (s : State) (c : Cmd) (e : Etch) (staged : Bool) (bs : List Bytes) : Arming :=
  { etch := e.id, cmd := c, staged := staged, batch := none, payloads := bs, records := planRecords s e.acts bs }

theorem armRow12_ok {s : State} {c : Cmd} {id : Nat} {e : Etch} (he : findEtch s id = some e) (howns : ownsEtch s c e = true)
    (hst : e.st = .staged) : armRow12 s c id = .ok e := by
  simp [armRow12, he, howns, hst]

theorem beginArm_ok {s : State} {c : Cmd} {e : Etch} {bs : List Bytes} (staged : Bool)
    (hrows : armRows s (partOf s c) e = .ok bs) :
    beginArm s c e staged =
      .ok { s with etch := { s.etch with arming := s.etch.arming ++ [armingOf s c e staged bs] } } := by
  rw [beginArm, hrows]
  rfl

/-! The commands, in the state in which they begin (R166). -/

section
variable {t : Nat} {c : Cmd} {s v : State} {w : Word} {off : DWord} {e : Etch}

theorem execEtchStage_ok {u : State} {id : Nat} (hv : began s t c = v) (hstage : stageFrom v c w off.toNat = .ok (id, u)) :
    execEtchStage t c w off s = .next (done u c stOK id) := by
  rw [execEtchStage, host_began, hv, hstage]

theorem execEtchArm_ok {u : State} {id : BitVec 16} (hv : began s t c = v) (hrow : armRow12 v c id.toNat = .ok e)
    (hbegin : beginArm v c e false = .ok u) : execEtchArm t c id s = .next u := by
  rw [execEtchArm, host_began, hv, hrow]
  simp only [hbegin]

theorem execEtchStageArm_ok {u u' : State} {id : Nat} (hv : began s t c = v)
    (hstage : stageFrom v c w off.toNat = .ok (id, u)) (he : findEtch u id = some e)
    (hbegin : beginArm u c e true = .ok u') : execEtchStageArm t c w off s = .next u' := by
  rw [execEtchStageArm, host_began, hv, hstage]
  simp only [he, hbegin]

/-- An etch that is not yet final is judged at the abort instant (R116). -/
theorem execEtchAbort_waits {id : BitVec 16} (hv : began s t c = v) (he : findEtch v id.toNat = some e)
    (howns : ownsEtch v c e = true) (hst : e.st = .staged ∨ e.st = .armed ∨ e.st = .replaced) :
    execEtchAbort t c id s = .next (waitAbort v c (.etch e.id)) := by
  have hlive : ¬ (e.st = .committed ∨ e.st = .expired ∨ e.st = .aborted) := by
    rcases hst with h | h | h <;> simp [h]
  rw [execEtchAbort, host_began, hv, he]
  simp only [howns, hlive, Bool.not_true, Bool.false_eq_true, if_false]

theorem execEtchAbort_gone {id : BitVec 16} (hv : began s t c = v) (hnone : findEtch v id.toNat = none) :
    execEtchAbort t c id s = .next (done v c stALREADY_DONE) := by
  rw [execEtchAbort, host_began, hv, hnone]

theorem execEtchQuery_ok {id : BitVec 16} (hv : began s t c = v) (he : findEtch v id.toNat = some e)
    (howns : ownsEtch v c e = true) :
    execEtchQuery t c id s = .next (done v c stOK (e.st.code + e.changed % 2 ^ 32 * 2 ^ 32)) := by
  rw [execEtchQuery, host_began, hv, he]
  simp only [howns, if_true]

end

/-- Settles O23: each clause is the branch of its command's meaning in which nothing refuses the command, and an abort that
names no etch. -/
theorem etchCommandsComplete : Obligations.EtchCommandsComplete := by
  refine ⟨?_, ?_, ?_, ?_, ?_, ?_⟩
  · intro t c w off s v h acts id hv hread hroom hid
    exact execEtchStage_ok hv (stageFrom_ok hread hroom hid)
  · intro t c id s v e bs hv he howns hst hrows
    exact execEtchArm_ok hv (armRow12_ok he howns hst) (beginArm_ok false hrows)
  · intro t c w off s v id u e bs hv hstage he hrows
    exact execEtchStageArm_ok hv hstage he (beginArm_ok true hrows)
  · intro t c id s v e hv he howns hst
    exact execEtchAbort_waits hv he howns hst
  · intro t c id s v hv hnone
    exact execEtchAbort_gone hv hnone
  · intro t c id s v e hv he howns
    refine (execEtchQuery_ok hv he howns).trans ?_
    cases e.st <;> rfl

end Sys2Proof.Proofs
end

section
/-!
Proofs of the statements about arithmetic: how an accumulator is rounded and saturated into a word (O14), which operand MAP max and
min answer (O15), and in what order SORT puts its keys (O16).
-/
namespace Sys2Proof.Proofs
open Sys2Proof Sys2Proof.Machine Sys2Proof.Laws

/-! Rounding to nearest-even and saturation (R204). -/

/-- The rounded quotient is the floor or the integer above it, whichever is nearer; at equal distance it is even. -/
theorem divNearestEven_cases (a : Int) (b : Nat) :
    (divNearestEven a b = a / b ∧ 2 * (a % b) ≤ b ∧ (2 * (a % b) = b → divNearestEven a b % 2 = 0))
    ∨ (divNearestEven a b = a / b + 1 ∧ (b : Int) ≤ 2 * (a % b) ∧ (2 * (a % b) = b → divNearestEven a b % 2 = 0)) := by
  simp only [divNearestEven]
  split
  · omega
  · split
    · omega
    · split <;> omega

/-- The distance from `a` to the rounded multiple of `b` is at most half of `b`, and at half of it the quotient is even. -/
theorem divNearestEven_nearest (a : Int) {b : Nat} (hb : 0 < b) :
    2 * (divNearestEven a b * b - a).natAbs ≤ b
    ∧ (2 * (divNearestEven a b * b - a).natAbs = b → divNearestEven a b % 2 = 0) := by
  have hdiv : a / b * b + a % b = a := Int.ediv_mul_add_emod a b
  have hpos : 0 ≤ a % b := Int.emod_nonneg a (by omega)
  have hlt : a % b < b := Int.emod_lt_of_pos a (by omega)
  rcases divNearestEven_cases a b with ⟨hq, hle, heven⟩ | ⟨hq, hle, heven⟩
  · have hdist : divNearestEven a b * b - a = -(a % b) := by rw [hq]; omega
    rw [hdist]
    omega
  · have hdist : divNearestEven a b * b - a = b - a % b := by rw [hq, Int.add_mul]; omega
    rw [hdist]
    omega

theorem shiftRound_of_nonpos (v : Int) {k : Int} (h : k ≤ 0) : shiftRound v k = v * 2 ^ (-k).toNat := by
  simp [shiftRound, h]

theorem shiftRound_of_pos (v : Int) {k : Int} (h : 0 < k) : shiftRound v k = divNearestEven v (2 ^ k.toNat) :=
  if_neg (Int.not_le.2 h)

theorem satWord_below {v : Int} (h : v < wMin) : satWord v = ⟨wMin, flagSAT⟩ := if_pos h

theorem satWord_above {v : Int} (h : wMax < v) : satWord v = ⟨wMax, flagSAT⟩ := by
  have hmin : ¬ v < wMin := by
    simp only [wMax, wMin] at *
    omega
  rw [satWord, if_neg hmin, if_pos h]

theorem satWord_within {v : Int} (hmin : wMin ≤ v) (hmax : v ≤ wMax) : satWord v = plain v := by
  rw [satWord, if_neg (Int.not_lt.2 hmin), if_neg (Int.not_lt.2 hmax)]

/-- Settles O14: a left shift multiplies, a right shift is `divNearestEven` by a power of two, and the word is its saturation. -/
theorem accumulatorWriteOut : Obligations.AccumulatorWriteOut := by
  refine ⟨?_, ?_, ?_, ?_, ?_⟩
  · intro acc fs fd h
    rw [shiftRound_of_nonpos acc (Int.sub_nonpos_of_le h), Int.neg_sub]
  · intro acc fs fd h
    rw [shiftRound_of_pos acc (Int.sub_pos_of_lt h)]
    exact_mod_cast divNearestEven_nearest acc (Nat.two_pow_pos (fs - fd).toNat)
  · intro acc fs fd h
    exact satWord_below h
  · intro acc fs fd h
    exact satWord_above h
  · intro acc fs fd hmin hmax
    exact satWord_within hmin hmax

/-! Sign and magnitude of an FP32 word (R171, R189). -/

/-- The order of sign–magnitude numbers in which −0 lies below +0 (R177, R192). -/
def SignedLt (a : Bool) (x : Nat) (b : Bool) (y : Nat) : Prop :=
  match a, b with
  | true, true => y < x
  | true, false => True
  | false, true => False
  | false, false => x < y

theorem signedLt_of_lt {x y : Nat} (h : x < y) (a b : Bool) : SignedLt a x b y ↔ b = false := by
  cases a <;> cases b <;> simp [SignedLt, h, Nat.le_of_lt h]

theorem signedLt_of_gt {x y : Nat} (h : y < x) (a b : Bool) : SignedLt a x b y ↔ a = true := by
  cases a <;> cases b <;> simp [SignedLt, h, Nat.le_of_lt h]

theorem signedLt_self (a b : Bool) (x : Nat) : SignedLt a x b x ↔ a = true ∧ b = false := by
  cases a <;> cases b <;> simp [SignedLt]

/-- A strictly increasing change of scale keeps the sign–magnitude order. -/
theorem signedLt_rescale {f : Nat → Nat} (hf : ∀ x y, f x < f y ↔ x < y) (a b : Bool) (x y : Nat) :
    SignedLt a (f x) b (f y) ↔ SignedLt a x b y := by
  cases a <;> cases b <;> simp [SignedLt, hf]

/-- The encoding of an FP32 word without its sign. -/
def mag32 (a : Word) : Nat := a.toNat % 2 ^ 31

/-- A finite FP32 magnitude in units of 2^−149, the least subnormal. -/
def units32 (mag : Nat) : Nat :=
  if mag / 2 ^ 23 = 0 then mag % 2 ^ 23 else (2 ^ 23 + mag % 2 ^ 23) * 2 ^ (mag / 2 ^ 23 - 1)

theorem units32_subnormal {mag : Nat} (h : mag / 2 ^ 23 = 0) : units32 mag = mag % 2 ^ 23 := if_pos h

theorem units32_normal {mag : Nat} (h : mag / 2 ^ 23 ≠ 0) :
    units32 mag = (2 ^ 23 + mag % 2 ^ 23) * 2 ^ (mag / 2 ^ 23 - 1) := if_neg h

/-- The next encoding is the next larger value, within a binade and at its end. -/
theorem units32_lt_succ (n : Nat) : units32 n < units32 (n + 1) := by
  by_cases hend : n % 2 ^ 23 + 1 = 2 ^ 23
  · have hdiv : (n + 1) / 2 ^ 23 = n / 2 ^ 23 + 1 := by omega
    have hmod : (n + 1) % 2 ^ 23 = 0 := by omega
    have hnormal : (n + 1) / 2 ^ 23 ≠ 0 := by omega
    rw [units32_normal hnormal, hdiv, hmod, Nat.add_zero, Nat.add_sub_cancel]
    by_cases hsub : n / 2 ^ 23 = 0
    · rw [units32_subnormal hsub, hsub]
      omega
    · calc units32 n = (2 ^ 23 + n % 2 ^ 23) * 2 ^ (n / 2 ^ 23 - 1) := units32_normal hsub
        _ < 2 ^ 23 * 2 * 2 ^ (n / 2 ^ 23 - 1) := Nat.mul_lt_mul_of_pos_right (by omega) (Nat.two_pow_pos _)
        _ = 2 ^ 23 * 2 ^ (n / 2 ^ 23) := by
          rw [Nat.mul_assoc, ← Nat.pow_add_one', Nat.sub_add_cancel (Nat.pos_of_ne_zero hsub)]
  · have hdiv : (n + 1) / 2 ^ 23 = n / 2 ^ 23 := by omega
    have hmod : (n + 1) % 2 ^ 23 = n % 2 ^ 23 + 1 := by omega
    simp only [units32, hdiv, hmod]
    split
    · exact Nat.lt_succ_self _
    · exact Nat.mul_lt_mul_of_pos_right (by omega) (Nat.two_pow_pos _)

theorem units32_lt_of_lt {x y : Nat} (h : x < y) : units32 x < units32 y := by
  induction h with
  | refl => exact units32_lt_succ x
  | step _ ih => exact Nat.lt_trans ih (units32_lt_succ _)

theorem units32_lt_iff (x y : Nat) : units32 x < units32 y ↔ x < y := by
  refine ⟨fun h => Nat.lt_of_not_le fun hle => ?_, units32_lt_of_lt⟩
  rcases Nat.lt_or_eq_of_le hle with hlt | rfl
  · exact Nat.lt_asymm h (units32_lt_of_lt hlt)
  · exact Nat.lt_irrefl _ h

theorem wbit_31 (a : Word) : wbit a 31 = decide (a.toNat / 2 ^ 31 % 2 = 1) := Nat.testBit_eq_decide_div_mod_eq

theorem rd32_finite {a : Word} (h : mag32 a < 0x7F800000) :
    ∃ m : Nat, ∃ e : Int, rd32 a = .fin (wbit a 31) m e ∧ -149 ≤ e ∧ m * 2 ^ (e - -149).toNat = units32 (mag32 a) := by
  have hfin : mag32 a ≤ fmtFP32.maxFin := Nat.le_of_lt_succ h
  have hread : rd32 a = if mag32 a / 2 ^ 23 = 0 then .fin (wbit a 31) (mag32 a % 2 ^ 23) (-149)
      else .fin (wbit a 31) (2 ^ 23 + mag32 a % 2 ^ 23) (-149 + (mag32 a / 2 ^ 23 : Nat) - 1) := by
    rw [wbit_31]
    exact if_pos hfin
  by_cases hsub : mag32 a / 2 ^ 23 = 0
  · exact ⟨_, _, hread.trans (if_pos hsub), by omega, (Nat.mul_one _).trans (units32_subnormal hsub).symm⟩
  · refine ⟨_, _, hread.trans (if_neg hsub), by omega, ?_⟩
    rw [units32_normal hsub]
    congr 2
    omega

theorem rd32_inf {a : Word} (h : mag32 a = 0x7F800000) : rd32 a = .inf (wbit a 31) := by
  have hmax : ¬ mag32 a ≤ fmtFP32.maxFin := by rw [h]; decide
  rw [wbit_31]
  exact (if_neg hmax).trans (if_pos (congrArg some h.symm))

theorem rd32_nan {a : Word} (h : 0x7F800000 < mag32 a) : rd32 a = .nan := by
  have hmax : ¬ mag32 a ≤ fmtFP32.maxFin := fun hle => absurd (Nat.lt_of_lt_of_le h hle) (by decide)
  have hinf : ¬ fmtFP32.infEnc = some (mag32 a) := fun he => Nat.ne_of_lt h (Option.some.inj he)
  exact (if_neg hmax).trans (if_neg hinf)

theorem isNan32_eq_false_iff (a : Word) : isNan32 a = false ↔ mag32 a ≤ 0x7F800000 := by
  rcases Nat.lt_trichotomy (mag32 a) 0x7F800000 with h | h | h
  · obtain ⟨m, e, hread, -⟩ := rd32_finite h
    simp [isNan32, hread, Nat.le_of_lt h]
  · simp [isNan32, rd32_inf h, h]
  · simp [isNan32, rd32_nan h, h]

/-! The order of values and the order of keys (R177, R192). -/

/-- Two finite values compare as their magnitudes in units of any power of two that divides both. -/
theorem ltFp_fin_iff {a b : Bool} {m n : Nat} {e k l : Int} (he : l ≤ e) (hk : l ≤ k) :
    ltFp (.fin a m e) (.fin b n k) = true ↔ SignedLt a (m * 2 ^ (e - l).toNat) b (n * 2 ^ (k - l).toNat) := by
  have hscale : ∀ (p : Nat) (i : Int), min e k ≤ i →
      p * 2 ^ (i - l).toNat = p * 2 ^ (i - min e k).toNat * 2 ^ (min e k - l).toNat := by
    intro p i hi
    rw [Nat.mul_assoc, ← Nat.pow_add]
    congr 2
    omega
  have hunit : ∀ x y : Nat, x * 2 ^ (min e k - l).toNat < y * 2 ^ (min e k - l).toNat ↔ x < y := fun x y =>
    Nat.mul_lt_mul_right (Nat.two_pow_pos _)
  rw [hscale m e (Int.min_le_left e k), hscale n k (Int.min_le_right e k),
    signedLt_rescale (f := (· * 2 ^ (min e k - l).toNat)) hunit]
  generalize hu : m * 2 ^ (e - min e k).toNat = u
  generalize hv : n * 2 ^ (k - min e k).toNat = v
  simp only [ltFp, hu, hv]
  cases a <;> cases b
  · simp [SignedLt]
    omega
  · simp [SignedLt]
  · simp [SignedLt]
    split <;> omega
  · simp [SignedLt]
    omega

/-- Of two words that are no NaN, the values compare as sign and magnitude of the encodings. -/
theorem ltFp_rd32_iff {a b : Word} (ha : isNan32 a = false) (hb : isNan32 b = false) :
    ltFp (rd32 a) (rd32 b) = true ↔ SignedLt (wbit a 31) (mag32 a) (wbit b 31) (mag32 b) := by
  rw [isNan32_eq_false_iff] at ha hb
  rcases Nat.lt_or_eq_of_le ha with ha | ha <;> rcases Nat.lt_or_eq_of_le hb with hb | hb
  · obtain ⟨m, e, hra, he, hm⟩ := rd32_finite ha
    obtain ⟨n, k, hrb, hk, hn⟩ := rd32_finite hb
    rw [hra, hrb, ltFp_fin_iff he hk, hm, hn, signedLt_rescale units32_lt_iff]
  · obtain ⟨m, e, hra, -⟩ := rd32_finite ha
    rw [signedLt_of_lt (hb ▸ ha), hra, rd32_inf hb]
    simp [ltFp]
  · obtain ⟨n, k, hrb, -⟩ := rd32_finite hb
    rw [signedLt_of_gt (ha ▸ hb), hrb, rd32_inf ha]
    simp [ltFp]
  · rw [ha, hb, signedLt_self, rd32_inf ha, rd32_inf hb]
    simp [ltFp]

/-- The key of a word that is no NaN: negative magnitudes count down from 2^31 − 1, the others up from 2^31. -/
theorem sortKeyFP32_number {a : Word} (h : isNan32 a = false) :
    sortKeyFP32 a = if wbit a 31 then 2 ^ 31 - 1 - mag32 a else 2 ^ 31 + mag32 a := by
  have hlt : a.toNat < 2 ^ 32 := a.isLt
  simp only [sortKeyFP32, h, wbit_31, mag32, BitVec.toNat_not, decide_eq_true_eq, Bool.false_eq_true, if_false]
  split <;> omega

theorem sortKeyFP32_nan {a : Word} (h : isNan32 a = true) : sortKeyFP32 a = 2 ^ 32 := if_pos h

theorem sortKeyFP32_lt_of_number {a : Word} (h : isNan32 a = false) : sortKeyFP32 a < 2 ^ 32 := by
  have hmag : mag32 a < 2 ^ 31 := Nat.mod_lt _ (by decide)
  rw [sortKeyFP32_number h]
  split <;> omega

/-- The keys of two numbers are in the order of their values. -/
theorem sortKeyFP32_lt_iff {a b : Word} (ha : isNan32 a = false) (hb : isNan32 b = false) :
    sortKeyFP32 a < sortKeyFP32 b ↔ ltFp (rd32 a) (rd32 b) = true := by
  have hmaga : mag32 a < 2 ^ 31 := Nat.mod_lt _ (by decide)
  have hmagb : mag32 b < 2 ^ 31 := Nat.mod_lt _ (by decide)
  rw [ltFp_rd32_iff ha hb, sortKeyFP32_number ha, sortKeyFP32_number hb]
  cases wbit a 31 <;> cases wbit b 31 <;> simp [SignedLt] <;> omega

/-! MAP max and min (R192). -/

theorem fmax_nan {a b : Word} (h : isNan32 a = true ∨ isNan32 b = true) : fmax a b = nan32 :=
  if_pos (Bool.or_eq_true_iff.2 h)

theorem fmin_nan {a b : Word} (h : isNan32 a = true ∨ isNan32 b = true) : fmin a b = nan32 :=
  if_pos (Bool.or_eq_true_iff.2 h)

theorem fmax_number {a b : Word} (ha : isNan32 a = false) (hb : isNan32 b = false) :
    fmax a b = if sortKeyFP32 a < sortKeyFP32 b then b else a := by
  simp [fmax, ha, hb, sortKeyFP32_lt_iff]

theorem fmin_number {a b : Word} (ha : isNan32 a = false) (hb : isNan32 b = false) :
    fmin a b = if sortKeyFP32 b < sortKeyFP32 a then b else a := by
  simp [fmin, ha, hb, sortKeyFP32_lt_iff]

theorem fmax_upper {a b : Word} (ha : isNan32 a = false) (hb : isNan32 b = false) :
    (fmax a b = a ∨ fmax a b = b) ∧ sortKeyFP32 a ≤ sortKeyFP32 (fmax a b) ∧ sortKeyFP32 b ≤ sortKeyFP32 (fmax a b) := by
  rw [fmax_number ha hb]
  split
  · next hlt => exact ⟨.inr rfl, Nat.le_of_lt hlt, Nat.le_refl _⟩
  · next hge => exact ⟨.inl rfl, Nat.le_refl _, Nat.le_of_not_lt hge⟩

theorem fmin_lower {a b : Word} (ha : isNan32 a = false) (hb : isNan32 b = false) :
    (fmin a b = a ∨ fmin a b = b) ∧ sortKeyFP32 (fmin a b) ≤ sortKeyFP32 a ∧ sortKeyFP32 (fmin a b) ≤ sortKeyFP32 b := by
  rw [fmin_number ha hb]
  split
  · next hlt => exact ⟨.inr rfl, Nat.le_of_lt hlt, Nat.le_refl _⟩
  · next hge => exact ⟨.inl rfl, Nat.le_refl _, Nat.le_of_not_lt hge⟩

/-- Settles O15: of two numbers max answers the one with the greater key and min the one with the lesser, the first
on equal keys. -/
theorem maxAndMinOrder : Obligations.MaxAndMinOrder := by
  refine ⟨?_, ?_, ?_⟩
  · intro a b h
    exact ⟨fmax_nan h, fmin_nan h⟩
  · decide
  · intro a b ha hb
    obtain ⟨hmax, hamax, hbmax⟩ := fmax_upper ha hb
    obtain ⟨hmin, hmina, hminb⟩ := fmin_lower ha hb
    exact ⟨hmax, hmin, hamax, hbmax, hmina, hminb⟩

/-! The stable sort of keys (R177, R344). -/

section
variable (f : Nat) (l : List Keyed)

theorem sortKey_fp32 (w : Word) : sortKey 1 w = sortKeyFP32 w := if_pos rfl

theorem keyLe_fp32_ascending (a b : Keyed) : keyLe 1 false a b = true ↔ sortKeyFP32 a.1 ≤ sortKeyFP32 b.1 := by
  simp [keyLe, sortKey_fp32]

theorem keyLe_trans (desc : Bool) (a b c : Keyed) :
    keyLe f desc a b = true → keyLe f desc b c = true → keyLe f desc a c = true := by
  cases desc <;> simp [keyLe] <;> omega

theorem keyLe_total (desc : Bool) (a b : Keyed) : (keyLe f desc a b || keyLe f desc b a) = true := by
  cases desc <;> simp [keyLe] <;> omega

theorem sortKeys_perm (desc : Bool) : (sortKeys f desc l).Perm l := List.mergeSort_perm l _

theorem sortKeys_pairwise (desc : Bool) : (sortKeys f desc l).Pairwise (fun a b => keyLe f desc a b = true) :=
  List.pairwise_mergeSort (keyLe_trans f desc) (keyLe_total f desc) l

/-- The entries of one key are a sublist of the sorted list in their input order, and all that it holds of that key. -/
theorem sortKeys_filter_key (desc : Bool) (k : Nat) :
    (sortKeys f desc l).filter (fun x => sortKey f x.1 == k) = l.filter (fun x => sortKey f x.1 == k) := by
  have hle : (l.filter (fun x => sortKey f x.1 == k)).Pairwise (fun a b => keyLe f desc a b = true) := by
    refine List.pairwise_iff_forall_sublist.2 fun {a b} hab => ?_
    have ha : sortKey f a.1 = k := by simpa using (List.mem_filter.1 (hab.subset (by simp : a ∈ [a, b]))).2
    have hb : sortKey f b.1 = k := by simpa using (List.mem_filter.1 (hab.subset (by simp : b ∈ [a, b]))).2
    simp [keyLe, ha, hb]
  have hsub : (l.filter (fun x => sortKey f x.1 == k)).Sublist (sortKeys f desc l) :=
    List.sublist_mergeSort (keyLe_trans f desc) (keyLe_total f desc) hle List.filter_sublist
  have hlen := ((sortKeys_perm f l desc).filter (fun x => sortKey f x.1 == k)).length_eq
  refine (List.Sublist.eq_of_length ?_ hlen.symm).symm
  simpa using hsub.filter (fun x => sortKey f x.1 == k)

end

/-- Settles O16: the key is the value's place in sign and magnitude, a NaN's is 2^32, and SORT is a stable merge sort by key. -/
theorem sortOrdersKeys : Obligations.SortOrdersKeys := by
  refine ⟨?_, ?_, ?_, ?_, ?_⟩
  · intro a b ha hb hlt
    exact (sortKeyFP32_lt_iff ha hb).2 hlt
  · decide
  · intro a b ha hb
    rw [sortKeyFP32_nan ha]
    exact sortKeyFP32_lt_of_number hb
  · intro a b ha hb
    rw [sortKeyFP32_nan ha, sortKeyFP32_nan hb]
  · intro l
    refine ⟨sortKeys_perm 1 l false, (sortKeys_pairwise 1 l false).imp (keyLe_fp32_ascending _ _).1, fun k => ?_⟩
    simpa only [sortKey_fp32] using sortKeys_filter_key 1 l false k

end Sys2Proof.Proofs
end

section
/-!
Proofs of the statement about the motion cycle (O27): SYNC0 and the serial encoder inputs, the frame's way out and back, a missing
frame, and what the feedback and the stop do to a channel.
-/
namespace Sys2Proof.Proofs
open Sys2Proof Sys2Proof.Machine Sys2Proof.Laws

/-! The serial encoder inputs at SYNC0 (R706). -/

theorem encoderSync_of_not_serial {s : State} {n : Nat} (h : (getEncoder s n).mode ≠ 2) : encoderSync s n = s := if_pos h

theorem foldl_encoderSync_of_no_serial {s : State} {l : List Nat} (h : ∀ n, (getEncoder s n).mode ≠ 2) :
    l.foldl encoderSync s = s := by
  induction l with
  | nil => rfl
  | cons n l ih => rw [List.foldl_cons, encoderSync_of_not_serial (h n), ih]

/-- Where no input of the list is serial, none that is read is: one past the list's end reads as at reset. -/
theorem getEncoder_mode_ne_serial {s : State} (h : s.ports.encoders.all (fun e => e.mode != 2) = true) (n : Nat) :
    (getEncoder s n).mode ≠ 2 := by
  rw [getEncoder, List.getD_eq_getElem?_getD]
  cases hn : s.ports.encoders[n]? with
  | none => decide
  | some e => exact bne_iff_ne.1 (List.all_eq_true.1 h e (List.mem_of_getElem? hn))

/-! The frame of a cycle (R298, R328, R694, R720). -/

/-- A motion cycle begins: the count advances, nothing is sent or returned, and every MOTION_CYCLE source has an edge (R298, R33).
It is what SYNC0 does before the serial encoder inputs (`execMotionCycleSync0_running`). -/
def startCycle (s : State) : State :=
  modSourcesOn
    { s with servo := { s.servo with
        snaps := [],
        net := { s.servo.net with
          count := (s.servo.net.count + 1) % 2 ^ 48, sync0 := s.phase.gtc, sent := false, returned := false } } }
    0x40 [4] (edge s.phase.gtc (BitVec.ofNat 64 ((s.servo.net.count + 1) % 2 ^ 48 * 65536)))

theorem startCycle_ports (s : State) : (startCycle s).ports = s.ports := rfl

theorem execMotionCycleSync0_running {t : Nat} {s : State} (h : (advance s t).servo.net.tCyc ≠ 0) :
    execMotionCycleSync0 t s = .next ((List.range 16).foldl encoderSync (startCycle (advance s t))) := by
  rw [execMotionCycleSync0, event_next, if_neg h]
  rfl

theorem execMnetFrameTransmit_sends {t : Nat} {s : State} (hcyc : (advance s t).servo.net.tCyc ≠ 0)
    (hrun : (advance s t).ports.mnet.running = true) (hsent : (advance s t).servo.net.sent = false)
    (hret : (advance s t).servo.net.returned = false) :
    execMnetFrameTransmit t s = .next (emit
      (modNet (advance s t) (fun n => { n with sent := true, sentImage := n.outImage }))
      (.frame (advance s t).servo.net.outImage)) := by
  rw [execMnetFrameTransmit, event_next, if_neg]
  exact not_or.2 ⟨hcyc, not_or.2 ⟨by rw [hrun]; decide,
    not_or.2 ⟨Bool.eq_false_iff.1 hsent, Bool.eq_false_iff.1 hret⟩⟩⟩

/-- A frame on its way is one that was sent and has not returned. -/
theorem not_unsent_or_returned {s : State} (hsent : s.servo.net.sent = true) (hret : s.servo.net.returned = false) :
    ¬ (!s.servo.net.sent || s.servo.net.returned) = true := by
  simp [hsent, hret]

theorem execMnetFrameReturn_whole {t : Nat} {input : Bytes} {s : State} (hsent : (advance s t).servo.net.sent = true)
    (hret : (advance s t).servo.net.returned = false) :
    execMnetFrameReturn t input (Config.workingCounter (advance s t).ports.mnet.image) false false s = .next (mapChannels
      (modNet (advance s t) (fun n => { n with
        returned := true, inImage := slice input 0 4096, missing := 0, missHandled := false }))
      (fun _ c => takeFeedback (slice input 0 4096) c)) := by
  rw [execMnetFrameReturn, event_next, if_neg (not_unsent_or_returned hsent hret)]
  simp only [Bool.false_or, bne_self_eq_false, Bool.false_eq_true, if_false]

theorem execMnetRxBoundExpiry_missing {t : Nat} {s : State} (hsent : (advance s t).servo.net.sent = true)
    (hret : (advance s t).servo.net.returned = false) :
    execMnetRxBoundExpiry t s = .next { advance s t with
      servo := { (advance s t).servo with net := { (advance s t).servo.net with
        missing := (advance s t).servo.net.missing + 1, sent := false } },
      ports := { (advance s t).ports with mnet := { (advance s t).ports.mnet with
        missing := if mnMode (advance s t).ports.mnet.image = 2
          then ((advance s t).ports.mnet.missing.modify 0 satInc).modify 1 satInc
          else (advance s t).ports.mnet.missing.modify 0 satInc } } } := by
  rw [execMnetRxBoundExpiry, event_next, if_neg (not_unsent_or_returned hsent hret)]
  rfl

theorem execMissLimitReached_stops {t : Nat} {s : State} (hlimit : (advance s t).servo.net.missLimit ≠ 0)
    (hmiss : (advance s t).servo.net.missLimit ≤ (advance s t).servo.net.missing)
    (hfirst : (advance s t).servo.net.missHandled = false) :
    execMissLimitReached t s = .next (huskRequest
      (mapChannels (modNet (advance s t) (fun n => { n with missHandled := true })) (fun _ c => stopChannel c))
      0x0E srcShell (leBytes 1 0 ++ leBytes 1 5 ++ leBytes 2 0 ++ leBytes 4 (advance s t).servo.net.missing)) := by
  rw [execMissLimitReached, event_next, if_neg]
  exact not_or.2 ⟨hlimit, not_or.2 ⟨Nat.not_lt.2 hmiss, Bool.eq_false_iff.1 hfirst⟩⟩

/-! What a channel takes (R318, R326). -/

theorem configured_iff (c : Channel) : configured c = true ↔ c.cfg ≠ [] := by
  simp [configured]

theorem takeFeedback_first {img : Bytes} {c : Channel} (hcfg : c.cfg ≠ []) (hlast : c.rawLast = none) :
    takeFeedback img c = { c with
      rawLast := some (BitVec.ofNat 32 (numAt img (cfgPosOffset c.cfg) 4)),
      y := satSigned 64 ((BitVec.ofNat 32 (numAt img (cfgPosOffset c.cfg) 4)).toInt * (2 ^ (16 - cfgFbFrac c.cfg) : Nat)
        + cfgFbOffset c.cfg) } := by
  simp only [takeFeedback, (configured_iff c).2 hcfg, hlast, Bool.not_true, Bool.false_eq_true, if_false]

theorem takeFeedback_later {img : Bytes} {c : Channel} {p : Word} (hcfg : c.cfg ≠ []) (hlast : c.rawLast = some p) :
    takeFeedback img c = { c with
      rawLast := some (BitVec.ofNat 32 (numAt img (cfgPosOffset c.cfg) 4)),
      y := satSigned 64 (c.y + (BitVec.ofNat 32 (numAt img (cfgPosOffset c.cfg) 4) - p).toInt
        * (2 ^ (16 - cfgFbFrac c.cfg) : Nat)) } := by
  simp only [takeFeedback, (configured_iff c).2 hcfg, hlast, Bool.not_true, Bool.false_eq_true, if_false]

/-- Feedback moves the position alone: configured or not, a channel keeps its state and its configuration. -/
theorem takeFeedback_leaves (img : Bytes) (c : Channel) :
    (takeFeedback img c).st = c.st ∧ (takeFeedback img c).cfg = c.cfg := by
  unfold takeFeedback
  split
  · exact ⟨rfl, rfl⟩
  · dsimp only
    split <;> exact ⟨rfl, rfl⟩

theorem stopChannel_disabled {c : Channel} (h : c.st = .disabled) : stopChannel c = c := if_pos h

theorem stopChannel_enabled {c : Channel} (h : c.st ≠ .disabled) :
    stopChannel c = { c with st := .stop, entryDue := true, outside := some .stop } := if_neg h

/-- Settles O27: each clause is the branch of its event that the hypotheses select, or the case of the channel's own rule.
That y saturates to 64 bits and that the record of the missing frames begins with 0 are the model's choices (log entries 58, 59). -/
theorem motionCycleRuns : Obligations.MotionCycleRuns := by
  refine ⟨⟨?_, ?_, ?_, ?_, ?_⟩, ?_, ?_, takeFeedback_leaves, ?_, ?_⟩
  · rintro t s _ _ rfl hcyc rfl
    have hexec : exec (.motionCycleSync0 t) s = .next ((List.range 16).foldl encoderSync (startCycle (advance s t))) :=
      execMotionCycleSync0_running hcyc
    refine ⟨hexec, fun _ hnone => hexec.trans ?_⟩
    rw [← startCycle_ports] at hnone
    rw [foldl_encoderSync_of_no_serial (getEncoder_mode_ne_serial hnone)]
    rfl
  · rintro t s _ rfl hcyc hrun hsent hret
    exact execMnetFrameTransmit_sends hcyc hrun hsent hret
  · rintro t input _ s _ rfl hsent hret rfl
    exact execMnetFrameReturn_whole hsent hret
  · rintro t s _ _ rfl hsent hret rfl
    exact execMnetRxBoundExpiry_missing hsent hret
  · rintro t s _ rfl hlimit hmiss hfirst
    exact execMissLimitReached_stops hlimit hmiss hfirst
  · intro img c hcfg hlast
    rw [takeFeedback_first hcfg hlast]
  · intro img c p hcfg hlast
    rw [takeFeedback_later hcfg hlast]
  · intro c _ hst _
    rw [stopChannel_enabled hst]
    exact ⟨rfl, rfl⟩
  · intro c hst
    exact stopChannel_disabled hst

end Sys2Proof.Proofs
end

section
/-!
Proof of the statement about the release of held STO (O5): no command or event but SAFETY_RESET releases it, and SAFETY_RESET does
so only when R586 allows it.
-/
namespace Sys2Proof.Proofs
open Sys2Proof Sys2Proof.Machine Sys2Proof.Laws

/-- A state in which the command `c` begins has the safety unit of the state before it: neither the clock nor the start of a
command reaches that unit. -/
theorem began_safety (s : State) (t : Nat) (c : Cmd) : (began s t c).safety = s.safety := by
  simp [began]

/-- The time at which a command begins is the tick that the clock has reached (R121). -/
theorem now_began (s : State) (t : Nat) (c : Cmd) : now (began s t c) = (advance s t).phase.gtc := by
  simp [began, now]

/-- The conditions of R586, one by one. -/
theorem resetAllowed_iff (s : State) :
    resetAllowed s = true ↔
      (∃ u, s.safety.closedSince = some u ∧ u + 100000000 ≤ now s)
      ∧ s.safety.estopFault = false ∧ s.safety.outputFault = false ∧ s.safety.shellFault = false ∧ s.safety.safe = none := by
  unfold resetAllowed
  cases h : s.safety.closedSince <;> simp [h, and_assoc]

/-- SAFETY_RESET that R586 does not allow completes with NO_RESOURCE and does nothing else. -/
theorem execSafetyReset_refused {t : Nat} {c : Cmd} {s : State} (h : resetAllowed (began s t c) = false) :
    execSafetyReset t c s = .next (done (began s t c) c stNO_RESOURCE) := by
  rw [execSafetyReset, host_began, h]
  rfl

/-- A SAFETY_RESET that releases held STO was allowed by R586: refused, it completes and keeps STO held. -/
theorem resetAllowed_of_releases {t : Nat} {c : Cmd} {s r : State} (e : execSafetyReset t c s = .next r)
    (hheld : s.safety.stoHeld = true) (hfree : r.safety.stoHeld = false) : resetAllowed (began s t c) = true := by
  cases hallowed : resetAllowed (began s t c) with
  | true => rfl
  | false =>
    rw [execSafetyReset_refused hallowed] at e
    cases e
    have hkept : (done (began s t c) c stNO_RESOURCE).safety.stoHeld = true :=
      (keeps_done (b0 := true) (d0 := true) (.refl (began s t c))).held ((began_safety s t c).symm ▸ hheld)
    exact absurd (hfree.symm.trans hkept) Bool.false_ne_true

/-- Held STO is released by SAFETY_RESET alone: every other command and event keeps it held (R586). -/
theorem safetyReset_of_releases {i : Instr} {s r : State} (e : exec i s = .next r)
    (hheld : s.safety.stoHeld = true) (hfree : r.safety.stoHeld = false) : ∃ t c, i = .safetyReset t c := by
  refine Classical.byContradiction fun hnot => ?_
  have hother : ∀ t c, i ≠ .safetyReset t c := fun t c hi => hnot ⟨t, c, hi⟩
  have hkept : r.safety.stoHeld = true := (exec_keeps hother e).held hheld
  exact Bool.false_ne_true (hfree.symm.trans hkept)

/-- Settles O5: the command is SAFETY_RESET, and the conditions that it reads where it begins are those of the state before it, at
the tick that the clock has reached. -/
theorem onlySafetyResetReleasesSto : Obligations.OnlySafetyResetReleasesSto := by
  intro i s r e hheld hfree
  obtain ⟨t, c, rfl⟩ := safetyReset_of_releases e hheld hfree
  have hallowed : resetAllowed (began s t c) = true := resetAllowed_of_releases e hheld hfree
  obtain ⟨⟨u, hclosed, hlong⟩, hconditions⟩ := (resetAllowed_iff _).1 hallowed
  rw [now_began] at hlong
  rw [began_safety] at hclosed hconditions
  exact ⟨t, c, u, rfl, hclosed, hlong, hconditions⟩

end Sys2Proof.Proofs
end

section
/-!
Proof of the statement about the state after a Shell power-on reset (O2), unit by unit: the Shell alone runs, its outputs are low
with STO held, nothing is open or waiting, and BOOT_PROT_SAFETY holds the reset values of R599 and R600.
-/
namespace Sys2Proof.Proofs
open Sys2Proof Sys2Proof.Machine Sys2Proof.Laws

/-- The Shell alone runs: SHELL_ONLY, with the main supplies off (R673). -/
theorem reset_shellOnly :
    State.reset.power.state = 1 ∧ State.reset.hif.shellOnly = true ∧ State.reset.hif.fwReady = false
    ∧ State.reset.power.mainPwrEn = false ∧ State.reset.power.mainValid = false :=
  ⟨rfl, rfl, rfl, rfl, rfl⟩

/-- Both STO and both brake outputs are low, STO is held and no safe state is in progress (R582, R729). -/
theorem reset_outputsLow :
    State.reset.safety.stoA = false ∧ State.reset.safety.stoB = false ∧ State.reset.safety.brakeA = false
    ∧ State.reset.safety.brakeB = false ∧ State.reset.safety.stoHeld = true ∧ State.reset.safety.safe = none :=
  ⟨rfl, rfl, rfl, rfl, rfl, rfl⟩

/-- No counter of the Tracer has counted anything (R589). -/
theorem reset_tracerCounters :
    State.reset.safety.checks = 0 ∧ State.reset.safety.rejections = 0 ∧ State.reset.safety.disagreements = 0 :=
  ⟨rfl, rfl, rfl⟩

/-- No session, queue, command, etch or serving loop exists, the GTC stands at 0 without a hold, and nothing waits. -/
theorem reset_nothingOpen :
    State.reset.cmds.sessions = [] ∧ State.reset.cmds.sqs = [] ∧ State.reset.cmds.cqs = []
    ∧ State.reset.cmds.outstanding = [] ∧ State.reset.etch.etches = [] ∧ State.reset.loops = []
    ∧ State.reset.phase.gtc = 0 ∧ State.reset.phase.hold = none ∧ State.reset.pending = [] :=
  ⟨rfl, rfl, rfl, rfl, rfl, rfl, rfl, rfl, rfl⟩

/-- BOOT_PROT_SAFETY, the word at offset 4 of the protection set, as its bytes at reset spell it (R599, R600). -/
theorem reset_bootProtSafety : protWord State.reset 4 = 0x78403C00 := by decide

/-- The safety fields of the protection set are the bit fields of that one word (R599, R600). -/
theorem reset_protectionFields :
    protSelftestReaction State.reset = 1 ∧ protEstopCategory State.reset = 1 ∧ protStoMode State.reset = 1
    ∧ protHeldLimit State.reset = 8 ∧ protDisagreeK State.reset = 2 ∧ protRestartWindow State.reset = 60000000 := by
  unfold protSelftestReaction protEstopCategory protStoMode protHeldLimit protDisagreeK protRestartWindow
  rw [reset_bootProtSafety]
  decide

/-- The torque interlock holds at reset: STO is held, both outputs of either kind are low, and no brake delay runs (R582). -/
theorem reset_stoOk : State.reset.StoOk := by
  obtain ⟨hstoA, hstoB, hbrakeA, hbrakeB, -, -⟩ := reset_outputsLow
  exact fun _ => ⟨hstoA, hstoB, hbrakeA, hbrakeB, rfl⟩

/-- Settles O2: the units of the state, one after another, and then the two invariants. -/
theorem resetState : Obligations.ResetState := by
  unfold Obligations.ResetState
  simpa only [and_assoc] using
    And.intro reset_shellOnly <| And.intro reset_outputsLow <| And.intro reset_tracerCounters <|
      And.intro reset_nothingOpen <| And.intro reset_protectionFields <| And.intro reset_memoryOk reset_stoOk

end Sys2Proof.Proofs
end

section
/-!
Proof of the statement about the encoder inputs (O26): a quadrature input by how many places its levels moved, the index edge, and
the reply of a serial input: valid, bad or late.
-/
namespace Sys2Proof.Proofs
open Sys2Proof Sys2Proof.Machine Sys2Proof.Laws

theorem getEncoder_of_getElem? {s : State} {n : Nat} {e : Encoder} (h : s.ports.encoders[n]? = some e) : getEncoder s n = e := by
  simp [getEncoder, h]

/-! Quadrature inputs (R704). -/

/-- Both levels changed is half of the cycle of four: neither direction. -/
theorem quadPlace_not_not (a b : Bool) : (quadPlace (!a) (!b) + 4 - quadPlace a b) % 4 = 2 := by
  cases a <;> cases b <;> rfl

section
variable {t n : Nat} {a b : Bool} {s : State} {e : Encoder}

theorem execQuadStateChange_up (he : (advance s t).ports.encoders[n]? = some e) (hmode : e.mode = 1)
    (hup : (quadPlace a b + 4 - quadPlace e.a e.b) % 4 = 1) :
    execQuadStateChange t n a b s = .next (encoderEdge
      (modEncoder (modEncoder (advance s t) n (fun e => { e with a := a, b := b })) n (fun e => { e with count := e.count + 1 }))
      n (advance s t).phase.gtc 2) := by
  simp only [execQuadStateChange, event_next, getEncoder_of_getElem? he, hmode, hup]
  rfl

theorem execQuadStateChange_down (he : (advance s t).ports.encoders[n]? = some e) (hmode : e.mode = 1)
    (hdown : (quadPlace a b + 4 - quadPlace e.a e.b) % 4 = 3) :
    execQuadStateChange t n a b s = .next (encoderEdge
      (modEncoder (modEncoder (advance s t) n (fun e => { e with a := a, b := b })) n (fun e => { e with count := e.count - 1 }))
      n (advance s t).phase.gtc 2) := by
  simp only [execQuadStateChange, event_next, getEncoder_of_getElem? he, hmode, hdown]
  rfl

theorem execQuadStateChange_both (he : (advance s t).ports.encoders[n]? = some e) (hmode : e.mode = 1)
    (ha : a ≠ e.a) (hb : b ≠ e.b) :
    execQuadStateChange t n a b s = .next (modEncoder (modEncoder (advance s t) n (fun e => { e with a := a, b := b })) n
      (fun e => { e with quadErrors := satInc e.quadErrors })) := by
  have hboth : (quadPlace a b + 4 - quadPlace e.a e.b) % 4 = 2 := by
    rw [Bool.eq_not_of_ne ha, Bool.eq_not_of_ne hb]
    exact quadPlace_not_not e.a e.b
  simp only [execQuadStateChange, event_next, getEncoder_of_getElem? he, hmode, hboth]
  rfl

end

/-! Serial inputs (R705–R707). -/

section
variable {t n at_ g : Nat} {data : BitVec 56} {stop : Bool} {s : State} {e : Encoder}

/-- What the reply of a serial input does while its request waits turns on whether it is valid. -/
theorem execSerialEncReply_waiting (he : (advance s t).ports.encoders[n]? = some e) (hmode : e.mode = 2)
    (hreq : e.request = some g) :
    execSerialEncReply t n at_ data stop s = .next (if replyValid e.rate g at_ data stop then
      encoderEdge
        (modEncoder (modEncoder (advance s t) n (fun e => { e with request := none })) n (fun x => { x with
          count := BitVec.ofInt 48 (toSigned e.posBits.toNat (data.toNat / 256 % 2 ^ 40)) })) n g 3
      else modEncoder (modEncoder (advance s t) n (fun e => { e with request := none })) n
        (fun x => { x with serialErrors := satInc x.serialErrors })) := by
  have hserial : e.mode.toNat = 2 := congrArg BitVec.toNat hmode
  simp only [execSerialEncReply, event_next, getEncoder_of_getElem? he, hserial, hreq]

theorem execSerialEncReply_valid (he : (advance s t).ports.encoders[n]? = some e) (hmode : e.mode = 2) (hreq : e.request = some g)
    (hvalid : replyValid e.rate g at_ data stop = true) :
    execSerialEncReply t n at_ data stop s = .next (encoderEdge
      (modEncoder (modEncoder (advance s t) n (fun e => { e with request := none })) n (fun x => { x with
        count := BitVec.ofInt 48 (toSigned e.posBits.toNat (data.toNat / 256 % 2 ^ 40)) })) n g 3) := by
  rw [execSerialEncReply_waiting he hmode hreq, if_pos hvalid]

theorem execSerialEncReply_bad (he : (advance s t).ports.encoders[n]? = some e) (hmode : e.mode = 2) (hreq : e.request = some g)
    (hbad : replyValid e.rate g at_ data stop = false) :
    execSerialEncReply t n at_ data stop s = .next (modEncoder
      (modEncoder (advance s t) n (fun e => { e with request := none })) n
      (fun x => { x with serialErrors := satInc x.serialErrors })) := by
  rw [execSerialEncReply_waiting he hmode hreq, if_neg (Bool.eq_false_iff.1 hbad)]

theorem execSerialReplyTimeout_late (he : (advance s t).ports.encoders[n]? = some e) (hreq : e.request = some g)
    (hlate : replyLimit e.rate g < (advance s t).phase.gtc) :
    execSerialReplyTimeout t n s = .next (modEncoder (advance s t) n (fun e => { e with
      request := none, serialErrors := satInc e.serialErrors })) := by
  simp only [execSerialReplyTimeout, event_next, getEncoder_of_getElem? he, hreq, now, if_pos hlate]

end

/-- Settles O26: each clause is the branch of its event that the input's mode, levels and request select. That A before B counts up
is the model's choice (log entry 24). -/
theorem encoderInputsCount : Obligations.EncoderInputsCount := by
  refine ⟨?_, ?_, ?_, ?_⟩
  · rintro t n a b s _ e rfl he hmode
    exact ⟨execQuadStateChange_up he hmode, execQuadStateChange_down he hmode, execQuadStateChange_both he hmode⟩
  · rintro t n s _ rfl
    rfl
  · rintro t n at_ data stop s _ e g rfl he hmode hreq
    exact ⟨execSerialEncReply_valid he hmode hreq, execSerialEncReply_bad he hmode hreq⟩
  · rintro t n s _ e g rfl he hreq hlate
    exact execSerialReplyTimeout_late he hreq hlate

end Sys2Proof.Proofs
end

section
/-!
How a clause about a command or an event is proved: the state in which its effect takes place is named once, and what is left
is what the effect writes there.
-/
namespace Sys2Proof.Proofs
open Sys2Proof Sys2Proof.Machine Sys2Proof.Laws

section
variable {s v u : State} {t : Nat} {c : Cmd} {ok : Bool} {body : State → State}

/-- A command with defined operands has its effect in the state in which it begins (R11, R121). -/
theorem host_runs (hv : began s t c = v) (hok : ok = true) (hbody : body v = u) : host s t c ok body = .next u := by
  rw [hok, host_began, hv, hbody]

/-- A command that waits for its instant has its effect where the clock has come to. -/
theorem hostWait_runs (hv : advance s t = v) (hok : ok = true) (hbody : body v = u) : hostWait s t c ok body = .next u := by
  rw [hok, hostWait_ok, hv, hbody]

/-- An event has its effect where the clock has come to. -/
theorem event_runs (hv : advance s t = v) (hbody : body v = u) : event s t body = .next u := by
  rw [event_next, hv, hbody]

/-- A command that needs update permission posts DEFERRED before its effect (R146, R169). -/
theorem update_runs (hv : began s t c = v) (hok : ok = true) (hallowed : fnUpdate v (fnOf v c) = true)
    (hbody : body (deferCmd v c) = u) : update s t c ok body = .next u := by
  refine host_runs hv hok ?_
  rw [if_pos hallowed, hbody]

end

/-- A command that is admitted goes on in the state that admits it (R522). -/
theorem admitOr_ok {s u : State} {c : Cmd} {p cls bound : Nat} {k : State → State} (h : admitHard s c p cls bound = .ok u) :
    admitOr s c p cls bound k = k u := by
  simp only [admitOr, h]

/-- A reply that the window takes is written, and the command completes OK with its result. -/
theorem writeReply_ok {s u : State} {c : Cmd} {w : Word} {off result : Nat} {b : Bytes} (h : writeWindow s c w off b = .ok u) :
    writeReply s c w off b result = done u c stOK result := by
  simp only [writeReply, h]

/-- What no step of a fold changes, the fold does not change. -/
theorem foldl_project {α β γ : Type} (p : α → γ) {f : α → β → α} (h : ∀ a b, p (f a b) = p a) (l : List β) (a : α) :
    p (l.foldl f a) = p a := by
  induction l generalizing a with
  | nil => rfl
  | cons b l ih => rw [List.foldl_cons, ih, h]

/-- What no element of a list changes, a fold over the list does not change. -/
theorem foldl_unchanged {α β : Type} {f : α → β → α} {a : α} {l : List β} (h : ∀ b ∈ l, f a b = a) : l.foldl f a = a := by
  induction l with
  | nil => rfl
  | cons b l ih =>
    rw [List.foldl_cons, h b List.mem_cons_self]
    exact ih fun x hx => h x (List.mem_cons_of_mem b hx)

/-- To put one value in the place of an element is to set it. -/
theorem modify_const {α : Type} (l : List α) (n : Nat) (a : α) : l.modify n (fun _ => a) = l.set n a := by
  induction l generalizing n with
  | nil => cases n <;> rfl
  | cons x l ih =>
    cases n with
    | zero => rfl
    | succ n => rw [List.modify_succ_cons, List.set_cons_succ, ih]

end Sys2Proof.Proofs
end

section
/-!
Proof of the statement about the queue commands (O19): CREATE_CQ, CREATE_SQ, DELETE_CQ, DELETE_SQ and ABORT.
-/
namespace Sys2Proof.Proofs
open Sys2Proof Sys2Proof.Machine Sys2Proof.Laws

theorem okQueueShape_of {ring : DWord} {depth : BitVec 17} (hmin : 2 ≤ depth.toNat) (hmax : depth.toNat ≤ 65536)
    (hring : ring.toNat % 4096 = 0) : okQueueShape ring depth = true := by
  simp [okQueueShape, hmin, hmax, hring]

/-- A target that is not outstanding, or whose completion has been posted, is already done (R121). -/
theorem abortRefusal_gone {s : State} {k : CmdKey} (h : findOut s k = none) : abortRefusal s k = some stALREADY_DONE := by
  simp only [abortRefusal, h]

/-- Settles O19: each clause is the branch of its command's meaning that the hypotheses select. That an ABORT which names no queue
is already done is the model's choice (log entry 26). -/
theorem queueCommandsComplete : Obligations.QueueCommandsComplete := by
  refine ⟨?_, ?_, ?_, ?_, ?_, ?_, ?_⟩
  · intro t c id ring depth dev vec n us s v x q hv hmin hmax hring hn hplace
    have hok : okCreateCq ring depth n = true := by
      rw [okCreateCq, okQueueShape_of hmin hmax hring, Bool.true_and, bne_iff_ne]
      exact hn
    change execCreateCq t c id ring depth dev vec n us s = _
    refine host_runs hv hok ?_
    simp only [hplace, orFail_ok]
    rfl
  · intro t c id ring depth anyId dev cq want part cls s v x q p hv hmin hmax hring hpart hcls hplace
    have hok : okCreateSq ring depth part cls = true := by
      simp only [okCreateSq, okQueueShape_of hmin hmax hring, Bool.true_and, Bool.and_eq_true, Bool.or_eq_true,
        decide_eq_true_eq, beq_iff_eq, bne_iff_ne]
      exact ⟨hpart, hcls⟩
    change execCreateSq t c id ring depth anyId dev cq want part cls s = _
    refine host_runs hv hok ?_
    simp only [hplace, orFail_ok]
    rfl
  · intro t c cq s v x hv hx howns hfree
    change execDeleteCq t c cq s = _
    refine host_runs hv rfl ?_
    simp only [hx, howns, hfree, Bool.not_true, Bool.false_eq_true, if_false]
  · intro t c sq s v q u hv hq howns hu
    change execDeleteSq t c sq s = _
    refine host_runs hv rfl ?_
    simp only [hq, howns, hu, Bool.not_true, Bool.false_eq_true, if_false]
  · intro t c sq id s v q hv hq howns hr
    change execAbort t c sq id s = _
    refine host_runs hv rfl ?_
    simp only [hq, howns, hr, Bool.not_true, Bool.false_eq_true, if_false]
    rfl
  · intro t c sq id s v q st hv hq howns hr
    change execAbort t c sq id s = _ ∧ _
    refine ⟨host_runs hv rfl ?_, fun hgone => ?_⟩
    · simp only [hq, howns, hr, Bool.not_true, Bool.false_eq_true, if_false]
    · exact Option.some_inj.1 (hr.symm.trans (abortRefusal_gone hgone))
  · intro t c sq id s v hv hnone
    change execAbort t c sq id s = _
    refine host_runs hv rfl ?_
    simp only [hnone]

end Sys2Proof.Proofs
end

section
/-!
Proof of the statement about what a function writes to move its queues (O20): doorbells, completion-queue heads and the admin
mailbox.
-/
namespace Sys2Proof.Proofs
open Sys2Proof Sys2Proof.Machine Sys2Proof.Laws

/-- A doorbell of a function for a queue of its own moves that queue (R134). -/
theorem execHifDoorbell_rings {t fn : Nat} {value : DWord} {s v : State} {x : SubQueue} (hv : advance s t = v)
    (hready : v.hif.fwReady = true) (hx : findSq v (nfld value.toNat 17 0) = some x) (hfn : fnEnabled v fn = true)
    (hrange : sqInRange v fn (nfld value.toNat 17 0) = true) (howner : x.fn = fn) (hok : x.error = false)
    (htail : nfld value.toNat 47 32 < x.depth) :
    execHifDoorbell t fn value s = .next (ringQueue v fn x (nfld value.toNat 47 32)) := by
  refine event_runs hv ?_
  simp only [hready, hx, hfn, hrange, howner, hok, Nat.not_le.2 htail, bne_self_eq_false, decide_false, Bool.not_true,
    Bool.or_self, Bool.false_eq_true, if_false]

section
variable {s : State} {fn tail : Nat} {x : SubQueue}

/-- The queue's own tail adds no entry. -/
theorem ringQueue_same : ringQueue s fn x x.tail = s := by
  have hnone : (x.tail + x.depth - x.tail) % x.depth = 0 := by
    rw [Nat.add_sub_cancel_left, Nat.mod_self]
  simp only [ringQueue, hnone, if_true]

variable (hnew : (tail + x.depth - x.tail) % x.depth ≠ 0)
include hnew

theorem ringQueue_passes
    (hmany : x.depth - 1 - (x.tail + x.depth - x.head) % x.depth < (tail + x.depth - x.tail) % x.depth) :
    ringQueue s fn x tail = queueError (rejectDoorbell s fn) x.id := by
  simp only [ringQueue, if_neg hnew, if_pos hmany]

variable (hfit : (tail + x.depth - x.tail) % x.depth ≤ x.depth - 1 - (x.tail + x.depth - x.head) % x.depth)
include hfit

theorem ringQueue_lost (hfull : 4096 ≤ s.hif.fifo.length) : ringQueue s fn x tail = loseDoorbell s fn := by
  simp only [ringQueue, if_neg hnew, if_neg (Nat.not_lt.2 hfit), if_pos hfull]

theorem ringQueue_accepted (hroom : s.hif.fifo.length < 4096) :
    ringQueue s fn x tail = { modSq s x.id (fun y => { y with tail := tail }) with
      hif := { s.hif with fifo := s.hif.fifo ++ [{ sq := x.id, tail := tail, stamp := now s }] } } := by
  simp only [ringQueue, if_neg hnew, if_neg (Nat.not_lt.2 hfit), if_neg (Nat.not_le.2 hroom)]
  rfl

end

/-- Two changes of one function are one. -/
theorem modFunc_modFunc (s : State) (n : Nat) (f g : Func → Func) :
    modFunc (modFunc s n f) n g = modFunc s n (g ∘ f) := by
  simp only [modFunc, List.modify_modify_eq]

theorem modFunc_getD {s : State} {n : Nat} (f : Func → Func) (h : n < s.hif.funcs.length) :
    (modFunc s n f).hif.funcs.getD n Func.reset = f (s.hif.funcs.getD n Func.reset) := by
  simp [modFunc, h]

/-- The state with an entry of the mailbox under way: its words are kept, and its command is outstanding (R147). -/
def mailboxTaken (s : State) (fn : Nat) (ws : List Word) : State :=
  { modFunc (modFunc s fn (fun f => { f with mbxCmd := ws })) fn
      (fun f => { f with busy := true, overrun := false, respValid := false }) with
    cmds := { s.cmds with outstanding :=
      s.cmds.outstanding.filter (fun o => o.cmd.key != (entryCmd (.mailbox fn) ws).key) ++
        [{ cmd := entryCmd (.mailbox fn) ws, session := 0, entry := ws, stamp := now s, started := false,
           deferred := false, done := false }] } }

/-- A mailbox in which no command executes takes an entry that passes the checks of R754. -/
theorem execMailboxDoorbell_takes {t fn : Nat} {entry : List Word} {s v : State} (hv : advance s t = v)
    (hup : v.hif.shellOnly = false) (hready : v.hif.fwReady = true) (hfn : fnEnabled v fn = true)
    (hlt : fn < v.hif.funcs.length) (hidle : (v.hif.funcs.getD fn Func.reset).busy = false)
    (hpass : entryStatus (mailboxTaken v fn ((List.range 16).map (wat entry))) (.mailbox fn) fn 0
      ((List.range 16).map (wat entry)) = none) :
    execMailboxDoorbell t fn entry s = .next (mailboxTaken v fn ((List.range 16).map (wat entry))) := by
  have hbusy := modFunc_getD (fun f => { f with mbxCmd := (List.range 16).map (wat entry) }) hlt
  have hready' : (modFunc v fn (fun f => { f with mbxCmd := (List.range 16).map (wat entry) })).hif.fwReady = true := hready
  have hfn' : fnEnabled (modFunc v fn (fun f => { f with mbxCmd := (List.range 16).map (wat entry) })) fn = true := hfn
  refine event_runs hv ?_
  simp only [hup, hbusy, hidle, hready', hfn', Bool.not_true, Bool.or_self, Bool.false_eq_true, if_false]
  change (match entryStatus (mailboxTaken v fn ((List.range 16).map (wat entry))) (.mailbox fn) fn 0
      ((List.range 16).map (wat entry)) with | some st => _ | none => _) = _
  rw [hpass]
  rfl

/-- Settles O20: each clause is the branch of its event that the hypotheses select. -/
theorem doorbellsMoveQueues : Obligations.DoorbellsMoveQueues := by
  refine ⟨⟨?_, ?_⟩, ?_, ?_⟩
  · intro t fn value s v x hv hready hx hfn hrange howner hok htail
    have hring : exec (.hifDoorbell t fn value) s = .next (ringQueue v fn x (nfld value.toNat 47 32)) :=
      execHifDoorbell_rings hv hready hx hfn hrange howner hok htail
    refine ⟨fun hsame _ => ?_, fun hnew hmany => ?_, fun hnew hfit hroom => ?_, fun hnew hfit hfull => ?_⟩
    · rw [hring, hsame, ringQueue_same]
    · rw [hring, ringQueue_passes hnew hmany]
    · rw [hring, ringQueue_accepted hnew hfit hroom]
      rfl
    · rw [hring, ringQueue_lost hnew hfit hfull]
  · intro t fn value s v x hv hup hx hfn hrange howner hhead hfree
    change execHifCqHead t fn value s = _
    refine event_runs hv ?_
    simp only [hup, hx, hfn, hrange, howner, Nat.not_le.2 hhead, Nat.not_lt.2 hfree, bne_self_eq_false, decide_false,
      Bool.not_true, Bool.or_self, Bool.false_eq_true, if_false]
  · intro t fn entry s v hv hup _ _ hlt hbusy
    change execMailboxDoorbell t fn entry s = _
    refine event_runs hv ?_
    simp only [hup, modFunc_getD _ hlt, hbusy, Bool.false_eq_true, if_false, if_true]
  · intro t fn entry s v ws u hv hup hready hfn hlt hidle hws hu hpass
    have htaken : u = mailboxTaken v fn ws := by
      rw [hu, mailboxTaken, modFunc_modFunc]
      rfl
    subst hws
    rw [htaken] at hpass ⊢
    exact execMailboxDoorbell_takes hv hup hready hfn hlt hidle hpass

end Sys2Proof.Proofs
end

section
/-!
Proof of the statement about the accesses of a function to its BARs (O21): BAR0, BAR2, read-only registers and MSI-X vector control.
-/
namespace Sys2Proof.Proofs
open Sys2Proof Sys2Proof.Machine Sys2Proof.Laws

/-- The entry that a write of vector control leaves: its address and data are what the host has written there. -/
def controlledEntry (s : State) (fn vector : Nat) (masked pend : Bool) : MsixEntry :=
  { fn := fn, vector := vector, addr := Config.msixAddr s.free fn vector, data := Config.msixData s.free fn vector,
    masked := masked, pend := pend && masked }

/-- The table with that entry in place of the vector's earlier one. -/
def withMsix (s : State) (e : MsixEntry) : State :=
  takeFree { s with hif := { s.hif with
    msix := s.hif.msix.filter (fun x => !(x.fn == e.fn && x.vector == e.vector)) ++ [e] } }

/-- A vector has the one entry that was put in the table. -/
theorem msixEntryOf_withMsix (s : State) (e : MsixEntry) : msixEntryOf (withMsix s e) e.fn e.vector = e := by
  have hnone : (s.hif.msix.filter (fun x => !(x.fn == e.fn && x.vector == e.vector))).find?
      (fun x => x.fn == e.fn && x.vector == e.vector) = none := by
    refine List.find?_eq_none.2 fun x hx hmatch => ?_
    have hother := (List.mem_filter.1 hx).2
    rw [hmatch] at hother
    exact Bool.false_ne_true hother
  simp only [msixEntryOf, withMsix, takeFree, List.find?_append, hnone, Option.none_or, List.find?_cons, beq_self_eq_true,
    Bool.and_self]

section
variable {t fn vector : Nat} {s v : State} (hv : advance s t = v) (hup : v.hif.shellOnly = false)
  (hvector : vector < fnMsix v fn)
include hv hup hvector

theorem execMsixVectorControlWrite_masks :
    ∃ pend, execMsixVectorControlWrite t fn vector true s = .next (withMsix v (controlledEntry v fn vector true pend)) := by
  refine ⟨v.hif.msix.any (fun e => e.fn == fn && e.vector == vector && e.pend), event_runs hv ?_⟩
  rw [if_neg (by simp [hup, hvector])]
  simp only [Bool.not_true, Bool.and_false, Bool.false_eq_true, if_false]
  rfl

/-- Unmasking a vector whose message is pending sends it (R155). -/
theorem execMsixVectorControlWrite_sends {e : MsixEntry}
    (he : v.hif.msix.find? (fun e => e.fn == fn && e.vector == vector) = some e) (hpend : e.pend = true) :
    execMsixVectorControlWrite t fn vector false s =
      .next (emit (withMsix v (controlledEntry v fn vector false true))
        (.msix fn vector (Config.msixAddr v.free fn vector) (Config.msixData v.free fn vector))) := by
  have hany : v.hif.msix.any (fun e => e.fn == fn && e.vector == vector && e.pend) = true := by
    refine List.any_eq_true.2 ⟨e, List.mem_of_find?_eq_some he, ?_⟩
    have hmatch := List.find?_some he
    rw [hmatch, hpend, Bool.and_self]
  refine event_runs hv ?_
  rw [if_neg (by simp [hup, hvector])]
  simp only [hany, Bool.not_false, Bool.and_self, if_true]
  rfl

end

theorem msixEntryOf_controlled (s : State) (fn vector : Nat) (masked pend : Bool) :
    msixEntryOf (withMsix s (controlledEntry s fn vector masked pend)) fn vector = controlledEntry s fn vector masked pend :=
  msixEntryOf_withMsix s (controlledEntry s fn vector masked pend)

/-- Settles O21: each clause is the branch of its event that the hypotheses select. That a rejected read is not counted is the
model's choice (log entry 21). -/
theorem barAccessesAnswer : Obligations.BarAccessesAnswer := by
  refine ⟨?_, ?_, ?_, ?_, ?_, ?_, fun _ _ _ _ _ => rfl, ?_, ?_⟩
  · intro t fn off size s v hv hup hbad
    change execBar0BadAccess t fn false off size s = _
    refine event_runs hv ?_
    simp only [hup, hbad, Bool.or_self, Bool.false_eq_true, if_false]
    rfl
  · intro t fn off size s v hv hup hbad
    change execBar0BadAccess t fn true off size s = _
    refine event_runs hv ?_
    simp only [hup, hbad, Bool.or_self, Bool.false_eq_true, if_false, if_true]
    rfl
  · intro t fn off size data s v w o hv hup hw ho haccess
    change execBar2Access t fn false off size data s = _
    refine event_runs hv ?_
    simp only [hup, hw, ho, Option.getD_some, haccess, Bool.false_eq_true, if_false]
    rfl
  · intro t fn off size data s v w o hv hup hw ho hwritable haccess
    change execBar2Access t fn true off size data s = _
    refine event_runs hv ?_
    simp only [hup, hw, ho, Option.getD_some, hwritable, haccess, Bool.not_true, Bool.false_eq_true, if_false, if_true]
  · intro t fn off size data s v hv hup hnone
    change execBar2Access t fn false off size data s = _
    refine event_runs hv ?_
    simp only [hup, hnone, Bool.false_eq_true, if_false]
    rfl
  · intro t fn off size data s v hv hup hnone
    change execBar2Access t fn true off size data s = _
    refine event_runs hv ?_
    simp only [hup, hnone, Bool.false_eq_true, if_false, if_true]
    rfl
  · intro t fn vector s v e hv hup hvector he hpend
    have hentry := msixEntryOf_controlled v fn vector false true
    refine ⟨_, execMsixVectorControlWrite_sends hv hup hvector he hpend, ?_, ?_, ?_⟩
    · exact congrArg (fun e => v.out ++ [Output.msix fn vector e.addr e.data]) hentry.symm
    · exact congrArg MsixEntry.masked hentry
    · exact congrArg MsixEntry.pend hentry
  · intro t fn vector s v hv hup hvector
    obtain ⟨pend, hexec⟩ := execMsixVectorControlWrite_masks hv hup hvector
    exact ⟨_, hexec, rfl, congrArg MsixEntry.masked (msixEntryOf_controlled v fn vector true pend)⟩

end Sys2Proof.Proofs
end

section
/-!
Proof of the statement about the movement of entries and completions (O22): SQ_ENTRY_FETCH, COMPLETION_POST and CQ_COALESCE_TIMER.
-/
namespace Sys2Proof.Proofs
open Sys2Proof Sys2Proof.Machine Sys2Proof.Laws

/-- The outstanding command that a fetched entry becomes (R141). -/
def fetchedCommand (x : SubQueue) (ws : List Word) (stamp : Nat) : Outstanding :=
  { cmd := entryCmd (.queue (BitVec.ofNat 18 x.id)) ws, session := x.session, entry := ws, stamp := stamp, started := false,
    deferred := false, done := false }

/-- An entry under a new command_id that passes every check is outstanding from then on (R141, R754). -/
theorem admitEntry_passes {s : State} {x : SubQueue} {ws : List Word} {stamp : Nat}
    (hnew : findOut s (fetchedCommand x ws stamp).cmd.key = none)
    (hpass : entryStatus { s with cmds := { s.cmds with
        outstanding := s.cmds.outstanding ++ [fetchedCommand x ws stamp] } }
      (fetchedCommand x ws stamp).cmd.key.src x.fn x.part ws = none) :
    admitEntry s x ws stamp =
      { s with cmds := { s.cmds with outstanding := s.cmds.outstanding ++ [fetchedCommand x ws stamp] } } := by
  unfold fetchedCommand at hnew hpass
  simp only [admitEntry, hnew, hpass, Option.isSome_none, Bool.false_eq_true, if_false]
  rfl

/-- Taking the doorbells from the FIFO reaches no memory. -/
theorem drainFifo_mem (s : State) : (drainFifo s).mem = s.mem := by
  refine (foldl_project State.mem ?_ s.hif.fifo s : (s.hif.fifo.foldl _ s).mem = s.mem)
  exact fun _ _ => rfl

theorem execSqEntryFetch_fetches {t : Nat} {sq : BitVec 18} {s v : State} {x : SubQueue} {b : Nat × Nat}
    {rest : List (Nat × Nat)} {ws : List Word} (hv : advance s t = v) (hready : v.hif.fwReady = true)
    (hx : findSq (drainFifo v) sq.toNat = some x) (hbells : x.bells = b :: rest)
    (hws : ws = toWords 16 (readKey v.mem (ringKey x.inDevice x.fn (x.ring + 64 * x.head)) 64))
    (hmay : mayFetch (drainFifo v) x ws = true) :
    execSqEntryFetch t sq s = .next (admitEntry (modSq (drainFifo v) x.id (fun y => { y with
      head := (x.head + 1) % x.depth, bells := if (x.head + 1) % x.depth = b.1 then rest else x.bells })) x ws b.2) := by
  refine event_runs hv ?_
  simp only [hready, hx, hbells, drainFifo_mem, ← hws, hmay, Bool.not_true, Bool.false_eq_true, if_false, if_true]

/-- Settles O22: each clause is the branch of its event that the hypotheses select. That a fetch first takes every waiting doorbell
from the FIFO is the model's choice (log entry 20). -/
theorem entriesFetchedCompletionsPosted : Obligations.EntriesFetchedCompletionsPosted := by
  refine ⟨?_, ?_, ?_⟩
  · intro t sq s v x b rest ws u hv hready hx hbells hws hmay hu o ho hnew hpass
    subst ho hu
    exact (execSqEntryFetch_fetches hv hready hx hbells hws hmay).trans
      (congrArg Host.Outcome.next (admitEntry_passes hnew hpass))
  · intro t cq s v x e rest hv hx hwaiting hready hroom
    change execCompletionPost t cq s = _ ∧ _
    refine ⟨event_runs hv ?_, rfl⟩
    simp only [hx, hwaiting, hready, Nat.not_le.2 hroom, decide_false, Bool.not_true, Bool.or_self, Bool.false_eq_true, if_false]
  · intro t cq s v x f hv hx hfirst hdue
    change execCqCoalesceTimer t cq s = _
    refine event_runs hv ?_
    simp only [hx, hfirst]
    exact if_pos hdue

end Sys2Proof.Proofs
end

section
/-!
Proof of the statement about the events of channels and pairs (O28): samples, channel faults, pair mismatches, drains and faults of
safety connections.
-/
namespace Sys2Proof.Proofs
open Sys2Proof Sys2Proof.Machine Sys2Proof.Laws

theorem modChannel_self {s : State} {n : Nat} {f : Channel → Channel} (h : f (getChannel s n) = getChannel s n) :
    modChannel s n f = s := by
  have hid : s.servo.channels.modify n f = s.servo.channels := by
    by_cases hn : n < s.servo.channels.length
    · have hget : s.servo.channels[n]? = some (getChannel s n) := by simp [getChannel, hn]
      rw [modify_congr_at (g := id) hget h, List.modify_id]
    · exact List.modify_eq_self (Nat.le_of_not_lt hn)
  rw [modChannel, hid]

theorem flushReqs_nil {s : State} {n : Nat} (h : (getChannel s n).reqs = []) : flushReqs s n = s := by
  have hself : modChannel s n (fun c => { c with reqs := [] }) = s := by
    refine modChannel_self ?_
    rw [← h]
  rw [flushReqs, h, hself]
  rfl

theorem performFault_none {s : State} {n : Nat} (h : (getChannel s n).faultDue = none) : performFault s n = s := by
  simp only [performFault, h]

/-- A sample without a fault and without waiting commands leaves what the loop computed (R299, R313). -/
theorem execServoSample_runs {t n : Nat} {s v w x : State} {c : Channel} {r : SampleOut} (hv : advance s t = v)
    (hturn : sampleTurn v n = true) (hw : w = commitCycle v) (hfault : (getChannel w n).faultDue = none)
    (hx : x = modChannel w n (fun c => { entryActions (takeBlock c) with outside := none })) (hc : getChannel x n = c)
    (hreqs : c.reqs = []) (hr : r = sampleChannel (sampleInput x n c) c) (hdrive : r.driveFault = false)
    (hhold : r.holdStop = false) :
    execServoSample t n s = .next (stoAtRest { x with servo := { x.servo with
      channels := x.servo.channels.set n r.chan,
      snaps := x.servo.snaps ++ [(n, c)],
      net := { x.servo.net with outImage := writeOutputs c.cfg r.drive r.tffOut r.enable x.servo.net.outImage } } }) := by
  have hflush : flushReqs x n = x := flushReqs_nil (hc ▸ hreqs)
  refine event_runs hv ?_
  dsimp only
  rw [hturn, ← hw, performFault_none hfault, ← hx, hflush, hc, ← hr]
  simp only [hdrive, hhold, Bool.not_true, Bool.false_eq_true, if_false, modChannel, modify_const]
  rfl

/-- The fault events of a channel perform the fault that its last sample declared (R319, R321, R324). -/
theorem faultEvent_due {t n : Nat} {kind : ChanFault} {s v : State} (hv : advance s t = v)
    (hdue : (getChannel v n).faultDue = some kind) : faultEvent t n kind s = .next (performFault v n) := by
  refine event_runs hv ?_
  rw [if_pos hdue]

/-- Discarding a pair's samples does not reach the drain in progress. -/
theorem discardPair_drain (s : State) (p : Nat) : (discardPair s p).servo.drain = s.servo.drain := by
  unfold discardPair
  refine foldl_project (fun s => s.servo.drain) ?_ _ s
  exact fun _ _ => rfl

section
variable {t p : Nat} {s v w : State} (hv : advance s t = v) (hin : (getPair v p).retired = false)
  (hdrain : v.servo.drain = none)
  (hw : w = modPair (discardPair (huskFault v (srcPair p) 3 p 1) p) p (fun x => { x with retired := true }))
include hdrain hw

theorem mismatch_drain : w.servo.drain = none := by
  have hkept : w.servo.drain = (discardPair (huskFault v (srcPair p) 3 p 1) p).servo.drain := by rw [hw]; rfl
  rw [hkept, discardPair_drain]
  simp [hdrain]

include hv hin

theorem execPairLockstepMismatch_moves {u : State} (hmove : moveAll w p = some u) :
    execPairLockstepMismatch t p s = .next u := by
  have hnone := mismatch_drain hdrain hw
  refine event_runs hv ?_
  simp only [hin, ← hw, hmove, hnone, Bool.false_eq_true, if_false]

theorem execPairLockstepMismatch_orphans (hmove : moveAll w p = none) :
    execPairLockstepMismatch t p s = .next ((pairChannels w p).foldl orphan w) := by
  have hnone := mismatch_drain hdrain hw
  refine event_runs hv ?_
  simp only [hin, ← hw, hmove, hnone, Bool.false_eq_true, if_false]

end

/-- Settles O28: each clause is the branch of its event that the hypotheses select. -/
theorem servoEventsAct : Obligations.ServoEventsAct := by
  refine ⟨?_, ?_, ?_, ?_, ?_, ?_, ?_, ?_, ?_⟩
  · intro t n s v hv hturn
    change execServoSample t n s = _
    refine event_runs hv ?_
    rw [hturn]
    rfl
  · intro t n s v w x c r hv hturn hw _ hfault hx hc hreqs hr hdrive hhold
    exact execServoSample_runs hv hturn hw hfault hx hc hreqs hr hdrive hhold
  · intro t n s v hv hdue
    refine (faultEvent_due hv hdue).trans ?_
    simp only [performFault, hdue]
  · intro t n s v hv hdue
    refine (faultEvent_due hv hdue).trans ?_
    simp only [performFault, hdue]
  · intro t n s v hv hdue
    refine (faultEvent_due hv hdue).trans ?_
    simp only [performFault, hdue]
  · intro t p s v w hv hin hdrain hmove
    exact execPairLockstepMismatch_moves hv hin hdrain rfl hmove
  · intro t p s v w hv hin hdrain hw hmove
    exact execPairLockstepMismatch_orphans hv hin hdrain hw hmove
  · intro t n q s v d u hv hdrain hhead htarget hu
    have hsome : (pairChannels v d.pair).isEmpty = false := by
      cases hl : pairChannels v d.pair with
      | nil => rw [hl] at hhead; cases hhead
      | cons => rfl
    change execChannelMove t n q s = _
    refine event_runs hv ?_
    rw [hu]
    simp only [hdrain, hsome, hhead, htarget, reduceCtorEq, and_false, and_self, Bool.false_eq_true, if_false, if_true]
    rfl
  · intro t i s v w node x hv hrun hi hnew hnode hx hw
    change execSafetyConnectionFault t i s = _
    refine event_runs hv ?_
    have hports : w.ports = v.ports := by rw [hw]; rfl
    subst hnode hx
    simp only [hrun, Nat.not_le.2 hi, decide_false, Bool.not_true, Bool.or_self, Bool.false_eq_true, if_false, ← hw, hports,
      hnew]

end Sys2Proof.Proofs
end

section
/-!
Proof of the statement about the servo commands (O29): SERVO_NET_CONFIG, SERVO_CHANNEL_CONFIG, the commands of a channel and
SERVO_GAINS_BASIC.
-/
namespace Sys2Proof.Proofs
open Sys2Proof Sys2Proof.Machine Sys2Proof.Laws

theorem okChannel_of_lt {n : BitVec 7} (h : n.toNat < 96) : okChannel n = true := decide_eq_true h

/-- A channel without read instants takes its command at once (R331). -/
theorem channelCommand_at_once {s : State} {n : Nat} (r : ChanReq) (h : hasReads s (getChannel s n) = false) :
    channelCommand s n r = applyReq s n r := by
  rw [channelCommand, h]
  rfl

/-- A channel with read instants keeps its command until the next one (R331). -/
theorem channelCommand_waits {s : State} {n : Nat} (r : ChanReq) (h : hasReads s (getChannel s n) = true) :
    channelCommand s n r = modChannel s n (fun c => { c with reqs := c.reqs ++ [r] }) := by
  rw [channelCommand, h]
  rfl

theorem applyReq_config {s : State} {n pair : Nat} {c : Cmd} {cfg block : List Word}
    (h : configStatus s n cfg block pair = none) :
    applyReq s n (.config c cfg block pair) = done (modChannel s n (fun x => { Channel.reset with
      cfg := cfg, block := block, pair := pair, reqs := x.reqs, lastCount := x.lastCount,
      stopping := if (match chanGroup s n with | some g => (getGroup s g).inStop | none => false) then .due else .off }))
      c stOK := by
  simp only [applyReq, configChannel, h, refuseOr_none] <;> rfl

theorem applyReq_enable {s : State} {n : Nat} {c : Cmd} (hcfg : configured (getChannel s n) = true)
    (hst : (getChannel s n).st = .disabled) : applyReq s n (.enable c) = done (enterState s n .enabling false) c stOK := by
  simp [applyReq, hcfg, hst]

theorem applyReq_disable {s : State} {n : Nat} {c : Cmd} (hcfg : configured (getChannel s n) = true) :
    applyReq s n (.disable c) = done (enterState s n .disabled false) c stOK := if_pos hcfg

theorem applyReq_clear_hold {s : State} {n : Nat} {c : Cmd} (hst : (getChannel s n).st = .hold) :
    applyReq s n (.clear c) = done (enterState s n .tracking true) c stOK := by
  simp only [applyReq, clearFault, hst]

/-- With no channel to wait for, a network configuration acts at once (R331; log entry 56). -/
theorem netCommand_at_once {s : State} {x : NetConfig} (hreads : ∀ n < 96, hasReads s (getChannel s n) = false)
    (hawake : awakeUnread s = false) (hstatus : netStatus s true x = none) :
    netCommand s x = done (modNet s (fun n => { n with
      tCyc := x.tCyc, txShift := x.txShift, rxBound := x.rxBound, missLimit := x.missLimit })) x.cmd stOK := by
  have hnone : (List.range 96).filter (fun n => hasReads s (getChannel s n)) = [] :=
    List.filter_eq_nil_iff.2 fun n hn => by simp [hreads n (List.mem_range.1 hn)]
  simp only [netCommand, hnone, List.isEmpty_nil, applyNet, hawake, Bool.not_false, hstatus, refuseOr_none, if_true]

/-- A network configuration waits at each channel that has read instants (R331; log entry 122). -/
theorem netCommand_waits {s : State} {x : NetConfig} {l : List Nat}
    (hl : l = (List.range 96).filter (fun n => hasReads s (getChannel s n))) (hne : l ≠ []) :
    netCommand s x = modNet
      (mapChannels s (fun n y => if l.contains n then { y with reqs := y.reqs ++ [.net x.cmd] } else y))
      (fun w => { w with nexts := w.nexts ++ [{ x with left := l }] }) := by
  rw [netCommand, ← hl]
  exact if_neg (mt List.isEmpty_iff.1 hne)

section
variable {t : Nat} {c : Cmd} {n : BitVec 7} {s v : State} {w : Word} {o : DWord} {p : PhaseValue} {b : Bytes}
  (hv : began s t c = v) (hn : n.toNat < 96) (hp : pvOk p = true) (hread : readWindow v c w o.toNat 84 = .ok b)
  (hcfg : (getChannel v n.toNat).cfg.isEmpty = false) (hcyc : v.servo.net.tCyc ≠ 0)
include hv hn hp hread hcfg hcyc

/-- A record from which no block follows is refused (R314). -/
theorem execServoGainsBasic_undefined
    (hnone : (recordValues b).bind (fun x => basicBlock x (samplePeriod v n.toNat)) = none) :
    execServoGainsBasic t c n w o p s = .next (done v c stBAD_DESCRIPTOR) := by
  refine host_runs hv (by rw [okChannel_of_lt hn, hp, Bool.and_self]) ?_
  simp only [hread, hcfg, beq_eq_false_iff_ne.2 hcyc, hnone, Bool.or_self, Bool.false_eq_true, if_false]

/-- A block within its ranges is the payload of an etch that the command stages and arms (R314). -/
theorem execServoGainsBasic_arms {ws : List Word} {id : Nat} {u : State} {e : Etch} {bs : List Bytes}
    (hws : (recordValues b).bind (fun x => basicBlock x (samplePeriod v n.toNat)) = some ws) (hranges : blockRangesOk ws = true)
    (hstageOk : stageOk v (gainEtch n.toNat (ofWords ws) p).1 (gainEtch n.toNat (ofWords ws) p).2 = true)
    (hstage : stageEtch v (sessionOf v c) (fnOf v c) (some c.key) (gainEtch n.toNat (ofWords ws) p).1
      (gainEtch n.toNat (ofWords ws) p).2 = .ok (id, u))
    (he : findEtch u id = some e) (hrows : armRowsOf u (partOf u c) e (.ok [ofWords ws]) = .ok bs) :
    execServoGainsBasic t c n w o p s = .next { u with etch := { u.etch with arming := u.etch.arming ++
      [{ etch := e.id, cmd := c, staged := true, batch := none, payloads := bs, records := [] }] } } := by
  refine host_runs hv (by rw [okChannel_of_lt hn, hp, Bool.and_self]) ?_
  simp only [hread, hcfg, beq_eq_false_iff_ne.2 hcyc, hws, hranges, hstageOk, hstage, he, hrows, Bool.not_true, Bool.or_self,
    Bool.false_eq_true, if_false]

end

/-- Settles O29: each clause is the effect of its command on a channel with or without read instants. That a channel without read
instants acts at once, and that a network configuration waits at each of the others, are the model's choices (log entries 56,
122). -/
theorem servoCommandsComplete : Obligations.ServoCommandsComplete := by
  refine ⟨?_, ?_, ?_, ?_, ?_, ?_, ?_, ?_⟩
  · intro t c a b d m s v x hv hamin hamax hb hd ha hmmin hmmax hx
    have hok : netRangesOk a.toNat b.toNat d.toNat m.toNat = true := by
      simp [netRangesOk, inRange, hamin, hamax, hb, hd, ha, hmmin, hmmax]
    subst hx
    refine ⟨fun hreads hawake hstatus => ?_, fun l hl hne => ?_⟩
    · change execServoNetConfig t c a b d m s = _
      refine host_runs hv hok ?_
      rw [netCommand_at_once hreads hawake hstatus]
      rfl
    · change execServoNetConfig t c a b d m s = _
      exact host_runs hv hok (netCommand_waits hl hne)
  · intro t c n p cw co bw bo s v a b hv hn ha hb hreads hstatus
    change execServoChannelConfig t c n p cw co bw bo s = _
    refine host_runs hv (okChannel_of_lt hn) ?_
    simp only [ha, hb]
    exact (channelCommand_at_once _ hreads).trans (applyReq_config hstatus)
  · intro t c n s v hv hn hreads hcfg hst
    change execServoEnable t c n s = _
    exact host_runs hv (okChannel_of_lt hn) ((channelCommand_at_once _ hreads).trans (applyReq_enable hcfg hst))
  · intro t c n s v hv hn hreads hcfg
    change execServoDisable t c n s = _
    exact host_runs hv (okChannel_of_lt hn) ((channelCommand_at_once _ hreads).trans (applyReq_disable hcfg))
  · intro t c n s v hv hn hreads hst
    change execServoClearFault t c n s = _
    exact host_runs hv (okChannel_of_lt hn) ((channelCommand_at_once _ hreads).trans (applyReq_clear_hold hst))
  · intro t c n s v hv hn hreads
    change execServoStatus t c n s = _
    exact host_runs hv (okChannel_of_lt hn) (channelCommand_at_once _ hreads)
  · intro t c n s v hv hn hreads
    have hok := okChannel_of_lt hn
    change execServoStatus t c n s = _ ∧ execServoEnable t c n s = _ ∧ execServoDisable t c n s = _
      ∧ execServoClearFault t c n s = _
    exact ⟨host_runs hv hok (channelCommand_waits _ hreads), host_runs hv hok (channelCommand_waits _ hreads),
      host_runs hv hok (channelCommand_waits _ hreads), host_runs hv hok (channelCommand_waits _ hreads)⟩
  · intro t c n w o p s v b hv hn hp hread hcfg hcyc
    exact ⟨execServoGainsBasic_undefined hv hn hp hread hcfg hcyc, fun ws id u e bs =>
      execServoGainsBasic_arms hv hn hp hread hcfg hcyc⟩

end Sys2Proof.Proofs
end

section
/-!
Proof of the statement about the memory commands (O30): MEM_ALLOC, MEM_FREE, WINDOW_OPEN and WINDOW_CLOSE.
-/
namespace Sys2Proof.Proofs
open Sys2Proof Sys2Proof.Machine Sys2Proof.Laws

theorem okMemAlloc_of {bytes : DWord} {cls : BitVec 4} {al : BitVec 8} (hbytes : bytes ≠ 0) (hcls : cls.toNat ≤ 3)
    (hmin : 12 ≤ al.toNat) (hmax : al.toNat ≤ 30) : okMemAlloc bytes cls al = true := by
  rw [okMemAlloc, bne_iff_ne.2 hbytes, decide_eq_true hcls, decide_eq_true hmin, decide_eq_true hmax]
  rfl

/-- Settles O30: each clause is the branch of its command's meaning in which nothing refuses the command. That MEM_FREE closes the
windows over its allocation is the model's choice (log entry 41). -/
theorem memoryCommandsComplete : Obligations.MemoryCommandsComplete := by
  refine ⟨?_, ?_, ?_, ?_⟩
  · intro t c id bytes cls al s v x a hv hbytes hcls hmin hmax hx hname hquota hplace
    change execMemAlloc t c id bytes cls al s = _
    refine host_runs hv (okMemAlloc_of hbytes hcls hmin hmax) ?_
    simp only [hx, hname, Nat.not_lt.2 hquota, hplace, Bool.not_true, Bool.false_eq_true, if_false]
    rfl
  · intro t c addr s v a id u hv ha hsession howns hfree hu
    change execMemFree t c addr s = _
    refine host_runs hv rfl ?_
    simp only [ha, hsession, howns, hfree, ← hu, Bool.not_true, Bool.false_eq_true, if_false]
  · intro t c base len isHost bar2 wr s v x o id hv hx hplace hid
    change execWindowOpen t c base len isHost bar2 wr s = _
    refine host_runs hv rfl ?_
    simp only [hx, hplace, orFail_ok, hid]
    rfl
  · intro t c w s v x u hv hx howns hfree hu
    subst hu
    change execWindowClose t c w s = _
    refine host_runs hv rfl ?_
    simp only [hx, howns, hfree, Bool.not_true, Bool.false_eq_true, if_false] <;> rfl

end Sys2Proof.Proofs
end

section
/-!
Proof of the statement about DMA (O31): how DMA_COPY, DMA_FILL and DMA_CRC begin, how a transfer ends, and the time-out of one with
the host.
-/
namespace Sys2Proof.Proofs
open Sys2Proof Sys2Proof.Machine Sys2Proof.Laws

/-- A transfer of a command that begins now (R153). -/
def newTransfer (s : State) (c : Cmd) (kind : TransferKind) (length : Nat) : Transfer :=
  { cmd := c, kind := kind, length := length, start := now s, cut := none }

/-- A transfer whose ends stop it nowhere is in progress; its write, accepted now, clears the weights that it overlaps (R640). -/
theorem startTransfer_writes {s : State} {c : Cmd} {kind : TransferKind} {n w d : Nat}
    (hdst : transferDst (newTransfer s c kind n) = some (w, d))
    (hsrc : ∀ k, transferSrc (newTransfer s c kind n) = some k → endStatus s c k n false = none)
    (hend : endStatus s c d n true = none) :
    startTransfer s c kind n = { clearWeights s d n with
      cmds := { s.cmds with transfers := s.cmds.transfers ++ [newTransfer s c kind n] } } := by
  have hcmds : (clearWeights s d n).cmds = s.cmds := by simp
  unfold newTransfer at *
  cases hk : transferSrc { cmd := c, kind := kind, length := n, start := now s, cut := none } with
  | none => simp only [startTransfer, hdst, hk, hend, hcmds, Option.orElse_eq_orElse, Option.orElse]
  | some k => simp only [startTransfer, hdst, hk, hend, hsrc k hk, hcmds, Option.orElse_eq_orElse, Option.orElse]

theorem startTransfer_crc {s : State} {c : Cmd} {n k : Nat} (hend : endStatus s c k n false = none) :
    startTransfer s c (.crc k) n =
      { s with cmds := { s.cmds with transfers := s.cmds.transfers ++ [newTransfer s c (.crc k) n] } } := by
  simp only [startTransfer, transferSrc, transferDst, hend, Option.orElse_eq_orElse, Option.orElse]
  rfl

/-- Counting the bursts that were read again reaches no memory. -/
theorem countRereads_mem (s : State) (l : List (Nat × Nat)) : (countRereads s l).mem = s.mem := by
  unfold countRereads
  dsimp only
  split <;> rfl

/-- What a transfer reads on the device is counted in the bursts that were read again (R416; log entry 151). -/
def countSource (s : State) (a n : Nat) : State := if a < hostBase then countRereads s [(a, n)] else s

theorem countSource_mem (s : State) (a n : Nat) : (countSource s a n).mem = s.mem := by
  unfold countSource
  split
  · exact countRereads_mem s _
  · rfl

section
variable {s : State} {x : Transfer} {a w d : Nat} {p : Word}

theorem landAll_copy (hkind : x.kind = .copy a w d) (haccess : accessStatus s d x.length true = none) :
    landAll s x = done (dropTransfer (putKey s d (readKey s.mem a x.length)) x) x.cmd stOK x.length := by
  simp only [landAll, hkind, transferDst, haccess, transferData]

theorem landAll_fill (hkind : x.kind = .fill w d p) (haccess : accessStatus s d x.length true = none) :
    landAll s x = done (dropTransfer (putKey s d
      ((List.range x.length).map (fun i => BitVec.ofNat 8 (p.toNat / 256 ^ (i % 4))))) x) x.cmd stOK x.length := by
  simp only [landAll, hkind, transferDst, haccess, transferData]
  rfl

theorem landAll_crc (hkind : x.kind = .crc a) :
    landAll s x = done (dropTransfer s x) x.cmd stOK (crc32c (readKey s.mem a x.length)).toNat := by
  simp only [landAll, hkind]

end

section
variable {t : Nat} {k : CmdKey} {s v : State} {x : Transfer} (hv : advance s t = v)
  (hx : v.cmds.transfers.find? (fun x => x.cmd.key == k && (x.cut.isSome || hasChannel v x)) = some x) (hcut : x.cut = none)
  (hlate : transferLate v x = false) (hclosed : closedAtStamp v t x = false)
include hv hx hcut hlate hclosed

/-- A transfer that nothing cuts short lands all of its bytes, its source counted where it has one. -/
theorem execDmaTransferComplete_reads {a : Nat} (hsrc : transferSrc x = some a) :
    execDmaTransferComplete t k .done s = .next (landAll (countSource v a x.length) x) := by
  refine event_runs hv ?_
  simp only [hx, hcut, hlate, hclosed, hsrc, Bool.false_eq_true, if_false]
  rfl

theorem execDmaTransferComplete_no_source (hsrc : transferSrc x = none) :
    execDmaTransferComplete t k .done s = .next (landAll v x) := by
  refine event_runs hv ?_
  simp only [hx, hcut, hlate, hclosed, hsrc, Bool.false_eq_true, if_false]

end

/-- Settles O31: each clause is the branch of its command or event that the hypotheses select. That the bytes land when the transfer
completes, and that its re-reads are counted then, are the model's choices (log entries 23, 151). -/
theorem transfersMoveBytes : Obligations.TransfersMoveBytes := by
  refine ⟨?_, ?_, ?_, ?_, ?_, ?_, ?_⟩
  · intro t c a b ao bo n q s v k d x hv hq hallowed ha hb hsrc hdst hx
    change execDmaCopy t c a b ao bo n q s = _
    refine host_runs hv (bne_iff_ne.2 hq) ?_
    simp only [hallowed, ha, hb, orFail_ok, Bool.not_true, Bool.false_eq_true, if_false]
    rw [startTransfer_writes (w := b.toNat) rfl (fun k' hk' => by cases hk'; exact hsrc) hdst, hx]
    rfl
  · intro t c b bo n p s v d x hv hb hdst hx
    change execDmaFill t c b bo n p s = _
    refine host_runs hv rfl ?_
    simp only [hb, orFail_ok]
    rw [startTransfer_writes (w := b.toNat) rfl (fun k' hk' => by cases hk') hdst, hx]
    rfl
  · intro t c a ao n s v k x hv ha hsrc hx
    change execDmaCrc t c a ao n s = _
    refine host_runs hv rfl ?_
    simp only [ha, unlisted, orFail_ok]
    rw [startTransfer_crc hsrc, hx]
    rfl
  · intro t k s v x a w d u hv hx hcut hlate hclosed hkind hu haccess
    have hsrc : transferSrc x = some a := by simp only [transferSrc, hkind]
    have hcount : u = countSource v a x.length := hu
    refine (execDmaTransferComplete_reads hv hx hcut hlate hclosed hsrc).trans ?_
    rw [← hcount, landAll_copy hkind haccess, hcount, countSource_mem]
  · intro t k s v x p w d hv hx hcut hlate hclosed hkind haccess
    have hsrc : transferSrc x = none := by simp only [transferSrc, hkind]
    refine (execDmaTransferComplete_no_source hv hx hcut hlate hclosed hsrc).trans ?_
    rw [landAll_fill hkind haccess]
  · intro t k s v x a u hv hx hcut hlate hclosed hkind hu
    have hsrc : transferSrc x = some a := by simp only [transferSrc, hkind]
    have hcount : u = countSource v a x.length := hu
    refine (execDmaTransferComplete_reads hv hx hcut hlate hclosed hsrc).trans ?_
    rw [landAll_crc hkind, countSource_mem, hcount]
  · intro t k s v x hv hx hcut hchannel hhost hlate
    change execHostDmaCompletionTimeout t k s = _
    refine event_runs hv ?_
    simp only [hx, hhost, hcut, hchannel, Option.isNone_none, Bool.and_self, Bool.true_and]
    exact if_pos (decide_eq_true hlate)

end Sys2Proof.Proofs
end

section
/-!
Proof of the statement about the Plate commands (O33): PLATE_LOAD, PLATE_UNLOAD, PLATE_START, PLATE_STATUS, SQ_MIGRATE and
SELFTEST_STATUS.
-/
namespace Sys2Proof.Proofs
open Sys2Proof Sys2Proof.Machine Sys2Proof.Laws

/-- A sector runs 4 quanta in each interval, an engine 3 and a slice 2 (R544). -/
theorem quantaDue_eq {n : Nat} (h : n ≤ 2) : quantaDue n = 4 - n := by
  match n, h with
  | 0, _ => rfl
  | 1, _ => rfl
  | 2, _ => rfl

theorem okSelftest_of {cls : BitVec 2} {unit : BitVec 5}
    (h : (cls = 0 ∧ unit.toNat ≤ 17) ∨ (cls = 1 ∧ unit.toNat ≤ 8) ∨ (cls = 2 ∧ unit.toNat ≤ 15)) :
    okSelftest cls unit = true ∧ cls.toNat ≤ 2 := by
  rcases h with ⟨rfl, hunit⟩ | ⟨rfl, hunit⟩ | ⟨rfl, hunit⟩ <;> exact ⟨decide_eq_true hunit, by decide⟩

/-- Settles O33: each clause is the branch of its command's meaning in which nothing refuses the command. That PLATE_START puts the
entries in force at once, and that SQ_MIGRATE takes the queue's own partition too, are the model's choices (log entries 43,
155). -/
theorem plateCommandsComplete : Obligations.PlateCommandsComplete := by
  refine ⟨?_, ?_, ?_, ?_, ?_, ?_⟩
  · intro t c w off len s v b h hv hread hok hallowed hplace
    change execPlateLoad t c w off len s = _
    refine host_runs hv rfl ?_
    simp only [hread, orFail_ok, hok, hallowed, hplace, Bool.not_true, Bool.false_eq_true, if_false]
    rfl
  · intro t c h s v hv hloaded hrun hnamed
    change execPlateUnload t c h s = _
    refine host_runs hv rfl ?_
    simp only [hloaded, beq_eq_false_iff_ne.2 hrun, hnamed, Bool.not_true, Bool.or_self, Bool.false_eq_true, if_false]
  · intro t c h s v k b hv hdefault hb hresources
    change execPlateStart t c h s = _
    refine host_runs hv rfl ?_
    dsimp only
    rw [hdefault, hb]
    simp only [hresources, Bool.not_true, Bool.false_eq_true, if_false]
  · intro t c s v hv
    change execPlateStatus t c s = _
    exact host_runs hv rfl rfl
  · intro t c q p s v x hv hx howns hfree hpart haccepts
    change execSqMigrate t c q p s = _
    refine host_runs hv rfl ?_
    simp only [hx, howns, hfree, hpart, haccepts, Bool.not_true, Bool.or_self, Bool.false_eq_true, if_false]
  · intro t c cls unit s v hv hunit
    obtain ⟨hok, hcls⟩ := okSelftest_of hunit
    change execSelftestStatus t c cls unit s = _
    refine host_runs hv hok ?_
    rw [quantaDue_eq hcls]

end Sys2Proof.Proofs
end

section
/-!
Proof of the statement about the boundaries, slots and self-test quanta of the running Plate (O34).
-/
namespace Sys2Proof.Proofs
open Sys2Proof Sys2Proof.Machine Sys2Proof.Laws

/-- A slot whose offsets hold the phase opens: the body of SLOT_START without an overrun (R518, R521). -/
theorem execSlotStart_opens {t n : Nat} {s v : State} {w : List Word} (hv : advance s t = v) (hw : slotAt v n = some w)
    (hrun : cyclesRun v = true) (hstart : slStart w ≤ majorPhase v) (hend : majorPhase v < slEnd w)
    (hquiet : overrunning v (slPart w) = false) :
    execSlotStart t n s = .next (if slUse w = 3 then modPart v (slPart w) (fun x => { x with check := some n, checkSince := now v })
      else actionSlot (modPart v (slPart w) (fun x => { x with slot := some n, since := now v })) n) := by
  refine event_runs hv ?_
  simp only [hw, hrun, Nat.not_lt.2 hstart, Nat.not_le.2 hend, hquiet, decide_false, Bool.not_true, Bool.or_self,
    Bool.false_eq_true, if_false]

/-- Without a swap that waits for the boundary neither firmware nor Shell changes there (R169, R620). -/
theorem rebootNow_takeOver {s : State} (hfw : s.boot.swap = none) (hshell : s.boot.shellSwap = none) :
    rebootNow (takeOver s) = s := by
  have htake : takeOver s = s := by simp only [takeOver, hfw]
  simp only [htake, rebootNow, hshell]

/-- Settles O34: each clause is the branch of its event that the hypotheses select. -/
theorem slotsOpenAndClose : Obligations.SlotsOpenAndClose := by
  refine ⟨⟨?_, ?_, ?_, ?_, ?_, ?_⟩, ?_, ?_, ?_, ?_⟩
  · intro t s v hv hdefault hdue hswap hshell
    change execPlateBoundary t s = _
    refine event_runs hv ?_
    have hpassed : ¬ now v < v.plate.origin + 1000000 := Nat.not_lt.2 hdue
    rw [if_pos hdefault, if_neg hpassed]
    exact rebootNow_takeOver hswap hshell
  · intro t s v hv hdefault hearly
    change execPlateBoundary t s = _
    refine event_runs hv ?_
    rw [if_pos hdefault]
    exact if_pos hearly
  · intro t s v k hv hnot hrun hswap hshell hk
    change execPlateBoundary t s = _
    refine event_runs hv ?_
    rw [hk, if_neg (Bool.eq_false_iff.1 hnot), hrun]
    exact rebootNow_takeOver hswap hshell
  · intro t n s v w hv hw hrun hstart hend hquiet huse
    refine (execSlotStart_opens hv hw hrun hstart hend hquiet).trans ?_
    rw [if_pos huse]
    rfl
  · intro t n s v w hv hw hrun hstart hend hquiet huse
    refine (execSlotStart_opens hv hw hrun hstart hend hquiet).trans ?_
    rw [if_neg huse]
    rfl
  · intro t n s v w hv hw hout hcheck
    have hpast : (decide (slStart w ≤ majorPhase v) && decide (majorPhase v < slEnd w)) = false := by
      rw [← Bool.decide_and, decide_eq_false hout]
    change execSlotEnd t n s = _
    refine event_runs hv ?_
    simp only [hw, hpast, if_neg hcheck, Bool.false_eq_true, if_false]
  · intro t cls unit s v hv hidle hleft hallowed
    change execSelftestQuantumStart t cls unit s = _
    refine event_runs hv ?_
    simp only [hidle, Nat.not_le.2 hleft, hallowed, decide_false, Bool.not_true, Bool.or_self, Bool.false_eq_true, if_false]
  · intro t cls unit s v hv hrunning
    change execSelftestQuantumEnd t cls unit false s = _
    refine event_runs hv ?_
    simp only [hrunning, Bool.not_true, Bool.false_eq_true, if_false]
  · intro t cls unit s v hv hrunning
    change execSelftestQuantumEnd t cls unit true s = _
    refine event_runs hv ?_
    simp only [hrunning, Bool.not_true, Bool.false_eq_true, if_false, if_true]
  · intro t s v hv hdue hready hnone hanswer
    have hgo : ¬ (now v < v.plate.intervalStart + selftestMs v * 1000000 ∨ (!v.hif.fwReady) = true) := by
      rw [hready]
      exact fun h => h.elim (Nat.not_lt.2 hdue) (by decide)
    change execDiagnosticIntervalEnd t s = _
    refine event_runs hv ?_
    rw [if_neg hgo]
    simp only [hnone, List.foldl_nil, hanswer, List.isEmpty_nil, Bool.not_true, Bool.not_false, Bool.and_self,
      Bool.false_eq_true, if_false, if_true]

end Sys2Proof.Proofs
end

section
/-!
Proof of the statement about the structure commands (O35): STRUCT_LOAD, STRUCT_UNLOAD, STRUCT_QUERY, ENGINE_STATUS and
SOLVE_DIAG_READ.
-/
namespace Sys2Proof.Proofs
open Sys2Proof Sys2Proof.Machine Sys2Proof.Laws

theorem okEngine_of_le {e : BitVec 4} (h : e.toNat ≤ 8) : okEngine e = true := decide_eq_true h

/-- The images of an engine that a load into a slot leaves: its standby image goes (R228, R229). -/
def imagesLeft (s : State) (e slot : Nat) : List Image :=
  match (getSlot s e slot).standby with
  | some old => ((getEngine s e).slots.flatMap Slot.images).erase old
  | none => (getEngine s e).slots.flatMap Slot.images

section
variable {t : Nat} {c : Cmd} {eng : BitVec 4} {s v : State} {e : Nat} (hv : began s t c = v) (heng : eng.toNat ≤ 8)
include hv heng

/-- A load whose image fits beside those that stay becomes its slot's standby image (R227–R230, R253). -/
theorem execStructLoad_loads {w : Word} {off : DWord} {len : Word} {b : Bytes} {ver : BitVec 16} {im : Image} {l : List Image}
    (he : commandEngine v c eng = some e) (hread : readWindow v c w off.toNat len.toNat = .ok b) (hok : imageOk b = true)
    (hver : loadVersion v c e b = .ok ver)
    (hfree : ∀ old, (getSlot v e (verSlot ver)).standby = some old → imageHeld v e old.version = false)
    (him : im = { bytes := b, version := ver, usable := true, session := sessionOf v c })
    (hl : l = im :: imagesLeft v e (verSlot ver)) (hstore : storeUsed l ≤ 4194304) (hwork : workUsed l ≤ 2097152) :
    execStructLoad t c eng w off len s = .next (done (modSlot v e (verSlot ver) (fun y => { y with standby := some im })) c stOK
      (ver.toNat + (4194304 - storeUsed l) / 1024 * 2 ^ 32)) := by
  have hfits : ¬ (4194304 < storeUsed l ∨ 2097152 < workUsed l) := by omega
  refine host_runs hv (okEngine_of_le heng) ?_
  cases hstandby : (getSlot v e (verSlot ver)).standby with
  | none =>
    rw [imagesLeft, hstandby] at hl
    simp only [he, hread, orFail_ok, hok, hver, hstandby, ← him, ← hl, if_neg hfits, Bool.not_true, Bool.false_eq_true, if_false]
    rfl
  | some old =>
    rw [imagesLeft, hstandby] at hl
    simp only [he, hread, orFail_ok, hok, hver, hstandby, hfree old hstandby, ← him, ← hl, if_neg hfits, Bool.not_true,
      Bool.false_eq_true, if_false]
    rfl

theorem execStructQuery_both {slot : BitVec 3} {a b : Image} (he : queriedEngine v c eng = some e)
    (ha : (getSlot v e slot.toNat).active = some a) (hb : (getSlot v e slot.toNat).standby = some b) :
    execStructQuery t c eng slot s = .next (done v c stOK (a.version.toNat + b.version.toNat * 2 ^ 16
      + workFree (getEngine v e).images * 2 ^ 32 + storeFree (getEngine v e).images * 2 ^ 48)) := by
  refine host_runs hv (okEngine_of_le heng) ?_
  simp only [he, ha, hb]

end

/-- Settles O35: each clause is the branch of its command's meaning that the hypotheses select. What the engines answer by their mode
is the model's choice (log entry 55). -/
theorem structureCommandsComplete : Obligations.StructureCommandsComplete := by
  refine ⟨?_, ?_, ?_, ?_, ?_, ?_, ?_, ?_⟩
  · intro t c eng w off len s v e b ver im l hv heng he hread hok hver hfree him hl hstore hwork
    exact execStructLoad_loads hv heng he hread hok hver hfree him hl hstore hwork
  · intro t c eng ver s v e hv heng he hstandby hfree
    change execStructUnload t c eng ver s = _
    refine host_runs hv (okEngine_of_le heng) ?_
    simp only [he, hstandby, hfree, Bool.false_eq_true, if_false, if_true]
  · intro t c eng ver s v e hv heng he hstandby hactive hwaiting hrun hfree
    change execStructUnload t c eng ver s = _
    refine host_runs hv (okEngine_of_le heng) ?_
    simp only [he, hstandby, hactive, hwaiting, hrun, hfree, Option.map_none, reduceCtorEq, List.any_nil, Option.isSome_none,
      Bool.or_self, Bool.false_eq_true, if_false, if_true]
  · intro t c eng slot s v e a b hv heng he ha hb
    exact execStructQuery_both hv heng he ha hb
  · intro t c eng s v e hv heng he
    change execEngineStatus t c eng s = _
    refine host_runs hv (okEngine_of_le heng) ?_
    simp only [he]
  · intro t c eng slot w off cap s v e b u hv heng he hdiag hcap hwrite
    change execSolveDiagRead t c eng slot w off cap s = _
    refine host_runs hv (okEngine_of_le heng) ?_
    simp only [he, hdiag, if_neg (Nat.not_lt.2 hcap), writeReply, hwrite]
  · intro t c eng s v slot hv heng hnone
    have hok := okEngine_of_le heng
    change execStructQuery t c eng slot s = _ ∧ execEngineStatus t c eng s = _
    refine ⟨host_runs hv hok ?_, host_runs hv hok ?_⟩
    · simp only [hnone]
    · simp only [hnone]
  · intro t c eng w off len s v hv heng hnone
    change execStructLoad t c eng w off len s = _
    refine host_runs hv (okEngine_of_le heng) ?_
    simp only [hnone]

end Sys2Proof.Proofs
end

section
/-!
Proof of the statement about a solve from its submission to its result (O36), and about the pivots of the solver engines.
-/
namespace Sys2Proof.Proofs
open Sys2Proof Sys2Proof.Machine Sys2Proof.Laws

/-- Counting the bursts that were read again takes no time. -/
theorem now_countRereads (s : State) (l : List (Nat × Nat)) : now (countRereads s l) = now s := by
  unfold countRereads
  dsimp only
  split <;> rfl

/-- A usable image whose run is possible gives its engine that run (R231, R234). -/
theorem startSolve_takes {s : State} {e : Nat} {w : WaitingSolve} {im : Image} {run : Run}
    (him : (getSlot s e w.slot).active = some im) (husable : im.usable = true)
    (hrun : solveRun s w (getSlot s e w.slot) im = .ok run) : startSolve s e w false = takeSolve s e w run := by
  simp only [startSolve, him, husable, hrun, Bool.not_true, Bool.false_eq_true, if_false]

/-- A batch whose checks pass and which is admitted is placed on its engines (R275–R279, R522). -/
theorem submitBatch_ok {s u : State} {c : Cmd} {session : Option Word} {p cls sq key n : Nat} {xs : List Scenario}
    (hxs : batchScenarios s c session p sq (readKey s.mem key (64 + 48 * n)) n = .ok xs)
    (hadmit : admitHard s c p cls (batchBound s c session p cls sq xs) = .ok u) :
    submitBatch s c session p cls sq key n =
      placeBatch u (batchOf s c session p cls sq key (readKey s.mem key (64 + 48 * n)) xs) := by
  simp only [submitBatch, hxs, admitOr_ok hadmit]

/-- SOLVE_COMPLETE on an active engine of a run of its epoch (R247, R288). -/
theorem execSolveComplete_current {t e : Nat} {s v : State} {r : Run} (hv : advance s t = v)
    (hr : (getEngine v e).run = some r) (hactive : (getEngine v e).mode = .active)
    (hepoch : r.job.epoch = (getEngine v e).epoch) :
    execSolveComplete t e s = .next (if r.writing then completeSolve v e r else v) := by
  refine event_runs hv ?_
  simp only [hr, hactive, hepoch, bne_self_eq_false, Bool.or_self, Bool.false_eq_true, if_false]

/-- A result whose window is open and whose place may be written stands there; its slot keeps what the run leaves (R247, R257, R264;
log entry 156). -/
theorem completeSolve_lands {s z u : State} {e : Nat} {r : Run} {rep : SolveReport}
    (hrep : rep = solveResult r (getEngine s e).epoch (now s))
    (hwindow : ∀ w, r.job.resultWindow = some w → s.cmds.windows.any (fun x => x.id == w) = true)
    (hz : z = countRereads s (r.guards.map (fun g => (g.lo, g.hi - g.lo))))
    (hu : u = chargeRun (modEngine z e (fun x => { x with run := none, solves := satInc x.solves })) r)
    (haccess : accessStatus z r.job.result rep.bytes.length true = none) :
    completeSolve s e r = solveOver
      (endSolveImprint (modSlot (putKey u r.job.result rep.bytes) e r.job.slot (fun x => if r.rewritten then x else { x with
          items := itemsAfter r, persistent := keptWords (SolveInput.ofRun r), seeds := (engineDone (SolveInput.ofRun r)).seeds }))
        r (getEngine s e).epoch (now s) rep.degraded
        (some (solveResultItem rep.bytes (if rep.plan then some rep.planOffset else none))))
      r.job
      { status := if rep.degraded then stDEGRADED else stOK, warn := rep.warn, iterations := r.params.iterations,
        feasible := rep.feasible, degraded := rep.degraded, plan := rep.plan, planCrc := rep.planCrc,
        planAddr := r.job.result + rep.planOffset, planLen := rep.planLength, stamp := now s, epoch := (getEngine s e).epoch,
        engine := some e } := by
  have hnow : now z = now s := by rw [hz, now_countRereads]
  have hopen : (match r.job.resultWindow with | some w => !s.cmds.windows.any (fun x => x.id == w) | none => false) = false := by
    cases hw : r.job.resultWindow with
    | none => rfl
    | some w => simp only [hwindow w hw, Bool.not_true]
  unfold completeSolve
  dsimp only
  rw [← hz, ← hu, ← hrep, hnow, haccess]
  exact if_neg (Bool.eq_false_iff.1 hopen)

/-! Pivots (R261, R262). -/

theorem pivotUsed_small {tau p : Int} (h : (p.natAbs : Int) < tau) : pivotUsed tau p = if p < 0 then -tau else tau :=
  if_pos (decide_eq_true h)

theorem pivotUsed_large {tau p : Int} (h : tau ≤ p.natAbs) : pivotUsed tau p = p := by
  have hlarge : pivotSmall tau p = false := decide_eq_false (Int.not_lt.2 h)
  rw [pivotUsed, hlarge]
  rfl

/-- A pivot below tau in magnitude is replaced by tau with its sign, and 0 by tau (R261). -/
theorem pivotUsed_cases {tau p : Int} (htau : 0 < tau) :
    (p = 0 → pivotUsed tau p = tau) ∧ (0 < p → p < tau → pivotUsed tau p = tau) ∧ (p < 0 → -tau < p → pivotUsed tau p = -tau)
    ∧ (tau ≤ p ∨ p ≤ -tau → pivotUsed tau p = p) := by
  refine ⟨fun h => ?_, fun hpos hlt => ?_, fun hneg hlt => ?_, fun h => pivotUsed_large (by omega)⟩
  · rw [pivotUsed_small (by omega), if_neg (by omega)]
  · rw [pivotUsed_small (by omega), if_neg (by omega)]
  · rw [pivotUsed_small (by omega), if_pos hneg]

/-- A seed whose error exceeds 2^-8 is not refined (R262). -/
theorem refined_none {p x : Int} {fa F fe : Nat} {fx : Int}
    (h : 2 ^ (fa + F) < ((2 ^ (fa + F) : Nat) - p * x : Int).natAbs * 256) : refined p x fa F fe fx = none :=
  if_neg (Nat.not_le.2 h)

/-- Settles O36: each clause is the branch of its command or event that the hypotheses select, and the two rules of the pivots. That a
slot whose state was written meanwhile keeps that state is the model's choice (log entry 156). -/
theorem solvesRun : Obligations.SolvesRun := by
  refine ⟨?_, ?_, ?_, ?_, ?_, ?_, ?_, fun tau p => pivotUsed_cases, ?_, ?_⟩
  · intro t c eng slot dw doff rw_ roff cap s v e im dk rk w n u hv heng hgrant he him hdk hrk hdevice hw hn hadmit
    subst hw hn
    have hplace : (c.deadline.isSome && decide (hostBase ≤ rk)) = false := by
      rcases hdevice with h | h
      · rw [h, Bool.false_and]
      · rw [decide_eq_false (Nat.not_le.2 h), Bool.and_false]
    change execSolve t c eng slot dw doff rw_ roff cap s = _
    refine hostWait_runs hv (okEngine_of_le heng) ?_
    simp only [hgrant, he, him, hdk, hrk, orFail_ok, hplace, Bool.not_true, Bool.false_eq_true, if_false]
    exact admitOr_ok hadmit
  · intro t c w off s v h key b q xs u hv hread hok hkey hb hq hxs hadmit
    subst hb hq
    change execScenarioBatch t c w off s = _
    refine hostWait_runs hv rfl ?_
    simp only [hread, hok, hkey, orFail_ok, Bool.not_true, Bool.false_eq_true, if_false]
    exact submitBatch_ok hxs hadmit
  · intro t e s v w im run hv hw him husable hrun
    change execSolveStart t e false s = _
    refine event_runs hv ?_
    simp only [hw, startSolve_takes him husable hrun, Bool.false_and, Bool.false_eq_true, if_false]
  · intro t e s v r hv hr hactive hopen
    have hdue : (match r.job.deadline with | some d => deadlineArrived v d | none => false) = false := by
      cases hd : r.job.deadline with
      | none => rfl
      | some d => exact hopen d hd
    change execSolveWriteoutStart t e s = _
    refine event_runs hv ?_
    simp only [hr]
    refine (if_neg (Bool.eq_false_iff.1 hdue)).trans ?_
    simp only [hactive, beq_self_eq_true, if_true]
  · intro t e s v r rep inp z u hv hr hactive hepoch hwriting hrep hwindow hz hu haccess hinp
    refine (execSolveComplete_current hv hr hactive hepoch).trans ?_
    rw [hwriting, completeSolve_lands hrep hwindow hz hu haccess, hinp]
    rfl
  · intro t e s v r hv hr hstale
    change execSolveComplete t e s = _
    refine event_runs hv ?_
    simp only [hr, bne_iff_ne.2 hstale, Bool.true_or, if_true]
  · intro t e s v r hv hr hactive hepoch hwriting
    refine (execSolveComplete_current hv hr hactive hepoch).trans ?_
    rw [hwriting]
    rfl
  · intro inp seeds index p fa F fe hpath
    have hother : ¬ imPath inp.image = 1 := by omega
    simp only [pivotReciprocal, if_neg hother, Option.bind_none]
  · intro inp seeds index p fa F fe x hpath hseed herr
    simp only [pivotReciprocal, if_pos hpath, hseed, Option.map_some, Option.bind_some, refined_none herr]

end Sys2Proof.Proofs
end

section
/-!
Proof of the statement about engine faults and the spare engine (O37): ENGINE_OVERRUN, ENGINE_FAULT and SPARE_ENGINE_READY.
-/
namespace Sys2Proof.Proofs
open Sys2Proof Sys2Proof.Machine Sys2Proof.Laws

theorem engineFaulted_inactive {s : State} {e cause : Nat} (h : (getEngine s e).mode ≠ .active) : engineFaulted s e cause = s :=
  if_pos (bne_iff_ne.2 h)

section
variable {s f : State} {e cause : Nat} (hactive : (getEngine s e).mode = .active)
  (hf : f = fenceEngine (huskFault s (srcEngine e) 2 e cause) e)
include hactive hf

/-- The work of a fenced engine is handed to the spare (R284, R285). -/
theorem engineFaulted_spare {sp : Nat} (hspare : spareEngine f = some sp) : engineFaulted s e cause = swapEngine f e sp none := by
  simp only [engineFaulted, hactive, bne_self_eq_false, Bool.false_eq_true, if_false, ← hf, hspare]

/-- With no spare engine the fenced one is retired (R287, R291). -/
theorem engineFaulted_retired (hspare : spareEngine f = none) :
    engineFaulted s e cause = failWaiting (modEngine f e (fun x => { x with mode := .retired })) e := by
  simp only [engineFaulted, hactive, bne_self_eq_false, Bool.false_eq_true, if_false, ← hf, hspare]

end

section
variable {t e : Nat} {s v : State} {r : Run} (hv : advance s t = v) (hr : (getEngine v e).run = some r)
include hv hr

/-- A run is overdue 2,048 cycles beyond its bound, when it has not begun its write-out (R258). -/
theorem execEngineOverrun_late (hwriting : r.writing = false) (hlate : r.start + runBound v r + cyclesNs v 2048 ≤ now v) :
    execEngineOverrun t e s = .next (engineFaulted v e 2) := by
  refine event_runs hv ?_
  simp only [hr, hwriting, Nat.not_lt.2 hlate, decide_false, Bool.or_self, Bool.false_eq_true, if_false]

theorem execEngineOverrun_early (h : r.writing = true ∨ now v < r.start + runBound v r + cyclesNs v 2048) :
    execEngineOverrun t e s = .next v := by
  refine event_runs hv ?_
  simp only [hr]
  rw [if_pos (by simpa using h)]

end

/-- The spare engine `sp` in place of engine `e`: active and ON, recorded and noted as a repair (R284, R285). -/
def spareReady (s : State) (sp e : Nat) : State :=
  let u := modEngine s sp (fun x => { x with mode := .active, swapping := none })
  repairEntry (raiseEvent (huskRequest { u with power := { u.power with engines := u.power.engines.set sp 2 } } 0x0B srcCp
      (leBytes 1 2 ++ leBytes 1 e ++ leBytes 1 sp ++ [0] ++ leBytes 2 (getEngine s sp).epoch.toNat))
    evSPARE_USED (2 + e * 2 ^ 8 + sp * 2 ^ 16)) 2 e sp

theorem execSpareEngineReady_swaps {t sp e : Nat} {s v : State} {c : Option Cmd} (hv : advance s t = v)
    (hsp : (List.range 9).find? (fun n => (getEngine v n).swapping.isSome) = some sp)
    (hswap : (getEngine v sp).swapping = some (e, c)) :
    execSpareEngineReady t s = .next (match c with
      | some c => done (spareReady v sp e) c stOK (sp + (getEngine v sp).epoch.toNat * 2 ^ 16)
      | none => spareReady v sp e) := by
  refine event_runs hv ?_
  simp only [hsp, hswap]
  cases c <;> rfl

/-- Settles O37: each clause is the branch of its event that the hypotheses select. -/
theorem engineFaultsHandOver : Obligations.EngineFaultsHandOver := by
  refine ⟨?_, ?_, ?_, ?_, ?_, ?_, ?_, ?_, ?_, ?_⟩
  · intro t e s v r f sp hv hr hwriting hactive hlate hf hspare
    refine (execEngineOverrun_late hv hr hwriting hlate).trans ?_
    rw [engineFaulted_spare hactive hf hspare]
  · intro t e s v r f hv hr hwriting hactive hlate hf hspare
    refine (execEngineOverrun_late hv hr hwriting hlate).trans ?_
    rw [engineFaulted_retired hactive hf hspare]
  · intro t e s v r hv hr h
    exact execEngineOverrun_early hv hr h
  · intro t e s v f sp hv hactive hf hspare
    change execEngineFault t e s = _
    exact event_runs hv (engineFaulted_spare hactive hf hspare)
  · intro t e s v f hv hactive hf hspare
    change execEngineFault t e s = _
    exact event_runs hv (engineFaulted_retired hactive hf hspare)
  · intro t s v sp e u hv hsp hswap hu
    rw [hu]
    exact execSpareEngineReady_swaps hv hsp hswap
  · intro t s v sp e c u hv hsp hswap hu
    rw [hu]
    exact execSpareEngineReady_swaps hv hsp hswap
  · intro t s v hv hnone
    have hfind : (List.range 9).find? (fun n => (getEngine v n).swapping.isSome) = none :=
      List.find?_eq_none.2 fun n hn => by simp [hnone n (List.mem_range.1 hn)]
    change execSpareEngineReady t s = _
    refine event_runs hv ?_
    simp only [hfind]
  · intro t e s v hv hstale
    change execEngineFault t e s = _
    exact event_runs hv (engineFaulted_inactive hstale)
  · intro t e s v hv hnone
    change execEngineOverrun t e s = _
    refine event_runs hv ?_
    simp only [hnone]

end Sys2Proof.Proofs
end

section
/-!
Proof of the statement about the Tracer (O38): its checks from request to verdict, its known-answer test and its lockstep.
-/
namespace Sys2Proof.Proofs
open Sys2Proof Sys2Proof.Machine Sys2Proof.Laws

/-- A Tracer that has not failed finds what the check found (R31). -/
theorem failedVerdict_sound {s : State} (v : Verdict) (h : s.safety.tracerFailed = false) : failedVerdict s v = v := by
  simp only [failedVerdict, h, Bool.false_and, Bool.false_eq_true, if_false]

theorem failedVerdict_rejected {s : State} {v : Verdict} (h : v.accepted = false) : failedVerdict s v = v := by
  simp only [failedVerdict, h, Bool.and_false, Bool.false_eq_true, if_false]

/-- After the Tracer has failed nothing is accepted (R31). -/
theorem failedVerdict_accepted {s : State} (v : Verdict) (h : s.safety.tracerFailed = true) :
    (failedVerdict s v).accepted = false := by
  cases hv : v.accepted with
  | true => simp only [failedVerdict, h, hv, Bool.and_self, if_true]
  | false => rw [failedVerdict_rejected hv, hv]

section
variable {t : Nat} {s v : State} {r : CheckRun} {c : Cmd} (hv : advance s t = v) (hr : v.safety.check = some r)
include hv hr

/-- A check whose CHECK slot is still open ends with what it found (R553). -/
theorem execTracerCheckEnd_open (hopen : checkOutlived v r = false) :
    execTracerCheckEnd t s = .next (endCheck v r r.verdict) := by
  refine event_runs hv ?_
  simp only [hr, hopen, Bool.false_eq_true, if_false]

theorem execTracerCheckEnd_outlived (hover : checkOutlived v r = true) :
    execTracerCheckEnd t s = .next (endCheck v r (timedOut r)) := by
  refine event_runs hv ?_
  simp only [hr, hover, if_true]

end

section
variable {s : State} {r : CheckRun} {c : Cmd} {found x : Verdict} (howner : r.req.owner = .command c)
  (hx : failedVerdict s found = x)
include howner hx

theorem endCheck_accepted (haccept : x.accepted = true) :
    endCheck s r found = done (noteVerdict { s with safety := { s.safety with check := none } } x) c stOK
      (1 + x.reason * 2 ^ 8 + x.knot * 2 ^ 16 + x.index * 2 ^ 24 + x.crc.toNat * 2 ^ 32) := by
  simp only [endCheck, hx, howner, haccept, if_true]

theorem endCheck_rejected (hreject : x.accepted = false) :
    endCheck s r found = done (noteVerdict { s with safety := { s.safety with check := none } } x) c stTRACER_REJECT
      (x.reason * 2 ^ 8 + x.knot * 2 ^ 16 + x.index * 2 ^ 24 + x.crc.toNat * 2 ^ 32) := by
  simp only [endCheck, hx, howner, hreject, Bool.false_eq_true, if_false, Nat.zero_add]

end

/-- A check that ran out of its slot names no knot and no index (R553). -/
theorem timedOut_word (r : CheckRun) (reason crc : Nat) :
    reason + (timedOut r).knot * 2 ^ 16 + (timedOut r).index * 2 ^ 24 + crc = reason + crc := by
  simp only [timedOut, Nat.zero_mul, Nat.add_zero]

/-- Settles O38: each clause is the branch of its command or event that the hypotheses select. -/
theorem tracerChecksRun : Obligations.TracerChecksRun := by
  refine ⟨?_, ?_, ?_, ?_, ?_, ?_, ?_, ?_, ?_, ?_⟩
  · intro t c w off s v h b hv hh hb
    change execTracerCheck t c w off s = _
    refine host_runs hv rfl ?_
    simp only [hh, hb]
    rfl
  · intro t s v r rest hv hnone hqueue hmay
    change execTracerCheckBegin t s = _
    refine event_runs hv ?_
    simp only [hnone, hqueue, hmay, if_true]
    rfl
  · intro t s v r c hv hr hopen howner haccept hsound
    refine (execTracerCheckEnd_open hv hr hopen).trans ?_
    rw [endCheck_accepted howner (failedVerdict_sound _ hsound) haccept]
  · intro t s v r c hv hr hopen howner hreject
    refine (execTracerCheckEnd_open hv hr hopen).trans ?_
    rw [endCheck_rejected howner (failedVerdict_rejected hreject) hreject]
  · intro t s v r k i hv hr hopen howner hsound
    refine (execTracerCheckEnd_open hv hr hopen).trans ?_
    simp only [endCheck, failedVerdict_sound _ hsound, howner]
  · intro t s v r c x hv hr hopen howner hfailed hx
    refine (execTracerCheckEnd_open hv hr hopen).trans ?_
    rw [endCheck_rejected howner hx.symm (hx ▸ failedVerdict_accepted _ hfailed)]
  · intro t s v r c hv hr hover howner hsound
    refine (execTracerCheckEnd_outlived hv hr hover).trans ?_
    rw [endCheck_rejected howner (failedVerdict_sound _ hsound) rfl, timedOut_word]
  · intro t s v hv hnone hquiet
    change execTracerKnownAnswerTest t false s = _
    refine event_runs hv ?_
    simp only [hnone, hquiet, Option.isSome_none, Bool.or_self, Bool.false_eq_true, if_false]
  · intro t s v hv hnone hquiet
    change execTracerKnownAnswerTest t true s = _
    refine event_runs hv ?_
    simp only [hnone, hquiet, Option.isSome_none, Bool.or_self, Bool.false_eq_true, if_false, if_true]
    rfl
  · intro t s v hv
    change execTracerLockstepMismatch t s = _
    exact event_runs hv rfl

end Sys2Proof.Proofs
end

section
/-!
Proof of the statement about the Field commands (O39).
-/
namespace Sys2Proof.Proofs
open Sys2Proof Sys2Proof.Machine Sys2Proof.Laws

/-- A handle other than 0 is defined (R335). -/
theorem okHandle_of_ne {h : BitVec 12} (hne : h ≠ 0) : okHandle h = true := bne_iff_ne.2 hne

/-- A route that is admitted waits for its partition (R336, R522); that a HARD command which finds a lower-class route running
counts a wait at its submission is the model's choice (log entry 29). -/
theorem submitRoute_admitted {s u : State} {w : WaitingRoute} (h : admitHard s w.cmd w.part w.cls (routeBound s w) = .ok u) :
    submitRoute s w = modPart (if hardBlocked u w.part w.cls then
        charge (levelShare u w.part (some w.session)) (some w.session) (fun n => { n with hardWaits := satInc n.hardWaits })
      else levelShare u w.part (some w.session)) w.part (fun p => { p with waiting := p.waiting ++ [w] }) :=
  admitOr_ok h

/-- Settles O39: each clause is the branch of its command that the hypotheses select. When a HARD command's wait is counted is the
model's choice (log entry 29). -/
theorem fieldCommandsComplete : Obligations.FieldCommandsComplete := by
  refine ⟨?_, ?_, ?_, ?_, ?_⟩
  · intro t c w off len s v b h hv hread hlen hok hfew hfree
    have hshort : ¬ 65536 < b.length := Nat.not_lt.2 hlen
    have hroom : ¬ 256 ≤ (v.field.routes.filter (fun r => r.session == ownerOf v c)).length := Nat.not_le.2 hfew
    change execRouteLoad t c w off len s = _
    refine host_runs hv rfl ?_
    simp only [hread, hshort, hok, hroom, hfree, orFail_ok, Bool.not_true, Bool.false_eq_true, or_self, if_false]
    rfl
  · intro t c h s v r hv hne hr hunused
    change execRouteUnload t c h s = _
    refine host_runs hv (okHandle_of_ne hne) ?_
    simp only [hr, hunused, Bool.false_eq_true, if_false]
  · intro t c h w off s v r b x u hv hne hr hread hx hbind hadmit
    subst hx
    change execRouteRun t c h w off s = _
    refine hostWait_runs hv (okHandle_of_ne hne) ?_
    simp only [hr, hread, orFail_ok, hbind]
    exact submitRoute_admitted hadmit
  · intro t c w off s v b x y u hv hread hok hx henv hy hadmit
    subst hx hy
    change execFieldOp t c w off s = _
    refine hostWait_runs hv rfl ?_
    simp only [hread, hok, henv, orFail_ok, Bool.not_true, Bool.false_eq_true, if_false]
    exact submitRoute_admitted hadmit
  · intro t c n s v k p hv hphys hpart
    change execSectorMap t c n s = _
    refine host_runs hv rfl ?_
    simp only [hphys, hpart]

end Sys2Proof.Proofs
end

section
/-!
Proof of the statement about routes and the slots of their streams (O40).
-/
namespace Sys2Proof.Proofs
open Sys2Proof Sys2Proof.Machine Sys2Proof.Laws

section
variable {s : State} {p : Nat} {r : RouteRun} (hr : (getPart s p).run = some r)
include hr

/-- What a partition's route does is done by the one that runs there. -/
theorem withRun_running (f : RouteRun → State) : withRun s p f = f r := by
  simp only [withRun, hr]

/-- An event of a partition whose route runs is that route's. -/
theorem runEvent {t : Nat} {z u : State} {f : State → RouteRun → State} (hz : advance z t = s) (hf : f s r = u) :
    event z t (fun s => withRun s p (f s)) = .next u :=
  event_runs hz ((withRun_running hr (f s)).trans hf)

end

/-- Settles O40: each clause is the branch of its event that the hypotheses select. -/
theorem routesMoveTilesAndEnd : Obligations.RoutesMoveTilesAndEnd := by
  refine ⟨⟨?_, ?_, ?_, ?_⟩, ?_, ?_, ?_, ?_, ?_, ?_⟩
  · intro t p k s v w hv hw hkey _
    change execRouteStart t p k s = _
    refine event_runs hv ?_
    simp only [hw, hkey, if_true]
  · intro t p s v r hv hr hopen
    have hdue : (match r.job.cmd.deadline with | some d => deadlineArrived v d | none => false) = false := by
      cases hd : r.job.cmd.deadline with
      | none => rfl
      | some d => exact hopen d hd
    change execRouteComplete t p s = _
    refine runEvent hr hv ?_
    exact if_neg (Bool.eq_false_iff.1 hdue)
  · intro t p s v r d hv hr hd hdue
    change execRouteComplete t p s = _
    refine runEvent hr hv ?_
    simp only [hd, hdue, if_true]
  · intro t p s v r hv hr hstalled
    change execRouteStallTimeout t p s = _
    refine runEvent hr hv ?_
    exact if_pos hstalled
  · intro t p i q s v r y st x hv hr hy hnext
    change execTilePublish t p i q s = _
    refine runEvent hr hv ?_
    simp only [hy, hnext]
  · intro t p i q s v r y hv hr hy hnext
    change execTilePublish t p i q s = _
    refine runEvent hr hv ?_
    simp only [hy, hnext]
  · intro t p i q s v r y x st h hv hr hy hx hst hh
    subst hh
    refine ⟨fun hunread => ?_, fun hread hsink => ?_, fun sk ts w r1 hread hsink hts hw => ?_⟩
    all_goals
      change execTileRelease t p i q s = _
      refine runEvent hr hv ?_
    · simp only [hy, hx, hst, hunread, Bool.not_false, if_true]
    · simp only [hy, hx, hst, hread, hsink, Bool.not_true, Bool.false_eq_true, if_false]
    · simp only [hy, hx, hst, hread, hsink, hts, hw, Bool.not_true, Bool.false_eq_true, if_false]
  · intro t p i q s v n hv hn
    change execSlotDetection t p i q .corrected s = _
    refine event_runs hv ?_
    simp only [hn, if_true]
    rfl
  · intro t p i q s v n k r y u r1 hv hn hk hu hr hregen hy hr1
    have hcorrected : k ≠ .corrected := by rcases hk with rfl | rfl | rfl <;> decide
    have hother : ¬ (k = .outside ∨ k = .tag ∨ cannotRegenerate u.mem r q = true) := by
      rcases hk with rfl | rfl | rfl <;> simp [hregen]
    subst hr1
    change execSlotDetection t p i q k s = _
    refine event_runs hv ?_
    simp only [hn, if_neg hcorrected]
    rw [← hu, withRun_running hr, if_neg hother]
    simp only [hy]
  · intro t p i q s v r y n hv hr hy hn hlimit _
    change execStepRerunLimitReached t p i q s = _
    refine runEvent hr hv ?_
    simp only [hy, hn, hlimit, if_true]

end Sys2Proof.Proofs
end

section
/-!
Proof of the statement about sector faults, spare sectors, spills and the grants of banks (O41).
-/
namespace Sys2Proof.Proofs
open Sys2Proof Sys2Proof.Machine Sys2Proof.Laws

/-! The fence of a sector (R370–R374). -/

theorem faultSector_fenced {s : State} {n : Nat} (h : (getSector s n).fenced = true) (cause : Nat) (ended : Option Status) :
    faultSector s n cause ended = s := if_pos h

section
variable {s u : State} {n l p : Nat} {cause : Nat} (hopen : (getSector s n).fenced = false)
  (hu : u = huskFault (modSector s n (fun x => { x with fenced := true })) (srcSector n) 1 n cause) (hl : logicalOf u n = some l)
include hopen hu hl

/-- A sector that serves no partition is fenced and its logical number remapped. -/
theorem faultSector_noPart (hp : partOfLogical u l = none) (ended : Option Status) :
    faultSector s n cause ended = remapSector u l n none := by
  subst hu
  simp only [faultSector, hopen, hl, hp, Bool.false_eq_true, if_false]

/-- A sector whose partition runs no route is remapped under the partition's next epoch. -/
theorem faultSector_idle (hp : partOfLogical u l = some p) (hidle : (getPart (bumpEpoch u p) p).run = none)
    (ended : Option Status) : faultSector s n cause ended = remapSector (bumpEpoch u p) l n none := by
  subst hu
  simp only [faultSector, hopen, hl, hp, hidle, Bool.false_eq_true, if_false]

end

/-! The grants of a bank (R387–R389). -/

theorem ringGrant_fst (ptr : Nat) (who : Nat → Bool) : (ringGrant ptr who).1 = ringFirst ptr who := by
  unfold ringGrant
  cases ringFirst ptr who <;> rfl

/-- Every port stands somewhere in the round from the pointer. -/
theorem mem_round {p : Nat} (ptr : Nat) (hp : p < 15) : ∃ k < 15, (ptr + k) % 15 = p :=
  ⟨(p + 15 - ptr % 15) % 15, Nat.mod_lt _ (by decide), by omega⟩

/-- Round robin grants no port only where none asks. -/
theorem ringGrant_none {ptr : Nat} {who : Nat → Bool} (h : (ringGrant ptr who).1 = none) {p : Nat} (hp : p < 15) :
    who p = false := by
  rw [ringGrant_fst] at h
  obtain ⟨k, hk, rfl⟩ := mem_round ptr hp
  exact Bool.eq_false_iff.2 (List.find?_eq_none.1 h _ (List.mem_map.2 ⟨k, List.mem_range.2 hk, rfl⟩))

/-- Round robin grants the first port from the pointer that asks, and the pointer moves past it. -/
theorem ringGrant_some {ptr p : Nat} {who : Nat → Bool} (h : (ringGrant ptr who).1 = some p) :
    p < 15 ∧ who p = true ∧ (ringGrant ptr who).2 = (p + 1) % 15
      ∧ ∃ i < 15, p = (ptr + i) % 15 ∧ ∀ j < i, who ((ptr + j) % 15) = false := by
  rw [ringGrant_fst] at h
  have hnext : (ringGrant ptr who).2 = (p + 1) % 15 := by simp only [ringGrant, h]
  obtain ⟨hwho, i, hi, hget, hbefore⟩ := List.find?_eq_some_iff_getElem.1 h
  have hlen : i < 15 := by simpa using hi
  have hp : p = (ptr + i) % 15 := by simpa using hget.symm
  refine ⟨by omega, hwho, hnext, i, hlen, hp, fun j hj => ?_⟩
  simpa using hbefore j hj

/-- SLOTTED grants the owner of the frame cycle's entry where it asks. -/
theorem bankGrant_slotted (rt wants : Nat → Bool) (owner ptr p : Nat) :
    (bankGrant 1 rt owner ptr wants).1 = some p ↔ owner = p ∧ p < 15 ∧ wants p = true := by
  change (if owner < 15 ∧ wants owner = true then some owner else none) = some p ↔ owner = p ∧ p < 15 ∧ wants p = true
  split
  case isTrue h =>
    rw [Option.some_inj]
    exact ⟨fun e => ⟨e, e ▸ h⟩, fun e => e.1⟩
  case isFalse h => exact ⟨fun e => (nomatch e), fun ⟨e, hp⟩ => (h (e ▸ hp)).elim⟩

/-- What issues keeps within 16 requests to different banks, one request after another (R384). -/
theorem issued_bounded (l acc : List ScratchReq) (hlen : acc.length ≤ 16) (hbanks : (acc.map (fun r => bankOf r.group)).Nodup) :
    (l.foldl (fun acc r => if acc.length < 16 ∧ !acc.any (fun x => bankOf x.group == bankOf r.group) then acc ++ [r] else acc)
      acc).length ≤ 16
    ∧ ((l.foldl (fun acc r => if acc.length < 16 ∧ !acc.any (fun x => bankOf x.group == bankOf r.group) then acc ++ [r] else acc)
      acc).map (fun r => bankOf r.group)).Nodup := by
  induction l generalizing acc with
  | nil => exact ⟨hlen, hbanks⟩
  | cons r l ih =>
    rw [List.foldl_cons]
    split
    case isFalse => exact ih acc hlen hbanks
    case isTrue h =>
      refine ih _ (by rw [List.length_append]; exact h.1) ?_
      have hfresh : bankOf r.group ∉ acc.map (fun r => bankOf r.group) := by
        have := h.2
        simpa using this
      rw [List.map_append]
      exact List.nodup_append.2 ⟨hbanks, List.pairwise_singleton _ _, fun a ha b hb => by
        rw [List.map_singleton, List.mem_singleton] at hb
        exact hb ▸ fun e => hfresh (e ▸ ha)⟩

/-- Settles O41: each event's clause is the branch of its event that the hypotheses select, and the grants follow the ring. From when on a
spill takes time is the model's choice (log entry 154). -/
theorem sectorsFailAndSpill : Obligations.SectorsFailAndSpill := by
  refine ⟨⟨?_, ?_, ?_, ?_, ?_, ?_⟩, fun ptr who h p hp => ringGrant_none h hp, fun ptr p who h => ringGrant_some h,
    fun rt wants owner ptr p => ⟨bankGrant_slotted rt wants owner ptr p, rfl⟩, ?_, ?_,
    fun l => issued_bounded l [] (Nat.zero_le _) List.nodup_nil⟩
  · intro t n s v u l hv hopen hu hl hp
    change execSectorHeartbeatTimeout t n s = _
    refine event_runs hv ?_
    exact faultSector_noPart hopen hu hl hp none
  · intro t n s v u l p hv hopen hu hl hp hidle
    change execSectorFault t n s = _
    refine event_runs hv ?_
    exact faultSector_idle hopen hu hl hp hidle none
  · intro t n s v hv hfenced
    constructor
    · change execSectorHeartbeatTimeout t n s = _
      refine event_runs hv ?_
      exact faultSector_fenced hfenced 2 none
    · change execSectorFault t n s = _
      refine event_runs hv ?_
      exact faultSector_fenced hfenced 4 none
  · intro t l s v n f c u w x e hv hmap hu he hw hx
    subst hx hw he
    change execSpareSectorReady t l s = _
    refine event_runs hv ?_
    simp only [hmap, ← hu]
    cases partOfLogical u l with
    | none => cases c <;> rfl
    | some p => cases c <;> rfl
  · intro t p s v r hv hr hmode hspill hcls hnone hwaits
    change execSpillOut t p s = _
    refine event_runs hv ((withRun_running hr _).trans ?_)
    refine (if_pos ⟨hmode, hspill, hcls, ?_, hwaits⟩)
    rw [hnone]
    rfl
  · intro t p s v r hv hspilled hrun hwaits hspare hwhole
    change execSpillRestore t p s = _
    refine event_runs hv ?_
    simp only [hspilled, hrun, hwaits, hspare, hwhole, Option.isSome_none, Bool.or_self, Bool.false_eq_true, if_false]
    rfl
  · intro rt wants others owner ptr h
    simp only [bankGrant, h]
  · intro rt wants owner ptr
    refine ⟨fun hown hrt hwants => if_pos ⟨hown, hrt, hwants⟩, fun h => if_neg fun ⟨hown, hrt, hwants⟩ => ?_⟩
    rcases h with h | h | h
    · omega
    · rw [h] at hrt
      exact Bool.false_ne_true hrt
    · rw [h] at hwants
      exact Bool.false_ne_true hwants

end Sys2Proof.Proofs
end

section
/-!
Proof of the statement about the serving commands and the step boundary (O42).
-/
namespace Sys2Proof.Proofs
open Sys2Proof Sys2Proof.Machine Sys2Proof.Laws

/-- A command of a partition with a loop is about that loop. -/
theorem withLoop_found {s : State} {c : Cmd} {l : Loop} (h : findLoop s (partOf s c) = some l) (f : Loop → State) :
    withLoop s c f = f l := by
  simp only [withLoop, h]

/-- Settles O42: each clause is the branch of its command or event that the hypotheses select. That SERVE_STOP acts at the next boundary
and that the sequences being rebuilt are counted as paused are the model's choices (log entries 34 and 145). -/
theorem servingCommandsComplete : Obligations.ServingCommandsComplete := by
  refine ⟨?_, ?_, ?_, ?_, ?_⟩
  · intro t c w off s v x cfg b l u as y hv hx hread hok hnone henv haccess hb hprogram hmany has hl hy
    have hfew : ¬ 0xFFFFFF < cfRecords cfg * cfPages cfg := Nat.not_lt.2 hmany
    subst hb hl hy
    change execServeConfig t c w off s = _
    refine host_runs hv rfl ?_
    simp only [hx, hread, hok, hnone, henv, haccess, hprogram, hfew, has, orFail_ok, Bool.not_true, Bool.false_eq_true, if_false]
  · intro t c s v l hv hl hown hrunning
    change execServeStop t c s = _
    refine host_runs hv rfl ((withLoop_found hl _).trans ?_)
    simp only [hown, hrunning, bne_self_eq_false, Option.isSome_none, Bool.false_eq_true, if_false]
  · intro t c s v l hv hl
    change execServeStatus t c s = _
    exact host_runs hv rfl (withLoop_found hl _)
  · intro t p s v l hv hl hidle hgoes
    change execStepBoundary t p s = _
    refine event_runs hv ?_
    simp only [hl, hidle, hgoes, Bool.false_eq_true, if_false]
  · intro t p s v l c x hv hl hidle hstop hx
    subst hx
    change execStepBoundary t p s = _
    refine event_runs hv ?_
    simp only [hl, hidle, hstop, Bool.false_eq_true, if_false]

end Sys2Proof.Proofs
end

section
/-!
Proof of the statement about the sequence commands (O43).
-/
namespace Sys2Proof.Proofs
open Sys2Proof Sys2Proof.Machine Sys2Proof.Laws

/-- A prompt of one token or more is defined. -/
theorem okSeqJoin_of_ne {n : BitVec 18} (h : n ≠ 0) : okSeqJoin n = true := bne_iff_ne.2 h

/-- A command of a sequence that its session may name is about that sequence (R476). -/
theorem withSeq_owned {s : State} {c : Cmd} {id : Word} {l : Loop} {q : Sequence} (hq : findSeq s id.toNat = some (l, q))
    (hown : ownsObject s c q.session (match findSession s q.session with | some x => x.fn | none => 0) = true)
    (f : Loop → Sequence → State) : withSeq s c id f = f l q := by
  unfold withSeq
  rw [hq]
  exact if_pos hown

/-- Settles O43: each clause is the branch of its command that the hypotheses select. That SEQ_RECOMPUTE drops the running step, the
places of the chunk sets and what hashing a prompt charges are the model's choices (log entries 34, 147 and 157). -/
theorem sequenceCommandsComplete : Obligations.SequenceCommandsComplete := by
  refine ⟨?_, ?_, ?_, ?_, ?_, ?_⟩
  · intro t c w off n maxNew wait ow oo s v l b k session slot id q hv hne hl hshort hread hkey hsession hslot hid hgoes hq
    subst hq
    change execSeqJoin t c w off n maxNew wait ow oo s = _
    refine host_runs hv (okSeqJoin_of_ne hne) ((withLoop_found hl _).trans ?_)
    simp only [if_neg (Nat.not_le.2 hshort), hread, hkey, hsession, hslot, hid, hgoes, orFail_ok, Option.isSome_none,
      Bool.false_eq_true, if_false]
    rfl
  · intro t c q n len parents tokens s v l x hv hq hown hrunning hok
    change execSeqDraft t c q n len parents tokens s = _
    refine host_runs hv rfl ((withSeq_owned hq hown _).trans ?_)
    simp only [hrunning, hok, bne_self_eq_false, Bool.not_true, Bool.false_eq_true, if_false]
    rfl
  · intro t c q s v l x hv hq hown hlive
    change execSeqLeave t c q s = _
    refine host_runs hv rfl ((withSeq_owned hq hown _).trans ?_)
    simp only [beq_eq_false_iff_ne.2 hlive, Bool.false_eq_true, if_false]
    rfl
  · intro t c q off s v l x hv hq hown
    change execSeqStatus t c q 0 off s = _
    refine host_runs hv rfl ((withSeq_owned hq hown _).trans ?_)
    dsimp only
    split
    · exact if_pos (Or.inl rfl)
    · rfl
  · intro t c q s v l x hv hq hown hdropped hrunning
    change execSeqRecompute t c q s = _
    refine host_runs hv rfl ((withSeq_owned hq hown _).trans ?_)
    simp only [hdropped, hrunning, bne_self_eq_false, Bool.not_true, Bool.false_eq_true, if_false]
  · intro t c q e sl se ss ls cc ce ps s v l x a im st y pe u1 k1 u2 k2 hv hok hq hown hlive ha himages hy hpe hsets harea
    subst ha hpe
    change execActionBind t c q e sl se ss ls cc ce ps s = _
    refine host_runs hv hok ((withSeq_owned hq hown _).trans ?_)
    simp only [beq_eq_false_iff_ne.2 hlive, himages, hy, hsets, harea, Bool.false_eq_true, if_false]

end Sys2Proof.Proofs
end

section
/-!
Proof of the statement about the power commands, drains, transitions, thermal samples and wakes (O44).
-/
namespace Sys2Proof.Proofs
open Sys2Proof Sys2Proof.Machine Sys2Proof.Laws

/-- A sample of all nine sensors replaces every reading (R669). -/
theorem readings_replaced {l : List Int} (h : l.length = 9) (old : List Int) :
    (List.range 9).map (fun i => l.getD i (old.getD i 0)) = l := by
  refine List.ext_getElem (by simp [h]) fun i hi hl => ?_
  rw [List.getElem_map, List.getElem_range, List.getD_eq_getElem?_getD, List.getElem?_eq_getElem hl, Option.getD_some]

/-- A main-die temperature that does not exceed the threshold raises no first warning (R669). -/
theorem thermalWarn_cool {s : State} (hwarned : s.power.warned = false) (hcool : (hotMain s).2 ≤ s.power.warn.toInt) :
    thermalWarn s = s := by
  simp only [thermalWarn, hwarned, decide_eq_false (Int.not_lt.2 hcool), Bool.and_false, Bool.false_and, Bool.false_eq_true, if_false]

/-- The set-point of ACTIVE_FULL lies within the range of R731. -/
theorem vddSetPoint_range (v : Nat) : 550 ≤ vddSetPoint v ∧ vddSetPoint v ≤ 800 := by
  unfold vddSetPoint
  dsimp only
  omega

/-- Powering up asks for the set-point of ACTIVE_FULL where the supply lies lower (R651, R731). -/
theorem mainPowerOn_eq {s u : State} (hu : u = { s with power := { s.power with mainPwrEn := true, transition := some 5 } }) :
    mainPowerOn s = if s.power.vddMain < vddSetPoint 5 then
        { u with power := { u.power with vddMain := vddSetPoint 5 }, out := u.out ++ [.avs (vddSetPoint 5)] }
      else u := by
  subst hu
  unfold mainPowerOn raiseVdd setVdd emit
  by_cases h : s.power.vddMain < vddSetPoint 5
  · rw [if_pos h]
    dsimp only
    rw [if_pos ⟨by decide, h⟩, if_neg (Nat.ne_of_lt h)]
  · rw [if_neg h]
    exact if_neg fun hlow => h hlow.2

/-- Settles O44: each clause is the branch of its command or event that the hypotheses select. That POWER_PROFILE completes with the
commanded state is the model's choice (log entry 53). -/
theorem powerCommandsAndEventsAct : Obligations.PowerCommandsAndEventsAct := by
  refine ⟨⟨?_, ?_, ?_, ?_, ?_, ?_⟩, ?_, ?_, ?_, ?_, ?_, ?_, ?_, ?_, ?_⟩
  · intro t c n s v hv hok hsame
    change execPowerProfile t c n s = _
    refine host_runs hv hok ?_
    simp only [hsame, if_true]
  · intro t c n s v hv hok hother hnone hstatus
    change execPowerProfile t c n s = _
    refine host_runs hv hok ?_
    simp only [hother, hnone, hstatus, Option.isSome_none, Bool.false_eq_true, if_false]
  · intro t c n s v hv hok hother hmoves
    change execPowerProfile t c n s = _
    refine host_runs hv hok ?_
    simp only [hother, Option.isSome_iff_ne_none.2 hmoves, if_false, if_true]
  · intro t c u n s v y hv hok hstatus hy
    subst hy
    change execPowerUnit t c u n s = _
    refine host_runs hv hok ?_
    simp only [hstatus, BitVec.natCast_eq_ofNat, BitVec.ofNat_toNat, BitVec.setWidth_eq]
  · intro t c w off s v u hv hu
    change execPowerStatus t c w off s = _
    refine host_runs hv rfl ?_
    exact writeReply_ok hu
  · intro t c n s v hv hok _ _
    change execThermalSet t c n s = _
    exact host_runs hv hok rfl
  · intro t u s v d hv hd
    change execUnitDrainEnd t u s = _
    refine event_runs hv ?_
    simp only [hd]
  · intro t u s v m hv hne hm hidle
    change execPowerTransitionComplete t u s = _
    refine event_runs hv ?_
    simp only [hne, hm, hidle, if_false, if_true]
  · intro t s v hv htrans hready
    change execPowerTransitionComplete t 0 s = _
    refine event_runs hv ?_
    simp only [htrans, hready, if_true]
    rfl
  · intro t s v n hv htrans hn hstate
    change execPowerTransitionComplete t 0 s = _
    refine event_runs hv ?_
    have h1 : ¬ n = 1 := by omega
    have h2 : ¬ n = 2 := by omega
    simp only [htrans, h1, h2, hstate, decide_false, Bool.false_and, Bool.false_eq_true, if_false, if_true]
  · intro t s v hv htrans
    change execPowerTransitionComplete t 0 s = _
    refine event_runs hv ?_
    simp only [htrans, if_true]
  · intro t l s v u hv hlen hu hcool hwarned hmain hshell
    change execThermalSample t l s = _
    refine event_runs hv ?_
    dsimp only
    rw [readings_replaced hlen, ← hu]
    have hwarned' : u.power.warned = false := by rw [hu]; exact hwarned
    have hshell' : ¬ (2000 ≤ u.power.readings.getD 8 0 ∧ (!u.safety.shellFault) = true) := by
      rw [hu]
      exact fun h => Int.not_le.2 hshell h.1
    rw [thermalWarn_cool hwarned' hcool, decide_eq_false (Int.not_le.2 hmain), Bool.and_false, if_neg Bool.false_ne_true,
      if_neg hshell']
  · intro t x s v u hv hx hstate hcool hu
    refine ⟨?_, vddSetPoint_range 5⟩
    change execMainOn t x s = _
    refine event_runs hv ?_
    refine (if_neg (Classical.not_not.2 hx)).trans ?_
    refine (if_neg (not_or.2 ⟨Classical.not_not.2 hstate, Int.not_lt.2 hcool⟩)).trans ?_
    exact mainPowerOn_eq hu
  · intro t x s v hv hx hstate
    change execMainOn t x s = _
    refine event_runs hv ?_
    exact (if_neg (Classical.not_not.2 hx)).trans (if_pos (Or.inl hstate))
  · intro t x s v hv hx
    change execMainOn t x s = _
    exact event_runs hv (if_pos hx)

end Sys2Proof.Proofs
end

section
/-!
Proof of the statement about the safety commands, the heartbeat and the restart (O45).
-/
namespace Sys2Proof.Proofs
open Sys2Proof Sys2Proof.Machine Sys2Proof.Laws

/-- SAFETY_RESET may release STO 100 ms after both inputs closed, with nothing latched and no safe state (R586). -/
theorem resetAllowed_of {s : State} {n : Nat} (hclosed : s.safety.closedSince = some n) (hlong : n + 100000000 ≤ s.phase.gtc)
    (hestop : s.safety.estopFault = false) (houtput : s.safety.outputFault = false) (hshell : s.safety.shellFault = false)
    (hsafe : s.safety.safe = none) : resetAllowed s = true := by
  have hlong' : n + 100000000 ≤ now s := hlong
  simp only [resetAllowed, hclosed, decide_eq_true hlong', hestop, houtput, hshell, hsafe]
  rfl

theorem resetAllowed_blocked {s : State} (h : s.safety.closedSince = none ∨ s.safety.estopFault = true
    ∨ s.safety.outputFault = true ∨ s.safety.shellFault = true ∨ s.safety.safe ≠ none) : resetAllowed s = false := by
  unfold resetAllowed
  dsimp only
  rcases h with h | h | h | h | h
  · rw [h]
    rfl
  · rw [h, Bool.not_true, Bool.and_false, Bool.false_and, Bool.false_and, Bool.false_and]
  · rw [h, Bool.not_true, Bool.and_false, Bool.false_and, Bool.false_and]
  · rw [h, Bool.not_true, Bool.and_false, Bool.false_and]
  · rw [Option.isNone_eq_false_iff.2 (Option.isSome_iff_ne_none.2 h), Bool.and_false]

/-- Settles O45: each clause is the branch of its command or event that the hypotheses select. -/
theorem safetyCommandsAndHeartbeat : Obligations.SafetyCommandsAndHeartbeat := by
  refine ⟨⟨?_, ?_, ?_, ?_, ?_, ?_⟩, ?_, ?_, ?_, ?_, ?_, ?_, ?_, ?_⟩
  · intro t c w off s v u hv hu
    change execSafetyStatus t c w off s = _
    refine host_runs hv rfl ?_
    exact writeReply_ok hu
  · intro t c s v hv
    change execSafeStateRequest t c true s = _
    exact host_runs hv rfl rfl
  · intro t c s v hv
    subst hv
    change execSafeStateRequest t c false s = _
    exact host_bad s t c _
  · intro t c s v n hv hclosed hlong hestop houtput hshell hsafe hsto
    change execSafetyReset t c s = _
    refine host_runs hv rfl ?_
    simp only [resetAllowed_of hclosed hlong hestop houtput hshell hsafe, hsto, Bool.not_true, Bool.false_eq_true, if_false]
    rfl
  · intro t c s v hv h
    change execSafetyReset t c s = _
    refine host_runs hv rfl ?_
    simp only [resetAllowed_blocked h, Bool.not_false, if_true]
  · intro t c s v hv hallowed hsto
    change execSafetyReset t c s = _
    refine host_runs hv rfl ?_
    simp only [hallowed, hsto, Bool.not_true, Bool.not_false, Bool.false_eq_true, if_false, if_true]
  · intro t s v hv
    change execCpHeartbeat t s = _
    exact event_runs hv rfl
  · intro t s v hv hruns hlate
    have hlate' : v.safety.heartbeat + protHeartbeat v ≤ now v := hlate
    change execHeartbeatTimeout t s = _
    refine event_runs hv ?_
    simp only [hruns, decide_eq_true hlate', Bool.and_self, if_true]
  · intro t s v hv hearly
    have hearly' : ¬ v.safety.heartbeat + protHeartbeat v ≤ now v := Nat.not_le.2 hearly
    change execHeartbeatTimeout t s = _
    refine event_runs hv ?_
    simp only [decide_eq_false hearly', Bool.and_false, Bool.false_eq_true, if_false]
  · intro t s v hv hshell hjtag hvalid hready hstate hstep
    change execMainDomainResetRelease t s = _
    refine event_runs hv ?_
    simp only [hshell, hjtag, hvalid, hready, hstate, hstep, Bool.not_true, Bool.or_self, Bool.false_eq_true, if_false, if_true]
  · intro t s v hv hshell hjtag hvalid hready hstate hsafe
    have hin : (match v.safety.safe with | some x => !x.released | none => true) = true := by
      cases hx : v.safety.safe with
      | none => rfl
      | some x => simp only [hsafe x hx, Bool.not_false]
    change execMainDomainResetRelease t s = _
    refine event_runs hv ?_
    simp only [hshell, hjtag, hvalid, hready, hstate, Bool.not_true, Bool.or_self, Bool.false_eq_true, if_false]
    exact if_pos hin
  · intro t s v hv h
    change execMainDomainResetRelease t s = _
    refine event_runs hv ?_
    refine if_pos ?_
    rcases h with h | h | h
    · rw [h, Bool.true_or, Bool.true_or, Bool.true_or]
    · rw [h, Bool.or_true, Bool.true_or, Bool.true_or]
    · rw [h, Bool.not_false, Bool.or_true, Bool.true_or]
  · intro t s v n hv hfrom hpast hlive
    have hpast' : ¬ now v < n + protRestartWindow v := Nat.not_lt.2 hpast
    change execRestartWindowExpiry t s = _
    refine event_runs hv ?_
    simp only [hfrom, hpast', hlive, if_false, if_true]
  · intro t s v n hv hfrom hpast hlive
    have hpast' : ¬ now v < n + protRestartWindow v := Nat.not_lt.2 hpast
    change execRestartWindowExpiry t s = _
    refine event_runs hv ?_
    simp only [hfrom, hpast', hlive, Bool.false_eq_true, if_false]

end Sys2Proof.Proofs
end

section
/-!
Proof of the statement about STO, the brakes, held plans and disagreements (O46).
-/
namespace Sys2Proof.Proofs
open Sys2Proof Sys2Proof.Machine Sys2Proof.Laws

/-- STO is not asserted while it is not held and no brake delay goes before it (R582). -/
theorem stoAsserted_false {s : State} (hheld : s.safety.stoHeld = false) (hdelay : s.safety.brakeDelay ≠ .sto) :
    stoAsserted s = false := by
  rw [stoAsserted, hheld, beq_eq_false_iff_ne.2 hdelay, Bool.or_self]

/-- In sto_mode 0 an assertion drops every output at once (R582). -/
theorem assertSto_at_once {s : State} (hnot : stoAsserted s = false) (hmode : protStoMode s = 0) : assertSto s = stoDown s := by
  simp only [assertSto, hnot, hmode, Bool.false_eq_true, if_false, if_true]

/-- In another mode the brakes go first (R582). -/
theorem assertSto_delayed {s : State} (hnot : stoAsserted s = false) (hmode : protStoMode s ≠ 0) :
    assertSto s = { s with safety := { s.safety with
      brakeA := false, brakeB := false, stoDue := [], brakeDelay := .sto, brakeDelayAt := s.phase.gtc + protBrakeDelay s } } := by
  simp only [assertSto, hnot, hmode, Bool.false_eq_true, if_false]
  rfl

/-- Settles O46: each clause is the branch of its event that the hypotheses select. -/
theorem stoAndBrakesFollow : Obligations.StoAndBrakesFollow := by
  refine ⟨?_, ?_, ?_, ?_, ?_, ?_, ?_, ?_, ?_, ?_⟩
  · intro t s v hv hdue hheld hdelay hmode
    change execStoDeadlineExpiry t s = _
    refine event_runs hv ?_
    exact (if_pos hdue).trans (assertSto_at_once (stoAsserted_false hheld hdelay) hmode)
  · intro t s v hv hdue hheld hdelay hmode
    change execStoDeadlineExpiry t s = _
    refine event_runs hv ?_
    exact (if_pos hdue).trans (assertSto_delayed (stoAsserted_false hheld hdelay) hmode)
  · intro t s v hv hnone
    change execStoDeadlineExpiry t s = _
    refine event_runs hv ?_
    exact if_neg (Bool.eq_false_iff.1 hnone)
  · intro t s v hv hpast hdelay
    change execBrakeDelayExpiry t s = _
    refine event_runs hv ?_
    refine (if_neg (Nat.not_lt.2 hpast)).trans ?_
    simp only [hdelay]
    rfl
  · intro t s v hv hpast hdelay
    change execBrakeDelayExpiry t s = _
    refine event_runs hv ?_
    refine (if_neg (Nat.not_lt.2 hpast)).trans ?_
    simp only [hdelay]
  · intro t s v hv hearly
    change execBrakeDelayExpiry t s = _
    refine event_runs hv ?_
    exact if_pos hearly
  · intro t g s v hv hlimit hheld
    change execHeldLimitReached t g s = _
    refine event_runs hv ?_
    exact if_neg (not_or.2 ⟨Nat.not_lt.2 hheld, hlimit⟩)
  · intro t g s v hv h
    change execHeldLimitReached t g s = _
    refine event_runs hv ?_
    exact if_pos h.symm
  · intro t g s v hv hlimit hcount
    change execDisagreeLimitReached t g s = _
    refine event_runs hv ?_
    exact if_neg (not_or.2 ⟨Nat.not_lt.2 hcount, hlimit⟩)
  · intro t g s v hv h
    change execDisagreeLimitReached t g s = _
    refine event_runs hv ?_
    exact if_pos h.symm

end Sys2Proof.Proofs
end

section
/-!
Proof of the statement about the E-stop inputs, the test pulses and the readback of the outputs (O47).
-/
namespace Sys2Proof.Proofs
open Sys2Proof Sys2Proof.Machine Sys2Proof.Laws

/-- An input that has read low for 1 ms (R583). -/
theorem lowLong_some {s : State} {n : Nat} (h : n + 1000000 ≤ s.phase.gtc) : lowLong s (some n) = true := decide_eq_true h

/-- What an input that opens while none is open does (R584). -/
theorem execEstopOpen_first {t : Nat} {s v u : State} {a b : Bool} (hv : advance s t = v) (hA : v.safety.openA = false)
    (hB : v.safety.openB = false) (ha : lowLong v v.safety.lowA = a) (hb : lowLong v v.safety.lowB = b) (hopen : (a || b) = true)
    (hu : u = { v with safety := { v.safety with openA := a, openB := b } }) :
    execEstopOpen t s = .next (if protEstopCategory v = 0 then assertSto u else stoLater (allStop u) .estop u.phase.gtc) := by
  have hold : estopActive v = false := by rw [estopActive, hA, hB, Bool.or_self]
  have hnew : estopActive u = true := by rw [hu]; exact hopen
  have hstate : { v with safety := { v.safety with
      openA := v.safety.openA || lowLong v v.safety.lowA, openB := v.safety.openB || lowLong v v.safety.lowB } } = u := by
    rw [hu, hA, hB, ha, hb, Bool.false_or, Bool.false_or]
  refine event_runs hv ?_
  dsimp only
  rw [hstate, hold, hnew]
  rfl

/-- Settles O47: each clause is the branch of its event that the hypotheses select. That a high sample closes an input is the
model's choice (log entry 63). -/
theorem estopAndOutputsAct : Obligations.EstopAndOutputsAct := by
  refine ⟨?_, ?_, ?_, ?_, ?_, ?_, ?_⟩
  · intro t a b s v hv
    change execEstopSample t a b s = _
    refine event_runs hv ?_
    cases a <;> cases b <;> rfl
  · intro t s v n hv hA hB hlow hlong hother hcat
    refine (execEstopOpen_first hv hA hB (a := true) (b := false) (hlow ▸ lowLong_some hlong) (by rw [hother]; rfl) rfl rfl).trans ?_
    rw [if_pos hcat]
  · intro t s v n hv hA hB hlow hlong hother hcat
    have hcat' : protEstopCategory v ≠ 0 := by omega
    refine (execEstopOpen_first hv hA hB (a := false) (b := true) (by rw [hother]; rfl) (hlow ▸ lowLong_some hlong) rfl rfl).trans ?_
    rw [if_neg hcat']
  · intro t s v n hv hdiffer hlong hnot
    have hlong' : ¬ now v ≤ n + protEstopDiscrepancy v := Nat.not_le.2 hlong
    change execEstopDiscrepancyTimeout t s = _
    refine event_runs hv ?_
    simp only [hdiffer, hlong', hnot, Bool.false_eq_true, or_self, if_false]
  · intro t s v hv hsame
    change execEstopDiscrepancyTimeout t s = _
    refine event_runs hv ?_
    simp only [hsame]
  · intro t b s v hv hhigh
    change execStoTestPulse t b s = _
    refine event_runs hv ?_
    exact if_pos hhigh
  · intro t s v hv hnot
    change execOutputReadbackFault t s = _
    refine event_runs hv ?_
    exact if_neg (Bool.eq_false_iff.1 hnot)

end Sys2Proof.Proofs
end

section
/-!
Proof of the statement about the clock, memory, lockstep and supply monitors, and about a power failure (O48).
-/
namespace Sys2Proof.Proofs
open Sys2Proof Sys2Proof.Machine Sys2Proof.Laws

/-- A fault of the Shell is recorded and takes the Shell fault path, unless that is latched (R581). -/
theorem shellFails_first {s : State} (h : s.safety.shellFault = false) (cause : Nat) :
    shellFails s cause = shellFaultPath (huskFault s srcShell 9 0 cause) := if_neg (Bool.eq_false_iff.1 h)

theorem shellFails_latched {s : State} (h : s.safety.shellFault = true) (cause : Nat) : shellFails s cause = s := if_pos h

theorem shellFaultPath_latched {s : State} (h : s.safety.shellFault = true) : shellFaultPath s = s := if_pos h

/-- A supply that fails while the device is ACTIVE or STANDBY triggers the safe state and takes the main domain away (R577, R735). -/
theorem supplyLost_running {s : State} (h : 2 ≤ s.power.state) : supplyLost s = mainLost (safeTrigger s srcShell) true := if_pos h

theorem supplyLost_off {s : State} (hstate : s.power.state < 2) (hpwr : s.power.mainPwrEn = false) : supplyLost s = s :=
  (if_neg (Nat.not_le.2 hstate)).trans (if_neg (Bool.eq_false_iff.1 hpwr))

/-- Settles O48: each clause is the branch of its event that the hypotheses select. The record of an uncorrectable error of the Shell's
memory is the model's choice (log entry 72). -/
theorem monitorsReact : Obligations.MonitorsReact := by
  refine ⟨?_, ?_, ?_, ?_, ?_, ?_, ?_, ?_, ?_⟩
  · intro t s v hv hfirst
    refine ⟨?_, ?_, ?_⟩
    · change execShellClockFault t s = _
      refine event_runs hv ?_
      exact shellFails_first hfirst 0x0D
    · change execSafetyProcessorLockstepMismatch t s = _
      refine event_runs hv ?_
      exact shellFails_first hfirst 1
    · change execShellMemoryScrub t true s = _
      exact event_runs hv rfl
  · intro t s v hv hlatched
    constructor
    · change execShellClockFault t s = _
      refine event_runs hv ?_
      exact shellFails_latched hlatched 0x0D
    · change execSafetyProcessorLockstepMismatch t s = _
      refine event_runs hv ?_
      exact shellFails_latched hlatched 1
  · intro t s v hv
    change execShellMemoryScrub t false s = _
    exact event_runs hv rfl
  · intro t s v hv hruns
    change execMainClockFault t s = _
    refine event_runs hv ?_
    exact if_pos hruns
  · intro t s v hv hquiet
    change execMainClockFault t s = _
    refine event_runs hv ?_
    exact if_neg (Bool.eq_false_iff.1 hquiet)
  · intro t s v hv hstate
    change execMainSupplyFault t s = _
    exact event_runs hv (supplyLost_running hstate)
  · intro t s v hv hstate hpwr
    change execMainSupplyFault t s = _
    exact event_runs hv (supplyLost_off hstate hpwr)
  · intro t s v h hv hfirst hpwr hlatched hh
    subst hh
    change execPowerFailDetect t s = _
    refine event_runs hv ?_
    dsimp only
    rw [hfirst, shellFaultPath_latched (by exact hlatched)]
    exact (if_neg Bool.false_ne_true).trans (if_neg (Bool.eq_false_iff.1 hpwr))
  · intro t s v hv hagain
    change execPowerFailDetect t s = _
    refine event_runs hv ?_
    exact if_pos (Option.isSome_iff_ne_none.2 hagain)

end Sys2Proof.Proofs
end

section
/-!
Proof of the statement about boot, the supplies, JTAG and the resets that the host side causes (O49).
-/
namespace Sys2Proof.Proofs
open Sys2Proof Sys2Proof.Machine Sys2Proof.Laws

/-! What a reset of the main domain does not touch (R62, R578). -/

/-- The Husk, what the device has sent, the waiting commands, and whether the device is in a safe state. -/
def outsideMain (s : State) : Husk × List Output × List Instr × Bool := (s.husk, s.out, s.pending, s.hif.safeState)

theorem outsideMain_unpinPage (s : State) (a : Nat) : outsideMain (unpinPage s a) = outsideMain s := by
  unfold unpinPage
  dsimp only
  split <;> rfl

theorem outsideMain_releasePins (s : State) (r : RouteRun) : outsideMain (releasePins s r) = outsideMain s :=
  foldl_project outsideMain outsideMain_unpinPage _ s

theorem outsideMain_reloadEngine (s : State) (e : Nat) : outsideMain (reloadEngine s e) = outsideMain s := rfl

theorem outsideMain_mainDown (s : State) : outsideMain (mainDown s) = outsideMain s := by
  have hpins := foldl_project outsideMain
    (fun a (p : Partition) => foldl_project outsideMain outsideMain_releasePins (p.run.toList ++ p.spilled.toList ++ p.fenced.toList) a)
    s.field.parts s
  refine Eq.trans ?_ ((foldl_project outsideMain outsideMain_reloadEngine (List.range 9) _).trans hpins)
  unfold mainDown
  dsimp only
  generalize List.foldl reloadEngine _ _ = x
  rfl

theorem mainDown_fwReady (s : State) : (mainDown s).hif.fwReady = false := by
  unfold mainDown
  rfl

theorem outsideMain_restoreFallback (s : State) (e : Etch) : outsideMain (restoreFallback s e) = outsideMain s := by
  unfold restoreFallback
  split <;> rfl

theorem outsideMain_releaseEtch (s : State) (e : Etch) : outsideMain (releaseEtch s e.id) = outsideMain s := rfl

theorem outsideMain_discardMain (s : State) : outsideMain (discardMain s).2 = outsideMain s := by
  unfold discardMain
  exact (foldl_project outsideMain outsideMain_releaseEtch _ _).trans (foldl_project outsideMain outsideMain_restoreFallback _ s)

/-! The resets of the functions (R152, R740). -/

/-- With no session there is none to close. -/
theorem resetFunction_noSession {s : State} (h : s.cmds.sessions = []) (f : Nat) : resetFunction s f = s := by
  rw [resetFunction, h]
  rfl

theorem loseLink_eq {s u : State} (hu : u = (List.range 64).foldl resetFunction s) :
    loseLink s = { u with ports := { u.ports with linkUp := false } } := by
  unfold loseLink
  rw [← hu]

theorem loseLink_noSession {s : State} (h : s.cmds.sessions = []) :
    loseLink s = { s with ports := { s.ports with linkUp := false } } :=
  loseLink_eq (foldl_unchanged fun f _ => resetFunction_noSession h f).symm

/-- Settles O49: each clause is the branch of its event that the hypotheses select, and a reset of the main domain leaves what lies outside
it. That VF_DISABLE of function 0 does nothing, the record of the supplies' time-out, and that the outputs go high after JTAG_TRST are the
model's choices (log entries 30, 71 and 76). -/
theorem bootSuppliesJtagAndResets : Obligations.BootSuppliesJtagAndResets := by
  refine ⟨⟨?_, ?_, ?_, ?_, ?_, ?_, ?_, ?_, ?_, ?_⟩, ?_, ?_, ?_, ?_, ?_⟩
  · intro t s v hv
    constructor
    · change execShellPowerUp t s = _
      exact event_runs hv rfl
    · change execShellPorstNPulse t s = _
      exact event_runs hv rfl
  · intro t s v hv hheld hquiet
    change execI3cTargetReset t s = _
    refine event_runs hv ?_
    rw [hheld]
    exact if_pos hquiet
  · intro t s v hv hfree
    change execI3cTargetReset t s = _
    refine event_runs hv ?_
    rw [hfree]
    exact if_neg Bool.false_ne_true
  · intro t s v hv hpwr
    change execMainSupplyValid t s = _
    refine event_runs hv ?_
    exact if_pos hpwr
  · intro t s v hv hpwr hvalid
    change execMainSupplyUpTimeout t s = _
    refine event_runs hv ?_
    exact if_pos (by rw [hpwr, hvalid]; rfl)
  · intro t s v hv hpowered
    change execPerstRelease t s = _
    refine event_runs hv ?_
    exact if_neg (Bool.eq_false_iff.1 hpowered)
  · intro t s v hv
    change execVhuskCharged t s = _
    exact event_runs hv rfl
  · intro t i s v hv hloud hfree
    have hready := mainDown_fwReady (discardMain v).2
    have hkept : outsideMain (mainDown (discardMain v).2) = outsideMain v :=
      (outsideMain_mainDown _).trans (outsideMain_discardMain v)
    have hrun : execJtagInstructionLoad t i s = .next { mainDown (discardMain v).2 with
        ports := { (mainDown (discardMain v).2).ports with jtag := true },
        safety := { (mainDown (discardMain v).2).safety with
          stoA := false, stoB := false, brakeA := false, brakeB := false, pulse := none } } :=
      event_runs hv (if_neg (by rw [hloud, hfree]; exact Bool.false_ne_true))
    simp only [outsideMain, Prod.mk.injEq] at hkept
    obtain ⟨hhusk, hout, hpending, hsafe⟩ := hkept
    refine ⟨_, hrun, ?_⟩
    generalize mainDown (discardMain v).2 = x at *
    exact ⟨rfl, rfl, rfl, rfl, rfl, rfl, hready, hsafe, hhusk, hout, hpending⟩
  · intro t i s v hv hquiet
    change execJtagInstructionLoad t i s = _
    refine event_runs hv ?_
    exact if_pos (by rw [hquiet]; rfl)
  · intro t s v hv hjtag hidle
    change execJtagTrst t s = _
    refine event_runs hv ?_
    refine (if_neg (by rw [hjtag]; exact Bool.false_ne_true)).trans ?_
    dsimp only
    rw [hidle, beq_self_eq_true, Bool.and_true]
  · intro t f s v hv
    change execFunctionLevelReset t f s = _
    exact event_runs hv rfl
  · intro t f s v hv hf
    change execVfDisable t f s = _
    refine event_runs hv ?_
    exact if_neg hf
  · intro t s v hv
    change execVfDisable t 0 s = _
    exact event_runs hv rfl
  · intro t s v hv hnone
    constructor
    · change execHostLinkLoss t s = _
      exact event_runs hv (loseLink_noSession hnone)
    · change execPerstAssert t s = _
      exact event_runs hv (loseLink_noSession hnone)
  · intro t s v u hv hu
    constructor
    · change execHostLinkLoss t s = _
      exact event_runs hv (loseLink_eq hu)
    · change execPerstAssert t s = _
      exact event_runs hv (loseLink_eq hu)

end Sys2Proof.Proofs
end

section
/-!
Proof of the statement about the Husk: its records, its mirror and the commands that read them (O50).
-/
namespace Sys2Proof.Proofs
open Sys2Proof Sys2Proof.Machine Sys2Proof.Laws

/-- The types of R700. -/
theorem interrupts_iff (typ : Nat) : interrupts typ = true ↔ typ = 2 ∨ typ = 3 ∨ typ = 8 ∨ typ = 9 := by
  simp [interrupts]

/-- The mirror is off where its size is 0 (R615). -/
theorem mirrored_ite {α : Type} (s : State) (a b : α) :
    (if (protMirrorMib s != 0) = true then a else b) = if protMirrorMib s = 0 then b else a := by
  by_cases h : protMirrorMib s = 0
  · rw [h]
    rfl
  · rw [if_pos (bne_iff_ne.2 h), if_neg h]

/-- Settles O50: each clause is the branch of its command or event that the hypotheses select. -/
theorem huskKeepsRecords : Obligations.HuskKeepsRecords := by
  refine ⟨?_, ?_, ?_, ?_, ?_, ?_, ?_, ?_, ?_⟩
  · intro t s v r rest u hv hq hpower hu
    change execHuskRecordWrite t s = _
    refine event_runs hv ?_
    dsimp only
    rw [hq]
    refine (if_neg hpower).trans ?_
    rw [mirrored_ite, mirrored_ite]
    simp only [interrupts_iff, hu]
    rfl
  · intro t s v hv hq
    change execHuskRecordWrite t s = _
    refine event_runs hv ?_
    simp only [hq]
  · intro t s v hv hpower
    change execHuskRecordWrite t s = _
    refine event_runs hv ?_
    dsimp only
    split
    · rfl
    · exact if_pos hpower
  · intro t s v n b hv hn hne hpower hmore hb
    subst hn
    change execHuskMirrorCopy t s = _
    refine event_runs hv ?_
    dsimp only
    rw [hb, hpower]
    refine (if_neg ?_).trans ?_
    · simp [hne, hmore]
    · simp only [decide_eq_true_eq]
      rfl
  · intro t x s v hv
    change execHskRdSeqWrite t x s = _
    exact event_runs hv rfl
  · intro t c s v hv
    change execHuskStatus t c s = _
    exact host_runs hv rfl rfl
  · intro t c first n w off s v u hv hok hu
    change execHuskRead t c first n w off s = _
    refine host_runs hv hok ?_
    exact writeReply_ok hu
  · intro t c w off s v u hv hfn hu
    change execProtRead t c w off s = _
    refine host_runs hv rfl ?_
    exact (if_neg (Classical.not_not.2 hfn)).trans (writeReply_ok hu)
  · intro t c w off s v hv hfn
    change execProtRead t c w off s = _
    refine host_runs hv rfl ?_
    exact if_pos hfn

end Sys2Proof.Proofs
end

section
/-!
Proof of the statement about the update commands and their events (O51).
-/
namespace Sys2Proof.Proofs
open Sys2Proof Sys2Proof.Machine Sys2Proof.Laws

/-- A command without update permission completes with PROTECTION (R169). -/
theorem update_denied {s v : State} {t : Nat} {c : Cmd} {body : State → State} (hv : began s t c = v)
    (h : fnUpdate v (fnOf v c) = false) : update s t c true body = .next (done v c stPROTECTION) :=
  host_runs hv rfl (if_neg (Bool.eq_false_iff.1 h))

/-- An image that boot code accepts has its fields in order (R595). -/
theorem biFieldsOk_of_accepted {s : State} {kind : Nat} {b : Bytes} (h : imageAccepted s kind b = true) : biFieldsOk b = true := by
  simp only [imageAccepted, Bool.and_eq_true] at h
  obtain ⟨⟨⟨⟨⟨⟨⟨⟨⟨hfields, _⟩, _⟩, _⟩, _⟩, _⟩, _⟩, _⟩, _⟩, _⟩ := h
  exact hfields

/-- No swap of main firmware is under way. -/
theorem swapping_main {s : State} (hswap : s.boot.swap = none) (htake : s.boot.takeover = none) : swapping s 3 = false := by
  rw [swapping, if_pos rfl, hswap, htake]
  rfl

/-- No swap of Shell firmware is under way. -/
theorem swapping_shell {s : State} (hswap : s.boot.shellSwap = none) (hreboot : s.boot.reboot = none) : swapping s 2 = false := by
  rw [swapping, if_neg (by decide), hswap, hreboot]
  rfl

/-- An accepted image waits to be written to the slot that is not running, while no swap needs that (R604, R619). -/
theorem loadImage_accepted {s : State} {c : Cmd} {kind : Nat} {b : Bytes} (hok : imageAccepted s kind b = true)
    (hfree : swapping s kind = false) :
    loadImage s c kind b = { s with boot := { s.boot with writes := s.boot.writes ++
      [{ cmd := c, kind := kind, slotB := !(if kind = 2 then s.boot.shellB else selector s kind), image := b }] } } := by
  simp only [loadImage, biFieldsOk_of_accepted hok, hok, hfree, Bool.not_true, Bool.false_eq_true, if_false]

/-- Settles O51: each clause is the branch of its command or event that the hypotheses select. -/
theorem updatesComplete : Obligations.UpdatesComplete := by
  refine ⟨?_, ?_, ?_, ?_, ?_, ?_, ?_⟩
  · intro t c w off len s v u b hv hallowed hu hread hok hswap htake
    subst hu
    change execFwLoad t c w off len s = _
    refine update_runs hv rfl hallowed ?_
    rw [hread]
    exact loadImage_accepted hok (swapping_main hswap htake)
  · intro t c w off len s v u b hv hallowed hu hread hkind hok hswap hreboot
    subst hu
    change execShellFwLoad t c w off len s = _
    refine update_runs hv rfl hallowed ?_
    rw [hread]
    change loadImage _ c (if biKind b = 4 then 4 else 2) b = _
    rw [if_neg hkind]
    exact loadImage_accepted hok (swapping_shell hswap hreboot)
  · intro t c w off len s v hv hdenied
    refine ⟨?_, ?_, ?_, ?_⟩
    · change execFwLoad t c w off len s = _
      exact update_denied hv hdenied
    · change execShellFwLoad t c w off len s = _
      exact update_denied hv hdenied
    · change execFwSwap t c s = _
      exact update_denied hv hdenied
    · change execShellFwSwap t c s = _
      exact update_denied hv hdenied
  · intro t s v w rest u hv hw hkind hu
    have hshell : (w.kind == 2) = false := by rw [hkind]; rfl
    have hprot : (w.kind == 4) = false := by rw [hkind]; rfl
    have hmain : ¬ w.kind = 4 := by rw [hkind]; decide
    change execBootFlashWriteDone t s = _
    refine event_runs hv ?_
    simp only [hw]
    rw [hshell, hprot, if_neg hmain, hkind, ← hu, Bool.or_false, Bool.or_false]
  · intro t c s v u hv hallowed hu hswap htake hok
    subst hu
    change execFwSwap t c s = _
    refine update_runs hv rfl hallowed ?_
    simp only [swapping_main hswap htake, hok, Bool.not_true, Bool.false_eq_true, if_false]
  · intro t c s v u hv hallowed hu hswap hreboot hok
    subst hu
    change execShellFwSwap t c s = _
    refine update_runs hv rfl hallowed ?_
    simp only [swapping_shell hswap hreboot, hok, Bool.not_true, Bool.false_eq_true, if_false]
  · intro t s v x u hv hx hlong halive hu
    have hready : ¬ (now v < x.at_ + 10000000 ∨ v.safety.heartbeat + protHeartbeat v ≤ now v) :=
      not_or.2 ⟨Nat.not_lt.2 hlong, Nat.not_le.2 halive⟩
    change execFwSwapConfirm t s = _
    refine event_runs hv ?_
    simp only [hx, hready, if_false]
    rw [hu]

end Sys2Proof.Proofs
end

section
/-!
Proof of the statement about spares, pairs, LPDDR training and memory faults (O52).
-/
namespace Sys2Proof.Proofs
open Sys2Proof Sys2Proof.Machine Sys2Proof.Laws

/-- A sector of a partition goes to its remapping, or waits for the partition's route (R375). -/
theorem startRemap_part {s : State} {n l p : Nat} {c : Cmd} (hl : logicalOf s n = some l) (hspare : spareSector s ≠ none)
    (hp : partOfLogical s l = some p) :
    startRemap s n c = if (getPart s p).run.isSome || (getPart s p).spilled.isSome
      then modPart s p (fun x => { x with remap := x.remap ++ [(n, c)] }) else remapSector (bumpEpoch s p) l n (some c) := by
  have hleft : (spareSector s).isNone = false := Option.isNone_eq_false_iff.2 (Option.isSome_iff_ne_none.2 hspare)
  simp only [startRemap, hl, hleft, hp, Bool.false_eq_true, if_false]

/-- A drain whose channels all find another pair is in progress (R329, R621). -/
theorem beginDrain_begins {s y : State} {d : PairDrain} (hfree : s.servo.drain = none)
    (hy : y = { s with servo := { s.servo with drain := some d } }) (hmove : moveAll y d.pair ≠ none)
    (hsome : pairChannels y d.pair ≠ []) : beginDrain s d = y := by
  have hmove' : (moveAll y d.pair).isNone = false := Option.isNone_eq_false_iff.2 (Option.isSome_iff_ne_none.2 hmove)
  have hsome' : (pairChannels y d.pair).isEmpty = false := List.isEmpty_eq_false_iff.2 hsome
  unfold beginDrain
  dsimp only
  rw [hfree, ← hy, hmove', hsome']
  rfl

/-- The fence of a slice is recorded (R418). -/
theorem fenceSlice_first {s : State} {n : Nat} (hn : n < 16) (hopen : s.power.fenced.getD n false = false) (cause : Nat) :
    fenceSlice s n cause = huskFault { s with power := { s.power with fenced := s.power.fenced.set n true } } srcCp 5 n cause := by
  have hopen' : ¬ (16 ≤ n ∨ s.power.fenced.getD n false = true) :=
    not_or.2 ⟨Nat.not_le.2 hn, Bool.eq_false_iff.1 hopen⟩
  exact if_neg hopen'

theorem fenceSlice_fenced {s : State} {n : Nat} (h : s.power.fenced.getD n false = true) (cause : Nat) :
    fenceSlice s n cause = s := if_pos (Or.inr h)

/-- With no training under way a command begins to train its lowest channel (R618). -/
theorem beginRetrain_begins {s : State} {c : Cmd} {n : Nat} {left : List Nat} (hfree : s.ports.retrain = none) :
    nextRetrains (beginRetrain s c (n :: left)) = modLpddr
      { s with free := s.free + 1, ports := { s.ports with retrain := some (c, 0, n :: left) } } n
      (fun x => { x with retraining := some (max 1 (Config.retrainSteps s.free)) }) := by
  have hbegin : beginRetrain s c (n :: left) = goRetrain s c 0 (n :: left) :=
    if_neg (by rw [hfree]; exact Bool.false_ne_true)
  rw [hbegin]
  exact if_pos rfl

/-- Settles O52: each clause is the branch of its command or event that the hypotheses select. Which places LPDDR_BURST_REREAD_LIMIT
concerns and what it counts are the model's choices (log entries 91 and 150). -/
theorem sparesTrainingAndMemory : Obligations.SparesTrainingAndMemory := by
  refine ⟨⟨?_, ?_, ?_, ?_, ?_, ?_, ?_, ?_⟩, ?_, ?_, ?_, ?_, ?_, ?_⟩
  · intro t c n s v u l p hv hok hallowed hu hl hspare hp
    subst hu
    refine ⟨fun hrun hspilled => ?_, fun r hrun => ?_⟩
    all_goals
      change execSectorRemap t c n s = _
      refine update_runs hv hok hallowed ((startRemap_part hl hspare hp).trans ?_)
    · rw [hrun, hspilled]
      rfl
    · rw [hrun]
      rfl
  · intro t c e s v u k sp hv hok hallowed hu hk hspare hactive
    subst hu hk
    change execEngineSwap t c e s = _
    refine update_runs hv hok hallowed ?_
    simp only [hspare, hactive, bne_self_eq_false, Bool.false_eq_true, if_false]
  · intro t c p r s v u y hv hallowed hu hfree _ hy hmove hsome
    subst hu
    change execServoPairDrain t c p r s = _
    exact update_runs hv rfl hallowed (beginDrain_begins hfree hy hmove hsome)
  · intro t p s v hv htesting
    constructor
    · change execPairSelftestEnd t p false s = _
      refine event_runs hv ?_
      simp only [htesting, Bool.not_true, Bool.false_eq_true, if_false]
    · change execPairSelftestEnd t p true s = _
      refine event_runs hv ?_
      simp only [htesting, Bool.not_true, Bool.false_eq_true, if_false, if_true]
  · intro t c s v hv hallowed
    change execSpareStatus t c s = _
    refine host_runs hv rfl ?_
    simp only [hallowed, Bool.not_true, Bool.false_eq_true, if_false]
  · intro t c m s v u n left hv hallowed hu hfree hm
    subst hu
    change execLpddrRetrain t c m s = _
    refine update_runs hv rfl hallowed ?_
    rw [hm]
    exact beginRetrain_begins hfree
  · intro t n s v u hv hnone hu
    subst hu
    change execLpddrRefresh t n s = _
    refine event_runs hv ?_
    dsimp only
    rw [show (modLpddr v n (fun x => { x with refreshes := x.refreshes + 1 })).ports.retrain = none from hnone]
  · intro t n s v u c k left m hv hu hretrain hsteps
    have hretrain' : u.ports.retrain = some (c, k, n :: left) := by rw [hu]; exact hretrain
    change execLpddrRefresh t n s = _
    refine event_runs hv ?_
    dsimp only
    rw [← hu, hretrain']
    refine (if_neg (Classical.not_not.2 rfl)).trans ?_
    rw [hsteps]
  · intro t n s v hv hn hopen hmany
    change execSliceFence t n s = _
    refine event_runs hv ?_
    rw [if_pos hmany, fenceSlice_first hn hopen]
  · intro t n s v hv hn hopen hfew
    change execSliceFence t n s = _
    refine event_runs hv ?_
    rw [if_neg (Nat.not_le.2 hfew), fenceSlice_first hn hopen]
  · intro t n s v hv hfenced
    change execSliceFence t n s = _
    refine event_runs hv ?_
    exact fenceSlice_fenced hfenced _
  · intro t n s v hv
    change execSharedBufferScrub t n s = _
    exact event_runs hv rfl
  · intro t n d s v hv
    change execLpddrDriftMeasure t n d s = _
    exact event_runs hv rfl
  · intro t a k s v u hv hdevice hplace hu
    have hhere : ¬ (hostBase ≤ a ∨ (16 * sliceBytes ≤ a ∧ a < lpddrBase)) := by omega
    subst hu
    refine ⟨fun hsoft => ?_, fun hhard => ?_⟩
    all_goals
      change execLpddrBurstRereadLimit t a k s = _
      refine event_runs hv ?_
      refine (if_neg hhere).trans ?_
    · exact if_neg (Bool.eq_false_iff.1 hsoft)
    · exact if_pos hhard

end Sys2Proof.Proofs
end

section
/-!
Proof of the statement about the imprint commands and the hash engine (O53).
-/
namespace Sys2Proof.Proofs
open Sys2Proof Sys2Proof.Machine Sys2Proof.Laws

/-- An imprint ring of one entry or more is defined (R643). -/
theorem okImprint_of_ne {n : BitVec 16} (h : n ≠ 0) (enable : Bool) : okImprint n enable = true := by
  rw [okImprint, bne_iff_ne.2 h, Bool.true_or]

/-- A command that turns the imprints off may leave the entries 0: the model's choice (log entry 139). -/
theorem okImprint_off (n : BitVec 16) : okImprint n false = true := Bool.or_true _

/-- A digest of an allocation that can be read is kept, charged, and completes its command (R639, R640). -/
theorem endWeight_ok {s u : State} {c : Cmd} {a : Nat} {x : Allocation} (hx : s.cmds.allocs.find? (fun y => y.addr == a) = some x)
    (haccess : accessStatus s x.addr x.bytes false = none) (hu : u = chargeHash s (x.session.getD 0) x.bytes) :
    endWeight s c a = done { u with imprints := { u.imprints with
      weights := u.imprints.weights.filter (fun w => w.addr != a) ++ [{ addr := a, digest := digest [s.mem.dev.read x.addr x.bytes] }] } }
      c stOK (numAt (digest [s.mem.dev.read x.addr x.bytes]) 0 8) := by
  subst hu
  simp only [endWeight, hx, haccess]

/-- Settles O53: each clause is the branch of its command or event that the hypotheses select. That IMPRINT_CONFIG without enable accepts
entries 0, and that SOLVE_STATE_WRITE restores at once, are the model's choices (log entries 139 and 156). -/
theorem imprintsComplete : Obligations.ImprintsComplete := by
  refine ⟨?_, ?_, ?_, ?_, ?_, ?_, ?_, ?_, ?_⟩
  · intro t c q w off n s v x k hv hne hx hown hk
    change execImprintConfig t c q w off n true s = _
    refine host_runs hv (okImprint_of_ne hne true) ?_
    simp only [hx, hown, hk, orFail_ok, Bool.not_true, Bool.false_eq_true, if_false]
  · intro t c q w off n s v x hv hx hown
    change execImprintConfig t c q w off n false s = _
    refine host_runs hv (okImprint_off n) ?_
    simp only [hx, hown, Bool.not_true, Bool.not_false, Bool.false_eq_true, if_false, if_true]
  · intro t c a s v x id u hv hx hid hown hcls hu
    subst hu
    change execWeightDigest t c a s = _
    refine host_runs hv rfl ?_
    simp only [hx, hid, hown, hcls, bne_self_eq_false, Bool.not_true, Bool.or_self, Bool.false_eq_true, if_false]
  · intro t c w oa ob s v a b hv ha hb
    change execImprintCompare t c w oa ob s = _
    refine host_runs hv rfl ?_
    simp only [ha, hb, orFail_ok]
  · intro t c e n w off s v k x i u hv he hslot hu
    change execSolveStateRead t c e n w off s = _
    refine host_runs hv (okEngine_of_le he) ?_
    simp only [hslot]
    exact writeReply_ok hu
  · intro t c e n w off s v k x i h b hv he hslot hsoft hh hrsv hversion hlen h2 h3 hb
    change execSolveStateWrite t c e n w off s = _
    refine host_runs hv (okEngine_of_le he) ?_
    simp only [hslot, hsoft, hh, hrsv, hversion, hlen, h2, h3, hb, orFail_ok, ne_eq, not_true_eq_false, or_self, Bool.false_eq_true,
      if_false]
  · intro t s v session k n rest hv hq
    change execHashEngineComplete t s = _
    refine event_runs hv ?_
    simp only [hq]
  · intro t s v c a x rest u hv hq hu hx haccess
    change execHashEngineComplete t s = _
    refine event_runs hv ?_
    simp only [hq]
    exact endWeight_ok hx haccess hu
  · intro t s v x session n rest u hv hq hu
    subst hu
    change execImprintWrite t s = _
    refine event_runs hv ?_
    simp only [hq] <;> rfl

end Sys2Proof.Proofs
end

section
/-!
Proof of the statement about the peer commands (O54).
-/
namespace Sys2Proof.Proofs
open Sys2Proof Sys2Proof.Machine Sys2Proof.Laws

section
variable {s : State} {c : Cmd} {write : Bool} {device window remote lo length k : Nat} {lw : Word} (hdevice : device ≠ ownNumber s)
  (hkey : windowKey s c lw lo length (!write) = .ok k) (hserves : sliceServes s (partOf s c) k length = true)
  (haccess : accessStatus s k length (!write) = none)
include hdevice hkey hserves haccess

/-- A transfer of one byte or more is in progress, and its messages leave in the order of their offsets (R714). -/
theorem startPeer_begins {x : PeerTransfer} {u : State} (hlen : length ≠ 0)
    (hx : x = { cmd := c, write := write, window := lw.toNat, local_ := k, length := length, id := s.ports.peer.nextTransfer,
                outcomes := [] })
    (hu : u = modPeer s (fun p => { p with transfers := p.transfers ++ [x], nextTransfer := p.nextTransfer + 1 })) :
    startPeer s c write device window remote lw lo length = (List.range ((length + 4095) / 4096)).foldl (fun s i =>
      sendPart s x device window remote (4096 * i) (min 4096 (length - 4096 * i))) u := by
  subst hx hu
  simp only [startPeer, hdevice, hkey, hserves, haccess, hlen, orFail_ok, if_false, if_true]

/-- A transfer of no bytes is over at once: the model's choice (log entry 87). -/
theorem startPeer_empty (hlen : length = 0) : startPeer s c write device window remote lw lo length = done s c stOK := by
  subst hlen
  simp only [startPeer, hdevice, hkey, hserves, haccess, orFail_ok, if_false, if_true]

end

/-- Settles O54: each clause is the branch of its command that the hypotheses select. That PEER_WRITE of no bytes completes OK is the
model's choice (log entry 87). -/
theorem peerCommandsComplete : Obligations.PeerCommandsComplete := by
  refine ⟨?_, ?_, ?_, ?_, ?_, ?_⟩
  · intro t c s v hv
    change execPeerStatus t c s = _
    exact host_runs hv rfl rfl
  · intro t c w off len d wr rd s v k x id hv hkey hx hhost hid
    change execPeerWindowOpen t c w off len d wr rd s = _
    refine host_runs hv rfl ?_
    rw [hkey]
    change (match findWindow v w with | none => _ | some _ => _) = _
    simp only [hx, hhost, hid, Bool.false_eq_true, if_false]
    rfl
  · intro t c w s v x hv hx hown
    change execPeerWindowClose t c w s = _
    refine host_runs hv rfl ?_
    simp only [hx]
    exact if_neg (Bool.eq_false_iff.1 (congrArg Bool.not hown))
  · intro t c d pw ro w lo len s v k x u hv hd hkey hserves haccess hne hx hu
    have hlen : len.toNat ≠ 0 := fun h => hne (BitVec.eq_of_toNat_eq h)
    change execPeerWrite t c d pw ro w lo len s = _
    exact host_runs hv rfl (startPeer_begins (write := true) hd hkey hserves haccess hlen hx hu)
  · intro t c d pw ro w lo len s v k x u hv hd hkey hserves haccess hne hx hu
    have hlen : len.toNat ≠ 0 := fun h => hne (BitVec.eq_of_toNat_eq h)
    change execPeerRead t c d pw ro w lo len s = _
    exact host_runs hv rfl (startPeer_begins (write := false) hd hkey hserves haccess hlen hx hu)
  · intro t c d pw ro w lo s v k hv hd hkey hserves haccess
    change execPeerWrite t c d pw ro w lo 0 s = _
    exact host_runs hv rfl (startPeer_empty (write := true) hd hkey hserves haccess rfl)

end Sys2Proof.Proofs
end

section
/-!
Proof of the statement about the messages of the peer link (O55).
-/
namespace Sys2Proof.Proofs
open Sys2Proof Sys2Proof.Machine Sys2Proof.Laws

/-- While the main domain does not run its ports hear nothing (R709). -/
theorem receive_down {u : State} (h : mainRuns u = false) (p : Nat) (hd : List Word) (b : Bytes) (type : Nat) (body : State → State) :
    receive u p hd b type body = u := by
  simp only [receive, h, Bool.not_false, if_true]

/-- A message that is not whole is heard and counted as discarded (R711). -/
theorem receive_broken {u : State} {h : List Word} {b : Bytes} (hruns : mainRuns u = true) (hbroken : intact h b = false) (p type : Nat)
    (body : State → State) :
    receive u p h b type body = modPort (flitHeard u p) p (fun x => { x with discarded := satInc x.discarded }) := by
  simp only [receive, hruns, hbroken, Bool.not_true, Bool.not_false, Bool.true_or, Bool.false_eq_true, if_false, if_true]

section
variable {u v : State} {p type : Nat} {h : List Word} {b : Bytes} {body : State → State} (hruns : mainRuns u = true)
  (hwhole : intact h b = true) (hmin : 1 ≤ pmType h) (hmax : pmType h ≤ 8) (hv : senderHeard (flitHeard u p) p h = v)
include hruns hwhole hmin hmax hv

/-- A whole message tells of its sender, and has its effect where it is of the type and for this device (R708, R711). -/
theorem receive_whole : receive u p h b type body = if pmType h = type ∧ pmDst h = ownNumber u then body v else v := by
  simp only [receive, hruns, hwhole, decide_eq_false (Nat.not_lt.2 hmin), decide_eq_false (Nat.not_lt.2 hmax), hv, Bool.not_true,
    Bool.or_self, Bool.false_eq_true, if_false]

end

section
variable {t p type : Nat} {h : List Word} {b : Bytes} {s u v w : State} {body : State → State} (hu : advance s t = u)
  (hruns : mainRuns u = true) (hwhole : intact h b = true) (htype : pmType h = type) (hmin : 1 ≤ type) (hmax : type ≤ 8)
  (hv : senderHeard (flitHeard u p) p h = v)
include hu hruns hwhole htype hmin hmax hv

/-- A message of the event's type for this device has its effect once its sender has been heard. -/
theorem message_runs (hdst : pmDst h = ownNumber u) (hbody : body v = w) :
    event s t (fun s => receive s p h b type body) = .next w := by
  refine event_runs hu ?_
  rw [receive_whole hruns hwhole (htype ▸ hmin) (htype ▸ hmax) hv, if_pos ⟨htype, hdst⟩, hbody]

/-- A message without an effect of its own is only heard (R709, R711). -/
theorem message_heard : event s t (fun s => receive s p h b type (fun s => s)) = .next v := by
  refine event_runs hu ?_
  rw [receive_whole hruns hwhole (htype ▸ hmin) (htype ▸ hmax) hv, ite_self]

end

/-- Settles O55: each clause is the branch of its event that the hypotheses select. That EVENT does nothing more, and how many bytes a
READ_REQ may ask for, are the model's choices (log entry 86). -/
theorem peerMessagesAct : Obligations.PeerMessagesAct := by
  refine ⟨?_, ?_, ?_, ?_, ?_, ?_, ?_, ?_, ?_, ?_⟩
  · intro t p h b s u v k hu hruns hwhole htype hv hdst hnew hrange
    change execPeerWriteRx t p h b s = _
    refine message_runs hu hruns hwhole htype (by decide) (by decide) hv hdst ?_
    simp only [hnew, hrange]
  · intro t p h b s u v st hu hruns hwhole htype hv hdst hkept
    change execPeerWriteRx t p h b s = _
    refine message_runs hu hruns hwhole htype (by decide) (by decide) hv hdst ?_
    simp only [hkept]
  · intro t p h s u v x m hu hruns hwhole htype hv hdst hawaited
    change execPeerAckRx t p h s = _
    refine message_runs hu hruns hwhole htype (by decide) (by decide) hv hdst ?_
    simp only [hawaited]
  · intro t p h b s u v k hu hruns hwhole htype hv hdst hnew hlen hrange
    change execPeerReadReqRx t p h b s = _
    refine message_runs hu hruns hwhole htype (by decide) (by decide) hv hdst ?_
    simp only [hnew, hrange, if_neg (Nat.not_lt.2 hlen)]
  · intro t p h b s u v x m hu hruns hwhole htype hv hdst hawaited hok hlen hwindow haccess
    change execPeerReadDataRx t p h b s = _
    refine message_runs hu hruns hwhole htype (by decide) (by decide) hv hdst ?_
    simp only [hawaited, hok, hlen, hwindow, haccess, ne_eq, not_true_eq_false, Bool.not_true, Bool.false_eq_true, if_false]
  · intro t p h s u hu hruns hwhole htype
    change execPeerHelloRx t p h s = _
    exact message_heard hu hruns hwhole htype (by decide) (by decide) rfl
  · intro t p h b s u hu hruns hwhole htype
    change execPeerEventRx t p h b s = _
    exact message_heard hu hruns hwhole htype (by decide) (by decide) rfl
  · intro t p h b d s u v hu hruns hwhole hmin hmax hv hdst
    change execPeerMessageForward t p h b d s = _
    refine event_runs hu ?_
    dsimp only
    rw [receive_whole hruns hwhole hmin hmax hv, ite_self, hruns, hwhole, decide_eq_false (Nat.not_lt.2 hmin),
      decide_eq_false (Nat.not_lt.2 hmax), beq_eq_false_iff_ne.2 hdst]
    rfl
  · intro t p h b s u hu hruns hbroken
    change execPeerWriteRx t p h b s = _
    exact event_runs hu (receive_broken hruns hbroken p 1 _)
  · intro t p h b s u hu hdown
    change execPeerWriteRx t p h b s = _
    exact event_runs hu (receive_down hdown p h b 1 _)

end Sys2Proof.Proofs
end

section
/-!
Proof of the statement about the timers of the peer link (O56).
-/
namespace Sys2Proof.Proofs
open Sys2Proof Sys2Proof.Machine Sys2Proof.Laws

/-- With no device present there is no role; a device that was its own master without one stays as it is (R57; the model's choice, log
entry 112). -/
theorem setRole_alone {s : State} (h : s.ports.peer.present = 0) :
    setRole s = { s with sync := if s.sync.role = 0 ∧ s.sync.masterPeer = s.ports.peer.number then s.sync
      else { s.sync with role := 0, masterPeer := s.ports.peer.number, locked := false, good := 0, bad := 0, rateHeld := false,
                         request := none } } := by
  have hmaster : (if (0 : BitVec 3) = 2 then BitVec.ofNat 2 ((devicesPresent s).headD 0) else s.ports.peer.number)
      = s.ports.peer.number := if_neg (by decide)
  unfold setRole
  dsimp only
  rw [if_pos h, hmaster]
  by_cases hsame : s.sync.role = 0 ∧ s.sync.masterPeer = s.ports.peer.number
  · rw [if_pos ⟨hsame.1.symm, hsame.2.symm⟩, if_pos hsame]
  · rw [if_neg fun h => hsame ⟨h.1.symm, h.2.symm⟩, if_neg hsame]

/-- A port that has heard no flit for 100 µs goes down (R709). -/
theorem execPeerConnectionTimeout_down {t p : Nat} {s v u : State} (hv : advance s t = v) (hup : (getPort v p).up = true)
    (hlate : (getPort v p).lastFlit + 100000 ≤ v.phase.gtc)
    (hu : u = modPort { v with sync := { v.sync with request := none } } p (fun x => { x with up := false })) :
    execPeerConnectionTimeout t p s =
      .next (if (getPort u (1 - p)).up then u else setRole (modPeer u (fun x => { x with present := 0 }))) := by
  have hlate' : ¬ now v < (getPort v p).lastFlit + 100000 := Nat.not_lt.2 hlate
  subst hu
  refine event_runs hv ?_
  simp only [hup, decide_eq_false hlate', Bool.not_true, Bool.or_self, Bool.false_eq_true, if_false]

/-- Settles O56: each clause is the branch of its event that the hypotheses select. The state of a device with no other present, and that a
port's time-out drops an open exchange, are the model's choices (log entries 87, 112 and 153). -/
theorem peerTimersAct : Obligations.PeerTimersAct := by
  refine ⟨?_, ?_, ?_, ?_, ?_, ?_, ?_⟩
  · intro t p s v h y hv hruns hidle hnext
    have hidle' : ¬ now v < (getPort v p).lastSent + 10000 := Nat.not_lt.2 hidle
    change execPeerHelloTimer t p s = _
    refine event_runs hv ?_
    simp only [hruns, decide_eq_false hidle', hnext, Bool.not_true, Bool.or_self, Bool.false_eq_true, if_false]
  · intro t p s v hv hearly
    have hearly' : now v < (getPort v p).lastSent + 10000 := hearly
    change execPeerHelloTimer t p s = _
    refine event_runs hv ?_
    simp only [decide_eq_true hearly', Bool.or_true, if_true]
  · intro t p s v u hv hup hlate hu hother
    refine (execPeerConnectionTimeout_down hv hup hlate hu).trans ?_
    rw [if_pos hother]
  · intro t p s v u hv hup hlate hu hother
    have hnumber : v.ports.peer.number = u.ports.peer.number := by rw [hu]; rfl
    refine (execPeerConnectionTimeout_down hv hup hlate hu).trans ?_
    rw [if_neg (Bool.eq_false_iff.1 hother), setRole_alone rfl, hnumber]
    rfl
  · intro t p s v hv
    change execPeerFlitReplay t p s = _
    exact event_runs hv rfl
  · intro t d q s v m u hv hm hfew hu
    subst hu
    change execPeerResendTimeout t d q s = _
    refine event_runs hv ?_
    simp only [hm, hfew, if_true]
  · intro t d q s v m x hv hm hmany hlost hx
    change execPeerResendTimeout t d q s = _
    refine event_runs hv ?_
    simp only [hm, if_neg (Nat.not_lt.2 hmany), unreachable, hlost, if_true, hx]

end Sys2Proof.Proofs
end

section
/-!
Proof of the statement about cross-device time (O57).
-/
namespace Sys2Proof.Proofs
open Sys2Proof Sys2Proof.Machine Sys2Proof.Laws

/-- A follower that has locked before measures the answer to its open request, and steps nothing (R75, R718). -/
theorem syncAnswer_measured {s v : State} {t p : Nat} {h : List Word} {b : Bytes} {u : State} {r : Nat × Nat} (hu : advance s t = u)
    (hruns : mainRuns u = true) (hwhole : intact h b = true) (htype : pmType h = 6) (hv : senderHeard (flitHeard u p) p h = v)
    (hdst : pmDst h = ownNumber u) (hr : v.sync.request = some r) (hrole : v.sync.role = 2)
    (hsrc : pmSrc h = v.sync.masterPeer.toNat) (hlen : b.length = 32) (hstamp : numAt b 0 8 = r.2) (hlocked : v.sync.everLocked = true) :
    execSyncRespRx t p h b s = .next (measured v
      (syncOffset r.2 (numAt b 8 8) (numAt b 16 8) (now v) (numAt b 24 8) (pmOffset h))) := by
  refine message_runs hu hruns hwhole htype (by decide) (by decide) hv hdst ?_
  have hknown : ∀ o, (measured v o).sync.everLocked = true := fun _ => hlocked
  simp only [hr, hrole, hsrc, hlen, hstamp, hknown, ne_eq, not_true_eq_false, or_self, Bool.not_true, Bool.false_and, Bool.false_eq_true,
    if_false]

/-- Settles O57: each clause is the branch of its event that the hypotheses select. The form and the rounding of an exchange, and the fields
of the record of a lost lock, are the model's choices (log entries 89 and 113). -/
theorem crossDeviceTime : Obligations.CrossDeviceTime := by
  refine ⟨?_, ?_, ?_, ?_, ?_, ?_, ?_⟩
  · intro t s v hv hruns hrole
    change execSyncExchangeTimer t s = _
    refine event_runs hv ?_
    simp only [hruns, hrole, bne_self_eq_false, Bool.not_true, Bool.or_self, Bool.false_eq_true, if_false]
    rfl
  · intro t p h b d s u v hu hruns hwhole htype hv hdst hrole
    have hnow : now v = v.phase.gtc := rfl
    change execSyncReqRx t p h b d s = _
    refine message_runs hu hruns hwhole htype (by decide) (by decide) hv hdst ?_
    simp only [hrole, hnow, ne_eq, not_true_eq_false, if_false]
  · intro t p h b s u v r hu hruns hwhole htype hv hdst hr hrole hsrc hlen hstamp hlocked
    exact syncAnswer_measured hu hruns hwhole htype hv hdst hr hrole hsrc hlen hstamp hlocked
  · intro t s v hv hrole hfree hsound hgood hlocked
    change execSyncLockAcquired t s = _
    refine event_runs hv ?_
    simp only [hrole, hfree, hsound, hlocked, Nat.not_lt.2 hgood, ne_eq, not_true_eq_false,
      Bool.false_eq_true, or_self, true_or, if_false, if_true]
  · intro t s v hv h
    change execSyncLockAcquired t s = _
    refine event_runs hv ?_
    refine if_pos ?_
    rcases h with h | h | h
    · exact Or.inl h
    · exact Or.inr (Or.inr (Or.inr h))
    · exact Or.inr (Or.inr (Or.inl h))
  · intro t s v hv hlocked hbad
    change execSyncLockLost t s = _
    refine event_runs hv ?_
    exact if_pos ⟨hlocked, hbad⟩
  · intro t s n hn
    change execGtcHoldEnd t s = _
    simp only [execGtcHoldEnd, hn]
    rfl

end Sys2Proof.Proofs
end

section
/-!
Proof of the statement about the interface commands (O58).
-/
namespace Sys2Proof.Proofs
open Sys2Proof Sys2Proof.Machine Sys2Proof.Laws

/-- A network image puts the network in force with no connection faulted (R691, R693). -/
theorem startNet_image {s : State} {b : Bytes} (h : b ≠ []) :
    startNet s b = { s with ports := { s.ports with mnet := { s.ports.mnet with image := b, running := true, faulted := [] } } } := by
  simp only [startNet, List.isEmpty_eq_false_iff.2 h, Bool.not_false, Bool.false_eq_true, if_false]

/-- Settles O58: each clause is the branch of its command that the hypotheses select. That ENC_CONFIG keeps the count in the same mode alone
is the model's choice (log entry 84). -/
theorem interfaceCommandsComplete : Obligations.InterfaceCommandsComplete := by
  refine ⟨?_, ?_, ?_, ?_, ?_⟩
  · intro t c sel w off s v u hv hok hu
    change execIfStatus t c sel w off s = _
    refine host_runs hv hok ?_
    exact writeReply_ok hu
  · intro t c n w off s v b hv hread hok hkind hring
    have hsame : ¬ (sdKind (getStream v n.toNat).desc ≠ 0 ∧ sdKind (toWords 8 b) ≠ 0
        ∧ (sdKind (toWords 8 b) ≠ sdKind (getStream v n.toNat).desc
          ∨ sdPort (toWords 8 b) ≠ sdPort (getStream v n.toNat).desc)) := by
      rintro ⟨hold, hnew, hdiffer⟩
      rcases hkind with h | h | ⟨hk, hp⟩
      · exact hold h
      · exact hnew h
      · exact hdiffer.elim (fun h => h hk) (fun h => h hp)
    have hinside : ¬ (sdKind (toWords 8 b) ≠ 0 ∧ (!inEnvelope v (sessionOf v c) (sdRing (toWords 8 b))
        (sdSlots (toWords 8 b) * sdSlotBytes (toWords 8 b))) = true) := by
      rintro ⟨hne, hout⟩
      rcases hring with h | h
      · exact hne h
      · rw [h] at hout
        exact Bool.false_ne_true hout
    change execIngressConfig t c n w off s = _
    refine host_runs hv rfl ?_
    rw [hread]
    refine (if_neg (by rw [hok]; exact Bool.false_ne_true)).trans ?_
    exact (if_neg hsame).trans (if_neg hinside)
  · intro t c n mode rate pos trig s v hv hok hfree
    change execEncConfig t c n mode rate pos trig s = _
    refine host_runs hv hok ?_
    exact if_neg (Bool.eq_false_iff.1 hfree)
  · intro t c n mode rate pos trig s v hv hok hused
    change execEncConfig t c n mode rate pos trig s = _
    refine host_runs hv hok ?_
    exact if_pos hused
  · intro t c w off len found s v b hv hread hquiet hok hfits hfound hne
    have hidle : v.servo.channels.any (fun x => x.st != .disabled) = false := by
      rw [List.any_eq_false]
      intro x hx
      simpa using List.all_eq_true.1 hquiet x hx
    have hfits' : ¬ (v.servo.net.tCyc ≠ 0 ∧ (!tripFits b v.servo.net.txShift v.servo.net.rxBound) = true) := by
      rintro ⟨hrun, hnot⟩
      rcases hfits with h | h
      · exact hrun h
      · rw [h] at hnot
        exact Bool.false_ne_true hnot
    change execMnetConfig t c w off len found s = _
    refine host_runs hv rfl ?_
    rw [hread]
    refine (if_neg (Bool.eq_false_iff.1 hidle)).trans ?_
    refine (if_neg (by rw [hok]; exact Bool.false_ne_true)).trans ?_
    refine (if_neg hfits').trans ((if_neg (Classical.not_not.2 hfound)).trans ?_)
    rw [startNet_image hne]

end Sys2Proof.Proofs
end

section
/-!
Proof of the statement about the CAN FD ports (O59).
-/
namespace Sys2Proof.Proofs
open Sys2Proof Sys2Proof.Machine Sys2Proof.Laws

/-- A frame of a kind that the port may carry (R697). -/
theorem fdRefused_false {fd on : Bool} (h : fd = false ∨ on = true) : (fd && !on) = false := by
  rcases h with h | h
  · rw [h, Bool.false_and]
  · rw [h, Bool.not_true, Bool.and_false]

/-- A frame that a running port accepts is counted; its record goes to the ring while the firmware is ready (R698). -/
theorem execCanFrameRx_accepted {t n : Nat} {ident : BitVec 29} {ext fd brs : Bool} {data : Bytes} {s v u : State}
    (hv : advance s t = v) (hruns : canRuns (getCan v n) = true) (hon : (getCan v n).busOff = false)
    (hfd : fd = false ∨ cbFd (getCan v n).block = true) (haccept : canAccepts (getCan v n).block ident ext = true)
    (hu : u = modCan v n (fun p => { p with received := satInc p.received })) :
    execCanFrameRx t n ident ext fd brs data s = .next (
      if v.hif.fwReady then ringPut u n (canRecord v.phase.shadow ident ext fd brs data)
      else modCan u n (fun p =>
        if p.kept.length < 256 then { p with kept := p.kept ++ [canRecord v.phase.shadow ident ext fd brs data] } else p)) := by
  subst hu
  refine event_runs hv ?_
  simp only [hruns, hon, fdRefused_false hfd, haccept, Bool.not_true, Bool.or_self, Bool.false_eq_true, if_false]

/-- Settles O59: each clause is the branch of its command or event that the hypotheses select. -/
theorem canPortsWork : Obligations.CanPortsWork := by
  refine ⟨?_, ?_, ?_, ?_, ?_, ?_, ?_, ?_⟩
  · intro t c n w off s v h b hv hhead hfew hread hok hring
    have hinside : ¬ (cbEnable b = true ∧ (!inEnvelope v (sessionOf v c) (cbRing b) (80 * cbRecords b)) = true) := by
      rintro ⟨hon, hout⟩
      rcases hring with h | h
      · rw [h] at hon
        exact Bool.false_ne_true hon
      · rw [h] at hout
        exact Bool.false_ne_true hout
    change execCanConfig t c n w off s = _
    refine host_runs hv rfl ?_
    simp only [hhead, if_neg (Nat.not_lt.2 hfew), hread, hok, orFail_ok, Bool.not_true, Bool.false_eq_true, if_false]
    exact if_neg hinside
  · intro t c n ident ext fd brs len data point s v hv hok hnone
    change execCanSend t c n ident ext fd brs len data point s = _
    refine host_runs hv hok ?_
    simp only [hnone]
  · intro t k s v hv
    change execCanSendMatch t k s = _
    exact event_runs hv rfl
  · intro t n s v f u hv hf hruns htalks hon hfd hu
    subst hu
    change execCanFrameSent t n s = _
    refine event_runs hv ?_
    simp only [hf, hruns, htalks, hon, fdRefused_false hfd, Bool.not_true, Bool.or_self, Bool.false_eq_true, if_false]
    rfl
  · intro t n ident ext fd brs data s v u hv hruns hon hfd haccept hu hready
    refine (execCanFrameRx_accepted hv hruns hon hfd haccept hu).trans ?_
    rw [if_pos hready]
  · intro t n ident ext fd brs data s v u hv hruns hon hfd haccept hu hdown
    refine (execCanFrameRx_accepted hv hruns hon hfd haccept hu).trans ?_
    rw [if_neg (Bool.eq_false_iff.1 hdown)]
  · intro t n s v hv
    change execCanBusOff t n s = _
    exact event_runs hv rfl
  · intro t n s v hv
    change execCanBusOffRecovery t n s = _
    exact event_runs hv rfl

end Sys2Proof.Proofs
end

section
/-!
Proof of the statement about the ingress frames and fragments, 802.1AS time and gate control (O60).
-/
namespace Sys2Proof.Proofs
open Sys2Proof Sys2Proof.Machine Sys2Proof.Laws

/-- The frame of a stream at the end of a CSI-2 frame on port `p` and virtual channel `vc` (R684). -/
def csi2Take (p vc : Nat) (packets : List (Nat × Bytes)) (s : State) (n : Nat) : State :=
  if sdKind (getStream s n).desc = 1 ∧ sdPort (getStream s n).desc = p ∧ sdVc (getStream s n).desc = vc then
    takeFrame s n ((packets.find? (fun p => p.1 == 0x12)).map (fun p => p.2.take 32))
      ((packets.filter (fun q => q.1 == sdType (getStream s n).desc)).flatMap (·.2))
  else s

/-- CSI2_FRAME_END gives the streams their frames in turn. -/
theorem execCsi2FrameEnd_folds {t p vc : Nat} {packets : List (Nat × Bytes)} {s v : State} (hv : advance s t = v)
    (hruns : mainRuns v = true) :
    execCsi2FrameEnd t p vc packets s = .next ((List.range 64).foldl (csi2Take p vc packets) v) := by
  have hstep : (fun (s : State) (n : Nat) =>
      if sdKind (getStream s n).desc ≠ 1 ∨ sdPort (getStream s n).desc ≠ p ∨ sdVc (getStream s n).desc ≠ vc then s
      else takeFrame s n ((packets.find? (fun p => p.1 == 0x12)).map (fun p => p.2.take 32))
        ((packets.filter (fun q => q.1 == sdType (getStream s n).desc)).flatMap (·.2))) = csi2Take p vc packets := by
    funext s n
    unfold csi2Take
    have hother : (sdKind (getStream s n).desc ≠ 1 ∨ sdPort (getStream s n).desc ≠ p ∨ sdVc (getStream s n).desc ≠ vc) ↔
        ¬ (sdKind (getStream s n).desc = 1 ∧ sdPort (getStream s n).desc = p ∧ sdVc (getStream s n).desc = vc) := by
      rw [Classical.not_and_iff_not_or_not, Classical.not_and_iff_not_or_not]
    simp only [hother, ite_not]
  refine event_runs hv ?_
  dsimp only
  rw [hruns, hstep]
  rfl

/-- A fragment of a stream of its MAC and UDP port goes to the stream's reassembly (R685, R686). -/
theorem execEthFragment_taken {t mac n : Nat} {udp : BitVec 16} {data : Bytes} {s v : State} (hv : advance s t = v)
    (hruns : mainRuns v = true) (hlen : 16 ≤ data.length) (hversion : fld (wordAt data 0) 31 24 = 1)
    (hn : n = fld (wordAt data 0) 23 18) (hkind : sdKind (getStream v n).desc = 2) (hport : sdPort (getStream v n).desc = mac)
    (hudp : sdUdp (getStream v n).desc = udp.toNat) :
    execEthFragment t mac udp data s = .next (takeFragment v n (fld (wordAt data 1) 31 16) (fld (wordAt data 0) 15 0)
      (wbit (wordAt data 1) 15) (data.drop 16)) := by
  refine event_runs hv ?_
  simp only [hruns, decide_eq_false (Nat.not_lt.2 hlen), hversion, ← hn, hkind, hport, hudp, bne_self_eq_false, Bool.not_true,
    Bool.or_self, Bool.false_eq_true, if_false]

/-- Settles O60: each clause is the branch of its event that the hypotheses select. -/
theorem ingressEventsAct : Obligations.IngressEventsAct := by
  refine ⟨?_, ?_, ?_, ?_, ?_, ?_, ?_⟩
  · intro t p vc packets s v hv hruns hnone
    change execCsi2FrameEnd t p vc packets s = _
    rw [execCsi2FrameEnd_folds hv hruns, foldl_unchanged]
    intro n hn
    exact if_neg fun h => hnone n (List.mem_range.1 hn) h.1
  · intro t p vc packets s v hv hruns
    change execCsi2FrameEnd t p vc packets s = _
    exact execCsi2FrameEnd_folds hv hruns
  · intro t mac udp data s v n hv hruns hlen hversion hn hkind hport hudp hidle hfirst hmore
    refine (execEthFragment_taken hv hruns hlen hversion hn hkind hport hudp).trans ?_
    simp only [takeFragment, hidle, hfirst, hmore, beginFrame, Bool.false_eq_true, if_false, if_true]
    rfl
  · intro t mac udp data s v n a hv hruns hlen hversion hn hkind hport hudp hbegun hnext hindex hlow hmore
    have hlater : ¬ fld (wordAt data 0) 15 0 = 0 := by rw [hindex]; exact hnext
    refine (execEthFragment_taken hv hruns hlen hversion hn hkind hport hudp).trans ?_
    simp only [takeFragment, hbegun, hnext, hindex, hlow, hmore, ne_eq, not_true_eq_false, or_self, Bool.not_false, if_false, if_true]
  · intro t mac x s v hv
    change execGptpMessageRx t mac x false s = _
    exact event_runs hv rfl
  · intro t mac x s v u hv hu
    subst hu
    change execGptpMessageRx t mac x true s = _
    exact event_runs hv rfl
  · intro t mac s v hv
    change execGateControlIntervalEnd t mac s = _
    exact event_runs hv rfl

end Sys2Proof.Proofs
end
